-- ==== Sys2Proof/Word.lean ====
section
/-! DEFINITION. Bytes and words of the module, and the sparse table that every numbered group of parts uses. -/
namespace Sys2Proof

/-- One byte of any memory of the module (00 R6). -/
abbrev Byte := BitVec 8
/-- A 32-bit word: hurdle counters, binary32 values, cell storage. -/
abbrev W32 := BitVec 32
/-- A 64-bit word: scalar registers, register region words. -/
abbrev W64 := BitVec 64

/-- A numbered group of parts, sparse: a number not listed has the value the reader names. -/
abbrev Table (α : Type) := List (Nat × α)

/-- The part numbered `k`, or `d` where it is not listed. -/
def Table.get {α : Type} (d : α) : Table α → Nat → α
  | [], _ => d
  | (j, a) :: t, k => if j = k then a else Table.get d t k

/-- The group with the part numbered `k` set to `v`; numbers stay in rising order. -/
def Table.set {α : Type} : Table α → Nat → α → Table α
  | [], k, v => [(k, v)]
  | (j, a) :: t, k, v =>
    if k < j then (k, v) :: (j, a) :: t
    else if k = j then (k, v) :: t
    else (j, a) :: Table.set t k v

/-- The group with the part numbered `k` changed by `f`. -/
def Table.upd {α : Type} (d : α) (m : Table α) (k : Nat) (f : α → α) : Table α :=
  m.set k (f (m.get d k))

/-- The group without the part numbered `k`. -/
def Table.drop {α : Type} (m : Table α) (k : Nat) : Table α := m.filter (fun e => e.1 ≠ k)

/-- `n` bytes of the number `v`, least significant first (00 R6). -/
def leBytes : Nat → Nat → List Byte
  | 0, _ => []
  | n + 1, v => BitVec.ofNat 8 v :: leBytes n (v / 256)

/-- The number whose little-endian bytes are the list (00 R6). -/
def ofLe : List Byte → Nat
  | [] => 0
  | b :: t => b.toNat + 256 * ofLe t

/-- Bits `hi` down to `lo` of a number, as a number (00 R6). -/
def bits (v hi lo : Nat) : Nat := v / 2 ^ lo % 2 ^ (hi + 1 - lo)

/-- Bit `i` of a number. -/
def bitOf (v i : Nat) : Bool := v / 2 ^ i % 2 == 1

/-- A Boolean as the number 0 or 1. -/
def b2n (b : Bool) : Nat := if b then 1 else 0

/-- A number with bits `hi` down to `lo` replaced by the low bits of `x`. -/
def setBits (v hi lo x : Nat) : Nat :=
  v - bits v hi lo * 2 ^ lo + x % 2 ^ (hi + 1 - lo) * 2 ^ lo

end Sys2Proof
end

