-- ==== Sys2Proof/Types.lean ====
section
/-! DEFINITION. The kinds of operands that commands carry: lanes, operation fields, the decoded course
image, wrapped keys, messages of the links and records of the management interface. -/
namespace Sys2Proof

/-- A lane of the Relay Ring; code 0 inner, 1 outer (02 R47, 06 R225). -/
inductive Lane where
  | inner | outer
deriving DecidableEq, Repr

/-- The lane's code. -/
def Lane.code : Lane → Nat
  | .inner => 0
  | .outer => 1

/-- The number formats and their codes 0x0 to 0xA (04 R143). -/
inductive Fmt where
  | fp32 | bf16 | fp16 | e4m3 | e5m2 | e3m2 | e2m3 | e2m1 | int8 | e8m0 | pb32
deriving DecidableEq, Repr

/-- Format codes; 0xB to 0xF are not formats (04 R143). -/
def Fmt.ofCode : Nat → Option Fmt
  | 0 => some .fp32 | 1 => some .bf16 | 2 => some .fp16 | 3 => some .e4m3 | 4 => some .e5m2
  | 5 => some .e3m2 | 6 => some .e2m3 | 7 => some .e2m1 | 8 => some .int8 | 9 => some .e8m0
  | 10 => some .pb32 | _ => none

/-- Which queue pair and command identifier a host command answers to (13 R438, R442). -/
structure Src where
  qp : Nat
  cid : Nat
deriving DecidableEq, Repr

/-- Pass modes of an MSET (03 R104, R124). -/
inductive Pass where
  | single | pair | split3 | cplx3 | cplx4
deriving DecidableEq, Repr

/-- Pass-mode codes; 5 to 7 are invalid (03 R104). -/
def Pass.ofCode : Nat → Option Pass
  | 0 => some .single | 1 => some .pair | 2 => some .split3 | 3 => some .cplx3 | 4 => some .cplx4
  | _ => none

/-- Source of a feeder: inner lane, outer lane or pocket (06 R229). -/
inductive Feed where
  | inner | outer | pocket
deriving DecidableEq, Repr

/-- The fields of an MSET (03 R104, 06 R229); registers by number. -/
structure MsetF where
  pass : Pass
  srcCol : Feed
  srcRow : Feed
  transCol : Bool := false
  transRow : Bool := false
  fmtCol : Nat := 0
  fmtRow : Nat := 0
  scaledCol : Bool := false
  scaledRow : Bool := false
  baseCol : Nat := 0
  baseRow : Nat := 0
  strideCol : Nat := 0
  strideRow : Nat := 0
  maskEn : Bool := false
  blkQ : Nat := 0
deriving DecidableEq, Repr

/-- The fields of a MAC (03 R105). -/
structure MacF where
  acc : Nat := 0
  clear : Bool := false
  bufCol : Nat := 0
  bufRow : Nat := 0
deriving DecidableEq, Repr

/-- The fields of a DRAIN (03 R106, 06 R229). -/
structure DrainF where
  acc : Nat := 0
  dest : Nat := 0
  addr : Nat := 0
  lane : Lane := .inner
  buf : Nat := 0
  fmtOut : Nat := 0
  scaledOut : Bool := false
  stoch : Bool := false
  propagate : Bool := false
  scaleEn : Bool := false
  scale : Nat := 0
  groupEn : Bool := false
  group : Nat := 0
deriving DecidableEq, Repr

/-- The fields of a CVT (06 R230). -/
structure CvtF where
  dst : Nat
  src : Nat
  count : Nat
  fmtIn : Nat
  scaledIn : Bool := false
  fmtOut : Nat
  scaledOut : Bool := false
  stoch : Bool := false
  propagate : Bool := false
deriving DecidableEq, Repr

/-- The fields of a MOVE (06 R230); `buf` is `none` for a pocket source. -/
structure MoveF where
  buf : Option (Lane × Nat)
  dst : Nat
  src : Nat
  count : Nat
deriving DecidableEq, Repr

/-- Scope of a hurdle counter (06 R235, 08 R300). -/
inductive Scope where
  | core | cluster | die | module
deriving DecidableEq, Repr

/-- Scope codes (08 R300). -/
def Scope.ofCode : Nat → Scope
  | 0 => .core | 1 => .cluster | 2 => .die | _ => .module

/-- A hurdle counter of one module by its owner and index (08 R300, R303). -/
inductive Ctr where
  | core (station index : Nat)
  | cluster (cluster index : Nat)
  | die (die index : Nat)
  | module (index : Nat)
deriving DecidableEq, Repr

/-- A unit that waits on a counter: a station or a cluster's general core. -/
inductive Waiter where
  | station (n : Nat)
  | gc (cluster : Nat)
deriving DecidableEq, Repr

/-- Header of a baton, 256 bits (02 R52); both CRC fields as they stand in it. -/
structure Header where
  tileId : Nat := 0
  fmt : Nat := 0
  scaled : Bool := false
  kind : Nat := 0
  lap : Nat := 0
  hops : Nat := 0
  variant : Nat := 0
  source : Nat := 0
  seq : Nat := 0
  job : Nat := 0
  user : Nat := 0
  payloadCrc : Nat := 0
  hdrCrc : Nat := 0
  reserved : Nat := 0
deriving DecidableEq, Repr

/-- A baton: header, payload bytes by offset with the scale bytes after the payload (unlisted 0, or
free values where `free` names a draw, 02 R76), and the side-wire counts of transfers and landing
buffers (02 R51, R602). -/
structure Baton where
  hdr : Header := {}
  body : Table Byte := []
  free : Option Nat := none
  transfers : Nat := 65
  buffers : Nat := 1
deriving DecidableEq, Repr

/-- Image header fields (13 R451). -/
structure ImageHeader where
  magic : Nat := 0x43584331
  format : Nat := 1
  contract : Nat := 1
  job : Nat := 0
  flags : Nat := 0
  signSlot : Nat := 0
  counter : Nat := 5
  version : Nat := 0
  bodyLength : Nat := 0
  sectionCount : Nat := 0
  moduleId : Nat := 0
  reserved : Nat := 0
deriving DecidableEq, Repr

/-- A section of a course image (13 R452). -/
structure Section where
  type : Nat
  target : Nat
  body : List Byte
deriving DecidableEq, Repr

/-- A window as the course or OPEN_WINDOW gives it (07 R286, R298). -/
structure WinCfg where
  cluster : Nat
  window : Nat
  dir : Nat
  base : Nat
  sizeM1 : Nat
  srcModule : Nat
  srcJob : Nat
deriving DecidableEq, Repr

/-- A port the course declares, with its peer (06 R250, 08 R314). -/
structure PortDecl where
  port : Nat
  peerModule : Nat
  peerPort : Nat
deriving DecidableEq, Repr

/-- Binding of a stream engine: the general core, or a core of the cluster (06 R234). -/
inductive Binding where
  | gc
  | core (k : Nat)
deriving DecidableEq, Repr

/-- Shard kinds (11 R384). -/
inductive ShardKind where
  | update | frozen | vector | replica
deriving DecidableEq, Repr

/-- A shard table entry (11 R384). -/
structure Shard where
  kind : ShardKind
  firstChunk : Nat
  nChunks : Nat
  rec16 : Bool := false
  rule : Nat := 0
  group : Nat := 0
  firstRow : Nat := 0
  lastRow : Nat := 127
  bank0 : Nat := 0
  bank1 : Nat := 0
  outFmt : Nat := 15
  outScaled : Bool := false
  out0 : Nat := 0
  out1 : Nat := 0
  gatherFmt : Nat := 3
  gatherScaled : Bool := false
  gatherList : Option Nat := none
  doneCtr : Nat := 0
  stage : Nat := 0
deriving DecidableEq, Repr

/-- A rule of a gateway: its operation words and constants (11 R391, R392). -/
structure Rule where
  ops : List W32
  k : List W32 := []
  epsInv : W32 := 0
  gScale : W32 := 0x3F800000
deriving DecidableEq, Repr

/-- Comet Watch configuration of a group (11 R404, R412). -/
structure GroupCfg where
  nfAction : Nat := 0
  spikeAction : Nat := 0
  k : Nat := 2
  a : Nat := 1
  warmup : Nat := 0
deriving DecidableEq, Repr

/-- A general core's part of a course: program bytes, entry point and PMP entries (13 R452 type 0x0B). -/
structure GcProg where
  code : List (Nat × List Byte) := []
  entry : Nat := 0
  pmp : List Nat := []
deriving DecidableEq, Repr

/-- The step items that a course names, all 4 or none (11 R399). -/
structure StepItems where
  step : Option Nat := none
  ack : Option Nat := none
  decision : Option Nat := none
  epoch : Option Nat := none
deriving DecidableEq, Repr

/-- A parent in the job-hurdle tree: module, its parent, the port to it (08 R314). -/
structure Parent where
  module : Nat
  parent : Nat
  port : Nat
deriving DecidableEq, Repr

/-- A course image: its header and its body as bytes, the key its signature verifies under, 0 for none, and what the
sections hold whose layout the spec leaves open (13 R451, R452; log 1, 2). -/
structure Image where
  head : List Byte := []
  body : List Byte := []
  signedBy : Nat := 0
  stations : List Nat := []
  splice : Nat := 0
  ceilings : Table Nat := []
  shares : Table Nat := []
  entries : Table Nat := []
  exchange : List (Nat × Nat) := []
  chkEnable : Bool := true
  staticLists : List (Nat × Nat) := []
  storeModes : Table Nat := []
  pktModes : Table Nat := []
  windows : List WinCfg := []
  bindings : Table (Option Binding) := []
  jobHurdles : List Nat := []
  root : Nat := 0
  parents : List Parent := []
  steps : StepItems := {}
  moduleSet : List Nat := []
  ports : List PortDecl := []
  routes : Table (Option Nat) := []
  shards : Table (List Shard) := []
  gathers : Table (List (List (Nat × Nat))) := []
  rules : Table (List Rule) := []
  lossGw : Option Nat := none
  groups : Table (Option GroupCfg) := []
  gcs : Table (Option GcProg) := []
  channels : List Nat := []
  seeds : Table W32 := []
  reserves : List (Nat × Nat) := []
deriving DecidableEq, Repr

/-- COPY parameters (13 R449, R458). -/
structure CopyP where
  host : Nat
  addr : Nat
  length : Nat
  dir : Nat := 0
  crypto : Nat := 0
  slot : Nat := 0
  iv : Nat := 0
  hurdle : Nat := 0
deriving DecidableEq, Repr

/-- What host memory delivers to a COPY: the host bytes in their framing (17 R553; log 4); `dmaError` is an error
completion, a poisoned TLP or a timeout (13 R431). -/
structure CopyIn where
  data : List Byte := []
  dmaError : Bool := false
deriving DecidableEq, Repr

/-- A wrapped key as host memory holds it (17 R548); `dmaError` as in COPY. -/
structure Wrapped where
  bytes : List Byte := []
  dmaError : Bool := false
deriving DecidableEq, Repr

/-- A supplement: its header and its body as bytes (17 R559); `signedBy` as in Image. -/
structure Supplement where
  head : List Byte := []
  body : List Byte := []
  signedBy : Nat := 0
deriving DecidableEq, Repr

/-- An enrollment record: its bytes before the signature, and its whole length (18 R582); `signedBy` as in Image. -/
structure EnrollRec where
  bytes : List Byte := []
  signedBy : Nat := 0
  length : Nat := 29888
deriving DecidableEq, Repr

/-- An unlock token: its bytes before the signature, and its whole length (18 R583); `signedBy` as in Image. -/
structure Token where
  bytes : List Byte := []
  signedBy : Nat := 0
  length : Nat := 29824
deriving DecidableEq, Repr

/-- A message of the handoff links: header fields and data (10 R372). `want` is the number of bytes that a
WIN_READ asks for, for which its header names no place (log 21). -/
structure Msg where
  mtype : Nat := 1
  dst : Nat := 0
  src : Nat := 0
  fmt : Nat := 0
  scaled : Bool := false
  tag : Nat := 0
  job : Nat := 0
  run : Nat := 0
  step : Nat := 0
  length : Nat := 0
  target : Nat := 0
  data : List Byte := []
  want : Nat := 0
deriving DecidableEq, Repr

/-- A link hurdle message (10 R375). -/
structure HurMsg where
  address : Nat := 0
  value : Nat := 0
  job : Nat := 0
  run : Nat := 0
  kind : Nat := 0
  reserved : Nat := 0
deriving DecidableEq, Repr

/-- A flit before it takes its link word: type, class, destination, originator, job and its body of 224 bytes in plain
text (10 R361, R362). -/
structure Flit where
  type : Nat := 0
  cls : Nat := 0
  dst : Nat := 0
  src : Nat := 0
  job : Nat := 0
  body : List Byte := []
deriving DecidableEq, Repr

/-- A link word by its fields (10 R362). -/
structure LinkWord where
  seq : Nat := 0
  ack : Nat := 0
  nak : Bool := false
  type : Nat := 0
  cls : Nat := 0
  dst : Nat := 0
  src : Nat := 0
  cr0 : Nat := 0
  cr1 : Nat := 0
  reserved : Nat := 0
  job : Nat := 0
deriving DecidableEq, Repr

/-- Kinds of general-core access (06 R255, 09 R340): an integer or vector load, a store. -/
inductive GcOp where
  | load (rd : Nat) (signed : Bool)
  | store (rs : Nat)
  | fload (rd : Nat)
  | fstore (rs : Nat)
  | vload (vd : Nat)
  | vstore (vs : Nat)
deriving DecidableEq, Repr

/-- A request that reaches a window's check: up to 256 bytes (07 R288). -/
structure WinReq where
  cluster : Nat
  window : Nat
  write : Bool
  srcModule : Nat
  srcJob : Nat
  offset : Nat
  length : Nat
  data : List Byte := []
deriving DecidableEq, Repr

/-- West or east half of the module (01 R21). -/
inductive Half where
  | west | east
deriving DecidableEq, Repr

/-- Clock sources (14 R471). -/
inductive ClockSrc where
  | refclk | xtal
deriving DecidableEq, Repr

end Sys2Proof
end

