-- ==== Sys2Proof/Syntax.lean ====
section
/-! DEFINITION. The commands of the module: one constructor per row of the opcode table. -/
namespace Sys2Proof

/-- The commands and events of the opcode table, with their operands. A `src` names the queue pair and
command identifier a host command answers to; `n` is a station, `g` a cluster (12 × die + cluster), `a`
an array, `p` a port, `gw` a gateway; registers go by number. -/
inductive Instr where
  | identify (src : Src) (addr : Nat)
  | loadCourse (src : Src) (addr len : Nat) (img : Image) (dmaError : Bool)
  | openWindow (src : Src) (cfg : WinCfg)
  | closeWindow (src : Src) (cluster window : Nat)
  | closeWindowDone (src : Src) (cluster window : Nat)
  | run (src : Src)
  | runStart
  | runComplete
  | halt (src : Src)
  | copy (src : Src) (p : CopyP) (inp : CopyIn)
  | provisionKey (src : Src) (addr len slot kind : Nat) (w : Wrapped)
  | attest (src : Src) (nonce : List Byte) (addr len : Nat)
  | snapshot (src : Src) (dest limit kind fmt : Nat) (scaled : Bool) (mask : Nat)
  | snapshotChunkRead (gw chunk : Nat)
  | dumpTake (src : Src) (addr : Nat)
  | dumpCopyLast (src : Src) (addr : Nat)
  | selftestUnit (src : Src) (kind index : Nat)
  | selftestModule (src : Src)
  | setBudget (src : Src) (cap : Nat)
  | endJob (src : Src)
  | readTelemetry (src : Src) (addr page : Nat)
  | vaultRead (src : Src) (addr offset len area : Nat)
  | setWatch (src : Src) (group : Nat) (cfg : GroupCfg) (clearFrozen : Nat)
  | setClockPolicy (src : Src) (scope mode mhz : Nat)
  | armOffload (src : Src) (channel addr size : Nat)
  | readFaultMap (src : Src) (addr len : Nat)
  | linkDisable (src : Src) (port : Nat)
  | linkEnable (src : Src) (port : Nat)
  | linkRetrain (src : Src) (port : Nat)
  | linkStatus (src : Src) (port : Nat)
  | linkLoopback (src : Src) (port : Nat)
  | loadSupplement (src : Src) (addr len : Nat) (supp : Supplement) (dmaError : Bool)
  | sqEntryTake (qp : Nat) (entry : List Byte)
  | cmdSqTail (qp value : Nat)
  | cmdCqHead (qp value : Nat)
  | cmdEvtHead (value : Nat)
  | qpEnable (qp : Nat)
  | qpDisable (qp : Nat)
  | evtRingEnable
  | warmReset (value : Nat)
  | registerWrite (offset size value : Nat) (poisoned : Bool)
  | rcRead (offset size : Nat)
  | bar2Read (offset len : Nat)
  | bar2Write (offset : Nat) (data : List Byte) (poisoned : Bool)
  | eventRecordWrite
  | msiXSend (vector : Nat)
  | hostLinkDown
  | pcieLinkUp (speed width : Nat) (flit : Bool)
  | send (n : Nat) (srcLane : Lane) (srcBuf : Nat) (outLane : Lane) (dstBuf : Nat)
  | sendQueuedStart (n : Nat) (outLane : Lane)
  | free (n : Nat) (inner outer : Nat)
  | mset (n a : Nat) (f : MsetF)
  | mac (n a : Nat) (f : MacF)
  | drain (n a : Nat) (f : DrainF)
  | drainComplete (n a : Nat)
  | rowSweep (n a : Nat)
  | mask (n a target rs : Nat)
  | hdrld (n rd : Nat) (lane : Lane) (buf sel : Nat)
  | ld (n rd base : Nat) (offset : Int)
  | st (n rs base : Nat) (offset : Int)
  | move (n : Nat) (f : MoveF)
  | cvt (n : Nat) (f : CvtF)
  | moveUnitStart (n : Nat)
  | strm (n engine raddr rcount : Nat)
  | rearm (n engine rbase : Nat)
  | seed (n rs : Nat)
  | nop (n : Nat)
  | add (n rd rs1 rs2 : Nat)
  | sub (n rd rs1 rs2 : Nat)
  | and (n rd rs1 rs2 : Nat)
  | or (n rd rs1 rs2 : Nat)
  | xor (n rd rs1 rs2 : Nat)
  | sll (n rd rs1 rs2 : Nat)
  | srl (n rd rs1 rs2 : Nat)
  | sra (n rd rs1 rs2 : Nat)
  | addi (n rd rs1 : Nat) (imm : Int)
  | li (n rd : Nat) (imm : Int)
  | lih (n rd : Nat) (imm : Nat)
  | mul (n rd rs1 rs2 : Nat)
  | cmp (n pd rs1 rs2 cond : Nat)
  | plog (n pd pa pb fn : Nat)
  | br (n target : Nat)
  | loop (n lc rs1 last : Nat)
  | stationHalt (n : Nat)
  | arrive (n : Nat) (scope : Scope) (index rs : Nat) (one : Bool)
  | wait (n : Nat) (scope : Scope) (index rs : Nat) (long : Bool)
  | signal (n raddr rs : Nat) (one : Bool)
  | borrow (n tokens len : Nat)
  | borrowGrant (g : Nat)
  | borrowWindowEnd (g : Nat) (station : Nat)
  | eclipseEnter (n : Nat)
  | hurEclipseHeadroom (g : Nat)
  | pwrTokenOver (g : Nat)
  | xharrive (g rs1 rs2 : Nat)
  | xhwait (g rd rs1 rs2 : Nat) (long : Bool)
  | xhsignal (g rs1 rs2 : Nat)
  | xstrm (g rd rs1 rs2 : Nat)
  | xrearm (g rs1 rs2 : Nat)
  | xpld (g vd rs1 rs2 fmt : Nat) (scaled trans : Bool)
  | xpst (g vs rs1 rs2 fmt : Nat) (scaled trans prop : Bool)
  | xhread (g rd rs1 : Nat)
  | gcRunEndEcall (g : Nat)
  | invspd (g : Nat) (retries : Nat)
  | gcException (g cause : Nat)
  | headerTransferArrive (n : Nat) (lane : Lane)
  | batonWaitEnd (n : Nat) (lane : Lane)
  | batonLanded (n : Nat) (lane : Lane) (buf : Nat)
  | transferRetransmit (n : Nat) (lane : Lane) (i k : Nat) (got : List Byte) (crc : Nat)
  | ringReplayFail (n : Nat) (lane : Lane)
  | fabricRetransmit (window edge cluster : Nat) (again : Bool) (got : List Byte) (crc : Nat)
  | ringFabReplayFail (window edge cluster : Nat)
  | descriptorBurstFetch (g e : Nat)
  | descriptorStart (g e : Nat)
  | lbInject (g e : Nat)
  | descriptorComplete (g e : Nat)
  | strTimeout (g e : Nat)
  | strmPendingStart (g e : Nat)
  | winRequestCheck (req : WinReq)
  | offloadPrefetchVerify (g e : Nat) (data : List Byte)
  | oflHostError (g e : Nat)
  | bankWake (bank : Nat)
  | bankRetainTimeout (bank : Nat)
  | hurdleAddApply (i : Nat)
  | hurdleNodeForward (node : Nat)
  | hurdleValueUpdate (i : Nat)
  | waitRelease (w : Waiter)
  | jobHurdleRootApply (index : Nat)
  | jobHurdleValueArrive (index : Nat)
  | signalNetResend (node : Nat) (got : List Byte) (crc : Nat)
  | hurNetFail (node : Nat)
  | hurWatchdog (w : Waiter)
  | hurDumpDone
  | correctedWriteBack (i : Nat)
  | patrolScrubRead (unit : Nat)
  | dramRefresh (unit : Nat)
  | memRefreshRaised (unit temp : Nat)
  | portUp (p peerModule peerPort : Nat)
  | hofTrainFail (p : Nat)
  | portTrainRetry (p : Nat)
  | hofPortDown (p : Nat)
  | flitSlot (p : Nat)
  | flitReceive (p space counter : Nat) (bytes : List Byte)
  | flitResend (p space seq : Nat)
  | ackTimeout (p space : Nat)
  | hofRetryExhausted (p space : Nat)
  | controlFlit (p : Nat) (bytes : List Byte)
  | signalFlit (p : Nat) (ms : List HurMsg)
  | winWrite (p : Nat) (m : Msg)
  | winRead (p : Nat) (m : Msg)
  | readData (p : Nat) (m : Msg)
  | winReply (p : Nat) (m : Msg)
  | chunkGrad (gw : Nat) (m : Msg)
  | chunkGather (gw : Nat) (m : Msg)
  | chunkReply (p : Nat) (m : Msg)
  | chunkTake (gw : Nat)
  | updateGroup (gw : Nat)
  | chunkApplied (gw : Nat)
  | lossReport (gw : Nat) (m : Msg)
  | engineFinished (gw : Nat)
  | coordinatorVote
  | stepDecision
  | stepAckDone
  | clockSourceStable (src : ClockSrc)
  | missingEdge (src : ClockSrc)
  | clkRefLoss
  | clkRefRestored
  | clkXtalLoss
  | clockLossRestart
  | rampStep (g : Nat)
  | pacerTargetUpdate (g : Nat)
  | droopStretch (g depth : Nat)
  | pacThermal (g : Nat) (temp : Nat)
  | pacTimingFloor (g : Nat)
  | pwrSupplyWarn (mv : Nat)
  | supplyRiseHoldStart (mv : Nat)
  | pwrSupplyClear
  | supplyReset (mv : Nat)
  | pwrOvervoltage (mv : Nat)
  | overvoltageShutdown (mv : Nat)
  | budgetSample (mv ca p10 p1000 west10 west1000 east10 east1000 : Nat)
  | budgetGrantRaise
  | budgetGrantLower
  | pwrAlert
  | alertRelease
  | thermalTrip (sensor temp : Nat)
  | regulatorStart (mv : Nat)
  | railGroupGood
  | railFailure
  | railRetry
  | powerUp
  | fixedDomainStart
  | romBoot (hd0Good hd1Good : Bool)
  | vaultRecovery
  | memoryTraining (failed : List Nat)
  | powerupZeroiseDone (lpddr : Bool)
  | powerupSelftest
  | commandProcessorOpen
  | ready
  | perstNAssert
  | perstNDeassert
  | faultStop
  | selftestRun
  | ctlMoonLockstep (die pair : Nat)
  | ctlSupervisorLockstep
  | ctlFailoverDone
  | vaultTransaction
  | eventLogCommit
  | lifetimeTelemetryCommit
  | pldmSensorUpdate (readings : List (Nat × Int))
  | entdaa (addr : Nat)
  | setdasa (addr : Nat)
  | rstdaa
  | setEndpointId (op eid : Nat)
  | getEndpointId
  | getMctpVersionSupport (msgType : Nat)
  | getMessageTypeSupport
  | getTid
  | setTid (tid : Nat)
  | getPldmVersion (handle flag type : Nat)
  | getPldmTypes
  | getPldmCommands (type version : Nat)
  | getPdrRepositoryInfo
  | getPdr (record handle flag count : Nat)
  | getSensorReading (sensor : Nat) (rearm : Bool)
  | getStateSensorReadings (sensor : Nat)
  | getSensorThresholds (sensor : Nat)
  | enroll (rec : EnrollRec)
  | unlock (tok : Token)
  | mgtVaultRead (offset len area : Nat)
  | supplyFallDuringHold (mv : Nat)
  | refreshRateLowered (unit temp : Nat)
  | generalCoreLoadStore (g : Nat) (op : GcOp) (addr size : Nat)
deriving DecidableEq, Repr

end Sys2Proof
end

