-- ==== Sys2Proof/Decode.lean ====
section
/-! DEFINITION. Commands from words of the opcode table. The table gives its rows no bits: commands reach the module
as submission entries, register accesses, flits and events, whose contents are their operands (log 9). -/
namespace Sys2Proof

/-- The command that a word spells by the table's bits; the table gives no row bits, so no word spells one. -/
def decodeTableWord (_nbits _w : Nat) : Option Instr := none

end Sys2Proof
end

