-- ==== Sys2Proof/Machine/Crc.lean ====
section
/-! DEFINITION. The CRC-32 of IEEE 802.3, the CRC-16 and CRC-8 of hops, and baton headers as words (02). -/
namespace Sys2Proof.Machine
open Sys2Proof

/-- Eight shifts of the reflected CRC-32 register (02 R53). -/
def crcShift : Nat → W32 → W32
  | 0, c => c
  | n + 1, c => crcShift n (if c.toNat % 2 = 1 then (c >>> 1) ^^^ 0xEDB88320#32 else c >>> 1)

/-- One byte into the CRC-32 register. -/
def crcByte (c : W32) (b : Byte) : W32 := crcShift 8 (c ^^^ b.setWidth 32)

/-- The CRC-32 of bytes in increasing address order (02 R53). -/
def crc32 (bs : List Byte) : Nat := (bs.foldl crcByte 0xFFFFFFFF#32 ^^^ 0xFFFFFFFF#32).toNat

/-- Eight shifts of the CRC-16 register (02 R71). -/
def crc16Shift : Nat → BitVec 16 → BitVec 16
  | 0, c => c
  | n + 1, c => crc16Shift n (if c.msb then (c <<< 1) ^^^ 0x1021#16 else c <<< 1)

/-- One byte into the CRC-16 register. -/
def crc16Byte (c : BitVec 16) (b : Byte) : BitVec 16 := crc16Shift 8 (c ^^^ (b.setWidth 16 <<< 8))

/-- The CRC-16 of a transfer: polynomial 0x1021, initial value 0xFFFF (02 R71). -/
def crc16 (bs : List Byte) : Nat := (bs.foldl crc16Byte 0xFFFF#16).toNat

/-- Eight shifts of the CRC-8 register (08 R312). -/
def crc8Shift : Nat → BitVec 8 → BitVec 8
  | 0, c => c
  | n + 1, c => crc8Shift n (if c.msb then (c <<< 1) ^^^ 0x07#8 else c <<< 1)

/-- The CRC-8 of a flit of the signal net: polynomial 0x07, initial value 0x00 (08 R312). -/
def crc8 (bs : List Byte) : Nat := (bs.foldl (fun c b => crc8Shift 8 (c ^^^ b)) 0).toNat

/-- The header as a 256-bit number (02 R52). -/
def hdrWord (h : Header) : Nat :=
  h.tileId % 2 ^ 32 + h.fmt % 16 * 2 ^ 32 + b2n h.scaled * 2 ^ 36 + h.kind % 2 * 2 ^ 37
    + h.reserved % 4 * 2 ^ 38 + h.lap % 256 * 2 ^ 40 + h.hops % 1024 * 2 ^ 48
    + h.variant % 64 * 2 ^ 58 + h.source % 1024 * 2 ^ 64 + h.reserved / 4 % 64 * 2 ^ 74
    + h.seq % 65536 * 2 ^ 80 + h.job % 2 ^ 32 * 2 ^ 96 + h.user % 2 ^ 64 * 2 ^ 128
    + h.payloadCrc % 2 ^ 32 * 2 ^ 192 + h.hdrCrc % 2 ^ 32 * 2 ^ 224

/-- The header that a 256-bit number holds (02 R52). -/
def hdrOfWord (w : Nat) : Header :=
  { tileId := bits w 31 0, fmt := bits w 35 32, scaled := bitOf w 36, kind := bits w 37 37
    reserved := bits w 39 38 + 4 * bits w 79 74, lap := bits w 47 40, hops := bits w 57 48
    variant := bits w 63 58, source := bits w 73 64, seq := bits w 95 80, job := bits w 127 96
    user := bits w 191 128, payloadCrc := bits w 223 192, hdrCrc := bits w 255 224 }

/-- hdr_crc of a header: the CRC-32 over header bits [223:0] (02 R52, R53). -/
def hdrCrcOf (h : Header) : Nat := crc32 (leBytes 28 (hdrWord h))

/-- The header with hdr_crc recomputed. -/
def hdrSealed (h : Header) : Header := { h with hdrCrc := hdrCrcOf h }

/-- A field selected by HDRLD (06 R230). -/
def hdrField (h : Header) (sel : Nat) : Nat :=
  match sel with
  | 0 => h.tileId
  | 1 => bits (hdrWord h) 47 32
  | 2 => h.hops
  | 3 => h.variant
  | 4 => h.source
  | 5 => h.seq
  | 6 => h.user
  | _ => h.job

end Sys2Proof.Machine
end

