-- ==== Sys2Proof/Config.lean ====
section
/-! DEFINITION. Free values: what the spec leaves open, and the outputs of ciphers, signatures and sensors.
None has a body, so a statement holds whatever they are. -/
namespace Sys2Proof.Config

/-- The free value of draw `k` (log 12). -/
opaque freeWord : Nat → W64
/-- Byte `i` of free contents of draw `k` (02 R63, R76; log 12). -/
opaque freeByte : Nat → Nat → Byte
/-- Cell `i` of an accumulator whose contents are undefined since draw `k` (03 R108; log 12). -/
opaque freeCell : Nat → Nat → W32
/-- Nanoseconds of the fixed domain that pass in tick `k` (08, 14 R476; log 13). -/
opaque nsPerTick : Nat → Nat
/-- Whether the clock of cluster `g` has an edge in tick `k` (14 R477; log 5). -/
opaque clockEdge : Nat → Nat → Bool

/-- The row that traffic from one hub die to the other takes: true the bottom one (01 R34; log 59). -/
opaque hubRow : Nat → Bool

/-- The device unique secret, 256 bits (17 R543; log 3). -/
opaque dus : Nat
/-- SLH-DSA-SHAKE-256s: the public key of a seed, and the signature of a seed's key over bytes (17 R543, R547;
log 3). -/
opaque slhPublic : List Byte → List Byte
opaque slhSign : List Byte → List Byte → List Byte
/-- ML-KEM-1024: the encapsulation key of a seed, and the secret that a seed's key decapsulates from a cipher text
(17 R543, R549; log 3). -/
opaque kemPublic : List Byte → List Byte
opaque kemSecret : List Byte → List Byte → List Byte
/-- Serial number of the module (18 R582, R583; log 3). -/
opaque serial : Nat
/-- The signature on the identity certificate (17 R544; log 3). -/
opaque certSignature : List Byte
/-- The mask ROM (17 R545; log 3). -/
opaque rom : List Byte
/-- Sign of a NaN that an operation makes from a NaN: the operation, then its operands as kind and sign, magnitude
and exponent (04 R146; log 56). -/
opaque nanSign : Nat → Nat × Nat × Int → Nat × Nat × Int → Bool
/-- Inverse block values of INVSPD (11 R409; log 15). -/
opaque inverse : Nat → Nat → W32
/-- ceiling_max that a signed power-table supplement gives for a cap, before the limit of 64 (06 R246;
log 27). -/
opaque powerTable : Nat → Nat → Nat

/-- How many instructions a general core retires at a clock edge, by draw (06 R255; log 60). -/
opaque gcRetires : Nat → Nat
/-- vl of a general core for an application vector length between VLMAX and twice VLMAX (06 R255; log 67). -/
opaque avlChoice : Nat → Nat → Nat

end Sys2Proof.Config
end

