-- ==== Sys2Proof/Machine/Formats.lean ====
section
/-! DEFINITION. Number formats: exact values, decoding, rounding, overflow, conversion, block scales and
binary32 arithmetic (04). Every value is exact: a sign, a natural number and a power of 2. -/
namespace Sys2Proof.Machine
open Sys2Proof

/-- A decoded value: NaN or infinity with its sign, or (−1)^neg · m · 2^e (04 R144, R145). -/
inductive Num where
  | nan (neg : Bool)
  | inf (neg : Bool)
  | fin (neg : Bool) (m : Nat) (e : Int)
deriving DecidableEq, Repr

/-- Rounding: to nearest even, or stochastic with a 16-bit draw (04 R157, R158). -/
inductive Rnd where
  | near
  | stoch (u : Nat)
deriving DecidableEq, Repr

/-- Exponent bits, mantissa bits and bias of a float format (04 R143). -/
def fmtParam : Fmt → Nat × Nat × Int
  | .fp32 => (8, 23, 127)
  | .bf16 => (8, 7, 127)
  | .fp16 => (5, 10, 15)
  | .e4m3 => (4, 3, 7)
  | .e5m2 => (5, 2, 15)
  | .e3m2 => (3, 2, 3)
  | .e2m3 => (2, 3, 1)
  | .e2m1 => (2, 1, 1)
  | .int8 => (0, 6, 1)
  | .e8m0 => (8, 0, 127)
  | .pb32 => (8, 7, 127)

/-- The code of a format (04 R143). -/
def fmtCode : Fmt → Nat
  | .fp32 => 0 | .bf16 => 1 | .fp16 => 2 | .e4m3 => 3 | .e5m2 => 4 | .e3m2 => 5 | .e2m3 => 6
  | .e2m1 => 7 | .int8 => 8 | .e8m0 => 9 | .pb32 => 10

/-- Bits of one element (04 R143). -/
def fmtBits : Fmt → Nat
  | .fp32 => 32 | .bf16 => 16 | .fp16 => 16 | .e4m3 => 8 | .e5m2 => 8 | .e3m2 => 6 | .e2m3 => 6
  | .e2m1 => 4 | .int8 => 8 | .e8m0 => 8 | .pb32 => 32

/-- Formats whose all-ones exponent field holds infinities and NaNs (04 R145). -/
def fmtIeee : Fmt → Bool
  | .fp32 | .bf16 | .fp16 | .e5m2 => true
  | _ => false

/-- Formats with a NaN (04 R145). -/
def hasNan : Fmt → Bool
  | .fp32 | .bf16 | .fp16 | .e5m2 | .e4m3 | .e8m0 | .pb32 => true
  | _ => false

/-- Formats with infinities (04 R145). -/
def hasInf : Fmt → Bool
  | .fp32 | .bf16 | .fp16 | .e5m2 | .pb32 => true
  | _ => false

/-- Tile formats: the permitted combinations of format and scaled flag (02 R54, 04 R151). -/
def tileOk (fmt : Nat) (scaled : Bool) : Bool :=
  match Fmt.ofCode fmt with
  | some .fp32 | some .bf16 | some .fp16 | some .pb32 => !scaled
  | some .e4m3 | some .e5m2 | some .int8 => true
  | some .e3m2 | some .e2m3 | some .e2m1 => scaled
  | _ => false

/-- The value of a float code with the layout `(eb, mb, b)` (04 R144). -/
def decodeFloat (eb mb : Nat) (b : Int) (c : Nat) : Num :=
  let neg := bitOf c (eb + mb)
  let ex := bits c (eb + mb - 1) mb
  let m := c % 2 ^ mb
  if ex = 0 then .fin neg m (1 - b - mb) else .fin neg (2 ^ mb + m) (ex - b - mb)

/-- A value as its kind and sign, magnitude and exponent. -/
def numKey : Num → Nat × Nat × Int
  | .nan s => (b2n s, 0, 0)
  | .inf s => (2 + b2n s, 0, 0)
  | .fin s m e => (4 + b2n s, m, e)

/-- The NaN that arithmetic makes from a NaN operand; its sign is a free value (04 R146; log 56). -/
def nanOf (op : Nat) (a b : Num) : Num := .nan (Config.nanSign op (numKey a) (numKey b))

/-- The sum of two values of one sign-and-exponent form, exact; a zero sum is +0 unless both are −0. -/
def addNum : Num → Num → Num
  | .nan s, y => nanOf 0 (.nan s) y
  | x, .nan s => nanOf 0 x (.nan s)
  | .inf s, .inf t => if s = t then .inf s else .nan false
  | .inf s, _ => .inf s
  | _, .inf s => .inf s
  | .fin s m e, .fin t n f =>
    let g := min e f
    let a : Int := (m * 2 ^ (e - g).toNat : Nat)
    let b : Int := (n * 2 ^ (f - g).toNat : Nat)
    let x := (if s then -a else a) + (if t then -b else b)
    if x = 0 then .fin (s && t) 0 g else .fin (x < 0) x.natAbs g

/-- The result of an operation on operands of which some or none is a NaN: a NaN that arises from none is positive
(04 R146). -/
def cleanNan (anyNan : Bool) (x : Num) : Num :=
  match x with
  | .nan s => if anyNan then .nan s else .nan false
  | y => y

/-- The exact product (IEEE 754 signs and special values). -/
def mulNum : Num → Num → Num
  | .nan s, y => nanOf 1 (.nan s) y
  | x, .nan s => nanOf 1 x (.nan s)
  | .inf s, .inf t => .inf (s != t)
  | .inf s, .fin t n _ => if n = 0 then .nan false else .inf (s != t)
  | .fin s m _, .inf t => if m = 0 then .nan false else .inf (s != t)
  | .fin s m e, .fin t n f => .fin (s != t) (m * n) (e + f)

/-- The value with its sign reversed. -/
def negNum : Num → Num
  | .nan s => .nan (!s)
  | .inf s => .inf (!s)
  | .fin s m e => .fin (!s) m e

/-- The magnitude. -/
def absNum : Num → Num
  | .nan _ => .nan false
  | .inf _ => .inf false
  | .fin _ m e => .fin false m e

/-- The value multiplied by a power of 2; exact (04 R152, R156). -/
def scaleNum (k : Int) : Num → Num
  | .fin s m e => .fin s m (e + k)
  | x => x

/-- A zero. -/
def isZeroNum : Num → Bool
  | .fin _ 0 _ => true
  | _ => false

/-- An infinity or NaN. -/
def isNonFin : Num → Bool
  | .fin _ _ _ => false
  | _ => true

/-- A value kept as a high and a low part: the high part alone where it is an infinity or a NaN, otherwise their exact
sum (04 R148; log 65). -/
def pairNum (hi lo : Num) : Num := if isNonFin hi then hi else if isNonFin lo then lo else addNum hi lo

/-- A NaN. -/
def isNanNum : Num → Bool
  | .nan _ => true
  | _ => false

/-- The sign bit. -/
def signNum : Num → Bool
  | .nan s => s
  | .inf s => s
  | .fin s _ _ => s

/-- Compares the magnitudes of two finite values: `m · 2^e ≤ n · 2^f`. -/
def leMag (m : Nat) (e : Int) (n : Nat) (f : Int) : Bool :=
  let g := min e f
  m * 2 ^ (e - g).toNat ≤ n * 2 ^ (f - g).toNat

/-- ⌊log2 (m · 2^e)⌋ for m > 0. -/
def floorLog2 (m : Nat) (e : Int) : Int := (Nat.log2 m : Int) + e

/-- Rounds m · 2^e to a multiple of 2^q: the quotient (04 R157, R158). -/
def roundQ (r : Rnd) (m : Nat) (e q : Int) : Nat :=
  if q ≤ e then m * 2 ^ (e - q).toNat
  else
    let d := (q - e).toNat
    let n := m / 2 ^ d
    let t := m % 2 ^ d
    match r with
    | .near =>
      if 2 * t > 2 ^ d then n + 1
      else if 2 * t = 2 ^ d then n + n % 2
      else n
    | .stoch u => if t * 65536 / 2 ^ d + u ≥ 65536 then n + 1 else n

/-- The quantum exponent of R157 for a value m · 2^e with m > 0. -/
def quantum (mb : Nat) (b : Int) (m : Nat) (e : Int) : Int :=
  max (floorLog2 m e) (1 - b) - mb

/-- Largest finite magnitude of a float format as m · 2^e (04 R145). -/
def maxFin : Fmt → Nat × Int
  | .fp32 => (2 ^ 24 - 1, 104)
  | .bf16 => (255, 120)
  | .fp16 => (2047, 5)
  | .e4m3 => (14, 5)
  | .e5m2 => (7, 13)
  | .e3m2 => (7, 2)
  | .e2m3 => (15, -1)
  | .e2m1 => (3, 1)
  | .int8 => (127, 0)
  | .e8m0 => (1, 127)
  | .pb32 => (2 ^ 17 - 2 ^ 8 - 1, 111)

/-- The code of the largest finite value (04 R145). -/
def maxCode : Fmt → Nat
  | .fp32 => 0x7F7FFFFF | .bf16 => 0x7F7F | .fp16 => 0x7BFF | .e4m3 => 0x7E | .e5m2 => 0x7B
  | .e3m2 => 0x1F | .e2m3 => 0x1F | .e2m1 => 0x7 | .int8 => 0x7F | .e8m0 => 0xFE | .pb32 => 0x7AFF7F7F

/-- The sign bit in place; PB32 signs both halves (04 R159). -/
def signCode (f : Fmt) (neg : Bool) : Nat :=
  if !neg then 0 else
  match f with
  | .pb32 => 0x80008000
  | .e8m0 => 0
  | _ => 2 ^ (fmtBits f - 1)

/-- Canonical NaN with a sign (04 R145, R146); a format without NaN gives 0. -/
def nanCode (f : Fmt) (neg : Bool) : Nat :=
  match f with
  | .fp32 => 0x7FC00000 + signCode f neg
  | .bf16 => 0x7FC0 + signCode f neg
  | .fp16 => 0x7E00 + signCode f neg
  | .e4m3 => 0x7F + signCode f neg
  | .e5m2 => 0x7E + signCode f neg
  | .e8m0 => 0xFF
  | .pb32 => 0x7FC0 + (if neg then 0x8000 else 0)
  | _ => 0

/-- Infinity of a format that has one (04 R145). -/
def infCode (f : Fmt) (neg : Bool) : Nat :=
  match f with
  | .fp32 => 0x7F800000 + signCode f neg
  | .bf16 => 0x7F80 + signCode f neg
  | .fp16 => 0x7C00 + signCode f neg
  | .e5m2 => 0x7C + signCode f neg
  | .pb32 => 0x7F80 + (if neg then 0x8000 else 0)
  | .e4m3 => nanCode f neg
  | _ => maxCode f + signCode f neg

/-- Finite overflow of an unscaled destination (04 R159). -/
def overflowCode (f : Fmt) (prop neg : Bool) : Nat :=
  match f with
  | .int8 => if neg then 0x80 else 0x7F
  | _ => if prop then infCode f neg else maxCode f + signCode f neg

/-- Rounds a finite value to a BF16 value without an upper exponent limit (03 R126, 04 R157). -/
def rneBf (neg : Bool) (m : Nat) (e : Int) : Num :=
  if m = 0 then .fin neg 0 0
  else
    let q := quantum 7 127 m e
    .fin neg (roundQ .near m e q) q

/-- Code of a float value given as n multiples of 2^q with q the quantum of R157. -/
def encodeQ (eb mb : Nat) (b : Int) (neg : Bool) (n : Nat) (q : Int) : Nat :=
  (if neg then 2 ^ (eb + mb) else 0) + ((q + mb + b - 1).toNat * 2 ^ mb + n)

/-- A finite BF16 value's code. -/
def bfCode : Num → Nat
  | .fin neg 0 _ => if neg then 0x8000 else 0
  | .fin neg m e =>
    let q := quantum 7 127 m e
    encodeQ 8 7 127 neg (roundQ .near m e q) q
  | .inf neg => infCode .bf16 neg
  | .nan neg => nanCode .bf16 neg

/-- pb32_round of a finite value (04 R166): its code and whether it overflows. -/
def pbRound (prop neg : Bool) (m : Nat) (e : Int) : Nat × Bool :=
  if m = 0 then (if neg then 0x8000 else 0, false)
  else if !leMag m e (maxFin .pb32).1 (maxFin .pb32).2 then
    (if prop then infCode .pb32 neg else maxCode .pb32 + signCode .pb32 neg, true)
  else
    let hi := rneBf neg m e
    let lo := addNum (.fin neg m e) (negNum hi)
    (bfCode hi + bfCode (if isZeroNum lo then .fin false 0 0 else lo) * 65536, false)

/-- Conversion of a finite or special value to an unscaled destination: its code, and whether the
converter counts it as non-finite or overflowing (04 R159 to R161). -/
def cvt (f : Fmt) (r : Rnd) (prop : Bool) (x : Num) : Nat × Bool :=
  match x with
  | .nan neg => (if f = .int8 then 0 else nanCode f neg, true)
  | .inf neg =>
    (match f with
     | .int8 => if neg then 0x80 else 0x7F
     | .e8m0 => if prop then 0xFF else 0xFE
     | _ => if prop then infCode f neg else maxCode f + signCode f neg, true)
  | .fin neg m e =>
    match f with
    | .e8m0 =>
      if m = 0 then (0, false)
      else ((max (-127) (min 127 (floorLog2 m e)) + 127).toNat, false)
    | .pb32 => pbRound prop neg m e
    | .int8 =>
      let n := roundQ r m e 0
      if neg then (if n > 128 then (0x80, true) else ((256 - n) % 256, false))
      else (if n > 127 then (0x7F, true) else (n, false))
    | _ =>
      let p := fmtParam f
      if m = 0 then (signCode f neg, false)
      else
        let q := quantum p.2.1 p.2.2 m e
        let n := roundQ (if f = .fp32 then .near else r) m e q
        if leMag n q (maxFin f).1 (maxFin f).2 then (encodeQ p.1 p.2.1 p.2.2 neg n q, false)
        else (overflowCode f prop neg, true)

/-- cvt_scaled: conversion to the element of a scaled tile, finite overflow saturating (04 R155, R165). -/
def cvtScaled (f : Fmt) (r : Rnd) (prop : Bool) (x : Num) : Nat :=
  match x with
  | .nan neg => nanCode f neg
  | .inf neg =>
    (match f with
     | .int8 => if neg then 0x80 else 0x7F
     | _ => if prop then infCode f neg else maxCode f + signCode f neg)
  | .fin neg m e =>
    if f = .int8 then
      let n := roundQ r m e (-6)
      if neg then (if n > 128 then 0x80 else (256 - n) % 256) else min n 127
    else (cvt f r false (.fin neg m e)).1

/-- Exponent of the largest finite value of an element format (04 R154). -/
def emax : Fmt → Int
  | .e4m3 => 8 | .e5m2 => 15 | .e3m2 => 4 | .e2m3 => 2 | .e2m1 => 2 | _ => 0

/-- The largest finite magnitude of a list. -/
def amaxOf : List Num → Nat × Int
  | [] => (0, 0)
  | .fin _ m e :: t =>
    let r := amaxOf t
    if leMag m e r.1 r.2 then r else (m, e)
  | _ :: t => amaxOf t

/-- The scale code of a block of 32 values (04 R154). -/
def blockScale (f : Fmt) (prop : Bool) (v : List Num) : Nat :=
  let a := amaxOf v
  let es : Int := if a.1 = 0 then 0 else max (-127) (min 127 (floorLog2 a.1 a.2 - emax f))
  if v.any isNanNum && !hasNan f then 0xFF
  else if v.any (fun x => isNonFin x && !isNanNum x) && prop && !hasInf f && !hasNan f then 0xFF
  else (es + 127).toNat

/-- Decodes an element of an unscaled tile, or of a scaled tile before its scale (04 R144, R152). -/
def decodeElem (f : Fmt) (scaled : Bool) (c : Nat) : Num :=
  match f with
  | .int8 =>
    let neg := c ≥ 128
    .fin neg (if neg then 256 - c else c) (if scaled then -6 else 0)
  | .e8m0 => if c = 255 then .nan false else .fin false 1 (c - 127)
  | .pb32 =>
    let half (h : Nat) : Num :=
      if bits h 14 7 = 255 then (if bits h 6 0 = 0 then .inf (bitOf h 15) else .nan (bitOf h 15))
      else decodeFloat 8 7 127 h
    pairNum (half (c % 65536)) (half (c / 65536 % 65536))
  | .e4m3 => if c % 128 = 127 then .nan (c ≥ 128) else decodeFloat 4 3 7 c
  | f =>
    let p := fmtParam f
    if fmtIeee f && bits c (p.1 + p.2.1 - 1) p.2.1 = 2 ^ p.1 - 1 then
      (if c % 2 ^ p.2.1 = 0 then .inf (bitOf c (p.1 + p.2.1)) else .nan (bitOf c (p.1 + p.2.1)))
    else decodeFloat p.1 p.2.1 p.2.2 c

/-- An element of a scaled tile with its block's scale; under scale 0xFF it is a NaN whose sign is a free value
(04 R152; log 56). -/
def decodeScaled (f : Fmt) (c scale : Nat) : Num :=
  if scale = 255 then .nan (Config.nanSign 6 (c, 0, 0) (scale, 0, 0))
  else scaleNum (scale - 127) (decodeElem f true c)

/-- The value of a binary32 word. -/
def ofF32 (w : W32) : Num := decodeElem .fp32 false w.toNat

/-- One rounding to binary32, overflow to infinity (03 R94). -/
def toF32 (x : Num) : W32 := BitVec.ofNat 32 (cvt .fp32 .near true x).1

/-- binary32 sum, rounded to nearest even. -/
def fadd (a b : W32) : W32 := toF32 (addNum (ofF32 a) (ofF32 b))

/-- binary32 product, rounded to nearest even. -/
def fmul (a b : W32) : W32 := toF32 (mulNum (ofF32 a) (ofF32 b))

/-- The exact sum of a list of values (03 R130, R131). -/
def sumNum (l : List Num) : Num := cleanNan (l.any isNanNum) (l.foldr addNum (.fin false 0 0))

/-- A value and a sum of products, added or subtracted exactly before one rounding (03 R92, R94; 04 R146). -/
def addProducts (x : Num) (neg : Bool) (ps : List (Num × Num)) : Num :=
  let p := (ps.map (fun e => mulNum e.1 e.2)).foldr addNum (.fin false 0 0)
  cleanNan (isNanNum x || ps.any (fun e => isNanNum e.1 || isNanNum e.2)) (addNum x (if neg then negNum p else p))

/-- A fused product and sum (04 R146; 11 R393). -/
def fmaNum (a b c : Num) : Num :=
  cleanNan (isNanNum a || isNanNum b || isNanNum c) (addNum (mulNum a b) c)

/-- A 32-bit two's-complement integer as a value (03 R111 step 1). -/
def ofInt (x : Int) : Num := .fin (x < 0) x.natAbs 0

/-- Payload bytes of a tile of a format (02 R51). -/
def payloadBytes (f : Fmt) : Nat := 2048 * fmtBits f

/-- Landing buffers of a baton of a format (02 R51). -/
def buffersOf (f : Fmt) : Nat :=
  match f with
  | .bf16 | .fp16 => 2
  | .fp32 | .pb32 => 4
  | _ => 1

/-- Transfers of a baton of a format, the header's included (02 R51). -/
def transfersOf (f : Fmt) (scaled : Bool) : Nat :=
  1 + payloadBytes f / 256 + (if scaled then 2 else 0)

/-- Bytes of a stored tile (07 R267). -/
def storedBytes (fmt : Nat) (scaled : Bool) : Nat :=
  match Fmt.ofCode fmt with
  | some f => payloadBytes f + (if scaled then 512 else 0)
  | none => 0

/-- Index of element (r, c) in the blocked layout (07 R266). -/
def elemIndex (r c : Nat) : Nat := 1024 * (4 * (r / 32) + c / 32) + 32 * (r % 32) + c % 32

/-- Code of element `e` read through a byte reader (04 R149). -/
def elemCode (f : Fmt) (rd : Nat → Byte) (e : Nat) : Nat :=
  match f with
  | .fp32 | .pb32 => ofLe [rd (4 * e), rd (4 * e + 1), rd (4 * e + 2), rd (4 * e + 3)]
  | .bf16 | .fp16 => ofLe [rd (2 * e), rd (2 * e + 1)]
  | .e3m2 | .e2m3 =>
    let g := e / 4
    bits (ofLe [rd (3 * g), rd (3 * g + 1), rd (3 * g + 2)]) (6 * (e % 4) + 5) (6 * (e % 4))
  | .e2m1 => bits (rd (e / 2)).toNat (4 * (e % 2) + 3) (4 * (e % 2))
  | _ => (rd e).toNat

/-- Value of element (r, c) of a stored tile, its scale after the payload (04 R149, R150, R152). -/
def tileElem (f : Fmt) (scaled : Bool) (rd : Nat → Byte) (r c : Nat) : Num :=
  let code := elemCode f rd (elemIndex r c)
  if scaled then decodeScaled f code (rd (payloadBytes f + 4 * r + c / 32)).toNat
  else decodeElem f false code

/-- Bytes that hold a list of codes of consecutive elements, the first a multiple of 4 elements
(04 R149). -/
def packCodes (f : Fmt) : List Nat → List Byte
  | a :: b :: c :: d :: t =>
    (match f with
     | .fp32 | .pb32 => leBytes 4 a ++ leBytes 4 b ++ leBytes 4 c ++ leBytes 4 d
     | .bf16 | .fp16 => leBytes 2 a ++ leBytes 2 b ++ leBytes 2 c ++ leBytes 2 d
     | .e3m2 | .e2m3 => leBytes 3 (a + 64 * b + 4096 * c + 262144 * d)
     | .e2m1 => leBytes 2 (a + 16 * b + 256 * c + 4096 * d)
     | _ => [BitVec.ofNat 8 a, BitVec.ofNat 8 b, BitVec.ofNat 8 c, BitVec.ofNat 8 d]) ++ packCodes f t
  | _ => []

/-- The byte offset of element `e`, a multiple of 4, within a payload (04 R149). -/
def elemOffset (f : Fmt) (e : Nat) : Nat := e * fmtBits f / 8

/-- One step of the station LFSR: the new state and the bit shifted out (04 R170). -/
def lfsrStep (s : W32) : W32 × Nat :=
  let out := s.toNat % 2
  let t := s >>> 1
  (if out = 1 then t ^^^ 0x80200003#32 else t, out)

/-- A draw of `n` steps: the new state and Σ out_i · 2^i (04 R170). -/
def lfsrDraw : Nat → W32 → W32 × Nat
  | 0, s => (s, 0)
  | n + 1, s =>
    let a := lfsrStep s
    let r := lfsrDraw n a.1
    (r.1, a.2 + 2 * r.2)

/-- Whether a conversion draws from the LFSR (04 R162). -/
def draws (f : Fmt) (stoch : Bool) : Bool :=
  stoch && (match f with | .fp32 | .pb32 | .e8m0 => false | _ => true)

/-- Converts values in order, drawing for each where the rounding is stochastic (03 R115, 04 R156):
the LFSR state, the codes and how many were counted (04 R160). -/
def cvtList (f : Fmt) (stoch prop : Bool) : W32 → List Num → W32 × List Nat × Nat
  | s, [] => (s, [], 0)
  | s, x :: t =>
    let d := if draws f stoch then lfsrDraw 16 s else (s, 0)
    let c := cvt f (if draws f stoch then .stoch d.2 else .near) prop x
    let r := cvtList f stoch prop d.1 t
    (r.1, c.1 :: r.2.1, b2n c.2 + r.2.2)

/-- Converts a block of 32 values with its scale: LFSR state, scale code, element codes, count (04 R154,
R156, R160). -/
def cvtElems (f : Fmt) (stoch prop : Bool) (code : Nat) : W32 → List Num → W32 × List Nat
  | s, [] => (s, [])
  | s, x :: t =>
    let d := if draws f stoch then lfsrDraw 16 s else (s, 0)
    let c := if code = 255 then 0
      else cvtScaled f (if draws f stoch then .stoch d.2 else .near) prop (scaleNum (127 - code) x)
    let r := cvtElems f stoch prop code d.1 t
    (r.1, c :: r.2)

/-- A converted run of values: LFSR state, element codes, scale codes, count. -/
structure Conv where
  lfsr : W32
  codes : List Nat
  scales : List Nat
  count : Nat
deriving DecidableEq, Repr

/-- Converts `blocks` blocks of 32 values each to a scaled format (04 R154). -/
def cvtBlocks (f : Fmt) (stoch prop : Bool) : Nat → W32 → List Num → Conv
  | 0, s, _ => ⟨s, [], [], 0⟩
  | b + 1, s, v =>
    let blk := v.take 32
    let code := blockScale f prop blk
    let e := cvtElems f stoch prop code s blk
    let r := cvtBlocks f stoch prop b e.1 (v.drop 32)
    ⟨r.lfsr, e.2 ++ r.codes, code :: r.scales, blk.countP isNonFin + r.count⟩

/-- Converts 32 · `blocks` values to a tile format, scaled or not (04 R154, R161). -/
def convert (f : Fmt) (scaled stoch prop : Bool) (blocks : Nat) (s : W32) (v : List Num) : Conv :=
  if scaled then cvtBlocks f stoch prop blocks s v
  else
    let r := cvtList f stoch prop s v
    ⟨r.1, r.2.1, [], r.2.2⟩

end Sys2Proof.Machine
end

