-- ==== Sys2Proof/Machine/Images.lean ====
section
/-! DEFINITION. The byte layouts of what the host and the rack hand over signed or wrapped: the header and the sections
of a course image, wrapped keys, supplements, enrollment records and unlock tokens (13 R451, R452; 17 R548, R559;
18 R582, R583; log 1). -/
namespace Sys2Proof.Machine
open Sys2Proof

/-- The little-endian number in `n` bytes from byte `i` on (00 R6). -/
def numAt (bs : List Byte) (i n : Nat) : Nat := ofLe ((bs.drop i).take n)

/-- The header of a course image (13 R451). -/
def headerOf (bs : List Byte) : ImageHeader :=
  { magic := numAt bs 0 4, format := numAt bs 4 2, contract := numAt bs 6 2, job := numAt bs 8 4, flags := numAt bs 12 1
    signSlot := numAt bs 13 1, counter := numAt bs 14 2, version := numAt bs 16 8, bodyLength := numAt bs 24 8
    sectionCount := numAt bs 32 4, moduleId := numAt bs 36 2, reserved := numAt bs 38 90 }

/-- The 128 bytes of a header (13 R451). -/
def headBytes (h : ImageHeader) : List Byte :=
  leBytes 4 h.magic ++ leBytes 2 h.format ++ leBytes 2 h.contract ++ leBytes 4 h.job ++ leBytes 1 h.flags
    ++ leBytes 1 h.signSlot ++ leBytes 2 h.counter ++ leBytes 8 h.version ++ leBytes 8 h.bodyLength
    ++ leBytes 4 h.sectionCount ++ leBytes 2 h.moduleId ++ leBytes 90 h.reserved

/-- The sections of a body; none where their headers do not frame it or a type is not listed (13 R452). -/
def sectionsOf : Nat → List Byte → Option (List Section)
  | 0, bs => if bs = [] then some [] else none
  | n + 1, bs =>
    let type := numAt bs 0 2
    let len := numAt bs 4 4
    let rest := bs.drop 16
    if 1 ≤ type && decide (type ≤ 0x0D) && numAt bs 2 2 = 0 && len % 8 = 0 && (len = 0 || (rest.drop (len - 1)) ≠ [])
        && (bs.drop 15) ≠ [] then
      (sectionsOf n (rest.drop len)).map ({ type := type, target := numAt bs 8 8, body := rest.take len } :: ·)
    else none

/-- A body is just as long as a number of bytes. -/
def hasLength (bs : List Byte) (n : Nat) : Bool := bs.drop n = [] && (n = 0 || bs.drop (n - 1) ≠ [])

end Sys2Proof.Machine

namespace Sys2Proof

/-- The header of an image. -/
def Image.hdr (c : Image) : ImageHeader := Machine.headerOf c.head

/-- The sections of an image; none where its body is not as the header says. -/
def Image.sections (c : Image) : Option (List Section) :=
  if Machine.hasLength c.body c.hdr.bodyLength then Machine.sectionsOf c.hdr.sectionCount c.body else none

/-- The sections of a type, by target. -/
def Image.ofType (c : Image) (t : Nat) : List (Nat × List Byte) :=
  ((c.sections.getD []).filter (fun x => x.type = t)).map (fun x => (x.target, x.body))

/-- The station programs of a course, by station: 512 KiB of strides each (06 R215; 13 R452). -/
def Image.programs (c : Image) : List (Nat × List Byte) := c.ofType 0x02

/-- The data for KEEP banks, by module address (13 R452). -/
def Image.keepData (c : Image) : List (Nat × List Byte) := c.ofType 0x03

/-- Fields of a wrapped key (17 R548). -/
def Wrapped.magic (w : Wrapped) : Nat := Machine.numAt w.bytes 0 4
def Wrapped.version (w : Wrapped) : Nat := Machine.numAt w.bytes 4 2
def Wrapped.kind (w : Wrapped) : Nat := Machine.numAt w.bytes 6 1
def Wrapped.slot (w : Wrapped) : Nat := Machine.numAt w.bytes 7 1
def Wrapped.job (w : Wrapped) : Nat := Machine.numAt w.bytes 8 4
def Wrapped.reserved (w : Wrapped) : Nat := Machine.numAt w.bytes 12 4
def Wrapped.measure (w : Wrapped) : Nat := Machine.numAt w.bytes 16 64
def Wrapped.kemCt (w : Wrapped) : List Byte := (w.bytes.drop 80).take 1568
def Wrapped.wrapped (w : Wrapped) : List Byte := w.bytes.drop 1648

/-- Fields of a supplement's header (17 R559). -/
def Supplement.magic (p : Supplement) : Nat := Machine.numAt p.head 0 4
def Supplement.type (p : Supplement) : Nat := Machine.numAt p.head 4 1
def Supplement.version (p : Supplement) : Nat := Machine.numAt p.head 8 8
def Supplement.bodyLength (p : Supplement) : Nat := Machine.numAt p.head 16 4
def Supplement.reserved (p : Supplement) : Nat := Machine.numAt p.head 5 3 + Machine.numAt p.head 20 44

/-- Fields of an enrollment record (18 R582). -/
def EnrollRec.magic (r : EnrollRec) : Nat := Machine.numAt r.bytes 0 4
def EnrollRec.format (r : EnrollRec) : Nat := Machine.numAt r.bytes 4 2
def EnrollRec.slot (r : EnrollRec) : Nat := Machine.numAt r.bytes 6 1
def EnrollRec.reserved (r : EnrollRec) : Nat := Machine.numAt r.bytes 7 1
def EnrollRec.version (r : EnrollRec) : Nat := Machine.numAt r.bytes 8 8
def EnrollRec.serial (r : EnrollRec) : Nat := Machine.numAt r.bytes 16 16
def EnrollRec.key (r : EnrollRec) : Nat := Machine.numAt r.bytes 32 64

/-- Fields of an unlock token (18 R583). -/
def Token.magic (t : Token) : Nat := Machine.numAt t.bytes 0 4
def Token.format (t : Token) : Nat := Machine.numAt t.bytes 4 2
def Token.reserved (t : Token) : Nat := Machine.numAt t.bytes 6 2
def Token.serial (t : Token) : Nat := Machine.numAt t.bytes 8 16
def Token.boot (t : Token) : Nat := Machine.numAt t.bytes 24 8

end Sys2Proof
end

