-- ==== Sys2Proof/Machine/State.lean ====
section
/-! DEFINITION. The state of the module: every register, buffer, counter, queue, mode and pin that the
spec gives it, as plain data, and its reset. -/
namespace Sys2Proof.Machine
open Sys2Proof

/-- Sparse memory in canonical form: addresses strictly rising, no byte equal to 0, which an unlisted
address reads as (log 10). -/
abbrev Memory := List Host.Cell

/-- State codes of a landing buffer (02 R58). -/
inductive LbState where
  | free | landing | held | heldBad
deriving DecidableEq, Repr

/-- A landing buffer by its first buffer: its state, its baton, whether the program wrote the payload
here (02 R56), the cycle up to which a SEND reads it (06 R228), and whether its hop stopped (02 R72). -/
structure LBuf where
  state : LbState := .free
  baton : Baton := {}
  written : Bool := false
  readUntil : Nat := 0
  doneAt : Option Nat := none
deriving DecidableEq, Repr

/-- A baton on the way over a hop into a station: its stage, destination buffer, sender, the sender's
source buffer, the transfer that failed its check last and its retransmissions (02 R61, R71, R72). -/
structure Flight where
  baton : Baton
  dst : Nat
  sender : Nat
  srcLane : Lane := .inner
  srcBuf : Nat := 0
  inCluster : Bool := true
  due : Nat := 0
  waiting : Bool := false
  landing : Bool := false
  failAt : Nat := 0
  fails : Nat := 0
  stopped : Bool := false
deriving DecidableEq, Repr

/-- A SEND that waits at an output port (06 R226, R227). -/
structure SendReq where
  srcLane : Lane
  srcBuf : Nat
  dst : Nat
deriving DecidableEq, Repr

/-- An output port of a lane: the first cycle in which a SEND finds it idle, the waiting SEND and the
second SEND that holds the cluster (06 R227). -/
structure Port where
  idleAt : Nat := 0
  wait : Option SendReq := none
  second : Option SendReq := none
deriving DecidableEq, Repr

/-- An operation of the move unit with its registers read (06 R231, R232, R605). -/
inductive MoveOp where
  | move (lb : Option (Lane × Nat)) (dst src : Nat) (units : Nat)
  | cvt (dst src tiles : Nat) (fIn : Nat) (sIn : Bool) (fOut : Nat) (sOut stoch prop : Bool) (group : Option Nat)
deriving DecidableEq, Repr

/-- The running operation of a move unit: start cycle, held cycles it ran through, units done, and the draw of what
it reads once a baton has overwritten its source (02 R76). -/
structure MoveRun where
  op : MoveOp
  start : Nat
  slip : Nat := 0
  done : Nat := 0
  spoiled : Option Nat := none
deriving DecidableEq, Repr

/-- Run state of a station (06 R254). -/
inductive RunState where
  | idle | issuing | waiting | halted
deriving DecidableEq, Repr

/-- What a station waits for (06 R236). -/
inductive Pend where
  | wait (c : Ctr) (target : W32) (long : Bool)
  | borrow (tokens len : Nat)
deriving DecidableEq, Repr

/-- A station (06 R222 and the parts of chapters 2 to 8 that belong to it); `issued` is the cycle and the stride
index of the last stride it issued. -/
structure Station where
  x : Table W64 := []
  p : Table Bool := []
  lc : Table W32 := []
  loops : List (Nat × Nat × Nat) := []
  pc : Nat := 0
  nextCyc : Nat := 0
  run : RunState := .idle
  haltNext : Bool := false
  pend : Option Pend := none
  released : Bool := false
  eclipse : Bool := false
  lent : Nat := 0
  wdog : Nat := 0
  lfsr : W32 := 1
  lbs : Table LBuf := []
  hops : Table (List Flight) := []
  stopped : Table Bool := []
  ports : Table Port := []
  mv : Option MoveRun := none
  mvWait : Option MoveOp := none
  mvSecond : Option MoveOp := none
  misused : Table Bool := []
  issued : Option (Nat × Nat) := none
deriving DecidableEq, Repr

/-- One accumulator of an array: cells by `128 m + n`, checksum cells, Kc, its marks, its sweep row and
the cycle of its last MAC (03 R93, R130, R131, R134); `free` names a draw where its cells are undefined
(03 R108, 06 R241). -/
structure Acc where
  cells : Table W32 := []
  free : Option Nat := none
  xiCol : Table Int := []
  alCol : Table Int := []
  xiRow : Table Int := []
  alRow : Table Int := []
  kc : Nat := 0
  isInt : Bool := false
  saturated : Table Bool := []
  failed : Bool := false
  rowRaised : Bool := false
  colRaised : Bool := false
  sweep : Nat := 0
  lastMac : Option Nat := none
deriving DecidableEq, Repr

/-- Configuration by the last MSET, with its registers read (03 R104). -/
structure ArrCfg where
  f : MsetF
  colAddr : Nat
  rowAddr : Nat
  strideCol : Nat
  strideRow : Nat
  bad : Bool := false
deriving DecidableEq, Repr

/-- A drain in progress, with its registers read and the accumulators it drains: start cycle, rows done,
destination, and the pocket ranges that a drain of the other array writes too (first, end, the draw of who wins
each codeword, whether a set bit names this drain) (03 R106, R107, R116). -/
structure DrainRun where
  f : DrainF
  start : Nat
  row : Nat := 0
  addr : Nat := 0
  scale : W32 := 0x3F800000
  complex : Bool := false
  snap : List Acc := []
  clash : List (Nat × Nat × Nat × Bool) := []
deriving DecidableEq, Repr

/-- A matrix array (03 R91, R110, R121, R603); `macAt` is the last cycle whose slot held a MAC (03 R117). -/
structure Arr where
  cfg : Option ArrCfg := none
  k : Nat := 0
  sub : Nat := 0
  lastCol : Nat := 0
  lastRow : Nat := 0
  lastAcc : Nat := 0
  accs : Table Acc := []
  drains : List DrainRun := []
  macAt : Option Nat := none
  rowLo : W64 := 0
  rowHi : W64 := 0
  blk : W64 := 0
deriving DecidableEq, Repr

/-- What a timed operation writes when it becomes readable (06 R239); `moved` is a pocket write of the move unit. -/
inductive Eff where
  | reg (n r : Nat) (v : W64)
  | pred (n p : Nat) (v : Bool)
  | pocket (n addr : Nat) (bs : List (Nat × Byte))
  | moved (n addr : Nat) (bs : List (Nat × Byte))
  | lbBytes (n : Nat) (lane : Lane) (buf : Nat) (bs : List (Nat × Byte))
  | mset (n a : Nat) (cfg : ArrCfg)
  | mask (n a target : Nat) (v : W64)
  | seed (n : Nat) (v : W32)
  | free (n : Nat) (inner outer : Nat)
deriving DecidableEq, Repr

/-- An effect on its way: the program cycle from which it is readable, its issue cycle and whether the
scalar slot issued it (06 R221, R239). -/
structure Timed where
  due : Nat
  issue : Nat
  scalar : Bool
  eff : Eff
deriving DecidableEq, Repr

/-- A stream descriptor: its address in memory and its 4 words (07 R276). -/
structure Desc where
  addr : Nat
  w0 : Nat
  w1 : Nat
  w2 : Nat
  w3 : Nat
deriving DecidableEq, Repr

/-- A request to an engine: a list, or a new base for a parked descriptor (07 R274, R283). -/
inductive EngReq where
  | list (addr count : Nat)
  | rearm (base : Nat)
deriving DecidableEq, Repr

/-- A descriptor in flight: the baton that waits for a landing buffer, the injected baton until it has
landed, whether a gateway has still to take its chunk, the memory that it writes (address, length) with the bytes that have not reached it yet,
the offset of the first unit that a window could not read, whether a stopped fabric hop keeps it from its memory,
window requests of this module and messages (tag, offset, length) not answered, writes that windows of this module have accepted (address, length), offload
records not verified (position), the channel it writes, its status and event so far (05 R203, R204; 07 R279,
R280, R282, R288; 10 R373). -/
structure DescRun where
  d : Desc
  inject : Option Baton := none
  injected : Option Baton := none
  chunk : Bool := false
  range : Option (Nat × Nat) := none
  late : List (Nat × Byte) := []
  failOff : Option Nat := none
  blocked : Bool := false
  units : List WinReq := []
  reqs : List (Nat × Nat × Nat) := []
  taken : List (Nat × Nat) := []
  records : List Nat := []
  channel : Option Nat := none
  status : Nat := 0
  event : Nat := 0
deriving DecidableEq, Repr

/-- State codes of a stream engine (07 R295). -/
inductive EngState where
  | idle | running | parked | drainWait
deriving DecidableEq, Repr

/-- A stream engine (07 R274 to R285, R295). -/
structure Engine where
  state : EngState := .idle
  addr : Nat := 0
  count : Nat := 0
  fetched : List Desc := []
  nFetched : Nat := 0
  nStarted : Nat := 0
  flight : List DescRun := []
  request : Option EngReq := none
  parked : Option Desc := none
  rearmed : Bool := false
  lastStatus : Nat := 0
  doneCnt : Nat := 0
  bound : Option Binding := none
deriving DecidableEq, Repr

/-- A window: state 0 CLOSED, 1 OPEN, 2 CLOSING, its fields, and the CLOSE_WINDOW commands that wait
(07 R286 to R289, R298). -/
structure Win where
  state : Nat := 0
  dir : Nat := 0
  byCommand : Bool := false
  base : Nat := 0
  sizeM1 : Nat := 0
  srcModule : Nat := 0
  srcJob : Nat := 0
  closers : List Src := []
deriving DecidableEq, Repr

/-- An offload channel: armed range, last record index written in the step (05 R198 to R207). -/
structure Ofl where
  armed : Bool := false
  base : Nat := 0
  size : Nat := 0
  last : Nat := 0
  any : Bool := false
deriving DecidableEq, Repr

/-- Key registers, the egress counter and the load number (17 R550 to R554). Data slots hold kind and
key. -/
structure Keys where
  data : Table (Nat × Nat) := []
  output : Option Nat := none
  offload : Option Nat := none
  link : Option Nat := none
  egress : Nat := 0
  loads : Nat := 0
deriving DecidableEq, Repr

/-- Who awaits the answer to a chunk: an engine's descriptor, or a module by the messages that brought
it. -/
inductive ChunkFrom where
  | engine (g e addr : Nat)
  | messages (l : List Msg)
deriving DecidableEq, Repr

/-- A chunk at a gateway: identifier, image or tile bytes, its sender and, for a gather, its format and
step tag (11 R386, R398). -/
structure Chunk where
  id : Nat
  data : List Byte
  src : ChunkFrom
  gather : Option (Nat × Bool × Nat) := none
deriving DecidableEq, Repr

/-- An add on its way: the node it is at, the node at which it reaches its counter, and for a counted
ARRIVE the cluster and the program cycle from which it counts (08 R305, R311, R313). Nodes: 12 × die +
cluster, 96 + die, 104 for the root. -/
structure Add where
  c : Ctr
  n : W32
  node : Nat
  top : Nat
  due : Option (Nat × Nat) := none
deriving DecidableEq, Repr

/-- A loan of the eclipse pool: borrower, tokens, the program cycle in which it returns, and what it
draws on each lender (08 R320). -/
structure Loan where
  station : Nat
  tokens : Nat
  endCyc : Nat
  draws : List (Nat × Nat)
deriving DecidableEq, Repr

/-- State of a general core (06 R255; 08 R329). -/
inductive GcState where
  | running | xhwait | halted
deriving DecidableEq, Repr

/-- A general core: integer, floating-point and vector registers (byte 256 r + i), the control registers of
RV64GCV (vtype starts as vill), the reservation of LR (address, size, contents), PMP entries, and its pending XHWAIT
(06 R255 to R257; log 11, 67). -/
structure Gc where
  state : GcState := .halted
  pc : Nat := 0
  x : Table W64 := []
  f : Table W64 := []
  v : Table Byte := []
  fcsr : Nat := 0
  vl : Nat := 0
  vtype : Nat := 0x8000000000000000
  vstart : Nat := 0
  vcsr : Nat := 0
  resv : Option (Nat × Nat × List Byte) := none
  pmp : List Nat := []
  waitAddr : Nat := 0
  waitCtr : Option Ctr := none
  released : Option W32 := none
  target : W32 := 0
  long : Bool := false
  rd : Nat := 0
  wdog : Nat := 0
  mcause : Nat := 0
deriving DecidableEq, Repr

/-- A cluster: program cycles since the RUN started, whether the last one has ended, held cycles owed, tokens of the current cycle, the
eclipse pool, its clock region (ratio in 1/65,536, limits in MHz) and its general core (06 R239, R240, R244; 08 R320; 14 R477 to R487). -/
structure Cluster where
  cyc : Nat := 0
  ended : Bool := true
  hold : Nat := 0
  bpWait : Bool := false
  tok : Nat := 0
  timed : List Timed := []
  loans : List Loan := []
  borrowQ : List (Nat × Nat × Nat × Nat) := []
  eclipsed : Bool := false
  lowered : Bool := false
  gc : Gc := {}
  ratio : Nat := 0x60000
  target : Nat := 600
  ramping : Bool := false
  onBoot : Bool := true
  thermal : Nat := 2100
  replica : Nat := 2100
  grant : Nat := 600
  stretch : Nat := 0
  stretches : Nat := 0
deriving DecidableEq, Repr

/-- A dump in progress or the last one; `held` are the records of the held instant of one in progress (08 R325 to
R330). -/
structure Dump where
  state : Nat := 0
  trigger : Nat := 0
  second : Bool := false
  later : Nat := 0
  isSealed : Bool := false
  seq : Nat := 0
  event : Nat := 0
  station : Nat := 0xFFFF
  time : Nat := 0
  src : Option (Src × Nat) := none
  held : List (Nat × List Byte) := []
deriving DecidableEq, Repr

/-- An event raised and not yet recorded; `detail` is `none` where the spec states none (13 R465). -/
structure Ev where
  code : Nat
  die : Nat
  unit : Nat := 0
  detail : Option Nat := none
  time : Nat := 0
  isSealed : Bool := false
deriving DecidableEq, Repr

/-- What is wrong with a codeword as a read meets it: errors by stored symbol (0 to 63 data, 64 to 71 check), and the
other codeword that a misdirected row or column delivers in its place (09 R336, R337; log 8). -/
structure CwErr where
  pat : Table Byte := []
  src : Option Nat := none
deriving DecidableEq, Repr

/-- A stack (0 to 15) or device (16 + 0 to 31): trained, spares out, spares used, temperature, retired
ranges, refresh rate 0, 1, 2 (09 R353). -/
structure Dram where
  trained : Bool := false
  sparesOut : Bool := false
  refresh : Nat := 0
  sparesUsed : Nat := 0
  temp : Nat := 0
  retired : Nat := 0
  refreshes : Nat := 0
deriving DecidableEq, Repr

/-- Faults of the model. None is raised: every command has a next state in every state. -/
inductive Fault where
  /-- Raised by no command; it is here so that the type has a constructor. Safe. -/
  | noFault
deriving DecidableEq, Repr

/-- Refusals of the model. -/
inductive Refusal where
  /-- Raised by exec for a command whose meaning is not yet written, by its mnemonic. Safe. -/
  | notModelled (mnemonic : String)
deriving DecidableEq, Repr

/-- A self-test that waits or runs: unit kind, index (location code for kinds 0x09 and 0x0B), triggering
event (16 R530 to R535). -/
structure Test where
  kind : Nat
  index : Nat
  event : Nat
deriving DecidableEq, Repr

/-- A fault stop: an error wants one, when it arose, its event; step 1 taken; stage 0 none, 1 waiting for
the decision, 2 dumping, 3 done; FAULT_N driven by it (16 R527, R528). -/
structure FaultStop where
  wanted : Bool := false
  since : Nat := 0
  event : Nat := 0
  stage : Nat := 0
  active : Bool := false
deriving DecidableEq, Repr

/-- One sequence space of a port, 0 messages, 1 signals: next sequence number to send, the replay buffer (sequence number
and the 256 bytes sent), those of it to be sent again, next expected from the peer, the flit last resent first and how
often, whether a nak is due (10 R364 to R366). -/
structure Space where
  next : Nat := 0
  unacked : List (Nat × List Byte) := []
  again : List Nat := []
  expect : Nat := 0
  failSeq : Nat := 0
  fails : Nat := 0
  nakDue : Bool := false
deriving DecidableEq, Repr

/-- A handoff port: state 0 DOWN, 1 TRAINING, 2 UP, 3 FAILED, its peer, the peer that the control flits of this bring-up
name, whether it has ever trained, loopback result, attempts, slot number, spaces, credits, flit counter, flits, bodies of
control flits and hurdle messages waiting, first flits of requests sent (sequence number, originator, tag, message type),
messages arriving by class (link word of the first flit, bytes, flits to come), and the last flit on its wires (10 R358 to
R379). -/
structure HPort where
  state : Nat := 0
  enabled : Bool := true
  peerModule : Nat := 0
  peerPort : Nat := 0
  before : Option (Nat × Nat) := none
  seen : Option (Nat × Nat) := none
  trained : Bool := false
  loop : Nat := 0
  attempts : Nat := 0
  slot : Nat := 0
  spaces : Table Space := []
  credit0 : Nat := 1024
  credit1 : Nat := 1024
  freed0 : Nat := 0
  freed1 : Nat := 0
  counter : Nat := 0
  txQ : List Flit := []
  ctlQ : List (List Byte) := []
  hurQ : List HurMsg := []
  starts : List (Nat × Nat × Nat × Nat) := []
  rx : Table (LinkWord × List Byte × Nat) := []
  lastDiscard : Nat := 0
  sent : Option (List Byte) := none
deriving DecidableEq, Repr

/-- An outstanding command of a queue pair (13 R438, R445). -/
structure OutCmd where
  cid : Nat
  token : Nat
  opcode : Nat
deriving DecidableEq, Repr

/-- A kept token: its command's opcode and, once complete, first status and result (13 R444, R445). -/
structure Tok where
  token : Nat
  opcode : Nat
  done : Option (Nat × Nat) := none
deriving DecidableEq, Repr

/-- A queue pair: its registers, indices, completions not consumed, phase, outstanding commands, token
store (oldest first), and replays that wait for their original (cid, token) (13 R436 to R445, R470). -/
structure Qp where
  sqBase : Nat := 0
  cqBase : Nat := 0
  sqM1 : Nat := 0
  cqM1 : Nat := 0
  vector : Nat := 0
  enable : Bool := false
  sqHead : Nat := 0
  sqTail : Nat := 0
  cqHead : Nat := 0
  cqTail : Nat := 0
  unread : Nat := 0
  phase : Bool := true
  outs : List OutCmd := []
  toks : List Tok := []
  replays : List (Nat × Nat) := []
deriving DecidableEq, Repr

/-- The event ring; `full` since a record was dropped (13 R465 to R469). -/
structure EvtRing where
  base : Nat := 0
  m1 : Nat := 0
  vector : Nat := 0
  enable : Bool := false
  head : Nat := 0
  tail : Nat := 0
  count : Nat := 0
  phase : Bool := true
  lost : Bool := false
deriving DecidableEq, Repr

/-- What the module posts to the host: a write, or an interrupt vector's message (13 R432, R468). -/
inductive Post where
  | write (a : Nat) (bs : List Byte)
  | vector (v : Nat)
deriving DecidableEq, Repr

/-- An MSI-X table entry: address, data, mask (13 R468). -/
structure Msix where
  addr : Nat := 0
  data : Nat := 0
  masked : Bool := true
deriving DecidableEq, Repr

/-- A chunk in a gateway's buffer: chunk slot, shard, index in the shard, format, bytes, groups done, a
read that failed, whether its writes have waited for a snapshot, OUT elements by parameter (high, low)
(11 R382 to R395, R410). -/
structure ChunkBuf where
  slot : Nat := 0
  shard : Nat := 0
  index : Nat := 0
  fmt : Nat := 0
  data : List Byte := []
  next : Nat := 0
  failed : Bool := false
  held : Bool := false
  out : Table (W32 × Option W32) := []
deriving DecidableEq, Repr

/-- A gateway: update engine state 0 no course, 1 applying, 2 finished; bitmap, buffers in order of
taking, counts, loss report (group, value, spike), the skip it met, tags of gathers not answered, done
counters at the last decision, norms by group (11 R384 to R413). -/
structure Gw where
  state : Nat := 0
  bitmap : Table Bool := []
  bufs : List ChunkBuf := []
  applied : Nat := 0
  loss : Option (Nat × W32 × Bool) := none
  readFault : Bool := false
  gathers : List Nat := []
  doneBase : Table W32 := []
  norms : Table W32 := []
deriving DecidableEq, Repr

/-- Comet Watch state of a tensor group (11 R402 to R407, R412): the configuration in effect, one that
waits for the next vote, counts and norm at the vote, latched ones, and loss state. -/
structure Group where
  cfg : GroupCfg := {}
  nextCfg : Option GroupCfg := none
  used : Bool := false
  nfVote : Nat := 0
  nfLast : Nat := 0
  norm : W32 := 0
  normLast : W32 := 0
  mu : W32 := 0
  var : W32 := 0
  reports : Nat := 0
  spikeLast : Bool := false
deriving DecidableEq, Repr

/-- The update coordinator: bases, live bank, verdict, frozen, counts, whether it has voted and its vote
was a freeze, whether it waits for the ack, steps decided and skipped in the RUN (11 R396 to R411). -/
structure Coord where
  bs : W32 := 0
  ba : W32 := 0
  live : Bool := false
  lastVerdict : Bool := false
  frozen : Bool := false
  commits : Nat := 0
  skips : Nat := 0
  voted : Bool := false
  votedSkip : Bool := false
  freeze : Bool := false
  acking : Bool := false
  runSteps : Nat := 0
  runSkips : Nat := 0
deriving DecidableEq, Repr

/-- A SNAPSHOT that runs: its command, destination, format, pinned bank and step count, chunks to read
(gateway, chunk slot) in order, host or window bytes written, bytes of a sealed job that await their output
record, records written, the event raised once, its status so far, and window requests not answered (tag,
time) (11 R410; 13 R461; 17 R554). -/
structure Snap where
  src : Src
  dest : Nat
  window : Bool
  fmt : Nat
  scaled : Bool
  bank : Bool
  step : Nat
  todo : List (Nat × Nat)
  pos : Nat := 0
  buf : List Byte := []
  records : Nat := 0
  waited : Bool := false
  status : Nat := 0
  tags : List (Nat × Nat) := []
deriving DecidableEq, Repr

/-- A fault-map entry, and for an LPDDR5X range whether it was recorded while 32 devices were in use (09 R349;
16 R540). -/
structure FEntry where
  kind : Nat
  action : Nat
  state : Nat := 0
  location : Nat
  event : Nat
  hours : Nat
  full : Bool := false
deriving DecidableEq, Repr

/-- An event-log entry (18 R573). -/
structure LogEntry where
  ev : Ev
  seq : Nat := 0
  hours : Nat := 0
  gap : Bool := false
  unreadable : Bool := false
deriving DecidableEq, Repr

/-- A vault transaction that waits (18 R564, R565). -/
inductive Txn where
  | fault (e : FEntry)
  | log (l : List LogEntry)
  | life
deriving DecidableEq, Repr

/-- Lifetime counts (18 R576). -/
structure Life where
  seconds : Nat := 0
  thermal : Nat := 0
  warnings : Nat := 0
  resets : Nat := 0
  recovered : Nat := 0
deriving DecidableEq, Repr

/-- The vault: state 0 NORMAL, 2 READ_ONLY, 3 FAILED; last transaction, journal in the middle of a
transaction, counters, keys (the owner's in slot 0 and the supplement key as manufactured, log 32),
certificate, supplements (type to version and measurement) and slots that fail their CRC, fault map, event
log and its buffer, bad copies of essential state and fault map, blocks, lifetime (18 R563 to R577). -/
structure Vault where
  state : Nat := 0
  txn : Nat := 0
  torn : Bool := false
  recoveredOld : Bool := false
  counters : Table Nat := []
  courseKeys : Table Nat := [(0, 1)]
  suppKey : Nat := 2
  cert : Bool := true
  supps : Table (Nat × Nat) := []
  badSupps : Table Bool := []
  fmap : List FEntry := []
  mapGen : Nat := 0
  log : List LogEntry := []
  logSeq : Nat := 0
  buf : List LogEntry := []
  gap : Bool := false
  badEssential : Nat := 0
  badMap : Nat := 0
  spare : Nat := 65535
  retired : Nat := 0
  maxErase : Nat := 0
  blockFails : Bool := false
  sparesWarned : Bool := false
  poolSpent : Bool := false
  life : Life := {}
  lifeSaved : Life := {}
  queue : List Txn := []
deriving DecidableEq, Repr

/-- Supply, rails, power-up, clocks, budget and pins (14; 15; 18 R584; 19). `stage` is the last step of
R505 completed, 0 in the dark; `perst` is PERST_N asserted; `resetting` a PERST_N or warm reset in
progress; FAULT_N causes other than a fault stop in `railFault`, `noSup` and `netFault`. -/
structure Power where
  mv : Nat := 0
  above : Bool := false
  regulators : Bool := false
  rails : Nat := 0
  railFails : Nat := 0
  railFault : Bool := false
  noSup : Bool := false
  netFault : Bool := false
  trip : Bool := false
  stage : Nat := 0
  fixedOn : Bool := false
  stopped : Bool := false
  lpZero : Bool := false
  ready : Bool := false
  perst : Bool := false
  resetting : Bool := false
  cause : Nat := 0
  resets : Nat := 0
  readyMs : Nat := 0
  since : Nat := 0
  refOk : Bool := false
  refLost : Bool := false
  xtalOk : Bool := false
  xtalSrc : Bool := false
  warn : Bool := false
  hold : Bool := false
  alert : Bool := false
  alertStretch : Bool := false
  backstop : Bool := false
  excess : Bool := false
  overRaised : Bool := false
  clockWait : List (Src × Nat) := []
  halfWest : Bool := false
  halfEast : Bool := false
  thermal : Table Bool := []
  ca : Nat := 0
  p10 : Nat := 0
  watts : Nat := 0
  west : Nat := 0
  east : Nat := 0
  cap : Nat := 12000
  alertCap : Nat := 6000
  westCapped : Bool := false
  eastCapped : Bool := false
  westMhz : Nat := 2100
  eastMhz : Nat := 2100
  linkUp : Bool := false
  linksOn : Bool := false
  speed : Nat := 0
  width : Nat := 0
  flit : Bool := false
deriving DecidableEq, Repr

/-- Control cores: acting supervisor on HD1, each supervisor pair able to serve, a failover in progress
(failed pair under test), moon pairs that do not serve since a failover and those out of service (2 × die + pair)
(01 R32, R33; 16 R536 to R538). -/
structure Ctl where
  hd1 : Bool := false
  hd0Ok : Bool := true
  hd1Ok : Bool := true
  failing : Bool := false
  moonOut : Table Bool := []
  moonDead : Table Bool := []
deriving DecidableEq, Repr

/-- An answer of the management endpoint, by what the spec gives of its content (18 R579 to R581, R591;
log 40): numbers, a reading (none while unavailable), thresholds by kind (0 lower warning, 1 lower fatal,
2 upper warning, 3 upper critical, 4 upper fatal), a vendor status with its body, contents that the spec
does not state, by their draw, or a refusal. -/
inductive Answer where
  | numbers (l : List Nat)
  | reading (v : Option Int)
  | thresholds (l : List (Nat × Int))
  | vendor (status : Nat) (body : List Byte)
  | unstated (d : Nat)
  | refused
deriving DecidableEq, Repr

/-- The management endpoint: dynamic address, endpoint ID, terminus ID, sensor readings and the last
response (18 R578 to R585). -/
structure Mgt where
  i3c : Bool := false
  address : Nat := 0x5A
  eid : Nat := 0
  eidValid : Bool := false
  tid : Nat := 0
  sensors : Table Int := []
  cold : Bool := false
  reply : Option Answer := none
deriving DecidableEq, Repr

/-- The status of a RUN that is under way: its command, causes for FAULT and TIMEOUT, ended by HALT, the
HALT and END_JOB commands that wait (13 R456, R457). -/
structure RunCtl where
  src : Option Src := none
  started : Bool := false
  fault : Bool := false
  timeout : Bool := false
  skipped : Bool := false
  byHalt : Bool := false
  halts : List Src := []
  portLost : Bool := false
  gcEnded : Table Bool := []
deriving DecidableEq, Repr

/-- A COPY that waits, with the key of its slot when it started (07 R269; 17 R550). -/
structure HeldCopy where
  src : Src
  key : Nat := 0
  p : CopyP
  inp : CopyIn
deriving DecidableEq, Repr

/-- The state of the module. -/
structure State where
  pending : List Instr := []
  freeCtr : Nat := 0
  timeNs : Nat := 0
  hostMem : Memory := []
  barReply : Option (List Byte) := none
  evs : List Ev := []
  regs : Table W64 := []
  mem : Memory := []
  cwErr : Table CwErr := []
  wireFault : Table Bool := []
  defects : Table Nat := []
  writeBack : List (Nat × Option (List Byte)) := []
  lastCe : Table Nat := []
  dram : Table Dram := []
  scrubAt : Table Nat := []
  stns : Table Station := []
  arrs : Table Arr := []
  clus : Table Cluster := []
  coreCtr : Table W32 := []
  cluCtr : Table W32 := []
  dieCtr : Table W32 := []
  modCtr : Table W32 := []
  adds : List Add := []
  waiters : List (Waiter × Ctr) := []
  valMsgs : List (Waiter × Ctr × W32) := []
  seen : List (Waiter × W32) := []
  jobUp : Table W32 := []
  jobSum : Table W32 := []
  jobDown : List (Nat × W32) := []
  hopFails : Table Nat := []
  netStopped : Table Bool := []
  fabFails : Table Nat := []
  fabStopped : Table Bool := []
  engines : Table Engine := []
  wins : Table Win := []
  bankMode : Table Nat := []
  bankState : Table Nat := []
  coresEff : Table Nat := []
  coresNext : Table Nat := []
  dump : Dump := {}
  course : Option Image := none
  runNo : Nat := 0
  stop : FaultStop := {}
  stepErr : Bool := false
  tests : List Test := []
  rates : Table (List Nat) := []
  moduleId : Nat := 1023
  ports : Table HPort := []
  inbox : List (Nat × Msg) := []
  inHur : List (Nat × List HurMsg) := []
  nfCnt : Table Nat := []
  reached : Table Bool := []
  ofls : Table Ofl := []
  keys : Keys := {}
  reqTag : Nat := 0
  gwIn : Table (List Chunk) := []
  steps : Nat := 0
  jobState : Nat := 0
  qps : Table Qp := []
  rot : Nat := 0
  ring : EvtRing := {}
  posts : List Post := []
  vecDue : List Nat := []
  msix : Table Msix := []
  pba : Table Bool := []
  hostErr : List (Nat × Nat) := []
  evTotal : Nat := 0
  cmdTotal : Nat := 0
  capGen : Nat := 0
  gws : Table Gw := []
  groups : Table Group := []
  coord : Coord := {}
  snap : Option Snap := none
  run : RunCtl := {}
  power : Power := {}
  ctl : Ctl := {}
  vault : Vault := {}
  mgt : Mgt := {}
  edgesBad : Table Bool := []
  banksBad : Table Bool := []
  assign : Table (List Nat) := []
  assignNext : Table (List Nat) := []
  gated : Table Bool := []
  debugOpen : Bool := false
  zeroDraw : Option Nat := none
  fltLast : Option (Nat × Nat × Nat × Nat) := none
  suppsEff : Table (Nat × Nat) := []
  held : Table Nat := []
  copies : List HeldCopy := []
deriving DecidableEq, Repr

/-- The module right after reset (15 R502): no rail is up and nothing has started. -/
def State.reset : State := {}

end Sys2Proof.Machine
end

