-- ==== Sys2Proof/Machine/Ops.lean ====
section
/-! DEFINITION. Named operations over the state: parts by number, events, error registers and counters,
free values, timed effects, errors that halt a station, and self-test requests. -/
namespace Sys2Proof.Machine
open Sys2Proof

/-- What a command answers. -/
abbrev Out := Host.Outcome State Fault Refusal

/-- The byte of a memory; an unlisted address reads 0 (log 10). -/
def memGet : Memory → Nat → Byte
  | [], _ => 0
  | (a, b) :: t, k => if a = k then b else memGet t k

/-- A memory with an entry put before the first one that lies above it. -/
def memInsert (k : Nat) (v : Byte) : Memory → Memory
  | [] => [(k, v)]
  | (a, b) :: t => if k < a then (k, v) :: (a, b) :: t else (a, b) :: memInsert k v t

/-- A memory with the byte at `k` set: the entry at `k` goes, and a byte other than 0 takes its place in the order,
so a memory in canonical form stays in it. -/
def memSet (m : Memory) (k : Nat) (v : Byte) : Memory :=
  if v = 0 then m.filter (fun e => e.1 != k) else memInsert k v (m.filter (fun e => e.1 != k))

/-- A memory with consecutive bytes written from `k`. -/
def memWrite (m : Memory) (k : Nat) : List Byte → Memory
  | [] => m
  | b :: t => memWrite (memSet m k b) (k + 1) t

/-- A memory with listed bytes written. -/
def memPut (m : Memory) (l : List (Nat × Byte)) : Memory := l.foldl (fun m e => memSet m e.1 e.2) m

/-- A memory with the bytes from `lo` up to `hi` at 0. -/
def memZero (m : Memory) (lo hi : Nat) : Memory := m.filter (fun e => e.1 < lo || hi ≤ e.1)

/-- `n` bytes from `k`. -/
def memRead (m : Memory) (k n : Nat) : List Byte := (List.range n).map (fun i => memGet m (k + i))

/-- Every entry of a memory lies above `lo` or at it, rising, and none is 0. -/
def memAbove : Nat → Memory → Bool
  | _, [] => true
  | lo, (a, b) :: t => decide (lo ≤ a) && b != 0 && memAbove (a + 1) t

/-- The canonical form of a memory. -/
def Memory.wf (m : Memory) : Bool := memAbove 0 m

/-- The die of a station. -/
def dieOf (n : Nat) : Nat := n / 96

/-- The cluster of a station, 12 × die + cluster (00 R9). -/
def cluOf (n : Nat) : Nat := n / 8

/-- The station numbered `n`. -/
def stn (s : State) (n : Nat) : Station := s.stns.get {} n

/-- The state with station `n` changed. -/
def updStn (s : State) (n : Nat) (f : Station → Station) : State :=
  { s with stns := s.stns.upd {} n f }

/-- Array `a` of station `n`. -/
def arr (s : State) (n a : Nat) : Arr := s.arrs.get {} (2 * n + a)

/-- The state with array `a` of station `n` changed. -/
def updArr (s : State) (n a : Nat) (f : Arr → Arr) : State :=
  { s with arrs := s.arrs.upd {} (2 * n + a) f }

/-- The cluster numbered `g`. -/
def clu (s : State) (g : Nat) : Cluster := s.clus.get {} g

/-- The state with cluster `g` changed. -/
def updClu (s : State) (g : Nat) (f : Cluster → Cluster) : State :=
  { s with clus := s.clus.upd {} g f }

/-- The general core of cluster `g`. -/
def gcOf (s : State) (g : Nat) : Gc := (clu s g).gc

/-- The state with the general core of cluster `g` changed. -/
def updGc (s : State) (g : Nat) (f : Gc → Gc) : State :=
  updClu s g (fun c => { c with gc := f c.gc })

/-- Engine `e` of cluster `g`. -/
def eng (s : State) (g e : Nat) : Engine := s.engines.get {} (4 * g + e)

/-- The state with engine `e` of cluster `g` changed. -/
def updEng (s : State) (g e : Nat) (f : Engine → Engine) : State :=
  { s with engines := s.engines.upd {} (4 * g + e) f }

/-- Logical cores of cluster `g` under the assignment in effect (01 R27, R44). -/
def cores (s : State) (g : Nat) : Nat := s.coresEff.get 8 g

/-- A station that is present (01 R27, R29). -/
def present (s : State) (n : Nat) : Bool := decide (n < 768) && decide (n % 8 < cores s (cluOf n))

/-- A cluster that is not retired (01 R28). -/
def live (s : State) (g : Nat) : Bool := decide (g < 96) && decide (0 < cores s g)

/-- Failed positions of a cluster under the assignment in effect. -/
def failedPos (s : State) (g : Nat) : List Nat := s.assign.get [] g

/-- The physical position that holds a station (01 R25). -/
def posOf (s : State) (n : Nat) : Nat :=
  (((List.range 9).filter (fun p => !(failedPos s (cluOf n)).contains p))[n % 8]?).getD 8

/-- The location code of array `a` of station `n`, by its physical position (16 R540). -/
def arrLoc (s : State) (n a : Nat) : Nat := n / 96 + 8 * (n % 96 / 8) + 128 * posOf s n + 2048 * a

/-- The stations of cluster `g` that are present. -/
def stationsOf (s : State) (g : Nat) : List Nat := (List.range (cores s g)).map (fun k => 8 * g + k)

/-- The program cycle of the station's cluster (06 R239). -/
def cycOf (s : State) (n : Nat) : Nat := (clu s (cluOf n)).cyc

/-- The loaded job is sealed (00 R3). -/
def sealedJob (s : State) : Bool :=
  match s.course with
  | some c => bitOf c.hdr.flags 0
  | none => false

/-- The loaded course is a debug course (03 R140). -/
def debugCourse (s : State) : Bool :=
  match s.course with
  | some c => bitOf c.hdr.flags 1
  | none => false

/-- The number of the loaded job. -/
def jobNo (s : State) : Nat :=
  match s.course with
  | some c => c.hdr.job
  | none => 0

/-- A register of the register region by its window and offset (01 R40). -/
def regKey (window off : Nat) : Nat := 4194304 * window + off

/-- The contents of a register that has no other home in the state. -/
def reg (s : State) (k : Nat) : Nat := (s.regs.get 0 k).toNat

/-- The state with a register's contents set. -/
def setReg (s : State) (k v : Nat) : State := { s with regs := s.regs.set k (BitVec.ofNat 64 v) }

/-- A saturating counter field of width `w` at bit `lo` of a register, raised by `n`. -/
def bump (s : State) (k lo w n : Nat) : State :=
  let v := reg s k
  setReg s k (setBits v (lo + w - 1) lo (min (2 ^ w - 1) (bits v (lo + w - 1) lo + n)))

/-- Fields (high, low, value) written into a number. -/
def putFields (v : Nat) (l : List (Nat × Nat × Nat)) : Nat :=
  l.foldl (fun v f => setBits v f.1 f.2.1 f.2.2) v

/-- Sets an error bit; the first_* fields update only while bits [top:0] are all 0 (02 R87). -/
def latch (s : State) (k top bit : Nat) (first : List (Nat × Nat × Nat)) : State :=
  let v := reg s k
  let v := if bits v top 0 = 0 then putFields v first else v
  setReg s k (setBits v bit bit 1)

/-- An event raised: it waits to be recorded (13 R465). -/
def raise (s : State) (code die unit : Nat) (detail : Option Nat) : State :=
  { s with
    evs := s.evs ++ [{ code := code, die := die, unit := unit, detail := detail, time := s.timeNs
                       isSealed := sealedJob s }]
    evTotal := s.evTotal + 1 }

/-- A draw of a free value: the state and the draw's number (log 12). -/
def draw (s : State) : State × Nat := ({ s with freeCtr := s.freeCtr + 1 }, s.freeCtr)

/-- Inserts a timed effect: in issue order, the scalar slot last within a cycle (06 R221). -/
def addTimed (t : Timed) : List Timed → List Timed
  | [] => [t]
  | x :: xs =>
    if x.issue < t.issue || (x.issue = t.issue && (t.scalar || !x.scalar)) then x :: addTimed t xs
    else t :: x :: xs

/-- Schedules an effect of station `n`, readable `after` program cycles from now (06 R239). -/
def schedule (s : State) (n after : Nat) (scalar : Bool) (e : Eff) : State :=
  updClu s (cluOf n) (fun c =>
    { c with timed := addTimed ⟨c.cyc + after, c.cyc, scalar, e⟩ c.timed })

/-- A check of the false-start detector fails at a stride: recorded in a debug course only (06 R251 to R253). -/
def fsFailAt (s : State) (n pc bit : Nat) : State :=
  if debugCourse s then
    let d := dieOf n
    let k := regKey d 0x300
    let s := if bits (reg s k) 7 0 = 0 then setReg s (regKey d 0x308) (pc % 16384) else s
    let s := latch s k 7 bit [(22, 16, n % 96), (26, 24, bit)]
    bump s (regKey d 0x310) 0 32 1
  else s

/-- A check of the false-start detector fails at the present stride. -/
def fsFail (s : State) (n bit : Nat) : State := fsFailAt s n (stn s n).pc bit

/-- A condition of the detector. -/
def fsIf (s : State) (c : Bool) (n bit : Nat) : State := if c then fsFail s n bit else s

/-- An error that begins a fault stop of the RUN, with its event; the vote of an open step becomes skip
(16 R525, R526). -/
def wantStop (s : State) (event : Nat) : State :=
  if s.jobState ≠ 3 then s
  else { s with
    stepErr := true
    stop := if s.stop.wanted || s.stop.stage ≠ 0 then s.stop
      else { s.stop with wanted := true, since := s.timeNs, event := event } }

/-- A station that has halted (06 R224.5; 08 R323). -/
def halted (t : Station) : Station :=
  { t with run := .halted, pend := none, released := false, eclipse := false, lent := 0, wdog := 0 }

/-- A station that halts at its next hurdle; one that already waits at a hurdle stride halts there, as
that stride does not issue (16 R524). -/
def haltAtHurdle (t : Station) : Station :=
  if t.run = .waiting && !t.released then halted { t with haltNext := true }
  else { t with haltNext := true }

/-- The station program halts at its next hurdle, and a fault stop follows (16 R524, R525). -/
def errHalt (s : State) (n event : Nat) : State := wantStop (updStn s n haltAtHurdle) event

/-- The event class of a unit kind (16, unit-kind table). -/
def kindClass (kind : Nat) : Nat :=
  match kind with
  | 0x01 => 2 | 0x02 => 1 | 0x03 => 1 | 0x04 => 1 | 0x05 => 5 | 0x06 => 1 | 0x07 => 3 | 0x08 => 5
  | 0x09 => 5 | 0x0A => 5 | 0x0B => 5 | 0x0C => 6 | _ => 0x0C

/-- FLT_STATUS (16 R541). -/
def fltStatus : Nat := regKey 10 0x800

/-- Requests a targeted self-test (16 R530, R531). -/
def requestTest (s : State) (kind index event : Nat) : State :=
  if s.tests.any (fun t => t.kind = kind ∧ t.index = index) then s
  else if s.tests.length < 256 then { s with tests := s.tests ++ [⟨kind, index, event⟩] }
  else raise (latch s fltStatus 0 10 []) (kindClass kind * 256 + 0xF2) 15 0 none

/-- Adds to the Comet Watch non-finite count of a tensor group (04 R160, R605). -/
def countNonFin (s : State) (group : Option Nat) (n : Nat) : State :=
  match group with
  | some g => if n = 0 then s else { s with nfCnt := s.nfCnt.upd 0 g (· + n) }
  | none => s

/-- Tokens spent in the current cycle of a cluster, and the peak (06 R244, R248). -/
def addTok (s : State) (g n : Nat) : State :=
  let s := updClu s g (fun c => { c with tok := c.tok + n })
  let k := regKey (g / 12) (0x200 + 8 * (g % 12))
  setReg s k (setBits (reg s k) 14 8 (max (bits (reg s k) 14 8) (min 127 (clu s g).tok)))

/-- Counts an occurrence at the present time and says whether more than `limit` lie within `ns`
(16 R530, last rows). -/
def rate (s : State) (key limit ns : Nat) : State × Bool :=
  let l := (s.rates.get [] key).filter (fun t => s.timeNs < t + ns) ++ [s.timeNs]
  ({ s with rates := s.rates.set key (if limit < l.length then [] else l) }, limit < l.length)

/-- A die lies in the west half (01 R21). -/
def westDie (d : Nat) : Bool := d % 4 < 2

/-- The policy limit of a cluster's half (14 R486). -/
def policyLimit (s : State) (g : Nat) : Nat := if westDie (g / 12) then s.power.westMhz else s.power.eastMhz

/-- The lowest of the limits on a cluster's frequency, in MHz (14 R477, R483). -/
def pacerLimit (s : State) (g : Nat) : Nat :=
  let c := clu s g
  max 600 (min (policyLimit s g) (min c.replica (min c.thermal (min c.grant (if c.lowered then 600 else 2100)))))

/-- The ratio of a frequency, in 1/65,536 of the fixed domain's (14 R477). -/
def ratioOf (mhz : Nat) : Nat := mhz * 65536 / 100

/-- A region gets a new ramp target; one on the boot clock stays at 600 MHz (14 R478, R479). -/
def retarget (s : State) (g : Nat) : State :=
  let t := pacerLimit s g
  updClu s g (fun c => { c with target := t, ramping := !c.onBoot && c.ratio ≠ ratioOf t })

end Sys2Proof.Machine
end

