-- ==== Sys2Proof/Machine/Code.lean ====
section
/-! DEFINITION. The check code of every memory: RS(72,64) over GF(2^8) with the address folded in, its encoder, its
syndromes and its decoder (09 R336, R337). -/
namespace Sys2Proof.Machine
open Sys2Proof

/-- A field element times α = 0x02, by the polynomial 0x11D (09 R336). -/
def gfDouble (a : Byte) : Byte := if a.msb then (a <<< 1) ^^^ 0x1D#8 else a <<< 1

/-- The sum of the multiples of `a` that the low `n` bits of `b` select. -/
def gfMulBits : Nat → Byte → Byte → Byte
  | 0, _, _ => 0
  | n + 1, a, b => (if b.getLsbD 0 then a else 0) ^^^ gfMulBits n (gfDouble a) (b >>> 1)

/-- The product of 2 field elements (09 R336). -/
def gfMul (a b : Byte) : Byte := gfMulBits 8 a b

/-- A power of a field element. -/
def gfPow (a : Byte) : Nat → Byte
  | 0 => 1
  | n + 1 => gfMul a (gfPow a n)

/-- The inverse of a field element other than 0, whose order divides 255. -/
def gfInv (a : Byte) : Byte := gfPow a 254

/-- A power of α. -/
def alphaPow (n : Nat) : Byte := gfPow 0x02#8 n

/-- A polynomial, highest coefficient first, times x + `a`. -/
def polyTimes (p : List Byte) (a : Byte) : List Byte :=
  List.zipWith (· ^^^ ·) (p ++ [0]) (0 :: p.map (gfMul a))

/-- A polynomial, highest coefficient first, at `x`. -/
def polyAt (p : List Byte) (x : Byte) : Byte := p.foldl (fun v c => gfMul v x ^^^ c) 0

/-- The generator: the product of x − α^i for i from 0 to 7 (09 R336). -/
def rsGenerator : List Byte := (List.range 8).foldl (fun p i => polyTimes p (alphaPow i)) [1]

/-- One message symbol into the remainder register of the systematic encoder. -/
def rsStep (r : List Byte) (m : Byte) : List Byte :=
  let f := m ^^^ r.headD 0
  List.zipWith (· ^^^ ·) (r.drop 1 ++ [0]) ((rsGenerator.drop 1).map (gfMul f))

/-- The 8 check symbols of a message: virtual symbols first, then data (09 R336). -/
def rsCheck (msg : List Byte) : List Byte := msg.foldl rsStep (List.replicate 8 0)

/-- The virtual symbols of codeword `cw`: its module address shifted right by 6, little-endian (09 R336). -/
def virtualOf (cw : Nat) : List Byte := leBytes 6 cw

/-- The 8 syndromes of a received word of 78 symbols (09 R337). -/
def rsSyndromes (w : List Byte) : List Byte := (List.range 8).map (fun j => polyAt w (alphaPow j))

/-- The locator of symbol `p` of 78. -/
def locator (p : Nat) : Byte := alphaPow (77 - p)

/-- The sets of `k` elements of a list, in its order. -/
def setsOf {α : Type} : Nat → List α → List (List α)
  | 0, _ => [[]]
  | _ + 1, [] => []
  | k + 1, x :: t => (setsOf k t).map (x :: ·) ++ setsOf (k + 1) t

/-- The error values at locators `l` that the first syndromes name. -/
def errorValues (l syn : List Byte) : List Byte :=
  l.map (fun x =>
    let p := (l.filter (· ≠ x)).foldl polyTimes [1]
    gfMul ((List.zipWith gfMul p.reverse syn).foldl (· ^^^ ·) 0) (gfInv (polyAt p x)))

/-- Errors at symbols `ps` explain every syndrome. -/
def explains (syn : List Byte) (ps : List Nat) : Bool :=
  let l := ps.map locator
  let e := errorValues l syn
  e.all (· ≠ 0) && (List.range 8).all (fun j =>
    (List.zipWith (fun x v => gfMul v (gfPow x j)) l e).foldl (· ^^^ ·) 0 = syn.getD j 0)

/-- The decoder: the errors, symbol and value, of the codeword within 3 symbols of a received word; none where there
is none (09 R337). -/
def rsDecode (w : List Byte) : Option (List (Nat × Byte)) :=
  let syn := rsSyndromes w
  if syn.all (· = 0) then some []
  else
    (([1, 2, 3].flatMap (fun k => setsOf k (List.range 78))).find? (explains syn)).map (fun ps =>
      ps.zip (errorValues (ps.map locator) syn))

/-- Stored symbols in error. -/
def CwErr.syms (e : CwErr) : Nat := (e.pat.filter (fun p => p.1 < 72 && p.2 ≠ 0)).length

/-- The read reaches another codeword than the one that its address names. -/
def CwErr.virt (e : CwErr) : Bool := e.src.isSome

/-- Virtual symbols in which a read of codeword `cw` differs from what was encoded. -/
def virtualErrors (cw : Nat) (e : CwErr) : Nat :=
  match e.src with
  | some c => ((List.zip (virtualOf cw) (virtualOf c)).filter (fun p => p.1 ≠ p.2)).length
  | none => 0

/-- The 72 symbols that a read of codeword `cw` meets: data and check symbols as they were encoded, with their errors
(09 R336; log 8). -/
def storedSymbols (mem : Memory) (cw : Nat) (e : CwErr) : List Byte :=
  let c := e.src.getD cw
  let d := memRead mem (64 * c) 64
  (List.range 72).zip (d ++ rsCheck (virtualOf c ++ d)) |>.map (fun p => p.2 ^^^ e.pat.get 0 p.1)

/-- Outcomes of a codeword decode (09 R337). `wrong` delivers other data than was written, as stored or, with
`fixed`, as a correction: errors in more than 5 symbols lie outside the code's guarantee. -/
inductive CwOut where
  | clean | corrected | wrong (bs : List Byte) (fixed : Bool) | addrFault | bad
deriving DecidableEq, Repr

/-- The decode of a read word beyond the guarantee (09 R337). -/
def decodeWord (mem : Memory) (cw : Nat) (e : CwErr) : CwOut :=
  let w := storedSymbols mem cw e
  match rsDecode (virtualOf cw ++ w) with
  | none => .bad
  | some l =>
    if l.any (fun p => p.1 < 6) then .addrFault
    else .wrong ((List.range 64).map (fun i => w.getD i 0 ^^^ Table.get 0 l (i + 6))) (l ≠ [])

/-- The decode of codeword `cw`: by its number of symbol errors as far as the code guarantees the outcome, by the
decoder beyond 5 (09 R336, R337). -/
def cwOutcome (mem : Memory) (cw : Nat) (e : CwErr) : CwOut :=
  let v := virtualErrors cw e
  let n := e.syms + v
  if n = 0 then .clean
  else if n ≤ 3 then (if v = 0 then .corrected else .addrFault)
  else if n ≤ 5 then .bad
  else decodeWord mem cw e

end Sys2Proof.Machine
end

