-- ==== Sys2Proof/Machine/Memory.lean ====
section
/-! DEFINITION. The module address map, codeword reads with their outcomes, and writes (01, 09). -/
namespace Sys2Proof.Machine
open Sys2Proof

/-- A region of the module address map (01 R38). -/
inductive Place where
  | hbm (die : Nat)
  | exchange
  | dumpRegion
  | general
  | store (g : Nat)
  | pocket (n : Nat)
  | regs
  | reserved
deriving DecidableEq, Repr

/-- First address of the LPDDR5X regions (01 R38). -/
def lpBase : Nat := 0x020000000000
/-- First address of the dump region. -/
def dumpBase : Nat := 0x024000000000
/-- First address of the cluster stores. -/
def storeSpan : Nat := 0x040000000000
/-- First address of the pockets. -/
def pocketSpan : Nat := 0x040800000000

/-- Module address of a pocket offset (07 R261). -/
def pocketAddr (n o : Nat) : Nat := pocketSpan + n * 0x400000 + o

/-- First address of the store of cluster `g` (01 R39). -/
def storeAddr (g : Nat) : Nat := storeSpan + g / 12 * 0x80000000 + g % 12 * 0x08000000

/-- Ranges of a die's HBM3E that are out of use (09 R350). -/
def hbmLost (s : State) (d : Nat) : Nat :=
  (s.defects.filter (fun e => decide (0x10000000 + 0x18000 * d ≤ e.1) && decide (e.1 < 0x10000000 + 0x18000 * (d + 1))
    && e.2 = 3)).length

/-- A failed stack removes its die's range, and so does the 256th retired range (09 R350, R352). -/
def hbmFailed (s : State) (d : Nat) : Bool :=
  s.defects.get 0 (8 * 65536 + 2 * d) ≥ 2 || s.defects.get 0 (8 * 65536 + 2 * d + 1) ≥ 2 || 256 ≤ hbmLost s d

/-- A device of a hub die has failed (09 R345). -/
def lpFailed (s : State) (hub : Nat) : Bool :=
  (List.range 16).any (fun j => s.defects.get 0 (10 * 65536 + 16 * hub + j) ≥ 2)

/-- First address above the LPDDR5X general region (01 R38; 09 R345). -/
def lpEnd (s : State) : Nat :=
  if lpFailed s 0 && lpFailed s 1 then lpBase
  else if lpFailed s 0 || lpFailed s 1 then 0x02E380000000
  else 0x03C700000000

/-- The region of an address, before retirement and bank states (01 R38, R39, R42). -/
def placeMap (s : State) (a : Nat) : Place :=
  if a < 0x018000000000 then
    (if hbmFailed s (a / 0x003000000000) then .reserved else .hbm (a / 0x003000000000))
  else if a < lpBase then .reserved
  else if a < dumpBase then (if a < lpEnd s then .exchange else .reserved)
  else if a < 0x024004000000 then (if a < lpEnd s then .dumpRegion else .reserved)
  else if a < 0x03C700000000 then (if a < lpEnd s then .general else .reserved)
  else if a < storeSpan then .reserved
  else if a < 0x040400000000 then
    let d := (a - storeSpan) / 0x80000000
    let c := (a - storeSpan) % 0x80000000 / 0x08000000
    if c < 12 && live s (12 * d + c) then .store (12 * d + c) else .reserved
  else if a < pocketSpan then .reserved
  else if a < 0x0408C0000000 then
    let n := (a - pocketSpan) / 0x400000
    if present s n then .pocket n else .reserved
  else if 0x050000000000 ≤ a && a < 0x050004000000 then .regs
  else .reserved

/-- The bank number of an address: pocket banks 8 n + i, then store banks 6,144 + 32 g + k (07 R261,
R264). -/
def bankOf (p : Place) (a : Nat) : Option Nat :=
  match p with
  | .pocket n => some (8 * n + (a - pocketAddr n 0) / 0x80000)
  | .store g => some (6144 + 32 * g + (a - storeAddr g) / 0x400000)
  | _ => none

/-- A retired range (09 R350): an aligned 2 MiB of HBM3E, or an aligned 4 MiB of LPDDR5X. -/
def retiredKey (p : Place) (a : Nat) : Nat :=
  match p with
  | .hbm _ => 0x10000000 + a / 0x200000
  | _ => 0x20000000 + (a - lpBase) / 0x400000

/-- The region of an address as accesses meet it: retired ranges and banks that are OFF are reserved
(01 R42; 09 R350). -/
def place (s : State) (a : Nat) : Place :=
  let p := placeMap s a
  match p with
  | .hbm _ | .exchange | .dumpRegion | .general =>
    if s.defects.get 0 (retiredKey p a) = 3 then .reserved else p
  | .store _ | .pocket _ =>
    match bankOf p a with
    | some b => if s.bankState.get 0 b = 0 then .reserved else p
    | none => p
  | _ => p

/-- The register window of the die that holds an address, and the source code of MEM_ERR_STATUS
(09 R354). -/
def memDie (s : State) (a : Nat) : Nat × Nat :=
  match placeMap s a with
  | .hbm d => (d, (a - d * 0x003000000000) / 256 % 2)
  | .store g => (g / 12, 2)
  | .pocket n => (dieOf n, 3)
  | _ =>
    let u := a - lpBase
    if lpFailed s 1 then (8, u / 256 % 16)
    else if lpFailed s 0 then (9, u / 256 % 16)
    else (8 + u / 256 % 32 / 16, u / 256 % 16)

/-- The unit that a codeword's self-test names: HBM3E row, LPDDR5X range, pocket bank or store bank, with
its location or index (16 R530, R540; 09 R342). -/
def memUnit (s : State) (a : Nat) : Nat × Nat :=
  match placeMap s a with
  | .hbm d =>
    let o := a - d * 0x003000000000
    (9, 2 * d + bits o 8 8 + ((bits o 13 9) ^^^ (bits o 18 14)) * 16 + bits o 20 16 * 512
      + bits o 37 21 * 16384)
  | .store g => (5, 32 * g + (a - storeAddr g) / 0x400000)
  | .pocket n => (3, 8 * n + (a - pocketAddr n 0) / 0x80000)
  | _ => (0x0B, (a - lpBase) / 0x400000)

/-- An address in DRAM. -/
def isDram (s : State) (a : Nat) : Bool :=
  match placeMap s a with
  | .hbm _ | .exchange | .dumpRegion | .general => true
  | _ => false

/-- MEM_ERR_STATUS of a window (09 R354). -/
def memErrKey (w : Nat) : Nat := regKey w 0x2080

/-- Records an error of memory in the window of the die that holds it (09 R354). -/
def memErr (s : State) (a bit : Nat) : State :=
  let w := memDie s a
  let first := bits (reg s (memErrKey w.1)) 4 0 = 0
  let s := latch s (memErrKey w.1) 4 bit [(19, 16, w.2), (26, 24, bit)]
  if first && (bit = 1 || bit = 2 || bit = 3) then
    setReg s (regKey w.1 0x2088) (a / 64 * 64 % 2 ^ 48 + 2 ^ 63)
  else s

/-- The state after a corrected read of the codeword at `a`; `m` is the data of a miscorrection
(09 R337, R339; 16 R530). -/
def corrected (s : State) (a : Nat) (m : Option (List Byte)) : State :=
  let w := (memDie s a).1
  let s := bump (memErr s a 0) (regKey w 0x2090) 0 32 1
  let l := s.lastCe.get 0 w
  let s := if l = 0 || l + 1000000000 ≤ s.timeNs + 1 then
      { raise s 0x0501 w 0 none with lastCe := s.lastCe.set w (s.timeNs + 1) }
    else s
  let s := if isDram s a && !s.writeBack.contains (a / 64, m) then
      { s with writeBack := s.writeBack ++ [(a / 64, m)] }
    else s
  let u := memUnit s a
  let key := match placeMap s a with
    | .hbm _ => 0x50000000 + a / 0x200000
    | _ => 0x60000000 + u.1 * 65536 * 16 + u.2
  let r := rate s key 15 3600000000000
  if r.2 then requestTest r.1 u.1 u.2 0x0501 else r.1

/-- The state after an uncorrectable read or address fault of the codeword at `a` (09 R337; 16 R530). -/
def uncorrectable (s : State) (a bit code : Nat) : State :=
  let w := (memDie s a).1
  let s := bump (memErr s a bit) (regKey w 0x2098) 0 32 1
  let u := memUnit s a
  requestTest (raise s code w 0 none) u.1 u.2 code

/-- One codeword read: the state and its outcome (09 R337). -/
def readCw (s : State) (cw : Nat) : State × CwOut :=
  match cwOutcome s.mem cw (s.cwErr.get {} cw) with
  | .clean => (s, .clean)
  | .corrected => (corrected s (64 * cw) none, .corrected)
  | .wrong bs fixed => (if fixed then corrected s (64 * cw) (some bs) else s, .wrong bs fixed)
  | .addrFault => (uncorrectable s (64 * cw) 2 0x0503, .addrFault)
  | .bad => (uncorrectable s (64 * cw) 1 0x0502, .bad)

/-- What a read delivers: the state, the data of codewords that read wrong, and the first codeword that failed
(09 R338). -/
structure ReadOut where
  s : State
  mis : Table (List Byte) := []
  fail : Option Nat := none
deriving DecidableEq, Repr

/-- Reads codewords in order up to the first failure (09 R338). -/
def readCws (s : State) (cw : Nat) : Nat → ReadOut
  | 0 => { s := s }
  | n + 1 =>
    let r := readCw s cw
    match r.2 with
    | .addrFault | .bad => { s := r.1, fail := some cw }
    | .wrong bs _ =>
      let o := readCws r.1 (cw + 1) n
      { o with mis := (cw, bs) :: o.mis }
    | _ => readCws r.1 (cw + 1) n

/-- Codewords that `len` bytes from `a` touch (09 R336). -/
def nCws (a len : Nat) : Nat := if len = 0 then 0 else (a + len - 1) / 64 - a / 64 + 1

/-- The aligned 4 MiB ranges of the LPDDR5X general region that an access of the job reaches (13 R463). -/
def touch (s : State) (a len : Nat) : State :=
  if a < dumpBase || 0x03C700000000 ≤ a || len = 0 || s.course.isNone then s
  else
    let lo := (a - lpBase) / 0x400000
    let n := (a + len - 1 - lpBase) / 0x400000 - lo + 1
    { s with reached := (List.range n).foldl (fun t i => t.set (lo + i) true) s.reached }

/-- Reads `len` bytes from `a`. -/
def readMem (s : State) (a len : Nat) : ReadOut := readCws (touch s a len) (a / 64) (nCws a len)

/-- A byte as a read delivers it. -/
def readByte (o : ReadOut) (a : Nat) : Byte :=
  match o.mis.find? (fun e => e.1 = a / 64) with
  | some e => e.2.getD (a % 64) 0
  | none => memGet o.s.mem a

/-- The bytes that a read delivers. -/
def readBytes (o : ReadOut) (a len : Nat) : List Byte := (List.range len).map (fun i => readByte o (a + i))

/-- A write of part of one codeword, or of all of it: a part is a read-modify-write, not performed where
its read fails (09 R340). A newer write drops a pending write-back (09 R339). -/
def writeCw (s : State) (cw : Nat) (bs : List (Nat × Byte)) : State × Bool :=
  let r := if bs.length = 64 then (s, CwOut.clean) else readCw s cw
  match r.2 with
  | .addrFault | .bad => (r.1, false)
  | o =>
    let m := match o with
      | .wrong l _ => memWrite r.1.mem (64 * cw) l
      | _ => r.1.mem
    ({ r.1 with mem := memPut m bs, cwErr := r.1.cwErr.drop cw
                writeBack := r.1.writeBack.filter (fun e => e.1 ≠ cw) }, true)

/-- Writes listed bytes, codeword by codeword; false where a codeword's read failed (09 R340). -/
def writeCws (s : State) (bs : List (Nat × Byte)) : List Nat → State × Bool
  | [] => (s, true)
  | cw :: t =>
    let r := writeCw s cw (bs.filter (fun e => e.1 / 64 = cw))
    let q := writeCws r.1 bs t
    (q.1, r.2 && q.2)

/-- A list of numbers without repeats, in order of first appearance. -/
def uniq (l : List Nat) : List Nat := l.foldl (fun r x => if r.contains x then r else r ++ [x]) []

/-- Writes listed bytes at their module addresses. -/
def putMem (s : State) (bs : List (Nat × Byte)) : State × Bool :=
  writeCws s bs (uniq (bs.map (fun e => e.1 / 64)))

/-- Writes consecutive bytes from `a`. -/
def writeMem (s : State) (a : Nat) (bs : List Byte) : State × Bool :=
  putMem (touch s a bs.length) ((List.range bs.length).zip bs |>.map (fun e => (a + e.1, e.2)))

/-- Bytes of memory whose contents are undefined: free values of a draw (07 R288; log 16). -/
def undefMem (s : State) (a len : Nat) : State :=
  let d := draw s
  (writeMem d.1 a ((List.range len).map (Config.freeByte d.2))).1

/-- Zeroises addresses `lo` to `hi`, with valid check symbols (07 R271; 17 R562). -/
def zeroise (s : State) (lo hi : Nat) : State :=
  { s with mem := memZero s.mem lo hi
           cwErr := s.cwErr.filter (fun e => 64 * e.1 + 63 < lo || hi ≤ 64 * e.1)
           writeBack := s.writeBack.filter (fun e => 64 * e.1 + 63 < lo || hi ≤ 64 * e.1) }

/-- Writes bytes to host memory (13 R431; log 4). -/
def hostWrite (s : State) (a : Nat) (bs : List Byte) : State :=
  { s with hostMem := memWrite s.hostMem a bs }

/-- Host memory whose contents are undefined: free values of a draw (13 R431; log 16). -/
def undefHost (s : State) (a len : Nat) : State :=
  let d := draw s
  hostWrite d.1 a ((List.range len).map (Config.freeByte d.2))

end Sys2Proof.Machine
end

