-- ==== Sys2Proof/Machine/Operands.lean ====
section
/-! DEFINITION. Operands of station operations: registers, predicates, pocket addresses, landing buffers
and the tiles they hold. -/
namespace Sys2Proof.Machine
open Sys2Proof

/-- A station issues strides now: it is present and neither idle, waiting nor halted (06 R254). -/
def acts (s : State) (n : Nat) : Bool := present s n && (stn s n).run = .issuing

/-- Scalar register `r`; x0 reads 0 (06 R222). -/
def xreg (s : State) (n r : Nat) : W64 := if r = 0 then 0 else (stn s n).x.get 0 r

/-- Predicate `p`; p0 reads 1 (06 R222). -/
def preg (s : State) (n p : Nat) : Bool := if p = 0 then true else (stn s n).p.get false p

/-- A timed effect of the cluster that an earlier stride issued and that has not landed. -/
def pendingEff (s : State) (n : Nat) (p : Eff → Bool) : Bool :=
  (clu s (cluOf n)).timed.any (fun t => decide (t.issue < cycOf s n) && p t.eff)

/-- A register read before its producer's latency has elapsed (06 R243, R252). -/
def staleX (s : State) (n r : Nat) : Bool :=
  r ≠ 0 && pendingEff s n (fun e => match e with | .reg m q _ => m = n && q = r | _ => false)

/-- A predicate read before its producer's latency has elapsed. -/
def staleP (s : State) (n p : Nat) : Bool :=
  p ≠ 0 && pendingEff s n (fun e => match e with | .pred m q _ => m = n && q = p | _ => false)

/-- Pocket bytes read before a write of them is readable. -/
def stalePocket (s : State) (n o len : Nat) : Bool :=
  pendingEff s n (fun e => match e with
    | .pocket m a bs | .moved m a bs => m = n && bs.any (fun b => o ≤ a + b.1 && a + b.1 < o + len)
    | _ => false)

/-- Listed pocket offsets of which one is read before a write of it is readable. -/
def staleAt (s : State) (n : Nat) (os : List Nat) : Bool :=
  pendingEff s n (fun e => match e with
    | .pocket m a bs | .moved m a bs => m = n && bs.any (fun b => os.contains (a + b.1))
    | _ => false)

/-- Memory that stream descriptors in flight are writing (07 R279). -/
def openRanges (s : State) : List (Nat × Nat) := s.engines.flatMap (fun e => e.2.flight.filterMap (·.range))

/-- What of `len` bytes from `a` descriptors in flight are writing, as a reader meets it: the ranges and the draw of
what is read there (07 R291, R292). -/
def murk (s : State) (a len : Nat) : State × List (Nat × Nat) × Nat :=
  let rs := (openRanges s).filter (fun r => decide (r.1 < a + len) && decide (a < r.1 + r.2))
  if rs = [] then (s, [], 0) else ((draw s).1, rs, (draw s).2)

/-- The same for station `n`, which counts an uncounted write; whether the detector reports that is open (06 R241,
R252; 07 R292; log 64). -/
def cloud (s : State) (n a len : Nat) : State × List (Nat × Nat) × Nat :=
  let c := murk s a len
  if c.2.1 = [] then c
  else
    let d := draw c.1
    (fsIf d.1 (bitOf (Config.freeWord d.2).toNat 0) n 3, c.2)

/-- A byte as a unit reads it: undefined where a descriptor in flight is writing it (06 R241; 07 R292). -/
def stnByte (c : State × List (Nat × Nat) × Nat) (o : ReadOut) (a : Nat) : Byte :=
  if c.2.1.any (fun r => decide (r.1 ≤ a) && decide (a < r.1 + r.2)) then Config.freeByte c.2.2 a else readByte o a

/-- The detector's check of registers read (06 R252 check 3). -/
def seeX (s : State) (n : Nat) (rs : List Nat) : State := fsIf s (rs.any (staleX s n)) n 3

/-- Schedules a register result; writes to x0 are discarded (06 R221, R239). -/
def putX (s : State) (n r after : Nat) (scalar : Bool) (v : W64) : State :=
  if r = 0 then s else schedule s n after scalar (.reg n r v)

/-- Schedules a predicate result; writes to p0 are discarded (06 R221, R239). -/
def putP (s : State) (n p : Nat) (v : Bool) : State :=
  if p = 0 then s else schedule s n 1 true (.pred n p v)

/-- A pocket operand of `len` bytes at the address a register holds: its offset, or none where the access
is to a reserved address (06 R216). -/
def pocketOperand (v : W64) (align len : Nat) : Option Nat :=
  let o := v.toNat % 0x400000 / align * align
  if v.toNat / 0x400000 ≠ 0 then none
  else if o < 0x80000 then none
  else if o + len > 0x400000 then none
  else some o

/-- No byte of a pocket operand lies on a bank in state OFF, which is reserved too (01 R42). -/
def pocketOk (s : State) (n o len : Nat) : Bool :=
  len = 0 || (List.range ((o + len - 1) / 0x80000 - o / 0x80000 + 1)).all (fun i =>
    place s (pocketAddr n ((o / 0x80000 + i) * 0x80000)) != .reserved)

/-- STN_BAD_ADDR: the operation does nothing and the station halts at its next hurdle (06 R216). -/
def badAddr (s : State) (n : Nat) : State :=
  errHalt (raise s 0x0411 (dieOf n) (n % 96) none) n 0x0411

/-- Key of a landing buffer within a station. -/
def lbKey (lane : Lane) (b : Nat) : Nat := 4 * lane.code + b

/-- The landing buffer `b` of a lane, by its first buffer. -/
def lb (s : State) (n : Nat) (lane : Lane) (b : Nat) : LBuf := (stn s n).lbs.get {} (lbKey lane b)

/-- The state with a landing buffer changed. -/
def updLb (s : State) (n : Nat) (lane : Lane) (b : Nat) (f : LBuf → LBuf) : State :=
  updStn s n (fun t => { t with lbs := t.lbs.upd {} (lbKey lane b) f })

/-- Buffer `b` belongs to the baton whose first buffer is `f` (02 R57, R58). -/
def covers (t : Station) (lane : Lane) (f b : Nat) : Bool :=
  let x := t.lbs.get {} (lbKey lane f)
  x.state ≠ .free && decide (f ≤ b) && decide (b < f + x.baton.buffers)

/-- The state of buffer `b`; the buffers of a baton share theirs (02 R58). -/
def lbState (t : Station) (lane : Lane) (b : Nat) : LbState :=
  match (List.range 4).find? (fun f => covers t lane f b) with
  | some f => (t.lbs.get {} (lbKey lane f)).state
  | none => .free

/-- The code of a landing-buffer state (02 R58). -/
def LbState.code : LbState → Nat
  | .free => 0 | .landing => 1 | .held => 2 | .heldBad => 3

/-- Source kind of a descriptor (07 R276). -/
def srcKind (d : Desc) : Nat := bits d.w0 3 0
/-- Destination kind (07 R276). -/
def dstKind (d : Desc) : Nat := bits d.w0 7 4
/-- Bytes to move (07 R276). -/
def lenOf (d : Desc) : Nat := bits d.w0 47 16
/-- The lane that an LB coding names (07 R277). -/
def lbLane (w : Nat) : Lane := if bitOf w 0 then .outer else .inner
/-- The first buffer that an LB coding names (07 R277). -/
def lbFirst (w : Nat) : Nat := bits w 2 1

/-- Two runs of landing buffers share one. -/
def sharesBuf (a k b m : Nat) : Bool := decide (a < b + m) && decide (b < a + k)

/-- All of `k` buffers from `b` are FREE. -/
def allFree (s : State) (n : Nat) (lane : Lane) (b k : Nat) : Bool :=
  (List.range k).all (fun i => lbState (stn s n) lane (b + i) = .free)

/-- HELD or HELD_BAD. -/
def holds (x : LBuf) : Bool := x.state = .held || x.state = .heldBad

/-- A byte of a baton's payload, its scale bytes after it. -/
def batonByte (b : Baton) (i : Nat) : Byte :=
  match b.body.find? (fun e => e.1 = i) with
  | some e => e.2
  | none =>
    match b.free with
    | some k => Config.freeByte k i
    | none => 0

/-- Payload and scale bytes of a baton in transfer order (02 R51). -/
def batonBytes (b : Baton) : List Byte :=
  (List.range (256 * (b.transfers - 1))).map (batonByte b)

/-- A transfer of a baton: the header in its first 32 bytes and then 0, or 256 bytes of payload and scales
(02 R51). -/
def transferBytes (b : Baton) (i : Nat) : List Byte :=
  if i = 0 then leBytes 32 (hdrWord b.hdr) ++ List.replicate 224 0
  else (List.range 256).map (fun j => batonByte b (256 * (i - 1) + j))

/-- payload_crc of a baton (02 R52, R53). -/
def batonCrc (b : Baton) : Nat := crc32 (batonBytes b)

/-- Side-wire counts equal to the row of R51 for the header's format (02 R602). -/
def lengthOk (b : Baton) : Bool :=
  match Fmt.ofCode b.hdr.fmt with
  | some f => b.transfers = transfersOf f b.hdr.scaled && b.buffers = buffersOf f
  | none => false

/-- A kind-1 header is FP32 or BF16, unscaled (05 R182). -/
def partialOk (h : Header) : Bool :=
  h.kind = 0 || ((h.fmt = 0 || h.fmt = 1) && !h.scaled)

end Sys2Proof.Machine
end

