-- ==== Sys2Proof/Machine/Arrays.lean ====
section
/-! DEFINITION. The matrix arrays: setup, products, checksums, drains, sweeps and masks (03). -/
namespace Sys2Proof.Machine
open Sys2Proof

/-- ARR_ERR_STATUS and ARR_ERR_LOC of a station's die (03 R137, R138). -/
def arrErr (s : State) (n a bit acc : Nat) (loc : Nat) : State :=
  let k := regKey (dieOf n) 0x100
  let s := if bits (reg s k) 7 0 = 0 then setReg s (regKey (dieOf n) 0x108) loc else s
  latch s k 7 bit [(22, 16, n % 96), (23, 23, a), (26, 24, bit), (27, 27, acc)]

/-- A counter of the arrays of a die; it does not count in a sealed job (03 R139). -/
def arrCount (s : State) (n off w k : Nat) : State :=
  if sealedJob s || k = 0 then s else bump s (regKey (dieOf n) off) 0 w k

/-- A refused MAC or DRAIN: event 0x0205 and a halt at the next hurdle (03 R98, R110, R114, R603). -/
def badSetup (s : State) (n a acc : Nat) : State :=
  errHalt (raise (arrErr s n a 3 acc 0) 0x0205 (dieOf n) (n % 96) none) n 0x0205

/-- A MAC or DRAIN that meets a drain: event 0x0206 and a halt at the next hurdle (03 R109). -/
def accConflict (s : State) (n a acc : Nat) : State :=
  errHalt (raise (arrErr s n a 4 acc 0) 0x0206 (dieOf n) (n % 96) none) n 0x0206

/-- The checks run (03 R136, R140). -/
def chkEnable (s : State) : Bool := match s.course with | some c => c.chkEnable | none => true

/-- Cell `i` of an accumulator, 128 m + n. -/
def cellVal (x : Acc) (i : Nat) : W32 :=
  match x.cells.find? (fun e => e.1 = i) with
  | some e => e.2
  | none => match x.free with | some k => Config.freeCell k i | none => 0

/-- Operands of one feeder: format, scaled flag, and a reader of stored elements (03 R99, R101). -/
structure Opnd where
  fmt : Fmt
  isScaled : Bool
  el : Nat → Nat → Num
  im : Nat → Nat → Num

/-- Pass classes (03 R97). -/
inductive Cls where
  | narrow | eight | int | sixteen
deriving DecidableEq, Repr

/-- Tokens per issue cycle of a class (03 R97). -/
def clsTokens : Cls → Nat
  | .narrow => 5 | .eight => 4 | .int => 4 | .sixteen => 3

/-- The rank of a format in the order of R98. -/
def fmtCls : Fmt → Option Cls
  | .bf16 | .fp16 => some .sixteen
  | .e4m3 | .e5m2 => some .eight
  | .e3m2 | .e2m3 | .e2m1 => some .narrow
  | .int8 => some .int
  | _ => none

/-- The class of a product of 2 operands in a pass mode, or none where the combination is refused
(03 R98, R124, R127, R128; 04 R151, R153). -/
def productCls (p : Pass) (f : Fmt) (fs : Bool) (g : Fmt) (gs : Bool) : Option Cls :=
  let single := match fmtCls f, fmtCls g with
    | some .int, some .int => if fs = gs then some Cls.int else none
    | some .int, _ | _, some .int => none
    | some .sixteen, some _ | some _, some .sixteen => some .sixteen
    | some .eight, some _ | some _, some .eight => some .eight
    | some .narrow, some .narrow => some .narrow
    | _, _ => none
  match p with
  | .single => single
  | .pair => if f = .pb32 ∧ g = .pb32 then some .sixteen else none
  | .split3 => if f = .fp32 ∧ g = .fp32 then some .sixteen else none
  | .cplx3 => if fs || gs || f = .int8 || g = .int8 then none else single
  | .cplx4 => single

/-- Both accumulators are used (03 R127, R128). -/
def isComplex : Pass → Bool
  | .cplx3 | .cplx4 => true
  | _ => false

/-- The parts of an FP32 element in SPLIT3: h, m, l (03 R126). -/
def splitPart (i : Nat) (x : Num) : Num :=
  match x with
  | .fin neg m e =>
    let h := rneBf neg m e
    let r := addNum x (negNum h)
    let mid := match r with | .fin t k g => rneBf t k g | y => y
    let q := addNum r (negNum mid)
    let low := match q with | .fin t k g => rneBf t k g | y => y
    if i = 0 then h else if i = 1 then mid else low
  | _ => if i = 0 then x else .fin false 0 0

/-- A pre-sum of CPLX3, rounded to the operand's own format (03 R127). -/
def preSum (f : Fmt) (x y : Num) : Num := decodeElem f false (cvt f .near false (addNum x y)).1

/-- The passes of a K-step in order: column part, row part, and the accumulators they add to with their
signs (03 R124, R125, R126, R127, R128). Parts of PAIR are read as 0 hi, 1 lo; of SPLIT3 as 0 h, 1 m, 2 l;
of complex modes as 0 real, 1 imaginary, 2 real + imaginary, 3 imaginary − real. -/
def passes (p : Pass) (acc : Nat) : List (Nat × Nat × List (Nat × Bool)) :=
  match p with
  | .single => [(0, 0, [(acc, false)])]
  | .pair => [(0, 1, [(acc, false)]), (1, 0, [(acc, false)]), (0, 0, [(acc, false)])]
  | .split3 => [(2, 0, [(acc, false)]), (0, 2, [(acc, false)]), (1, 1, [(acc, false)]),
      (1, 0, [(acc, false)]), (0, 1, [(acc, false)]), (0, 0, [(acc, false)])]
  | .cplx3 => [(2, 0, [(0, false), (1, false)]), (0, 3, [(1, false)]), (1, 2, [(0, true)])]
  | .cplx4 => [(0, 0, [(0, false)]), (1, 1, [(0, true)]), (0, 1, [(1, false)]), (1, 0, [(1, false)])]

/-- Part `i` of element (r, c) of an operand in a pass mode. -/
def partOf (p : Pass) (o : Opnd) (i r c : Nat) : Num :=
  match p with
  | .single => o.el r c
  | .pair => if i = 0 then o.el r c else o.im r c
  | .split3 => splitPart i (o.el r c)
  | _ =>
    if i = 0 then o.el r c
    else if i = 1 then o.im r c
    else if i = 2 then preSum o.fmt (o.el r c) (o.im r c)
    else preSum o.fmt (o.im r c) (negNum (o.el r c))

/-- Row `m` of the product is masked (03 R121). -/
def rowMasked (x : Arr) (f : MsetF) (m : Nat) : Bool :=
  f.maskEn && ((if m < 64 then bitOf x.rowLo.toNat m else bitOf x.rowHi.toNat (m - 64))
    || bitOf x.blk.toNat (4 * f.blkQ + m / 32))

/-- One K-step of one pass: the column vector, with masked rows absent, and the row vector. -/
structure KStep where
  p : List (Nat × Num)
  q : List (Nat × Num)
deriving DecidableEq, Repr

/-- The elements of a vector that are not gated: zeros gate unless the other vector holds an infinity or
NaN (03 R119). -/
def ungated (v w : List (Nat × Num)) : List (Nat × Num) :=
  if w.any (fun e => isNonFin e.2) then v else v.filter (fun e => !isZeroNum e.2)

/-- Zeros detected in a K-step (03 R119, R139). -/
def zeros (k : KStep) : Nat :=
  k.p.countP (fun e => isZeroNum e.2) + k.q.countP (fun e => isZeroNum e.2)

/-- The factors of the ungated products of K-steps at (m, n). -/
def products (ks : List KStep) (m n : Nat) : List (Num × Num) :=
  ks.filterMap (fun k =>
    match (ungated k.p k.q).find? (fun e => e.1 = m), (ungated k.q k.p).find? (fun e => e.1 = n) with
    | some a, some b => some (a.2, b.2)
    | _, _ => none)

/-- The integer value of an exact integer product. -/
def numInt : Num → Int
  | .fin neg m e => let v : Int := (m * 2 ^ e.toNat : Nat); if neg then -v else v
  | _ => 0

/-- The integer that products of integers add to an accumulator. -/
def intSum (neg : Bool) (ps : List (Num × Num)) : Int :=
  let v := (ps.map (fun e => numInt (mulNum e.1 e.2))).sum
  if neg then -v else v

/-- 48 bits of a checksum cell of integers (03 R130). -/
def wrap48 (x : Int) : Int := (x + 2 ^ 47) % 2 ^ 48 - 2 ^ 47

/-- A checksum cell after one more product: a binary32 value, or an integer of 48 bits (03 R130). -/
def addCheck (int neg : Bool) (t : Table Int) (i : Nat) (x : Num × Num) : Table Int :=
  if int then t.upd 0 i (fun v => wrap48 (v + intSum neg [x]))
  else t.upd 0 i (fun v => ((toF32 (addProducts (ofF32 (BitVec.ofNat 32 v.toNat)) neg [x])).toNat : Int))

/-- Sum and magnitude sum of a vector, exact for integers, rounded once otherwise (03 R130). -/
def sigma (int : Bool) (v : List (Nat × Num)) : Num × Num :=
  let x := sumNum (v.map (·.2))
  let y := sumNum (v.map (fun e => absNum e.2))
  if int then (x, y) else (ofF32 (toF32 x), ofF32 (toF32 y))

/-- The checksum cells of an accumulator after one K-step (03 R130). -/
def addChecks (int neg : Bool) (x : Acc) (k : KStep) : Acc :=
  let sq := sigma int k.q
  let sp := sigma int k.p
  let ps := ungated k.p k.q
  let qs := ungated k.q k.p
  { x with
    xiCol := ps.foldl (fun t e => addCheck int neg t e.1 (e.2, sq.1)) x.xiCol
    alCol := ps.foldl (fun t e => addCheck int false t e.1 (absNum e.2, sq.2)) x.alCol
    xiRow := qs.foldl (fun t e => addCheck int neg t e.1 (sp.1, e.2)) x.xiRow
    alRow := qs.foldl (fun t e => addCheck int false t e.1 (sp.2, absNum e.2)) x.alRow }

/-- A saturating 32-bit sum: the value and whether it saturated (03 R95). -/
def sat32 (x : Int) : W32 × Bool :=
  if x > 2 ^ 31 - 1 then (BitVec.ofInt 32 (2 ^ 31 - 1), true)
  else if x < -(2 ^ 31) then (BitVec.ofInt 32 (-(2 ^ 31)), true)
  else (BitVec.ofInt 32 x, false)

/-- One cell after the products of a cycle: one rounding, or saturation. A negative sum that rounds to zero leaves −0,
as the rounding of R94 gives it (03 R94, R95, R96, R120; 04 R147; log 62). -/
def addCell (int neg : Bool) (x : Acc) (i : Nat) (ps : List (Num × Num)) : Acc :=
  match ps with
  | [] => x
  | _ =>
    if int then
      let r := sat32 ((cellVal x i).toInt + intSum neg ps)
      { x with cells := x.cells.set i r.1
               saturated := if r.2 then x.saturated.set i true else x.saturated }
    else { x with cells := x.cells.set i (toF32 (addProducts (ofF32 (cellVal x i)) neg ps)) }

/-- An accumulator after the products of one cycle (03 R92, R94, R96, R130). -/
def accumulate (int neg : Bool) (x : Acc) (ks : List KStep) (cyc : Nat) : Acc :=
  let ms := uniq (ks.flatMap (fun k => (ungated k.p k.q).map (·.1)))
  let ns := uniq (ks.flatMap (fun k => (ungated k.q k.p).map (·.1)))
  let x := ms.foldl (fun x m => ns.foldl (fun x n => addCell int neg x (128 * m + n) (products ks m n)) x) x
  let x := ks.foldl (addChecks int neg) x
  { x with kc := min (2 ^ 24 - 1) (x.kc + ks.length), isInt := int, lastMac := some cyc }

/-- Accumulator `i` of an array. -/
def accOf (x : Arr) (i : Nat) : Acc := x.accs.get {} i

/-- The array with an accumulator changed. -/
def updAcc (x : Arr) (i : Nat) (f : Acc → Acc) : Arr := { x with accs := x.accs.upd {} i f }

/-- The program cycles in which a drain's rows leave (03 R107). -/
def drainLen (d : DrainRun) : Nat := if d.complex then 256 else 128

/-- Accumulator `i` is draining in cycle `c` (03 R107, R109). -/
def drainingAcc (x : Arr) (i c : Nat) : Bool :=
  x.drains.any (fun d => decide (c < d.start + drainLen d) && (d.complex || d.f.acc = i))

/-- The array is draining in cycle `c` (03 R109). -/
def drainingArr (x : Arr) (c : Nat) : Bool := x.drains.any (fun d => decide (c < d.start + drainLen d))

/-- The accumulators a MAC targets (03 R105). -/
def targets (f : MsetF) (m : MacF) : List Nat := if isComplex f.pass then [0, 1] else [m.acc]

/-- Format of the operand of a feeder: from the header, or from the MSET for a pocket. A buffer that is not the first
of its baton has the header that stands in its own side slot (03 R99, R117; log 62). -/
def feedFmt (s : State) (n : Nat) (src : Feed) (buf fmt : Nat) (sc : Bool) : Option (Fmt × Bool) :=
  let f (l : Lane) :=
    if lbState (stn s n) l buf = .free then none
    else
      let h := (lb s n l buf).baton.hdr
      if tileOk h.fmt h.scaled then (Fmt.ofCode h.fmt).map (fun f => (f, h.scaled)) else none
  match src with
  | .inner => f .inner
  | .outer => f .outer
  | .pocket => if tileOk fmt sc then (Fmt.ofCode fmt).map (fun f => (f, sc)) else none

/-- The buffer of the imaginary part of a complex lane operand; none where the lane has no such buffer (03 R127). -/
def imagBuf (b : Nat) (f : Fmt) : Option Nat := if b + buffersOf f < 4 then some (b + buffersOf f) else none

/-- The landing buffers that a feeder reads: its operand's, and the imaginary part's in a complex mode
(03 R99, R127). -/
def feedBufs (p : Pass) (src : Feed) (buf : Nat) (f : Fmt) : List (Lane × Nat) :=
  let l (x : Lane) := (x, buf) :: (if isComplex p then ((imagBuf buf f).map (x, ·)).toList else [])
  match src with
  | .inner => l .inner
  | .outer => l .outer
  | .pocket => []

/-- CPLX3 refuses an imaginary part that is scaled or INT8, too (03 R98, R127). -/
def imagOk (s : State) (n : Nat) (p : Pass) (src : Feed) (buf : Nat) (f : Fmt) : Bool :=
  p ≠ .cplx3 || ((feedBufs p src buf f).drop 1).all (fun e =>
    lbState (stn s n) e.1 e.2 = .free || (!(lb s n e.1 e.2).baton.hdr.scaled && (lb s n e.1 e.2).baton.hdr.fmt ≠ 8))

/-- The class of a MAC as its operands stand (03 R117). -/
def macCls (s : State) (n : Nat) (c : ArrCfg) (m : MacF) : Option Cls :=
  match feedFmt s n c.f.srcCol m.bufCol c.f.fmtCol c.f.scaledCol,
        feedFmt s n c.f.srcRow m.bufRow c.f.fmtRow c.f.scaledRow with
  | some (f, fs), some (g, gs) =>
    if imagOk s n c.f.pass c.f.srcCol m.bufCol f && imagOk s n c.f.pass c.f.srcRow m.bufRow g then
      productCls c.f.pass f fs g gs
    else none
  | _, _ => none

/-- Tokens of a MAC, performed or not: 5 where no class applies (03 R117). -/
def macTokens (s : State) (n a : Nat) (m : MacF) : Nat :=
  match (arr s n a).cfg with
  | some c => match macCls s n c m with | some k => clsTokens k | none => 5
  | none => 5

/-- An element of the operand as fed: transposed where the trans bit is set (03 R101). -/
def fed (tr : Bool) (el : Nat → Nat → Num) (r c : Nat) : Num := if tr then el c r else el r c

/-- The hi or lo half of a PB32 element; lo is 0 beside an infinite or NaN hi (03 R125). -/
def pbHalf (lo : Bool) (code : Nat) : Num :=
  let hi := decodeElem .bf16 false (code % 65536)
  if !lo then hi else if isNonFin hi then .fin false 0 0 else decodeElem .bf16 false (code / 65536)

/-- An operand over byte readers of its tile and, for complex modes, of its imaginary tile. -/
def opnd (p : Pass) (f : Fmt) (sc tr : Bool) (rd rdIm : Nat → Byte) : Opnd :=
  match p with
  | .pair =>
    { fmt := f, isScaled := sc
      el := fed tr (fun r c => pbHalf false (elemCode f rd (elemIndex r c)))
      im := fed tr (fun r c => pbHalf true (elemCode f rd (elemIndex r c))) }
  | _ => { fmt := f, isScaled := sc, el := fed tr (tileElem f sc rd), im := fed tr (tileElem f sc rdIm) }

/-- Byte offsets of a stored tile that hold column `k` (of a column operand) or row `k` (of a row operand)
as fed, with their scales. -/
def vecBytes (f : Fmt) (sc colVec : Bool) (k : Nat) : List Nat :=
  (List.range 128).flatMap (fun i =>
    let r := if colVec then i else k
    let c := if colVec then k else i
    (elemOffset f (elemIndex r c)) :: (if sc then [payloadBytes f + 4 * r + c / 32] else []))

/-- The codewords under listed pocket offsets, read in order (09 R337). -/
def readList (s : State) : List Nat → ReadOut
  | [] => { s := s }
  | cw :: t =>
    let r := readCw s cw
    match r.2 with
    | .addrFault | .bad => { s := r.1, fail := some cw }
    | .wrong bs _ => let o := readList r.1 t; { o with mis := (cw, bs) :: o.mis }
    | _ => readList r.1 t

/-- What a feeder meets: its operand, or why it has none. -/
inductive Fed where
  | ok (o : Opnd)
  | undef
  | badAddr
  | readFail

/-- A feeder's operand for K-steps `ks`: from a landing buffer as it stands, or from the pocket, where the detector
reports a read of what is not yet written. An imaginary part is read in the real part's format
(03 R99, R100, R127; 06 R216, R241, R243, R252; 09 R338; log 62). -/
def feed (s : State) (n : Nat) (p : Pass) (src : Feed) (buf : Nat) (f : Fmt) (sc tr : Bool) (addr : Nat)
    (colOp : Bool) (ks : List Nat) : State × Fed :=
  let cx := isComplex p
  let lane (l : Lane) : State × Fed :=
    let b := (lb s n l buf).baton
    match if cx then (imagBuf buf f).map (lb s n l) else some (lb s n l buf) with
    | some i =>
      (s, if holds (lb s n l buf) && holds i then .ok (opnd p f sc tr (batonByte b) (batonByte i.baton)) else .undef)
    | none => (s, .undef)
  match src with
  | .inner => lane .inner
  | .outer => lane .outer
  | .pocket =>
    let size := storedBytes (fmtCode f) sc
    let len := if cx then 2 * size else size
    match pocketOperand (BitVec.ofNat 64 addr) 256 len with
    | none => (s, .badAddr)
    | some o =>
      if !pocketOk s n o len then (s, .badAddr)
      else
        let base := pocketAddr n o
        let offs := ks.flatMap (vecBytes f sc (colOp != tr))
        let offs := if cx then offs ++ offs.map (· + size) else offs
        let w := cloud (fsIf s (staleAt s n (offs.map (o + ·))) n 3) n base len
        let r := readList w.1 (uniq (offs.map (fun x => (base + x) / 64)))
        match r.fail with
        | some _ => (r.s, .readFail)
        | none => (r.s, .ok (opnd p f sc tr (fun i => stnByte w r (base + i))
            (fun i => stnByte w r (base + size + i))))

/-- The vectors of one K-step of one pass; a masked row's element is not in its vector, so that it is no detected
zero either (03 R92, R119, R122; log 62). -/
def kstep (x : Arr) (f : MsetF) (o q : Opnd) (pc pr k : Nat) : KStep :=
  { p := ((List.range 128).filter (fun m => !rowMasked x f m)).map (fun m => (m, partOf f.pass o pc m k))
    q := (List.range 128).map (fun n => (n, partOf f.pass q pr k n)) }

/-- Sub-steps of a K-step: passes, twice each in the 16-bit class (03 R97, R124). -/
def subSteps (p : Pass) (c : Cls) : Nat :=
  (passes p 0).length * (if c = .sixteen then 2 else 1)

/-- K-steps that a MAC's step covers (03 R96, R97). -/
def kWidth (c : Cls) : Nat := if c = .narrow then 2 else 1

/-- The array after its K pointer advances by one issue cycle; at the wrap each pocket-sourced feeder
advances by its stride (03 R110). -/
def bumpK (x : Arr) (c : Cls) (p : Pass) : Arr :=
  if x.sub + 1 < subSteps p c then { x with sub := x.sub + 1 }
  else if x.k + kWidth c < 128 then { x with sub := 0, k := x.k + kWidth c }
  else { x with sub := 0, k := 0, cfg := x.cfg.map (fun g =>
    { g with colAddr := (g.colAddr + g.strideCol) % 2 ^ 64, rowAddr := (g.rowAddr + g.strideRow) % 2 ^ 64 }) }

/-- The accumulators of an array cleared: +0, check state and marks cleared, sweep at row 0 (03 R105,
R131). -/
def clearAccs (x : Arr) (ts : List Nat) : Arr := ts.foldl (fun x i => updAcc x i (fun _ => {})) x

/-- The accumulators made free values (06 R241; log 12). -/
def freeAccs (s : State) (n a : Nat) (ts : List Nat) : State :=
  let k := s.freeCtr
  updArr { s with freeCtr := s.freeCtr + 2 } n a (fun x => ts.foldl (fun x i => updAcc x i (fun y =>
    { y with cells := [], free := some (k + i), lastMac := some (cycOf s n) })) x)

/-- Cells of an accumulator that the products of a cycle saturate (03 R95). -/
def satHits (int neg : Bool) (x : Acc) (ks : List KStep) : Nat :=
  let ms := uniq (ks.flatMap (fun k => (ungated k.p k.q).map (·.1)))
  let ns := uniq (ks.flatMap (fun k => (ungated k.q k.p).map (·.1)))
  if int then (ms.flatMap (fun m => ns.map (fun n => (m, n)))).countP (fun e =>
    (sat32 ((cellVal x (128 * e.1 + e.2)).toInt + intSum neg (products ks e.1 e.2))).2)
  else 0

/-- The array after a MAC's products, of the pass and K-steps its K pointer names, with the zeros detected and
the cells that saturate; a 16-bit K-step's are all added in the second of its 2 issue cycles (03 R92 to R97, R119,
R124; log 62). -/
def macProducts (x : Arr) (f : MsetF) (m : MacF) (c : Cls) (int : Bool) (o q : Opnd) (cyc : Nat) :
    Arr × Nat × Nat :=
  let ph := if c = .sixteen then 2 else 1
  if x.sub % ph + 1 < ph then (x, 0, 0)
  else
    match (passes f.pass m.acc)[x.sub / ph]? with
    | none => (x, 0, 0)
    | some (pc, pr, ts) =>
      let ks := (List.range (kWidth c)).map (fun i => kstep x f o q pc pr (x.k + i))
      (ts.foldl (fun x t => updAcc x t.1 (fun y => accumulate int t.2 y ks cyc)) x,
        (ks.map zeros).foldl (· + ·) 0, (ts.map (fun t => satHits int t.2 (accOf x t.1) ks)).foldl (· + ·) 0)

/-- Raises an event `k` times. -/
def raiseTimes (s : State) (k code die unit : Nat) : State :=
  { s with
    evs := s.evs ++ List.replicate k { code := code, die := die, unit := unit, time := s.timeNs, isSealed := sealedJob s }
    evTotal := s.evTotal + k }

/-- Marks accumulators failed (03 R103, R134). -/
def markAccs (s : State) (n a : Nat) (ts : List Nat) : State :=
  updArr s n a (fun x => ts.foldl (fun x i => updAcc x i (fun y => { y with failed := true })) x)

/-- The MAC proper, its setup and operands accepted. -/
def macRun (s : State) (n a : Nat) (m : MacF) (g : ArrCfg) (c : Cls) (fc fr : Fmt × Bool) : State :=
  let x := arr s n a
  let ts := targets g.f m
  let ks := (List.range (kWidth c)).map (x.k + ·)
  let u := feed s n g.f.pass g.f.srcCol m.bufCol fc.1 fc.2 g.f.transCol g.colAddr true ks
  let v := feed u.1 n g.f.pass g.f.srcRow m.bufRow fr.1 fr.2 g.f.transRow g.rowAddr false ks
  match u.2, v.2 with
  | .badAddr, _ | _, .badAddr => badAddr v.1 n
  | .readFail, _ | _, .readFail => errHalt v.1 n 0x0502
  | .ok o, .ok q =>
    let int := c = .int && !fc.2
    let s := v.1
    let s := if m.clear then updArr s n a (fun x => clearAccs x ts) else s
    let r := macProducts (arr s n a) g.f m c int o q (cycOf s n)
    let s := updArr s n a (fun _ =>
      { bumpK r.1 c g.f.pass with lastCol := m.bufCol, lastRow := m.bufRow, lastAcc := m.acc })
    let s := updArr s n a (fun x => ts.foldl (fun x i => updAcc x i (fun y => { y with lastMac := some (cycOf s n) })) x)
    let s := arrCount s n 0x128 64 r.2.1
    let s := raiseTimes (arrCount s n 0x118 32 r.2.2) r.2.2 0x0207 (dieOf n) (n % 96)
    let bad := (feedBufs g.f.pass g.f.srcCol m.bufCol fc.1 ++ feedBufs g.f.pass g.f.srcRow m.bufRow fr.1).any
      (fun e => (lb s n e.1 e.2).state = .heldBad)
    let s := if bad then errHalt s n 0 else s
    if s.wireFault.get false (arrLoc s n a) then
      let s := markAccs (freeAccs s n a ts) n a ts
      let s := raise (arrErr s n a 2 m.acc 0) 0x0203 (dieOf n) (n % 96) none
      errHalt (requestTest s 1 (2 * n + a) 0x0203) n 0x0203
    else s
  | _, _ =>
    let s := if m.clear then updArr v.1 n a (fun x => clearAccs x ts) else v.1
    let s := freeAccs (fsFail s n 0) n a ts
    updArr s n a (fun x => { bumpK x c g.f.pass with lastCol := m.bufCol, lastRow := m.bufRow, lastAcc := m.acc })

/-- A MAC that names a FREE buffer: its products are undefined, and so is their class, by which the K pointer
advances (03 R105, R110, R117; 06 R241, R252; log 12). -/
def macFree (s : State) (n a : Nat) (m : MacF) (g : ArrCfg) : State :=
  let ts := targets g.f m
  let s := fsFail s n 0
  let s := if m.clear then updArr s n a (fun x => clearAccs x ts) else s
  let d := draw (freeAccs s n a ts)
  let c : Cls := match (Config.freeWord d.2).toNat % 4 with | 0 => .narrow | 1 => .eight | 2 => .int | _ => .sixteen
  updArr d.1 n a (fun x => { bumpK x c g.f.pass with lastCol := m.bufCol, lastRow := m.bufRow, lastAcc := m.acc })

/-- MAC: one issue cycle of the configured product. The K pointer is not 0 from the first issue cycle of a product
on, so within K-step 0 too (03 R92 to R101, R105, R109, R110, R117, R603; log 62). -/
def execMac (n a : Nat) (m : MacF) (s : State) : Out :=
  if !acts s n || 1 < a then .next s
  else
    let s := updArr (addTok s (cluOf n) (macTokens s n a m)) n a (fun x => { x with macAt := some (cycOf s n) })
    let s := arrCount s n 0x120 64 1
    let x := arr s n a
    match x.cfg with
    | none => .next (badSetup s n a m.acc)
    | some g =>
      if g.bad then .next (badSetup s n a m.acc)
      else if (targets g.f m).any (fun i => drainingAcc x i (cycOf s n)) then .next (accConflict s n a m.acc)
      else
        let lanes := [(g.f.srcCol, m.bufCol), (g.f.srcRow, m.bufRow)]
        let isFree := lanes.any (fun e => match e.1 with
          | .inner => lbState (stn s n) .inner e.2 = .free
          | .outer => lbState (stn s n) .outer e.2 = .free
          | .pocket => false)
        let mid := x.k ≠ 0 || x.sub ≠ 0
        let moved := (g.f.srcCol ≠ .pocket && m.bufCol ≠ x.lastCol)
          || (g.f.srcRow ≠ .pocket && m.bufRow ≠ x.lastRow)
        if mid && moved then .next (badSetup s n a m.acc)
        else if isFree then .next (macFree s n a m g)
        else
          match feedFmt s n g.f.srcCol m.bufCol g.f.fmtCol g.f.scaledCol,
                feedFmt s n g.f.srcRow m.bufRow g.f.fmtRow g.f.scaledRow, macCls s n g m with
          | some fc, some fr, some c =>
            let other := c = .sixteen && x.sub % 2 = 1 && !isComplex g.f.pass && m.acc ≠ x.lastAcc
            if mid && other then .next (badSetup s n a m.acc)
            else .next (macRun s n a m g c fc fr)
          | _, _, _ => .next (badSetup s n a m.acc)

/-- The registers of a pocket-sourced feeder (03 R104). -/
def feedRegs (f : MsetF) : List Nat :=
  (if f.srcCol = .pocket then [f.baseCol, f.strideCol] else [])
    ++ (if f.srcRow = .pocket then [f.baseRow, f.strideRow] else [])

/-- A pocket-sourced base address: good, or reserved (06 R216). -/
def baseOk (s : State) (n : Nat) (src : Feed) (fmt : Nat) (sc : Bool) (r : Nat) (cx : Bool) : Bool :=
  match src with
  | .pocket =>
    let size := storedBytes fmt sc
    let len := if cx then 2 * size else size
    (match pocketOperand (xreg s n r) 256 len with
     | some o => pocketOk s n o len
     | none => false)
  | _ => true

/-- Low address bits that a tile operand drops (06 R216, R252). -/
def lowBits (s : State) (n : Nat) (rs : List Nat) : Bool := rs.any (fun r => (xreg s n r).toNat % 256 ≠ 0)

/-- The tile address in a register, its low bits taken as 0 (06 R216). -/
def tileAddr (s : State) (n r : Nat) : Nat := (xreg s n r).toNat / 256 * 256

/-- MSET: configures a product for MACs issued 1 cycle later or more (03 R104, R151; 06 R216). -/
def execMset (n a : Nat) (f : MsetF) (s : State) : Out :=
  if !acts s n || 1 < a then .next s
  else
    let s := seeX s n (feedRegs f)
    let bases := (if f.srcCol = .pocket then [f.baseCol] else []) ++ (if f.srcRow = .pocket then [f.baseRow] else [])
    let s := fsIf s (lowBits s n bases) n 6
    let bad := (f.srcCol = .pocket && !tileOk f.fmtCol f.scaledCol)
      || (f.srcRow = .pocket && !tileOk f.fmtRow f.scaledRow)
    let cx := isComplex f.pass
    if !bad && !(baseOk s n f.srcCol f.fmtCol f.scaledCol f.baseCol cx
        && baseOk s n f.srcRow f.fmtRow f.scaledRow f.baseRow cx) then .next (badAddr s n)
    else
      .next (schedule s n 1 false (.mset n a
        { f := f, colAddr := tileAddr s n f.baseCol, rowAddr := tileAddr s n f.baseRow
          strideCol := (xreg s n f.strideCol).toNat, strideRow := (xreg s n f.strideRow).toNat, bad := bad }))

/-- MASK: writes a mask register, for MACs issued 2 cycles later or more (03 R123; 06 R229). -/
def execMask (n a target rs : Nat) (s : State) : Out :=
  if !acts s n || 1 < a || 2 < target then .next s
  else .next (schedule (seeX s n [rs]) n 2 false (.mask n a target (xreg s n rs)))

/-- A partial-sum baton that a DRAIN may write: HELD and of kind 1 (03 R114). -/
def drainBuf (s : State) (n : Nat) (l : Lane) (b : Nat) : Bool :=
  (lb s n l b).state = .held && (lb s n l b).baton.hdr.kind = 1

/-- Pocket bytes that a drain writes: first and end (03 R106, R114). -/
def drainRange (d : DrainRun) : Option (Nat × Nat) :=
  if d.f.dest < 2 then
    some (d.addr, d.addr + (if d.complex then 2 else 1) * storedBytes d.f.fmtOut d.f.scaledOut)
  else none

/-- Where 2 drains write the same pocket bytes: first and end (03 R116). -/
def drainMeet (d e : DrainRun) : Option (Nat × Nat) :=
  match drainRange d, drainRange e with
  | some (a, b), some (x, y) => if max a x < min b y then some (max a x, min b y) else none
  | _, _ => none

/-- A drain of array `a` joins those of the other array: where both write, which value stays is a free choice for
each codeword (03 R116). -/
def addDrain (s : State) (n a : Nat) (d : DrainRun) : State :=
  let es := (arr s n (1 - a)).drains
  if es.all (fun e => (drainMeet d e).isNone) then updArr s n a (fun x => { x with drains := x.drains ++ [d] })
  else
    let k := draw s
    let meets (mine : Bool) (d e : DrainRun) : List (Nat × Nat × Nat × Bool) :=
      match drainMeet d e with | some (lo, hi) => [(lo, hi, k.2, mine)] | none => []
    let s := updArr k.1 n (1 - a) (fun x =>
      { x with drains := x.drains.map (fun e => { e with clash := e.clash ++ meets false e d }) })
    updArr s n a (fun x => { x with drains := x.drains ++ [{ d with clash := es.flatMap (meets true d) }] })

/-- The value that a drain gives a pocket byte is the one that stays (03 R116). -/
def drainKeeps (d : DrainRun) (b : Nat) : Bool :=
  d.clash.all (fun c => !(decide (c.1 ≤ b) && decide (b < c.2.1))
    || bitOf (Config.freeWord c.2.2.1).toNat (b / 64 % 64) == c.2.2.2)

/-- The DRAIN proper: it starts, with its registers read and the accumulators it drains (03 R106 to R108,
R114). -/
def drainStart (s : State) (n a : Nat) (f : DrainF) (addr : Nat) (cx : Bool) : State :=
  let x := arr s n a
  let accs := if cx then [0, 1] else [f.acc]
  let early := accs.any (fun i => match (accOf x i).lastMac with
    | some c => decide (cycOf s n < c + 6)
    | none => false)
  let s := fsIf s early n 2
  let k := s.freeCtr
  let snap := accs.map (fun i =>
    if early then { accOf x i with cells := [], free := some (k + i) } else accOf x i)
  let s := if early then { s with freeCtr := s.freeCtr + 2 } else s
  addDrain s n a { f := f, start := cycOf s n, addr := addr, complex := cx, snap := snap
                   scale := if f.scaleEn then (xreg s n f.scale).setWidth 32 else 0x3F800000 }

/-- DRAIN: empties an accumulator, or both after a complex product, to the pocket or a partial-sum baton. After an
MSET that R151 refuses, its pass mode still says which (03 R106 to R109, R111, R114; 06 R216; log 62). -/
def execDrain (n a : Nat) (f : DrainF) (s : State) : Out :=
  if !acts s n || 1 < a then .next s
  else
    let x := arr s n a
    let cx := match x.cfg with | some g => isComplex g.f.pass | none => false
    if drainingArr x (cycOf s n) then .next (accConflict s n a f.acc)
    else if f.dest < 2 then
      let s := seeX s n (f.addr :: (if f.scaleEn then [f.scale] else []))
      let s := fsIf s (lowBits s n [f.addr]) n 6
      if !tileOk f.fmtOut f.scaledOut then .next (badSetup s n a f.acc)
      else
        let size := storedBytes f.fmtOut f.scaledOut
        let len := if cx then 2 * size else size
        match pocketOperand (xreg s n f.addr) 256 len with
        | none => .next (badAddr s n)
        | some o => if !pocketOk s n o len then .next (badAddr s n) else .next (drainStart s n a f o cx)
    else
      let s := seeX s n (if f.scaleEn then [f.scale] else [])
      let s := fsIf s (!holds (lb s n f.lane f.buf)) n 0
      let two := f.buf = 0 && (lb s n f.lane 0).baton.hdr.fmt = 1 && drainBuf s n f.lane 2
      if drainBuf s n f.lane f.buf && (!cx || two) then .next (drainStart s n a f 0 cx)
      else .next (badSetup s n a f.acc)

/-- Outcomes of a checksum comparison (03 R132, R133). -/
inductive Cmp where
  | ok | skip | bad
deriving DecidableEq, Repr

/-- τ of R132, an exact value. -/
def tau (kc : Nat) (al : Num) : Num :=
  addNum (mulNum (.fin false (2 * kc + 260) (-24)) al) (.fin false (kc + 1) (-142))

/-- `x` is above `y`, both finite and not negative. -/
def above (x y : Num) : Bool :=
  match x, y with
  | .fin _ m e, .fin _ n f => !leMag m e n f
  | .inf _, _ => true
  | _, _ => false

/-- A comparison of 128 values with their checksum cell (03 R131 to R133). -/
def compare (x : Acc) (idx : List Nat) (xi al : Int) : Cmp :=
  if x.isInt then
    if idx.any (fun i => x.saturated.get false i) then .skip
    else if (idx.map (fun i => (cellVal x i).toInt)).foldl (· + ·) 0 = xi then .ok else .bad
  else
    let vs := idx.map (fun i => ofF32 (cellVal x i))
    let xv := ofF32 (BitVec.ofNat 32 xi.toNat)
    let av := ofF32 (BitVec.ofNat 32 al.toNat)
    if isNonFin xv || isNonFin av then .skip
    else if vs.any isNonFin then
      (if above (.fin false 1 127) av then .bad else .skip)
    else
      let sum := ofF32 (toF32 (sumNum vs))
      if above (absNum (addNum sum (negNum xv))) (tau x.kc av) then .bad else .ok

/-- Cells of row `m`. -/
def rowCells (m : Nat) : List Nat := (List.range 128).map (fun n => 128 * m + n)
/-- Cells of column `n`. -/
def colCells (n : Nat) : List Nat := (List.range 128).map (fun m => 128 * m + n)

/-- What follows a comparison: a skip counts; a failure marks the accumulator, raises its event once,
requests the self-test and halts the station at its next hurdle (03 R133, R134; 16 R530). -/
def checkResult (s : State) (n a acc : Nat) (row : Bool) (i : Nat) (c : Cmp) : State :=
  match c with
  | .ok => s
  | .skip => arrCount s n 0x110 32 1
  | .bad =>
    let x := accOf (arr s n a) acc
    if (if row then x.rowRaised else x.colRaised) then s
    else
      let s := updArr s n a (fun y => updAcc y acc (fun z =>
        { z with failed := true, rowRaised := z.rowRaised || row, colRaised := z.colRaised || !row }))
      let code := if row then 0x0201 else 0x0202
      let s := arrErr s n a (if row then 0 else 1) acc
        (if row then i + 128 else i * 256 + 32768)
      let s := raise s code (dieOf n) (n % 96) none
      errHalt (requestTest s 1 (2 * n + a) code) n code

/-- The row sweep: one row of each accumulator that is not draining (03 R131). -/
def sweepAcc (s : State) (n a acc : Nat) : State :=
  let x := arr s n a
  if drainingAcc x acc (cycOf s n) || !chkEnable s then s
  else
    let y := accOf x acc
    let c := compare y (rowCells y.sweep) (y.xiCol.get 0 y.sweep) (y.alCol.get 0 y.sweep)
    let s := updArr s n a (fun x => updAcc x acc (fun z => { z with sweep := (z.sweep + 1) % 128 }))
    checkResult s n a acc true y.sweep c

/-- ROW_SWEEP (03 R131, R134). -/
def execRowSweep (n a : Nat) (s : State) : Out :=
  if !present s n || 1 < a then .next s else .next (sweepAcc (sweepAcc s n a 0) n a 1)

/-- Values of a drained row after steps 1 and 2 of R111. -/
def rowValues (x : Acc) (m : Nat) (scale : W32) : List W32 :=
  (List.range 128).map (fun n =>
    let v := cellVal x (128 * m + n)
    let f := if x.isInt then toF32 (ofInt v.toInt) else v
    if scale = 0x3F800000 then f else fmul f scale)

/-- The bytes of row `m` of a tile whose values are converted (04 R149, R150). -/
def rowBytes (f : Fmt) (sc : Bool) (m : Nat) (c : Conv) : List (Nat × Byte) :=
  ((List.range 4).flatMap (fun b =>
    let bs := packCodes f ((c.codes.drop (32 * b)).take 32)
    ((List.range bs.length).zip bs).map (fun e => (elemOffset f (elemIndex m (32 * b)) + e.1, e.2))))
  ++ (if sc then ((List.range 4).zip c.scales).map (fun e => (payloadBytes f + 4 * m + e.1, BitVec.ofNat 8 e.2)) else [])

/-- One row of a drain leaves: its check, its conversion and its write (03 R107, R111 to R116, R131). -/
def drainRow (s : State) (n a : Nat) (d : DrainRun) (i : Nat) : State :=
  let m := i % 128
  let second := i / 128
  let acc := if d.complex then second else d.f.acc
  match d.snap[second]? with
  | none => s
  | some x =>
    let s := if chkEnable s then
        checkResult s n a acc true m (compare x (rowCells m) (x.xiCol.get 0 m) (x.alCol.get 0 m))
      else s
    let vals := rowValues x m d.scale
    let buf := d.f.buf + 2 * second
    let fs : Option (Fmt × Bool) := if d.f.dest < 2 then (Fmt.ofCode d.f.fmtOut).map (fun f => (f, d.f.scaledOut))
      else (Fmt.ofCode (lb s n d.f.lane buf).baton.hdr.fmt).map (fun f => (f, false))
    match fs with
    | none => s
    | some (f, sc) =>
      let off := d.addr + second * storedBytes d.f.fmtOut d.f.scaledOut
      let base := pocketAddr n off
      let idx := (List.range 128).map (fun c => elemOffset f (elemIndex m c))
      let offs := idx ++ (if sc then (List.range 4).map (payloadBytes f + 4 * m + ·) else [])
      let w := if d.f.dest = 1 then
          cloud (fsIf s (staleAt s n (offs.map (off + ·))) n 3) n base (storedBytes d.f.fmtOut d.f.scaledOut)
        else (s, [], 0)
      let r : ReadOut := if d.f.dest = 1 then readList w.1 (uniq (offs.map (fun x => (base + x) / 64))) else { s := s }
      match r.fail with
      | some _ => errHalt r.s n 0x0502
      | none =>
        let old (c : Nat) : Num :=
          if d.f.dest = 1 then tileElem f sc (fun i => stnByte w r (base + i)) m c
          else tileElem f sc (batonByte (lb s n d.f.lane buf).baton) m c
        let vals := if d.f.dest = 1 || d.f.dest = 3 then
            ((List.range 128).zip vals).map (fun e => toF32 (addNum (ofF32 (toF32 (old e.1))) (ofF32 e.2)))
          else vals
        let c := convert f sc d.f.stoch d.f.propagate 4 (stn r.s n).lfsr (vals.map ofF32)
        let s := updStn r.s n (fun t => { t with lfsr := c.lfsr })
        let s := countNonFin s (if d.f.groupEn then some d.f.group else none) c.count
        let bs := rowBytes f sc m c
        if d.f.dest < 2 then schedule s n 3 false (.pocket n off (bs.filter (fun b => drainKeeps d (off + b.1))))
        else schedule s n 3 false (.lbBytes n d.f.lane buf bs)

/-- The column checks that end a drain (03 R131, R134). -/
def columnChecks (s : State) (n a : Nat) (d : DrainRun) : State :=
  if !chkEnable s then s
  else
    ((List.range d.snap.length).zip d.snap).foldl (fun s e =>
      (List.range 128).foldl (fun s c =>
        checkResult s n a (if d.complex then e.1 else d.f.acc) false c
          (compare e.2 (colCells c) (e.2.xiRow.get 0 c) (e.2.alRow.get 0 c))) s) s

/-- The last row of a drain is written and its column checks finish (03 R107, R131). -/
def execDrainComplete (n a : Nat) (s : State) : Out :=
  match (arr s n a).drains with
  | d :: t =>
    if d.row < drainLen d || cycOf s n < d.start + drainLen d + 2 then .next s
    else .next (columnChecks (updArr s n a (fun x => { x with drains := t })) n a d)
  | [] => .next s

end Sys2Proof.Machine
end

