-- ==== Sys2Proof/Machine/Net.lean ====
section
/-! DEFINITION. Hurdle counters and addresses, adds on the signal net, messages to other modules, and the
release of waiters (08; 10 R375). -/
namespace Sys2Proof.Machine
open Sys2Proof

/-- The value of a counter (08 R300). -/
def ctrVal (s : State) : Ctr → W32
  | .core n i => s.coreCtr.get 0 (64 * n + i)
  | .cluster g i => s.cluCtr.get 0 (256 * g + i)
  | .die d i => s.dieCtr.get 0 (1024 * d + i)
  | .module i => s.modCtr.get 0 i

/-- The state with a counter set. -/
def setCtr (s : State) (c : Ctr) (v : W32) : State :=
  match c with
  | .core n i => { s with coreCtr := s.coreCtr.set (64 * n + i) v }
  | .cluster g i => { s with cluCtr := s.cluCtr.set (256 * g + i) v }
  | .die d i => { s with dieCtr := s.dieCtr.set (1024 * d + i) v }
  | .module i => { s with modCtr := s.modCtr.set i v }

/-- The counter a station names by scope and index (06 R235; 08 R301). -/
def ctrOf (n : Nat) (scope : Scope) (i : Nat) : Ctr :=
  match scope with
  | .core => .core n i
  | .cluster => .cluster (cluOf n) i
  | .die => .die (dieOf n) i
  | .module => .module i

/-- Counters that die or module nodes hold: their waiters register (08 R313). -/
def registers : Ctr → Bool
  | .die _ _ | .module _ => true
  | _ => false

/-- A WAIT on value `v` with target `t` is satisfied (08 R306). -/
def satisfied (v t : W32) : Bool := decide ((v - t).toNat < 2 ^ 31)

/-- Reserved bits of a hurdle address, by scope (08 R303). -/
def addrReserved (a : Nat) : Bool :=
  bits a 30 28 ≠ 0 ||
    (match Scope.ofCode (bits a 17 16) with
     | .core => false
     | .cluster => bitOf a 15
     | .die => bits a 15 13 ≠ 0
     | .module => bits a 15 12 ≠ 0)

/-- The counter that a hurdle address names on its module (08 R303). -/
def addrCtr (a : Nat) : Ctr :=
  match Scope.ofCode (bits a 17 16) with
  | .core => .core (bits a 15 6) (bits a 5 0)
  | .cluster => .cluster (12 * bits a 14 12 + bits a 11 8) (bits a 7 0)
  | .die => .die (bits a 12 10) (bits a 9 0)
  | .module => .module (bits a 11 0)

/-- The module that a hurdle address names (08 R303). -/
def addrModule (s : State) (a : Nat) : Nat := if bitOf a 31 then s.moduleId else bits a 27 18

/-- The hurdle address of a counter, in the issuer's own module (08 R303). -/
def ctrAddr : Ctr → Nat
  | .core n i => i + 64 * n + 2 ^ 31
  | .cluster g i => i + g % 12 * 256 + g / 12 * 4096 + 2 ^ 16 + 2 ^ 31
  | .die d i => i + 1024 * d + 2 * 2 ^ 16 + 2 ^ 31
  | .module i => i + 3 * 2 ^ 16 + 2 ^ 31

/-- A station or cluster that the address names is absent (08 R304). -/
def addrAbsent (s : State) (a : Nat) : Bool :=
  match Scope.ofCode (bits a 17 16) with
  | .core => !present s (bits a 15 6)
  | .cluster => decide (12 ≤ bits a 11 8) || !live s (12 * bits a 14 12 + bits a 11 8)
  | _ => false

/-- The module set of the loaded job (08 R304). -/
def inSet (s : State) (m : Nat) : Bool :=
  match s.course with
  | some c => m = s.moduleId || c.moduleSet.contains m
  | none => m = s.moduleId

/-- A station or cluster number that no module has (08 R304). -/
def addrNone (a : Nat) : Bool :=
  match Scope.ofCode (bits a 17 16) with
  | .core => decide (768 ≤ bits a 15 6)
  | .cluster => decide (12 ≤ bits a 11 8)
  | _ => false

/-- A hurdle address is bad (08 R304); on another module only that module knows its absent units. -/
def addrBad (s : State) (a : Nat) : Bool :=
  let m := addrModule s a
  addrReserved a || !inSet s m || addrNone a || (m = s.moduleId && addrAbsent s a)

/-- The node of the hurdle tree at which an add from node `g` reaches counter `c` (08 R313). -/
def meet (g : Nat) (c : Ctr) : Nat :=
  let d := if g < 96 then g / 12 else g - 96
  match c with
  | .core n _ => if g = cluOf n then g else if g < 104 && dieOf n = d then 96 + d else 104
  | .cluster h _ => if g = h then g else if g < 104 && h / 12 = d then 96 + d else 104
  | .die e _ => if g < 104 && e = d then 96 + d else 104
  | .module _ => 104

/-- The level above a node (08 R313). -/
def parentNode (g : Nat) : Nat := if g < 96 then 96 + g / 12 else 104

/-- An add on its way from a node; an add of 0 changes nothing (08 R305). -/
def sendAdd (s : State) (node : Nat) (c : Ctr) (n : W32) (due : Option (Nat × Nat)) : State :=
  if n = 0 then s
  else { s with adds := s.adds ++ [{ c := c, n := n, node := node, top := meet node c, due := due }] }

/-- The port that the loaded course's route table names for a module (10 R374, R380). -/
def routeOf (s : State) (m : Nat) : Option Nat :=
  match s.course with
  | some c => c.routes.get none m
  | none => none

/-- A handoff port. -/
def hport (s : State) (p : Nat) : HPort := s.ports.get {} p

/-- The state with a handoff port changed. -/
def updHPort (s : State) (p : Nat) (f : HPort → HPort) : State :=
  { s with ports := s.ports.upd {} p f }

/-- Hurdle messages of one port: adds for one address, job and run tag are summed, and a newer value of a
job hurdle replaces an older one that waits (08 R315; 10 R375). -/
def mergeHur (m : HurMsg) : List HurMsg → List HurMsg
  | [] => [m]
  | x :: t =>
    if x.address = m.address && x.job = m.job && x.run = m.run && x.kind = m.kind then
      (if m.kind = 3 then m else { x with value := (x.value + m.value) % 2 ^ 32 }) :: t
    else x :: mergeHur m t

/-- A hurdle message waits at a port for a signal slot (10 R375). -/
def queueHur (s : State) (p : Nat) (m : HurMsg) : State :=
  updHPort s p (fun h => { h with hurQ := mergeHur m h.hurQ })

/-- A SIGNAL to any module of the job: a local add, or a message along the route table (08 R302, R317). -/
def signalTo (s : State) (node addr : Nat) (n : W32) : State :=
  let m := addrModule s addr
  if m = s.moduleId then sendAdd s node (addrCtr addr) n none
  else if n = 0 then s
  else
    match routeOf s m with
    | some p => queueHur s p { address := addr % 2 ^ 28, value := n.toNat, job := jobNo s
                               run := s.runNo % 65536, kind := 1 }
    | none => s

/-- HUR_ERR_STATUS of a die (08 R332). -/
def hurErr (s : State) (d bit station : Nat) (gc : Bool) : State :=
  latch s (regKey d 0xB00) 2 bit [(22, 16, station), (23, 23, b2n gc), (26, 24, bit)]

/-- Sends a new value of a die or module counter to each registered waiter (08 R313). -/
def tellWaiters (s : State) (c : Ctr) (v : W32) : State :=
  { s with valMsgs := s.valMsgs ++
      ((s.waiters.filter (fun w => w.2 = c)).map (fun w => (w.1, c, v))) }

/-- The node that holds a counter (08 R300, R313). -/
def homeNode : Ctr → Nat
  | .core n _ => cluOf n
  | .cluster g _ => g
  | .die d _ => 96 + d
  | .module _ => 104

/-- The nodes below the hops on the way from a node up to another (08 R313). -/
def upHops (node top : Nat) : List Nat :=
  if node = top then []
  else if node < 96 && top = 104 then [node, parentNode node]
  else if node = 104 then [] else [node]

/-- A hop of the signal net between a waiter's node and the node of its counter has stopped: no registration and no
value passes (08 R312, R313). -/
def cutOff (s : State) (w : Waiter) (c : Ctr) : Bool :=
  let g := match w with | .station n => cluOf n | .gc g => g
  let top := meet g c
  (upHops g top ++ upHops (homeNode c) top ++ (if top = 104 && homeNode c ≠ 104 then [104] else [])).any
    (s.netStopped.get false ·)

/-- An add that has reached the highest node of its way goes down to its counter over hops of which one has stopped
(08 R312, R313). -/
def downStopped (s : State) (a : Add) : Bool :=
  (upHops (homeNode a.c) a.top ++ (if a.top = 104 && homeNode a.c ≠ 104 then [104] else [])).any
    (s.netStopped.get false ·)

/-- A counter of a job hurdle: module counters that the course declares (08 R314). -/
def isJobHurdle (s : State) (c : Ctr) : Bool :=
  match c, s.course with
  | .module i, some k => k.jobHurdles.contains i
  | _, _ => false

/-- The `i`-th element dropped. -/
def dropAt {α : Type} : List α → Nat → List α
  | [], _ => []
  | _ :: t, 0 => t
  | x :: t, i + 1 => x :: dropAt t i

/-- An add whose node and cycle have been reached (06 R237; 08 R313). -/
def addReady (s : State) (a : Add) : Bool :=
  a.node = a.top && !downStopped s a && (match a.due with | some (g, c) => decide (c ≤ (clu s g).cyc) | none => true)

/-- The value of a counter as its waiter sees it: the last value sent to it for die and module counters
(08 R306, R313). -/
def seenVal (s : State) (w : Waiter) (c : Ctr) : W32 :=
  if registers c then
    (match s.seen.find? (fun e => e.1 = w) with | some e => e.2 | none => ctrVal s c)
  else ctrVal s c

/-- A waiter registers with the node of its counter, which it sees at once (08 R306, R313). -/
def register (s : State) (w : Waiter) (c : Ctr) : State :=
  if registers c && !cutOff s w c then
    { s with waiters := s.waiters ++ [(w, c)]
             seen := (w, ctrVal s c) :: s.seen.filter (fun e => e.1 ≠ w) }
  else s

/-- A waiter's registration ends. -/
def unregister (s : State) (w : Waiter) : State :=
  { s with waiters := s.waiters.filter (fun e => e.1 ≠ w), seen := s.seen.filter (fun e => e.1 ≠ w)
           valMsgs := s.valMsgs.filter (fun e => e.1 ≠ w) }

/-- Tokens on loan from a lender (08 R320). -/
def lentOut (c : Cluster) (n : Nat) : Nat :=
  (c.loans.flatMap (fun l => l.draws)).foldl (fun t d => if d.1 = n then t + d.2 else t) 0

/-- A waiting unit leaves eclipse: the clock of its cluster ramps back (08 R322). -/
def leaveEclipse (s : State) (g : Nat) : State :=
  let low := (clu s g).lowered
  let s := updClu s g (fun c => { c with eclipsed := false, lowered := false })
  if low then retarget s g else s

/-- A station whose WAIT is satisfied resumes once every loan on its share has returned; its unloaned tokens leave the
pool at once (08 R306, R321). -/
def resume (s : State) (n : Nat) : State :=
  if lentOut (clu s (cluOf n)) n = 0 then
    let s := unregister s (.station n)
    leaveEclipse (updStn s n (fun t =>
      { t with run := .issuing, pend := none, released := true, eclipse := false, lent := 0 })) (cluOf n)
  else
    updStn s n (fun t => { t with released := true, lent := lentOut (clu s (cluOf n)) n })

/-- A value that a pending WAIT of a station sees and that satisfies it releases it for good; its unloaned tokens leave
the pool (08 R306, R308, R321). -/
def releaseStn (c : Ctr) (v : W32) (l : Cluster) (n : Nat) (t : Station) : Station :=
  match t.run, t.pend with
  | .waiting, some (.wait d tgt _) =>
    if d = c && satisfied v tgt && !t.released then { t with released := true, lent := lentOut l n } else t
  | _, _ => t

/-- The same for an XHWAIT, which keeps the value of its release (06 R257; 08 R306, R308). -/
def releaseGc (c : Ctr) (v : W32) (x : Gc) : Gc :=
  if x.state = .xhwait && x.waitCtr = some c && x.released.isNone && satisfied v x.target then { x with released := some v }
  else x

/-- A waiter tests a value that has reached it (08 R306, R313). -/
def testWaiter (s : State) (w : Waiter) (c : Ctr) (v : W32) : State :=
  match w with
  | .station n => updStn s n (releaseStn c v (clu s (cluOf n)) n)
  | .gc g => updGc s g (releaseGc c v)

/-- Every pending WAIT and XHWAIT on a core or cluster counter tests its new value (08 R306, R308; 06 R237). -/
def testDirect (s : State) (c : Ctr) (v : W32) : State :=
  { s with stns := s.stns.map (fun e => (e.1, releaseStn c v (clu s (cluOf e.1)) e.1 e.2))
           clus := s.clus.map (fun e => (e.1, { e.2 with gc := releaseGc c v e.2.gc })) }

/-- An ARRIVE or SIGNAL that changes a landing counter, which only landings may, is noted for the detector
(02 R66; 06 R252 check 4). -/
def markLanding (s : State) (c : Ctr) : State :=
  match c with
  | .core n i => if 56 ≤ i && i < 64 then updStn s n (fun t => { t with misused := t.misused.set i true }) else s
  | _ => s

/-- An add reaches its counter, and whoever sees the counter tests its new value (08 R305, R306); an add to a job
hurdle joins those forwarded to the parent or applied by the root (08 R315). -/
def applyAdd (s : State) (c : Ctr) (n : W32) : State :=
  if isJobHurdle s c then
    match c with
    | .module i => { s with jobUp := s.jobUp.upd 0 i (· + n) }
    | _ => s
  else
    let v := ctrVal s c + n
    let s := markLanding (setCtr s c v) c
    if registers c then tellWaiters s c v else testDirect s c v

/-- A cluster in eclipse (08 R322). -/
def inEclipse (s : State) (g : Nat) : Bool :=
  live s g && (stationsOf s g).all (fun n => (stn s n).eclipse || (stn s n).run = .halted) &&
    ((gcOf s g).state = .halted || ((gcOf s g).state = .xhwait && (gcOf s g).long))

end Sys2Proof.Machine
end

