-- ==== Sys2Proof/Machine/Hurdles.lean ====
section
/-! DEFINITION. Hurdle operations of stations, the events of the signal net and the hurdle tree, job
hurdles, and eclipse (06 R235 to R238; 08). -/
namespace Sys2Proof.Machine
open Sys2Proof

/-- A hurdle operation of a station that halts at its next hurdle: it halts and does not issue
(16 R524). -/
def hurdleGate (n : Nat) (s : State) (f : State → Out) : Out :=
  if !acts s n then .next s
  else if (stn s n).haltNext then .next (updStn s n halted)
  else f s

/-- ARRIVE: adds to a counter within the station's reach; counted at core and cluster scope (06 R235,
R237; 08 R301, R305). -/
def execArrive (n : Nat) (scope : Scope) (i rs : Nat) (one : Bool) (s : State) : Out :=
  hurdleGate n s (fun s =>
    let v : W32 := if one then 1 else (xreg s n rs).setWidth 32
    let s := if one then s else seeX s n [rs]
    let land := decide (scope = .core) && decide (56 ≤ i)
    let s := if land then updStn (fsFail s n 4) n (fun t => { t with misused := t.misused.set i true }) else s
    let due := match scope with
      | .core => some (cluOf n, cycOf s n + 3)
      | .cluster => some (cluOf n, cycOf s n + 12)
      | _ => none
    .next (sendAdd s (cluOf n) (ctrOf n scope i) v due))

/-- WAIT: the stride waits until the counter satisfies the target (06 R236; 08 R306, R319). -/
def execWait (n : Nat) (scope : Scope) (i rs : Nat) (long : Bool) (s : State) : Out :=
  hurdleGate n s (fun s =>
    let s := seeX s n [rs]
    let s := fsIf s (decide (scope = .core) && (stn s n).misused.get false i) n 4
    let c := ctrOf n scope i
    let t : W32 := (xreg s n rs).setWidth 32
    if satisfied (ctrVal s c) t && !cutOff s (.station n) c then .next s
    else
      .next (register (updStn s n (fun st =>
        { st with run := .waiting, released := false, pend := some (.wait c t long) })) (.station n) c))

/-- SIGNAL: adds to any counter of the job by hurdle address (06 R235; 08 R302, R304). -/
def execSignal (n raddr rs : Nat) (one : Bool) (s : State) : Out :=
  hurdleGate n s (fun s =>
    let a := (xreg s n raddr).toNat % 2 ^ 32
    let v : W32 := if one then 1 else (xreg s n rs).setWidth 32
    let s := seeX s n (if one then [raddr] else [raddr, rs])
    if addrBad s a then
      .next (errHalt (raise (hurErr s (dieOf n) 1 (n % 96) false) 0x0302 (dieOf n) (n % 96) none) n 0x0302)
    else
      let land := match addrCtr a with | .core _ i => decide (56 ≤ i) | _ => false
      let s := fsIf s land n 4
      let s := if addrModule s a = s.moduleId then markLanding s (addrCtr a) else s
      .next (signalTo s (cluOf n) a v))

/-- A BORROW request enters the queue of its cluster, by cycle and then core (08 R320). -/
def addBorrow (e : Nat × Nat × Nat × Nat) : List (Nat × Nat × Nat × Nat) → List (Nat × Nat × Nat × Nat)
  | [] => [e]
  | x :: t => if x.1 < e.1 || (x.1 = e.1 && x.2.1 < e.2.1) then x :: addBorrow e t else e :: x :: t

/-- BORROW: the stride waits for the grant (06 R236, R238; 08 R320). -/
def execBorrow (n tokens len : Nat) (s : State) : Out :=
  hurdleGate n s (fun s =>
    let s := updStn s n (fun t =>
      { t with run := .waiting, released := false, pend := some (.borrow tokens len) })
    .next (updClu s (cluOf n) (fun c => { c with borrowQ := addBorrow (c.cyc, n, tokens, len) c.borrowQ })))

/-- A station still waits for its BORROW. -/
def borrows (s : State) (n : Nat) : Bool :=
  (stn s n).run = .waiting &&
    (match (stn s n).pend with | some (.borrow _ _) => true | _ => false)

/-- Draws `k` tokens on the lenders of a cluster in increasing core order (08 R320). -/
def drawTokens (s : State) (c : Cluster) (k : Nat) : List Nat → List (Nat × Nat)
  | [] => []
  | n :: t =>
    let a := min k ((stn s n).lent - lentOut c n)
    if a = 0 then drawTokens s c k t else (n, a) :: drawTokens s c (k - a) t

/-- Tokens of the pool that are not on loan (08 R320). -/
def poolLeft (s : State) (g : Nat) : Nat :=
  (stationsOf s g).foldl (fun t n => t + ((stn s n).lent - lentOut (clu s g) n)) 0

/-- The pool grants the first waiting BORROW, whose stride issues in the next program cycle g; the tokens return in
cycle g + L (06 R238; 08 R320). -/
def execBorrowGrant (g : Nat) (s : State) : Out :=
  let c := clu s g
  match c.borrowQ.filter (fun e => borrows s e.2.1) with
  | (_, n, k, len) :: t =>
    if poolLeft s g < k then .next s
    else
      let l : Loan := ⟨n, k, c.cyc + 1 + len, drawTokens s c k (stationsOf s g)⟩
      let s := updClu s g (fun c => { c with borrowQ := t, loans := c.loans ++ [l] })
      .next (updStn s n (fun st => { st with run := .issuing, released := true, pend := none }))
  | [] => .next s

/-- A loan's window ends: its tokens return, and lenders whose WAIT is satisfied resume (08 R320,
R321). -/
def execBorrowWindowEnd (g n : Nat) (s : State) : Out :=
  let c := clu s g
  if c.loans.any (fun l => l.station = n && decide (l.endCyc ≤ c.cyc)) then
    let s := updClu s g (fun c =>
      { c with loans := c.loans.filter (fun l => !(l.station = n && decide (l.endCyc ≤ c.cyc))) })
    .next ((stationsOf s g).foldl (fun s m =>
      if (stn s m).run = .waiting && (stn s m).released then resume s m else s) s)
  else .next s

/-- No drain runs and no MAC products are pending in the arrays of a station (08 R319). -/
def arraysIdle (s : State) (n : Nat) : Bool :=
  [0, 1].all (fun a => (arr s n a).drains.all (fun d =>
      decide (d.start + (if d.complex then 256 else 128) ≤ cycOf s n)) &&
    (arr s n a).accs.all (fun e => match e.2.lastMac with
      | some c => decide (c + 6 ≤ cycOf s n)
      | none => true))

/-- The token share that the course gives a station (06 R245). -/
def share (s : State) (n : Nat) : Nat :=
  match s.course with | some c => c.shares.get 0 n | none => 0

/-- A station at a long-hint WAIT enters eclipse and lends its share (08 R319). -/
def execEclipseEnter (n : Nat) (s : State) : Out :=
  match (stn s n).run, (stn s n).pend with
  | .waiting, some (.wait _ _ true) =>
    if (stn s n).released || (stn s n).eclipse || !arraysIdle s n then .next s
    else .next (updStn s n (fun t => { t with eclipse := true, lent := share s n }))
  | _, _ => .next s

/-- Working clusters (01 R28; 14 R495). -/
def working (s : State) : List Nat := (List.range 96).filter (live s)

/-- The effective cap in W (14 R495, R496). -/
def effCap (s : State) : Nat := if s.power.alert then min s.power.cap s.power.alertCap else s.power.cap

/-- The power that a cluster frees goes to its die's other working clusters as headroom: their grants rise by amounts
that the spec does not state, up to 2.1 GHz and within the module cap (08 R322 step 2; log 38). -/
def giveHeadroom (s : State) (g : Nat) : State :=
  if effCap s < s.power.watts then s
  else
    let d := draw s
    ((working s).filter (fun h => h / 12 = g / 12 && h ≠ g && !inEclipse s h)).foldl (fun s h =>
      updClu s h (fun c => { c with grant := max c.grant (min 2100 (c.grant + (Config.freeCell d.2 h).toNat)) })) d.1

/-- A cluster in eclipse for more than 100 µs: its clock is lowered to 0.6 GHz, the die's other clusters get the power that
this frees, and the event is raised once for the episode (08 R322). -/
def execHurEclipseHeadroom (g : Nat) (s : State) : Out :=
  if inEclipse s g && !(clu s g).lowered then
    .next (retarget (updClu (raise (giveHeadroom s g) 0x0306 (g / 12) (g % 12) none) g
      (fun c => { c with eclipsed := true, lowered := true })) g)
  else .next s

/-- An add reaches its counter (08 R305, R309). -/
def execHurdleAddApply (i : Nat) (s : State) : Out :=
  match s.adds[i]? with
  | some a =>
    if addReady s a then .next (applyAdd { s with adds := dropAt s.adds i } a.c a.n) else .next s
  | none => .next s

/-- Adds for one counter summed (08 R313). -/
def combine (a : Add) : List Add → List Add
  | [] => [a]
  | x :: t => if x.c = a.c && x.top = a.top && x.node = a.node && x.due = a.due
    then { x with n := x.n + a.n } :: t else x :: combine a t

/-- A node forwards to the level above the sums of the adds it has received (08 R313). -/
def execHurdleNodeForward (node : Nat) (s : State) : Out :=
  if s.netStopped.get false node then .next s
  else
    let up (a : Add) := a.node = node && a.top ≠ node
    let moved := ((s.adds.filter up).map (fun a => { a with node := parentNode node })).foldl
      (fun l a => combine a l) []
    .next { s with adds := s.adds.filter (fun a => !up a) ++ moved
                   hopFails := s.hopFails.drop node }

/-- A new value reaches a registered waiter, in the order sent, and the waiter tests it (08 R306, R312, R313). -/
def execHurdleValueUpdate (i : Nat) (s : State) : Out :=
  match s.valMsgs[i]? with
  | some (w, c, v) =>
    if (s.valMsgs.take i).any (fun e => e.1 = w) || cutOff s w c then .next s
    else
      .next (testWaiter { s with valMsgs := dropAt s.valMsgs i, seen := (w, v) :: s.seen.filter (fun e => e.1 ≠ w) }
        w c v)
  | none => .next s

/-- A general core resumes from its XHWAIT with the counter's value (06 R257). -/
def resumeGc (s : State) (g : Nat) (v : W32) : State :=
  let s := unregister s (.gc g)
  leaveEclipse (updGc s g (fun c =>
    { c with state := .running, waitCtr := none, released := none, wdog := 0, pc := (c.pc + 4) % 2 ^ 64
             x := if c.rd = 0 then c.x else c.x.set c.rd (v.setWidth 64) })) g

/-- The value with which an XHWAIT is released: the first satisfying one that its general core saw (06 R257;
08 R306). -/
def gcValue (s : State) (g : Nat) (c : Ctr) : Option W32 :=
  match (gcOf s g).released with
  | some v => some v
  | none => if satisfied (seenVal s (.gc g) c) (gcOf s g).target && !cutOff s (.gc g) c then some (seenVal s (.gc g) c) else none

/-- A waiting unit that has seen a satisfying value resumes (08 R306, R308, R321); the value of a counter of another
module is a free value that satisfies the target (log 44). -/
def execWaitRelease (w : Waiter) (s : State) : Out :=
  match w with
  | .station n =>
    match (stn s n).run, (stn s n).pend with
    | .waiting, some (.wait c t _) =>
      if (stn s n).released || (satisfied (seenVal s w c) t && !cutOff s w c) then .next (resume s n) else .next s
    | _, _ => .next s
  | .gc g =>
    match (gcOf s g).state, (gcOf s g).waitCtr with
    | .xhwait, some c =>
      (match gcValue s g c with
       | some v => if s.dump.state = 1 then .next s else .next (resumeGc s g v)
       | none => .next s)
    | .xhwait, none =>
      let d := draw s
      let v := (Config.freeWord d.2).setWidth 32
      if satisfied v (gcOf s g).target then .next (resumeGc d.1 g v) else .next d.1
    | _, _ => .next s

/-- The module is the root of the job's tree (08 R314). -/
def isRoot (s : State) : Bool := match s.course with | some c => c.root = s.moduleId | none => false

/-- Ports from this module to its children in the job's tree (08 R314, R315). -/
def childPorts (s : State) : List Nat :=
  match s.course with
  | some c => (c.parents.filter (fun p => p.parent = s.moduleId)).flatMap (fun p =>
      (c.ports.filter (fun d => d.peerModule = p.module)).map (·.port) |>.take 1)
  | none => []

/-- The port to the parent (08 R314). -/
def parentPort (s : State) : Option Nat :=
  match s.course with
  | some c => (c.parents.find? (fun p => p.module = s.moduleId)).map (·.port)
  | none => none

/-- A hurdle message of the job from this module (10 R375). -/
def hurMsg (s : State) (i : Nat) (v : W32) (kind : Nat) : HurMsg :=
  { address := i + 3 * 2 ^ 16 + s.moduleId * 2 ^ 18, value := v.toNat, job := jobNo s
    run := s.runNo % 65536, kind := kind }

/-- A job hurdle's combined adds: the root applies them and sends the new value down the tree; another
module forwards them to its parent (08 R315). -/
def execJobHurdleRootApply (i : Nat) (s : State) : Out :=
  let n := s.jobUp.get 0 i
  if n = 0 then .next s
  else
    let s := { s with jobUp := s.jobUp.drop i }
    if isRoot s then
      let v := s.jobSum.get 0 i + n
      let s := { s with jobSum := s.jobSum.set i v, jobDown := s.jobDown ++ [(i, v)] }
      .next ((childPorts s).foldl (fun s p => queueHur s p (hurMsg s i v 3)) s)
    else
      match parentPort s with
      | some p => .next (queueHur s p (hurMsg s i n 2))
      | none => .next s

/-- A value from the root updates the module's copy of a job hurdle, in the root's order (08 R315). -/
def execJobHurdleValueArrive (i : Nat) (s : State) : Out :=
  match s.jobDown.find? (fun e => e.1 = i) with
  | some (_, v) =>
    let s := { s with jobDown := s.jobDown.erase (i, v) }
    .next (tellWaiters (setCtr s (.module i) v) (.module i) v)
  | none => .next s

/-- The die whose signal-net hop leaves a node (16, unit-kind table). -/
def nodeDie (node : Nat) : Nat := if node < 96 then node / 12 else if node < 104 then node - 96 else 8

/-- A flit of the signal net arrives as `got` and fails its CRC-8; it is sent again (08 R312). -/
def execSignalNetResend (node : Nat) (got : List Byte) (crc : Nat) (s : State) : Out :=
  if 105 ≤ node || s.netStopped.get false node || crc8 got = crc || 8 ≤ s.hopFails.get 0 node then .next s
  else .next { s with hopFails := s.hopFails.upd 0 node (· + 1) }

/-- After 8 failed resends the hop stops: a fatal fault (08 R312, R332; 16 R525, R530). -/
def execHurNetFail (node : Nat) (s : State) : Out :=
  if 105 ≤ node || s.netStopped.get false node || s.hopFails.get 0 node < 8 then .next s
  else
    let s := { s with netStopped := s.netStopped.set node true, hopFails := s.hopFails.drop node }
    let s := raise (hurErr s (nodeDie node) 2 0 false) 0x0305 (nodeDie node) 0 (some node)
    .next (wantStop (requestTest s 7 node 0x0305) 0x0305)

end Sys2Proof.Machine
end

