-- ==== Sys2Proof/Machine/Cipher.lean ====
section
/-! DEFINITION. The ciphers and the hash that the spec names by their standards: AES-256 (FIPS 197), its GCM mode
(SP 800-38D) and its XTS mode (IEEE 1619), and SHAKE256 (FIPS 202) (17 R543, R545, R549, R552 to R555; log 3). -/
namespace Sys2Proof.Machine
open Sys2Proof

/-- The S-box in 8 parts of 32 bytes. -/
def sboxParts : List Nat :=
  [0xC072A49CAFA2D4ADF04759FA7DC982CA76ABD7FE2B670130C56F6BF27B777C63,
   0x75B227EBE28012079A059618C323C7041531D871F1E5A534CCF73F362693FDB7,
   0xCF584C4A39BECB6A5BB1FC20ED00D153842FE329B3D63B52A05A6E1B1A2C8309,
   0xD2F3FF1021DAB6BCF5389D928F40A351A89F3C507F02F94585334D43FBAAEFD0,
   0xDB0B5EDE14B8EE4688902A22DC4F816073195D643D7EA7C41744975FEC130CCD,
   0x08AE7A65EAF4566CA94ED58D6D37C8E779E4959162ACD3C25C2406490A3A32E0,
   0x9E1DC186B95735610EF6034866B53E708A8BBD4B1F74DDE8C6B4A61C2E2578BA,
   0x16BB54B00F2D99416842E6BF0D89A18CDF2855CEE9871E9B948ED9691198F8E1]

/-- The inverse S-box in 8 parts of 32 bytes. -/
def invSboxParts : List Nat :=
  [0xCBE9DEC444438E3487FF2F9B8239E37CFBD7F3819EA340BF38A53630D56A0952,
   0x25D18B6D49A25B76B224D92866A12E084EC3FA420B954CEE3D23C2A632947B54,
   0x849D8DA75746155EDAB9EDFD5048706C92B6655DCC5CA4D41698688664F6F872,
   0x6B8A130103BDAFC1020F3FCA8F1E2CD00645B3B80558E4F70AD3BC8C00ABD890,
   0x6EDF751CE837F9E28535ADE72274AC9673E6B4F0CECFF297EADC674F4111913A,
   0xF45ACD78FEC0DB9A2079D2C64B3E56FC1BBE18AA0E62B76F89C5291D711AF147,
   0xEF9CC9939F7AE52D0D4AB519A97F51605FEC8027591012B131C7078833A8DD1F,
   0x7D0C2155631469E126D677BA7E042B17619953833CBBEBC8B0F52AAE4D3BE0A0]

/-- A byte of a table of 8 parts of 32 bytes. -/
def partByte (t : List Nat) (b : Nat) : Nat := (t.getD (b / 32) 0 >>> (8 * (b % 32))) % 256

/-- Product with x in GF(2^8). -/
def xtime (b : Nat) : Nat := if 128 ≤ b then (2 * b) ^^^ 0x11B else 2 * b

/-- Product of a byte and a number below 16 in GF(2^8). -/
def aesMul (k b : Nat) : Nat :=
  let b2 := xtime b
  let b4 := xtime b2
  let b8 := xtime b4
  (if bitOf k 0 then b else 0) ^^^ (if bitOf k 1 then b2 else 0) ^^^ (if bitOf k 2 then b4 else 0)
    ^^^ (if bitOf k 3 then b8 else 0)

/-- Two lists of bytes combined by exclusive or, as long as the shorter. -/
def xorList (a b : List Nat) : List Nat := a.zipWith (· ^^^ ·) b

/-- Later words of an AES-256 key schedule from the last 8 words, newest first; `i` is the next word's number. -/
def expandKey : Nat → Nat → Nat → List (List Nat) → List (List Nat)
  | 0, _, _, ws => ws
  | n + 1, i, rcon, ws =>
    let prev := ws.headD []
    let sub := fun (w : List Nat) => w.map (partByte sboxParts)
    let t :=
      if i % 8 = 0 then
        (match sub (prev.drop 1 ++ prev.take 1) with
         | b :: r => (b ^^^ rcon) :: r
         | [] => [])
      else if i % 8 = 4 then sub prev
      else prev
    expandKey n (i + 1) (if i % 8 = 0 then xtime rcon else rcon) (xorList (ws.getD 7 []) t :: ws)

/-- A list cut into parts of `k` elements, at most `n` of them. -/
def parts {α : Type} (k : Nat) : Nat → List α → List (List α)
  | 0, _ => []
  | n + 1, l => if l.isEmpty then [] else l.take k :: parts k n (l.drop k)

/-- The 15 round keys of AES-256, 16 bytes each (FIPS 197). -/
def roundKeys (key : List Nat) : List (List Nat) :=
  parts 16 15 ((expandKey 52 8 1 (parts 4 8 key).reverse).reverse.flatten)

/-- ShiftRows, or its inverse, over a state of 4 columns of 4 bytes. -/
def shiftRows (inv : Bool) (s : List Nat) : List Nat :=
  (List.range 16).map (fun i => s.getD ((i + (if inv then 16 - 4 * (i % 4) else 4 * (i % 4))) % 16) 0)

/-- One column through MixColumns or its inverse. -/
def mixColumn (inv : Bool) (c : List Nat) : List Nat :=
  let m : List Nat := if inv then [14, 11, 13, 9] else [2, 3, 1, 1]
  (List.range 4).map (fun r =>
    (List.range 4).foldl (fun x j => x ^^^ aesMul (m.getD ((j + 4 - r) % 4) 0) (c.getD j 0)) 0)

/-- MixColumns or its inverse. -/
def mixColumns (inv : Bool) (s : List Nat) : List Nat := (parts 4 4 s).flatMap (mixColumn inv)

/-- The rounds of AES-256 after the first key; the last has no MixColumns (FIPS 197). -/
def encRounds : List (List Nat) → List Nat → List Nat
  | [], s => s
  | [k], s => xorList (shiftRows false (s.map (partByte sboxParts))) k
  | k :: t, s => encRounds t (xorList (mixColumns false (shiftRows false (s.map (partByte sboxParts)))) k)

/-- The rounds of the inverse cipher, its keys from the last. -/
def decRounds : List (List Nat) → List Nat → List Nat
  | [], s => s
  | [k], s => xorList ((shiftRows true s).map (partByte invSboxParts)) k
  | k :: t, s => decRounds t (mixColumns true (xorList ((shiftRows true s).map (partByte invSboxParts)) k))

/-- The bytes of a list as numbers. -/
def natsOf (l : List Byte) : List Nat := l.map (·.toNat)

/-- Numbers as bytes. -/
def bytesOf (l : List Nat) : List Byte := l.map (BitVec.ofNat 8)

/-- A key of `n` bytes, held as the number whose little-endian bytes it is (00 R6). -/
def keyNats (n key : Nat) : List Nat := natsOf (leBytes n key)

/-- AES-256 on a block of 16 bytes, by its round keys. -/
def aesEnc (ks : List (List Nat)) (b : List Nat) : List Nat :=
  match ks with
  | k :: t => encRounds t (xorList b k)
  | [] => b

/-- The inverse of AES-256 on a block. -/
def aesDec (ks : List (List Nat)) (b : List Nat) : List Nat :=
  match ks.reverse with
  | k :: t => decRounds t (xorList b k)
  | [] => b

/-- The number whose big-endian bytes are the list. -/
def ofBe (l : List Nat) : Nat := l.foldl (fun v b => 256 * v + b) 0

/-- `n` big-endian bytes of a number. -/
def beNats (n v : Nat) : List Nat := (natsOf (leBytes n v)).reverse

/-- A product in the field of GHASH, bit by bit from the first bit of `x` (SP 800-38D). -/
def ghashMul (x : Nat) : Nat → Nat → Nat → Nat
  | 0, _, z => z
  | n + 1, v, z =>
    ghashMul x n (if v % 2 = 1 then (v / 2) ^^^ (0xE1 * 2 ^ 120) else v / 2) (if bitOf x n then z ^^^ v else z)

/-- Bytes filled with zeros to whole blocks of 16. -/
def padBlock (l : List Nat) : List Nat := l ++ List.replicate ((16 - l.length % 16) % 16) 0

/-- GHASH of whole blocks under the hash key (SP 800-38D). -/
def ghash (h : Nat) (l : List Nat) : Nat :=
  (parts 16 (l.length / 16) l).foldl (fun y b => ghashMul (y ^^^ ofBe b) 128 h 0) 0

/-- Counter mode from counter `c`, block by block (SP 800-38D). -/
def ctrMode (ks : List (List Nat)) (iv : List Nat) : Nat → Nat → List Nat → List Nat
  | 0, _, _ => []
  | n + 1, c, l => xorList (l.take 16) (aesEnc ks (iv ++ beNats 4 c)) ++ ctrMode ks iv n (c + 1) (l.drop 16)

/-- The cipher text of AES-256-GCM under a 96-bit IV, and the plain text of a cipher text (SP 800-38D; 17 R553). -/
def gcmCipher (key iv : Nat) (bs : List Byte) : List Byte :=
  bytesOf (ctrMode (roundKeys (keyNats 32 key)) (keyNats 12 iv) ((bs.length + 15) / 16) 2 (natsOf bs))

/-- The 16-byte tag of AES-256-GCM over associated data and cipher text (SP 800-38D; 17 R553). -/
def gcmTag (key iv : Nat) (aad ct : List Byte) : List Byte :=
  let ks := roundKeys (keyNats 32 key)
  let h := ofBe (aesEnc ks (List.replicate 16 0))
  let y := ghash h (padBlock (natsOf aad) ++ padBlock (natsOf ct) ++ beNats 8 (8 * aad.length) ++ beNats 8 (8 * ct.length))
  bytesOf (xorList (beNats 16 y) (aesEnc ks (keyNats 12 iv ++ beNats 4 1)))

/-- Cipher text and tag of a plain text (17 R553). -/
def gcmSeal (key iv : Nat) (aad plain : List Byte) : List Byte :=
  gcmCipher key iv plain ++ gcmTag key iv aad (gcmCipher key iv plain)

/-- The plain text of cipher text and tag, the last 16 bytes; none where the tag fails (17 R553). -/
def gcmOpen (key iv : Nat) (aad bs : List Byte) : Option (List Byte) :=
  let ct := bs.take (bs.length - 16)
  if bs.drop (bs.length - 16) = gcmTag key iv aad ct then some (gcmCipher key iv ct) else none

/-- The blocks of a data unit of XTS, each with the tweak times a further power of x (IEEE 1619). -/
def xtsBlocks (f : List Nat → List Nat) : Nat → Nat → List Nat → List Nat
  | 0, _, _ => []
  | n + 1, t, l =>
    let tb := keyNats 16 t
    let t' := if bitOf t 127 then (2 * t) % 2 ^ 128 ^^^ 0x87 else 2 * t
    xorList (f (xorList (l.take 16) tb)) tb ++ xtsBlocks f n t' (l.drop 16)

/-- AES-256-XTS of one data unit of whole blocks: `key` is key 1, then key 2, as 64 bytes; `tweak` its number
(IEEE 1619; 17 R550, R553). -/
def xts (decrypt : Bool) (key tweak : Nat) (bs : List Byte) : List Byte :=
  let k1 := roundKeys (keyNats 32 (key % 2 ^ 256))
  let t := ofLe (bytesOf (aesEnc (roundKeys (keyNats 32 (key / 2 ^ 256))) (keyNats 16 tweak)))
  bytesOf (xtsBlocks (if decrypt then aesDec k1 else aesEnc k1) (bs.length / 16) t (natsOf bs))

/-- The round constants of Keccak-f[1600] (FIPS 202). -/
def keccakRc : List (BitVec 64) :=
  [0x0000000000000001, 0x0000000000008082, 0x800000000000808A, 0x8000000080008000,
   0x000000000000808B, 0x0000000080000001, 0x8000000080008081, 0x8000000000008009,
   0x000000000000008A, 0x0000000000000088, 0x0000000080008009, 0x000000008000000A,
   0x000000008000808B, 0x800000000000008B, 0x8000000000008089, 0x8000000000008003,
   0x8000000000008002, 0x8000000000000080, 0x000000000000800A, 0x800000008000000A,
   0x8000000080008081, 0x8000000000008080, 0x0000000080000001, 0x8000000080008008]

/-- The rotation of lane x + 5y by ρ (FIPS 202). -/
def keccakRot : List Nat :=
  [0, 1, 62, 28, 27, 36, 44, 6, 55, 20, 3, 10, 43, 25, 39, 41, 45, 15, 21, 8, 18, 2, 61, 56, 14]

/-- One round of Keccak-f[1600] on 25 lanes (FIPS 202). -/
def keccakRound (s : List (BitVec 64)) (rc : BitVec 64) : List (BitVec 64) :=
  let a (i : Nat) : BitVec 64 := s.getD i 0
  let c := (List.range 5).map (fun x => a x ^^^ a (x + 5) ^^^ a (x + 10) ^^^ a (x + 15) ^^^ a (x + 20))
  let d := (List.range 5).map (fun x => c.getD ((x + 4) % 5) 0 ^^^ (c.getD ((x + 1) % 5) 0).rotateLeft 1)
  let t := (List.range 25).map (fun i => (a i ^^^ d.getD (i % 5) 0).rotateLeft (keccakRot.getD i 0))
  let b := (List.range 25).map (fun i => t.getD ((i % 5 + 3 * (i / 5)) % 5 + 5 * (i % 5)) 0)
  let e := (List.range 25).map (fun i =>
    b.getD i 0 ^^^ (~~~ b.getD ((i + 1) % 5 + i / 5 * 5) 0 &&& b.getD ((i + 2) % 5 + i / 5 * 5) 0))
  e.zipWith (· ^^^ ·) (rc :: List.replicate 24 0)

/-- Keccak-f[1600]. -/
def keccakF (s : List (BitVec 64)) : List (BitVec 64) := keccakRc.foldl keccakRound s

/-- The lanes of 136 bytes, followed by 8 lanes of zero. -/
def keccakLanes (b : List Byte) : List (BitVec 64) :=
  (parts 8 17 b).map (fun l => BitVec.ofNat 64 (ofLe l)) ++ List.replicate 8 0

/-- Absorbs whole blocks of 136 bytes. -/
def absorb : Nat → List (BitVec 64) → List Byte → List (BitVec 64)
  | 0, s, _ => s
  | n + 1, s, l => absorb n (keccakF (s.zipWith (· ^^^ ·) (keccakLanes (l.take 136)))) (l.drop 136)

/-- Squeezes blocks of 136 bytes. -/
def squeeze : Nat → List (BitVec 64) → List Byte
  | 0, _ => []
  | n + 1, s => (s.take 17).flatMap (fun l => leBytes 8 l.toNat) ++ squeeze n (keccakF s)

/-- SHAKE256 of bytes, truncated to `len` bytes (FIPS 202; 17 R543, R545). -/
def shake256 (bs : List Byte) (len : Nat) : List Byte :=
  let n := bs.length / 136 + 1
  let gap := 136 * n - bs.length
  let pad : List Byte := if gap = 1 then [0x9F] else 0x1F :: (List.replicate (gap - 2) 0 ++ [0x80])
  (squeeze ((len + 135) / 136) (absorb n (List.replicate 25 0) (bs ++ pad))).take len

/-- The ASCII bytes of a label (17 R543). -/
def ascii (s : String) : List Byte := s.toList.map (fun c => BitVec.ofNat 8 c.toNat)

end Sys2Proof.Machine

namespace Sys2Proof

/-- The measurement of a course: its header and body, without the signature (17 R545). -/
def Image.measure (c : Image) : Nat := ofLe (Machine.shake256 (c.head ++ c.body) 64)

/-- The measurement of a supplement: its header and body (17 R545). -/
def Supplement.measure (p : Supplement) : Nat := ofLe (Machine.shake256 (p.head ++ p.body) 64)

end Sys2Proof
end

