-- ==== Sys2Proof/Machine/Messages.lean ====
section
/-! DEFINITION. Messages of the handoff links: their flits, their classes and their replies (10 R361 to
R374). -/
namespace Sys2Proof.Machine
open Sys2Proof

/-- The first `n` bytes of a list, filled up with 0. -/
def sized (n : Nat) (l : List Byte) : List Byte := (l ++ List.replicate n 0).take n

/-- A reply message: READ_DATA, WIN_REPLY, CHUNK_REPLY (10 R362, R372, R373). -/
def isReply (m : Msg) : Bool := m.mtype = 3 || m.mtype = 4 || m.mtype = 7

/-- The class of a message: 0 request, 1 reply. -/
def clsOf (m : Msg) : Nat := b2n (isReply m)

/-- Message flits of a message of `len` data bytes: 32 header bytes and the data in bodies of 224 bytes (10 R361,
R363). -/
def flitsFor (len : Nat) : Nat := (32 + len + 223) / 224

/-- Message flits of a message. -/
def flitsOf (m : Msg) : Nat := flitsFor m.data.length

/-- The 32 bytes of a message header; a WIN_READ's number of bytes stands in bytes 24 to 27 (10 R372; log 21). -/
def msgHead (m : Msg) : List Byte :=
  leBytes 1 (m.mtype % 16) ++ leBytes 1 (m.fmt % 16 + 16 * b2n m.scaled) ++ leBytes 2 m.tag ++ leBytes 4 m.job
    ++ leBytes 2 m.run ++ leBytes 2 m.step ++ leBytes 4 m.length ++ leBytes 8 m.target
    ++ leBytes 4 (if m.mtype = 2 then m.want else 0) ++ leBytes 4 0

/-- The message that header and data bytes hold (10 R372). -/
def readMsg (dst src : Nat) (bs : List Byte) : Msg :=
  let f (i n : Nat) : Nat := ofLe ((bs.drop i).take n)
  { mtype := f 0 1 % 16, dst := dst, src := src, fmt := f 1 1 % 16, scaled := bitOf (f 1 1) 4, tag := f 2 2, job := f 4 4
    run := f 8 2, step := f 10 2, length := f 12 4, target := f 16 8, data := (bs.drop 32).take (f 12 4)
    want := if f 0 1 % 16 = 2 then f 24 4 else 0 }

/-- The 16 bytes of a link hurdle message (10 R375). -/
def hurBytes (m : HurMsg) : List Byte :=
  leBytes 4 m.address ++ leBytes 4 m.value ++ leBytes 4 m.job ++ leBytes 2 m.run ++ leBytes 1 m.kind ++ leBytes 1 m.reserved

/-- The link hurdle message that 16 bytes hold (10 R375). -/
def readHur (bs : List Byte) : HurMsg :=
  let f (i n : Nat) : Nat := ofLe ((bs.drop i).take n)
  { address := f 0 4, value := f 4 4, job := f 8 4, run := f 12 2, kind := f 14 1, reserved := f 15 1 }

/-- The messages of a signal flit's body, its empty slots left out (10 R375). -/
def signalBody (bs : List Byte) : List HurMsg := ((parts 16 14 bs).map readHur).filter (fun m => m.kind ≠ 0)

/-- The flits of a message in order, not yet numbered, the last body filled with zeros (10 R362, R372). -/
def msgFlits (m : Msg) : List Flit :=
  let f : Flit := { cls := clsOf m, dst := m.dst, src := m.src, job := m.job }
  ((List.range (flitsOf m)).zip (parts 224 (flitsOf m) (msgHead m ++ m.data))).map (fun e =>
    { f with type := if e.1 = 0 then 1 else 2, body := sized 224 e.2 })

/-- A message waits at the port that the route table names; without a route it is not sent (10 R374). -/
def sendMsg (s : State) (m : Msg) : State :=
  match routeOf s m.dst with
  | some p => updHPort s p (fun h => { h with txQ := h.txQ ++ msgFlits m })
  | none => s

/-- A message of the running job from this module (10 R372). -/
def newMsg (s : State) (mtype dst tag target : Nat) (data : List Byte) : Msg :=
  { mtype := mtype, dst := dst, src := s.moduleId, tag := tag, job := jobNo s, run := s.runNo % 65536
    length := data.length, target := target, data := data }

/-- The reply to a request message: its tag echoed, the status in byte 16 (10 R372, R373). -/
def replyTo (s : State) (q : Msg) (mtype status : Nat) (data : List Byte) : State :=
  sendMsg s (newMsg s mtype q.src q.tag status data)

/-- A message for this module, taken from those that have arrived. -/
def takeInbox (s : State) (p : Nat) (m : Msg) : State := { s with inbox := s.inbox.erase (p, m) }

end Sys2Proof.Machine
end

