-- ==== Sys2Proof/Machine/Fabric.lean ====
section
/-! DEFINITION. The main fabric: the bridge edges, the route of a request from die to die, the hops on it, and
what a stopped hop keeps from passing (01 R17, R19, R22, R34, R37). -/
namespace Sys2Proof.Machine
open Sys2Proof

/-- The bridge edges E0 to E13 by the register windows of their 2 dies: 0 to 7 the compute dies, 8 and 9 the hub
dies (01 R17). -/
def edgeEnds : List (Nat × Nat) :=
  [(0, 1), (1, 2), (2, 3), (4, 5), (5, 6), (6, 7), (0, 4), (1, 5), (2, 6), (3, 7), (8, 0), (8, 4), (9, 3), (9, 7)]

/-- A die is one of the 2 dies of an edge (01 R17). -/
def edgeJoins (e w : Nat) : Bool :=
  match edgeEnds[e]? with
  | some p => p.1 = w || p.2 = w
  | none => false

/-- The edge between 2 dies; no other die-to-die path exists (01 R17). -/
def edgeBetween (a b : Nat) : Option Nat := edgeEnds.findIdx? (fun p => p = (a, b) || p = (b, a))

/-- The column of a die counted from HD0: the hub dies stand at columns −1 and 4 (01 R34). -/
def columnOf (w : Nat) : Nat := if w = 8 then 0 else if w = 9 then 5 else w % 4 + 1

/-- The die at a row and a column counted from HD0 (01 R34). -/
def dieAt (row col : Nat) : Nat := if col = 0 then 8 else if 5 ≤ col then 9 else 4 * row + (col - 1)

/-- The columns after `c` on the way to column `d`. -/
def columnsTo (c d : Nat) : List Nat :=
  if c ≤ d then (List.range (d - c)).map (fun i => c + 1 + i) else (List.range (c - d)).map (fun i => c - 1 - i)

/-- The row in which traffic leaves die `a` for die `b`: the row of a compute die, a hub die being reached and left
over the hub edge of the other's row; between 2 hub dies the spec names no row (01 R34; log 59). -/
def rowFrom (a b : Nat) : Nat := if a < 8 then a / 4 else if b < 8 then b / 4 else b2n (Config.hubRow a)

/-- The dies that a request passes from die `a` to die `b`, the last included: by column first and by row second
(01 R34). -/
def route (a b : Nat) : List Nat :=
  (columnsTo (columnOf a) (columnOf b)).map (dieAt (rowFrom a b))
    ++ (if a < 8 && b < 8 && a / 4 ≠ b / 4 then [b] else [])

/-- The hops of a way through dies: for each the edge and the die that it enters (01 R17, R37). -/
def hopsVia : Nat → List Nat → List (Nat × Nat)
  | _, [] => []
  | a, b :: t => ((edgeBetween a b).getD 15, b) :: hopsVia b t

/-- The edges of a route (01 R17, R34). -/
def routeEdges (a b : Nat) : List Nat := (hopsVia a (route a b)).map (·.1)

/-- The number of a fabric hop: the window of the die that it enters, its edge or 15 within a die, and the cluster
whose node it enters within a compute die (01 R37). -/
def fabKey (window edge cluster : Nat) : Nat := 256 * window + 16 * cluster + edge

/-- A fabric hop that exists: over an edge of its die, or to a node within its die (01 R17, R37). -/
def fabHop (window edge cluster : Nat) : Bool :=
  decide (window < 10) &&
    (if edge = 15 then decide (cluster < 12) && (decide (window < 8) || cluster = 0)
     else edgeJoins edge window && cluster = 0)

/-- Nothing passes from die `a` to die `b`: a hop of the route has stopped (01 R34, R37). -/
def routeStopped (s : State) (a b : Nat) : Bool :=
  (hopsVia a (route a b)).any (fun h => s.fabStopped.get false (fabKey h.2 h.1 0))

/-- The fabric node of an address: the window of its die and, where it belongs to a cluster, the cluster. -/
def fabNode (s : State) (a : Nat) : Nat × Option Nat :=
  match placeMap s a with
  | .store g => (g / 12, some (g % 12))
  | .pocket n => (dieOf n, some (cluOf n % 12))
  | _ => ((memDie s a).1, none)

/-- A node within a die can be entered (01 R37). -/
def nodeOpen (s : State) (window : Nat) (cluster : Option Nat) : Bool :=
  match cluster with
  | some c => !s.fabStopped.get false (fabKey window 15 c)
  | none => true

/-- A request of cluster `g` to an address and its response pass: no hop on their routes has stopped; the
2 may take different paths (01 R34, R37; log 59). -/
def fabricOpen (s : State) (g a : Nat) : Bool :=
  let t := fabNode s a
  !routeStopped s (g / 12) t.1 && !routeStopped s t.1 (g / 12) && nodeOpen s t.1 t.2
    && nodeOpen s (g / 12) (some (g % 12))

/-- A request of the host port, which is on HD0, to an address and its response pass (01 R33, R34, R37). -/
def hostOpen (s : State) (a : Nat) : Bool :=
  let t := fabNode s a
  !routeStopped s 8 t.1 && !routeStopped s t.1 8 && nodeOpen s t.1 t.2

end Sys2Proof.Machine
end

