-- ==== Sys2Proof/Machine/Ring.lean ====
section
/-! DEFINITION. The Relay Ring: segments, SEND and FREE, hops, landing and its checks, retransmission, and
the retransmissions of the main fabric (01 R37; 02; 06 R226 to R228). -/
namespace Sys2Proof.Machine
open Sys2Proof

/-- Die orders of the segments of a splice mode (02 R78). -/
def segments (mode : Nat) : List (List Nat) :=
  match mode with
  | 0 => [[0], [1], [2], [3], [4], [5], [6], [7]]
  | 1 => [[0, 4], [1, 5], [2, 6], [3, 7]]
  | 2 => [[0, 1, 5, 4], [2, 3, 7, 6]]
  | _ => [[0, 1, 2, 3, 7, 6, 5, 4]]

/-- Stations of a segment in outer-lane order, absent ones skipped (02 R79). -/
def segmentOf (s : State) (mode d : Nat) : List Nat :=
  match (segments mode).find? (fun l => l.contains d) with
  | some l => l.flatMap (fun d => ((List.range 96).map (fun i => 96 * d + i)).filter (present s))
  | none => []

/-- The element after `n` in a circular list. -/
def after (l : List Nat) (n : Nat) : Option Nat :=
  match l.dropWhile (· ≠ n) with
  | _ :: m :: _ => some m
  | _ => l.head?

/-- The splice mode in effect (02 R78, R85). -/
def spliceMode (s : State) : Nat := match s.course with | some c => c.splice | none => 0

/-- The station to which `n` sends on a lane: the outer lane rises, the inner lane falls (02 R47, R82). -/
def neighbour (s : State) (n : Nat) (lane : Lane) : Option Nat :=
  let l := segmentOf s (spliceMode s) (dieOf n)
  match lane with
  | .outer => after l n
  | .inner => after l.reverse n

/-- A hop within a cluster: from a core to its ring neighbour in the same cluster (02 R69). -/
def inCluster (n m : Nat) (lane : Lane) : Bool :=
  cluOf n = cluOf m && (match lane with | .outer => decide (n < m) | .inner => decide (m < n))

/-- The batons on the hop into station `n` on a lane, oldest first. -/
def hop (s : State) (n : Nat) (lane : Lane) : List Flight := (stn s n).hops.get [] lane.code

/-- The state with the hop into a station changed. -/
def updHop (s : State) (n : Nat) (lane : Lane) (l : List Flight) : State :=
  updStn s n (fun t => { t with hops := t.hops.set lane.code l })

/-- An output port of a station. -/
def port (s : State) (n : Nat) (lane : Lane) : Port := (stn s n).ports.get {} lane.code

/-- The state with an output port changed. -/
def updPort (s : State) (n : Nat) (lane : Lane) (f : Port → Port) : State :=
  updStn s n (fun t => { t with ports := t.ports.upd {} lane.code f })

/-- A port still sends, or its baton waits at the sending side of the hop (02 R61; 06 R227). -/
def portBusy (s : State) (n : Nat) (lane : Lane) : Bool :=
  decide (cycOf s n < (port s n lane).idleAt) ||
    (match neighbour s n lane with
     | some m => (hop s m lane).any (fun f => f.sender = n && f.waiting)
     | none => false)

/-- RING_ERR_STATUS of a die (02 R87). -/
def ringErr (s : State) (n : Nat) (lane : Lane) (bit : Nat) : State :=
  latch s (regKey (dieOf n) 0x10) 7 bit [(22, 16, n % 96), (23, 23, lane.code), (26, 24, bit)]

/-- The first landing buffer a baton takes at the receiver (06 R225). -/
def dstBuf (buffers b : Nat) : Nat := if buffers = 1 then b else if buffers = 2 then b / 2 * 2 else 0

/-- The header as a station sends it (02 R56). -/
def rewrite (b : Baton) (m : Nat) (written : Bool) : Header :=
  let h := { b.hdr with hops := b.hdr.hops - 1
                        lap := if m = b.hdr.source then min 255 (b.hdr.lap + 1) else b.hdr.lap }
  hdrSealed (if written then { h with payloadCrc := batonCrc b } else h)

/-- Puts a HELD baton on a lane in this cycle; first_lane of RING_ERR_STATUS for a baton with no sends left is the
lane of the buffer that holds it (02 R56, R68, R87; 06 R226, R227; log 61). -/
def launch (s : State) (n : Nat) (r : SendReq) (lane : Lane) : State :=
  let x := lb s n r.srcLane r.srcBuf
  match x.state with
  | .held =>
    if x.baton.hdr.hops = 0 then
      raise (ringErr s n r.srcLane 3) 0x0104 (dieOf n) (n % 96) none
    else
      match neighbour s n lane with
      | none => s
      | some m =>
        let d := dstBuf x.baton.buffers r.dst
        let c := cycOf s n
        let f : Flight :=
          { baton := { x.baton with hdr := rewrite x.baton m x.written }, dst := d, sender := n
            srcLane := r.srcLane, srcBuf := r.srcBuf, inCluster := inCluster n m lane, due := c + 3 }
        let s := fsIf s (decide (d ≠ r.dst)) n 6
        let s := updHop s m lane (hop s m lane ++ [f])
        let s := updLb s n r.srcLane r.srcBuf
          (fun y => { y with readUntil := max y.readUntil (c + x.baton.transfers + 1) })
        updPort s n lane (fun p => { p with idleAt := c + x.baton.transfers })
  | .heldBad => errHalt s n 0
  | _ => s

/-- SEND by the state of its source and its port (06 R226, R227). -/
def execSend (n : Nat) (srcLane : Lane) (srcBuf : Nat) (outLane : Lane) (dst : Nat) (s : State) : Out :=
  if !acts s n then .next s
  else
    let x := lb s n srcLane srcBuf
    let r : SendReq := ⟨srcLane, srcBuf, dst⟩
    let s := fsIf s (!holds x) n 0
    let p := port s n outLane
    if x.state = .free then .next s
    else if x.state = .heldBad then .next (errHalt s n 0)
    else if p.wait.isSome then
      .next (updPort (fsFail s n 5) n outLane (fun p => { p with second := some r }))
    else if portBusy s n outLane || x.state = .landing then
      .next (updPort (fsIf s (portBusy s n outLane) n 5) n outLane (fun p => { p with wait := some r }))
    else .next (launch s n r outLane)

/-- A waiting SEND starts: the port is idle and its source has left LANDING; a second SEND then waits in
its place (06 R226, R227). -/
def execSendQueuedStart (n : Nat) (outLane : Lane) (s : State) : Out :=
  match (port s n outLane).wait with
  | none => .next s
  | some r =>
    if portBusy s n outLane || lbState (stn s n) r.srcLane r.srcBuf = .landing then .next s
    else
      .next (launch (updPort s n outLane (fun p => { p with wait := p.second, second := none })) n r outLane)

/-- A move-unit operation reads one of the `k` buffers from `b`. -/
def movesFrom (s : State) (n : Nat) (lane : Lane) (b k : Nat) (op : MoveOp) : Bool :=
  match op with
  | .move (some (l, f)) _ _ _ => l = lane && sharesBuf f (lb s n lane f).baton.buffers b k
  | _ => false

/-- The running MOVE of a station reads one of the `k` buffers from `b` (02 R76). -/
def stillMoved (s : State) (n : Nat) (lane : Lane) (b k : Nat) : Bool :=
  match (stn s n).mv with
  | some r => movesFrom s n lane b k r.op
  | none => false

/-- A drain of a station adds to what stands in buffer `b`, so that it still reads it (03 R106; 02 R76). -/
def stillAdded (s : State) (n : Nat) (lane : Lane) (b : Nat) : Bool :=
  [0, 1].any (fun a => (arr s n a).drains.any (fun d => d.f.dest = 3 && d.f.lane = lane
    && decide (d.row < if d.complex then 256 else 128) && (d.f.buf = b || (d.complex && d.f.buf + 2 = b))))

/-- Landing buffers of a baton by the length of its image (02 R51; 07 R268). -/
def imageBufs (len : Nat) : Nat := if len ≤ 17152 then 1 else if len ≤ 33024 then 2 else 4

/-- A descriptor in flight of an engine bound to station `n` drains one of the `k` buffers from `b` (02 R76;
07 R277, R282). -/
def drainsFrom (n : Nat) (lane : Lane) (b k : Nat) (key : Nat) (x : Engine) (r : DescRun) : Bool :=
  key / 4 = cluOf n && x.bound = some (.core (n % 8)) && r.status = 0 && srcKind r.d = 1 && lbLane r.d.w1 = lane
    && sharesBuf (lbFirst r.d.w1) (imageBufs (lenOf r.d)) b k

/-- A stream still drains one of the `k` buffers from `b`. -/
def stillDrained (s : State) (n : Nat) (lane : Lane) (b k : Nat) : Bool :=
  s.engines.any (fun e => e.2.flight.any (drainsFrom n lane b k e.1 e.2))

/-- A reader has not finished with buffer `b`: a SEND, a MOVE that runs or waits, a drain that adds, or a stream
(02 R76; 06 R252 check 1). -/
def stillRead (s : State) (n : Nat) (lane : Lane) (b : Nat) : Bool :=
  decide (cycOf s n < (lb s n lane b).readUntil) || stillMoved s n lane b 1 || stillAdded s n lane b
    || (stn s n).mvWait.any (movesFrom s n lane b 1) || (stn s n).mvSecond.any (movesFrom s n lane b 1)
    || stillDrained s n lane b 1

/-- One of the buffers of a lane that a FREE names is FREE, LANDING or still read (02 R60, R76; 06 R228, R252). -/
def freeCheck (s : State) (n : Nat) (lane : Lane) (m : Nat) : Bool :=
  (List.range 4).any (fun b => bitOf m b &&
    (match lbState (stn s n) lane b with
     | .free | .landing => true
     | _ => stillRead s n lane b))

/-- FREE returns buffers to FREE for transfers that arrive in the next cycle or later (02 R60; 06 R225,
R228). -/
def execFree (n inner outer : Nat) (s : State) : Out :=
  if !acts s n then .next s
  else
    let s := fsIf s (freeCheck s n .inner inner || freeCheck s n .outer outer) n 1
    .next (schedule s n 1 false (.free n inner outer))

/-- The buffers of a lane after a FREE has taken effect: only first buffers of landed batons are freed. -/
def freeLane (t : Station) (lane : Lane) (m : Nat) : Station :=
  (List.range 4).foldl (fun t b =>
    let x := t.lbs.get {} (lbKey lane b)
    if bitOf m b && holds x then
      { t with lbs := t.lbs.set (lbKey lane b) { x with state := .free } }
    else t) t

/-- First buffers of a lane of which a SEND is still reading one of the `k` buffers from `b` (02 R76). -/
def stillSent (s : State) (n : Nat) (lane : Lane) (b k : Nat) : List Nat :=
  (List.range 4).filter (fun f => decide (cycOf s n < (lb s n lane f).readUntil)
    && sharesBuf f (lb s n lane f).baton.buffers b k)

/-- A baton with undefined contents (02 R76). -/
def blur (d : Nat) (b : Baton) : Baton := { b with body := [], free := some d }

/-- What station `n` still sends from some first buffers of a lane is undefined: on the hop, and what of it has
landed (02 R76). -/
def spoilSends (s : State) (n : Nat) (lane : Lane) (l : List Nat) (d : Nat) : State :=
  [Lane.inner, Lane.outer].foldl (fun s o =>
    match neighbour s n o with
    | none => s
    | some m =>
      let mine (f : Flight) : Bool := f.sender = n && f.srcLane = lane && l.contains f.srcBuf
      let s := ((hop s m o).filter (fun f => mine f && f.landing)).foldl (fun s f =>
        updLb s m o f.dst (fun y => { y with baton := blur d y.baton })) s
      updHop s m o ((hop s m o).map (fun f => if mine f then { f with baton := blur d f.baton } else f))) s

/-- What a stream still drains is undefined in memory, in the window it goes to, and at the gateway (02 R76). -/
def spoilDrains (s : State) (n : Nat) (lane : Lane) (b k d : Nat) : State :=
  let blurred (l : Nat) : List Byte := (List.range l).map (Config.freeByte d)
  { s with
    gwIn := s.gwIn.map (fun e => (e.1, e.2.map (fun c => match c.src with
      | .engine g m a =>
        if (s.engines.get {} (4 * g + m)).flight.any (fun r => r.d.addr = a
            && drainsFrom n lane b k (4 * g + m) (s.engines.get {} (4 * g + m)) r) then
          { c with data := blurred c.data.length }
        else c
      | .messages _ => c)))
    engines := s.engines.map (fun e => (e.1, { e.2 with flight := e.2.flight.map (fun r =>
      if drainsFrom n lane b k e.1 e.2 r then
        { r with late := if dstKind r.d = 0 then (List.range (lenOf r.d)).map (fun i => (r.d.w2 + i, Config.freeByte d i))
                   else r.late
                 units := r.units.map (fun q => { q with data := blurred q.data.length }) }
      else r) })) }

/-- Marks what is still read from the `k` buffers from `b`, which are overwritten, as undefined (02 R76): batons
that a SEND of station `n` is still sending, what its MOVE still reads, and what a stream still drains. -/
def spoil (s : State) (n : Nat) (lane : Lane) (b k : Nat) : State :=
  let l := stillSent s n lane b k
  let m := stillMoved s n lane b k
  let z := stillDrained s n lane b k
  if l = [] && !m && !z then s
  else
    let d := draw s
    let s := spoilSends d.1 n lane l d.2
    let s := if z then spoilDrains s n lane b k d.2 else s
    if m then updStn s n (fun t => { t with mv := t.mv.map (fun r => { r with spoiled := some d.2 }) }) else s

/-- A header takes its landing buffers: FREE to LANDING (02 R59). `doneAt` is the cycle from which the
buffer may leave LANDING within a cluster (02 R68). -/
def land (s : State) (n : Nat) (lane : Lane) (b : Nat) (x : Baton) (doneAt : Option Nat) : State :=
  updLb (spoil s n lane b x.buffers) n lane b (fun y =>
    { y with state := .landing, baton := x, written := false, doneAt := doneAt, readUntil := 0 })

/-- A header transfer reaches its buffer: it takes it if FREE and waits otherwise; a wait within a cluster names the
receiving station (02 R59, R61, R64, R87; log 61). -/
def execHeaderTransferArrive (n : Nat) (lane : Lane) (s : State) : Out :=
  match hop s n lane with
  | f :: t =>
    if f.landing || f.waiting || (stn s n).stopped.get false lane.code
        || (f.inCluster && decide (cycOf s n < f.due)) then .next s
    else if allFree s n lane f.dst f.baton.buffers then
      .next (updHop (land s n lane f.dst f.baton
        (if f.inCluster then some (cycOf s n + f.baton.transfers) else none))
        n lane ({ f with landing := true } :: t))
    else
      let s := updHop s n lane ({ f with waiting := true } :: t)
      let s := fsFail s n 1
      if f.inCluster then
        let s := bump (ringErr s n lane 6) (regKey (dieOf n) 0x20) 0 32 1
        .next (updClu (raise s 0x0107 (dieOf n) (n % 96) none) (cluOf n) (fun c => { c with bpWait := true }))
      else .next s
  | [] => .next s

/-- Some header of a hop within cluster `g` waits for its buffer (02 R64). -/
def anyWait (s : State) (g : Nat) : Bool :=
  (stationsOf s g).any (fun n => [Lane.inner, Lane.outer].any (fun l =>
    (hop s n l).any (fun f => f.waiting && f.inCluster)))

/-- A waiting header passes once its buffers are FREE (02 R61, R64). -/
def execBatonWaitEnd (n : Nat) (lane : Lane) (s : State) : Out :=
  match hop s n lane with
  | f :: t =>
    if f.waiting && allFree s n lane f.dst f.baton.buffers then
      let c := cycOf s n
      let s := updHop (land s n lane f.dst f.baton
        (if f.inCluster then some (c + f.baton.transfers) else none))
        n lane ({ f with waiting := false, landing := true } :: t)
      let idle := cycOf s f.sender + f.baton.transfers - 3
      let s := updPort s f.sender lane (fun p => { p with idleAt := max p.idleAt idle })
      .next (updClu s (cluOf n) (fun c => { c with bpWait := anyWait s (cluOf n) }))
    else .next s
  | [] => .next s

/-- The landing checks in order: event code and RING_ERR_STATUS bit of the first that fails
(02 R83, R602; 05 R182, R183). -/
def landingCheck (job : Nat) (b : Baton) : Option (Nat × Nat) :=
  if hdrCrcOf b.hdr ≠ b.hdr.hdrCrc then some (0x0102, 1)
  else if b.hdr.job ≠ job then some (0x0106, 5)
  else if !tileOk b.hdr.fmt b.hdr.scaled || !partialOk b.hdr || !lengthOk b then some (0x0105, 4)
  else if batonCrc b ≠ b.hdr.payloadCrc then some (0x0103, 2)
  else none

/-- Adds 1 to the landing counter of a buffer (02 R65); a WAIT on it that this satisfies is released normally
(02 R84). -/
def countLanding (s : State) (n : Nat) (lane : Lane) (b : Nat) : State :=
  let c : Ctr := .core n (56 + lbKey lane b)
  let v := ctrVal s c + 1
  testDirect (setCtr s c v) c v

/-- A buffer leaves LANDING: HELD, or HELD_BAD where a check fails, with its event, its self-test and the
halt of the station (02 R59, R65, R83, R84; 16 R530). -/
def settleBy (s : State) (n : Nat) (lane : Lane) (b : Nat) (r : Option (Nat × Nat)) : State :=
  match r with
  | none => countLanding (updLb s n lane b (fun y => { y with state := .held })) n lane b
  | some (code, bit) =>
    let s := countLanding (updLb s n lane b (fun y => { y with state := .heldBad })) n lane b
    let s := raise (ringErr s n lane bit) code (dieOf n) (n % 96) none
    let s := if code = 0x0102 || code = 0x0103 then requestTest s 2 n code else s
    errHalt s n code

/-- A buffer leaves LANDING by the landing check of its baton (02 R83). -/
def settle (s : State) (n : Nat) (lane : Lane) (b : Nat) : State :=
  settleBy s n lane b (landingCheck (jobNo s) (lb s n lane b).baton)

/-- The last transfer has landed (02 R59, R68, R83). -/
def execBatonLanded (n : Nat) (lane : Lane) (b : Nat) (s : State) : Out :=
  let x := lb s n lane b
  if x.state = .landing && (match x.doneAt with | some c => decide (c ≤ cycOf s n) | none => true) then
    let s := settle s n lane b
    .next (updHop s n lane ((hop s n lane).filter (fun f => !(f.landing && f.dst = b))))
  else .next s

/-- Retransmissions of transfer `i` of a flight so far (02 R72). -/
def replays (f : Flight) (i : Nat) : Nat := if f.failAt = i then f.fails else 0

/-- The sender keeps its last 8 transfers of a lane, so the `k` that it sends again from transfer `i` on are 1 to 8
transfers of the baton (02 R71, R73). -/
def replayOk (f : Flight) (i k : Nat) : Bool :=
  decide (1 ≤ k) && decide (k ≤ 8) && decide (i + k ≤ f.baton.transfers) && !f.waiting

/-- Transfer `i` of a hop arrives as `got` and fails the CRC-16 on its side wires; the sender sends it again with
the `k` − 1 later ones, at most 8 times; within a cluster each time holds the cluster for k + 2 cycles
(02 R71 to R73; 16 R530; log 59). -/
def execTransferRetransmit (n : Nat) (lane : Lane) (i k : Nat) (got : List Byte) (crc : Nat) (s : State) : Out :=
  match hop s n lane with
  | f :: t =>
    if !replayOk f i k || crc16 got = crc || 8 ≤ replays f i || (stn s n).stopped.get false lane.code then .next s
    else
      let s := updHop s n lane ({ f with failAt := i, fails := replays f i + 1 } :: t)
      let s := bump s (regKey (dieOf n) 0x18) 0 32 1
      let s := if f.inCluster then
          updClu s (cluOf n) (fun c =>
            { c with hold := if replays f i = 0 then max c.hold (k + 2) else c.hold + (k + 2) })
        else s
      let r := rate s (0x10000 + 2 * n + lane.code) 1000 1000000000
      .next (if r.2 then requestTest r.1 2 n 0x0101 else r.1)
  | [] => .next s

/-- After 8 failed retransmissions of one transfer the hop stops and the receiving buffer becomes HELD_BAD; one
that another baton occupies, so that the header has not taken it, keeps that baton (02 R72; log 61). -/
def execRingReplayFail (n : Nat) (lane : Lane) (s : State) : Out :=
  match hop s n lane with
  | f :: t =>
    if f.fails < 8 then .next s
    else
      let s := updHop s n lane (t.map (fun g => { g with stopped := true }))
      let s := updStn s n (fun st => { st with stopped := st.stopped.set lane.code true })
      let s := if f.landing || allFree s n lane f.dst f.baton.buffers then
          countLanding (updLb s n lane f.dst (fun y => { y with state := .heldBad, baton := f.baton })) n lane f.dst
        else s
      let s := raise (ringErr s n lane 0) 0x0101 (dieOf n) (n % 96) none
      .next (errHalt (requestTest s 2 n 0x0101) n 0x0101)
  | [] => .next s

/-- A transfer of a main-fabric hop arrives as `got` and fails the CRC-16 on its side wires; the sender sends it
again. `again` says that it is the one that failed last; any other has passed since (01 R37; 02 R71). -/
def execFabricRetransmit (window edge cluster : Nat) (again : Bool) (got : List Byte) (crc : Nat) (s : State) : Out :=
  let k := fabKey window edge cluster
  let f := if again then s.fabFails.get 0 k else 0
  if !fabHop window edge cluster || s.fabStopped.get false k || crc16 got = crc || 8 ≤ f then .next s
  else .next (bump { s with fabFails := s.fabFails.set k (f + 1) } (regKey window 0x48) 0 32 1)

/-- A hop of the main fabric stops after 8 failed retransmissions of one transfer: a fatal fault (01 R37;
16 R525, R530). -/
def execRingFabReplayFail (window edge cluster : Nat) (s : State) : Out :=
  let k := fabKey window edge cluster
  if !fabHop window edge cluster || s.fabFails.get 0 k < 8 || s.fabStopped.get false k then .next s
  else
    let s := { s with fabStopped := s.fabStopped.set k true, fabFails := s.fabFails.set k 0 }
    let s := latch s (regKey window 0x40) 0 0 [(11, 8, edge), (15, 12, cluster)]
    let s := raise s 0x0109 window 0 none
    let s := if edge ≠ 15 then requestTest s 6 edge 0x0109
      else if window < 8 then requestTest s 4 (12 * window + cluster) 0x0109 else s
    .next (wantStop s 0x0109)

end Sys2Proof.Machine
end

