-- ==== Sys2Proof/Machine/Streams.lean ====
section
/-! DEFINITION. Stream engines: lists, bursts, descriptor checks, movement, completion, persistent
descriptors and offload channels (05 R198 to R208; 07 R274 to R285). -/
namespace Sys2Proof.Machine
open Sys2Proof

/-- Statuses of descriptors and commands (13 R446). -/
def stOK : Nat := 0x00
/-- WINDOW_DEAD. -/
def stDead : Nat := 0x05
/-- FAULT. -/
def stFault : Nat := 0x06
/-- INVALID. -/
def stInvalid : Nat := 0x08
/-- TIMEOUT. -/
def stTimeout : Nat := 0x0A

/-- The station that engine `e` of cluster `g` is bound to, if any (06 R234). -/
def boundStation (s : State) (g e : Nat) : Option Nat :=
  match (eng s g e).bound with
  | some (.core k) => some (8 * g + k)
  | _ => none

/-- An engine error is reported: by event, and a bound station program halts at its next hurdle
(07 R281, R285; 16 R525). -/
def engReport (s : State) (g e code : Nat) : State :=
  match boundStation s g e with
  | some n => errHalt (raise s code (g / 12) (n % 96) none) n code
  | none => raise s code (g / 12) (g % 12) none

/-- STR_ERR_STATUS of the engine's die (07 R296). -/
def strErr (s : State) (g e bit : Nat) : State :=
  latch s (regKey (g / 12) 0xA80) 5 bit [(19, 16, g % 12), (21, 20, e), (26, 24, bit)]

/-- The error bit of a completion status (07 R296). -/
def statusBit (st : Nat) : Nat := if st = stDead then 1 else if st = stFault then 2 else if st = stTimeout then 3 else 0

/-- The event of a completion status (07 R280). -/
def statusEvent (st : Nat) : Nat :=
  if st = stDead then 0x0402 else if st = stFault then 0x0403 else if st = stTimeout then 0x0404 else 0x0401

/-- Persistent (07 R283). -/
def isPersist (d : Desc) : Bool := bitOf d.w0 8
/-- A drain point (07 R284). -/
def isDrain (d : Desc) : Bool := bitOf d.w0 10
/-- Done action. -/
def doneOf (d : Desc) : Nat := bits d.w0 12 11

/-- The descriptor that 32 bytes hold (07 R276). -/
def descOf (addr : Nat) (b : Nat → Byte) : Desc :=
  let w (i : Nat) : Nat := ofLe ((List.range 8).map (fun j => b (addr + 8 * i + j)))
  { addr := addr, w0 := w 0, w1 := w 1, w2 := w 2, w3 := w 3 }

/-- Every bank, row range or region that `len` bytes from `a` touch, by one address each. -/
def probes (a len : Nat) : List Nat :=
  (List.range ((a + len - 1) / 0x80000 - a / 0x80000 + 1)).map (fun i => max a ((a / 0x80000 + i) * 0x80000))

/-- The addresses of a range that stand for every die that it reaches: LPDDR5X changes its hub die every 4 KiB
(09 R344). -/
def diePoints (a len : Nat) : List Nat :=
  probes a len ++ (if (a / 4096 + 1) * 4096 < a + len then [(a / 4096 + 1) * 4096] else [])

/-- A list must start in the bound station's pocket data banks or in the cluster's own store (07 R274; 01 R42). -/
def listOk (s : State) (g e addr : Nat) : Bool :=
  addr % 32 = 0 &&
    (match place s addr with
     | .pocket n => boundStation s g e = some n && decide (0x80000 ≤ addr - pocketAddr n 0)
     | .store h => h = g
     | _ => false)

/-- Memory at one address that the engine may reach (01 R43; 07 R262, R263, R265). -/
def reach (s : State) (g e p : Nat) (dst : Bool) : Bool :=
  match place s p with
  | .reserved | .regs => false
  | .pocket n => boundStation s g e = some n && (!dst || decide (0x80000 ≤ p - pocketAddr n 0))
  | .store h => h / 12 = g / 12
  | _ => true

/-- The engine is IDLE, its list and request gone. -/
def idleEngine (x : Engine) : Engine :=
  { x with state := .idle, addr := 0, count := 0, fetched := [], nFetched := 0, nStarted := 0
           flight := [], request := none, parked := none, rearmed := false }

/-- A list starts; one that stands elsewhere ends INVALID before its first descriptor is read
(07 R274). -/
def startList (s : State) (g e addr count : Nat) : State :=
  if listOk s g e addr then
    updEng s g e (fun x => { idleEngine x with state := .running, addr := addr, count := count })
  else
    let s := updEng s g e (fun x => { idleEngine x with lastStatus := stInvalid })
    engReport (strErr s g e 0) g e 0x0401

/-- A parked descriptor runs again with a new base on its rebase side (07 R283). -/
def startRun (s : State) (g e base : Nat) : State :=
  match (eng s g e).parked with
  | some d =>
    let d := if bitOf d.w0 9 then { d with w2 := base } else { d with w1 := base }
    updEng s g e (fun x =>
      { idleEngine x with state := .running, addr := d.addr, count := 1, fetched := [d], nFetched := 1
                          rearmed := true })
  | none => s

/-- A request that the engine's state forbids is refused (07 R285). -/
def refuse (s : State) (g e : Nat) : State := engReport (strErr s g e 4) g e 0x0405

/-- STRM on an engine, by its state (07 R274, R285). -/
def strmOn (s : State) (g e addr count : Nat) : State :=
  let x := eng s g e
  if count = 0 then s
  else if x.request.isSome then refuse s g e
  else
    match x.state with
    | .idle | .parked => startList s g e addr count
    | _ => updEng s g e (fun x => { x with request := some (.list addr count) })

/-- REARM on an engine, by its state (07 R283, R285). -/
def rearmOn (s : State) (g e base : Nat) : State :=
  let x := eng s g e
  if x.request.isSome then refuse s g e
  else
    match x.state with
    | .idle => refuse s g e
    | .parked => startRun s g e base
    | _ => updEng s g e (fun x => { x with request := some (.rearm base) })

/-- A STRM or REARM from a station that the engine is not bound to (06 R234). -/
def notBound (s : State) (n : Nat) : State :=
  errHalt (raise s 0x0410 (dieOf n) (n % 96) none) n 0x0410

/-- STRM (06 R230, R234; 07 R274, R285). -/
def execStrm (n e raddr rcount : Nat) (s : State) : Out :=
  if !acts s n then .next s
  else
    let s := seeX s n [raddr, rcount]
    if boundStation s (cluOf n) e ≠ some n then .next (notBound s n)
    else .next (strmOn s (cluOf n) e ((xreg s n raddr).toNat % 2 ^ 48) ((xreg s n rcount).toNat % 2 ^ 32))

/-- REARM (06 R230, R234; 07 R283, R285). -/
def execRearm (n e rbase : Nat) (s : State) : Out :=
  if !acts s n then .next s
  else
    let s := seeX s n [rbase]
    if boundStation s (cluOf n) e ≠ some n then .next (notBound s n)
    else .next (rearmOn s (cluOf n) e ((xreg s n rbase).toNat % 2 ^ 48))

/-- A pending STRM or REARM starts when the current list or run has completed (07 R285). -/
def execStrmPendingStart (g e : Nat) (s : State) : Out :=
  let x := eng s g e
  match x.state, x.request with
  | .idle, some (.list a c) | .parked, some (.list a c) => .next (startList s g e a c)
  | .parked, some (.rearm b) => .next (startRun s g e b)
  | .idle, some (.rearm _) => .next (refuse (updEng s g e (fun x => { x with request := none })) g e)
  | _, _ => .next s

/-- The done action of a descriptor: adds 1 by hurdle address, uncounted (07 R279; 08 R304). -/
def doneAction (s : State) (g e : Nat) (d : Desc) : State :=
  let a := bits d.w3 31 0
  if doneOf d = 1 || doneOf d = 2 then
    if addrBad s a then
      let n := boundStation s g e
      let s := hurErr s (g / 12) 1 (match n with | some n => n % 96 | none => 8 * (g % 12)) n.isNone
      engReport s g e 0x0302
    else signalTo s g a 1
  else s

/-- The descriptors of a list that have not started: the fetched ones, and for the rest what memory holds
(07 R281). -/
def notStarted (s : State) (x : Engine) : State × List Desc :=
  let a := x.addr + 32 * x.nFetched
  let r := readMem s a (32 * (x.count - x.nFetched))
  let n := match r.fail with
    | some cw => (64 * cw - a) / 32
    | none => x.count - x.nFetched
  (r.s, x.fetched ++ (List.range n).map (fun i => descOf (a + 32 * i) (readByte r)))

/-- The engine becomes IDLE and the done actions of the abandoned descriptors are performed (07 R281). -/
def abandon (s : State) (g e : Nat) (ds : List Desc) : State :=
  let s := updEng s g e idleEngine
  ds.foldl (fun s d => doneAction s g e d) s

/-- A list ends as its next burst cannot be fetched: its status and event, and the done actions of the descriptors
that it had fetched and not completed (07 R275). -/
def endList (s : State) (g e st : Nat) (x : Engine) : State :=
  let s := updEng s g e (fun x => { x with lastStatus := st })
  let s := engReport (strErr s g e (statusBit st)) g e (statusEvent st)
  abandon s g e (x.flight.map (·.d) ++ x.fetched)

/-- A burst fetch: up to 16 descriptors; one that fails ends the list with FAULT, and one that runs into addresses that
the engine may not reach with INVALID (01 R43; 07 R275; log 64). -/
def execDescriptorBurstFetch (g e : Nat) (s : State) : Out :=
  let x := eng s g e
  if (x.state ≠ .running && x.state ≠ .drainWait) || x.count ≤ x.nFetched then .next s
  else
    let k := min 16 (x.count - x.nFetched)
    let a := x.addr + 32 * x.nFetched
    let r := readMem s a (32 * k)
    if !(probes a (32 * k)).all (reach s g e · false) then .next (endList s g e stInvalid x)
    else
    match r.fail with
    | some _ => .next (endList r.s g e stFault x)
    | none =>
      let ds := (List.range k).map (fun i => descOf (a + 32 * i) (readByte r))
      .next (updEng r.s g e (fun x => { x with fetched := x.fetched ++ ds, nFetched := x.nFetched + k }))

/-- Regions of the address map as R38 lists them. -/
def regionNo (s : State) (a : Nat) : Nat :=
  match placeMap s a with
  | .hbm _ => 1 | .exchange => 2 | .dumpRegion => 3 | .general => 4 | .store _ => 5 | .pocket _ => 6
  | .regs => 7 | .reserved => 0

/-- A MEM side that the engine may reach (01 R43; 07 R262, R263, R265, R277, R278). -/
def memOk (s : State) (g e a len : Nat) (dst : Bool) : Bool :=
  a % 256 = 0 && decide (a < 2 ^ 48) && regionNo s a = regionNo s (a + len - 1) && (probes a len).all (reach s g e · dst)

/-- A range meets a mapped exchange buffer of a sealed job (13 R435; 17 R555). -/
def exchMapped (s : State) (a len : Nat) : Bool :=
  match s.course with
  | some c => sealedJob s && c.exchange.any (fun x => decide (x.1 < a + len) && decide (a < x.1 + x.2))
  | none => false

/-- The exchange key, as the number of its 64 bytes (17 R555). -/
def exchKey (s : State) : Nat := ofLe (shake256 (ascii "IXG816/EXCH" ++ leBytes 32 (s.keys.output.getD 0)) 64)

/-- Whole blocks of one data unit from offset `o` of the exchange region on through the exchange cipher (17 R555). -/
def exchUnit (decrypt : Bool) (key o : Nat) (bs : List Byte) : List Byte :=
  (xts decrypt key (o / 4096) (List.replicate (o % 4096) 0 ++ bs)).drop (o % 4096)

/-- Bytes from address `a` on through the exchange cipher, data unit by data unit, where their unit is mapped in a sealed
job (17 R555). -/
def exchBytes (s : State) (decrypt : Bool) : Nat → Nat → List Byte → List Byte
  | 0, _, _ => []
  | n + 1, a, bs =>
    let k := 4096 - a % 4096
    let p := bs.take k
    (if exchMapped s a p.length then sized p.length (exchUnit decrypt (exchKey s) (a - lpBase) p) else p)
      ++ exchBytes s decrypt n (a + k) (bs.drop k)

/-- Data units that a range meets. -/
def unitsMet (a len : Nat) : Nat := if len = 0 then 0 else (a + len - 1) / 4096 - a / 4096 + 1

/-- Bytes as they pass from memory to the module (17 R555). -/
def exchIn (s : State) (a : Nat) (bs : List Byte) : List Byte := exchBytes s true (unitsMet a bs.length) a bs

/-- Bytes as they pass from the module to memory (17 R555). -/
def exchOut (s : State) (a : Nat) (bs : List Byte) : List Byte := exchBytes s false (unitsMet a bs.length) a bs

/-- The permitted combinations of kinds (07 R277). -/
def kindsOk (a b : Nat) : Bool :=
  (a = 0 && decide (b ≤ 4)) || (a = 1 && (b = 0 || b = 3 || b = 4)) || (a = 2 && b = 0) || (a = 3 && b = 0)

/-- The coding of one side, its reserved bits included (07 R277). -/
def codingOk (s : State) (g kind w len : Nat) : Bool :=
  match kind with
  | 0 => decide (w < 2 ^ 48)
  | 1 => decide (w < 8)
  | 2 => !bitOf w 3 && decide (w < 2 ^ 32)
  | 3 => bits w 31 23 = 0 && decide (w < 2 ^ 59) && bits w 58 32 % 256 = 0 &&
    !(bits w 9 0 = s.moduleId && bits w 12 10 = g / 12) && decide (0 < len)
  | 4 => bits w 31 4 = 0
  | _ => false

/-- An offload channel. -/
def ofl (s : State) (c : Nat) : Ofl := s.ofls.get {} c

/-- The records that a descriptor of `len` bytes covers (05 R200). -/
def oflRecords (len : Nat) : Nat := (len + 65535) / 65536

/-- The capacity of a channel in records (05 R200). -/
def oflCap (o : Ofl) : Nat := o.size / 65600

/-- The offload check of a descriptor: the event of the first that fails (05 R198, R202). -/
def oflBad (s : State) (w len : Nat) (writes : Bool) : Option Nat :=
  let o := ofl s (bits w 2 0)
  if !o.armed then some 0x0441
  else if writes && ((o.any && decide (bits w 31 4 ≤ o.last)) || decide (oflCap o < bits w 31 4 + oflRecords len))
  then some 0x0442
  else none

/-- The image that a landing buffer drains to: its header exactly as it stands, CRC fields included, then its bytes in
transfer order (07 R268; log 20). -/
def imageOf (x : LBuf) : List Byte := leBytes 32 (hdrWord x.baton.hdr) ++ List.replicate 224 0 ++ batonBytes x.baton

/-- The header that the first 32 bytes of an image hold. -/
def hdrOfBytes (bs : List Byte) : Header := hdrOfWord (ofLe (bs.take 32))

/-- The checks on the image header of an LB destination (05 R183; 07 R278). -/
def imageBad (h : Header) (len : Nat) : Bool :=
  !tileOk h.fmt h.scaled || !partialOk h ||
    (match Fmt.ofCode h.fmt with | some f => len ≠ 256 * transfersOf f h.scaled | none => true)

/-- The header that stands at an image in memory; none where its codeword cannot be read, which ends the descriptor when
it reads it (07 R278, R281; 09 R337). -/
def imageHead (s : State) (a : Nat) : Option Header :=
  match cwOutcome s.mem (a / 64) (s.cwErr.get {} (a / 64)) with
  | .clean | .corrected => some (hdrOfBytes (memRead s.mem a 32))
  | .wrong bs _ => some (hdrOfBytes (bs.take 32))
  | _ => none

/-- The checks before a descriptor starts: the status and event of the first that fails (05 R183, R198,
R202; 07 R278; 17 R555). -/
def descBad (s : State) (g e : Nat) (d : Desc) (last : Bool) : Option (Nat × Nat) :=
  let sk := srcKind d
  let dk := dstKind d
  let len := lenOf d
  let inv := some (stInvalid, 0x0401)
  let lbSide := sk = 1 || dk = 1
  if !kindsOk sk dk || bits d.w0 15 13 ≠ 0 || bits d.w0 63 56 ≠ 0 || bits d.w3 63 42 ≠ 0 then inv
  else if !codingOk s g sk d.w1 len || !codingOk s g dk d.w2 len then inv
  else if len = 0 || len % 256 ≠ 0 || doneOf d = 3 then inv
  else if isPersist d && (!last || (if bitOf d.w0 9 then dk ≠ 0 else sk ≠ 0)) then inv
  else if lbSide && (boundStation s g e).isNone then inv
  else if (sk = 0 && !memOk s g e d.w1 len false) || (dk = 0 && !memOk s g e d.w2 len true) then inv
  else
    let ex (w : Nat) : Bool := exchMapped s w len && (w % 4096 ≠ 0 || len % 4096 ≠ 0)
    if (sk = 0 && ex d.w1) || (dk = 0 && ex d.w2) then some (stInvalid, 0x0A03)
    else if sk = 1 then
      let x := lb s ((boundStation s g e).getD 0) (lbLane d.w1) (lbFirst d.w1)
      if !holds x || len ≠ 256 * x.baton.transfers then inv
      else if x.state = .heldBad then some (stFault, 0x0403)
      else none
    else if sk = 2 then (oflBad s d.w1 len false).map (fun ev => (stInvalid, ev))
    else if dk = 2 then (oflBad s d.w2 len true).map (fun ev => (stInvalid, ev))
    else if dk = 1 && (match imageHead s d.w1 with | some h => imageBad h len | none => false) then inv
    else none

/-- The baton that an injection makes from an image (02 R55; 07 R268). -/
def batonOf (s : State) (n : Nat) (hops : Nat) (bs : List Byte) : Baton :=
  let t := hdrOfBytes bs
  let f := (Fmt.ofCode t.fmt).getD .fp32
  let body := ((List.range (bs.length - 256)).zip (bs.drop 256)).filter (fun e => e.2 ≠ 0)
  let b : Baton := { hdr := { t with lap := 0, source := n, job := jobNo s, hops := hops, reserved := 0 }
                     body := body, transfers := transfersOf f t.scaled, buffers := buffersOf f }
  { b with hdr := hdrSealed { b.hdr with payloadCrc := batonCrc b } }

/-- The initial value of an offload record (05 R201). -/
def oflIv (s : State) (c i : Nat) : Nat :=
  jobNo s % 2 ^ 32 + i % 2 ^ 28 * 2 ^ 32 + c * 2 ^ 60 + s.steps % 2 ^ 32 * 2 ^ 64

/-- The offload working key (17 R552). -/
def oflKey (s : State) : Nat :=
  ofLe (shake256 (ascii "IXG816/OFL" ++ leBytes 32 (s.keys.offload.getD 0) ++ leBytes 8 (s.vault.counters.get 0 0)
    ++ leBytes 8 s.keys.loads) 32)

/-- Register of an offload channel (05 R207). -/
def oflReg (c off : Nat) : Nat := regKey 10 (0x400 + 0x20 * c + off)

/-- Writes offload records to host memory (05 R200 to R202). -/
def oflWrite (s : State) (c i : Nat) : Nat → List Byte → State
  | 0, _ => s
  | n + 1, bs =>
    let r := gcmSeal (oflKey s) (oflIv s c i) [] (sized 65536 (bs.take 65536)) ++ List.replicate 48 0
    let s := hostWrite s ((ofl s c).base + 65600 * i) r
    let s := { s with ofls := s.ofls.upd {} c (fun o => { o with last := i, any := true }) }
    let s := bump s (oflReg c 0x08) 0 64 1
    oflWrite s c (i + 1) n (bs.drop 65536)

/-- The cluster that a WIN coding names by die and cluster; 12 to 15 name none of the module's (07 R277). -/
def winCluster (die c : Nat) : Nat := if c < 12 then 12 * die + c else 96 + 4 * die + (c - 12)

/-- The window requests of 256 bytes for a descriptor side on another die of this module (07 R288). -/
def unitReqs (s : State) (w : Nat) (write : Bool) (len : Nat) (bs : List Byte) : List WinReq :=
  (List.range (len / 256)).map (fun i =>
    { cluster := winCluster (bits w 12 10) (bits w 16 13), window := bits w 22 17, write := write
      srcModule := s.moduleId, srcJob := jobNo s, offset := bits w 58 32 + 256 * i, length := 256
      data := if write then (bs.drop (256 * i)).take 256 else [] })

/-- Changes the `i`-th element. -/
def modifyNth {α : Type} (f : α → α) : Nat → List α → List α
  | _, [] => []
  | 0, x :: t => f x :: t
  | i + 1, x :: t => x :: modifyNth f i t

/-- The state with a descriptor in flight changed. -/
def updRun (s : State) (g e i : Nat) (f : DescRun → DescRun) : State :=
  updEng s g e (fun x => { x with flight := modifyNth f i x.flight })

/-- Sends the request messages of a WIN side on another module, of at most 65,536 bytes each (10 R373). -/
def winSend (s : State) (g e i w : Nat) (write : Bool) (off : Nat) : Nat → Nat → List Byte → State
  | 0, _, _ => s
  | n + 1, len, bs =>
    let k := min 65536 len
    let tag := s.reqTag
    let target := setBits w 58 32 (bits w 58 32 + off)
    let m := newMsg s (if write then 1 else 2) (bits w 9 0) tag target (if write then bs.take k else [])
    let s := sendMsg { s with reqTag := (tag + 1) % 65536 } { m with want := k }
    let s := updRun s g e i (fun r => { r with reqs := r.reqs ++ [(tag, off, k)] })
    winSend s g e i w write (off + k) n (len - k) (bs.drop k)

/-- A chunk reaches a gateway's input (11 R386, R387). -/
def toGateway (s : State) (gw : Nat) (c : Chunk) : State :=
  { s with gwIn := s.gwIn.upd [] gw (· ++ [c]) }

/-- What the source of a descriptor delivers: the bytes, and whether a read failed after them
(07 R268, R281; 09 R338). -/
def sourceBytes (s : State) (g e : Nat) (d : Desc) : State × List Byte × Bool :=
  if srcKind d = 1 then
    let x := lb s ((boundStation s g e).getD 0) (lbLane d.w1) (lbFirst d.w1)
    (s, imageOf x, false)
  else
    let c := murk s d.w1 (lenOf d)
    let r := readMem c.1 d.w1 (lenOf d)
    let bytes (n : Nat) : List Byte := exchIn r.s d.w1 ((List.range n).map (fun i => stnByte c r (d.w1 + i)))
    match r.fail with
    | some cw => (r.s, bytes ((64 * cw - d.w1) / 256 * 256), true)
    | none => (r.s, bytes (lenOf d), false)

/-- Ends a descriptor in flight with a status, with the event that goes with it. -/
def endRun (s : State) (g e i st ev : Nat) : State :=
  updRun s g e i (fun r => if r.status = 0 then { r with status := st, event := ev } else r)

/-- A descriptor writes bytes to memory: each codeword at once or as late as its completion, which a free value says, as
writes of different descriptors land in any order (01 R35, R36; 07 R279; log 64). -/
def writeLate (s : State) (g e i a : Nat) (bs : List Byte) : State :=
  let d := draw s
  let l := (List.range bs.length).zip bs |>.map (fun x => (a + x.1, x.2))
  let now (x : Nat × Byte) : Bool := bitOf (Config.freeByte d.2 (x.1 / 64)).toNat 0
  updRun (putMem (touch d.1 a bs.length) (l.filter now)).1 g e i (fun r => { r with late := r.late ++ l.filter (!now ·) })

/-- The memory that a descriptor writes until it completes (07 R279). -/
def openRange (s : State) (g e i : Nat) (d : Desc) : State :=
  updRun s g e i (fun r => { r with range := if dstKind d = 0 then some (d.w2, lenOf d) else none })

/-- What a descriptor does with the bytes that its source delivered, `failed` where a read failed after them
(05 R200; 07 R268, R279 to R282). -/
def deliverDesc (s : State) (g e i : Nat) (d : Desc) (bs : List Byte) (failed : Bool) : State :=
  let s := if failed then endRun s g e i stFault 0x0403 else s
  match dstKind d with
  | 0 => openRange (writeLate s g e i d.w2 (exchOut s d.w2 bs)) g e i d
  | 1 =>
    if failed then s
    else if imageBad (hdrOfBytes bs) (lenOf d) then endRun s g e i stInvalid 0x0401
    else
      let n := (boundStation s g e).getD 0
      updRun s g e i (fun r => { r with inject := some (batonOf s n (bits d.w3 41 32) bs) })
  | 2 =>
    if failed then s
    else
      let c := bits d.w2 2 0
      oflWrite (updRun s g e i (fun r => { r with channel := some c })) c (bits d.w2 31 4) (oflRecords (lenOf d)) bs
  | 3 =>
    if bits d.w2 9 0 = s.moduleId then
      updRun s g e i (fun r => { r with units := unitReqs s d.w2 true bs.length bs })
    else winSend s g e i d.w2 true 0 (oflRecords bs.length) bs.length bs
  | _ =>
    if failed then s
    else
      let s := updRun s g e i (fun r => { r with chunk := true })
      toGateway s (bits d.w2 3 0) { id := bits d.w2 63 32, data := bs, src := .engine g e d.addr }

/-- Moves a descriptor's bytes, or sends the requests that do (07 R279 to R282). -/
def moveDesc (s : State) (g e i : Nat) (d : Desc) : State :=
  let len := lenOf d
  match srcKind d with
  | 2 => updRun (openRange s g e i d) g e i (fun r => { r with records := List.range (oflRecords len) })
  | 3 =>
    let s := openRange s g e i d
    if bits d.w1 9 0 = s.moduleId then
      updRun s g e i (fun r => { r with units := unitReqs s d.w1 false len [] })
    else winSend s g e i d.w1 false 0 (oflRecords len) len []
  | _ =>
    let r := sourceBytes s g e d
    deliverDesc r.1 g e i d r.2.1 r.2.2

/-- Nothing that a descriptor of cluster `g` has to reach lies behind a stopped fabric hop (01 R37). -/
def descOpen (s : State) (g : Nat) (d : Desc) : Bool :=
  let side (k w : Nat) : Bool := match k with
    | 0 => (diePoints w (lenOf d)).all (fabricOpen s g)
    | 2 => !routeStopped s (g / 12) 8 && !routeStopped s 8 (g / 12)
    | 3 => bits w 9 0 ≠ s.moduleId || (!routeStopped s (g / 12) (bits w 12 10) && !routeStopped s (bits w 12 10) (g / 12)
        && nodeOpen s (bits w 12 10) (some (bits w 16 13)))
    | 4 => !routeStopped s (g / 12) (8 + bits w 3 0 / 8) && !routeStopped s (8 + bits w 3 0 / 8) (g / 12)
    | _ => true
  side (srcKind d) d.w1 && side (dstKind d) d.w2

/-- A channel that a writing stream holds (05 R203). -/
def channelBusy (s : State) (c : Nat) : Bool :=
  s.engines.any (fun x => x.2.flight.any (fun r => r.channel = some c))

/-- A descriptor waits for the channel it writes (05 R203). -/
def waitsChannel (s : State) (d : Desc) : Bool :=
  dstKind d = 2 && channelBusy s (bits d.w2 2 0)

/-- The next descriptor starts, up to 4 in flight, around drain points, and none during a dump; one that a stopped
fabric hop keeps from its memory moves nothing and does not end (01 R37; 07 R278, R279, R284; 08 R326). -/
def execDescriptorStart (g e : Nat) (s : State) : Out :=
  let x := eng s g e
  match x.fetched with
  | [] => .next s
  | d :: t =>
    if (x.state ≠ .running && x.state ≠ .drainWait) || 4 ≤ x.flight.length || waitsChannel s d || s.dump.state = 1
        || x.flight.any (fun r => isDrain r.d) || x.flight.any (fun r => r.status ≠ 0) then .next s
    else if isDrain d && x.flight ≠ [] then .next (updEng s g e (fun x => { x with state := .drainWait }))
    else
      let i := x.flight.length
      let last := x.nStarted + 1 = x.count
      let bad := descBad s g e d last
      let s := updEng s g e (fun x =>
        { x with state := .running, fetched := t, nStarted := x.nStarted + 1, flight := x.flight ++ [{ d := d }] })
      match bad with
      | some (st, ev) => .next (endRun s g e i st ev)
      | none => if descOpen s g d then .next (moveDesc s g e i d) else .next (updRun s g e i (fun r => { r with blocked := true }))

/-- The first descriptor in flight that waits to inject, with its baton. -/
def injecting (l : List DescRun) : Option (Nat × Baton) :=
  let i := l.findIdx (fun r => r.inject.isSome)
  match l[i]? with
  | some r => r.inject.map (fun b => (i, b))
  | none => none

/-- An LB destination injects once its buffers are FREE, giving way to a header that arrives on the lane
in the same cycle; the buffer that its coding names is brought to the baton's first as a SEND's is (02 R62, R74;
07 R282; log 61). -/
def execLbInject (g e : Nat) (s : State) : Out :=
  let x := eng s g e
  match injecting x.flight, boundStation s g e with
  | some (i, b), some n =>
    let w := match x.flight[i]? with | some r => r.d.w2 | none => 0
    let lane := lbLane w
    let f := if b.buffers = 1 then lbFirst w else if b.buffers = 2 then lbFirst w / 2 * 2 else 0
    let arrives := match (hop s n lane).head? with
      | some h => !h.landing && !h.stopped && sharesBuf h.dst h.baton.buffers f b.buffers
          && (h.waiting || (h.inCluster && decide (h.due ≤ cycOf s n)))
      | none => false
    if arrives || !allFree s n lane f b.buffers then .next s
    else
      let s := land s n lane f b none
      .next (updRun s g e i (fun r => { r with inject := none, injected := some b }))
  | _, _ => .next s

/-- The injected baton of a descriptor has left LANDING (02 R58, R59). -/
def landedAll (s : State) (g e : Nat) (r : DescRun) : Bool :=
  match r.injected, boundStation s g e with
  | some b, some n => [Lane.inner, Lane.outer].all (fun l => (List.range 4).all (fun f =>
      !((lb s n l f).state = .landing && (lb s n l f).baton = b)))
  | _, _ => true

/-- Every request of a descriptor is answered, and every byte has reached its destination or it has ended with a
status (07 R279, R281). -/
def runOverDesc (s : State) (g e : Nat) (r : DescRun) : Bool :=
  r.units.isEmpty && r.reqs.isEmpty &&
    (r.status ≠ 0 || (r.inject.isNone && !r.chunk && !r.blocked && r.records.isEmpty && landedAll s g e r))

/-- Sets a W1C bit of an offload channel or of SEC_STATUS for the event that has one (05 R207;
17 R561). -/
def markEvent (s : State) (d : Desc) (ev : Nat) : State :=
  let c := if srcKind d = 2 then bits d.w1 2 0 else bits d.w2 2 0
  let set (k b : Nat) : State := setReg s k (setBits (reg s k) b b 1)
  match ev with
  | 0x0441 => set (oflReg c 0) 2
  | 0x0442 => set (oflReg c 0) 3
  | 0x0443 => set (oflReg c 0) 4
  | 0x0444 => set (oflReg c 0) 5
  | 0x0A03 => set (regKey 10 0x900) 10
  | _ => s

/-- The engine after its oldest descriptor has completed OK: the next, PARKED, or IDLE (07 R283). -/
def afterDesc (x : Engine) (d : Desc) (t : List DescRun) : Engine :=
  let atEnd := t = [] && x.fetched = [] && x.nStarted = x.count
  let x := { x with flight := t }
  if atEnd then
    { x with state := if isPersist d then .parked else .idle, parked := if isPersist d then some d else none
             count := 0, nFetched := 0, nStarted := 0, rearmed := false }
  else x

/-- What a descriptor has not yet written lands at its completion; of a window it reads, the units before the first
one that failed (07 R279, R281; 17 R555). -/
def landLate (s : State) (r : DescRun) : State :=
  if srcKind r.d = 3 then
    let n := min (lenOf r.d) (r.failOff.getD (lenOf r.d))
    let byte (i : Nat) : Byte := match r.late.find? (fun x => x.1 = r.d.w2 + i) with | some x => x.2 | none => 0
    (writeMem s r.d.w2 (exchOut s r.d.w2 ((List.range n).map byte))).1
  else (putMem s r.late).1

/-- The contents of the destination of a descriptor that ends WINDOW_DEAD, or TIMEOUT while it reads a window, are
undefined: its range in memory, or what windows of this module have accepted of it (07 R288; log 16). -/
def deadDest (s : State) (r : DescRun) : State :=
  if dstKind r.d = 0 then undefMem s r.d.w2 (lenOf r.d) else r.taken.foldl (fun s e => undefMem s e.1 e.2) s

/-- The oldest descriptor completes: its status byte, its done action, and after a status other than OK
the list is abandoned (07 R279 to R283). -/
def execDescriptorComplete (g e : Nat) (s : State) : Out :=
  let x := eng s g e
  match x.flight with
  | [] => .next s
  | r :: t =>
    if !runOverDesc s g e r then .next s
    else
      let s := if r.status = stDead || (r.status = stTimeout && srcKind r.d = 3) then deadDest s r else landLate s r
      let w := writeMem s (r.d.addr + 6) [BitVec.ofNat 8 r.status]
      let st := if w.2 || r.status ≠ 0 then r.status else stFault
      let ev := if r.event = 0 then statusEvent st else r.event
      let s := updEng w.1 g e (fun x => { x with lastStatus := st
                                                 doneCnt := if sealedJob s then x.doneCnt else (x.doneCnt + 1) % 2 ^ 32 })
      if st = 0 then
        .next (doneAction (updEng s g e (fun x => afterDesc x r.d t)) g e r.d)
      else
        let s := engReport (markEvent (strErr s g e (statusBit st)) r.d ev) g e ev
        let s := doneAction s g e r.d
        let q := notStarted s (eng s g e)
        .next (abandon q.1 g e (t.map (·.d) ++ q.2))

/-- A WIN request unacknowledged for 100 µs: its descriptor ends TIMEOUT (07 R280). -/
def execStrTimeout (g e : Nat) (s : State) : Out :=
  let x := eng s g e
  let i := x.flight.findIdx (fun r => !(r.units.isEmpty && r.reqs.isEmpty))
  if i < x.flight.length then
    .next (endRun (updRun s g e i (fun r => { r with units := [], reqs := [] })) g e i stTimeout 0x0404)
  else .next s

/-- The first descriptor in flight with a record to verify. -/
def verifying (l : List DescRun) : Option (Nat × Desc × Nat) :=
  let i := l.findIdx (fun r => !r.records.isEmpty && r.status = 0)
  match l[i]? with
  | some r => r.records.head?.map (fun k => (i, r.d, k))
  | none => none

/-- The plain text of the record that descriptor `d` reads as its `k`-th, from the bytes that host memory holds in its
place; none where the tag fails (05 R200, R201, R204). -/
def openOfl (s : State) (d : Desc) (k : Nat) (data : List Byte) : Option (List Byte) :=
  gcmOpen (oflKey s) (oflIv s (bits d.w1 2 0) (bits d.w1 31 4 + k)) [] (sized 65552 data)

/-- A prefetched record is deciphered, and written only if its tag verifies (05 R201, R204). -/
def execOffloadPrefetchVerify (g e : Nat) (data : List Byte) (s : State) : Out :=
  match verifying (eng s g e).flight with
  | some (i, d, k) =>
    match openOfl s d k data with
    | some plain =>
      let bs := plain.take (min 65536 (lenOf d - 65536 * k))
      let s := writeLate s g e i (d.w2 + 65536 * k) (exchOut s (d.w2 + 65536 * k) bs)
      let s := bump s (oflReg (bits d.w1 2 0) 0x10) 0 64 1
      .next (updRun s g e i (fun r => { r with records := r.records.erase k }))
    | none => .next (endRun s g e i stFault 0x0443)
  | none => .next s

/-- A PCIe error on offload traffic ends the stream; records on their way to host memory are free values there (05 R205;
log 16). -/
def execOflHostError (g e : Nat) (s : State) : Out :=
  let x := eng s g e
  let i := x.flight.findIdx (fun r => (srcKind r.d = 2 || dstKind r.d = 2) && r.status = 0)
  match x.flight[i]? with
  | some r =>
    let s := if dstKind r.d = 2 then
        undefHost s ((ofl s (bits r.d.w2 2 0)).base + 65600 * bits r.d.w2 31 4) (65600 * oflRecords (lenOf r.d))
      else s
    .next (endRun s g e i stFault 0x0444)
  | none => .next s

end Sys2Proof.Machine
end

