-- ==== Sys2Proof/Machine/Host.lean ====
section
/-! DEFINITION. The host port: queue pairs, completions and tokens, doorbells, the event ring, MSI-X, and
what every host command does before its own effect (13 R430 to R448, R465 to R470). -/
namespace Sys2Proof.Machine
open Sys2Proof

/-- A queue pair. -/
def qp (s : State) (q : Nat) : Qp := s.qps.get {} q

/-- The state with a queue pair changed. -/
def updQp (s : State) (q : Nat) (f : Qp → Qp) : State := { s with qps := s.qps.upd {} q f }

/-- CMD_ERR (13 R469). -/
def cmdErrKey : Nat := regKey 10 0x80010

/-- Sets one bit of a register. -/
def setBit (s : State) (k b : Nat) : State := setReg s k (setBits (reg s k) b b 1)

/-- The MSI-X table entry of a vector. -/
def msixOf (s : State) (v : Nat) : Msix := s.msix.get ({} : Msix) v

/-- Delivers what the module posts to the host (13 R468; log 22). -/
def deliver (s : State) : Post → State
  | .write a bs => hostWrite s a bs
  | .vector v => hostWrite s (msixOf s v).addr (leBytes 4 (msixOf s v).data)

/-- Posts to the host, or holds in order while the link is down (13 R432). -/
def post (s : State) (p : Post) : State :=
  if s.power.linkUp then deliver s p else { s with posts := s.posts ++ [p] }

/-- An interrupt of a vector is due (13 R468). -/
def needVector (s : State) (v : Nat) : State :=
  if s.vecDue.contains v then s else { s with vecDue := s.vecDue ++ [v] }

/-- Writes a completion entry at the CQ tail (13 R440, R443). -/
def postCq (s : State) (q cid st first result : Nat) : State :=
  let x := qp s q
  let e := leBytes 4 cid ++ leBytes 1 st ++ leBytes 1 first
    ++ leBytes 2 (x.sqHead % 4096 + b2n x.phase * 2 ^ 15) ++ leBytes 8 result
  let s := post s (.write (x.cqBase + 16 * x.cqTail) e)
  let s := updQp s q (fun x =>
    let wraps := x.cqTail = x.cqM1
    { x with cqTail := if wraps then 0 else x.cqTail + 1, phase := if wraps then !x.phase else x.phase
             unread := x.unread + 1 })
  needVector s x.vector

/-- Drops the first outstanding command with an identifier. -/
def dropOut (cid : Nat) : List OutCmd → List OutCmd
  | [] => []
  | x :: t => if x.cid = cid then t else x :: dropOut cid t

/-- A command completes: its completion, the kept token, and the replays that waited for it (13 R439,
R443 to R446). -/
def complete (s : State) (src : Src) (st result : Nat) : State :=
  let x := qp s src.qp
  let tok := match x.outs.find? (fun o => o.cid = src.cid) with | some o => o.token | none => 0
  let s := updQp { s with cmdTotal := s.cmdTotal + 1 } src.qp (fun x =>
    { x with outs := dropOut src.cid x.outs
             toks := x.toks.map (fun t =>
               if t.token = tok && tok ≠ 0 && t.done.isNone then { t with done := some (st, result) } else t) })
  let s := postCq s src.qp src.cid st st result
  (x.replays.filter (fun r => r.2 = tok && tok ≠ 0)).foldl (fun s r =>
    postCq (updQp s src.qp (fun x =>
      { x with outs := dropOut r.1 x.outs, replays := x.replays.erase r })) src.qp r.1 0x01 st result) s

/-- The command processor serves commands (15 R505, R512, R514; 16 R537). -/
def cmdOpen (s : State) : Bool :=
  decide (8 ≤ s.power.stage) && !s.power.resetting && !s.power.perst && !s.power.stopped
    && !s.power.noSup

/-- BAR0 answers: from power-up step 3, with the link up (15 R511, R512, R516). -/
def barOpen (s : State) : Bool :=
  decide (3 ≤ s.power.stage) && s.power.linkUp && !s.power.perst && !s.power.stopped && !s.power.noSup

/-- The rows of the table of commands by job state (13 R447). -/
inductive CmdClass where
  | any | load | job | run | test
deriving DecidableEq, Repr

/-- The status that the job state gives a command, if any (13 R447). -/
def stateStatus (c : CmdClass) (js : Nat) : Option Nat :=
  match c, js with
  | .any, _ => none
  | .load, 0 => none
  | .load, _ => some 0x04
  | .job, 0 | .run, 0 => some 0x03
  | .job, 2 | .job, 3 | .run, 2 | .test, 0 | .test, 2 => none
  | _, _ => some 0x04

/-- A host command: nothing until the command processor serves it, then its job-state status, then the
supply warning, then its effect (13 R447, R448). -/
def command (src : Src) (c : CmdClass) (supply : Bool) (s : State) (f : State → Out) : Out :=
  if !cmdOpen s then .next s
  else
    match stateStatus c s.jobState with
    | some st => .next (complete s src st 0)
    | none => if supply && s.power.warn then .next (complete s src 0x09 0) else f s

/-- A host-memory error of a command (13 R431). -/
def dmaFault (s : State) (src : Src) : State :=
  complete (raise (setBit s cmdErrKey 1) 0x0C02 15 0 none) src stFault 0

/-- A write of a command to host memory meets an error: what it has written there is undefined (13 R431; log 16). -/
def writeFault (s : State) (src : Src) (a len : Nat) : State := dmaFault (undefHost s a len) src

/-- Host addresses that meet an error (13 R431; log 8). -/
def hostFails (s : State) (a len : Nat) : Bool :=
  s.hostErr.any (fun r => decide (r.1 < a + len) && decide (a < r.1 + r.2))

/-- A command writes to host memory and goes on, or completes with FAULT (13 R431). -/
def toHost (s : State) (src : Src) (a : Nat) (bs : List Byte) (f : State → State) : Out :=
  if hostFails s a bs.length then .next (writeFault s src a bs.length) else .next (f (hostWrite s a bs))

/-- An output record of 65,600 bytes under the output key; the egress counter rises by 1 (17 R554). -/
def egressRecord (s : State) (source i : Nat) (plain : List Byte) : State × List Byte :=
  let key := s.keys.output.getD 0
  let iv := jobNo s % 2 ^ 32 + s.keys.egress % 2 ^ 63 * 2 ^ 32 + 2 ^ 95
  let head := leBytes 4 0x4F524543 ++ leBytes 1 source ++ leBytes 3 0 ++ leBytes 4 (jobNo s) ++ leBytes 4 i
    ++ leBytes 4 plain.length ++ leBytes 12 iv
  let p := sized 65536 plain
  ({ s with keys := { s.keys with egress := s.keys.egress + 1 } },
   head ++ gcmSeal key iv head p ++ List.replicate 16 0)

/-- A bad doorbell or BAR0 access (13 R433, R441). -/
def badAccess (s : State) : State := raise (setBit s cmdErrKey 0) 0x0C01 15 0 none

/-- Parameter bytes that a command lists (13 R449). -/
def listed (op : Nat) : List (Nat × Nat) :=
  match op with
  | 0x01 => [(16, 24)] | 0x02 => [(16, 32)] | 0x03 => [(16, 26), (28, 32)] | 0x04 => [(16, 19)]
  | 0x07 => [(16, 43), (44, 64)] | 0x08 => [(16, 30)] | 0x09 => [(16, 60)] | 0x0A => [(16, 35), (36, 38)]
  | 0x0B => [(16, 25)] | 0x0C => [(16, 20)] | 0x0D => [(16, 20)] | 0x0F => [(16, 25)]
  | 0x10 => [(16, 37)] | 0x11 => [(16, 23)] | 0x12 => [(16, 20)] | 0x13 => [(16, 17), (24, 40)]
  | 0x14 => [(16, 28)] | 0x15 => [(16, 18)] | 0x16 => [(16, 28)] | _ => []

/-- An entry that R442 does not allow (13 R442, R449). -/
def badEntry (e : List Byte) : Bool :=
  let b (i : Nat) : Nat := (e.getD i 0).toNat
  b 0 = 0 || decide (0x16 < b 0) || decide (2 ≤ b 1) || b 2 ≠ 0 || b 3 ≠ 0 ||
    (List.range 48).any (fun i =>
      b (16 + i) ≠ 0 && !(listed (b 0)).any (fun (r : Nat × Nat) => decide (r.1 ≤ 16 + i) && decide (16 + i < r.2)))

/-- An entry whose mode, scope or action lies outside its range names no command; the job states in which it is refused
(13 R447, R449). -/
def outOfRange (e : List Byte) : Option CmdClass :=
  let b (i : Nat) : Nat := (e.getD i 0).toNat
  if b 0 = 0x0B && 2 ≤ b 24 then some .job
  else if b 0 = 0x0C && 2 ≤ b 16 then some .test
  else if b 0 = 0x15 && 5 ≤ b 17 then some .any
  else none

/-- A pair has an entry that may be taken (13 R438). -/
def pairReady (x : Qp) : Bool :=
  x.enable && x.sqHead ≠ x.sqTail && decide (x.outs.length + x.unread < x.cqM1 + 1)

/-- The pair whose turn it is (13 R439). -/
def turn (s : State) : Option Nat :=
  ((List.range 64).map (fun i => (s.rot + i) % 64)).find? (fun q => pairReady (qp s q))

/-- Takes the next entry of a pair in rotation: refused by R442 or R449, replayed by its token, or outstanding;
a fenced entry waits for every earlier command (13 R438, R439, R442, R444, R445). -/
def execSqEntryTake (q : Nat) (entry : List Byte) (s : State) : Out :=
  let x := qp s q
  let b (i n : Nat) : Nat := ofLe ((entry.drop i).take n)
  if !cmdOpen s || !s.power.linkUp || turn s ≠ some q || entry.length ≠ 64 then .next s
  else if b 1 1 % 2 = 1 && b 1 1 < 2 && x.outs ≠ [] then .next s
  else
    let cid := b 4 4
    let tok := b 8 8
    let op := b 0 1
    let s := updQp { s with rot := (q + 1) % 64 } q (fun x =>
      { x with sqHead := if x.sqHead = x.sqM1 then 0 else x.sqHead + 1 })
    if badEntry entry then .next (postCq s q cid stInvalid stInvalid 0)
    else
      match if tok = 0 then none else x.toks.find? (fun t => t.token = tok) with
      | some t =>
        if t.opcode ≠ op then .next (postCq s q cid stInvalid stInvalid 0)
        else
          match t.done with
          | some (first, result) => .next (postCq s q cid 0x01 first result)
          | none =>
            .next (updQp s q (fun x =>
              { x with outs := x.outs ++ [(⟨cid, 0, op⟩ : OutCmd)], replays := x.replays ++ [(cid, tok)] }))
      | none =>
        let s := updQp s q (fun x =>
          { x with outs := x.outs ++ [(⟨cid, tok, op⟩ : OutCmd)]
                   toks := if tok = 0 then x.toks
                     else (x.toks ++ [(⟨tok, op, none⟩ : Tok)]).drop (x.toks.length + 1 - 1024) })
        match outOfRange entry with
        | some c => .next (complete s ⟨q, cid⟩ ((stateStatus c s.jobState).getD stInvalid) 0)
        | none => .next s

/-- Doorbell of a submission queue (13 R438, R441). -/
def execCmdSqTail (q value : Nat) (s : State) : Out :=
  if !barOpen s || 64 ≤ q then .next s
  else if !(qp s q).enable || (qp s q).sqM1 < value % 4096 then .next (badAccess s)
  else .next (updQp s q (fun x => { x with sqTail := value % 4096 }))

/-- Doorbell of a completion queue (13 R440, R441). -/
def execCmdCqHead (q value : Nat) (s : State) : Out :=
  if !barOpen s || 64 ≤ q then .next s
  else if !(qp s q).enable || (qp s q).cqM1 < value % 4096 then .next (badAccess s)
  else
    .next (updQp s q (fun x =>
      let n := x.cqM1 + 1
      { x with cqHead := value % 4096, unread := x.unread - (value % 4096 + n - x.cqHead) % n }))

/-- Doorbell of the event ring (13 R469). -/
def execCmdEvtHead (value : Nat) (s : State) : Out :=
  let v := value % 65536
  if !barOpen s then .next s
  else if !s.ring.enable || s.ring.m1 < v then .next (badAccess s)
  else
    let n := s.ring.m1 + 1
    .next { s with ring := { s.ring with
      head := v, count := s.ring.count - (v + n - s.ring.head) % n } }

/-- A queue pair is enabled: its indices become 0 and its phase 1 (13 R436, R437). -/
def enableQp (x : Qp) : Qp :=
  if x.enable || x.sqM1 = 0 || x.cqM1 = 0 then x
  else { x with enable := true, sqHead := 0, sqTail := 0, cqHead := 0, cqTail := 0, unread := 0, phase := true }

/-- QP_ENABLE (13 R436, R437). -/
def execQpEnable (q : Nat) (s : State) : Out :=
  if !barOpen s || 64 ≤ q then .next s else .next (updQp s q enableQp)

/-- QP_DISABLE: no more entries are taken; outstanding commands run to completion (13 R437). -/
def execQpDisable (q : Nat) (s : State) : Out :=
  if !barOpen s || 64 ≤ q then .next s else .next (updQp s q (fun x => { x with enable := false }))

/-- The event ring is enabled: head and tail 0, phase 1 (13 R469). -/
def enableRing (r : EvtRing) : EvtRing :=
  if r.enable || r.m1 = 0 then r else { r with enable := true, head := 0, tail := 0, count := 0, phase := true }

/-- EVT_RING_ENABLE (13 R469). -/
def execEvtRingEnable (s : State) : Out :=
  if !barOpen s then .next s else .next { s with ring := enableRing s.ring }

/-- Classes whose unit and detail a sealed job hides (13 R466). -/
def hiddenClass (code : Nat) : Bool :=
  let c := code / 256
  (decide (1 ≤ c) && decide (c ≤ 4)) || c = 7

/-- An event record, with the phase bit given (13 R465). -/
def evRecord (e : Ev) (hide phase : Bool) : List Byte :=
  let h := hide && hiddenClass e.code
  leBytes 2 e.code ++ leBytes 2 (e.die % 16 + (if h then 0 else e.unit % 4096) * 16)
    ++ leBytes 4 (if h then 0 else e.detail.getD 0) ++ leBytes 8 (e.time % 2 ^ 63 + b2n phase * 2 ^ 63)

/-- The record goes into the ring at its tail (13 R465). -/
def ringPut (s : State) (e : Ev) : State :=
  let r := s.ring
  let s := post s (.write (r.base + 16 * r.tail) (evRecord e e.isSealed r.phase))
  let wraps := r.tail = r.m1
  needVector { s with ring := { r with tail := if wraps then 0 else r.tail + 1, count := r.count + 1
                                       phase := if wraps then !r.phase else r.phase } } r.vector

/-- A record that finds the ring full is dropped and counted; the next one written is 0x0C04
(13 R467). -/
def ringDrop (s : State) : State :=
  let s := bump (setBit s cmdErrKey 3) (regKey 10 0x81020) 0 32 1
  { s with ring := { s.ring with lost := true } }

/-- The ring is full. -/
def ringFull (s : State) : Bool := decide (s.ring.m1 < s.ring.count)

/-- An event with its detail fixed: a free value where the spec states none (log 12). -/
def settleEv (s : State) (e : Ev) : State × Ev :=
  match e.detail with
  | some _ => (s, e)
  | none => ((draw s).1, { e with detail := some ((Config.freeWord (draw s).2).toNat % 2 ^ 32) })

/-- Power-on hours (18 R573, R576). -/
def hoursOf (s : State) : Nat := (s.vault.life.seconds + s.timeNs / 1000000000) / 3600

/-- Copies an event into the log buffer of 4,096 entries (18 R571, R573). -/
def logPut (s : State) (e : Ev) : State :=
  let v := s.vault
  if v.state ≥ 2 then s
  else if v.buf.length < 4096 then
    { s with vault := { v with buf := v.buf ++ [{ ev := e, hours := hoursOf s, gap := v.gap }], gap := false } }
  else
    let s := bump (setBit s (regKey 10 0xA00) 10) (regKey 10 0xA20) 0 32 1
    let s := if v.gap then s else raise s 0x0B06 15 0 none
    { s with vault := { s.vault with gap := true } }

/-- The oldest event is recorded in the ring and the log buffer (13 R465 to R467; 18 R573). -/
def execEventRecordWrite (s : State) : Out :=
  match s.evs with
  | [] => .next s
  | e :: t =>
    let r := settleEv { s with evs := t } e
    let s := logPut r.1 r.2
    if !s.ring.enable then .next s
    else if ringFull s then .next (ringDrop s)
    else if s.ring.lost then
      let l := settleEv s { code := 0x0C04, die := 15, time := s.timeNs, isSealed := sealedJob s }
      let s := logPut { l.1 with evTotal := l.1.evTotal + 1 } l.2
      let s := ringPut { s with ring := { s.ring with lost := false } } l.2
      if ringFull s then .next (ringDrop s) else .next (ringPut s r.2)
    else .next (ringPut s r.2)

/-- MSI-X: the message of a vector that is due is sent, or its pending bit is set while it is masked
(13 R468). -/
def execMsiXSend (v : Nat) (s : State) : Out :=
  if !s.vecDue.contains v then .next s
  else
    let s := { s with vecDue := s.vecDue.erase v }
    if (msixOf s v).masked then .next { s with pba := s.pba.set v true }
    else .next (post s (.vector v))

/-- The link leaves L0 without PERST_N: the job runs on and postings are held (13 R432). -/
def execHostLinkDown (s : State) : Out :=
  if !s.power.linkUp then .next s
  else .next (raise (setBit { s with power := { s.power with linkUp := false } } cmdErrKey 4) 0x0C05 15 0 none)

end Sys2Proof.Machine
end

