-- ==== Sys2Proof/Machine/Windows.lean ====
section
/-! DEFINITION. Remote windows: their checks, their messages, opening and closing, and the waking of KEEP
banks between RUNs (07 R272, R286 to R291; 10 R373). -/
namespace Sys2Proof.Machine
open Sys2Proof

/-- Window `w` of cluster `g`. -/
def win (s : State) (g w : Nat) : Win := s.wins.get {} (64 * g + w)

/-- The state with a window changed. -/
def updWin (s : State) (g w : Nat) (f : Win → Win) : State :=
  { s with wins := s.wins.upd {} (64 * g + w) f }

/-- The module address of a request (07 R277, R298). -/
def winAddr (s : State) (q : WinReq) : Nat :=
  storeAddr q.cluster + 65536 * (win s q.cluster q.window).base + q.offset

/-- The first check of R288 that a request fails, minus 1. -/
def winFails (s : State) (q : WinReq) : Option Nat :=
  let w := win s q.cluster q.window
  if w.state ≠ 1 then some 0
  else if q.srcModule ≠ w.srcModule || q.srcJob ≠ w.srcJob then some 1
  else if !(if q.write then bitOf w.dir 0 else bitOf w.dir 1) then some 2
  else if 65536 * (w.sizeM1 + 1) < q.offset + q.length then some 3
  else if s.bankState.get 0 (6144 + 32 * q.cluster + (65536 * w.base + q.offset) / 0x400000) = 0 then some 4
  else none

/-- The die and the cluster that a request names; 12 to 15 name none of the module's (07 R277). -/
def winPlace (q : WinReq) : Nat × Nat :=
  if q.cluster < 96 then (q.cluster / 12, q.cluster % 12) else ((q.cluster - 96) / 4, 12 + (q.cluster - 96) % 4)

/-- A discarded request is counted, located and reported (07 R288, R296, R297). -/
def winDead (s : State) (q : WinReq) (reason : Nat) : State :=
  let d := (winPlace q).1
  let first := !bitOf (reg s (regKey d 0xA80)) 5
  let s := bump s (regKey d 0xA90) 0 32 1
  let s := if first then
      setReg s (regKey d 0xA88) (putFields 0 [(5, 0, q.window), (15, 6, q.srcModule), (18, 16, reason),
        (22, 19, (winPlace q).2)])
    else s
  let s := latch s (regKey d 0xA80) 5 5 [(19, 16, (winPlace q).2), (21, 20, 0), (26, 24, 5)]
  raise s 0x0406 d (winPlace q).2 none

/-- An access wakes a KEEP bank that is in RETAIN (07 R272). -/
def wakeBank (s : State) (b : Nat) : State :=
  if s.bankState.get 0 b = 2 then { s with bankState := s.bankState.set b 1 } else s

/-- Wakes every bank that a range touches. -/
def wakeRange (s : State) (a len : Nat) : State :=
  (probes a len).foldl (fun s p => match bankOf (placeMap s p) p with | some b => wakeBank s b | none => s) s

/-- An access to a bank that is being zero-filled or woken waits (07 R269). -/
def changing (s : State) (a len : Nat) : Bool :=
  (probes a len).any (fun p => match bankOf (placeMap s p) p with | some b => s.bankState.get 0 b = 3 | none => false)

/-- A request waits: its window would accept it, and its bank is changing (07 R269, R288). -/
def winWaits (s : State) (q : WinReq) : Bool := winFails s q = none && changing s (winAddr s q) q.length

/-- A request at its cluster: the state, the status it is answered with, and the bytes read
(07 R288; 09 R338). -/
def winUnit (s : State) (q : WinReq) : State × Nat × List Byte :=
  match winFails s q with
  | some r => (winDead s q r, stDead, [])
  | none =>
    let a := winAddr s q
    let s := wakeRange s a q.length
    if q.write then
      let r := writeMem s a (q.data.take q.length)
      (r.1, if r.2 then stOK else stFault, [])
    else
      let c := murk s a q.length
      let r := readMem c.1 a q.length
      (r.s, if r.fail.isSome then stFault else stOK, (List.range q.length).map (fun i => stnByte c r (a + i)))

/-- The engine and descriptor of this module that wait for a request. -/
def waitingUnit (s : State) (q : WinReq) : Option (Nat × Nat × DescRun) :=
  (s.engines.flatMap (fun e =>
    ((List.range e.2.flight.length).zip e.2.flight).map (fun r => (e.1, r.1, r.2)))).find?
    (fun t => t.2.2.units.contains q)

/-- The data of a window read wait for the completion of their descriptor; a read that fails is noted by its offset
(07 R279, R281). -/
def keepRead (x : DescRun) (off st : Nat) (a : Nat) (bs : List Byte) : DescRun :=
  if st = stOK then { x with late := x.late ++ ((List.range bs.length).zip bs).map (fun e => (a + e.1, e.2)) }
  else if st = stFault then { x with failOff := some (match x.failOff with | some o => min o off | none => off) }
  else x

/-- A request of up to 256 bytes reaches its cluster's check; one of this module's own is answered to its
descriptor (07 R269, R279, R281, R286, R288). -/
def execWinRequestCheck (q : WinReq) (s : State) : Out :=
  if winWaits s q then .next s
  else
  let r := winUnit s q
  match waitingUnit s q with
  | some (k, i, d) =>
    let g := k / 4
    let e := k % 4
    let ok := q.write && r.2.1 = stOK
    let s := updRun r.1 g e i (fun x =>
      { x with units := x.units.erase q, taken := if ok then x.taken ++ [(winAddr s q, q.length)] else x.taken })
    let s := if r.2.1 = stDead then endRun s g e i stDead 0x0402
      else if r.2.1 = stFault then endRun s g e i stFault 0x0403 else s
    if q.write then .next s
    else
      let off := q.offset - bits d.d.w1 58 32
      .next (updRun s g e i (fun x => keepRead x off r.2.1 (d.d.w2 + off) r.2.2))
  | none => .next r.1

/-- The unit requests of a message (10 R373). -/
def msgUnits (m : Msg) (write : Bool) (len : Nat) : List WinReq :=
  (List.range (len / 256)).map (fun i =>
    { cluster := winCluster (bits m.target 12 10) (bits m.target 16 13), window := bits m.target 22 17, write := write
      srcModule := m.src, srcJob := m.job, offset := bits m.target 58 32 + 256 * i, length := 256
      data := if write then (m.data.drop (256 * i)).take 256 else [] })

/-- Requests in order: the state, the worst status, the bytes read. -/
def winUnits (s : State) : List WinReq → State × Nat × List Byte
  | [] => (s, stOK, [])
  | q :: t =>
    let r := winUnit s q
    let o := winUnits r.1 t
    (o.1, if r.2.1 = stOK then o.2.1 else if r.2.1 = stDead then stDead else if o.2.1 = stDead then stDead else r.2.1,
      r.2.2 ++ o.2.2)

/-- A message of a type has arrived for this module. -/
def arrived (s : State) (p : Nat) (m : Msg) (t : Nat) : Bool := s.inbox.contains (p, m) && m.mtype = t

/-- What a message has written, where one of its requests is refused, is undefined (07 R288; log 16). -/
def deadUnits (s t : State) (l : List WinReq) : State :=
  (l.filter (fun q => winFails s q = none)).foldl (fun t q => undefMem t (winAddr t q) q.length) t

/-- WIN_WRITE: its units are checked and written, and it is answered; it waits while a bank is changing (07 R269, R288;
10 R373). -/
def execWinWrite (p : Nat) (m : Msg) (s : State) : Out :=
  if !arrived s p m 1 then .next s
  else
    let l := msgUnits m true m.data.length
    if l.any (winWaits s) then .next s
    else
    let s := takeInbox s p m
    let r := winUnits s l
    let t := if r.2.1 = stDead then deadUnits s r.1 l else r.1
    .next (replyTo t m 4 r.2.1 [])

/-- WIN_READ: answered by READ_DATA, or by a WIN_REPLY with WINDOW_DEAD, which an uncorrectable read gives too; it waits
while a bank is changing (07 R269; 10 R373; log 51). -/
def execWinRead (p : Nat) (m : Msg) (s : State) : Out :=
  if !arrived s p m 2 then .next s
  else
    let l := msgUnits m false m.want
    if l.any (winWaits s) then .next s
    else
    let r := winUnits (takeInbox s p m) l
    if r.2.1 = stOK then .next (replyTo r.1 m 3 0 r.2.2) else .next (replyTo r.1 m 4 stDead [])

/-- The engine, descriptor and offset that wait for a reply. -/
def waitingTag (s : State) (tag : Nat) : Option (Nat × Nat × DescRun × Nat) :=
  (s.engines.flatMap (fun e => ((List.range e.2.flight.length).zip e.2.flight).flatMap (fun r =>
    r.2.reqs.map (fun q => (e.1, r.1, r.2, q))))).findSome? (fun t =>
      if t.2.2.2.1 = tag then some (t.1, t.2.1, t.2.2.1, t.2.2.2.2.1) else none)

/-- A request of a descriptor is answered. -/
def answered (s : State) (k i tag : Nat) : State :=
  updRun s (k / 4) (k % 4) i (fun x => { x with reqs := x.reqs.filter (fun q => q.1 ≠ tag) })

/-- READ_DATA: the data of a window read (10 R373). -/
def execReadData (p : Nat) (m : Msg) (s : State) : Out :=
  if !arrived s p m 3 then .next s
  else
    let s := takeInbox s p m
    match waitingTag s m.tag with
    | some (k, i, d, off) =>
      .next (answered (updRun s (k / 4) (k % 4) i (fun x => keepRead x off stOK (d.d.w2 + off) m.data)) k i m.tag)
    | none => .next s

/-- A SNAPSHOT that has written its last tile and has every answer, or has failed, completes (13 R461). -/
def finishSnap (s : State) : State :=
  match s.snap with
  | some x =>
    if x.tags ≠ [] || (x.todo ≠ [] && x.status = 0) then s
    else
      let r := x.status = 0
      complete { s with snap := none } x.src x.status (if r then x.pos % 2 ^ 32 + x.step % 2 ^ 32 * 2 ^ 32 else 0)
  | none => s

/-- A window request of a SNAPSHOT is answered. -/
def snapAnswer (s : State) (tag st : Nat) : State :=
  finishSnap { s with snap := s.snap.map (fun x =>
    if x.tags.any (fun t => t.1 = tag) then
      { x with tags := x.tags.filter (fun t => t.1 ≠ tag)
               status := if st ≠ stOK && x.status = 0 then stDead else x.status }
    else x) }

/-- WIN_REPLY: OK or WINDOW_DEAD for a request of a descriptor or of a SNAPSHOT (10 R373; 13 R461). -/
def execWinReply (p : Nat) (m : Msg) (s : State) : Out :=
  if !arrived s p m 4 then .next s
  else
    let s := takeInbox s p m
    let st := m.target % 256
    match waitingTag s m.tag with
    | some (k, i, _, _) =>
      let s := answered s k i m.tag
      if st = stDead then .next (endRun s (k / 4) (k % 4) i stDead 0x0402)
      else if st ≠ stOK then .next (endRun s (k / 4) (k % 4) i stFault 0x0403)
      else .next s
    | none => if s.snap.isSome then .next (snapAnswer s m.tag st) else .next s

/-- CHUNK_REPLY: a gather of this module is answered (10 R373; 11 R397). -/
def execChunkReply (p : Nat) (m : Msg) (s : State) : Out :=
  if !arrived s p m 7 then .next s
  else
    .next { takeInbox s p m with gws := s.gws.map (fun e =>
      (e.1, { e.2 with gathers := e.2.gathers.filter (fun t => t ≠ m.tag) })) }

/-- Fields of a window that R286 allows. -/
def winCfgOk (s : State) (c : WinCfg) : Bool :=
  live s c.cluster && decide (c.window < 64) && decide (1 ≤ c.dir) && decide (c.dir ≤ 3)
    && decide (c.base + c.sizeM1 < 2048) && decide (c.srcModule < 1024) && decide (c.srcJob < 2 ^ 32)
    && (List.range (c.sizeM1 + 1)).all (fun i =>
      s.bankMode.get 0 (6144 + 32 * c.cluster + (c.base + i) / 64) = 2)

/-- The state with a window open (07 R287, R298). -/
def openWin (s : State) (c : WinCfg) (byCommand : Bool) : State :=
  updWin s c.cluster c.window (fun _ =>
    { state := 1, dir := c.dir, byCommand := byCommand, base := c.base, sizeM1 := c.sizeM1
      srcModule := c.srcModule, srcJob := c.srcJob })

/-- OPEN_WINDOW (07 R286, R287). -/
def execOpenWindow (src : Src) (c : WinCfg) (s : State) : Out :=
  command src .job false s (fun s =>
    if 96 ≤ c.cluster || 64 ≤ c.window then .next (complete s src stInvalid 0)
    else if (win s c.cluster c.window).state ≠ 0 then .next (complete s src 0x04 0)
    else if !winCfgOk s c then .next (complete s src stInvalid 0)
    else .next (complete (openWin s c true) src stOK 0))

/-- CLOSE_WINDOW: CLOSING at once, complete when its accepted requests are written (07 R289; 13 R450). -/
def execCloseWindow (src : Src) (g w : Nat) (s : State) : Out :=
  command src .job false s (fun s =>
    if 96 ≤ g || 64 ≤ w then .next (complete s src stInvalid 0)
    else if (win s g w).state = 0 then .next (complete s src stOK 0)
    else .next (updWin s g w (fun x => { x with state := 2, closers := x.closers ++ [src] })))

/-- Every accepted request of a CLOSING window has been written: CLOSED, and its commands complete
(07 R289). -/
def execCloseWindowDone (src : Src) (g w : Nat) (s : State) : Out :=
  let x := win s g w
  if x.state = 2 && x.closers.contains src then
    .next (x.closers.foldl (fun s c => complete s c stOK 0) (updWin s g w (fun _ => {})))
  else .next s

/-- BANK_WAKE: a KEEP bank in RETAIN between RUNs (07 R272). -/
def execBankWake (b : Nat) (s : State) : Out :=
  if s.jobState = 2 && s.bankMode.get 0 b = 2 then .next (wakeBank s b) else .next s

/-- BANK_RETAIN_TIMEOUT: 100 µs after the last access, unless a RUN has started (07 R272). -/
def execBankRetainTimeout (b : Nat) (s : State) : Out :=
  if s.jobState = 2 && s.bankMode.get 0 b = 2 && s.bankState.get 0 b = 1 then
    .next { s with bankState := s.bankState.set b 2 }
  else .next s

end Sys2Proof.Machine
end

