-- ==== Sys2Proof/Machine/Links.lean ====
section
/-! DEFINITION. Handoff links: ports and their bring-up, flits, retry, credits, messages, link hurdle
messages and LINK_CONTROL (10). -/
namespace Sys2Proof.Machine
open Sys2Proof

/-- A register of a handoff port (10 R379). -/
def hofReg (p off : Nat) : Nat := regKey (8 + p / 8) (0x3000 + 0x40 * (p % 8) + off)

/-- The loaded course uses a port (10 R376). -/
def usedPort (s : State) (p : Nat) : Bool :=
  match s.course with
  | some c => c.routes.any (fun r => r.2 = some p) || c.ports.any (fun d => d.port = p) || parentPort s = some p
  | none => false

/-- A port that its self-test holds FAILED until the next power-up (16, unit-kind table). -/
def portHeld (s : State) (p : Nat) : Bool := decide (2 ≤ s.defects.get 0 (12 * 65536 + p))

/-- The capability block is rewritten: cap_gen rises (06 R249; 10 R360). -/
def rewriteCap (s : State) : State := { s with capGen := (s.capGen + 1) % 2 ^ 32 }

/-- A space of a port. -/
def space (h : HPort) (k : Nat) : Space := h.spaces.get {} k

/-- The port with a space changed. -/
def updSpace (h : HPort) (k : Nat) (f : Space → Space) : HPort := { h with spaces := h.spaces.upd {} k f }

/-- The host port counts as up for the handoff ports (10 R358; 15 R513). -/
def linksOpen (s : State) : Bool := s.power.linksOn

/-- A port leaves UP for another state: its event, the capability block, and for a used port the loss of
the job (10 R360, R377). -/
def leaveUp (s : State) (p st : Nat) : State :=
  let was := (hport s p).state = 2
  let s := updHPort s p (fun h => { h with state := st, attempts := 0 })
  if !was then s
  else
    let s := rewriteCap (raise s 0x0604 (8 + p / 8) p none)
    if !usedPort s p then s
    else
      let s := { s with run := { s.run with portLost := true } }
      if s.jobState = 2 && s.stop.stage = 0 then
        { s with stop := { s.stop with wanted := true, since := s.timeNs, event := 0x0604 } }
      else wantStop s 0x0604

/-- A link word as its 96 bits (10 R362). -/
def linkBits (l : LinkWord) : Nat :=
  putFields 0 [(11, 0, l.seq), (23, 12, l.ack), (24, 24, b2n l.nak), (27, 25, l.type), (28, 28, l.cls), (38, 29, l.dst),
    (48, 39, l.src), (55, 49, l.cr0), (62, 56, l.cr1), (95, 64, l.job)]

/-- The link word that 96 bits hold (10 R362). -/
def readLink (w : Nat) : LinkWord :=
  { seq := bits w 11 0, ack := bits w 23 12, nak := bitOf w 24, type := bits w 27 25, cls := bits w 28 28
    dst := bits w 38 29, src := bits w 48 39, cr0 := bits w 55 49, cr1 := bits w 62 56, reserved := bits w 63 63
    job := bits w 95 64 }

/-- The 256 bytes of a flit: link word, body and tag, CRC-32 over bytes 0 to 251 (10 R361; 02 R53). -/
def flitBytes (l : LinkWord) (rest : List Byte) : List Byte :=
  let b := leBytes 12 (linkBits l) ++ sized 240 rest
  b ++ leBytes 4 (crc32 b)

/-- The IV of the flit with a counter that a module sends on a port (10 R368). -/
def flitIv (module port counter : Nat) : Nat := putFields 0 [(9, 0, module), (13, 10, port), (79, 16, counter)]

/-- The associated data of an encrypted flit: its link word with seq, ack, nak, cr0 and cr1 at 0 (10 R368). -/
def flitAad (l : LinkWord) : List Byte :=
  leBytes 12 (linkBits { l with seq := 0, ack := 0, nak := false, cr0 := 0, cr1 := 0 })

/-- The link key; no flit is encrypted while there is none (10 R368, R369). -/
def linkKey (s : State) : Nat := s.keys.link.getD 0

/-- The body of a control flit that names this module, port and silicon revision (10 R359; log 66). -/
def identityBody (s : State) (p : Nat) : List Byte :=
  leBytes 1 1 ++ leBytes 2 (s.moduleId % 1024) ++ leBytes 1 p ++ leBytes 1 0xA0

/-- The body of a control flit that answers the request which began with flit `seq` dead (10 R370; log 66). -/
def clearBody (seq : Nat) : List Byte := leBytes 1 2 ++ leBytes 2 seq ++ leBytes 1 0x05

/-- A control flit of this module (10 R361, R362). -/
def controlFlit (s : State) (dst : Nat) (body : List Byte) (l : LinkWord) : List Byte :=
  flitBytes { l with type := 4, dst := dst, src := s.moduleId } (sized 224 body)

/-- A port in TRAINING sends its control flit and has yet to receive its peer's (10 R358, R359). -/
def trainPort (s : State) (p : Nat) : State :=
  updHPort s p (fun h => { h with seen := none, sent := some (controlFlit s 0 (identityBody s p) {}) })

/-- A lane of a port has failed: the port is FAILED or cannot become UP (10 R357; log 8). -/
def laneFailed (s : State) (p : Nat) : Bool := s.defects.get 0 (12 * 65536 + p) ≠ 0

/-- Bring-up starts: TRAINING, unless the port is disabled or held FAILED (10 R358, R359). -/
def bringUp (s : State) (p : Nat) : State :=
  if !(hport s p).enabled then s
  else if portHeld s p then leaveUp s p 3
  else trainPort (leaveUp s p 1) p

/-- A LINK_CONTROL action other than STATUS: BUSY on a port that the loaded course uses (10 R378). -/
def linkCommand (src : Src) (p : Nat) (s : State) (f : State → State) : Out :=
  command src .any false s (fun s =>
    if 16 ≤ p then .next (complete s src stInvalid 0)
    else if usedPort s p then .next (complete s src 0x04 0)
    else .next (complete (f s) src stOK 0))

/-- DISABLE: transmitter off, state DOWN, its clock gated (10 R378; 14 R488). -/
def execLinkDisable (src : Src) (p : Nat) (s : State) : Out :=
  linkCommand src p s (fun s =>
    let s := updHPort (leaveUp s p 0) p (fun h => { h with enabled := false })
    { s with gated := s.gated.set p true })

/-- ENABLE: starts bring-up (10 R378; 14 R488). -/
def execLinkEnable (src : Src) (p : Nat) (s : State) : Out :=
  linkCommand src p s (fun s =>
    bringUp { updHPort s p (fun h => { h with enabled := true }) with gated := s.gated.drop p } p)

/-- RETRAIN: out of UP, and bring-up (10 R378). -/
def execLinkRetrain (src : Src) (p : Nat) (s : State) : Out := linkCommand src p s (fun s => bringUp s p)

/-- HOF_PORT_STATUS (10 R379; 14 R488). -/
def portStatus (s : State) (p : Nat) : Nat :=
  if s.gated.get false p then 0
  else
    let h := hport s p
    putFields 0 [(1, 0, h.state), (2, 2, b2n h.enabled), (3, 3, b2n (usedPort s p)),
      (13, 4, h.peerModule), (17, 14, h.peerPort), (19, 18, h.loop)]

/-- STATUS: returns HOF_PORT_STATUS (10 R378). -/
def execLinkStatus (src : Src) (p : Nat) (s : State) : Out :=
  command src .any false s (fun s =>
    if 16 ≤ p then .next (complete s src stInvalid 0) else .next (complete s src stOK (portStatus s p)))

/-- LOOPBACK: 10 ms of PRBS31, its result, then bring-up (10 R378). -/
def execLinkLoopback (src : Src) (p : Nat) (s : State) : Out :=
  linkCommand src p s (fun s =>
    let r := if s.defects.get 0 (12 * 65536 + p) = 0 then 1 else 2
    bringUp (updHPort (leaveUp s p (b2n (hport s p).enabled)) p (fun h => { h with loop := r })) p)

/-- A port on all 8 lanes completes bring-up with the peer that the control flits have named (10 R357 to R360). -/
def execPortUp (p peerModule peerPort : Nat) (s : State) : Out :=
  let h := hport s p
  if 16 ≤ p || h.state ≠ 1 || !h.enabled || !linksOpen s || laneFailed s p
      || h.seen ≠ some (peerModule % 1024, peerPort % 16) then .next s
  else
    let changed : Bool := match h.before with | some b => decide (b ≠ (peerModule, peerPort)) | none => false
    let s := updHPort s p (fun h =>
      { h with state := 2, peerModule := peerModule % 1024, peerPort := peerPort % 16, attempts := 0, slot := 0
               before := some (peerModule, peerPort), trained := true, spaces := [], credit0 := 1024, credit1 := 1024
               freed0 := 0, freed1 := 0, starts := [], rx := [], sent := none })
    let s := rewriteCap (raise s 0x0607 (8 + p / 8) p none)
    if changed then .next (raise (setBit s (hofReg p 8) 3) 0x0605 (8 + p / 8) p none) else .next s

/-- Bring-up does not end in 500 ms: FAILED, and after the last of 4 attempts the event (10 R359). -/
def execHofTrainFail (p : Nat) (s : State) : Out :=
  let h := hport s p
  if 16 ≤ p || h.state ≠ 1 then .next s
  else
    let s := updHPort s p (fun h => { h with state := 3, attempts := h.attempts + 1 })
    if h.attempts + 1 = 4 then .next (raise (setBit s (hofReg p 8) 2) 0x0603 (8 + p / 8) p none) else .next s

/-- One of the 3 further attempts, 1 s apart (10 R359). -/
def execPortTrainRetry (p : Nat) (s : State) : Out :=
  let h := hport s p
  if 16 ≤ p || h.state ≠ 3 || !h.enabled || portHeld s p || h.attempts = 0 || 4 ≤ h.attempts then .next s
  else .next (trainPort (updHPort s p (fun h => { h with state := 1 })) p)

/-- A port loses signal, or its peer is silent for 10 µs: it trains again, and with a failed lane it is FAILED (10 R357,
R358, R377). -/
def execHofPortDown (p : Nat) (s : State) : Out :=
  if 16 ≤ p || (hport s p).state ≠ 2 then .next s
  else if laneFailed s p then .next (leaveUp s p 3)
  else .next (trainPort (leaveUp s p 1) p)

/-- The first flit that credits and the replay buffer let go, and the rest in order (10 R364, R367). -/
def nextFlit (h : HPort) (l : List Flit) : Option (Flit × List Flit) :=
  let goes (f : Flit) : Bool :=
    decide (0 < (if f.cls = 0 then h.credit0 else h.credit1)) && decide ((space h 0).unacked.length < 2048)
  (l.find? goes).map (fun f => (f, l.erase f))

/-- The link word of a flit of a space, with its acknowledgement, nak and credits (10 R362). -/
def stamped (h : HPort) (k : Nat) (f : Flit) : LinkWord :=
  { ack := ((space h k).expect + 4095) % 4096, nak := (space h k).nakDue, type := f.type, cls := f.cls, dst := f.dst
    src := f.src, cr0 := min 127 (h.freed0 / 8), cr1 := min 127 (h.freed1 / 8), job := f.job }

/-- The port after it has returned credits and sent its nak. -/
def returned (h : HPort) (k : Nat) : HPort :=
  { updSpace h k (fun x => { x with nakDue := false }) with
    freed0 := h.freed0 - 8 * min 127 (h.freed0 / 8), freed1 := h.freed1 - 8 * min 127 (h.freed1 / 8) }

/-- Originator, tag and type of the request that a flit starts (10 R370, R372). -/
def startOf (seq : Nat) (f : Flit) : List (Nat × Nat × Nat × Nat) :=
  if f.type = 1 && f.cls = 0 then
    let m := readMsg f.dst f.src f.body
    [(seq, m.src, m.tag, m.mtype)]
  else []

/-- Sends a new flit, numbered and encrypted (10 R364, R368, R379). -/
def sendNew (s : State) (p k : Nat) (f : Flit) (h : HPort) : State :=
  let seq := (space h k).next
  let l := { stamped h k f with seq := seq }
  let bs := flitBytes l (gcmSeal (linkKey s) (flitIv s.moduleId p h.counter) (flitAad l) (sized 224 f.body))
  let h := updSpace (returned h k) k (fun x => { x with next := (x.next + 1) % 4096, unacked := x.unacked ++ [(seq, bs)] })
  let s := updHPort s p (fun _ => { h with
    counter := h.counter + 1, slot := h.slot + 1, sent := some bs
    starts := startOf seq f ++ (h.starts.filter (fun e => e.1 ≠ seq)).take 2047 })
  bump s (hofReg p 0x18) 0 64 1

/-- An idle or control flit (10 R361, R362, R368). -/
def sendPlain (s : State) (p k : Nat) (f : Flit) (h : HPort) : State :=
  updHPort s p (fun _ => { returned h k with slot := h.slot + 1, sent := some (flitBytes (stamped h k f) (sized 224 f.body)) })

/-- Counts a resent flit, and asks for the port's test beyond 100,000 in 1 s (10 R365; 16 R530). -/
def countResend (s : State) (p : Nat) : State :=
  let r := rate (bump s (hofReg p 0x10) 0 32 1) (0x20000 + p) 100000 1000000000
  if r.2 then requestTest r.1 12 p 0x0601 else r.1

/-- The flits of a space's replay buffer that wait to be sent again. -/
def toResend (h : HPort) (k : Nat) : List (Nat × List Byte) :=
  (space h k).unacked.filter (fun f => (space h k).again.contains f.1)

/-- Sends a flit of the replay buffer again, unchanged bit for bit (10 R365, R368). -/
def sendAgain (s : State) (p k : Nat) (f : Nat × List Byte) : State :=
  countResend (updHPort s p (fun h =>
    { updSpace h k (fun x => { x with again := x.again.erase f.1 }) with slot := h.slot + 1, sent := some f.2 })) p

/-- The flit of the next slot: in every slot 31 modulo 32 a signal flit, resent first, or an idle one; otherwise a control
flit, a resent or new message flit, or an idle one (10 R363, R365, R367, R368, R375). -/
def execFlitSlot (p : Nat) (s : State) : Out :=
  let h := hport s p
  if 16 ≤ p || h.state ≠ 2 then .next s
  else if h.slot % 32 = 31 then
    match toResend h 1 with
    | f :: _ => .next (sendAgain s p 1 f)
    | [] =>
      if h.hurQ = [] || s.keys.link.isNone || 2048 ≤ (space h 1).unacked.length then .next (sendPlain s p 1 {} h)
      else
        let f : Flit := { type := 3, src := s.moduleId, dst := h.peerModule, job := jobNo s
                          body := (h.hurQ.take 14).flatMap hurBytes }
        .next (sendNew s p 1 f { h with hurQ := h.hurQ.drop 14 })
  else
    match h.ctlQ, toResend h 0 with
    | b :: t, _ => .next (sendPlain s p 0 { type := 4, dst := h.peerModule, src := s.moduleId, body := b } { h with ctlQ := t })
    | [], f :: _ => .next (sendAgain s p 0 f)
    | [], [] =>
      match nextFlit h h.txQ with
      | some (f, rest) =>
        if s.keys.link.isNone then .next (sendPlain s p 0 {} h)
        else
          let h := { h with txQ := rest }
          .next (sendNew s p 0 f (if f.cls = 0 then { h with credit0 := h.credit0 - 1 }
            else { h with credit1 := h.credit1 - 1 }))
      | none => .next (sendPlain s p 0 {} h)

/-- Flits that an acknowledgement does not cover stay in the replay buffer (10 R362, R364). -/
def acked (ack : Nat) (l : List (Nat × List Byte)) : List (Nat × List Byte) :=
  l.dropWhile (fun f => decide ((ack + 4096 - f.1) % 4096 < 2048))

/-- Takes the acknowledgement and the credits of a flit (10 R365, R367). -/
def takeAck (h : HPort) (k : Nat) (f : LinkWord) : HPort :=
  let h := updSpace h k (fun x =>
    let l := acked f.ack x.unacked
    { x with unacked := l, again := x.again.filter (fun q => l.any (fun f => f.1 = q))
             fails := if l.any (fun f => f.1 = x.failSeq) then x.fails else 0 })
  { h with credit0 := min 1024 (h.credit0 + 8 * f.cr0), credit1 := min 1024 (h.credit1 + 8 * f.cr1) }

/-- A discarded flit or message is counted, with its event at most once per second (10 R370, R372). -/
def hofDiscard (s : State) (p : Nat) : State :=
  let s := setBit (bump s (hofReg p 0x28) 0 32 1) (hofReg p 8) 4
  let l := (hport s p).lastDiscard
  if l = 0 || l + 1000000000 ≤ s.timeNs + 1 then
    raise (updHPort s p (fun h => { h with lastDiscard := s.timeNs + 1 })) 0x0606 (8 + p / 8) p none
  else s

/-- A port becomes FAILED by an error: its bit, its event, its self-test, and the loss of a used port
(10 R366, R371, R377; 16 R530). -/
def portFail (s : State) (p bit code : Nat) : State :=
  leaveUp (requestTest (raise (setBit s (hofReg p 8) bit) code (8 + p / 8) p none) 12 p code) p 3

/-- Flit `seq` of a space and every later flit are to be sent again; after 16 resends of it the port stops (10 R365,
R366). -/
def resend (s : State) (p k seq : Nat) : State :=
  let x := space (hport s p) k
  let n := if x.failSeq = seq then x.fails else 0
  if 16 ≤ n then portFail s p 0 0x0601
  else
    updHPort s p (fun h => updSpace h k (fun x =>
      { x with again := (x.unacked.dropWhile (fun f => f.1 ≠ seq)).map (·.1), failSeq := seq, fails := n + 1 }))

/-- A nak: the flit after the acknowledged one and every later flit are to be sent again (10 R362, R365). -/
def takeNak (s : State) (p k : Nat) (f : LinkWord) : State :=
  let seq := (f.ack + 1) % 4096
  if f.nak && (space (hport s p) k).unacked.any (fun f => f.1 = seq) then resend s p k seq else s

/-- The gateway that a chunk message names (07 R277). -/
def chunkGw (m : Msg) : Nat := bits m.target 3 0
/-- The chunk identifier that it names. -/
def chunkId (m : Msg) : Nat := bits m.target 63 32

/-- A complete message: discarded for a reserved type, kept for this module, or forwarded (10 R372,
R374). -/
def msgDone (s : State) (p : Nat) (m : Msg) : State :=
  if m.mtype = 0 || 8 ≤ m.mtype then hofDiscard s p
  else if m.dst = s.moduleId then { s with inbox := s.inbox ++ [(p, m)] }
  else sendMsg s m

/-- The credit of an accepted message flit is free again (10 R367). -/
def freeCredit (s : State) (p : Nat) (l : LinkWord) : State :=
  if l.type = 3 then s
  else updHPort s p (fun h => if l.cls = 0 then { h with freed0 := h.freed0 + 1 } else { h with freed1 := h.freed1 + 1 })

/-- A message of a class with the link word of its first flit, the bytes so far and the flits still to come
(10 R361, R372). -/
def growMsg (s : State) (p cls : Nat) (f : LinkWord) (bs : List Byte) (left : Nat) : State :=
  if left = 0 then msgDone (updHPort s p (fun h => { h with rx := h.rx.drop cls })) p (readMsg f.dst f.src bs)
  else updHPort s p (fun h => { h with rx := h.rx.set cls (f, bs, left) })

/-- The body of a message flit joins its message (10 R361, R372). -/
def msgFlit (s : State) (p : Nat) (l : LinkWord) (body : List Byte) : State :=
  if l.type = 1 then growMsg s p l.cls l body (flitsFor (readMsg l.dst l.src body).length - 1)
  else
    match (hport s p).rx.find? (fun e => e.1 = l.cls) with
    | some (_, f, bs, left) => growMsg s p l.cls f (bs ++ body) (left - 1)
    | none => s

/-- The module runs the job that a flit names, and holds its link key (10 R370; log 66). -/
def jobMatches (s : State) (l : LinkWord) : Bool := s.course.isSome && s.keys.link.isSome && l.job = jobNo s

/-- An accepted message or signal flit: bytes 12 to 251 under the counter of its sender (10 R368, R370, R371, R375). -/
def acceptFlit (s : State) (p : Nat) (l : LinkWord) (counter : Nat) (rest : List Byte) : State :=
  let s := freeCredit (bump s (hofReg p 0x20) 0 64 1) p l
  if !jobMatches s l then
    let s := hofDiscard s p
    if l.type = 1 && l.cls = 0 then updHPort s p (fun h => { h with ctlQ := h.ctlQ ++ [clearBody l.seq] }) else s
  else
    match gcmOpen (linkKey s) (flitIv (hport s p).peerModule (hport s p).peerPort counter) (flitAad l) rest with
    | none => portFail s p 1 0x0602
    | some body =>
      if l.type = 3 then { s with inHur := s.inHur ++ [(p, signalBody body)] } else msgFlit s p l body

/-- A request is answered dead in the clear (10 R370). -/
def deadReply (s : State) (tag : Nat) : State :=
  match waitingTag s tag with
  | some (k, i, _, _) => endRun (answered s k i tag) (k / 4) (k % 4) i stDead 0x0402
  | none =>
    let s := { s with
      gws := s.gws.map (fun e => (e.1, { e.2 with gathers := e.2.gathers.filter (fun t => t ≠ tag) })) }
    if s.snap.isSome then snapAnswer s tag stDead else s

/-- A request that began with a flit of this port is answered dead: its originator is told, by a reply where it is
another module (10 R370, R374; log 66). -/
def clearReply (s : State) (p seq : Nat) : State :=
  match (hport s p).starts.find? (fun e => e.1 = seq) with
  | some (_, src, tag, mtype) =>
    if src = s.moduleId then deadReply s tag
    else sendMsg s (newMsg s (if mtype = 5 || mtype = 6 then 7 else 4) src tag stDead [])
  | none => s

/-- The body of a control flit: the peer's identity in bring-up, or a clear reply (10 R359, R370; log 66). -/
def controlBody (s : State) (p : Nat) (body : List Byte) : State :=
  let f (i n : Nat) : Nat := ofLe ((body.drop i).take n)
  match f 0 1 with
  | 1 =>
    if (hport s p).state = 1 then
      updHPort s p (fun h => { h with
        seen := some (f 1 2 % 1024, f 3 1 % 16), peerModule := f 1 2 % 1024, peerPort := f 3 1 % 16 })
    else s
  | 2 => if (hport s p).state = 2 then clearReply s p (f 1 2) else s
  | _ => s

/-- The CRC of a flit is good (10 R361, R365). -/
def flitGood (bs : List Byte) : Bool := crc32 (bs.take 252) = ofLe ((bs.drop 252).take 4)

/-- A flit reaches a port that is UP in a slot of a space: a bad CRC is answered by a nak, an expected flit is accepted,
any other is discarded; `counter` is its sender's flit counter, which the flit does not carry (10 R362 to R365, R368;
log 66). -/
def execFlitReceive (p k counter : Nat) (bytes : List Byte) (s : State) : Out :=
  let h := hport s p
  let l := readLink (ofLe (bytes.take 12))
  let rest := (bytes.drop 12).take 240
  if 16 ≤ p || 2 ≤ k || h.state ≠ 2 then .next s
  else if !flitGood bytes then .next (updHPort s p (fun h => updSpace h k (fun x => { x with nakDue := true })))
  else if l.type = 4 || l.type = 0 then
    let s := takeNak (updHPort s p (fun h => takeAck h k l)) p k l
    .next (if l.type = 4 then controlBody s p rest else s)
  else if 5 ≤ l.type || k ≠ (if l.type = 3 then 1 else 0) || l.seq ≠ (space h k).expect then .next s
  else
    let s := updHPort s p (fun h =>
      updSpace (takeAck h k l) k (fun x => { x with expect := (x.expect + 1) % 4096 }))
    .next (takeNak (acceptFlit s p l counter rest) p k l)

/-- A nak names a flit that is not acknowledged (10 R365). -/
def execFlitResend (p k seq : Nat) (s : State) : Out :=
  if 16 ≤ p || (hport s p).state ≠ 2 || !(space (hport s p) k).unacked.any (fun f => f.1 = seq) then .next s
  else .next (resend s p k seq)

/-- No acknowledgement for 4 µs (10 R365). -/
def execAckTimeout (p k : Nat) (s : State) : Out :=
  if 16 ≤ p || (hport s p).state ≠ 2 then .next s
  else
    match (space (hport s p) k).unacked with
    | f :: _ => .next (resend s p k f.1)
    | [] => .next s

/-- One flit has failed 16 resends: the port stops (10 R366). -/
def execHofRetryExhausted (p k : Nat) (s : State) : Out :=
  if 16 ≤ p || (hport s p).state ≠ 2 || (space (hport s p) k).fails < 16 then .next s
  else .next (portFail s p 0 0x0601)

/-- CONTROL_FLIT (10 R359, R370). -/
def execControlFlit (p : Nat) (bytes : List Byte) (s : State) : Out :=
  if 16 ≤ p || !flitGood bytes || (readLink (ofLe (bytes.take 12))).type ≠ 4 then .next s
  else .next (controlBody s p ((bytes.drop 12).take 224))

/-- A discarded hurdle message (08 R317, R334). -/
def hurDiscard (s : State) (bit code : Nat) : State :=
  raise (setBit (bump s (regKey 10 0x30) 0 32 1) (regKey 10 0x20) bit) code 15 0 none

/-- A hurdle message from another module: checked, then applied, forwarded or discarded (08 R315, R317;
10 R375). -/
def takeHur (s : State) (m : HurMsg) : State :=
  let there := bits m.address 27 18
  if m.kind = 0 then s
  else if m.kind = 1 && there ≠ s.moduleId && m.reserved = 0 then
    match routeOf s there with
    | some q => queueHur s q m
    | none => hurDiscard s 2 0x0302
  else if 4 ≤ m.kind || m.reserved ≠ 0 then hurDiscard s 2 0x0302
  else if m.job ≠ jobNo s || s.course.isNone then hurDiscard s 1 0x0304
  else if m.run ≠ s.runNo % 65536 then hurDiscard s 0 0x0303
  else if addrReserved m.address || (m.kind = 1 && addrAbsent s m.address) then hurDiscard s 2 0x0302
  else
    let i := bits m.address 11 0
    let v := BitVec.ofNat 32 m.value
    match m.kind with
    | 1 => sendAdd s 104 (addrCtr m.address) v none
    | 2 => { s with jobUp := s.jobUp.upd 0 i (· + v) }
    | _ => (childPorts s).foldl (fun s q => queueHur s q m) { s with jobDown := s.jobDown ++ [(i, v)] }

/-- SIGNAL_FLIT (10 R375). -/
def execSignalFlit (p : Nat) (ms : List HurMsg) (s : State) : Out :=
  if !s.inHur.contains (p, ms) then .next s
  else .next (ms.foldl takeHur { s with inHur := s.inHur.erase (p, ms) })

end Sys2Proof.Machine
end

