-- ==== Sys2Proof/Machine/Rules.lean ====
section
/-! DEFINITION. Rule microprograms of the update engines: quotients and square roots with one rounding, the
16 operations, the fields of a record, and a rule's run on one parameter (11 R390 to R395). -/
namespace Sys2Proof.Machine
open Sys2Proof

/-- The integer square root of `v`, by `k` bits from the top. -/
def isqrtBits (v : Nat) : Nat → Nat → Nat
  | 0, r => r
  | k + 1, r => isqrtBits v k (if (r + 2 ^ k) * (r + 2 ^ k) ≤ v then r + 2 ^ k else r)

/-- A value with a sticky bit below it, so that one later rounding is that of the exact value. -/
def sticky (neg : Bool) (n : Nat) (exact : Bool) (e : Int) : Num := .fin neg (2 * n + b2n !exact) (e - 1)

/-- The quotient of two values, exact but for a sticky bit (IEEE 754 signs and special values). -/
def divNum (a b : Num) : Num :=
  match a, b with
  | .nan s, y => nanOf 2 (.nan s) y
  | x, .nan s => nanOf 2 x (.nan s)
  | .inf _, .inf _ => .nan false
  | .inf s, .fin t _ _ => .inf (s != t)
  | .fin s _ _, .inf t => .fin (s != t) 0 0
  | .fin s m e, .fin t n f =>
    if n = 0 then (if m = 0 then .nan false else .inf (s != t))
    else
      let k := 2 ^ 160 * m
      sticky (s != t) (k / n) (k % n = 0) (e - f - 160)

/-- The square root of a value, exact but for a sticky bit. -/
def sqrtNum (a : Num) : Num :=
  match a with
  | .nan s => nanOf 3 (.nan s) (.nan s)
  | .inf s => if s then .nan false else .inf false
  | .fin s m e =>
    if m = 0 then .fin s 0 0
    else if s then .nan false
    else
      let odd := e % 2 ≠ 0
      let v := m * (if odd then 2 else 1) * 2 ^ 128
      let r := isqrtBits v 256 0
      sticky false r (r * r = v) ((if odd then e - 1 else e) / 2 - 64)

/-- The square root in binary32. -/
def fsqrt (a : W32) : W32 := toF32 (sqrtNum (ofF32 a))

/-- A finite or special value rounded to binary64. -/
def toF64 (x : Num) : Num :=
  match x with
  | .fin s m e => if m = 0 then x else .fin s (roundQ .near m e (quantum 52 1023 m e)) (quantum 52 1023 m e)
  | _ => x

/-- A value to a power above 0, exactly. -/
def powNum (x : Num) (u : Nat) : Num :=
  match x with
  | .fin s m e => .fin (s && u % 2 = 1) (m ^ u) (e * u)
  | .inf s => .inf (s && u % 2 = 1)
  | .nan s => nanOf 1 (.nan s) (.nan s)

/-- The bias correction 1 / (1 − K^u) of BIAS1 and BIAS2, in binary64 and rounded to binary32
(11 R393; log 24). -/
def biasOf (k : W32) (u : Nat) : W32 :=
  let d := toF64 (addNum (.fin false 1 0) (negNum (toF64 (powNum (ofF32 k) u))))
  if isZeroNum d then 0x7F7FFFFF else toF32 (toF64 (divNum (.fin false 1 0) d))

/-- The smaller or larger of two values; NaN in either gives NaN, and −0 is below +0 (11 R393). -/
def minMax (wantMax : Bool) (a b : Num) : Num :=
  match a, b with
  | .nan s, y => nanOf 4 (.nan s) y
  | x, .nan s => nanOf 4 x (.nan s)
  | _, _ =>
    let below : Bool := match addNum a (negNum b) with
      | .fin _ 0 _ => signNum a && !signNum b
      | .nan _ => false
      | x => signNum x
    if below = wantMax then b else a

/-- A value above 0 (11 R393, SEL). -/
def positive (x : Num) : Bool := !isNanNum x && !isZeroNum x && !signNum x

/-- Fields of a 32-bit rule operation (11 R392). -/
structure RuleOp where
  op : Nat
  pair : Bool
  rd : Nat
  ra : Nat
  rb : Nat
  rc : Nat
  sel : Nat
  reserved : Nat
deriving DecidableEq, Repr

/-- An operation word taken apart (11 R392). -/
def ruleOp (w : W32) : RuleOp :=
  let v := w.toNat
  { op := bits v 3 0, pair := bitOf v 4, rd := bits v 8 5, ra := bits v 12 9, rb := bits v 16 13
    rc := bits v 20 17, sel := bits v 24 21, reserved := bits v 31 25 }

/-- An operation that LOAD_COURSE accepts (11 R392). -/
def ruleOpOk (o : RuleOp) : Bool :=
  let uses : Nat := match o.op with
    | 0 => 1 | 1 => 2 | 2 | 3 | 4 | 8 | 9 | 12 => 7 | 5 | 11 => 15 | _ => 3
  let selOk : Bool := match o.op with
    | 0 => decide (o.sel ≤ 4) || decide (8 ≤ o.sel)
    | 1 => decide (o.sel ≤ 4)
    | _ => decide (o.sel = 0)
  let pairOk : Bool := match o.op with
    | 1 => !o.pair || o.ra % 2 = 0
    | 2 | 3 | 4 => !o.pair || (o.ra % 2 = 0 && o.rd % 2 = 0)
    | 0 => !o.pair && (o.sel ≠ 0 || o.rd % 2 = 0)
    | _ => !o.pair
  o.reserved = 0 && selOk && pairOk
    && (bitOf uses 0 || o.rd = 0) && (bitOf uses 1 || o.ra = 0) && (bitOf uses 2 || o.rb = 0)
    && (bitOf uses 3 || o.rc = 0)

/-- An operation names the aux field (11 R392). -/
def namesAux (o : RuleOp) : Bool := (o.op = 0 || o.op = 1) && o.sel = 3

/-- A rule's run on one parameter: temporaries, the record's fields as codes, whether they are the 4-byte
forms, the gradient, the OUT pair, the non-finite count and the squares to add (11 R390 to R395, R402). -/
structure RuleRun where
  t : Table W32 := []
  undef : Nat → W32 := fun _ => 0
  wide : Bool := false
  p : Nat := 0
  m1 : Nat := 0
  m2 : Nat := 0
  aux : Nat := 0
  grad : Num := .fin false 0 0
  out : Option (W32 × Option W32) := none
  nf : Nat := 0
  squares : List Num := []

/-- A temporary; one that nothing has written is undefined (11 R391). -/
def RuleRun.tmp (r : RuleRun) (i : Nat) : W32 := r.t.get (r.undef i) i

/-- The value of a temporary. -/
def RuleRun.val (r : RuleRun) (i : Nat) : Num := ofF32 (r.tmp i)

/-- A temporary written; t16 and above do not exist. -/
def RuleRun.put (r : RuleRun) (i : Nat) (v : W32) : RuleRun := { r with t := r.t.set (i % 16) v }

/-- Widens a moment to binary32 (11 R394). -/
def RuleRun.moment (r : RuleRun) (c : Nat) : W32 :=
  if r.wide then BitVec.ofNat 32 c else BitVec.ofNat 32 (c * 65536)

/-- LD (11 R394). -/
def ruleLd (rule : Rule) (r : RuleRun) (o : RuleOp) : RuleRun :=
  match o.sel with
  | 0 => (r.put o.rd (BitVec.ofNat 32 (r.p % 65536 * 65536))).put (o.rd + 1) (BitVec.ofNat 32 (r.p / 65536 % 65536 * 65536))
  | 1 => r.put o.rd (r.moment r.m1)
  | 2 => r.put o.rd (r.moment r.m2)
  | 3 => r.put o.rd (BitVec.ofNat 32 r.aux)
  | 4 => { r.put o.rd (toF32 r.grad) with
           nf := r.nf + b2n (isNonFin r.grad), squares := r.squares ++ [mulNum r.grad r.grad] }
  | k => r.put o.rd (rule.k.getD (k - 8) 0)

/-- A stored value that is an infinity or NaN counts (11 R402). -/
def RuleRun.stored (r : RuleRun) (f : Fmt) (c : Nat) : RuleRun :=
  { r with nf := r.nf + b2n (isNonFin (decodeElem f false c)) }

/-- The exact value of an OUT element, stored alone or as a pair (04 R148; 11 R394, R395; log 65). -/
def outNum (hi : W32) (lo : Option W32) : Num :=
  match lo with
  | some l => pairNum (ofF32 hi) (ofF32 l)
  | none => ofF32 hi

/-- ST (11 R394); a value that is an infinity or NaN counts, an OUT element's as it leaves the rule (11 R402). -/
def ruleSt (r : RuleRun) (o : RuleOp) : RuleRun :=
  let v := r.val o.ra
  let mf : Fmt := if r.wide then .fp32 else .bf16
  match o.sel with
  | 0 =>
    let c := (cvt .pb32 .near true (if o.pair then pairNum v (r.val (o.ra + 1)) else v)).1
    { r.stored .pb32 c with p := c }
  | 1 => let c := (cvt mf .near true v).1; { r.stored mf c with m1 := c }
  | 2 => let c := (cvt mf .near true v).1; { r.stored mf c with m2 := c }
  | 3 => let c := (cvt .fp32 .near true v).1; { r.stored .fp32 c with aux := c }
  | _ =>
    let lo := if o.pair then some (r.tmp (o.ra + 1)) else none
    { r with out := some (r.tmp o.ra, lo), nf := r.nf + b2n (isNonFin (outNum (r.tmp o.ra) lo)) }

/-- pb32_round; a NaN gives the canonical PB32 NaN (04 R166, R168). -/
def pairRound (x : Num) : Nat := (cvt .pb32 .near true (if isNanNum x then .nan false else x)).1

/-- The result of a pair operation: pb32_round of the exact result as two binary32 values; a non-finite
result with +0 (11 R393; 04 R166, R168). -/
def RuleRun.putPair (r : RuleRun) (rd : Nat) (x : Num) : RuleRun :=
  let c := pairRound x
  let hi : W32 := BitVec.ofNat 32 (c % 65536 * 65536)
  (r.put rd hi).put (rd + 1) (if isNonFin (ofF32 hi) then 0 else BitVec.ofNat 32 (c / 65536 % 65536 * 65536))

/-- One operation of a rule; `u` is the step's number of commits plus 1 (11 R393). -/
def ruleStep (rule : Rule) (u : Nat) (r : RuleRun) (w : W32) : RuleRun :=
  let o := ruleOp w
  let a := r.val o.ra
  let b := r.val o.rb
  let bin (f : Num → Num → Num) : RuleRun :=
    if o.pair then r.putPair o.rd (f (pairNum a (r.val (o.ra + 1))) b) else r.put o.rd (toF32 (f a b))
  match o.op with
  | 0 => ruleLd rule r o
  | 1 => ruleSt r o
  | 2 => bin addNum
  | 3 => bin (fun a b => addNum a (negNum b))
  | 4 => bin mulNum
  | 5 => r.put o.rd (toF32 (fmaNum a b (r.val o.rc)))
  | 6 => r.put o.rd (if isZeroNum a then (if signNum a then 0xFF7FFFFF else 0x7F7FFFFF)
      else toF32 (divNum (.fin false 1 0) a))
  | 7 => r.put o.rd (
      if isNanNum a then toF32 (nanOf 5 a a)
      else if isZeroNum a || signNum a then rule.epsInv
      else if isNonFin a then 0
      else toF32 (match a with
        | .fin _ m e =>
          let m' := if e % 2 ≠ 0 then 2 * m else m
          let e' := (if e % 2 ≠ 0 then e - 1 else e) / 2
          let q := 2 ^ 320 / m'
          let n := isqrtBits q 170 0
          sticky false n (n * n * m' = 2 ^ 320) (-160 - e')
        | x => x))
  | 8 => r.put o.rd (toF32 (minMax true a b))
  | 9 => r.put o.rd (toF32 (minMax false a b))
  | 10 => r.put o.rd (toF32 (absNum a))
  | 11 => r.put o.rd (if positive a then r.tmp o.rb else r.tmp o.rc)
  | 12 => r.put o.rd (toF32 (if isNanNum a then nanOf 4 a b
      else minMax false (minMax true a (negNum (absNum b))) (absNum b)))
  | 13 => r.put o.rd (fmul (r.tmp o.ra) (biasOf (rule.k.getD 0 0) u))
  | 14 => r.put o.rd (fmul (r.tmp o.ra) (biasOf (rule.k.getD 1 0) u))
  | _ => r.put o.rd (fmul (r.tmp o.ra) rule.gScale)

/-- A rule run on one parameter. -/
def runRule (rule : Rule) (u : Nat) (r : RuleRun) : RuleRun := rule.ops.foldl (ruleStep rule u) r

/-- pb32_round of a sum, one addition to a norm (11 R402). -/
def normAdd (c : W32) (x : Num) : W32 :=
  BitVec.ofNat 32 (pairRound (addNum (decodeElem .pb32 false c.toNat) x))

end Sys2Proof.Machine
end

