-- ==== Sys2Proof/Machine/Stop.lean ====
section
/-! DEFINITION. Halting the module, discarding an open step, and the photo-finish dump (08 R323 to R330;
11 R401, R414; 13 R457). -/
namespace Sys2Proof.Machine
open Sys2Proof

/-- Every station and general core halts; every engine abandons its list and is IDLE without done actions
(08 R323; 13 R457). -/
def haltAll (s : State) : State :=
  { s with
    stns := s.stns.map (fun e => (e.1, if e.2.run = .idle then e.2 else halted e.2))
    clus := s.clus.map (fun e => (e.1, { e.2 with
      gc := { e.2.gc with state := .halted, waitCtr := none, released := none, wdog := 0 }, loans := [], borrowQ := [] }))
    engines := s.engines.map (fun e => (e.1, idleEngine e.2))
    waiters := [], valMsgs := [], seen := [] }

/-- The step items of the loaded course: step hurdle, ack hurdle, decision counter, epoch record
(11 R399). -/
def stepItems (s : State) : Option (Nat × Nat × Nat × Nat) :=
  match s.course with
  | some c =>
    match c.steps.step, c.steps.ack, c.steps.decision, c.steps.epoch with
    | some a, some b, some d, some e => some (a, b, d, e)
    | _, _, _, _ => none
  | none => none

/-- A gateway. -/
def gw (s : State) (k : Nat) : Gw := s.gws.get {} k

/-- The state with a gateway changed. -/
def updGw (s : State) (k : Nat) (f : Gw → Gw) : State := { s with gws := s.gws.upd {} k f }

/-- A step has begun and is not decided: a chunk or loss report of it has been taken, this module has
voted, or a vote of the job has reached this module's copy of the step hurdle (11 R400, R411;
log 25). -/
def stepOpen (s : State) : Bool :=
  match stepItems s with
  | some (h, _, _, _) => s.jobState = 3 &&
    (s.coord.voted || ctrVal s (.module h) ≠ s.coord.bs
      || s.gws.any (fun e => !e.2.bitmap.isEmpty || e.2.loss.isSome))
  | none => false

/-- The engines begin the next step: bitmaps and counts clear, done counters are taken as they stand
(11 R388, R397, R400). -/
def nextStep (s : State) : State :=
  { s with
    stepErr := false
    gws := s.gws.map (fun e => (e.1, { e.2 with
      state := if e.2.state = 0 then 0 else 1, bitmap := [], applied := 0, loss := none, readFault := false
      doneBase := s.modCtr }))
    ofls := s.ofls.map (fun e => (e.1, { e.2 with last := 0, any := false })) }

/-- The norm of a group: the engines' sums combined in gateway order (11 R402). -/
def groupNorm (s : State) (g : Nat) : W32 :=
  s.gws.foldl (fun c e => normAdd c (decodeElem .pb32 false (e.2.norms.get 0 g).toNat)) 0

/-- The counts and norms of the step so far are set aside for its decision; later ones belong to the next
step (11 R402). -/
def tally (s : State) : State :=
  { s with
    groups := (List.range 64).foldl (fun t g =>
      if s.nfCnt.get 0 g = 0 && !s.gws.any (fun e => e.2.norms.any (fun x => x.1 = g)) && !t.any (fun x => x.1 = g) then t
      else t.upd {} g (fun x => { x with nfVote := s.nfCnt.get 0 g, norm := groupNorm s g })) s.groups
    nfCnt := []
    gws := s.gws.map (fun e => (e.1, { e.2 with norms := [] })) }

/-- Latches the counts of every group at a decision (11 R402). -/
def latchGroups (s : State) : State :=
  { s with groups := s.groups.map (fun e => (e.1, { e.2 with
      nfLast := e.2.nfVote, nfVote := 0, normLast := e.2.norm, norm := 0 })) }

/-- An open step is discarded: counted as skipped, with its event (11 R401; log 26). -/
def discardStep (s : State) : State :=
  if !stepOpen s then s
  else
    let s := raise (nextStep (latchGroups (if s.coord.voted then s else tally s))) 0x0702 15 0 none
    { s with steps := s.steps + 1
             coord := { s.coord with skips := s.coord.skips + 1, lastVerdict := true, voted := false
                                     votedSkip := false, freeze := false, runSteps := s.coord.runSteps + 1
                                     runSkips := s.coord.runSkips + 1 }
             gws := s.gws.map (fun e => (e.1, { e.2 with bufs := [], norms := [] })) }

/-- State code of a station (06 R254). -/
def runCode : RunState → Nat
  | .idle => 0 | .issuing => 1 | .waiting => 2 | .halted => 3

/-- STN_PC of a station (06 R254). -/
def stnPc (s : State) (n : Nat) (hide : Bool) : Nat :=
  if present s n then putFields 0 [(13, 0, if hide then 0 else (stn s n).pc), (15, 14, runCode (stn s n).run)] else 0

/-- Header transfers that wait for the buffers of a lane, as bits (02 R89). -/
def waitBits (t : Station) (lane : Lane) : Nat :=
  (List.range 4).foldl (fun v b =>
    v + b2n ((t.hops.get [] lane.code).any (fun h => h.waiting && decide (h.dst ≤ b)
      && decide (b < h.dst + h.baton.buffers))) * 2 ^ b) 0

/-- RING_LB_STATE of a station (02 R89). -/
def lbStateReg (s : State) (n : Nat) : Nat :=
  let t := stn s n
  let v (l : Lane) : Nat := (List.range 4).foldl (fun v b => v + (lbState t l b).code * 4 ^ b) 0
  if present s n then v .inner + v .outer * 2 ^ 8 + waitBits t .inner * 2 ^ 16 + waitBits t .outer * 2 ^ 20 else 0

/-- State code of an engine (07 R295). -/
def engCode : EngState → Nat
  | .idle => 0 | .running => 1 | .parked => 2 | .drainWait => 3

/-- STR_ENG of an engine (07 R295). -/
def strEng (s : State) (g e : Nat) : Nat :=
  let x := eng s g e
  putFields 0 [(2, 0, engCode x.state), (3, 3, b2n x.request.isSome), (4, 4, b2n x.bound.isSome),
    (5, 5, b2n (x.bound = some .gc)),
    (8, 6, match x.bound with | some (.core k) => k | _ => 0), (23, 16, x.lastStatus), (63, 32, x.doneCnt)]

/-- WIN_CFG_LO of a window (07 R298). -/
def winLo (w : Win) : Nat :=
  putFields 0 [(1, 0, w.state), (3, 2, w.dir), (4, 4, b2n w.byCommand), (26, 16, w.base),
    (42, 32, w.sizeM1), (57, 48, w.srcModule)]

/-- The shards of a gateway (11 R384). -/
def shardsOf (s : State) (k : Nat) : List Shard :=
  match s.course with | some c => c.shards.get [] k | none => []

/-- The loaded course names a gateway for the loss report (11 R407). -/
def lossHere (s : State) (k : Nat) : Bool :=
  match s.course with | some c => c.lossGw = some k | none => false

/-- Chunks that a shard expects in a step (11 R389). -/
def expects (x : Shard) : Nat := if x.kind = .update || x.kind = .vector then x.nChunks else 0

/-- UPD_GW_STATUS (11 R413). -/
def gwStatus (s : State) (k : Nat) : Nat :=
  let x := gw s k
  putFields 0 [(1, 0, x.state), (2, 2, b2n (lossHere s k)), (3, 3, b2n x.loss.isSome),
    (11, 4, 2 ^ x.bufs.length - 1), (40, 32, (shardsOf s k).length)]

/-- UPD_GW_CHUNKS (11 R413). -/
def gwChunks (s : State) (k : Nat) : Nat :=
  putFields 0 [(31, 0, (gw s k).applied), (63, 32, (shardsOf s k).foldl (fun t x => t + expects x) 0)]

/-- Tokens in the pool of a cluster, on loan or not, and on loan (08 R319, R320, R333). -/
def poolOf (s : State) (g : Nat) : Nat × Nat :=
  ((stationsOf s g).foldl (fun t n => t + (if (stn s n).lent = 0 then 0 else (stn s n).lent)) 0,
   (stationsOf s g).foldl (fun t n => t + lentOut (clu s g) n) 0)

/-- A station record of a dump (08 R329). -/
def stnRecord (s : State) (n : Nat) : List Byte :=
  let t := stn s n
  let w : Nat × Nat := match t.pend with | some (.wait c v _) => (ctrAddr c, v.toNat) | _ => (0, 0)
  let flags := (match t.pend with | some (.wait _ _ l) => 1 + 2 * b2n l | some (.borrow _ _) => 8 | none => 0)
    + 4 * b2n t.eclipse + 16 * b2n (decide (2 ^ 24 ≤ t.wdog))
  let busy (l : Lane) : Nat := b2n (decide (cycOf s n < (t.ports.get {} l.code).idleAt))
  let waits := t.ports.any (fun e => e.2.wait.isSome)
  if !present s n then []
  else
    leBytes 2 (stnPc s n false) ++ leBytes 1 flags ++ leBytes 1 t.lent ++ leBytes 4 w.1 ++ leBytes 4 w.2
      ++ leBytes 4 t.wdog ++ leBytes 4 (lbStateReg s n)
      ++ (List.range 4).flatMap (fun i => leBytes 4 (t.lc.get 0 i).toNat)
      ++ leBytes 2 (busy .inner + 2 * busy .outer + 4 * b2n waits) ++ leBytes 2 0 ++ leBytes 4 t.lfsr.toNat

/-- A general-core record (08 R329). -/
def gcRecord (s : State) (g : Nat) : List Byte :=
  let c := gcOf s g
  if !live s g then []
  else
    leBytes 8 c.pc ++ leBytes 1 (match c.state with | .running => 0 | .xhwait => 1 | .halted => 2) ++ leBytes 3 0
      ++ leBytes 4 (if c.state = .xhwait then c.waitAddr else 0)
      ++ leBytes 4 (if c.state = .xhwait then c.target.toNat else 0) ++ leBytes 4 c.wdog

/-- The current or parked descriptor of an engine, and the bytes it has moved. -/
def curDesc (x : Engine) : Option (Desc × Nat) :=
  match x.flight with
  | r :: _ =>
    let left := 256 * r.units.length + r.reqs.foldl (fun t q => t + q.2.2) 0 + 65536 * r.records.length
    some (r.d, if r.inject.isSome then 0 else lenOf r.d - left)
  | [] => match x.parked with | some d => some (d, lenOf d) | none => x.fetched.head?.map (fun d => (d, 0))

/-- A stream-engine record (08 R329). -/
def engRecord (s : State) (g e : Nat) : List Byte :=
  if !live s g then []
  else
    match curDesc (eng s g e) with
    | some (d, n) => leBytes 8 (strEng s g e) ++ leBytes 8 d.addr ++ leBytes 8 d.w0 ++ leBytes 8 d.w1
        ++ leBytes 8 d.w2 ++ leBytes 8 d.w3 ++ leBytes 8 n
    | none => leBytes 8 (strEng s g e)

/-- The token ceiling of a cluster (06 R244). -/
def ceiling (s : State) (g : Nat) : Nat :=
  match s.course with | some c => c.ceilings.get 0 g | none => 0

/-- A cluster record (08 R329). -/
def cluRecord (s : State) (g : Nat) : List Byte :=
  let p := poolOf s g
  if !live s g then []
  else leBytes 1 (ceiling s g) ++ leBytes 1 p.1 ++ leBytes 1 p.2
    ++ leBytes 1 (b2n (inEclipse s g) + 2 * b2n (clu s g).lowered)
    ++ leBytes 4 (bits (reg s (regKey (g / 12) (0x200 + 8 * (g % 12)))) 63 32)

/-- A gateway record (11 R414). -/
def gwRecord (s : State) (k : Nat) : List (Nat × List Byte) :=
  let b := (gw s k).bitmap
  [(0, leBytes 8 (gwStatus s k) ++ leBytes 8 (gwChunks s k) ++ leBytes 4 s.coord.bs.toNat
      ++ leBytes 4 s.coord.ba.toNat)]
    ++ (uniq (b.map (fun e => e.1 / 8))).map (fun i =>
      (64 + i, leBytes 1 ((List.range 8).foldl (fun v j => v + b2n (b.get false (8 * i + j)) * 2 ^ j) 0)))

/-- The sections of a dump (08 R329). -/
def dumpSections : List (Nat × Nat) :=
  [(0x1000, 0x4000), (0x5000, 0x8000), (0xD000, 0x18000), (0x25000, 0x30000), (0x55000, 0xC000),
   (0x61000, 0x1800), (0x62800, 0x6000), (0x68800, 0x18000), (0x80800, 0x1800), (0x82000, 0x30000)]

/-- Counters as 4 bytes each. -/
def ctrBytes (t : Table W32) : List (Nat × List Byte) := t.map (fun e => (4 * e.1, leBytes 4 e.2.toNat))

/-- The records of the held instant: those of stations, general cores and clusters (08 R327, R329). -/
def heldRecords (s : State) : List (Nat × List Byte) :=
  (List.range 768).map (fun n => (0x55000 + 64 * n, stnRecord s n))
    ++ (List.range 96).map (fun g => (0x61000 + 64 * g, gcRecord s g))
    ++ (List.range 96).map (fun g => (0x80800 + 64 * g, cluRecord s g))

/-- The body of a dump: bytes by offset; counters, engines and windows as they are copied (08 R327, R329). -/
def dumpBody (s : State) : List (Nat × List Byte) :=
  let at_ (o : Nat) (l : List (Nat × List Byte)) : List (Nat × List Byte) := l.map (fun e => (o + e.1, e.2))
  at_ 0x1000 (ctrBytes s.modCtr) ++ at_ 0x5000 (ctrBytes s.dieCtr) ++ at_ 0xD000 (ctrBytes s.cluCtr)
    ++ at_ 0x25000 (ctrBytes s.coreCtr) ++ s.dump.held
    ++ (List.range 384).map (fun i => (0x62800 + 64 * i, engRecord s (i / 4) (i % 4)))
    ++ s.wins.map (fun e => (0x68800 + 16 * e.1, leBytes 8 (winLo e.2) ++ leBytes 8 e.2.srcJob))
    ++ (List.range 16).flatMap (fun k => at_ (0x82000 + 12288 * k) (gwRecord s k))

/-- The header of a dump without its tag and sections (08 R329). -/
def dumpHead (s : State) : List Byte :=
  let d := s.dump
  leBytes 4 0x50464431 ++ leBytes 2 1 ++ leBytes 1 d.trigger ++ leBytes 1 (b2n d.isSealed)
    ++ leBytes 2 s.moduleId ++ leBytes 2 0 ++ leBytes 4 (jobNo s) ++ leBytes 4 (if s.course.isSome then s.runNo else 0)
    ++ leBytes 4 d.seq ++ leBytes 2 d.event ++ leBytes 2 (if d.isSealed then 0 else d.station) ++ leBytes 4 0
    ++ leBytes 8 d.time ++ leBytes 8 0xB2000

/-- Bytes laid into an empty memory. -/
def layBytes (l : List (Nat × List Byte)) : Memory := l.foldl (fun m e => memWrite m e.1 e.2) []

/-- The dump as it stands in its region: encrypted with its tag in a sealed job (08 R329, R330). -/
def dumpImage (s : State) : List (Nat × List Byte) :=
  let head := dumpHead s
  let body := dumpBody s
  let secs := (0x40, dumpSections.flatMap (fun e => leBytes 8 e.1 ++ leBytes 8 e.2))
  if s.dump.isSealed then
    let key := s.keys.output.getD 0
    let iv := jobNo s % 2 ^ 32 + s.dump.seq % 2 ^ 32 * 2 ^ 32
    let plain := memRead (layBytes body) 0x1000 0xB1000
    let ct := gcmCipher key iv plain
    [(0, head), (0x30, gcmTag key iv head ct), secs, (0x1000, ct)]
  else (0, head) :: secs :: body

/-- Writes the dump to its region (08 R325). -/
def dumpWrite (s : State) : State :=
  if placeMap s dumpBase = .reserved then raise s 0x0508 8 0 none
  else
    let z := zeroise s dumpBase (dumpBase + 0xB2000)
    { z with mem := (dumpImage s).foldl (fun m e => memWrite m (dumpBase + e.1) e.2) z.mem }

/-- A dump is triggered; a later trigger of type 1 or 3 during a dump is recorded only (08 R325, R326,
R328). -/
def startDump (s : State) (trigger event station : Nat) (src : Option (Src × Nat)) : State :=
  if s.dump.state = 1 then
    { s with dump := { s.dump with second := true
                                   later := if s.dump.trigger = 2 && s.dump.later = 0 then trigger else s.dump.later } }
  else
    { s with dump := { state := 1, trigger := trigger, isSealed := sealedJob s, seq := s.dump.seq + 1
                       event := event, station := station, time := s.timeNs, src := src, held := heldRecords s } }

/-- A unit whose watchdog has counted 2^24 cycles (08 R323). -/
def expired (s : State) : Waiter → Bool
  | .station n => present s n && decide (2 ^ 24 ≤ (stn s n).wdog)
  | .gc g => live s g && decide (2 ^ 24 ≤ (gcOf s g).wdog)

/-- A dump of type 1 or 3 is under way, its own or that of a later trigger, so that a further trigger changes nothing
else (08 R328). -/
def dumpEnds (s : State) : Bool := s.dump.state = 1 && (s.dump.trigger ≠ 2 || s.dump.later ≠ 0)

/-- HUR_WATCHDOG: its event, a dump with trigger 1, and the end of the RUN with TIMEOUT; during a dump of type 1 or 3
it is recorded only (08 R323, R328). -/
def execHurWatchdog (w : Waiter) (s : State) : Out :=
  if s.jobState ≠ 3 || !expired s w || s.run.timeout || (dumpEnds s && s.dump.second) then .next s
  else
    let s := match w with
      | .station n => raise (hurErr s (dieOf n) 0 (n % 96) false) 0x0301 (dieOf n) (n % 96) none
      | .gc g => raise (hurErr s (g / 12) 0 (8 * (g % 12)) true) 0x0301 (g / 12) (8 * (g % 12)) none
    let s := if dumpEnds s then s else { s with run := { s.run with timeout := true } }
    .next (startDump s 1 0x0301 (match w with | .station n => n | .gc _ => 0xFFFF) none)

/-- A dump is complete in its region: a DUMP command copies it and completes; after trigger 1 or 3 every
unit is halted (08 R326, R328; 13 R462). -/
def finishDump (s : State) : State :=
  let d := s.dump
  let s := dumpWrite s
  let s := raise { s with dump := { d with state := 2, src := none, held := [] } } 0x0307 15 0 none
  let s := match d.src with
    | some (src, a) =>
      if a = 0 then complete s src stOK d.seq
      else if hostFails s a 0xB2000 then writeFault s src a 0xB2000
      else complete (hostWrite s a (memRead s.mem dumpBase 0xB2000)) src stOK d.seq
    | none => s
  if d.trigger ≠ 2 || d.later ≠ 0 then
    haltAll (if s.stop.wanted then { s with stop := { s.stop with stage := 3 } } else s)
  else s

/-- HUR_DUMP_DONE (08 R326). -/
def execHurDumpDone (s : State) : Out := if s.dump.state ≠ 1 then .next s else .next (finishDump s)

/-- DUMP mode 0: takes a dump with trigger 2 and copies it (13 R462). -/
def execDumpTake (src : Src) (a : Nat) (s : State) : Out :=
  command src .job false s (fun s =>
    if s.dump.state = 1 then .next (complete s src 0x04 0)
    else .next (startDump s 2 0 0xFFFF (some (src, a))))

/-- DUMP mode 1: copies the last dump as it stands in its region; an uncorrectable read ends the command with FAULT
(09 R338; 13 R462; log 51). -/
def execDumpCopyLast (src : Src) (a : Nat) (s : State) : Out :=
  command src .job false s (fun s =>
    if s.dump.state = 1 then .next (complete s src 0x04 0)
    else if s.dump.state ≠ 2 then .next (complete s src stInvalid 0)
    else if a = 0 then .next (complete s src stOK s.dump.seq)
    else
      let r := readMem s dumpBase 0xB2000
      if r.fail.isSome then .next (complete r.s src stFault 0)
      else toHost r.s src a (readBytes r dumpBase 0xB2000) (fun s => complete s src stOK s.dump.seq))

end Sys2Proof.Machine
end

