-- ==== Sys2Proof/Machine/Update.lean ====
section
/-! DEFINITION. Update engines, the update coordinator, Comet Watch and snapshots (11; 13 R461). -/
namespace Sys2Proof.Machine
open Sys2Proof

/-- The chunk identifier of a loss report (11 R385). -/
def lossId : Nat := 0xFFFFFFFF

/-- The shard that owns a chunk identifier: its index, the chunk's index in it, and the chunk slot
(11 R384, R385, R388). -/
def shardOf (id : Nat) : Nat → Nat → List Shard → Option (Nat × Nat × Nat × Shard)
  | _, _, [] => none
  | i, base, x :: t =>
    if x.firstChunk ≤ id && id < x.firstChunk + x.nChunks then
      some (i, id - x.firstChunk, base + (id - x.firstChunk), x)
    else shardOf id (i + 1) (base + x.nChunks) t

/-- What a gateway does with a chunk at its input (11 R386, R388, R398). -/
inductive Verdict where
  | part
  | bad (st : Nat)
  | dup
  | hold
  | loss
  | grad (shard index slot fmt : Nat)
  | gather (index : Nat) (x : Shard)
deriving DecidableEq, Repr

/-- Bytes of the image that a header names; none where it names no permitted tile (07 R268). -/
def imageLen (h : Header) : Option Nat :=
  if tileOk h.fmt h.scaled then (Fmt.ofCode h.fmt).map (fun f => 256 * transfersOf f h.scaled) else none

/-- The checks of a gradient chunk in the table's order (11 R386). -/
def judgeGrad (s : State) (k : Nat) (c : Chunk) : Verdict :=
  let h := hdrOfBytes c.data
  match shardOf c.id 0 0 (shardsOf s k) with
  | none => .bad stInvalid
  | some (i, j, slot, x) =>
    if x.kind ≠ .update && x.kind ≠ .vector then .bad stInvalid
    else if imageLen h ≠ some c.data.length then
      (match imageLen h, c.src with
       | some n, .messages [_] => if c.data.length = 65536 && n > 65536 then .part else .bad stInvalid
       | _, _ => .bad stInvalid)
    else if hdrCrcOf h ≠ h.hdrCrc || crc32 (c.data.drop 256) ≠ h.payloadCrc then .bad stFault
    else if h.job ≠ jobNo s || h.kind ≠ 1 || (h.fmt ≠ 0 && h.fmt ≠ 1) || h.scaled then .bad stInvalid
    else if (gw s k).bitmap.get false slot then .dup
    else .grad i j slot h.fmt

/-- The checks of a loss report (11 R386). -/
def judgeLoss (s : State) (k : Nat) (c : Chunk) : Verdict :=
  let g := (c.data.getD 4 0).toNat
  if c.data.length ≠ 256 || !lossHere s k || 64 ≤ g || !(s.groups.get {} g).used
      || (c.data.drop 5).any (fun b => b ≠ 0) then .bad stInvalid
  else if (gw s k).loss.isSome then .dup
  else .loss

/-- The checks of a gather chunk (11 R386, R398). -/
def judgeGather (s : State) (k : Nat) (c : Chunk) (fmt : Nat) (sc : Bool) (step : Nat) : Verdict :=
  match shardOf c.id 0 0 (shardsOf s k) with
  | none => .bad stInvalid
  | some (_, j, _, x) =>
    if x.kind ≠ .replica || !tileOk fmt sc || c.data.length ≠ storedBytes fmt sc then .bad stInvalid
    else if step = s.steps % 65536 then .gather j x
    else if step = (s.steps + 1) % 65536 then .hold
    else .bad stInvalid

/-- A gateway's verdict on a chunk; gradient chunks and loss reports wait while the engine is finished
(11 R386, R397, R398). -/
def judge (s : State) (k : Nat) (c : Chunk) : Verdict :=
  match c.gather with
  | some (fmt, sc, step) => if s.course.isNone then .bad stInvalid else judgeGather s k c fmt sc step
  | none =>
    if (stepItems s).isNone then .bad stInvalid
    else if (gw s k).state = 2 then .hold
    else if c.id = lossId then judgeLoss s k c
    else judgeGrad s k c

/-- A chunk is answered: its descriptor goes on or ends, or each of its messages gets a CHUNK_REPLY
(10 R373; 11 R387). -/
def answerChunk (s : State) (c : Chunk) (st : Nat) : State :=
  match c.src with
  | .engine g e addr =>
    let i := (eng s g e).flight.findIdx (fun r => r.chunk && r.d.addr = addr)
    let s := updRun s g e i (fun r => { r with chunk := false })
    if st = stOK then s else endRun s g e i st (statusEvent st)
  | .messages l =>
    l.foldl (fun s m =>
      if m.src = s.moduleId then
        { s with gws := s.gws.map (fun x =>
            (x.1, { x.2 with gathers := x.2.gathers.filter (fun t => t ≠ m.tag) })) }
      else replyTo s m 7 st []) s

/-- Gateway registers (11 R413). -/
def gwReg (k off : Nat) : Nat := regKey (k / 2) (0x2400 + 0x40 * (k % 2) + off)

/-- A chunk that fails a check (11 R386). -/
def badChunk (s : State) (k : Nat) (c : Chunk) (st : Nat) : State :=
  answerChunk (raise (setBit s (gwReg k 0x10) 0) 0x0705 (k / 2) k none) c st

/-- A duplicate: answered OK, counted, not applied (11 R386, R388). -/
def dupChunk (s : State) (k : Nat) (c : Chunk) : State :=
  answerChunk (bump s (gwReg k 0x18) 0 32 1) c stOK

/-- The bank that the step writes (11 R396). -/
def writeBank (s : State) : Bool := !s.coord.live

/-- Record base of a shard in a bank (11 R385). -/
def bankBase (x : Shard) (b : Bool) : Nat := if b then x.bank1 else x.bank0

/-- A range that an update engine, or the firmware of a hub die, may reach: no reserved address, no pocket, and of the
cluster stores those of its own die (01 R43; 07 R262, R263, R265). -/
def engineMay (s : State) (die a len : Nat) : Bool :=
  (probes a len).all (fun p =>
    match place s p with
    | .reserved | .regs | .pocket _ => false
    | .store g => g / 12 = die
    | _ => true)

/-- An access of an update engine or firmware of a die waits: its bank is changing, or a hop on its route or on the
response's has stopped (01 R34, R37; 07 R269). -/
def engineWaits (s : State) (die a len : Nat) : Bool :=
  engineMay s die a len && (changing s a len || (diePoints a len).any (fun p =>
    let t := fabNode s p
    routeStopped s die t.1 || routeStopped s t.1 die || !nodeOpen s t.1 t.2))

/-- A refused access of an update engine or firmware (01 R43). -/
def reservedAccess (s : State) (die unit : Nat) : State := raise s 0x0508 die unit none

/-- An uncorrectable record read, or a write whose read fails (09 R338, R340; 11 R406; 16 R525). -/
def readFaultAt (s : State) (k : Nat) : State :=
  let s := updGw s k (fun x => { x with readFault := true })
  raise (setBit s (gwReg k 0x10) 1) 0x0706 (k / 2) k none

/-- Writes bytes for the update engine of a gateway; a write that is not performed makes the vote skip (01 R43;
07 R272; 09 R340). -/
def engineWrite (s : State) (k a : Nat) (bs : List Byte) : State :=
  if engineMay s (k / 2) a bs.length then
    let r := writeMem (wakeRange s a bs.length) a (exchOut s a bs)
    if r.2 then r.1 else readFaultAt r.1 k
  else reservedAccess s (k / 2) k

/-- Where a gather chunk of a replica goes: the bank that the step writes (11 R385, R396). -/
def gatherAddr (s : State) (x : Shard) (j : Nat) : Nat := bankBase x (writeBank s) + j * 32768

/-- A gather chunk widened to BF16 into the replica of the bank that the step writes (04 R173; 11 R385,
R389, R398). -/
def takeGather (s : State) (k : Nat) (c : Chunk) (j : Nat) (x : Shard) (fmt : Nat) (sc : Bool) : State :=
  let f := (Fmt.ofCode fmt).getD .e4m3
  let rd (i : Nat) : Byte := c.data.getD i 0
  let v := (List.range 16384).map (fun e =>
    tileElem f sc rd (32 * (e / 4096) + e % 1024 / 32) (32 * (e / 1024 % 4) + e % 32))
  let r := convert .bf16 false false true 512 0 v
  let s := countNonFin s (some x.group) r.count
  answerChunk (engineWrite s k (gatherAddr s x j) (packCodes .bf16 r.codes)) c stOK

/-- A spike: not finite, or above μ + k σ once the group has its warm-up (11 R407). -/
def isSpike (x : Group) (l : W32) : Bool :=
  let bound := fadd x.mu (fmul (toF32 (ofInt x.cfg.k)) (fsqrt x.var))
  isNonFin (ofF32 l) ||
    (decide (x.cfg.warmup ≤ x.reports) && positive (addNum (ofF32 l) (negNum (ofF32 bound))))

/-- A loss report arrives and is tested (11 R407). -/
def takeLoss (s : State) (k : Nat) (c : Chunk) : State :=
  let g := (c.data.getD 4 0).toNat
  let l : W32 := BitVec.ofNat 32 (ofLe (c.data.take 4))
  let sp := isSpike (s.groups.get {} g) l
  let s := updGw s k (fun x => { x with loss := some (g, l, sp) })
  answerChunk { s with groups := s.groups.upd {} g (fun x => { x with spikeLast := sp }) } c stOK

/-- A gradient chunk goes into a buffer and sets its bitmap bit (11 R387, R388). -/
def takeGrad (s : State) (k i j slot fmt : Nat) (c : Chunk) : State :=
  answerChunk (updGw s k (fun x =>
    { x with bitmap := x.bitmap.set slot true
             bufs := x.bufs ++ [{ slot := slot, shard := i, index := j, fmt := fmt, data := c.data.drop 256 }] }))
    c stOK

/-- All 8 chunk buffers are occupied (11 R387). -/
def buffersFull (s : State) (k : Nat) : Bool := decide (8 ≤ (gw s k).bufs.length)

/-- A chunk on which the gateway can act now: `all` lets it take chunks, otherwise it only refuses and
counts duplicates. -/
def actable (s : State) (k : Nat) (all : Bool) (c : Chunk) : Bool :=
  match judge s k c with
  | .part | .hold => false
  | .bad _ | .dup => true
  | .loss => all
  | .grad _ _ _ _ => all && !buffersFull s k
  | .gather j x => all && !buffersFull s k && !engineWaits s (k / 2) (gatherAddr s x j) 32768

/-- The gateway acts on a chunk that has left its input. -/
def actOn (s : State) (k : Nat) (c : Chunk) (v : Verdict) : State :=
  match v with
  | .bad st => badChunk s k c st
  | .dup => dupChunk s k c
  | .loss => takeLoss s k c
  | .grad i j slot fmt => takeGrad s k i j slot fmt c
  | .gather j x =>
    (match c.gather with | some (fmt, sc, _) => takeGather s k c j x fmt sc | none => s)
  | _ => s

/-- The first chunk at a gateway's input that satisfies `p` leaves it and is acted on (11 R387). -/
def serve (s : State) (k : Nat) (p : Chunk → Bool) : State :=
  match (s.gwIn.get [] k).find? p with
  | some c => actOn { s with gwIn := s.gwIn.upd [] k (fun l => l.erase c) } k c (judge s k c)
  | none => s

/-- A chunk message joins the chunk of its identifier that is not complete, or becomes a new one
(11 R386). -/
def joinChunk (s : State) (k : Nat) (m : Msg) : List Chunk → List Chunk
  | [] => [{ id := chunkId m, data := m.data, src := .messages [m] }]
  | c :: t =>
    match c.src, c.gather with
    | .messages l, none =>
      if c.id = chunkId m && c.id ≠ lossId && c.data.length = 65536 && l.length = 1
          && (imageLen (hdrOfBytes c.data)).any (fun n => n > 65536) then
        { c with data := c.data ++ m.data, src := .messages (l ++ [m]) } :: t
      else c :: joinChunk s k m t
    | _, _ => c :: joinChunk s k m t

/-- A message of a type for a gateway has arrived: the port that brought it. -/
def chunkArrival (s : State) (k : Nat) (m : Msg) (t : Nat) : Option Nat :=
  if m.mtype = t && chunkGw m = k then (s.inbox.find? (fun e => e.2 = m)).map (·.1) else none

/-- A chunk message enters the gateway's input. -/
def intake (s : State) (k p : Nat) (m : Msg) : State :=
  { takeInbox s p m with gwIn := s.gwIn.upd [] k (joinChunk s k m) }

/-- CHUNK_GRAD: a chunk arrives and is checked; a bad chunk or a duplicate is answered (11 R386, R388). -/
def execChunkGrad (k : Nat) (m : Msg) (s : State) : Out :=
  let s := match chunkArrival s k m 5 with | some p => intake s k p m | none => s
  .next (serve s k (fun c => c.gather.isNone && actable s k false c))

/-- CHUNK_GATHER: taken, held or refused by its step tag (11 R398). -/
def execChunkGather (k : Nat) (m : Msg) (s : State) : Out :=
  let s := match chunkArrival s k m 6 with
    | some p =>
      let c : Chunk := { id := chunkId m, data := m.data, src := .messages [m], gather := some (m.fmt, m.scaled, m.step) }
      { takeInbox s p m with gwIn := s.gwIn.upd [] k (· ++ [c]) }
    | none => s
  .next (serve s k (fun c => c.gather.isSome && actable s k true c))

/-- CHUNK_TAKE: the first waiting chunk that can be taken enters a free buffer and is answered
(11 R387). -/
def execChunkTake (k : Nat) (s : State) : Out := .next (serve s k (actable s k true))

/-- LOSS_REPORT: a report arrives and is tested for a spike (11 R407). -/
def execLossReport (k : Nat) (m : Msg) (s : State) : Out :=
  let s := match chunkArrival s k m 5 with
    | some p => if chunkId m = lossId then intake s k p m else s
    | none => s
  .next (serve s k (fun c => c.id = lossId && c.gather.isNone && actable s k true c))

/-- Record bytes of a shard (11 R390). -/
def recBytes (x : Shard) : Nat := if x.rec16 then 16 else 8

/-- A gradient element of a chunk (11 R394). -/
def gradElem (c : ChunkBuf) (e : Nat) : Num :=
  let f : Fmt := if c.fmt = 0 then .fp32 else .bf16
  decodeElem f false (elemCode f (fun i => c.data.getD i 0) e)

/-- The row of a chunk's tile in which a parameter lies (11 R385). -/
def paramRow (e : Nat) : Nat := 32 * (e / 4096) + e % 1024 / 32

/-- The rule of a shard (11 R384, R391). -/
def ruleOf (s : State) (k : Nat) (x : Shard) : Rule :=
  match s.course with | some c => (c.rules.get [] k).getD x.rule { ops := [] } | none => { ops := [] }

/-- A record as a rule sees it (11 R390). -/
def openRecord (x : Shard) (bs : List Byte) (g : Num) (undef : Nat → W32) : RuleRun :=
  let f (i n : Nat) : Nat := ofLe ((bs.drop i).take n)
  if x.rec16 then { undef := undef, wide := true, p := f 0 4, m1 := f 4 4, m2 := f 8 4, aux := f 12 4, grad := g }
  else { undef := undef, wide := false, p := f 0 4, m1 := f 4 2, m2 := f 6 2, grad := g }

/-- The record's bytes again (11 R390). -/
def closeRecord (r : RuleRun) : List Byte :=
  if r.wide then leBytes 4 r.p ++ leBytes 4 r.m1 ++ leBytes 4 r.m2 ++ leBytes 4 r.aux
  else leBytes 4 r.p ++ leBytes 2 r.m1 ++ leBytes 2 r.m2

/-- The two halves of a stored parameter, widened (11 R394). -/
def halves (p : Nat) : W32 × Option W32 :=
  (BitVec.ofNat 32 (p % 65536 * 65536), some (BitVec.ofNat 32 (p / 65536 % 65536 * 65536)))

/-- The parameters of a group, run or copied in order from `e` (11 R389, R391): records, OUT pairs, counts
and squares. -/
def runGroup (rule : Rule) (u d : Nat) (x : Shard) (c : ChunkBuf) (e : Nat) : Nat → List Byte →
    List Byte × Table (W32 × Option W32) × Nat × List Num
  | 0, _ => ([], [], 0, [])
  | n + 1, bs =>
    let r := openRecord x (bs.take (recBytes x)) (gradElem c e) (fun t => Config.freeCell d (16 * e + t))
    let inside := decide (x.firstRow ≤ paramRow e) && decide (paramRow e ≤ x.lastRow)
    let r := if inside then runRule rule u r else r
    let o := runGroup rule u d x c (e + 1) n (bs.drop (recBytes x))
    (closeRecord r ++ o.1, (e, r.out.getD (halves r.p)) :: o.2.1, r.nf + o.2.2.1, r.squares ++ o.2.2.2)

/-- Adds counts and squares to a group's state (11 R402). -/
def watch (s : State) (k g nf : Nat) (sq : List Num) : State :=
  updGw (countNonFin s (some g) nf) k (fun x => { x with norms := x.norms.upd 0 g (fun c => sq.foldl normAdd c) })

/-- The oldest chunk buffer changed. -/
def updBuf (s : State) (k : Nat) (f : ChunkBuf → ChunkBuf) : State :=
  updGw s k (fun x => { x with bufs := modifyNth f 0 x.bufs })

/-- A snapshot has still to read this chunk of the bank that the step writes (11 R410). -/
def snapHolds (s : State) (k slot : Nat) : Bool :=
  match s.snap with
  | some x => decide (x.bank = writeBank s) && x.todo.contains (k, slot)
  | none => false

/-- A chunk's writes wait for a snapshot: counted once, with one event per snapshot (11 R410). -/
def snapWait (s : State) (k : Nat) (c : ChunkBuf) : State :=
  if c.held then s
  else
    let s := setBit (bump (updBuf s k (fun c => { c with held := true })) (gwReg k 0x20) 0 32 1) (gwReg k 0x10) 2
    match s.snap with
    | some x =>
      if x.waited then s
      else raise { s with snap := some { x with waited := true } } 0x0708 (k / 2) k none
    | none => s

/-- UPDATE_GROUP: the next 32 parameters of the oldest chunk: the rule runs or the records are copied from
the live bank to the other; VECTOR chunks only load their gradients (11 R382, R389 to R396, R402). -/
def execUpdateGroup (k : Nat) (s : State) : Out :=
  match (gw s k).bufs with
  | [] => .next s
  | c :: _ =>
    let e := 32 * c.next
    let x := (shardsOf s k)[c.shard]?
    match x with
    | none => .next s
    | some x =>
      if 512 ≤ c.next then .next s
      else if x.kind = .vector then
        let g := (List.range 32).map (fun i => gradElem c (e + i))
        .next (updBuf (watch s k x.group (g.countP isNonFin) (g.map (fun v => mulNum v v))) k
          (fun c => { c with next := c.next + 1 }))
      else if snapHolds s k c.slot then .next (snapWait s k c)
      else
        let n := recBytes x
        let off := (c.index * 16384 + e) * n
        let a := bankBase x s.coord.live + off
        let b := bankBase x (writeBank s) + off
        if engineWaits s (k / 2) a (32 * n) || engineWaits s (k / 2) b (32 * n) then .next s
        else if !engineMay s (k / 2) a (32 * n) || !engineMay s (k / 2) b (32 * n) then
          .next (updBuf (reservedAccess s (k / 2) k) k (fun c => { c with next := c.next + 1, failed := true }))
        else
          let r := readMem (wakeRange (wakeRange s a (32 * n)) b (32 * n)) a (32 * n)
          match r.fail with
          | some _ =>
            .next (updBuf (readFaultAt r.s k) k (fun c => { c with next := c.next + 1, failed := true }))
          | none =>
            let d := draw r.s
            let o := runGroup (ruleOf s k x) (s.coord.commits + 1) d.2 x c e 32
              (exchIn s a (readBytes r a (32 * n)))
            let s := (writeMem d.1 b (exchOut s b o.1)).1
            .next (updBuf (watch s k x.group o.2.2.1 o.2.2.2) k (fun c =>
              { c with next := c.next + 1, out := c.out ++ o.2.1 }))

/-- A whole tile of converted elements, with its scale bytes in the order of R150 (07 R267). -/
def tileBytes (f : Fmt) (sc : Bool) (r : Conv) : List Byte :=
  packCodes f r.codes ++
    (if sc then (List.range 512).map (fun j => BitVec.ofNat 8 (r.scales.getD (elemIndex (j / 4) (32 * (j % 4)) / 32) 127))
     else [])

/-- The exact values of a chunk's OUT elements (11 R395). -/
def outValues (c : ChunkBuf) : List Num :=
  c.out.map (fun e => outNum e.2.1 e.2.2)

/-- A gather to one target: a message, or the input of a gateway of this module (11 R395, R397). -/
def sendGather (s : State) (k id fmt : Nat) (sc : Bool) (bs : List Byte) (t : Nat × Nat) : State :=
  let tag := s.reqTag
  let m := { newMsg s 6 t.1 tag (t.2 + id * 2 ^ 32) bs with fmt := fmt, scaled := sc, step := s.steps % 65536 }
  let s := updGw { s with reqTag := (tag + 1) % 65536 } k (fun x => { x with gathers := x.gathers ++ [tag] })
  if t.1 = s.moduleId then
    toGateway s t.2 { id := id, data := bs, src := .messages [m], gather := some (fmt, sc, m.step) }
  else sendMsg s m

/-- The targets of a shard's gather list (11 R384). -/
def gatherTargets (s : State) (k : Nat) (x : Shard) : List (Nat × Nat) :=
  match s.course, x.gatherList with
  | some c, some i => (c.gathers.get [] k).getD i []
  | _, _ => []

/-- Where the tile of a chunk goes in the weight image of the bank that the step writes (11 R395, R396). -/
def imageAddr (s : State) (x : Shard) (j : Nat) : Nat :=
  (if writeBank s then x.out1 else x.out0) + j * storedBytes x.outFmt x.outScaled

/-- What the end of a chunk writes: the staged gradients of a VECTOR shard, or its tile of the weight image
(11 R395, R408). -/
def chunkWrites (s : State) (x : Shard) (j : Nat) : Nat × Nat :=
  if x.kind = .vector then (x.stage + j * 65536, 65536)
  else if x.outFmt = 15 then (lpBase, 0) else (imageAddr s x j, storedBytes x.outFmt x.outScaled)

/-- The weight image and the gathers of a chunk that has been fully applied (11 R395). -/
def publish (s : State) (k : Nat) (x : Shard) (c : ChunkBuf) : State :=
  let v := outValues c
  let s := match Fmt.ofCode x.outFmt with
    | some f =>
      let r := convert f x.outScaled false true 512 0 v
      engineWrite (countNonFin s (some x.group) r.count) k (imageAddr s x c.index) (tileBytes f x.outScaled r)
    | none => s
  match x.gatherList, Fmt.ofCode x.gatherFmt with
  | some _, some f =>
    let r := convert f x.gatherScaled false true 512 0 v
    (gatherTargets s k x).foldl (fun s t =>
      sendGather s k (x.firstChunk + c.index) x.gatherFmt x.gatherScaled (tileBytes f x.gatherScaled r) t)
      (countNonFin s (some x.group) r.count)
  | _, _ => s

/-- CHUNK_APPLIED: the last group has left the pipeline; the image is written, gathers are sent, VECTOR
gradients are staged, and the buffer is free (11 R387, R395, R408). -/
def execChunkApplied (k : Nat) (s : State) : Out :=
  match (gw s k).bufs with
  | [] => .next s
  | c :: t =>
    if c.next < 512 then .next s
    else if ((shardsOf s k)[c.shard]?).any (fun x =>
        let w := chunkWrites s x c.index
        engineWaits s (k / 2) w.1 w.2) then .next s
    else
      let s := updGw s k (fun x => { x with bufs := t, applied := x.applied + 1 })
      match (shardsOf s k)[c.shard]? with
      | none => .next s
      | some x =>
        if x.kind = .vector then
          let v := (List.range 16384).map (fun e => (toF32 (gradElem c e)).toNat)
          let s := engineWrite s k (x.stage + c.index * 65536) (packCodes .fp32 v)
          .next (sendAdd s (96 + k / 2) (.module (x.doneCtr + 1)) 1 none)
        else if c.failed then .next s
        else .next (publish s k x c)

/-- Every chunk slot of a shard is set. -/
def allSet (b : Table Bool) (base n : Nat) : Bool := (List.range n).all (fun i => b.get false (base + i))

/-- Every UPDATE and VECTOR shard has its chunks, and every done counter has risen (11 R397). -/
def shardsDone (s : State) (x : Gw) : Nat → List Shard → Bool
  | _, [] => true
  | base, y :: t =>
    (if y.kind = .update || y.kind = .vector then allSet x.bitmap base y.nChunks else true)
      && (if y.kind = .vector then
            satisfied (ctrVal s (.module y.doneCtr)) (x.doneBase.get 0 y.doneCtr + BitVec.ofNat 32 y.nChunks)
          else true)
      && shardsDone s x (base + y.nChunks) t

/-- ENGINE_FINISHED: the conditions of R397 hold and every taken chunk has been applied (11 R397). -/
def execEngineFinished (k : Nat) (s : State) : Out :=
  let x := gw s k
  if 16 ≤ k || x.state ≠ 1 || s.jobState ≠ 3 || x.bufs ≠ [] || (lossHere s k && x.loss.isNone) || x.gathers ≠ []
      || !shardsDone s x 0 (shardsOf s k) then .next s
  else .next (updGw s k (fun x => { x with state := 2 }))

/-- The action of a group for non-finite values and for a spike (11 R405). -/
def actions (s : State) (g : Nat) (x : Group) : Nat × Nat :=
  (if 0 < s.nfCnt.get 0 g then x.cfg.nfAction else 0,
   if s.gws.any (fun e => match e.2.loss with | some (h, _, sp) => decide (h = g) && sp | none => false)
   then x.cfg.spikeAction else 0)

/-- One group at the vote: its configuration takes effect, its actions raise events (11 R402, R404,
R405). -/
def voteGroup (s : State) (g : Nat) : State :=
  let x := s.groups.get {} g
  let x := { x with cfg := x.nextCfg.getD x.cfg, nextCfg := none }
  let a := actions s g x
  let s := if x.used && 1 ≤ a.1 then raise (setBit s (regKey 10 0x620) 0) 0x0701 15 g none else s
  let s := if x.used && 1 ≤ a.2 then raise (setBit s (regKey 10 0x620) 1) 0x0703 15 g none else s
  { s with groups := s.groups.set g x }

/-- The strongest action that applies in any group that the course uses. -/
def strongest (s : State) : Nat :=
  (List.range 64).foldl (fun m g =>
    let x := s.groups.get {} g
    let a := actions s g { x with cfg := x.nextCfg.getD x.cfg }
    if x.used then max m (max a.1 a.2) else m) 0

/-- Modules of the job (11 R399). -/
def jobModules (s : State) : Nat :=
  match s.course with | some c => (uniq (s.moduleId :: c.moduleSet)).length | none => 1

/-- The vote, formed and added to the step hurdle (11 R400 steps 1 and 2, R406; 16 R526). -/
def castVote (s : State) (h : Nat) (forced : Bool) : State :=
  let act := strongest s
  let skip := forced || s.stepErr || decide (2 ≤ act) || s.gws.any (fun e => e.2.readFault)
  let s := tally ((List.range 64).foldl voteGroup s)
  let s := { s with coord := { s.coord with voted := true, votedSkip := skip, freeze := act = 3 } }
  sendAdd s 104 (.module h) (if skip then 0x10001 else 0x10000) none

/-- COORDINATOR_VOTE: every engine of the module has finished and the last step is acknowledged
(11 R400). -/
def execCoordinatorVote (s : State) : Out :=
  match stepItems s with
  | some (h, _, _, _) =>
    if s.jobState ≠ 3 || s.coord.voted || s.coord.acking || s.gws.any (fun e => e.2.state = 1) then .next s
    else .next (castVote s h false)
  | none => .next s

/-- A commit folds the loss reports into their groups (11 R407). -/
def foldLoss (x : Group) (l : W32) : Group :=
  let alpha := toF32 (scaleNum (-(x.cfg.a : Int)) (.fin false 1 0))
  if x.reports = 0 then { x with mu := l, var := 0, reports := 1 }
  else
    let d := fadd l (toF32 (negNum (ofF32 x.mu)))
    let one : W32 := 0x3F800000
    { x with mu := fadd x.mu (fmul alpha d)
             var := fmul (fadd one (toF32 (negNum (ofF32 alpha)))) (fadd x.var (fmul (fmul alpha d) d))
             reports := min (x.reports + 1) 255 }

/-- Every report of the step is folded in (11 R407). -/
def foldLosses (s : State) : State :=
  s.gws.foldl (fun s e =>
    match e.2.loss with
    | some (g, l, _) => { s with groups := s.groups.upd {} g (fun x => foldLoss x l) }
    | none => s) s

/-- The epoch record (11 R400 step 5). -/
def epochRecord (s : State) : List Byte :=
  leBytes 8 s.steps ++ leBytes 1 (b2n s.coord.live) ++ leBytes 1 (b2n s.coord.lastVerdict)
    ++ leBytes 1 (b2n s.coord.frozen) ++ leBytes 53 0

/-- The decision with the hurdle's value `v`: commit or skip, the epoch record, the decision counter and the
ack (11 R400 steps 3 to 6). -/
def decideStep (s : State) (v : W32) : State :=
  match stepItems s with
  | some (_, a, d, ep) =>
    let m := jobModules s
    let commit := (v - s.coord.bs).toNat = m * 0x10000
    let s := if commit then foldLosses s else s
    let s := nextStep (latchGroups s)
    let x := s.coord
    let frz := x.freeze
    let s := { s with
      steps := s.steps + 1
      coord := { x with bs := v, live := if commit then !x.live else x.live, lastVerdict := !commit
                        commits := if commit then x.commits + 1 else x.commits
                        skips := if commit then x.skips else x.skips + 1
                        runSteps := x.runSteps + 1, runSkips := if commit then x.runSkips else x.runSkips + 1
                        voted := false, votedSkip := false, acking := true } }
    let s := if commit then s else raise s 0x0702 15 0 none
    let s := if engineMay s 8 ep 64 then (writeMem s ep (exchOut s ep (epochRecord s))).1 else reservedAccess s 8 0
    let s := sendAdd s 104 (.module d) 1 none
    sendAdd s 104 (.module a) (if frz then 0x10001 else 0x10000) none
  | none => s

/-- STEP_DECISION: the step hurdle reaches Bs + M × 0x1_0000 (11 R400). -/
def execStepDecision (s : State) : Out :=
  match stepItems s with
  | some (h, _, _, ep) =>
    let v := ctrVal s (.module h)
    if s.jobState ≠ 3 || engineWaits s 8 ep 64 || !s.coord.voted || !satisfied v (s.coord.bs + BitVec.ofNat 32 (jobModules s * 0x10000)) then
      .next s
    else .next (decideStep s v)
  | none => .next s

/-- STEP_ACK_DONE: the ack hurdle reaches Ba + M × 0x1_0000; a freeze halts the job (11 R400 step 6,
R406). -/
def execStepAckDone (s : State) : Out :=
  match stepItems s with
  | some (_, a, _, _) =>
    let w := ctrVal s (.module a)
    let m := jobModules s * 0x10000
    if s.jobState ≠ 3 || !s.coord.acking || !satisfied w (s.coord.ba + BitVec.ofNat 32 m) then .next s
    else
      let frozen := decide (m < (w - s.coord.ba).toNat)
      let s := { s with coord := { s.coord with ba := w, acking := false, freeze := false
                                                frozen := s.coord.frozen || frozen } }
      if frozen then
        let s := raise (setBit s (regKey 10 0x620) 2) 0x0704 15 0 none
        .next (haltAll { s with run := { s.run with skipped := true } })
      else .next s
  | none => .next s

/-- The chunks that a snapshot reads, in order (13 R461). -/
def snapChunks (s : State) (mask : Nat) : List (Nat × Nat) :=
  ((List.range 16).filter (bitOf mask)).flatMap (fun k =>
    ((shardsOf s k).foldl (fun (acc : Nat × List (Nat × Nat)) x =>
      (acc.1 + x.nChunks,
       if x.kind = .update || x.kind = .vector then
         acc.2 ++ (List.range x.nChunks).map (fun i => (k, acc.1 + i)) else acc.2)) (0, [])).2)

/-- Host bytes of a snapshot of `n` plain bytes (13 R461; 17 R554). -/
def snapBytes (s : State) (kind n : Nat) : Nat :=
  if kind = 0 && sealedJob s then 65600 * ((n + 65535) / 65536) else n

/-- SNAPSHOT (11 R410; 13 R449, R461). -/
def execSnapshot (src : Src) (dest limit kind fmt : Nat) (sc : Bool) (mask : Nat) (s : State) : Out :=
  command src .job false s (fun s =>
    let todo := snapChunks s mask
    if s.snap.isSome then .next (complete s src 0x04 0)
    else if 2 ≤ kind || 8 ≤ fmt || !tileOk fmt sc || 65536 ≤ mask
        || (kind = 1 && (bits dest 31 23 ≠ 0 || 2 ^ 59 ≤ dest || bits dest 39 32 ≠ 0))
        || limit < snapBytes s kind (todo.length * storedBytes fmt sc) then .next (complete s src stInvalid 0)
    else
      let x : Snap := { src := src, dest := dest, window := kind = 1, fmt := fmt, scaled := sc
                        bank := s.coord.live, step := s.steps, todo := todo }
      .next (finishSnap { s with snap := some x }))

/-- The chunk of a slot: its shard and its index (11 R388). -/
def slotChunk : Nat → List Shard → Option (Shard × Nat)
  | _, [] => none
  | n, x :: t => if n < x.nChunks then some (x, n) else slotChunk (n - x.nChunks) t

/-- The command's status is fixed and nothing more is read. -/
def snapFail (s : State) (st : Nat) : State :=
  finishSnap { s with snap := s.snap.map (fun x => { x with status := st, tags := [] }) }

/-- Output records of a sealed snapshot that are whole, or the rest at its end (17 R554). -/
def snapRecords (s : State) (x : Snap) (last : Bool) : Nat → State × Snap
  | 0 => (s, x)
  | n + 1 =>
    if x.buf.length < 65536 && !(last && x.buf ≠ []) then (s, x)
    else
      let r := egressRecord s 2 x.records (x.buf.take 65536)
      snapRecords (hostWrite r.1 (x.dest + x.pos) r.2)
        { x with buf := x.buf.drop 65536, records := x.records + 1, pos := x.pos + 65600 } last n

/-- A tile of a snapshot goes to its destination (13 R461). -/
def snapPut (s : State) (x : Snap) (bs : List Byte) : State :=
  if x.window then
    let target := setBits x.dest 58 32 (bits x.dest 58 32 + x.pos)
    let m := newMsg s 1 (bits x.dest 9 0) s.reqTag target bs
    let y := { x with pos := x.pos + bs.length }
    if bits x.dest 9 0 = s.moduleId then
      let r := winUnits s (msgUnits m true bs.length)
      { r.1 with snap := some { y with status := if r.2.1 = stOK then x.status else stDead } }
    else
      sendMsg { s with reqTag := (s.reqTag + 1) % 65536
                       snap := some { y with tags := y.tags ++ [(s.reqTag, s.timeNs)] } } m
  else if sealedJob s then
    let r := snapRecords s { x with buf := x.buf ++ bs } (x.todo = []) (bs.length / 65536 + 2)
    { r.1 with snap := some r.2 }
  else { hostWrite s (x.dest + x.pos) bs with snap := some { x with pos := x.pos + bs.length } }

/-- SNAPSHOT_CHUNK_READ: the next chunk of the pinned bank, while the engine is not reading it; requests not
answered for 100 µs end the command with TIMEOUT (10 R373; 11 R410; 13 R461). -/
def execSnapshotChunkRead (k slot : Nat) (s : State) : Out :=
  match s.snap with
  | none => .next s
  | some x =>
    if x.tags.any (fun t => decide (t.2 + 100000 ≤ s.timeNs)) then .next (snapFail s stTimeout)
    else if x.status ≠ 0 || x.todo.head? ≠ some (k, slot) then .next s
    else
      match slotChunk slot (shardsOf s k) with
      | none => .next s
      | some (y, j) =>
        let n := recBytes y
        let a := bankBase y x.bank + j * 16384 * n
        let x := { x with todo := x.todo.drop 1 }
        if engineWaits s (k / 2) a (16384 * n) then .next s
        else if !engineMay s (k / 2) a (16384 * n) then .next (snapFail (reservedAccess { s with snap := some x } (k / 2) k) stFault)
        else
          let r := readMem (wakeRange s a (16384 * n)) a (16384 * n)
          if r.fail.isSome then .next (snapFail { r.s with snap := some x } stFault)
          else
            let f := (Fmt.ofCode x.fmt).getD .fp32
            let bytes := exchIn s a (readBytes r a (16384 * n))
            let v := (List.range 16384).map (fun e => decodeElem .pb32 false (ofLe ((bytes.drop (e * n)).take 4)))
            let bs := tileBytes f x.scaled (convert f x.scaled false false 512 0 v)
            if !x.window && hostFails s (x.dest + x.pos) 65600 then
              .next (writeFault { r.s with snap := none } x.src x.dest (x.pos + 65600))
            else .next (finishSnap (snapPut r.s x bs))

/-- A Comet Watch configuration in its ranges (11 R403, R412; 13 R449). -/
def watchOk (c : GroupCfg) : Bool :=
  decide (c.nfAction ≤ 3) && decide (c.spikeAction ≤ 3) && decide (2 ≤ c.k) && decide (c.k ≤ 16) && decide (1 ≤ c.a)
    && decide (c.a ≤ 15) && decide (c.warmup ≤ 255)

/-- SET_WATCH: bytes 17 to 21 from the next vote, and clearing frozen (11 R404, R406; 13 R449, R450). -/
def execSetWatch (src : Src) (g : Nat) (cfg : GroupCfg) (b22 : Nat) (s : State) : Out :=
  command src .job false s (fun s =>
    let apply := bitOf b22 0
    let bad := apply && (!(s.groups.get {} g).used || !watchOk cfg)
    if 4 ≤ b22 || 64 ≤ g || bad then .next (complete s src stInvalid 0)
    else if bitOf b22 1 && s.jobState = 3 then .next (complete s src 0x04 0)
    else
      let s := if apply then { s with groups := s.groups.upd {} g (fun x => { x with nextCfg := some cfg }) } else s
      let s := if bitOf b22 1 then { s with coord := { s.coord with frozen := false } } else s
      .next (complete s src stOK 0))

end Sys2Proof.Machine
end

