-- ==== Sys2Proof/Machine/Capability.lean ====
section
/-! DEFINITION. The assignment of stations, the available splice modes, and the capability block (01 R25 to
R30, R44 to R46; 02 R81, R86; 06 R246, R249; 09 R345, R350). -/
namespace Sys2Proof.Machine
open Sys2Proof

/-- Logical cores that the next LOAD_COURSE gives a cluster (01 R27, R30). -/
def coresAfter (s : State) (g : Nat) : Nat := s.coresNext.get 8 g

/-- Cores of a die under a count of cores per cluster. -/
def dieCores (f : Nat → Nat) (d : Nat) : Nat := (List.range 12).foldl (fun t c => t + f (12 * d + c)) 0

/-- Cores of the module. -/
def moduleCores (f : Nat → Nat) : Nat := (List.range 8).foldl (fun t d => t + dieCores f d) 0

/-- The physical positions that hold `k` logical cores, with some positions failed (01 R25). -/
def placesOf (failed : List Nat) (k : Nat) : List Nat := ((List.range 9).filter (fun p => !failed.contains p)).take k

/-- The next assignment differs from the one in effect (01 R25, R45). -/
def pendingChange (s : State) : Bool :=
  (List.range 96).any (fun g =>
    decide (placesOf (s.assignNext.get [] g) (coresAfter s g) ≠ placesOf (failedPos s g) (cores s g)))

/-- Moon pair `p` of a die serves (01 R32). -/
def moonServes (s : State) (d p : Nat) : Bool := !s.ctl.moonOut.get false (2 * d + p)

/-- One moon pair serves all 12 clusters of the die (01 R32, R44). -/
def moonSingle (s : State) (d : Nat) : Bool := moonServes s d 0 != moonServes s d 1

/-- The splice channel of an edge has no lasting fault (02 R86). -/
def edgeOk (s : State) (e : Nat) : Bool := !s.edgesBad.get false e

/-- A splice mode is available (02 R78, R81). -/
def modeOk (s : State) (m : Nat) : Bool :=
  match m with
  | 0 => true
  | 1 => [6, 7, 8, 9].all (edgeOk s)
  | 2 => [0, 7, 3, 6, 2, 9, 5, 8].all (edgeOk s)
  | _ => [0, 1, 2, 9, 5, 4, 3, 6].all (edgeOk s)

/-- A Boolean per index as the bits of a number. -/
def bitsOf (n : Nat) (f : Nat → Bool) : Nat := (List.range n).foldl (fun v i => v + b2n (f i) * 2 ^ i) 0

/-- splice_ok (02 R86; 06 R249). -/
def spliceOk (s : State) : Nat := bitsOf 4 (modeOk s)

/-- ceiling_max: the ROM's power table, or that of a supplement in effect, never above 64 (06 R246;
log 27). -/
def ceilingMax (s : State) : Nat :=
  match s.suppsEff.find? (fun e => e.1 = 2) with
  | some (_, _, m) => min 64 (Config.powerTable m s.power.cap)
  | none => min 64 (52 * s.power.cap / 12000)

/-- Fault-map entries that retire a range, by kind (09 R348; 16 R540). -/
def retirements (s : State) (kind : Nat) : List FEntry :=
  s.vault.fmap.filter (fun e => e.kind = kind && e.action = 8)

/-- Ranges of a die's HBM3E that are retired (09 R350). -/
def hbmRetired (s : State) (d : Nat) : Nat :=
  (uniq (((retirements s 9).filter (fun e => e.location % 16 / 2 = d)).map (fun e => bits e.location 30 14))).length

/-- A die has lost its HBM3E: a stack failed, or 256 ranges are retired (09 R350, R352). -/
def hbmGone (s : State) (d : Nat) : Bool :=
  hbmFailed s d || decide (256 ≤ hbmRetired s d)
    || s.vault.fmap.any (fun e => e.kind = 8 && e.action = 5 && e.location / 2 = d)

/-- hbm_bytes (06 R249; 09 R350). -/
def hbmBytes (s : State) : Nat :=
  (List.range 8).foldl (fun t d => t + (if hbmGone s d then 0 else 0x003000000000 - 0x200000 * hbmRetired s d)) 0

/-- A hub die has a failed device (09 R345). -/
def lpGone (s : State) (h : Nat) : Bool :=
  lpFailed s h || s.vault.fmap.any (fun e => e.kind = 10 && e.action = 6 && e.location / 16 = h)

/-- lp_user_bytes (06 R249; 09 R345, R350). -/
def lpBytes (s : State) : Nat :=
  let r := 0x400000 * (uniq ((retirements s 11).map (·.location))).length
  if lpGone s 0 && lpGone s 1 then 0
  else if lpGone s 0 || lpGone s 1 then 977105059840 - r
  else 1954210119680 - r

/-- A port as the capability block gives it (06 R249). -/
def capPort (s : State) (p : Nat) : Nat :=
  let h := hport s p
  if h.state = 2 then putFields 1 [(10, 1, h.peerModule), (14, 11, h.peerPort)] else 0

/-- Bytes that hold bits of an index (06 R249). -/
def bitBytes (n : Nat) (f : Nat → Bool) : List Byte :=
  (List.range n).map (fun i => BitVec.ofNat 8 (bitsOf 8 (fun j => f (8 * i + j))))

/-- A cluster-store bank is usable (06 R249). -/
def bankOk (s : State) (i : Nat) : Bool := decide (0 < coresAfter s (i / 32)) && !s.banksBad.get false i

/-- A station is present under the next assignment. -/
def presentAfter (s : State) (n : Nat) : Bool := decide (n % 8 < coresAfter s (n / 8))

/-- The capability block: 4 KiB (06 R249). -/
def capBlock (s : State) : List Byte :=
  leBytes 2 1 ++ leBytes 2 0x1000 ++ leBytes 4 s.capGen ++ leBytes 1 0xA0 ++ leBytes 1 1 ++ leBytes 2 1
    ++ leBytes 2 (s.moduleId % 1024) ++ leBytes 2 (moduleCores (coresAfter s))
    ++ (List.range 8).flatMap (fun d => leBytes 1 (dieCores (coresAfter s) d))
    ++ leBytes 1 (spliceOk s) ++ leBytes 1 (ceilingMax s) ++ leBytes 2 0 ++ leBytes 4 s.power.cap
    ++ leBytes 2 600 ++ leBytes 2 1800 ++ leBytes 2 2100 ++ leBytes 2 1600
    ++ leBytes 8 (hbmBytes s) ++ leBytes 8 (lpBytes s) ++ leBytes 8 0
    ++ bitBytes 96 (presentAfter s) ++ bitBytes 384 (bankOk s)
    ++ (List.range 16).flatMap (fun p => leBytes 4 (capPort s p)) ++ List.replicate 3488 0

/-- RING_DIE_CORES (01 R44). -/
def dieCoresReg (s : State) (d : Nat) : Nat :=
  (List.range 12).foldl (fun v c => v + cores s (12 * d + c) * 2 ^ (4 * c)) 0
    + dieCores (cores s) d * 2 ^ 48 + b2n (moonSingle s d) * 2 ^ 55

/-- RING_MODULE_CORES (01 R45). -/
def moduleCoresReg (s : State) : Nat :=
  moduleCores (cores s) + b2n (pendingChange s) * 2 ^ 10 + b2n s.ctl.hd1 * 2 ^ 11

/-- RING_SPLICE_AVAIL (02 R86). -/
def spliceAvailReg (s : State) : Nat := spliceOk s + bitsOf 10 (edgeOk s) * 2 ^ 4

/-- A lasting fault takes physical position `p` of a cluster out of the next assignment, or with `p` none
the whole cluster (01 R27, R30). -/
def failPosition (s : State) (g : Nat) (p : Option Nat) : State :=
  let l := s.assignNext.get [] g
  let l := match p with | some p => if l.contains p then l else l ++ [p] | none => l
  let k := match p with
    | none => 0
    | some _ => if coresAfter s g = 0 then 0 else if l.length ≤ 1 then 8 else if l.length = 2 then 7 else 0
  { s with assignNext := s.assignNext.set g l, coresNext := s.coresNext.set g k }

/-- The next assignment takes effect (01 R30, R46). -/
def applyAssignment (s : State) : State :=
  { s with coresEff := s.coresNext, assign := s.assignNext }

end Sys2Proof.Machine
end

