-- ==== Sys2Proof/Machine/Job.lean ====
section
/-! DEFINITION. The end of RUNs and of jobs: fault stops, completion of a RUN, HALT, and what END_JOB and
every reset do (07 R271 to R273; 08 R316, R317; 13 R456, R457, R463; 16 R527, R528; 17 R562). -/
namespace Sys2Proof.Machine
open Sys2Proof

/-- The addresses of a bank (07 R261, R264). -/
def bankSpan (b : Nat) : Nat × Nat :=
  if b < 6144 then (pocketAddr (b / 8) (b % 8 * 0x80000), 0x80000)
  else (storeAddr ((b - 6144) / 32) + (b - 6144) % 32 * 0x400000, 0x400000)

/-- A bank zeroised, with valid check symbols (07 R271). -/
def zeroBank (s : State) (b : Nat) : State :=
  let r := bankSpan b
  zeroise s r.1 (r.1 + r.2)

/-- Banks of a mode. -/
def banksOf (s : State) (mode : Nat) : List Nat := (s.bankMode.filter (fun e => e.2 = mode)).map (·.1)

/-- Every bank in its state between RUNs: KEEP in RETAIN, every other OFF (07 R270, R272). -/
def restBanks (s : State) : State :=
  { s with bankState := s.bankMode.map (fun e => (e.1, if e.2 = 2 then 2 else 0)) }

/-- The first step of a fault stop: FAULT_N low, the event, and the vote of an open step (16 R527). -/
def stopStep1 (s : State) : State :=
  let s := raise { s with stop := { s.stop with active := true, stage := 1 } } 0x0C0A 15 0 none
  match stepItems s with
  | some (h, _, _, _) => if stepOpen s && !s.coord.voted then castVote s h true else s
  | none => s

/-- The dump of a fault stop, with which the RUN will end with FAULT; during a dump of type 1 it is recorded only, and
that dump ends the RUN (08 R328; 16 R527 step 3). -/
def stopStep3 (s : State) : State :=
  let t := { s with stop := { s.stop with stage := 2 }
                    run := if dumpEnds s then s.run else { s.run with fault := true } }
  startDump t 3 s.stop.event 0xFFFF none

/-- A fault stop waits for the decision of an open step (16 R527 step 2). -/
def stopWaits (s : State) : Bool := stepOpen s && !s.run.portLost

/-- Every station that an error halts has reached its halt (16 R527). -/
def allHalted (s : State) : Bool := s.stns.all (fun e => !e.2.haltNext || e.2.run ≠ .issuing)

/-- FAULT_STOP: it begins when every station halted by the error has halted, or 100 µs after it; a further
command goes on when the open step is decided, or discards it where a used port is lost (16 R527). -/
def execFaultStop (s : State) : Out :=
  if !s.stop.wanted || (s.jobState ≠ 3 && s.jobState ≠ 2) then .next s
  else if s.stop.stage = 0 then
    if !allHalted s && s.timeNs < s.stop.since + 100000 then .next s
    else
      let s := stopStep1 s
      if stopWaits s then .next s else .next (stopStep3 (discardStep s))
  else if s.stop.stage = 1 then
    if stopWaits s then .next s else .next (stopStep3 (discardStep s))
  else .next s

/-- A fault stop that HALT or END_JOB finds under way goes to its end at once, with the open step discarded
(16 R527). -/
def endStop (s : State) : State :=
  let s := if s.stop.wanted && s.stop.stage = 0 then stopStep1 s else s
  let s := discardStep s
  let s := if s.stop.stage = 1 then stopStep3 s else s
  if s.dump.state = 1 then finishDump s else s

/-- The status of a RUN (13 R456). -/
def runStatus (s : State) : Nat :=
  if s.run.fault then stFault
  else if s.run.timeout then stTimeout
  else if s.run.skipped || 0 < s.coord.runSkips then 0x0B
  else stOK

/-- The result of a RUN (13 R456). -/
def runResult (s : State) : Nat :=
  putFields 0 [(31, 0, s.runNo), (47, 32, s.coord.runSteps), (63, 63, b2n s.run.byHalt)]

/-- Clusters whose clocks eclipse has lowered ramp back (08 R322). -/
def wakeClocks (s : State) : State := s.clus.foldl (fun s e => leaveEclipse s e.1) s

/-- A RUN is over: stations idle, engines IDLE, counters and copies of job hurdles 0, banks at rest, and the run number
advances (07 R272, R273; 08 R316, R317). -/
def afterRun (s : State) : State :=
  let s := wakeClocks (restBanks ((banksOf s 1).foldl zeroBank s))
  { s with
    jobState := 2, runNo := (s.runNo + 1) % 2 ^ 32
    stns := s.stns.map (fun e => (e.1, { e.2 with run := .idle, haltNext := false, pend := none, released := false
                                                  eclipse := false, lent := 0, wdog := 0 }))
    engines := s.engines.map (fun e => (e.1, idleEngine e.2))
    coreCtr := [], cluCtr := [], dieCtr := [], modCtr := [], jobSum := []
    gws := s.gws.map (fun e => (e.1, { e.2 with doneBase := [] }))
    waiters := [], valMsgs := [], seen := [], jobDown := [], stepErr := false
    stop := { active := s.stop.active }
    run := { portLost := s.run.portLost } }

/-- The RUN completes: its completion, then those of the HALTs that ended it (13 R456, R457). -/
def completeRun (s : State) : State :=
  let s := discardStep s
  let st := runStatus s
  let r := runResult s
  let run := s.run
  let s := afterRun s
  let s := match run.src with | some c => complete s c st r | none => s
  run.halts.foldl (fun s c => complete s c stOK 0) s

/-- Stride issue stops in every unit, and the open step is discarded (13 R457). -/
def haltRun (s : State) : State :=
  haltAll (endStop { s with run := { s.run with byHalt := true } })

/-- HALT: during a RUN it stops every unit, and completes after the RUN; in LOADED it does nothing
(13 R457). -/
def execHalt (src : Src) (s : State) : Out :=
  command src .job false s (fun s =>
    if s.jobState = 3 then
      .next (haltRun { s with run := { s.run with halts := s.run.halts ++ [src] } })
    else .next (complete s src stOK 0))

/-- Every general core that the course names has ended or halted (13 R456). -/
def gcsEnded (s : State) : Bool :=
  match s.course with
  | some c => c.gcs.all (fun e => e.2.isNone || (gcOf s e.1).state = .halted)
  | none => true

/-- Every engine is IDLE or parked (07 R273; 13 R456). -/
def enginesDone (s : State) : Bool :=
  s.engines.all (fun e => e.2.state = .idle || (e.2.state = .parked && e.2.request.isNone))

/-- No effect of a station's operation is on its way, and no drain runs (log 31). -/
def settled (s : State) : Bool :=
  s.clus.all (fun e => e.2.timed.isEmpty) && s.arrs.all (fun e => e.2.drains.isEmpty)

/-- RUN_COMPLETE: every station has halted, every general core has ended, every engine is IDLE, nothing is
on its way, and no dump or fault stop is under way (13 R456; log 31). -/
def execRunComplete (s : State) : Out :=
  if s.jobState ≠ 3 || !s.run.started || s.dump.state = 1 || (s.stop.wanted && s.stop.stage ≠ 3)
      || (List.range 768).any (fun n => present s n && (stn s n).run ≠ .halted)
      || !gcsEnded s || !enginesDone s || !settled s then .next s
  else .next (completeRun s)

/-- The aligned 4 MiB ranges of LPDDR5X that the job used: reserved by the course or reached (13 R463). -/
def usedRanges (s : State) : List Nat :=
  uniq ((s.reached.filter (·.2)).map (·.1) ++ (match s.course with
    | some c => c.reserves.flatMap (fun r =>
        if r.1 < lpBase || r.2 = 0 then []
        else (List.range ((r.1 + r.2 - 1 - lpBase) / 0x400000 + 1 - (r.1 - lpBase) / 0x400000)).map
          (fun i => (r.1 - lpBase) / 0x400000 + i))
    | none => []))

/-- Zeroisation at the end of a job: all SRAM and HBM3E, the exchange and dump regions, and the LPDDR5X that
the job used; its length in µs is measured (13 R463; 15 R515; 17 R561, R562; log 29). -/
def zeroJob (s : State) : State :=
  let s := (usedRanges s).foldl (fun s i => zeroise s (lpBase + 0x400000 * i) (lpBase + 0x400000 * (i + 1))) s
  let s := zeroise (zeroise (zeroise s 0 0x018000000000) lpBase 0x024004000000) storeSpan 0x0408C0000000
  let d := draw s
  raise { d.1 with zeroDraw := some d.2 } 0x0A07 15 0 none

/-- A port keeps its link and loses what belonged to the job (10 R368, R370). -/
def clearPort (h : HPort) : HPort := { h with counter := 0, txQ := [], hurQ := [], rx := [] }

/-- What belongs to a job is gone: windows closed, keys destroyed, the course and its tables cleared, LFSR
states and counters zeroised; NO_JOB (13 R463; 04 R171; log 29). -/
def jobless (s : State) : State :=
  let s := wakeClocks s
  { s with
    jobState := 0, course := none, keys := { loads := s.keys.loads }
    stns := (List.range 768).map (fun n => (n, { lfsr := 0 }))
    arrs := [], wins := [], ofls := []
    engines := s.engines.map (fun e => (e.1, { doneCnt := e.2.doneCnt }))
    clus := s.clus.map (fun e => (e.1, { e.2 with
      cyc := 0, hold := 0, bpWait := false, tok := 0, timed := [], loans := [], borrowQ := [], eclipsed := false
      lowered := false, gc := {} }))
    bankMode := [], bankState := [], coreCtr := [], cluCtr := [], dieCtr := [], modCtr := [], jobSum := []
    adds := [], waiters := [], valMsgs := [], seen := [], jobUp := [], jobDown := []
    copies := [], inbox := [], inHur := [], gwIn := [], gws := [], groups := [], nfCnt := []
    ports := s.ports.map (fun e => (e.1, clearPort e.2)), snap := none
    stop := {}, stepErr := false, run := {}
    dump := { s.dump with state := if s.dump.state = 1 then 0 else s.dump.state, src := none, held := [] } }

/-- The end of a job: zeroised and gone (13 R463). -/
def clearJob (s : State) : State := { jobless (zeroJob s) with reached := [] }

/-- Commands that wait for a window to close complete (07 R289). -/
def closeAll (s : State) : State :=
  s.wins.foldl (fun s e => e.2.closers.foldl (fun s c => complete s c stOK 0) s) s

/-- COPYs that wait when END_JOB ends their job complete with FAULT (log 30). -/
def dropCopies (s : State) : State :=
  s.copies.foldl (fun s c => complete s c.src stFault 0) { s with copies := [] }

/-- A SNAPSHOT that END_JOB ends completes with FAULT (log 30). -/
def dropSnap (s : State) : State :=
  match s.snap with
  | some x => complete { s with snap := none } x.src stFault 0
  | none => s

/-- END_JOB (13 R463; log 28). -/
def execEndJob (src : Src) (s : State) : Out :=
  command src .job false s (fun s =>
    let job := jobNo s
    let s := if s.jobState = 3 then completeRun (haltRun s) else endStop s
    .next (complete (clearJob (dropSnap (dropCopies (closeAll s)))) src stOK job))

end Sys2Proof.Machine
end

