-- ==== Sys2Proof/Machine/Vault.lean ====
section
/-! DEFINITION. The vault: transactions, the fault map, the event log, lifetime telemetry, reads of its areas,
supplements, enrollment (16 R539, R540; 17 R557 to R559; 18 R563 to R577). -/
namespace Sys2Proof.Machine
open Sys2Proof

/-- VLT_STATUS (18 R585). -/
def vltStatus : Nat := regKey 10 0xA00

/-- The vault is FAILED (18 R567). -/
def vaultFailed (s : State) : Bool := s.vault.state = 3

/-- A transaction may begin: no supply warning, and the vault takes writes (18 R565, R571). -/
def vaultOpen (s : State) : Bool := s.vault.state = 0 && !s.power.warn

/-- A block whose program fails is retired and the write goes to a spare one; the vault becomes READ_ONLY
when none is left (18 R569, R571; log 35). -/
def wear (s : State) : State :=
  if !s.vault.blockFails then s
  else
    let v := s.vault
    let s := raise { s with vault := { v with blockFails := false, retired := min 65535 (v.retired + 1)
                                              spare := v.spare - 1 } } 0x0B07 15 0 none
    let s := if s.vault.spare < 656 && !s.vault.sparesWarned then
        raise (setBit { s with vault := { s.vault with sparesWarned := true } } vltStatus 11) 0x0B08 15 0 none
      else s
    if s.vault.spare = 0 then { s with vault := { s.vault with state := 2 } } else s

/-- One transaction commits (18 R564). -/
def commitTxn (s : State) (f : Vault → Vault) : State :=
  let s := { s with vault := { f s.vault with txn := (s.vault.txn + 1) % 2 ^ 64 } }
  wear s

/-- The key of a unit's physical fault: 0 none, 1 a fault that its test reproduces, 2 out of service, 3 a
range that is retired (16 R530 to R540; log 8). -/
def unitKey (kind loc : Nat) : Nat :=
  if kind = 9 || kind = 11 then kind * 2 ^ 40 + loc else kind * 65536 + loc

/-- The state with a unit's physical fault set. -/
def setDefect (s : State) (k v : Nat) : State :=
  { s with defects := if v = 0 then s.defects.drop k else s.defects.set k v }

/-- Spare rows and ranges in use by fault-map entries in effect, for unit `u` (09 R353). -/
def sparesOf (s : State) (u : Nat) : Nat :=
  (s.vault.fmap.filter (fun e => e.state = 1 &&
    (if u < 16 then e.kind = 9 && e.action = 7 && e.location % 16 = u else e.kind = 11 && e.action = 9))).length

/-- Spares of a unit: 1,024 rows, or 64 ranges, 32 with the tier degraded (09 R348, R349). -/
def spareMax (s : State) (u : Nat) : Nat := if u < 16 then 1024 else if lpFailed s 0 || lpFailed s 1 then 32 else 64

/-- A lasting fault in the splice channel of an edge: edge_ok, RING_ERR_STATUS of the 2 dies, and its event (02 R86,
R87, R90; log 61). -/
def edgeFail (s : State) (e : Nat) : State :=
  let s := ((List.range 8).filter (edgeJoins e)).foldl (fun s d =>
    latch s (regKey d 0x10) 7 7 [(22, 16, 0), (23, 23, 0), (26, 24, 7)]) s
  raise s 0x0108 15 0 (some e)

/-- Fault-map entries that use a spare of their tier: rows of one stack, or LPDDR5X ranges (09 R348). -/
def remaps (s : State) (kind loc : Nat) : Nat :=
  (s.vault.fmap.filter (fun e => e.kind = kind
    && (if kind = 9 then e.action = 7 && e.location % 16 = loc % 16 else e.action = 9))).length

/-- The action of a lasting fault's entry; the entry of an edge names its channel by the action, 4 for the splice
channel (09 R348; 16 R540, unit-kind table). -/
def entryAction (s : State) (e : FEntry) : Nat :=
  match e.kind with
  | 1 | 2 | 3 => 1
  | 4 => 2
  | 5 => 3
  | 6 => e.action
  | 8 => 5
  | 9 => if remaps s 9 e.location < 1024 then 7 else 8
  | 10 => 6
  | 11 => if remaps s 11 e.location < spareMax s 16 then 9 else if e.location < 0x10010 then 0 else 8
  | 12 => 10
  | 13 | 14 => 11
  | _ => 0

/-- Both moon pairs of a die out of service retire its clusters (15 R507; 16 R536). -/
def retireDies (s : State) : State :=
  (List.range 8).foldl (fun s d =>
    if !s.ctl.moonDead.get false (2 * d) || !s.ctl.moonDead.get false (2 * d + 1) then s
    else (List.range 12).foldl (fun s c => failPosition s (12 * d + c) none) s) s

/-- What an entry takes out of use or out of the next assignment (01 R27, R30; 02 R86; 16, unit-kind table). -/
def removeUnit (s : State) (kind loc action : Nat) : State :=
  match kind with
  | 1 | 2 | 3 => failPosition s (12 * bits loc 2 0 + bits loc 6 3) (some (bits loc 10 7))
  | 4 => failPosition s loc none
  | 5 => { s with banksBad := s.banksBad.set loc true }
  | 6 => if action = 4 then { s with edgesBad := s.edgesBad.set loc true } else s
  | 12 => setDefect s (unitKey 12 loc) 2
  | 13 => retireDies { s with ctl := { s.ctl with moonOut := s.ctl.moonOut.set loc true
                                                  moonDead := s.ctl.moonDead.set loc true } }
  | 14 => { s with ctl := if loc = 0 then { s.ctl with hd0Ok := false } else { s.ctl with hd1Ok := false } }
  | _ => s

/-- What shows that an entry is made: a splice channel, or spares that are exhausted. The spec names no device of
the LPDDR5X ranges, which spread over all of them: first_src is free there (02 R87, R90; 09 R348, R354; log 63). -/
def announce (s : State) (e : FEntry) : State :=
  if e.kind = 6 && e.action = 4 then edgeFail s e.location
  else if e.kind = 9 && e.action = 8 then
    latch s (memErrKey (e.location % 16 / 2)) 4 4 [(19, 16, e.location % 2), (26, 24, 4)]
  else if e.kind = 11 && e.action ≠ 9 then
    let d := draw s
    let src := (Config.freeWord d.2).toNat % 16
    let s := ((List.range 2).filter (fun h => !lpFailed d.1 h)).foldl (fun s h =>
      latch s (memErrKey (8 + h)) 4 4 [(19, 16, src), (26, 24, 4)]) d.1
    if e.action = 0 then raise s 0x0505 (memDie s (lpBase + e.location * 0x400000)).1 0 none else s
  else s

/-- An entry as the map takes it: its action, and for an LPDDR5X range the decode in effect (09 R349; 16 R540). -/
def entryOf (s : State) (e : FEntry) : FEntry :=
  { e with action := entryAction s e, full := e.kind = 11 && !lpFailed s 0 && !lpFailed s 1 }

/-- A fault-map entry joins the map: its unit leaves the next assignment or use, the generation rises, and the
capability block is rewritten (06 R249; 16 R539; 17 R545). -/
def commitFault (s : State) (e : FEntry) : State :=
  let e := entryOf s e
  let s := removeUnit (announce s e) e.kind e.location e.action
  rewriteCap (commitTxn s (fun v => { v with fmap := v.fmap ++ [e], mapGen := (v.mapGen + 1) % 2 ^ 32 }))

/-- Entries of the fault map, waiting ones included. -/
def mapLoad (s : State) : Nat :=
  s.vault.fmap.length + (s.vault.queue.filter (fun t => match t with | .fault _ => true | _ => false)).length

/-- A lasting fault asks for its entry; a full map keeps it in the event log only (16 R539). -/
def recordFault (s : State) (e : FEntry) : State :=
  if 32768 ≤ mapLoad s || s.vault.state ≥ 2 then s
  else { s with vault := { s.vault with queue := s.vault.queue ++ [.fault e] } }

/-- Entries that the event log retains (18 R563). -/
def logMax : Nat := 33554432

/-- Log entries are written with their sequence numbers; the oldest give way (18 R573). -/
def appendLog (v : Vault) (l : List LogEntry) : Vault :=
  let l := ((List.range l.length).zip l).map (fun e => { e.2 with seq := v.logSeq + e.1 })
  let all := v.log ++ l
  { v with log := all.drop (all.length - logMax), logSeq := v.logSeq + l.length }

/-- A transaction runs, unless the vault takes no write (18 R564, R567, R571). -/
def runTxn (s : State) (t : Txn) : State :=
  if s.vault.state ≠ 0 then s
  else
    match t with
    | .fault e => commitFault s e
    | .log l => commitTxn s (fun v => appendLog v l)
    | .life => commitTxn s (fun v =>
        { v with lifeSaved := { v.life with seconds := v.life.seconds + s.timeNs / 1000000000 } })

/-- The first waiting transaction runs (18 R564, R565; 14 R492). -/
def execVaultTransaction (s : State) : Out :=
  match s.vault.queue with
  | [] => .next s
  | t :: q => if s.power.warn then .next s else .next (runTxn { s with vault := { s.vault with queue := q } } t)

/-- Every waiting transaction runs, in the order requested (18 R565). -/
def drainVault (s : State) : State := s.vault.queue.foldl runTxn { s with vault := { s.vault with queue := [] } }

/-- The transaction of a command commits behind those that wait (18 R565). -/
def commitNow (s : State) (f : Vault → Vault) : State := commitTxn (drainVault s) f

/-- EVENT_LOG_COMMIT: every 1 s the buffer goes to the event log (18 R571, R573). -/
def execEventLogCommit (s : State) : Out :=
  if s.vault.buf = [] || s.vault.state ≠ 0 then .next s
  else .next { s with vault := { s.vault with buf := [], queue := s.vault.queue ++ [.log s.vault.buf] } }

/-- LIFETIME_TELEMETRY_COMMIT: every 600 s (18 R571, R576). -/
def execLifetimeTelemetryCommit (s : State) : Out :=
  if s.vault.state ≠ 0 || s.power.stage < 4 then .next s
  else .next { s with vault := { s.vault with queue := s.vault.queue ++ [.life] } }

/-- The vault becomes FAILED: counters read 0 and nothing enrolled is left (15 R508; 18 R567). -/
def failVault (s : State) : State :=
  raise { s with vault := { s.vault with state := 3, counters := [], courseKeys := [], suppKey := 0, cert := false
                                         supps := [], fmap := [], queue := [] } } 0x0B05 15 0 none

/-- A read of a dual area: one bad copy gives way to the other, which replaces it where the vault takes writes, and two
fail the vault (14 R492; 18 R567, R571). -/
def readDual (s : State) (fmap : Bool) : State :=
  let bad := if fmap then s.vault.badMap else s.vault.badEssential
  if bad = 0 || vaultFailed s then s
  else if bad = 1 then
    let s := if vaultOpen s then commitTxn s (fun v => if fmap then { v with badMap := 0 } else { v with badEssential := 0 })
      else s
    raise (setBit s vltStatus 8) 0x0B03 15 0 none
  else failVault s

/-- A fault-map entry, 16 bytes (16 R540). -/
def fentryBytes (e : FEntry) : List Byte :=
  leBytes 1 e.kind ++ leBytes 1 e.action ++ leBytes 1 e.state ++ leBytes 1 0 ++ leBytes 4 e.location
    ++ leBytes 2 e.event ++ leBytes 2 0 ++ leBytes 4 e.hours

/-- The output of READ_FAULT_MAP (16 R540). -/
def faultMapBytes (s : State) : List Byte :=
  leBytes 4 0x464D4150 ++ leBytes 2 1 ++ leBytes 2 0 ++ leBytes 4 s.vault.fmap.length ++ leBytes 4 s.vault.mapGen
    ++ leBytes 4 (hoursOf s) ++ List.replicate 44 0 ++ s.vault.fmap.flatMap fentryBytes

/-- A log entry as a read returns it (18 R568, R573, R574). -/
def logBytes (e : LogEntry) : List Byte :=
  if e.unreadable then List.replicate 28 0 ++ leBytes 1 4 ++ List.replicate 3 0
  else
    evRecord e.ev e.ev.isSealed false ++ leBytes 8 e.seq ++ leBytes 4 e.hours
      ++ leBytes 1 (b2n e.ev.isSealed + 2 * b2n e.gap) ++ List.replicate 3 0

/-- Bytes of a measured quantity: free values of a draw (log 36). -/
def measured (d i n : Nat) : List Byte := (List.range n).map (fun j => Config.freeByte d (i + j))

/-- Spare rows or ranges used by a stack or device (09 R353). -/
def dramOf (s : State) (u : Nat) : Dram := s.dram.get {} u

/-- The state with a stack or device changed. -/
def updDram (s : State) (u : Nat) (f : Dram → Dram) : State := { s with dram := s.dram.upd {} u f }

/-- A temperature readout of a stack or device, which temp_c shows (09 R346, R353). -/
def readout (s : State) (u temp : Nat) : State := updDram s u (fun d => { d with temp := temp % 256 })

/-- Lifetime telemetry: counts as given, energy, hours and erase counts as measured in draw `d` (18 R576;
log 36). -/
def lifeBytes (s : State) (l : Life) (head : List Byte) (d : Nat) : List Byte :=
  head ++ leBytes 8 l.seconds ++ leBytes 4 l.thermal ++ leBytes 4 l.warnings ++ leBytes 4 l.resets
    ++ leBytes 4 l.recovered ++ measured d 0 8 ++ leBytes 4 s.vault.maxErase ++ measured d 8 4
    ++ leBytes 4 s.vault.retired ++ leBytes 4 s.vault.spare ++ leBytes 8 0
    ++ (List.range 16).flatMap (fun k => measured d (16 + 16 * k) 16 ++ leBytes 2 (dramOf s k).sparesUsed
        ++ List.replicate 14 0)
    ++ (List.range 32).flatMap (fun m => measured d (512 + 16 * m) 12 ++ leBytes 4 0)
    ++ List.replicate 3008 0

/-- The end of a vault area; none for an area that does not exist (18 R574, R576, R577). -/
def areaEnd (s : State) (area : Nat) : Option Nat :=
  match area with
  | 0 => some (32 * s.vault.log.length)
  | 1 => some 4096
  | 2 => some 512
  | 3 => some 1088
  | _ => none

/-- A public key as area 3 gives it (18 R577). -/
def keyBytes (k : Nat) : List Byte := leBytes 64 k

/-- The bytes of a range of a vault area, with the state after the read (18 R565, R568, R574, R576,
R577). -/
def readArea (s : State) (area off len : Nat) : State × List Byte :=
  match area with
  | 0 =>
    let es := (s.vault.log.drop (off / 32)).take ((off + len + 31) / 32 - off / 32)
    let s := if es.any (·.unreadable) then raise (setBit s vltStatus 9) 0x0B04 15 0 none else s
    (s, ((es.flatMap logBytes).drop (off % 32)).take len)
  | 1 =>
    let d := draw s
    (d.1, ((lifeBytes d.1 s.vault.lifeSaved (leBytes 4 0x4C494645 ++ leBytes 2 1 ++ leBytes 2 0) d.2).drop off).take len)
  | 2 =>
    let s := readDual s false
    (s, (((List.range 64).flatMap (fun i => leBytes 8 (s.vault.counters.get 0 i))).drop off).take len)
  | _ =>
    let s := readDual s false
    (s, (((List.range 16).flatMap (fun i => keyBytes (s.vault.courseKeys.get 0 i)) ++ keyBytes s.vault.suppKey).drop
      off).take len)

/-- VAULT_READ (13 R448 to R450; 18 R565, R574, R577). -/
def execVaultRead (src : Src) (addr off len area : Nat) (s : State) : Out :=
  command src .any true s (fun s =>
    match areaEnd s area with
    | none => .next (complete s src stInvalid 0)
    | some n =>
      if n < off + len then .next (complete s src stInvalid 0)
      else
        let r := readArea s area off len
        toHost r.1 src addr r.2 (fun s => complete s src stOK (len % 2 ^ 32)))

/-- READ_FAULT_MAP (13 R450; 16 R540). -/
def execReadFaultMap (src : Src) (addr len : Nat) (s : State) : Out :=
  command src .any false s (fun s =>
    let s := readDual s true
    let bs := faultMapBytes s
    if len < bs.length then .next (complete s src stInvalid 0)
    else toHost s src addr bs (fun s =>
      complete s src stOK (bs.length % 2 ^ 32 + s.vault.fmap.length * 2 ^ 32)))

/-- Header bytes that R559 allows. -/
def suppHeadOk (p : Supplement) : Bool :=
  p.magic = 0x53555050 && decide (1 ≤ p.type) && decide (p.type ≤ 3) && p.reserved = 0

/-- LOAD_SUPPLEMENT: verified, then committed to the vault for the next power-up (13 R448, R450; 17 R559;
18 R571). -/
def execLoadSupplement (src : Src) (_addr len : Nat) (p : Supplement) (dmaError : Bool) (s : State) : Out :=
  command src .load true s (fun s =>
    if dmaError then .next (dmaFault s src)
    else if !suppHeadOk p || len ≠ 64 + p.bodyLength + 29792 || 64 * 2 ^ 20 < len then .next (complete s src stInvalid 0)
    else
      let s := readDual s false
      if s.vault.suppKey = 0 || p.signedBy ≠ s.vault.suppKey then
        .next (complete (raise (setBit s (regKey 10 0x900) 11) 0x0A04 15 0 none) src 0x02 0)
      else
        let c := s.vault.counters.get 0 (1 + p.type)
        if p.version < c then
          .next (complete (raise (setBit s (regKey 10 0x900) 11) 0x0A05 15 0 none) src 0x0C 0)
        else if s.vault.state ≠ 0 then .next (complete s src stFault 0)
        else
          .next (complete (commitNow s (fun v =>
            { v with supps := v.supps.set p.type (p.version, p.measure), badSupps := v.badSupps.drop p.type
                     counters := v.counters.set (1 + p.type) p.version })) src stOK 0))

end Sys2Proof.Machine
end

