-- ==== Sys2Proof/Machine/PowerUp.lean ====
section
/-! DEFINITION. Rails, the power-up sequence, the resets, and the host port's link (09 R345, R349 to R352;
14 R472 to R475; 15; 18 R566, R572, R575, R584; 19 R592). -/
namespace Sys2Proof.Machine
open Sys2Proof

/-- The state with the power part changed. -/
def updPower (s : State) (f : Power → Power) : State := { s with power := f s.power }

/-- Everything but the vault at its reset value; what lies outside the module, its physical faults and its
pins stay, and counts not yet committed are lost (15 R514; 18 R573, R576; log 8). -/
def cleared (s : State) : State :=
  { pending := s.pending, freeCtr := s.freeCtr, hostMem := s.hostMem, barReply := s.barReply
    moduleId := s.moduleId, hostErr := s.hostErr, defects := s.defects, wireFault := s.wireFault
    vault := { s.vault with queue := [], buf := [], gap := false, life := s.vault.lifeSaved, recoveredOld := false }
    power := { mv := s.power.mv, regulators := s.power.regulators, rails := s.power.rails
               railFails := s.power.railFails, railFault := s.power.railFault, trip := s.power.trip
               noSup := s.power.noSup, netFault := s.power.netFault, perst := s.power.perst, alert := s.power.alert } }

/-- Every rail is off: only the vault keeps what it holds (14 R489; 15 R504). -/
def dark (s : State) : State := updPower (cleared s) (fun p => { p with regulators := false, rails := 0 })

/-- V40_IN removed releases the pins (15 R503, R510; 18 R584). -/
def releasePins (s : State) (mv : Nat) : State :=
  if mv = 0 then
    updPower s (fun p => { p with railFails := 0, railFault := false, trip := false, noSup := false, netFault := false })
  else s

/-- REGULATOR_START: V40_IN above 36.0 V for 10 ms (15 R502). -/
def execRegulatorStart (mv : Nat) (s : State) : Out :=
  let p := s.power
  if p.regulators || p.rails ≠ 0 || p.trip || p.railFails ≠ 0 || mv ≤ 36000 then .next s
  else .next (updPower s (fun p => { p with mv := mv, regulators := true }))

/-- RAIL_GROUP_GOOD: hub-die, compute-die, then memory rails (15 R502). -/
def execRailGroupGood (s : State) : Out :=
  if !s.power.regulators || 3 ≤ s.power.rails then .next s
  else
    .next (updPower s (fun p =>
      { p with rails := p.rails + 1, railFails := if p.rails = 2 then 0 else p.railFails }))

/-- RAIL_FAILURE: rails off in reverse order, FAULT_N low (15 R503). -/
def execRailFailure (s : State) : Out :=
  if !s.power.regulators || 3 ≤ s.power.rails then .next s
  else
    .next (updPower s (fun p =>
      { p with regulators := false, rails := 0, railFault := true, railFails := p.railFails + 1 }))

/-- RAIL_RETRY: up to 3 attempts in all (15 R503). -/
def execRailRetry (s : State) : Out :=
  let p := s.power
  if p.regulators || p.rails ≠ 0 || p.trip || p.railFails = 0 || 3 ≤ p.railFails then .next s
  else .next (updPower s (fun p => { p with regulators := true }))

/-- Ports held FAILED by their self-test are released at a power-up (16, unit-kind table). -/
def releasePorts (s : State) : State :=
  { s with defects := s.defects.map (fun e => (e.1, if e.1 / 65536 = 12 && e.2 = 2 then 1 else e.2)) }

/-- POWER_UP: step 1 at rails good; everything but the vault is reset (15 R505, R514, R521). -/
def execPowerUp (s : State) : Out :=
  if s.power.rails ≠ 3 || s.power.stage ≠ 0 || s.power.stopped then .next s
  else .next (updPower (releasePorts (cleared s)) (fun p => { p with stage := 1 }))

/-- The fixed domain switches back to REFCLK (14 R474; 15 R505 step 2). -/
def useRef (s : State) : State := updPower s (fun p => { p with refOk := true, xtalSrc := false })

/-- CLOCK_SOURCE_STABLE: 65,536 cycles counted (14 R472; 15 R505 step 2). -/
def execClockSourceStable (src : ClockSrc) (s : State) : Out :=
  if s.power.stage = 0 && !s.power.stopped then .next s
  else
    match src with
    | .refclk =>
      if s.power.fixedOn && s.power.xtalSrc && !s.power.refLost then .next (useRef s)
      else .next (updPower s (fun p => { p with refOk := true }))
    | .xtal => .next (updPower s (fun p => { p with xtalOk := true }))

/-- MISSING_EDGE: the source's count starts again from 0 (14 R472). -/
def execMissingEdge (src : ClockSrc) (s : State) : Out :=
  match src with
  | .refclk => .next (updPower s (fun p => { p with refOk := false }))
  | .xtal => .next (updPower s (fun p => { p with xtalOk := false }))

/-- CLK_REF_LOSS: the fixed domain switches to the crystal if that is stable, and the PCIe port leaves L0 (14 R473). -/
def execClkRefLoss (s : State) : Out :=
  if !s.power.fixedOn || s.power.refLost then .next s
  else
    let s := setBit (updPower s (fun p => { p with refOk := false, refLost := true, xtalSrc := p.xtalSrc || p.xtalOk })) (regKey 10 0x700) 3
    execHostLinkDown (raise s 0x0801 15 0 none)

/-- CLK_REF_RESTORED: REFCLK is stable again (14 R474). -/
def execClkRefRestored (s : State) : Out :=
  if !s.power.fixedOn || !s.power.refLost then .next s
  else .next (raise (updPower (useRef s) (fun p => { p with refLost := false })) 0x0802 15 0 none)

/-- CLK_XTAL_LOSS: an event while the fixed domain runs from REFCLK (14 R475). -/
def execClkXtalLoss (s : State) : Out :=
  if !s.power.fixedOn || !s.power.xtalOk then .next s
  else
    let s' := updPower s (fun p => { p with xtalOk := false })
    if s.power.xtalSrc then .next s' else .next (raise (setBit s' (regKey 10 0x700) 4) 0x0803 15 0 none)

/-- CLOCK_LOSS_RESTART: no stable source; the module resets and waits for one (14 R475; 15 R514, R519). -/
def execClockLossRestart (s : State) : Out :=
  if !s.power.fixedOn || s.power.refOk || s.power.xtalOk then .next s
  else .next (updPower (cleared s) (fun p => { p with stage := 1, stopped := true, cause := 1 }))

/-- FIXED_DOMAIN_START: on REFCLK if it is stable, on the crystal otherwise (15 R505 step 2). -/
def execFixedDomainStart (s : State) : Out :=
  if s.power.stage ≠ 1 || (!s.power.refOk && !s.power.xtalOk) then .next s
  else
    .next (updPower s (fun p =>
      { p with fixedOn := true, xtalSrc := !p.refOk, stage := 2, stopped := false, since := s.timeNs }))

/-- A pair is out of service by its fault-map entry (16, unit-kind table). -/
def pairOut (s : State) (kind i : Nat) : Bool :=
  s.vault.fmap.any (fun e => e.kind = kind && e.location = i && e.action = 11)

/-- ROM_BOOT: step 3; the supervisor is selected (15 R505, R510; 17 R545). -/
def execRomBoot (hd0 hd1 : Bool) (s : State) : Out :=
  if s.power.stage ≠ 2 || s.power.noSup then .next s
  else
    let a := hd0 && !pairOut s 14 0
    let b := hd1 && !pairOut s 14 1
    let out := ((List.range 16).filter (pairOut s 13)).map (fun i => (i, true))
    let s := { s with ctl := { hd1 := !a && b, hd0Ok := a, hd1Ok := b, moonOut := out, moonDead := out } }
    if !a && !b then .next (updPower s (fun p => { p with noSup := true }))
    else .next (updPower s (fun p => { p with stage := 3 }))

/-- Supplements that are in effect after this power-up: a slot that fails its CRC counts as absent
(13 R450; 18 R568). -/
def loadSupps (s : State) : State :=
  let s := if s.vault.supps.any (fun e => s.vault.badSupps.get false e.1) then
      raise (setBit s vltStatus 9) 0x0B04 15 0 none
    else s
  { s with suppsEff := s.vault.supps.filter (fun e => !s.vault.badSupps.get false e.1) }

/-- The boot counter rises, or the vault counts as FAILED (18 R572). -/
def raiseBoot (s : State) : State :=
  if vaultFailed s then s
  else if s.vault.poolSpent then failVault s
  else
    let n := (s.vault.counters.get 0 0 + 1) % 2 ^ 64
    raise (commitTxn s (fun v => { v with counters := v.counters.set 0 n })) 0x0B02 15 0 (some (n % 2 ^ 32))

/-- VAULT_RECOVERY: step 4 (15 R505, R508; 18 R566 to R568, R572, R575). -/
def execVaultRecovery (s : State) : Out :=
  if s.power.stage ≠ 3 then .next s
  else
    let v := s.vault
    let s := if v.torn then
        raise { s with vault := { v with torn := false, recoveredOld := true
                                         life := { v.life with recovered := v.life.recovered + 1 } } } 0x0B01 15 0 none
      else s
    let s := loadSupps (raiseBoot (readDual (readDual s false) true))
    .next (updPower s (fun p => { p with stage := 4 }))

/-- A row or range by its fault-map entry: the key of its retired range (09 R348, R350). -/
def rangeKey (e : FEntry) : Nat :=
  if e.kind = 9 then 0x10000000 + (e.location % 16 / 2 * 0x003000000000 + bits e.location 30 14 * 0x200000) / 0x200000
  else 0x20000000 + e.location

/-- One repair of DRAM takes effect: a remapped row leaves use, a retired range becomes reserved
(09 R348, R350, R351). -/
def applyRepair (s : State) (e : FEntry) : State :=
  if e.action = 8 then setDefect s (rangeKey e) 3
  else if e.action = 7 || e.action = 9 then setDefect s (unitKey e.kind e.location) 0
  else s

/-- Ranges retired on the die of a unit (09 R353). -/
def retiredOf (s : State) (u : Nat) : Nat :=
  if u < 16 then hbmRetired s (u / 2) else (uniq ((retirements s 11).map (·.location))).length

/-- The spare counts of every unit are brought up to date. -/
def countSpares (s : State) : State :=
  { s with dram := (List.range 48).map (fun u =>
      let n := sparesOf s u
      (u, { dramOf s u with sparesUsed := n, sparesOut := decide (spareMax s u ≤ n), retired := min 255 (retiredOf s u) })) }

/-- Every fault-map entry is in effect (16 R539). -/
def mapInEffect (s : State) : State :=
  { s with vault := { s.vault with fmap := s.vault.fmap.map (fun e => { e with state := 1 }) } }

/-- Repairs of the full LPDDR5X decode are dropped once the tier runs degraded (09 R349). -/
def dropFull (s : State) : State :=
  if !lpFailed s 0 && !lpFailed s 1 then s
  else
    { s with
      vault := { s.vault with fmap := s.vault.fmap.map (fun e => if e.full then { e with action := 0, full := false } else e) }
      defects := s.defects.map (fun e => (e.1, if 0x20000000 ≤ e.1 && e.1 < 0x30000000 then 1 else e.2)) }

/-- Repairs of the fault map that are not yet in effect take effect: failed stacks and devices, remapped rows and
retired ranges (09 R345, R348 to R352; 16 R539). -/
def applyNew (s : State) : State :=
  let new := s.vault.fmap.filter (fun e => e.state = 0)
  let s := dropFull ((new.filter (fun e => e.action = 5 || e.action = 6)).foldl (fun s e =>
    setDefect s (unitKey e.kind e.location) 2) s)
  let s := (s.vault.fmap.filter (fun e => e.state = 0)).foldl applyRepair s
  countSpares (mapInEffect s)

/-- One unit fails its training: out of service, recorded, and its event (09 R345, R352). -/
def trainFail (s : State) (u : Nat) : State :=
  let k := if u < 16 then 8 else 10
  let i := if u < 16 then u else u - 16
  let d := if u < 16 then u / 2 else 8 + i / 16
  let s := raise (setDefect s (unitKey k i) 2) 0x0506 d i none
  if s.vault.fmap.any (fun e => e.kind = k && e.location = i) || vaultFailed s then s
  else recordFault s { kind := k, action := if u < 16 then 5 else 6, location := i, event := 0x0506, hours := hoursOf s }

/-- MEMORY_TRAINING: step 5; `failed` lists stacks 0 to 15 and devices from 16 that fail 3 attempts
(09 R345, R349 to R352; 14 R488; 15 R505, R509). -/
def execMemoryTraining (failed : List Nat) (s : State) : Out :=
  if s.power.stage ≠ 4 then .next s
  else
    let s := failed.foldl (fun s u => if u < 48 then trainFail s u else s) s
    let s := dropFull s
    let s := s.vault.fmap.foldl applyRepair s
    let s := countSpares (mapInEffect s)
    let bad (u : Nat) : Bool :=
      decide (2 ≤ s.defects.get 0 (if u < 16 then unitKey 8 u else unitKey 10 (u - 16)))
    let s := { s with dram := s.dram.map (fun e => (e.1, { e.2 with trained := !bad e.1 })) }
    .next (updPower s (fun p => { p with stage := 5 }))

/-- All SRAM and HBM3E zeroised (15 R505 step 6). -/
def zeroFast (s : State) : State := zeroise (zeroise s 0 0x018000000000) storeSpan 0x0408C0000000

/-- POWERUP_ZEROISE_DONE: step 6; the LPDDR5X part runs beside step 7. A PERST_N or warm reset zeroises in its
reduced form what the job ended by it used (15 R505, R515; 17 R561, R562). -/
def execPowerupZeroiseDone (lpddr : Bool) (s : State) : Out :=
  if s.power.resetting then
    if s.power.stage ≠ 5 then .next s
    else
      .next (updPower { zeroJob s with reached := [], jobState := 0 } (fun p => { p with stage := 6, lpZero := true }))
  else if lpddr then
    if s.power.stage < 5 || 8 ≤ s.power.stage || s.power.lpZero then .next s
    else
      let d := draw (zeroise s lpBase 0x03C700000000)
      .next (raise (updPower { d.1 with zeroDraw := some d.2 } (fun p => { p with lpZero := true })) 0x0A07 15 0 none)
  else if s.power.stage ≠ 5 then .next s
  else .next (updPower (zeroFast s) (fun p => { p with stage := 6 }))

/-- The physical location of a SELFTEST index of kinds 1 to 3; the index itself for other kinds
(16 R540). -/
def locOf (s : State) (kind index : Nat) : Nat :=
  let f (n a b : Nat) : Nat := putFields 0 [(2, 0, n / 96), (6, 3, n % 96 / 8), (10, 7, posOf s n), (11, 11, a), (14, 12, b)]
  match kind with
  | 1 => f (index / 2) (index % 2) 0
  | 2 => f index 0 0
  | 3 => f (index / 8) 0 (index % 8)
  | _ => index

/-- Units that step 7 tests (15 R505, R507). -/
def bootTested (kind : Nat) : Bool := kind = 1 || kind = 2 || kind = 4 || kind = 6 || kind = 7 || kind = 13

/-- Kind and location of a physical fault. -/
def defectUnit (k : Nat) : Nat × Nat := if k < 2 ^ 21 then (k / 65536, k % 65536) else (0, 0)

/-- The entry of a physical fault; the fabric channel of a bridge edge has the key of its edge plus 64
(16 R540, unit-kind table; log 8). -/
def defectEntry (s : State) (k : Nat) : FEntry :=
  let u := defectUnit k
  let e : FEntry := { kind := u.1, action := 0, state := 1, location := u.2, event := 0, hours := hoursOf s }
  if u.1 = 6 then { e with location := u.2 % 64, action := if u.2 < 10 then 4 else 0 } else e

/-- A lasting fault that step 7 finds: recorded in effect (15 R505 step 7, R506). -/
def bootFault (s : State) (k : Nat) : State :=
  let e := entryOf s (defectEntry s k)
  if vaultFailed s || s.vault.state ≠ 0
      || s.vault.fmap.any (fun x => x.kind = e.kind && x.location = e.location && x.action = e.action) then s
  else
    let s := announce s e
    { s with vault := { s.vault with fmap := s.vault.fmap ++ [e] } }

/-- The assignment and the units that the fault map takes out of service (15 R505 step 7). -/
def applyMap (s : State) : State := s.vault.fmap.foldl (fun s e => if e.action = 0 || 8 ≤ e.kind && e.kind ≤ 12 then s
  else removeUnit s e.kind e.location e.action) s

/-- POWERUP_SELFTEST: step 7 (01 R25 to R27, R46; 14 R479; 15 R505 to R507, R517). -/
def execPowerupSelftest (s : State) : Out :=
  if s.power.stage ≠ 6 || (s.power.resetting && s.power.cause = 2) then .next s
  else
    let found := (s.defects.filter (fun e => e.2 ≠ 0 && bootTested (defectUnit e.1).1)).map (·.1)
      ++ (s.wireFault.filter (·.2)).map (fun e => unitKey 1 e.1)
    let n := s.vault.fmap.length
    let s := found.foldl bootFault s
    let s := if s.vault.fmap.length = n then s else commitTxn s (fun v => { v with mapGen := (v.mapGen + 1) % 2 ^ 32 })
    let s := applyNew (applyAssignment (applyMap s))
    let net := found.any (fun k => (defectUnit k).1 = 7)
    .next (updPower { s with clus := s.clus.map (fun e => (e.1, { e.2 with onBoot := true, ratio := 0x60000, ramping := false })) }
      (fun p => { p with stage := 7, netFault := p.netFault || net }))

/-- The handoff ports start training at the later of step 8 and the first entry of the host port to L0
(10 R358; 15 R513). -/
def startPorts (s : State) : State :=
  if s.power.linksOn || s.power.stage < 8 || !s.power.linkUp then s
  else
    let s := updPower s (fun p => { p with linksOn := true })
    (List.range 16).foldl (fun s p => if (hport s p).state = 0 then bringUp s p else s) s

/-- COMMAND_PROCESSOR_OPEN: step 8, once steps 6 and 7 have completed (15 R505, R507, R514). -/
def execCommandProcessorOpen (s : State) : Out :=
  let p := s.power
  if p.netFault || p.noSup then .next s
  else if (p.stage = 7 && p.lpZero) || (p.stage = 6 && p.resetting && p.cause = 2) then
    .next (startPorts (updPower s (fun p => { p with stage := 8, resetting := false })))
  else .next s

/-- READY: step 9; the capability block with cap_gen 1. After a PERST_N reset it waits for the deassertion
(15 R505, R516, R519, R521). -/
def execReady (s : State) : Out :=
  if s.power.stage ≠ 8 || (s.power.perst && s.power.cause = 2) then .next s
  else
    .next (updPower { s with capGen := 1 } (fun p =>
      { p with stage := 9, ready := true, readyMs := (s.timeNs - p.since) / 1000000 % 2 ^ 32 }))

/-- The record of a reset's cause goes to the event log; its code and detail are not stated (15 R518;
18 R575; log 33). -/
def logReset (s : State) : State :=
  let d := draw s
  let w := (Config.freeWord d.2).toNat
  logPut d.1 { code := w % 65536, die := 15, detail := some (w / 65536 % 2 ^ 32), time := s.timeNs }

/-- A PERST_N or warm reset begins: the job ends without completions, and what R514 names is reset
(15 R514, R515, R518, R519, R521). -/
def beginReset (s : State) (kind : Nat) : State :=
  let used := usedRanges s
  let state := if s.jobState = 0 then 0 else 4
  let s := logReset (jobless s)
  let s := { s with
    jobState := state
    reached := used.map (fun i => (i, true)), qps := [], rot := 0, ring := {}, vecDue := []
    vault := { s.vault with life := { s.vault.life with resets := s.vault.life.resets + 1 } } }
  updPower s (fun p =>
    { p with stage := 5, ready := false, resetting := true, lpZero := false, cause := kind
             resets := min 65535 (p.resets + 1), since := s.timeNs, cap := 12000, westCapped := false
             eastCapped := false, westMhz := 2100, eastMhz := 2100, clockWait := [] })

/-- PERST_N_ASSERT: a reset, or only the pin while another sequence runs (15 R514, R516, R519). -/
def execPerstNAssert (s : State) : Out :=
  if s.power.perst then .next s
  else
    let t := updPower s (fun p => { p with perst := true, linkUp := false })
    if !s.power.ready then .next t else .next { beginReset t 2 with msix := [], pba := [], posts := [] }

/-- PERST_N_DEASSERT (15 R511, R516, R521). -/
def execPerstNDeassert (s : State) : Out :=
  if !s.power.perst then .next s
  else
    .next (updPower s (fun p =>
      { p with perst := false, since := if p.cause = 2 && !p.ready && p.stage ≠ 0 then s.timeNs else p.since }))

/-- A write of CMD_WARM_RESET (13 R469; 15 R517, R519). -/
def warmReset (s : State) (v : Nat) : State :=
  if v % 2 ^ 32 ≠ 0x5752 || !s.power.ready then s else beginReset s 3

/-- WARM_RESET (15 R517). -/
def execWarmReset (v : Nat) (s : State) : Out := if !barOpen s then .next s else .next (warmReset s v)

/-- PCIE_LINK_UP: the port reaches L0, and what was held is delivered in order; a link below Gen6 x16 raises
its event (13 R432, R468; 15 R511, R513). -/
def execPcieLinkUp (speed width : Nat) (flit : Bool) (s : State) : Out :=
  let p := s.power
  if p.linkUp || p.perst || p.noSup || p.rails ≠ 3 || !p.refOk || p.trip then .next s
  else
    let s := updPower s (fun p => { p with linkUp := true, speed := speed % 8, width := width % 32, flit := flit })
    let s := s.posts.foldl deliver { s with posts := [] }
    .next (startPorts (if speed < 6 || width < 16 then raise s 0x0C06 15 0 none else s))

/-- SUPPLY_RESET: V40_IN falls through 32.0 V (14 R491; 15 R504). -/
def execSupplyReset (mv : Nat) (s : State) : Out :=
  if 32000 ≤ mv then .next s else .next (releasePins (updPower (dark s) (fun p => { p with mv := mv })) mv)

/-- OVERVOLTAGE_SHUTDOWN: V40_IN rises through 46.0 V (14 R491; 15 R504). -/
def execOvervoltageShutdown (mv : Nat) (s : State) : Out :=
  if mv ≤ 46000 then .next s else .next (updPower (dark s) (fun p => { p with mv := mv }))

/-- The fatal threshold of a sensor, by its sensor ID (18 R580; 19 R591). -/
def fatalTemp (sensor : Nat) : Option Nat :=
  if 5 ≤ sensor && sensor ≤ 14 then some 115
  else if (15 ≤ sensor && sensor ≤ 30) || sensor = 33 then some 105
  else if sensor = 31 || sensor = 32 then some 125
  else none

/-- THERMAL_TRIP: THERM_TRIP_N low and every rail off; a transaction that runs is interrupted (18 R584;
19 R592). -/
def execThermalTrip (sensor temp : Nat) (s : State) : Out :=
  match fatalTemp sensor with
  | some t =>
    if temp < t || s.power.rails = 0 then .next s
    else
      let busy := s.vault.queue ≠ [] && vaultOpen s
      let s := dark { s with vault := { s.vault with torn := s.vault.torn || busy } }
      .next (updPower s (fun p => { p with trip := true }))
  | none => .next s

end Sys2Proof.Machine
end

