-- ==== Sys2Proof/Machine/Tiers.lean ====
section
/-! DEFINITION. The memory tiers: write-back of corrected codewords, patrol scrub, refresh (09 R339, R346,
R347). -/
namespace Sys2Proof.Machine
open Sys2Proof

/-- A codeword stored corrected; a miscorrection stores its data (09 R337, R339). -/
def storeCorrected (s : State) (cw : Nat) (m : Option (List Byte)) : State :=
  let mem := match m with
    | some bs => memWrite s.mem (64 * cw) bs
    | none => s.mem
  { s with mem := mem, cwErr := s.cwErr.drop cw, writeBack := s.writeBack.filter (fun e => e.1 ≠ cw) }

/-- CORRECTED_WRITE_BACK: the `i`th waiting write-back; a newer write has dropped it from the list
(09 R339). -/
def execCorrectedWriteBack (i : Nat) (s : State) : Out :=
  match s.writeBack[i]? with
  | some e => .next (storeCorrected s e.1 e.2)
  | none => .next s

/-- Codewords of DRAM that a window's scrubber covers: 192 GiB of HBM3E, or the user data and the reserve of
16 devices (09 R341, R343, R345, R347). -/
def scrubDram (s : State) (w : Nat) : Nat :=
  if w < 8 then 3221225472
  else if lpFailed s (w - 8) then 0
  else 15267266560 + 4194304

/-- Codewords that a window's scrubber covers in one pass, its order being DRAM, stores, pockets (09 R347;
log 37). -/
def scrubSpan (s : State) (w : Nat) : Nat := if w < 8 then 3221225472 + 12 * 2097152 + 96 * 65536 else scrubDram s w

/-- The codeword at a position of a pass; none in the reserve, in memory that is absent, and in a bank that
is OFF (09 R342, R344, R347; log 37). -/
def scrubCw (s : State) (w pos : Nat) : Option Nat :=
  let a :=
    if w < 8 then
      if pos < 3221225472 then w * 0x003000000000 + 64 * pos
      else if pos < 3221225472 + 12 * 2097152 then storeAddr (12 * w) + 64 * (pos - 3221225472)
      else pocketAddr (96 * w) 0 + 64 * (pos - 3221225472 - 12 * 2097152)
    else if lpFailed s (9 - w) then lpBase + 64 * pos
    else lpBase + pos / 64 * 8192 + (w - 8) * 4096 + pos % 64 * 64
  match placeMap s a with
  | .reserved | .regs => none
  | p =>
    match bankOf p a with
    | some b => if s.bankState.get 0 b = 0 then none else some (a / 64)
    | none => some (a / 64)

/-- The scrubber finds an uncorrectable codeword: recorded where no error bit and no address is valid yet, counted,
and its test requested; no consumer stops (09 R347, R354; log 37). -/
def scrubBad (s : State) (cw : Nat) : State :=
  let a := 64 * cw
  let d := memDie s a
  let first := bits (reg s (memErrKey d.1)) 4 0 = 0
  let s := bump (latch s (memErrKey d.1) 4 3 [(19, 16, d.2), (26, 24, 3)]) (regKey d.1 0x2098) 0 32 1
  let k := regKey d.1 0x2088
  let s := if !first || bitOf (reg s k) 63 then s else setReg s k (a % 2 ^ 48 + 2 ^ 63)
  let u := memUnit s a
  requestTest (raise s 0x0504 d.1 0 none) u.1 u.2 0x0504

/-- A scrub read of one codeword: what corrects is written back, in SRAM too (09 R347). -/
def scrubRead (s : State) (cw : Nat) : State :=
  match cwOutcome s.mem cw (s.cwErr.get {} cw) with
  | .clean => s
  | .corrected => storeCorrected (corrected s (64 * cw) none) cw none
  | .wrong bs fixed => if fixed then storeCorrected (corrected s (64 * cw) (some bs)) cw (some bs) else s
  | .addrFault | .bad => scrubBad s cw

/-- PATROL_SCRUB_READ: the next position of a window's pass, once the memory is zeroised (09 R347;
15 R505; log 37). -/
def execPatrolScrubRead (w : Nat) (s : State) : Out :=
  if 10 ≤ w || s.power.stage < 6 || scrubSpan s w = 0 || (8 ≤ w && !s.power.lpZero) then .next s
  else
    let pos := s.scrubAt.get 0 w
    let t := match scrubCw s w (pos % scrubSpan s w) with
      | some cw => scrubRead s cw
      | none => s
    .next { t with scrubAt := t.scrubAt.set w (pos + 1) }

/-- MEM_SCRUB (09 R354). -/
def memScrub (s : State) (w : Nat) : Nat :=
  let n := scrubSpan s w
  if n = 0 then 0
  else s.scrubAt.get 0 w % n * 65536 / n + s.scrubAt.get 0 w / n % 2 ^ 32 * 2 ^ 32

/-- The fixed domain runs the refresh timers (09 R346; 14 R476). -/
def refreshes (s : State) (u : Nat) : Bool :=
  decide (u < 48) && s.power.fixedOn && !s.power.stopped && (dramOf s u).trained

/-- DRAM_REFRESH: a refresh of a stack (0 to 15) or of device `u` − 16 is issued; contents stay
(09 R346). -/
def execDramRefresh (u : Nat) (s : State) : Out :=
  if !refreshes s u then .next s else .next (updDram s u (fun d => { d with refreshes := d.refreshes + 1 }))

/-- The refresh rate that a temperature in °C asks for: 0 standard, 1 twice, 2 4 times (09 R346). -/
def refreshRate (temp : Nat) : Nat := if 95 < temp then 2 else if 85 < temp then 1 else 0

/-- The die and the number of a stack or device. -/
def dramWindow (u : Nat) : Nat × Nat := if u < 16 then (u / 2, u) else (8 + (u - 16) / 16, u - 16)

/-- MEM_REFRESH_RAISED: a readout asks for a higher rate; one that asks for the rate in effect shows in temp_c only
(09 R346, R353, R355). -/
def execMemRefreshRaised (u temp : Nat) (s : State) : Out :=
  if 48 ≤ u || s.power.stage < 5 || refreshRate temp < (dramOf s u).refresh then .next s
  else if refreshRate temp = (dramOf s u).refresh then .next (readout s u temp)
  else
    let s := updDram (readout s u temp) u (fun d => { d with refresh := refreshRate temp })
    .next (raise s 0x0507 (dramWindow u).1 (dramWindow u).2 none)

/-- REFRESH_RATE_LOWERED: a readout asks for a lower rate; one that asks for the rate in effect shows in temp_c only
(09 R346, R353). -/
def execRefreshRateLowered (u temp : Nat) (s : State) : Out :=
  if 48 ≤ u || s.power.stage < 5 || (dramOf s u).refresh < refreshRate temp then .next s
  else .next (updDram (readout s u temp) u (fun d => { d with refresh := refreshRate temp }))

end Sys2Proof.Machine
end

