-- ==== Sys2Proof/Machine/Clocks.lean ====
section
/-! DEFINITION. Cluster clocks, Pacers, clock policy, the supply thresholds and the budget manager
(14 R477 to R496). -/
namespace Sys2Proof.Machine
open Sys2Proof

/-- A cluster belongs to a scope of SET_CLOCK_POLICY: 0 module, 1 west, 2 east (13 R449). -/
def inScope (scope g : Nat) : Bool := scope = 0 || (scope = 1 && westDie (g / 12)) || (scope = 2 && !westDie (g / 12))

/-- PACER_TARGET_UPDATE: the replica limit is a measured value, 600 to 2,100 MHz (14 R483; log 38). -/
def execPacerTargetUpdate (g : Nat) (s : State) : Out :=
  if !live s g || s.power.stage < 7 then .next s
  else
    let d := draw s
    let r := 600 + (Config.freeWord d.2).toNat % 1501
    .next (retarget (updClu d.1 g (fun c => { c with replica := r })) g)

/-- A scope has no region in a ramp. -/
def rampsOver (s : State) (scope : Nat) : Bool :=
  (List.range 96).all (fun g => !inScope scope g || !(clu s g).ramping)

/-- SET_CLOCK_POLICY commands whose ramps have ended complete (14 R487). -/
def policyDone (s : State) : State :=
  let w := s.power.clockWait
  let s' := updPower s (fun p => { p with clockWait := w.filter (fun e => !rampsOver s e.2) })
  (w.filter (fun e => rampsOver s e.2)).foldl (fun s e => complete s e.1 stOK 0) s'

/-- A ratio one step of at most 1 MHz nearer to its target (14 R478; log 34). -/
def rampRatio (r t : Nat) : Nat := if r < t then min t (r + 655) else max t (r - 655)

/-- RAMP_STEP (14 R478, R487). -/
def execRampStep (g : Nat) (s : State) : Out :=
  let c := clu s g
  if !c.ramping || c.onBoot then .next s
  else
    let t := ratioOf c.target
    let r := rampRatio c.ratio t
    .next (policyDone (updClu s g (fun c => { c with ratio := r, ramping := r ≠ t })))

/-- SET_CLOCK_POLICY: it completes once the ramps that it starts have ended (13 R449, R450; 14 R486, R487). -/
def execSetClockPolicy (src : Src) (scope mode mhz : Nat) (s : State) : Out :=
  command src .any false s (fun s =>
    if 3 ≤ scope || 2 ≤ mode || mhz < 600 || 2100 < mhz then .next (complete s src stInvalid 0)
    else
      let s := updPower s (fun p =>
        let p := if scope = 2 then p else { p with westCapped := mode = 1, westMhz := mhz }
        if scope = 1 then p else { p with eastCapped := mode = 1, eastMhz := mhz })
      let s := ((working s).filter (inScope scope)).foldl retarget s
      .next (policyDone (updPower s (fun p => { p with clockWait := p.clockWait ++ [(src, scope)] }))))

/-- The largest stretch asked for a region's next period, in eighths (14 R481). -/
def askStretch (s : State) (g k : Nat) : State := updClu s g (fun c => { c with stretch := max c.stretch k })

/-- DROOP_STRETCH: by 12.5%, 25% or 50%, depth 1 to 3 (14 R480, R481). -/
def execDroopStretch (g depth : Nat) (s : State) : Out :=
  if !live s g || s.power.stage < 7 || depth = 0 || 4 ≤ depth then .next s
  else .next (askStretch s g (2 ^ (depth - 1)))

/-- PAC_THERMAL: a reading of 100 °C or more lowers the thermal limit, one below 98 °C raises it until it no
longer applies (14 R484; log 38). -/
def execPacThermal (g : Nat) (temp : Nat) (s : State) : Out :=
  if !live s g || s.power.stage < 7 then .next s
  else
    let hot := s.power.thermal.get false g
    if 100 ≤ temp then
      let s := if hot then s else raise s 0x0804 (g / 12) (g % 12) none
      let s := updPower s (fun p => { p with thermal := p.thermal.set g true })
      .next (updClu s g (fun c => { c with thermal := max 600 (c.thermal - 100) }))
    else if temp < 98 && hot then
      let t := min 2100 ((clu s g).thermal + 100)
      let s := updClu s g (fun c => { c with thermal := t })
      .next (updPower s (fun p => { p with thermal := p.thermal.set g (decide (t < 2100)) }))
    else .next s

/-- PAC_TIMING_FLOOR: a fatal fault, and a test of the cluster (14 R485; 16 R525, R530). -/
def execPacTimingFloor (g : Nat) (s : State) : Out :=
  if !live s g || s.power.stage < 7 then .next s
  else .next (wantStop (requestTest (raise s 0x0805 (g / 12) (g % 12) none) 4 g 0x0805) 0x0805)

/-- PWR_STATUS (14 R498). -/
def pwrStatus : Nat := regKey 10 0x710

/-- The rails are up and the supply is watched (14 R489, R491). -/
def supplied (s : State) : Bool := s.power.rails = 3

/-- PWR_SUPPLY_WARN: V40_IN falls through 35.0 V (14 R491, R492; 18 R576). -/
def execPwrSupplyWarn (mv : Nat) (s : State) : Out :=
  if !supplied s || s.power.warn || 35000 ≤ mv then .next s
  else
    let s := updPower s (fun p => { p with mv := mv, warn := true, hold := false })
    let s := { s with vault := { s.vault with life := { s.vault.life with warnings := s.vault.life.warnings + 1 } } }
    .next (raise (setBit s pwrStatus 8) 0x0901 15 0 none)

/-- SUPPLY_RISE_HOLD_START: V40_IN rises through 36.0 V during a warning (14 R491). -/
def execSupplyRiseHoldStart (mv : Nat) (s : State) : Out :=
  if !s.power.warn || s.power.hold || mv ≤ 36000 then .next s
  else .next (updPower s (fun p => { p with mv := mv, hold := true }))

/-- SUPPLY_FALL_DURING_HOLD: the hold stops (14 R492). -/
def execSupplyFallDuringHold (mv : Nat) (s : State) : Out :=
  if !s.power.warn || !s.power.hold || 36000 ≤ mv then .next s
  else .next (updPower s (fun p => { p with mv := mv, hold := false }))

/-- PWR_SUPPLY_CLEAR: the hold completes, and vault writes resume (14 R491). -/
def execPwrSupplyClear (s : State) : Out :=
  if !s.power.warn || !s.power.hold then .next s
  else .next (raise (updPower s (fun p => { p with warn := false, hold := false })) 0x0902 15 0 none)

/-- PWR_OVERVOLTAGE: logged; the module continues (14 R491). -/
def execPwrOvervoltage (mv : Nat) (s : State) : Out :=
  if !supplied s || mv ≤ 44500 then .next s
  else .next (raise (setBit (updPower s (fun p => { p with mv := mv })) pwrStatus 11) 0x0905 15 0 none)

/-- The budget manager runs on the supervisor (14 R494). -/
def budgetOn (s : State) : Bool := supplied s && decide (3 ≤ s.power.stage) && !s.power.stopped && !s.power.noSup

/-- P10 is over the limit of the backstop (14 R495). -/
def p10Over (s : State) (p10 : Nat) : Bool := decide (min (12 * effCap s) 160000 < 10 * p10)

/-- A half's rail power is over a limit: 7.0 kW as the 1 ms mean, or 8.4 kW as the 10 µs mean (14 R495). -/
def halfOver (p10 p1000 : Nat) : Bool := decide (7000 < p1000) || decide (8400 < p10)

/-- A half's row of the enforcement table: the event as it begins (14 R495). -/
def halfRow (s : State) (was now : Bool) : State :=
  if now && !was then raise (setBit s pwrStatus 12) 0x0906 15 0 none else s

/-- Every period of a cluster is stretched by 50% (14 R495, R496). -/
def stretched (s : State) (g : Nat) : Bool :=
  s.power.backstop || s.power.alertStretch || (if westDie (g / 12) then s.power.halfWest else s.power.halfEast)

/-- BUDGET_SAMPLE: input voltage and current, P10 and P1000 of the input and of each half's rails, and the
backstops (14 R495, R496; log 38). -/
def execBudgetSample (mv ca p10 p1000 west10 west1000 east10 east1000 : Nat) (s : State) : Out :=
  if !budgetOn s then .next s
  else
    let cap := effCap s
    let excess := decide (cap < p1000)
    let back := p10Over s p10 || (s.power.backstop && decide (cap < p10))
    let w := halfOver west10 west1000
    let e := halfOver east10 east1000
    let began := !s.power.excess && !s.power.backstop && (excess || back)
    let p := s.power
    let s := updPower s (fun p =>
      { p with mv := mv, ca := ca, p10 := p10, watts := p1000, west := west1000, east := east1000, excess := excess
               backstop := back, halfWest := w, halfEast := e
               overRaised := (p.overRaised || excess) && (excess || back)
               alertStretch := p.alertStretch && decide (p.alertCap < p10) })
    let s := if began then bump s (regKey 10 0x730) 0 32 1 else s
    let s := if excess && !p.overRaised then raise (setBit s pwrStatus 10) 0x0903 15 0 none else s
    .next (halfRow (halfRow s p.halfWest w) p.halfEast e)

/-- BUDGET_GRANT_RAISE: below 95% of the effective cap (14 R495). -/
def execBudgetGrantRaise (s : State) : Out :=
  if !budgetOn s || 95 * effCap s ≤ 100 * s.power.watts then .next s
  else .next ((working s).foldl (fun s g => updClu s g (fun c => { c with grant := min 2100 (c.grant + 25) })) s)

/-- A cluster's grant is to be lowered (14 R495). -/
def lowers (s : State) (g : Nat) : Bool :=
  decide (effCap s < s.power.watts) || s.power.backstop
    || (if westDie (g / 12) then s.power.halfWest else s.power.halfEast)

/-- BUDGET_GRANT_LOWER: never below 0.6 GHz (14 R495, R496). -/
def execBudgetGrantLower (s : State) : Out :=
  if !budgetOn s then .next s
  else
    .next (((working s).filter (lowers s)).foldl
      (fun s g => updClu s g (fun c => { c with grant := max 600 (c.grant - 25) })) s)

/-- PWR_ALERT: PWR_ALERT_N is driven low (14 R496; log 38). -/
def execPwrAlert (s : State) : Out :=
  if !supplied s || s.power.alert then .next s
  else
    .next (raise (setBit (updPower s (fun p => { p with alert := true, alertStretch := true })) pwrStatus 9)
      0x0904 15 0 none)

/-- ALERT_RELEASE: PWR_ALERT_N has been high for 1 ms (14 R496). -/
def execAlertRelease (s : State) : Out :=
  if !s.power.alert then .next s else .next (updPower s (fun p => { p with alert := false }))

end Sys2Proof.Machine
end

