-- ==== Sys2Proof/Machine/Faults.lean ====
section
/-! DEFINITION. Self-tests, SELFTEST, and the control cores (16 R530 to R539). -/
namespace Sys2Proof.Machine
open Sys2Proof

/-- The unit's physical fault that its test reproduces; an edge's test loops back over each of its channels
(16 R532, unit-kind table; log 8). -/
def reproduces (s : State) (kind loc : Nat) : Bool :=
  s.defects.get 0 (unitKey kind loc) = 1 || (kind = 1 && s.wireFault.get false loc)
    || (kind = 6 && s.defects.get 0 (unitKey 6 (loc + 64)) = 1)

/-- The die field of a unit's events; 15 for units that several dies share (13 R465; log 39). -/
def unitDie (kind loc : Nat) : Nat :=
  match kind with
  | 1 | 2 | 3 => loc % 8
  | 4 => loc / 12
  | 5 => loc / 384
  | 7 => nodeDie loc
  | 8 => loc / 2
  | 9 => loc % 16 / 2
  | 10 => 8 + loc / 16
  | 12 => 8 + loc / 8
  | 13 => loc / 2
  | 14 => 8 + loc
  | _ => 15

/-- A record of a transient outcome of a unit within 1,000 power-on hours (16 R533). -/
def isTransient (now kind loc : Nat) (e : Ev) (hours : Nat) : Bool :=
  e.code % 256 = 0xF0 && e.unit = kind && e.detail = some loc && decide (now < hours + 1000)

/-- Transient outcomes of a unit within 1,000 power-on hours: in the event log, on their way to it, or not yet
recorded (16 R533; 18 R573). -/
def transients (s : State) (kind loc : Nat) : Nat :=
  let now := hoursOf s
  let ok (e : LogEntry) : Bool := !e.unreadable && isTransient now kind loc e.ev e.hours
  let q := s.vault.queue.flatMap (fun t => match t with | .log l => l | _ => [])
  (s.vault.log.filter ok).length + (q.filter ok).length + (s.vault.buf.filter ok).length
    + (s.evs.filter (fun e => isTransient now kind loc e now)).length

/-- The unit's entry is in the fault map, or waits to join it; a row or range whose remap is in effect may need a
second remedy (09 R348). -/
def mapped (s : State) (kind loc : Nat) : Bool :=
  s.vault.fmap.any (fun e => e.kind = kind && e.location = loc && (e.action ≠ 0 || kind = 7)
      && !(e.state = 1 && (e.action = 7 || e.action = 9)))
    || s.vault.queue.any (fun t => match t with | .fault e => e.kind = kind && e.location = loc | _ => false)

/-- A channel of an edge is in the fault map, or waits to join it. -/
def edgeMapped (s : State) (loc action : Nat) : Bool :=
  let is (e : FEntry) : Bool := e.kind = 6 && e.location = loc && e.action = action
  s.vault.fmap.any is || s.vault.queue.any (fun t => match t with | .fault e => is e | _ => false)

/-- The actions of a lasting fault of an edge: 4 for its splice channel, 0 for its fabric channel; the fault that
no test reproduces is in the fabric channel, whose event asked for the tests (16 R530, R533, unit-kind table). -/
def edgeActions (s : State) (loc : Nat) : List Nat :=
  let splice := decide (loc < 10) && s.defects.get 0 (unitKey 6 loc) = 1
  let fabric := s.defects.get 0 (unitKey 6 (loc + 64)) = 1 || !splice
  (if splice then [4] else []) ++ (if fabric then [0] else [])

/-- The last tested unit (16 R541). -/
def setLast (s : State) (kind code event loc : Nat) : State := { s with fltLast := some (kind, code, event, loc) }

/-- A transient outcome; a moon pair that has failed over does not serve again (01 R32; 16 R532). -/
def transientOutcome (s : State) (kind loc event : Nat) : State :=
  let s := bump (setBit s fltStatus 8) (regKey 10 0x820) 0 32 1
  raise (setLast s kind 1 event loc) (kindClass kind * 256 + 0xF0) (unitDie kind loc) kind (some loc)

/-- A lasting outcome: its fault-map entry, which is all that takes the unit out of use but for a port and a control
core, which leave service at once (16 R532, R536, R537, R539, unit-kind table). -/
def lastingOutcome (s : State) (kind loc event : Nat) : State :=
  let s := bump (setBit s fltStatus 9) (regKey 10 0x828) 0 32 1
  let s := raise (setLast s kind 2 event loc) (kindClass kind * 256 + 0xF1) (unitDie kind loc) kind (some loc)
  let e : FEntry := { kind := kind, action := 0, location := loc, event := event, hours := hoursOf s }
  if kind = 6 then
    (edgeActions s loc).foldl (fun s a => if edgeMapped s loc a then s else recordFault s { e with action := a }) s
  else if mapped s kind loc then s
  else
    let s := if kind = 12 then leaveUp (setDefect s (unitKey 12 loc) 2) loc 3
      else if kind = 13 then
        { s with ctl := { s.ctl with moonOut := s.ctl.moonOut.set loc true, moonDead := s.ctl.moonDead.set loc true } }
      else if kind = 14 then removeUnit s 14 loc 11
      else s
    recordFault s e

/-- A region ran on the boot clock for a test: it starts again from 600 MHz and ramps to its target (14 R479). -/
def offBoot (s : State) (g : Nat) : State :=
  if (clu s g).onBoot then s else retarget (updClu s g (fun c => { c with ratio := 0x60000 })) g

/-- The cluster that holds a unit of a compute die. -/
def unitCluster (kind index : Nat) : Option Nat :=
  match kind with
  | 1 => some (index / 16)
  | 2 => some (index / 8)
  | 3 => some (index / 64)
  | 4 => some index
  | 5 => some (index / 32)
  | _ => none

/-- What a test does to its unit: its cluster runs on the boot clock meanwhile, and the last pass over a memory unit
writes zeros with valid check symbols (14 R479; 16 R530, R532). -/
def wipeUnit (s : State) (kind index : Nat) : State :=
  let s := match unitCluster kind index with | some g => offBoot s g | none => s
  if kind = 3 || kind = 5 || kind = 9 || kind = 11 then
    { s with mem := s.mem.filter (fun e => memUnit s e.1 ≠ (kind, index))
             cwErr := s.cwErr.filter (fun e => memUnit s (64 * e.1) ≠ (kind, index))
             writeBack := s.writeBack.filter (fun e => memUnit s (64 * e.1) ≠ (kind, index)) }
  else s

/-- A targeted self-test, with its outcome code (16 R532, R533, R535). -/
def testUnit (s : State) (kind index event : Nat) : State × Nat :=
  let loc := locOf s kind index
  let s := wipeUnit s kind index
  if reproduces s kind loc || 3 ≤ transients s kind loc then (lastingOutcome s kind loc event, 2)
  else (transientOutcome s kind loc event, 1)

/-- The unit holds state of a loaded job, so that its test waits: a bank of mode KEEP, HBM3E, and LPDDR5X that
the job uses (16 R530; log 39). -/
def holdsJob (s : State) (kind index : Nat) : Bool :=
  s.course.isSome &&
    match kind with
    | 3 => s.bankMode.get 0 index = 2
    | 5 => s.bankMode.get 0 (6144 + index) = 2
    | 8 | 9 | 10 => true
    | 11 => index < 0x10010 || (usedRanges s).contains index
    | _ => false

/-- Units that SELFTEST names, by kind (16, unit-kind table). -/
def unitCount (kind : Nat) : Nat :=
  match kind with
  | 1 => 1536 | 2 => 768 | 3 => 6144 | 4 => 96 | 5 => 3072 | 6 => 14 | 7 => 105 | 8 => 16 | 10 => 32
  | 12 => 16 | 13 => 16 | 14 => 2 | _ => 0

/-- A unit is not present or already out of service (16 R535). -/
def unitAbsent (s : State) (kind i : Nat) : Bool :=
  let out := s.vault.fmap.any (fun e => e.kind = kind && e.location = i && e.state = 1 && e.action ≠ 0)
  match kind with
  | 1 => !present s (i / 2)
  | 2 => !present s i
  | 3 => !present s (i / 8)
  | 4 => !live s i
  | 5 => !live s (i / 32) || out
  | 8 => decide (2 ≤ s.defects.get 0 (unitKey 8 i))
  | 10 => decide (2 ≤ s.defects.get 0 (unitKey 10 i))
  | 12 => portHeld s i
  | 13 => s.ctl.moonDead.get false i
  | 14 => if i = 0 then !s.ctl.hd0Ok else !s.ctl.hd1Ok
  | _ => out

/-- The loaded course uses a unit or the unit holds job state, or it is the acting supervisor (16 R535;
log 39). -/
def unitInUse (s : State) (kind i : Nat) : Bool :=
  match s.course with
  | none => kind = 14 && i = b2n s.ctl.hd1
  | some c =>
    match kind with
    | 1 => c.stations.contains (i / 2)
    | 2 => c.stations.contains i
    | 3 => c.stations.contains (i / 8)
    | 4 => c.stations.any (fun n => n / 8 = i)
    | 5 => s.bankMode.get 0 (6144 + i) ≠ 0
    | 12 => usedPort s i
    | 13 => false
    | 14 => i = b2n s.ctl.hd1
    | _ => true

/-- A queued test may run: between RUNs or without a job, or in a RUN that does not use its unit and that no error
ends (16 R527, R530, R534). -/
def testMayRun (s : State) (t : Test) : Bool :=
  (s.jobState = 0 || s.jobState = 2 || (s.jobState = 3 && !s.stop.wanted && !unitInUse s t.kind t.index))
    && s.stop.stage ≠ 1 && !holdsJob s t.kind t.index

/-- SELFTEST_RUN: the first queued test whose unit is free (16 R530 to R534; log 39). -/
def execSelftestRun (s : State) : Out :=
  if s.power.stage < 8 || s.power.stopped || s.power.noSup then .next s
  else
    match s.tests.find? (testMayRun s) with
    | some t => .next (testUnit { s with tests := s.tests.erase t } t.kind t.index t.event).1
    | none => .next s

/-- SELFTEST of one unit (16 R535). -/
def execSelftestUnit (src : Src) (kind i : Nat) (s : State) : Out :=
  command src .test false s (fun s =>
    if unitCount kind ≤ i then .next (complete s src stInvalid 0)
    else if unitAbsent s kind i then .next (complete s src stOK 4)
    else if unitInUse s kind i then .next (complete s src stOK 3)
    else
      let loc := locOf s kind i
      let s := wipeUnit s kind i
      if reproduces s kind loc then .next (complete (lastingOutcome s kind loc 0) src stOK 2)
      else .next (complete (setLast s kind 0 0 loc) src stOK 0))

/-- Units of power-up step 7 whose tests reproduce a fault (15 R505; 16 R535). -/
def foundUnits (s : State) : List (Nat × Nat) :=
  let d := (s.defects.filter (fun e => e.2 = 1)).map (fun e => defectUnit e.1)
  let w := (s.wireFault.filter (·.2)).map (fun e => (1, e.1))
  ((d ++ w).filter (fun u => bootTested u.1)).foldl (fun l u =>
    let u := if u.1 = 6 then (6, u.2 % 64) else u
    if l.contains u then l else l ++ [u]) []

/-- SELFTEST of the whole module: the tests of power-up step 7, and the most severe outcome (16 R535). -/
def execSelftestModule (src : Src) (s : State) : Out :=
  command src .test false s (fun s =>
    let l := foundUnits s
    let s := l.foldl (fun s u => lastingOutcome s u.1 u.2 0) ((working s).foldl offBoot s)
    .next (complete s src stOK (if l = [] then 0 else 2)))

/-- CTL_MOON_LOCKSTEP: the die's other pair serves all 12 clusters, a fault stop begins, and the pair is tested
(16 R525, R530, R536). -/
def execCtlMoonLockstep (die pair : Nat) (s : State) : Out :=
  if 8 ≤ die || 2 ≤ pair || s.power.stage < 3 || s.power.stopped || !moonServes s die pair then .next s
  else
    let s := raise { s with ctl := { s.ctl with moonOut := s.ctl.moonOut.set (2 * die + pair) true } }
      0x0C07 die pair none
    .next (wantStop (requestTest s 13 (2 * die + pair) 0x0C07) 0x0C07)

/-- Commands in progress complete with FAULT, but for a RUN, which ends by its fault stop (16 R537). -/
def failCommands (s : State) : State :=
  let waits := s.run.halts ++ s.wins.flatMap (fun e => e.2.closers)
    ++ (match s.snap with | some x => [x.src] | none => []) ++ s.power.clockWait.map (·.1)
    ++ (match s.dump.src with | some x => [x.1] | none => [])
  let s := { s with
    run := { s.run with halts := [] }, wins := s.wins.map (fun e => (e.1, { e.2 with closers := [] })), snap := none, copies := []
    power := { s.power with clockWait := [] }, dump := { s.dump with src := none } }
  let s := waits.foldl (fun s c => complete s c stFault 0) s
  let outs := s.qps.flatMap (fun e => e.2.outs.map (fun o => Src.mk e.1 o.cid))
  (outs.filter (fun c => s.run.src ≠ some c)).foldl (fun s c => complete s c stFault 0) s

/-- CTL_SUPERVISOR_LOCKSTEP: the standby acts, commands in progress complete, and a RUN ends by a fault stop;
with no standby the module stops all work until V40_IN is removed (16 R537, R538). -/
def execCtlSupervisorLockstep (s : State) : Out :=
  if s.power.stage < 3 || s.power.stopped || s.power.noSup || s.ctl.failing then .next s
  else
    let c := s.ctl
    if if c.hd1 then !c.hd0Ok else !c.hd1Ok then
      .next (updPower (haltAll { s with ctl := if c.hd1 then { c with hd1Ok := false } else { c with hd0Ok := false } })
        (fun p => { p with noSup := true }))
    else
      let ctl := if c.hd1 then { c with hd1 := false, hd1Ok := false, failing := true }
        else { c with hd1 := true, hd0Ok := false, failing := true }
      let s := raise (setBit { s with ctl := ctl } fltStatus 11) 0x0C08 (if c.hd1 then 9 else 8) 0 none
      .next (failCommands (wantStop s 0x0C08))

/-- CTL_FAILOVER_DONE: the failed pair's test ends; a transient pair becomes the standby (16 R532, R537). -/
def execCtlFailoverDone (s : State) : Out :=
  if !s.ctl.failing then .next s
  else
    let i := if s.ctl.hd1 then 0 else 1
    let r := testUnit { s with ctl := { s.ctl with failing := false } } 14 i 0x0C08
    let s := r.1
    let s := if r.2 = 2 then s
      else { s with ctl := if i = 0 then { s.ctl with hd0Ok := true } else { s.ctl with hd1Ok := true } }
    .next (raise s 0x0C09 (8 + i) 0 none)

/-- FAULT_N is driven low (15 R503, R507, R510; 16 R527, R528, R538; 18 R584). -/
def faultLow (s : State) : Bool := s.stop.active || s.power.railFault || s.power.netFault || s.power.noSup

/-- THERM_TRIP_N is driven low (18 R584; 19 R592). -/
def tripLow (s : State) : Bool := s.power.trip

end Sys2Proof.Machine
end

