-- ==== Sys2Proof/Machine/Mgmt.lean ====
section
/-! DEFINITION. The management interface: I3C addresses, MCTP and PLDM commands, sensors, enrollment, the
debug port and the management vault read (17 R558, R560; 18 R574, R578 to R585; 19 R591). -/
namespace Sys2Proof.Machine
open Sys2Proof

/-- The endpoint answers: from the end of power-up step 3, on a supervisor that works (16 R538; 18 R578). -/
def mgtUp (s : State) : Bool := decide (3 ≤ s.power.stage) && !s.power.stopped && !s.power.noSup

/-- A request is answered and counted (18 R578, R585). -/
def answer (s : State) (a : Answer) : State :=
  bump { s with mgt := { s.mgt with reply := some a } } (regKey 10 0xA88) 0 32 1

/-- A request that is answered, or nothing while the endpoint does not answer. -/
def request (s : State) (f : State → State) : Out := if !mgtUp s then .next s else .next (f s)

/-- An answer whose contents the spec does not state: free values of a draw (18 R579; log 40). -/
def openAnswer (s : State) : State :=
  let d := draw s
  answer d.1 (.unstated d.2)

/-- A dynamic address is assigned (18 R578). -/
def assignAddress (addr : Nat) (s : State) : Out :=
  if !mgtUp s || s.mgt.i3c || 128 ≤ addr then .next s
  else .next { s with mgt := { s.mgt with i3c := true, address := addr } }

/-- ENTDAA (18 R578). -/
def execEntdaa (addr : Nat) (s : State) : Out := assignAddress addr s

/-- SETDASA, from static address 0x5A (18 R578). -/
def execSetdasa (addr : Nat) (s : State) : Out := assignAddress addr s

/-- RSTDAA: the endpoint answers at its static address again (18 R578). -/
def execRstdaa (s : State) : Out :=
  if !mgtUp s then .next s else .next { s with mgt := { s.mgt with i3c := false, address := 0x5A } }

/-- SET_ENDPOINT_ID: operations 0 set and 1 force; identifiers 8 to 254 (18 R579, R585; log 40). -/
def execSetEndpointId (op eid : Nat) (s : State) : Out :=
  request s (fun s =>
    if 2 ≤ op || eid < 8 || 255 ≤ eid then answer s .refused
    else answer { s with mgt := { s.mgt with eid := eid, eidValid := true } } (.numbers [eid]))

/-- GET_ENDPOINT_ID (18 R579). -/
def execGetEndpointId (s : State) : Out := request s (fun s => answer s (.numbers [s.mgt.eid]))

/-- MCTP message types: control, PLDM, vendor-defined (18 R579). -/
def messageTypes : List Nat := [0x00, 0x01, 0x7F]

/-- GET_MCTP_VERSION_SUPPORT: the version numbers are not stated (18 R579; log 40). -/
def execGetMctpVersionSupport (msgType : Nat) (s : State) : Out :=
  request s (fun s => if messageTypes.contains msgType then openAnswer s else answer s .refused)

/-- GET_MESSAGE_TYPE_SUPPORT (18 R579). -/
def execGetMessageTypeSupport (s : State) : Out := request s (fun s => answer s (.numbers messageTypes))

/-- GET_TID (18 R579). -/
def execGetTid (s : State) : Out := request s (fun s => answer s (.numbers [s.mgt.tid]))

/-- SET_TID: terminus identifiers 1 to 254 (18 R579; log 40). -/
def execSetTid (tid : Nat) (s : State) : Out :=
  request s (fun s =>
    if tid = 0 || 255 ≤ tid then answer s .refused
    else answer { s with mgt := { s.mgt with tid := tid } } (.numbers []))

/-- PLDM commands by type, in the order that R579 lists them, as their PLDM codes (18 R579; log 40). -/
def pldmCommands (type : Nat) : List Nat :=
  match type with
  | 0 => [0x02, 0x01, 0x03, 0x04, 0x05]
  | 2 => [0x50, 0x51, 0x11, 0x21, 0x12]
  | _ => []

/-- GET_PLDM_VERSION: the version numbers are not stated (18 R579; log 40). -/
def execGetPldmVersion (_handle _flag type : Nat) (s : State) : Out :=
  request s (fun s => if pldmCommands type = [] then answer s .refused else openAnswer s)

/-- GET_PLDM_TYPES: types 0 and 2 (18 R579). -/
def execGetPldmTypes (s : State) : Out := request s (fun s => answer s (.numbers [0, 2]))

/-- GET_PLDM_COMMANDS (18 R579). -/
def execGetPldmCommands (type _version : Nat) (s : State) : Out :=
  request s (fun s => if pldmCommands type = [] then answer s .refused else answer s (.numbers (pldmCommands type)))

/-- GET_PDR_REPOSITORY_INFO: its contents are not stated (18 R579; log 40). -/
def execGetPdrRepositoryInfo (s : State) : Out := request s openAnswer

/-- GET_PDR: the records are not stated (18 R579; log 40). -/
def execGetPdr (_record _handle _flag _count : Nat) (s : State) : Out := request s openAnswer

/-- Numeric sensors (18 R580). -/
def numericSensor (i : Nat) : Bool := decide (1 ≤ i) && decide (i ≤ 33)

/-- A sensor's source runs: HBM3E and LPDDR5X from power-up step 5 (18 R580). -/
def sensorUp (s : State) (i : Nat) : Bool :=
  if (15 ≤ i && i ≤ 30) || i = 33 then decide (5 ≤ s.power.stage) else true

/-- GET_SENSOR_READING: the last reading of a numeric sensor (18 R580). -/
def execGetSensorReading (i : Nat) (_rearm : Bool) (s : State) : Out :=
  request s (fun s =>
    if !numericSensor i then answer s .refused
    else answer s (.reading (if sensorUp s i then (s.mgt.sensors.find? (fun e => e.1 = i)).map (·.2) else none)))

/-- GET_STATE_SENSOR_READINGS: sensors 40 and 41 (18 R580). -/
def execGetStateSensorReadings (i : Nat) (s : State) : Out :=
  request s (fun s =>
    if i ≠ 40 && i ≠ 41 then answer s .refused
    else answer s (.reading ((s.mgt.sensors.find? (fun e => e.1 = i)).map (·.2))))

/-- Thresholds of a numeric sensor: V40_IN in mV, temperatures in °C (14 R491; 19 R591). -/
def thresholdsOf (i : Nat) : List (Nat × Int) :=
  let t (w c f : Int) : List (Nat × Int) := [(2, w), (3, c), (4, f)]
  if i = 1 then [(0, 35000), (1, 32000), (2, 44500), (4, 46000)]
  else if 5 ≤ i && i ≤ 12 then t 95 100 115
  else if i = 13 || i = 14 then t 95 105 115
  else if (15 ≤ i && i ≤ 30) || i = 33 then t 85 95 105
  else if i = 31 || i = 32 then t 100 110 125
  else []

/-- GET_SENSOR_THRESHOLDS (18 R580; 19 R591). -/
def execGetSensorThresholds (i : Nat) (s : State) : Out :=
  request s (fun s => if numericSensor i then answer s (.thresholds (thresholdsOf i)) else answer s .refused)

/-- Readings of sensor 41 that apply: 1 fault stop active, 2 supply warning, 3 vault READ_ONLY or FAILED
(18 R580). -/
def healthCodes (s : State) : List Nat :=
  (if s.stop.active then [1] else []) ++ (if s.power.warn then [2] else []) ++ (if 2 ≤ s.vault.state then [3] else [])

/-- The reading of sensor 41; where several apply the spec does not say which it gives (18 R580; log 40). -/
def health (s : State) (k : Nat) : Nat :=
  let l := healthCodes s
  (l[(Config.freeWord k).toNat % max 1 l.length]?).getD 0

/-- Thermal cycles: the hottest die rises above 70 °C after it has been below 40 °C (18 R576). -/
def thermalCycle (s : State) : State :=
  let dies := (List.range 10).filterMap (fun i => (s.mgt.sensors.find? (fun e => e.1 = 5 + i)).map (·.2))
  if dies = [] then s
  else if dies.all (· < 40) then { s with mgt := { s.mgt with cold := true } }
  else if s.mgt.cold && dies.any (70 < ·) then
    { s with mgt := { s.mgt with cold := false }
             vault := { s.vault with life := { s.vault.life with thermal := s.vault.life.thermal + 1 } } }
  else s

/-- PLDM_SENSOR_UPDATE: measured readings of sensors 1 to 3 and 5 to 33; the others follow the state, and temp_c of a
stack follows its sensor (09 R353; 18 R580; log 36). -/
def execPldmSensorUpdate (readings : List (Nat × Int)) (s : State) : Out :=
  if !mgtUp s then .next s
  else
    let d := draw s
    let s := d.1
    let l := readings.filter (fun e => numericSensor e.1 && e.1 ≠ 4 && sensorUp s e.1)
    let t := l.foldl (fun (t : Table Int) e => t.set e.1 e.2) s.mgt.sensors
    let t := ((t.set 4 (effCap s)).set 40 s.jobState).set 41 (health s d.2)
    let s := (l.filter (fun e => decide (15 ≤ e.1) && decide (e.1 ≤ 30))).foldl (fun s e => readout s (e.1 - 15) e.2.toNat) s
    .next (thermalCycle { s with mgt := { s.mgt with sensors := t } })

/-- An enrollment record whose fields R582 allows. -/
def enrollOk (r : EnrollRec) : Bool :=
  r.length = 29888 && r.magic = 0x454E524C && r.format = 1 && r.reserved = 0 && decide (1 ≤ r.slot)
    && decide (r.slot ≤ 15) && r.serial = Config.serial % 2 ^ 128

/-- ENROLL (17 R558; 18 R571, R581, R582). -/
def execEnroll (r : EnrollRec) (s : State) : Out :=
  request s (fun s =>
    let out (s : State) (st : Nat) : State := answer s (.vendor st [])
    if !enrollOk r then out s stInvalid
    else if s.power.warn then out s 0x09
    else
      let s := readDual s false
      let owner := s.vault.courseKeys.get 0 0
      if owner = 0 || r.signedBy ≠ owner then out s 0x02
      else if r.version ≤ s.vault.counters.get 0 1 then out s 0x0C
      else if s.vault.state ≠ 0 then out s stFault
      else
        let s := commitNow s (fun v =>
          { v with courseKeys := if r.key = 0 then v.courseKeys.drop r.slot else v.courseKeys.set r.slot r.key
                   counters := v.counters.set 1 r.version })
        out (raise s 0x0B09 15 0 none) stOK)

/-- The module's job ends as a reset ends it, and all its memory is zeroised (15 R514; 17 R560). -/
def endForDebug (s : State) : State :=
  let s := jobless s
  let s := { s with reached := [], qps := s.qps.map (fun e => (e.1, { e.2 with outs := [], replays := [] }))
                    power := { s.power with clockWait := [] } }
  let d := draw (zeroise (zeroFast s) lpBase 0x03C700000000)
  raise { d.1 with zeroDraw := some d.2 } 0x0A07 15 0 none

/-- The identity of the debug key in ROM (17 R560; log 2, 32). -/
def debugKey : Nat := 3

/-- An unlock token whose fields R583 allows. -/
def tokenOk (s : State) (t : Token) : Bool :=
  t.length = 29824 && t.magic = 0x44424755 && t.format = 1 && t.reserved = 0 && t.serial = Config.serial % 2 ^ 128
    && t.boot = s.vault.counters.get 0 0

/-- UNLOCK: ends any job, raises its event and sets debug_open (17 R560; 18 R567, R572, R583; log 40). -/
def execUnlock (t : Token) (s : State) : Out :=
  request s (fun s =>
    if vaultFailed s then answer s (.vendor stFault [])
    else if !tokenOk s t then answer s (.vendor stInvalid [])
    else if t.signedBy ≠ debugKey then answer s (.vendor 0x02 [])
    else answer { raise (endForDebug s) 0x0A06 15 0 none with debugOpen := true } (.vendor stOK []))

/-- MGT_VAULT_READ: up to 1,024 bytes of an area (18 R565, R574, R581). -/
def execMgtVaultRead (off len area : Nat) (s : State) : Out :=
  request s (fun s =>
    match areaEnd s area with
    | none => answer s (.vendor stInvalid [])
    | some n =>
      if 1024 < len || n < off + len then answer s (.vendor stInvalid [])
      else if s.power.warn then answer s (.vendor 0x09 [])
      else
        let r := readArea s area off len
        answer r.1 (.vendor stOK r.2))

end Sys2Proof.Machine
end

