-- ==== Sys2Proof/Machine/Commands.lean ====
section
/-! DEFINITION. Host commands: IDENTIFY, COPY, PROVISION_KEY, ATTEST, SET_BUDGET, READ_TELEMETRY and
ARM_OFFLOAD (05 R198 to R200; 13 R449, R450, R458 to R460; 14 R494, R497; 17 R546 to R555). -/
namespace Sys2Proof.Machine
open Sys2Proof

/-- IDENTIFY, accepted from ready on (06 R249; 13 R450; 15 R505). -/
def execIdentify (src : Src) (addr : Nat) (s : State) : Out :=
  if !s.power.ready then .next s
  else
    command src .any false s (fun s =>
      toHost s src addr (capBlock s) (fun s => complete s src stOK s.capGen))

/-- A range that COPY may name: HBM3E, LPDDR5X exchange or general, or one store bank of mode KEEP
(13 R458). -/
def copyRange (s : State) (a len : Nat) : Bool :=
  len ≠ 0 && len % 256 = 0 && decide (len ≤ 64 * 2 ^ 30) && a % 256 = 0 &&
    (if a < 0x018000000000 then decide (a + len ≤ 0x018000000000)
     else if lpBase ≤ a && a < dumpBase then decide (a + len ≤ dumpBase)
     else if 0x024004000000 ≤ a && a < 0x03C700000000 then decide (a + len ≤ 0x03C700000000)
     else
       match placeMap s a with
       | .store g =>
         let b := 6144 + 32 * g + (a - storeAddr g) / 0x400000
         (a - storeAddr g) / 0x400000 = (a + len - 1 - storeAddr g) / 0x400000 && s.bankMode.get 0 b = 2
       | _ => false)

/-- Reserved addresses in a range that firmware is to reach (01 R43). -/
def reachesReserved (s : State) (a len : Nat) : Bool := (probes a len).any (fun p => place s p = .reserved)

/-- The slot's key matches the crypto value and direction (13 R459). -/
def copyKeyOk (s : State) (p : CopyP) : Bool :=
  match p.crypto with
  | 0 => true
  | 1 => p.dir = 0 && (match s.keys.data.get (9, 0) p.slot with | (k, _) => k = 0)
  | 2 => p.dir = 0 && p.length % 4096 = 0 && (match s.keys.data.get (9, 0) p.slot with | (k, _) => k = 1)
  | _ => p.dir = 1 && p.slot = 0 && s.keys.output.isSome

/-- Parameters of COPY that R449, R458 and R304 allow. -/
def copyOk (s : State) (p : CopyP) : Bool :=
  decide (p.dir < 2) && decide (p.crypto < 4) && decide (p.slot < 16) && copyRange s p.addr p.length
    && (p.hurdle = 0 || (decide (p.hurdle < 2 ^ 32) && !addrBad s p.hurdle))

/-- The IV of record `i` of a GCM ingest (17 R553). -/
def copyIv (p : CopyP) (i : Nat) : Nat := setBits (p.iv % 2 ^ 96) 31 0 (p.iv % 2 ^ 32 + i)

/-- The plain text of record `i` of a GCM ingest, which takes up to 65,552 host bytes; none where its tag fails
(17 R553). -/
def openCopy (key : Nat) (p : CopyP) (i : Nat) (bs : List Byte) : Option (List Byte) :=
  gcmOpen key (copyIv p i) [] (sized (min 65536 (p.length - 65536 * i) + 16) bs)

/-- The records of a GCM ingest from record `i` on: each is written, or its tag fails (17 R553). -/
def ingest (s : State) (key : Nat) (p : CopyP) : Nat → Nat → List Byte → State × Bool
  | 0, _, _ => (s, true)
  | n + 1, i, bs =>
    let o := openCopy key p i (bs.take 65552)
    let a := p.addr + 65536 * i
    let s := match o with
      | some x => (writeMem s a (exchOut s a x)).1
      | none => raise (setBit (bump s (regKey 10 0x910) 0 32 1) (regKey 10 0x900) 8) 0x0A01 15 0 none
    let r := ingest s key p n (i + 1) (bs.drop 65552)
    (r.1, o.isSome && r.2)

/-- The units of an XTS ingest from unit `i` on, deciphered (17 R553). -/
def openUnits (key tweak : Nat) : Nat → Nat → List Byte → List Byte
  | 0, _, _ => []
  | n + 1, i, bs => xts true key ((tweak + i) % 2 ^ 128) (bs.take 4096) ++ openUnits key tweak n (i + 1) (bs.drop 4096)

/-- The plain text of a COPY to the module without GCM framing (17 R553). -/
def copyPlain (key : Nat) (p : CopyP) (data : List Byte) : List Byte :=
  let bs := sized p.length data
  if p.crypto = 2 then openUnits key p.iv (p.length / 4096) 0 bs else bs

/-- Output records of a COPY to host memory (17 R554). -/
def egress (s : State) (host : Nat) : Nat → Nat → List Byte → State
  | 0, _, _ => s
  | n + 1, i, bs =>
    let r := egressRecord s 1 i (bs.take 65536)
    egress (hostWrite r.1 (host + 65600 * i) r.2) host n (i + 1) (bs.drop 65536)

/-- A COPY ends OK: the done hurdle is signalled after its last byte (13 R460). -/
def copyDone (s : State) (src : Src) (p : CopyP) : State :=
  complete (if p.hurdle = 0 then s else signalTo s 104 p.hurdle 1) src stOK 0

/-- A sealed COPY to the module ends OK, or FAULT where a data unit's tag failed (17 R553). -/
def copyEnd (src : Src) (p : CopyP) (r : State × Bool) : State :=
  if r.2 then copyDone r.1 src p else complete r.1 src stFault 0

/-- A COPY to the module; where the read of host memory fails, the range holds free values (13 R431, R459; 17 R553;
log 16). -/
def copyIn (s : State) (src : Src) (key : Nat) (p : CopyP) (inp : CopyIn) : State :=
  if inp.dmaError then dmaFault (undefMem (wakeRange s p.addr p.length) p.addr p.length) src
  else
    let s := wakeRange s p.addr p.length
    if p.crypto = 1 then
      copyEnd src p (ingest s key p ((p.length + 65535) / 65536) 0 inp.data)
    else
      copyDone (writeMem s p.addr (exchOut s p.addr (copyPlain key p inp.data))).1 src p

/-- A COPY to host memory (13 R459; 17 R554). -/
def copyOut (s : State) (src : Src) (p : CopyP) : State :=
  let n := (p.length + 65535) / 65536
  let out := if p.crypto = 3 then 65600 * n else p.length
  let r := readMem (wakeRange s p.addr p.length) p.addr p.length
  if r.fail.isSome then complete r.s src stFault 0
  else if hostFails r.s p.host out then writeFault r.s src p.host out
  else
    let bs := exchIn r.s p.addr (readBytes r p.addr p.length)
    if p.crypto = 3 then copyDone (egress r.s p.host n 0 bs) src p
    else copyDone (hostWrite r.s p.host bs) src p

/-- A COPY waits: a bank that it reaches is changing, or a hop between the host port and its range has stopped
(01 R34, R37; 07 R269). -/
def copyWaits (s : State) (p : CopyP) : Bool :=
  changing s p.addr p.length || !(diePoints p.addr p.length).all (hostOpen s)

/-- The move of a COPY, with the data key that its slot held when it started (13 R459; 17 R550, R553, R554). -/
def copyMove (s : State) (c : HeldCopy) : State :=
  if c.p.dir = 0 then copyIn s c.src c.key c.p c.inp else copyOut s c.src c.p

/-- The waiting COPYs that can go on do so, in order (07 R269). -/
def goCopies (s : State) : State :=
  (s.copies.filter (fun c => !copyWaits s c.p)).foldl copyMove { s with copies := s.copies.filter (fun c => copyWaits s c.p) }

/-- COPY (13 R448, R449, R458 to R460; 01 R43; log 41). -/
def execCopy (src : Src) (p : CopyP) (inp : CopyIn) (s : State) : Out :=
  command src .job true s (fun s =>
    if !copyOk s p || !copyKeyOk s p then .next (complete s src stInvalid 0)
    else if sealedJob s && p.dir = 1 && p.crypto = 0 then .next (complete s src 0x07 0)
    else if reachesReserved (wakeRange s p.addr p.length) p.addr p.length then
      .next (complete (reservedAccess s 15 0) src stFault 0)
    else
      let c : HeldCopy := { src := src, key := (s.keys.data.get (9, 0) p.slot).2, p := p, inp := inp }
      if copyWaits s p then .next { s with copies := s.copies ++ [c] } else .next (copyMove s c))

/-- A wrapped key that R549 step 1 allows. -/
def wrappedOk (s : State) (len slot kind : Nat) (w : Wrapped) : Bool :=
  len = (if kind = 1 then 1728 else 1696) && w.magic = 0x574B4559 && w.version = 1 && w.reserved = 0
    && w.kind = kind && w.slot = slot
    && (match s.course with | some c => w.job = c.hdr.job && w.measure = c.measure | none => false)

/-- A key that is accepted once per job is already held (13 R450; 17 R550). -/
def keyHeld (s : State) (kind : Nat) : Bool :=
  match kind with
  | 2 => s.keys.output.isSome
  | 3 => s.keys.offload.isSome
  | 4 => s.keys.link.isSome
  | _ => false

/-- The key register takes the key (17 R550, R554). -/
def putKey (k : Keys) (slot kind key : Nat) : Keys :=
  match kind with
  | 2 => { k with output := some key, egress := 0 }
  | 3 => { k with offload := some key }
  | 4 => { k with link := some key }
  | _ => { k with data := k.data.set slot (kind, key) }

/-- The seed of the module's ML-KEM-1024 key pair (17 R543). -/
def kemSeed : List Byte := shake256 (ascii "IXG816/KEM" ++ leBytes 32 Config.dus) 64

/-- Bytes 0 to 79 of a wrapped key (17 R548). -/
def wrapHead (w : Wrapped) : List Byte := sized 80 w.bytes

/-- The key that a wrapped key yields; none where its tag fails (17 R549 steps 2 to 4). -/
def unwrapKey (w : Wrapped) : Option (List Byte) :=
  let ss := sized 32 (Config.kemSecret kemSeed w.kemCt)
  gcmOpen (ofLe (shake256 (ascii "IXG816/WRAP" ++ ss ++ wrapHead w) 32)) 0 (wrapHead w)
    (sized (if w.kind = 1 then 80 else 48) w.wrapped)

/-- PROVISION_KEY (13 R449, R450; 17 R548 to R550, R560; log 41). -/
def execProvisionKey (src : Src) (_addr len slot kind : Nat) (w : Wrapped) (s : State) : Out :=
  command src .job false s (fun s =>
    if s.debugOpen then .next (complete s src 0x02 0)
    else if 5 ≤ kind || 16 ≤ slot || (2 ≤ kind && slot ≠ 0) then .next (complete s src stInvalid 0)
    else if keyHeld s kind then .next (complete s src 0x04 0)
    else if w.dmaError then .next (dmaFault s src)
    else if !wrappedOk s len slot kind w then .next (complete s src stInvalid 0)
    else
      match unwrapKey w with
      | none => .next (complete (raise (setBit s (regKey 10 0x900) 9) 0x0A02 15 0 none) src 0x02 0)
      | some k =>
        if kind = 1 && k.take 32 = k.drop 32 then .next (complete s src stInvalid 0)
        else .next (complete { s with keys := putKey s.keys slot kind (ofLe k) } src stOK 0))

/-- SEC_KEY_STATE: data slots that hold a key, and those of kind 1 (17 R561). -/
def keyState (s : State) : Nat :=
  bitsOf 16 (fun i => (s.keys.data.get (9, 0) i).1 ≤ 1)
    + bitsOf 16 (fun i => (s.keys.data.get (9, 0) i).1 = 1) * 2 ^ 16

/-- The measurement of the supplement of a type in effect (17 R545). -/
def suppMeasure (s : State) (t : Nat) : Nat := (s.suppsEff.get (0, 0) t).2

/-- The seed of the Device Identity Key (17 R543). -/
def dikSeed : List Byte := shake256 (ascii "IXG816/DIK" ++ leBytes 32 Config.dus) 96

/-- The public key of the Device Identity Key, 64 bytes (17 R543). -/
def dikPublic : List Byte := sized 64 (Config.slhPublic dikSeed)

/-- The ML-KEM-1024 encapsulation key, 1,568 bytes (17 R543). -/
def kemKey : List Byte := sized 1568 (Config.kemPublic kemSeed)

/-- The identity certificate: its body and its signature (17 R544). -/
def certificate : List Byte :=
  leBytes 4 0x49435254 ++ leBytes 2 1 ++ leBytes 2 0 ++ leBytes 16 Config.serial ++ leBytes 1 0xA0 ++ List.replicate 39 0
    ++ dikPublic ++ kemKey ++ sized 29792 Config.certSignature

/-- The attestation report before its signature (17 R547). -/
def reportBody (s : State) (nonce : List Byte) : List Byte :=
  let flags := putFields 0 [(0, 0, b2n (sealedJob s)), (1, 1, b2n (debugCourse s)), (4, 2, s.jobState)
    , (5, 5, b2n s.vault.cert), (6, 6, b2n s.debugOpen)]
  let cm := match s.course with | some c => c.measure | none => 0
  let cc := match s.course with | some c => s.vault.counters.get 0 c.hdr.counter | none => 0
  let ks := putFields 0 [(15, 0, keyState s), (16, 16, b2n s.keys.output.isSome), (17, 17, b2n s.keys.offload.isSome)
    , (18, 18, b2n s.keys.link.isSome)]
  leBytes 4 0x41545331 ++ leBytes 2 1 ++ leBytes 2 flags ++ leBytes 2 (s.moduleId % 1024) ++ leBytes 1 0xA0
    ++ leBytes 1 1 ++ leBytes 4 (jobNo s) ++ sized 32 nonce ++ shake256 Config.rom 64
    ++ [1, 2, 3].flatMap (fun t => leBytes 64 (suppMeasure s t)) ++ leBytes 64 cm
    ++ shake256 (faultMapBytes s) 64 ++ leBytes 8 (s.vault.counters.get 0 0) ++ leBytes 8 cc
    ++ leBytes 4 ks ++ List.replicate 60 0 ++ dikPublic ++ kemKey
    ++ (if s.vault.cert then certificate else List.replicate 31488 0)

/-- ATTEST: the report of one instant, signed by the device identity key (13 R449; 17 R546, R547). -/
def execAttest (src : Src) (nonce : List Byte) (addr len : Nat) (s : State) : Out :=
  command src .any false s (fun s =>
    if len < 63424 then .next (complete s src stInvalid 0)
    else
      let b := reportBody s nonce
      toHost s src addr (b ++ sized 29792 (Config.slhSign dikSeed b)) (fun s => complete s src stOK 63424))

/-- SET_BUDGET: the cap, cap_watts and ceiling_max (06 R246, R249; 13 R449, R450; 14 R494). -/
def execSetBudget (src : Src) (cap : Nat) (s : State) : Out :=
  command src .any false s (fun s =>
    if cap < 4000 || 14000 < cap then .next (complete s src stInvalid 0)
    else
      let s := rewriteCap (updPower s (fun p => { p with cap := cap }))
      .next (complete s src stOK (cap + ceilingMax s * 2 ^ 32)))

/-- Telemetry page 0 (13 R450). -/
def page0 (s : State) : List Byte :=
  leBytes 8 s.timeNs ++ leBytes 1 s.jobState ++ leBytes 1 (b2n (sealedJob s)) ++ leBytes 2 (s.moduleId % 1024)
    ++ leBytes 4 (jobNo s) ++ leBytes 4 s.runNo ++ leBytes 4 0 ++ leBytes 8 s.steps ++ leBytes 8 s.evTotal
    ++ leBytes 8 s.cmdTotal

/-- Telemetry page 1: power; means and energy are measured values of draw `d` (14 R497; log 36). -/
def page1 (s : State) (d : Nat) : List Byte :=
  let p := s.power
  let h := sealedJob s
  leBytes 8 s.timeNs
    ++ (if h then measured d 0 12 else leBytes 4 p.mv ++ leBytes 4 (10 * p.ca) ++ leBytes 4 p.watts)
    ++ leBytes 4 p.cap ++ leBytes 4 p.alertCap
    ++ leBytes 4 (b2n p.warn + 2 * b2n p.alert + 4 * b2n (p.backstop || p.halfWest || p.halfEast))
    ++ (if h then leBytes 8 0 else leBytes 4 p.west ++ leBytes 4 p.east) ++ measured d 12 8

/-- Telemetry page 2: clocks (14 R497; log 36). -/
def page2 (s : State) (d : Nat) : List Byte :=
  leBytes 8 s.timeNs ++ measured d 0 4 ++ List.replicate 52 0
    ++ (List.range 96).flatMap (fun i =>
      if sealedJob s || !live s i then leBytes 8 0
      else leBytes 2 ((clu s i).ratio * 100 / 65536) ++ leBytes 2 0 ++ leBytes 4 (clu s i).stretches)

/-- Telemetry page 3: temperatures, measured values of draw `d`; in a sealed job every cluster shows its die's
maximum (14 R497; log 36). -/
def page3 (s : State) (d : Nat) : List Byte :=
  leBytes 8 s.timeNs ++ List.replicate 56 0
    ++ (List.range 96).flatMap (fun i => if sealedJob s then measured d (2 * (i / 12)) 2 else measured d (2 * i) 2)
    ++ measured d 192 104

/-- READ_TELEMETRY (13 R450; 14 R497; 18 R576). -/
def execReadTelemetry (src : Src) (addr page : Nat) (s : State) : Out :=
  command src .any false s (fun s =>
    if 5 ≤ page then .next (complete s src stInvalid 0)
    else
      let d := draw s
      let s := if page = 0 then s else d.1
      let bs := match page with
        | 0 => page0 s
        | 1 => page1 s d.2
        | 2 => page2 s d.2
        | 3 => page3 s d.2
        | _ => lifeBytes s { s.vault.life with seconds := s.vault.life.seconds + s.timeNs / 1000000000 }
            (leBytes 8 s.timeNs) d.2
      toHost s src addr (sized 4096 bs) (fun s => complete s src stOK 4096))

/-- ARM_OFFLOAD: arms or re-arms a channel (05 R198, R200; 13 R447, R449, R450). -/
def execArmOffload (src : Src) (channel addr size : Nat) (s : State) : Out :=
  command src .run false s (fun s =>
    let named := match s.course with | some c => c.channels.contains channel | none => false
    if 8 ≤ channel || addr % 4096 ≠ 0 || size < 65600 || !named then .next (complete s src stInvalid 0)
    else
      .next (complete { s with ofls := s.ofls.upd {} channel (fun o => { o with armed := true, base := addr, size := size }) }
        src stOK (size / 65600 % 2 ^ 32)))

end Sys2Proof.Machine
end

