-- ==== Sys2Proof/Machine/Regs.lean ====
section
/-! DEFINITION. The register region: what every register reads as, how a write acts by the access type of its
fields, and the host's accesses through BAR0 and BAR2 (00 R10 to R14, R601; 01 R40, R43; 13 R433 to R435,
R469, R470; 14 R488; 15 R512). -/
namespace Sys2Proof.Machine
open Sys2Proof

/-- MEM_HBM_STATUS or MEM_LP_STATUS of a unit (09 R353). -/
def memStatus (s : State) (u : Nat) : Nat :=
  let x := dramOf s u
  putFields 0 [(0, 0, b2n x.trained), (1, 1, b2n x.sparesOut), (3, 2, x.refresh), (26, 16, x.sparesUsed)
    , (39, 32, x.temp), (47, 40, x.retired)]

/-- STN_CLU_TOKEN; 0 for a retired cluster (06 R248). -/
def cluToken (s : State) (g : Nat) : Nat :=
  if !live s g then 0
  else setBits (reg s (regKey (g / 12) (0x200 + 8 * (g % 12)))) 6 0 (ceiling s g)

/-- CLK_CLU (14 R499). -/
def clkClu (s : State) (g : Nat) : Nat :=
  let c := clu s g
  if !live s g || sealedJob s then 0
  else
    putFields (reg s (regKey (g / 12) (0x2800 + 8 * (g % 12)))) [(20, 0, c.ratio), (21, 21, b2n (!c.onBoot))
      , (22, 22, b2n c.ramping), (23, 23, b2n (s.power.thermal.get false g))]

/-- HUR_ECL (08 R333). -/
def hurEcl (s : State) (g : Nat) : Nat :=
  let p := poolOf s g
  if !live s g then 0
  else
    putFields 0 [(6, 0, p.1), (14, 8, p.2), (23, 16, bitsOf 8 (fun k => (stn s (8 * g + k)).eclipse))
      , (24, 24, b2n (clu s g).lowered)]

/-- Bank states, 2 bits each (07 R293, R294). -/
def bankBits (s : State) (first n : Nat) : Nat :=
  (List.range n).foldl (fun v i => v + s.bankState.get 0 (first + i) % 4 * 4 ^ i) 0

/-- STR_ENG as it reads; the engines of a retired cluster are absent (01 R28; 07 R295). -/
def strEngReg (s : State) (g e : Nat) : Nat := if !live s g then 0 else if sealedJob s then strEng s g e % 2 ^ 32 else strEng s g e

/-- Two counters of 32 bits side by side; 0 in a sealed job (08 R331). -/
def ctrPair (s : State) (f : Nat → Ctr) (i : Nat) : Nat :=
  if sealedJob s then 0 else (ctrVal s (f i)).toNat + (ctrVal s (f (i + 1))).toNat * 2 ^ 32

/-- The 64-bit word at an aligned offset of a compute-die window. -/
def cdReg (s : State) (d o : Nat) : Nat :=
  let k := reg s (regKey d o)
  if o = 0 then dieCoresReg s d
  else if 0x110 ≤ o && o ≤ 0x128 then (if sealedJob s then 0 else k)
  else if o = 0x130 then b2n (chkEnable s) + 2 * b2n (debugCourse s)
  else if 0x200 ≤ o && o < 0x260 then cluToken s (12 * d + (o - 0x200) / 8)
  else if 0x800 ≤ o && o < 0x860 then bankBits s (6144 + 32 * (12 * d + (o - 0x800) / 8)) 32
  else if 0x900 ≤ o && o < 0xA80 then strEngReg s (12 * d + (o - 0x900) / 32) ((o - 0x900) % 32 / 8)
  else if 0xB40 ≤ o && o < 0xBA0 then hurEcl s (12 * d + (o - 0xB40) / 8)
  else if 0xC00 ≤ o && o < 0xF00 then bankBits s (8 * (96 * d + (o - 0xC00) / 8)) 8
  else if 0x1000 ≤ o && o < 0x1300 then lbStateReg s (96 * d + (o - 0x1000) / 8)
  else if o = 0x2000 || o = 0x2008 then memStatus s (2 * d + (o - 0x2000) / 8)
  else if o = 0x20A0 then memScrub s d
  else if o = 0x2400 || o = 0x2440 then gwStatus s (2 * d + (o - 0x2400) / 64)
  else if o = 0x2408 || o = 0x2448 then gwChunks s (2 * d + (o - 0x2408) / 64)
  else if 0x2800 ≤ o && o < 0x2860 then clkClu s (12 * d + (o - 0x2800) / 8)
  else if 0x4000 ≤ o && o < 0x5800 then
    let x := arr s (96 * d + (o - 0x4000) / 64) ((o - 0x4000) % 64 / 32)
    if o % 32 = 0 then x.rowLo.toNat else if o % 32 = 8 then x.rowHi.toNat else if o % 32 = 16 then x.blk.toNat else 0
  else if 0x6000 ≤ o && o < 0x6300 then
    let n := 96 * d + (o - 0x6000) / 8
    if sealedJob s || !present s n then 0 else (stn s n).lfsr.toNat
  else if 0x7000 ≤ o && o < 0x7300 then stnPc s (96 * d + (o - 0x7000) / 8) (sealedJob s)
  else if 0x8000 ≤ o && o < 0xB000 then
    let w := win s (12 * d + (o - 0x8000) / 0x400) ((o - 0x8000) % 0x400 / 16)
    if o % 16 = 0 then winLo w else w.srcJob
  else if 0x10000 ≤ o && o < 0x16000 then
    ctrPair s (fun i => .core (96 * d + (o - 0x10000) / 0x100) i) ((o - 0x10000) % 0x100 / 4)
  else if 0x18000 ≤ o && o < 0x1B000 then
    ctrPair s (fun i => .cluster (12 * d + (o - 0x18000) / 0x400) i) ((o - 0x18000) % 0x400 / 4)
  else if 0x1C000 ≤ o && o < 0x1D000 then ctrPair s (fun i => .die d i) ((o - 0x1C000) / 4)
  else k

/-- CLK_GATE of a hub die (14 R488, R500). -/
def clkGate (s : State) (h : Nat) : Nat :=
  bitsOf 8 (fun p => !s.gated.get false (8 * h + p))
    + bitsOf 16 (fun j => s.defects.get 0 (unitKey 10 (16 * h + j)) < 2) * 2 ^ 8 + 2 ^ 24

/-- The 64-bit word at an aligned offset of a hub-die window (09 R353; 10 R379; 14 R488). -/
def hdReg (s : State) (h o : Nat) : Nat :=
  if o = 0x400 then clkGate s h
  else if 0x2000 ≤ o && o < 0x2080 then
    let j := 16 * h + (o - 0x2000) / 8
    if 2 ≤ s.defects.get 0 (unitKey 10 j) then 0 else memStatus s (16 + j)
  else if o = 0x20A0 then memScrub s (8 + h)
  else if 0x3000 ≤ o && o < 0x3200 then
    let p := 8 * h + (o - 0x3000) / 64
    if s.gated.get false p then 0
    else if o % 64 = 0 then portStatus s p
    else if o % 64 = 0x30 then (if (hport s p).trained then (Config.freeWord s.freeCtr).toNat else 0)
    else reg s (regKey (8 + h) o)
  else reg s (regKey (8 + h) o)

/-- CMD_STATUS (13 R469). -/
def cmdStatus (s : State) : Nat :=
  putFields 0 [(0, 0, b2n s.power.ready), (3, 1, s.jobState), (4, 4, b2n (sealedJob s)), (5, 5, b2n s.power.warn)]

/-- Registers of a queue pair (13 R470). -/
def qpReg (s : State) (q o : Nat) : Nat :=
  let x := qp s q
  match o with
  | 0x00 => x.sqBase
  | 0x08 => x.cqBase
  | 0x10 => putFields 0 [(11, 0, x.sqM1), (27, 16, x.cqM1), (42, 32, x.vector), (48, 48, b2n x.enable)
      , (49, 49, b2n (x.enable || x.outs ≠ []))]
  | 0x18 => putFields 0 [(11, 0, x.sqHead), (28, 16, x.outs.length), (43, 32, x.cqTail), (48, 48, b2n x.phase)]
  | _ => 0

/-- Comet Watch registers of a group; the norm and the loss read 0 in a sealed job (11 R402, R403, R412). -/
def cmwReg (s : State) (g o : Nat) : Nat :=
  let x := s.groups.get {} g
  match o with
  | 0x00 => min (2 ^ 32 - 1) (x.nfVote + s.nfCnt.get 0 g) + x.nfLast % 2 ^ 32 * 2 ^ 32
  | 0x08 => if sealedJob s then 0
      else (if s.coord.voted then x.norm else groupNorm s g).toNat + x.normLast.toNat * 2 ^ 32
  | 0x10 => if sealedJob s then 0 else x.mu.toNat + (fsqrt x.var).toNat * 2 ^ 32
  | _ => putFields 0 [(1, 0, x.cfg.nfAction), (3, 2, x.cfg.spikeAction), (8, 4, x.cfg.k), (12, 9, x.cfg.a)
      , (20, 13, x.cfg.warmup), (28, 21, x.reports), (29, 29, b2n x.spikeLast), (30, 30, b2n x.used)]

/-- STR_OFL_STATUS of a channel (05 R207). -/
def oflStatus (s : State) (c : Nat) : Nat :=
  putFields (reg s (oflReg c 0)) [(0, 0, b2n (ofl s c).armed), (1, 1, b2n (channelBusy s c))]

/-- STR_OFL_LAST of a channel (05 R207). -/
def oflLast (s : State) (c : Nat) : Nat := (ofl s c).last % 2 ^ 28 + b2n (ofl s c).any * 2 ^ 31

/-- Clock and power registers (14 R498; 15 R521). -/
def powerReg (s : State) (o : Nat) : Nat :=
  let p := s.power
  let k := reg s (regKey 10 o)
  match o with
  | 0x700 => putFields k [(0, 0, b2n p.refOk), (1, 1, b2n p.xtalOk), (2, 2, b2n p.xtalSrc)]
  | 0x708 => putFields 0 [(0, 0, b2n p.westCapped), (1, 1, b2n p.eastCapped), (27, 16, p.westMhz), (43, 32, p.eastMhz)]
  | 0x710 => putFields k [(0, 0, b2n p.warn), (1, 1, b2n p.alert), (2, 2, b2n (p.backstop || p.halfWest || p.halfEast))]
  | 0x718 => if sealedJob s then (Config.freeWord s.freeCtr).toNat % 2 ^ 48
      else putFields 0 [(15, 0, p.mv), (31, 16, p.ca), (47, 32, p.watts)]
  | 0x720 => putFields 0 [(15, 0, p.cap), (31, 16, p.alertCap)]
  | 0x728 => if sealedJob s then 0 else putFields 0 [(15, 0, p.west), (31, 16, p.east)]
  | 0x738 => putFields 0 [(1, 0, p.cause), (7, 4, if p.stage < 3 then 0 else p.stage), (31, 16, p.resets), (63, 32, p.readyMs)]
  | _ => k

/-- Fault registers (16 R541); loaded from the vault at power-up step 4. -/
def faultReg (s : State) (o : Nat) : Nat :=
  let k := reg s (regKey 10 o)
  let m := if s.power.stage < 4 then [] else s.vault.fmap
  match o with
  | 0x800 => putFields k [(0, 0, b2n s.stop.active), (2, 2, b2n (32768 ≤ m.length))]
  | 0x808 =>
    match s.fltLast with
    | some (kind, code, event, loc) => putFields 0 [(7, 0, kind), (15, 8, code), (31, 16, event), (63, 32, loc)]
    | none => 0
  | 0x810 => s.tests.length
  | 0x818 => if s.power.stage < 4 then 0
      else putFields 0 [(15, 0, m.length), (31, 16, (m.filter (fun e => e.state = 0)).length), (63, 32, s.vault.mapGen)]
  | _ => k

/-- Length of the last zeroisation in µs: a measured value (17 R561; log 36). -/
def zeroiseUs (s : State) : Nat := match s.zeroDraw with | some k => (Config.freeWord k).toNat % 2 ^ 32 | none => 0

/-- Security registers (17 R561). -/
def secReg (s : State) (o : Nat) : Nat :=
  let k := reg s (regKey 10 o)
  match o with
  | 0x900 => putFields k [(0, 0, b2n (sealedJob s)), (1, 1, b2n s.debugOpen), (2, 2, b2n (4 ≤ s.power.stage && s.vault.cert))
      , (4, 4, b2n s.keys.output.isSome), (5, 5, b2n s.keys.offload.isSome), (6, 6, b2n s.keys.link.isSome)
      , (63, 32, zeroiseUs s)]
  | 0x908 => keyState s
  | _ => k

/-- Vault and management registers; those of the vault are loaded at power-up step 4 (18 R585). -/
def vaultReg (s : State) (o : Nat) : Nat :=
  let k := reg s (regKey 10 o)
  let v := s.vault
  let m := s.mgt
  match o with
  | 0xA80 => putFields 0 [(0, 0, b2n m.i3c), (7, 1, m.address), (15, 8, m.eid), (16, 16, b2n m.eidValid)]
  | 0xA00 | 0xA08 | 0xA10 | 0xA18 | 0xA28 =>
    if s.power.stage < 4 then (if o = 0xA00 then k else 0)
    else
      match o with
      | 0xA00 => putFields k [(1, 0, if v.state = 0 && s.power.warn then 1 else v.state)
          , (2, 2, b2n (v.queue ≠ [] && vaultOpen s)), (3, 3, b2n v.recoveredOld)]
      | 0xA08 => v.txn
      | 0xA10 => v.log.length
      | 0xA18 => match v.log with | e :: _ => e.seq | [] => v.logSeq
      | _ => putFields 0 [(15, 0, v.spare), (31, 16, v.retired), (48, 32, v.maxErase)]
  | _ => k

/-- The module has published its capability block, and a PERST_N or warm reset keeps it (06 R249; 15 R505, R514). -/
def published (s : State) : Bool := s.power.ready || s.power.resetting || (s.power.stage = 8 && 2 ≤ s.power.cause)

/-- HOF_ROUTE of a module identity (10 R380). -/
def hofRoute (s : State) (m : Nat) : Nat := match routeOf s m with | some p => p % 16 + 16 | none => 0

/-- A word of the MSI-X table: address, then data and mask (13 R468; log 22). -/
def msixWord (s : State) (o : Nat) : Nat :=
  let x := msixOf s (o / 16)
  if o % 16 = 0 then x.addr else x.data % 2 ^ 32 + b2n x.masked * 2 ^ 32

/-- The 64-bit word at an aligned offset of the module-wide window. -/
def modReg (s : State) (o : Nat) : Nat :=
  let k := reg s (regKey 10 o)
  if o = 0 then moduleCoresReg s
  else if o = 0x8 then spliceMode s + 4 * b2n s.course.isSome
  else if o = 0x10 then spliceAvailReg s
  else if o = 0x28 then
    putFields 0 [(1, 0, s.dump.state), (3, 2, s.dump.trigger), (4, 4, b2n s.dump.second), (5, 5, b2n s.dump.isSealed)
      , (63, 32, s.dump.seq)]
  else if o = 0x38 then (if s.course.isSome then s.runNo else 0)
  else if 0x400 ≤ o && o < 0x500 then
    (if o % 32 = 0 then oflStatus s ((o - 0x400) / 32) else if o % 32 = 0x18 then oflLast s ((o - 0x400) / 32) else k)
  else if o = 0x600 then
    putFields 0 [(0, 0, b2n s.coord.live), (1, 1, b2n s.coord.lastVerdict), (2, 2, b2n s.coord.frozen)
      , (3, 3, b2n (stepOpen s))]
  else if o = 0x608 then s.steps
  else if o = 0x610 then s.coord.commits
  else if o = 0x618 then s.coord.skips
  else if 0x700 ≤ o && o < 0x740 then powerReg s o
  else if 0x800 ≤ o && o < 0x830 then faultReg s o
  else if 0x900 ≤ o && o < 0x918 then secReg s o
  else if 0xA00 ≤ o && o < 0xA90 then vaultReg s o
  else if 0x10000 ≤ o && o < 0x11000 then
    (if published s then ofLe (((capBlock s).drop (o - 0x10000)).take 8) else 0)
  else if 0x20000 ≤ o && o < 0x24000 then ctrPair s (fun i => .module i) ((o - 0x20000) / 4)
  else if 0x30000 ≤ o && o < 0x31000 then
    hofRoute s ((o - 0x30000) / 4) + hofRoute s ((o - 0x30000) / 4 + 1) * 2 ^ 32
  else if 0x40000 ≤ o && o < 0x40800 then cmwReg s ((o - 0x40000) / 32) (o % 32)
  else if o = 0x80000 then cmdStatus s
  else if o = 0x80008 then jobNo s
  else if o = 0x81000 then s.ring.base
  else if o = 0x81008 then putFields 0 [(15, 0, s.ring.m1), (26, 16, s.ring.vector), (32, 32, b2n s.ring.enable)]
  else if o = 0x81010 then s.ring.tail % 65536 + b2n s.ring.phase * 2 ^ 16
  else if o = 0x82000 then
    (if s.power.linkUp then putFields 0 [(2, 0, s.power.speed), (7, 3, s.power.width), (8, 8, b2n s.power.flit)] else 0)
  else if 0x84000 ≤ o && o < 0x85000 then qpReg s ((o - 0x84000) / 64) (o % 64)
  else if 0x200000 ≤ o && o < 0x208000 then msixWord s (o - 0x200000)
  else if 0x208000 ≤ o && o < 0x208100 then bitsOf 64 (fun i => s.pba.get false ((o - 0x208000) * 8 + i))
  else k

/-- The 64-bit word at an aligned offset of a window; reserved windows read 0 (01 R40, R43). -/
def word64 (s : State) (w o : Nat) : Nat :=
  (if w < 8 then cdReg s w o else if w < 10 then hdReg s (w - 8) o else if w = 10 then modReg s o else 0) % 2 ^ 64

/-- RC fields of the word at an aligned offset, as high and low bits (00 R11). -/
def rcField (w o : Nat) : Option (Nat × Nat) :=
  if w < 8 then
    if [0x18, 0x20, 0x48, 0x110, 0x118, 0x310, 0xA90, 0x2090, 0x2098, 0x2418, 0x2420, 0x2458, 0x2460].contains o then some (31, 0)
    else if o = 0x120 || o = 0x128 then some (63, 0)
    else if (0x200 ≤ o && o < 0x260) || (0x2800 ≤ o && o < 0x2860) then some (63, 32)
    else none
  else if w < 10 then
    if [0x48, 0x2090, 0x2098].contains o then some (31, 0)
    else if 0x3000 ≤ o && o < 0x3200 then
      (if o % 64 = 0x10 || o % 64 = 0x28 then some (31, 0) else if o % 64 = 0x18 || o % 64 = 0x20 then some (63, 0) else none)
    else none
  else if w = 10 then
    if [0x30, 0x628, 0x730, 0x820, 0x828, 0x910, 0xA20, 0xA88, 0x81020].contains o then some (31, 0)
    else if 0x400 ≤ o && o < 0x500 && (o % 32 = 8 || o % 32 = 0x10) then some (63, 0)
    else none
  else none

/-- A field that reads 0 now and so is not cleared by the read: hidden by a sealed job, or of a gated port
(00 R601; 14 R488). -/
def hiddenField (s : State) (w o : Nat) : Bool :=
  (decide (w < 8) && sealedJob s && ((0x110 ≤ o && o ≤ 0x128) || (0x2800 ≤ o && o < 0x2860)))
    || (8 ≤ w && w < 10 && 0x3000 ≤ o && o < 0x3200 && s.gated.get false (8 * (w - 8) + (o - 0x3000) / 64))

/-- A read that covers a whole RC field clears it (00 R11, R601). -/
def clearRc (s : State) (w o size : Nat) : State :=
  let o8 := o / 8 * 8
  match rcField w o8 with
  | some (hi, lo) =>
    if hiddenField s w o8 || 8 * (o - o8) > lo || 8 * (o - o8 + size) ≤ hi then s
    else setReg s (regKey w o8) (setBits (reg s (regKey w o8)) hi lo 0)
  | none => s

/-- Registers whose reading is a measured value, a free value of a draw (10 R379; 14 R498; log 36). -/
def drawsReg (s : State) (w o8 : Nat) : Bool :=
  (8 ≤ w && w < 10 && 0x3000 ≤ o8 && o8 < 0x3200 && o8 % 64 = 0x30
    && (hport s (8 * (w - 8) + (o8 - 0x3000) / 64)).trained) || (w = 10 && o8 = 0x718 && sealedJob s)

/-- A naturally aligned access of 4 or 8 bytes (13 R433). -/
def goodAccess (o size : Nat) : Bool := (size = 4 || size = 8) && o % size = 0

/-- A word of which the low half still shows what it held when a sealed job was loaded, until the first covering read
after that job (00 R601). -/
def heldWord (s : State) (w o8 v : Nat) : Nat :=
  match s.held.find? (fun e => e.1 = regKey w o8) with
  | some e => if sealedJob s then v else setBits v 31 0 e.2
  | none => v

/-- A read of 4 or 8 bytes at an offset of the register region (00 R11, R601; 01 R40). -/
def readReg (s : State) (o size : Nat) : State × Nat :=
  let w := o / 0x400000
  let x := o % 0x400000
  let v := heldWord s w (x / 8 * 8) (word64 s w (x / 8 * 8)) / 2 ^ (8 * (x % 8)) % 2 ^ (8 * size)
  let s := if sealedJob s || x % 8 ≠ 0 then s else { s with held := s.held.drop (regKey w (x / 8 * 8)) }
  let s := if drawsReg s w (x / 8 * 8) then { s with freeCtr := s.freeCtr + 1 } else s
  (clearRc s w x size, v)

/-- W1C bits of the word at an aligned offset (00 R11). -/
def w1cMask (w o : Nat) : Nat :=
  if w < 8 then
    if o = 0x10 || o = 0x300 then 0xFF
    else if o = 0x100 || o = 0x2080 then 0x1F
    else if o = 0xA80 then 0x3F
    else if o = 0xB00 || o = 0x2410 || o = 0x2450 then 7
    else if o = 0x40 then 1
    else 0
  else if w < 10 then
    if o = 0x40 then 1
    else if o = 0x2080 then 0x1F
    else if 0x3000 ≤ o && o < 0x3200 && o % 64 = 8 then 0x1F
    else 0
  else if w = 10 then
    if o = 0x20 then 7
    else if 0x400 ≤ o && o < 0x500 && o % 32 = 0 then 0x3C
    else if o = 0x620 then 0xF
    else if o = 0x700 then 0x18
    else if o = 0x710 then 0x1F00
    else if o = 0x800 || o = 0x900 || o = 0xA00 then 0xF00
    else if o = 0x80010 then 0x1F
    else 0
  else 0

/-- A write of CMD_QP_CFG: base and size fields hold while enabled, and enabling with a size of 0 is ignored
(13 R436, R437, R470). -/
def writeQpCfg (x : Qp) (v : Nat) : Qp :=
  let on := bitOf v 48
  if x.enable then { x with vector := bits v 42 32, enable := on }
  else if on && (bits v 11 0 = 0 || bits v 27 16 = 0) then x
  else
    let y := { x with sqM1 := bits v 11 0, cqM1 := bits v 27 16, vector := bits v 42 32 }
    if on then enableQp y else y

/-- A write to the event ring's configuration (13 R469). -/
def writeRingCfg (r : EvtRing) (v : Nat) : EvtRing :=
  let y := { r with m1 := bits v 15 0, vector := bits v 26 16 }
  if bitOf v 32 then enableRing y else { y with enable := false }

/-- A write to an MSI-X table entry; a vector that leaves its mask with its pending bit set sends its message
(13 R468; log 22). -/
def writeMsix (s : State) (o v : Nat) : State :=
  let k := o / 16
  if o % 16 = 0 then { s with msix := s.msix.upd ({} : Msix) k (fun x => { x with addr := v }) }
  else
    let s := { s with msix := s.msix.upd ({} : Msix) k (fun x => { x with data := v % 2 ^ 32, masked := bitOf v 32 }) }
    if !bitOf v 32 && s.pba.get false k then post { s with pba := s.pba.drop k } (.vector k) else s

/-- The state that a command leaves, or the state before it. -/
def afterOut (s : State) (o : Out) : State := match o with | .next t => t | _ => s

/-- A write to a register that is not W1C: `v` is the word with the written bytes in place, `lo` and `hi` say
which halves were written (00 R11; 13 R469, R470; 14 R498; 15 R517). -/
def writeMod (s : State) (o v : Nat) (lo hi : Bool) : State :=
  if o = 0x720 then
    let a := bits v 31 16
    if !lo || a < 4000 || 14000 < a then s else updPower s (fun p => { p with alertCap := a })
  else if o = 0x80018 then (if lo then warmReset s v else s)
  else if o = 0x81000 then { s with ring := { s.ring with base := v / 4096 * 4096 } }
  else if o = 0x81008 then { s with ring := writeRingCfg s.ring v }
  else if o = 0x81018 then (if lo then afterOut s (execCmdEvtHead v s) else s)
  else if 0x84000 ≤ o && o < 0x85000 then
    let q := (o - 0x84000) / 64
    let b := v / 4096 * 4096
    if o % 64 = 0 then updQp s q (fun x => if x.enable then x else { x with sqBase := b })
    else if o % 64 = 8 then updQp s q (fun x => if x.enable then x else { x with cqBase := b })
    else if o % 64 = 16 then updQp s q (fun x => writeQpCfg x v)
    else s
  else if 0x100000 ≤ o && o < 0x140000 && lo then
    let q := (o - 0x100000) / 0x1000
    if o % 0x1000 = 0 then afterOut s (execCmdSqTail q v s)
    else if o % 0x1000 = 8 then afterOut s (execCmdCqHead q v s)
    else s
  else if 0x200000 ≤ o && o < 0x208000 && (lo || hi) then writeMsix s (o - 0x200000) v
  else s

/-- A write of 4 or 8 bytes at an offset of the register region, by the access type of each field (00 R11, R14;
01 R40, R43). -/
def writeReg (s : State) (o size v : Nat) : State :=
  let w := o / 0x400000
  let x := o % 0x400000
  let o8 := x / 8 * 8
  let at' := v % 2 ^ (8 * size) * 2 ^ (8 * (x % 8))
  let m := w1cMask w o8
  if m ≠ 0 then
    if hiddenField s w o8 then s
    else setReg s (regKey w o8) ((reg s (regKey w o8)) ^^^ ((reg s (regKey w o8)) &&& (m &&& at')))
  else if w = 10 then
    let old := word64 s 10 o8
    let lo := decide (x % 8 = 0)
    let hi := decide (x % 8 = 4) || size = 8
    let new := (if lo then at' % 2 ^ 32 else old % 2 ^ 32) + (if hi then at' / 2 ^ 32 else old / 2 ^ 32) * 2 ^ 32
    writeMod s o8 new lo hi
  else s

/-- A posted write that arrives poisoned is discarded (13 R431). -/
def poisonedWrite (s : State) : State := raise (setBit s cmdErrKey 1) 0x0C02 15 0 none

/-- REGISTER_WRITE: a host write through BAR0 (00 R11, R14; 13 R431, R433; 15 R512). -/
def execRegisterWrite (o size v : Nat) (poisoned : Bool) (s : State) : Out :=
  if !barOpen s || 0x4000000 ≤ o then .next s
  else if poisoned then .next (poisonedWrite s)
  else if !goodAccess o size then .next (badAccess s)
  else .next (writeReg s o size v)

/-- RC_READ: a host read through BAR0; what it returns stands in `barReply` (00 R11, R601; 13 R433; 15 R512). -/
def execRcRead (o size : Nat) (s : State) : Out :=
  if !barOpen s || 0x4000000 ≤ o then .next s
  else if !goodAccess o size then .next { badAccess s with barReply := some (List.replicate size 0) }
  else
    let r := readReg s o size
    .next { r.1 with barReply := some (leBytes size r.2) }

/-- A BAR2 access may reach an offset: by the job state, and in a sealed job only inside a mapped exchange buffer
(01 R41; 13 R435; 17 R555). -/
def bar2Mapped (s : State) (o len : Nat) : Bool :=
  decide (o + len ≤ 2 ^ 38) && len ≠ 0 && (probes (lpBase + o) len).all (fun p => place s p ≠ .reserved) &&
    (s.jobState = 0 || ((s.jobState = 2 || s.jobState = 3) && (!sealedJob s ||
      (match s.course with
       | some c => c.exchange.any (fun x => decide (x.1 ≤ lpBase + o) && decide (lpBase + o + len ≤ x.1 + x.2))
       | none => false))))

/-- A BAR2 access is refused (13 R435). -/
def bar2Denied (s : State) : State := raise (setBit s cmdErrKey 2) 0x0C03 15 0 none

/-- A BAR2 access never reaches its memory: a hop between the host port and its range has stopped (01 R34, R37;
log 59). -/
def bar2Blocked (s : State) (o len : Nat) : Bool := !(diePoints (lpBase + o) len).all (hostOpen s)

/-- BAR2_READ: what memory holds, ciphertext in a sealed job; nothing for an Unsupported Request and where the
read is uncorrectable (13 R434, R435; 15 R512; 17 R555; log 42). -/
def execBar2Read (o len : Nat) (s : State) : Out :=
  if !barOpen s then .next s
  else if !s.power.ready then .next { s with barReply := none }
  else if !bar2Mapped s o len then .next { bar2Denied s with barReply := none }
  else if bar2Blocked s o len then .next { s with barReply := none }
  else
    let r := readMem s (lpBase + o) len
    .next { r.s with barReply := if r.fail.isSome then none else some (readBytes r (lpBase + o) len) }

/-- BAR2_WRITE (13 R431, R434, R435; 15 R512). -/
def execBar2Write (o : Nat) (data : List Byte) (poisoned : Bool) (s : State) : Out :=
  if !barOpen s || !s.power.ready then .next s
  else if poisoned then .next (poisonedWrite s)
  else if !bar2Mapped s o data.length then .next (bar2Denied s)
  else if bar2Blocked s o data.length then .next s
  else .next (writeMem s (lpBase + o) data).1

end Sys2Proof.Machine
end

