-- ==== Sys2Proof/Machine/Stride.lean ====
section
/-! DEFINITION. Strides of station programs: their layout, the fields of every slot, and what LOAD_COURSE refuses
in them (06 R217 to R219, R223, R225, R229 to R231, R235). -/
namespace Sys2Proof.Machine
open Sys2Proof

/-- A stride: its predicate, the two halves of the lane slot, the arrays, the feeder-and-move, scalar and hurdle
slots; a slot without an operation is a NOP (06 R218, R219). -/
structure Stride where
  pred : Nat
  pneg : Bool
  sendOp : Option Instr
  freeOp : Option Instr
  a : Option Instr
  b : Option Instr
  fm : Option Instr
  sc : Instr
  hu : Option Instr
deriving DecidableEq, Repr

/-- No bit of a slot is set outside its listed fields (06 R217). -/
def onlyFields (v : Nat) (l : List (Nat × Nat)) : Bool := l.foldl (fun v f => setBits v f.1 f.2 0) v = 0

/-- A field of `w` bits as a signed number. -/
def signedField (v w : Nat) : Int := if v < 2 ^ (w - 1) then (v : Int) else (v : Int) - 2 ^ w

/-- A lane by its bit. -/
def laneBit (b : Bool) : Lane := if b then .outer else .inner

/-- The SEND half of the lane slot (06 R225). -/
def decodeSend (n v : Nat) : Option (Option Instr) :=
  match bits v 1 0 with
  | 0 => some none
  | 1 => some (some (.send n (laneBit (bitOf v 2)) (bits v 4 3) (laneBit (bitOf v 5)) (bits v 7 6)))
  | _ => none

/-- The FREE half of the lane slot (06 R225). -/
def decodeFree (n v : Nat) : Option Instr :=
  if bits v 27 20 = 0 then none else some (.free n (bits v 23 20) (bits v 27 24))

/-- Fields that the lane slot uses (06 R217, R225). -/
def laneFields (v : Nat) : List (Nat × Nat) := (27, 20) :: (if bits v 1 0 = 0 then [] else [(7, 0)])

/-- A feeder's source (06 R229). -/
def feedOf (v : Nat) : Option Feed :=
  match v with
  | 0 => some .inner | 1 => some .outer | 2 => some .pocket | _ => none

/-- An MSET's fields (06 R229). -/
def decodeMset (v : Nat) : Option MsetF :=
  match Pass.ofCode (bits v 6 4), feedOf (bits v 8 7), feedOf (bits v 10 9) with
  | some p, some c, some r =>
    some { pass := p, srcCol := c, srcRow := r, transCol := bitOf v 11, transRow := bitOf v 12
           fmtCol := bits v 16 13, fmtRow := bits v 20 17, scaledCol := bitOf v 21, scaledRow := bitOf v 22
           baseCol := bits v 27 23, baseRow := bits v 32 28, strideCol := bits v 37 33, strideRow := bits v 42 38
           maskEn := bitOf v 43, blkQ := bits v 47 44 }
  | _, _, _ => none

/-- A MAC's fields (06 R229). -/
def decodeMac (v : Nat) : MacF :=
  { acc := bits v 4 4, clear := bitOf v 5, bufCol := bits v 7 6, bufRow := bits v 9 8 }

/-- A DRAIN's fields (06 R229). -/
def decodeDrain (v : Nat) : DrainF :=
  { acc := bits v 4 4, dest := bits v 6 5, addr := bits v 11 7, lane := laneBit (bitOf v 12), buf := bits v 14 13
    fmtOut := bits v 18 15, scaledOut := bitOf v 19, stoch := bitOf v 20, propagate := bitOf v 21
    scaleEn := bitOf v 22, scale := bits v 27 23, groupEn := bitOf v 28, group := bits v 34 29 }

/-- An array slot: none where LOAD_COURSE refuses it (06 R217, R229). -/
def decodeArray (n a v : Nat) : Option (Option Instr) :=
  match bits v 3 0 with
  | 0 => if v = 0 then some none else none
  | 1 => (decodeMset v).map (fun f => some (.mset n a f))
  | 2 => if onlyFields v [(9, 0)] then some (some (.mac n a (decodeMac v))) else none
  | 3 => if onlyFields v [(34, 0)] then some (some (.drain n a (decodeDrain v))) else none
  | 4 => if onlyFields v [(10, 0)] && bits v 5 4 ≠ 3 then some (some (.mask n a (bits v 5 4) (bits v 10 6))) else none
  | _ => none

/-- A CVT's fields (06 R230). -/
def decodeCvt (v : Nat) : CvtF :=
  { dst := bits v 12 8, src := bits v 17 13, count := bits v 22 18, fmtIn := bits v 26 23, scaledIn := bitOf v 27
    fmtOut := bits v 31 28, scaledOut := bitOf v 32, stoch := bitOf v 33, propagate := bitOf v 34 }

/-- The feeder-and-move slot (06 R217, R230, R231). -/
def decodeFm (n v : Nat) : Option (Option Instr) :=
  let r (hi lo : Nat) : Nat := bits v hi lo
  let ok (l : List (Nat × Nat)) (i : Instr) : Option (Option Instr) :=
    if onlyFields v ((3, 0) :: l) then some (some i) else none
  match r 3 0 with
  | 0 => if v = 0 then some none else none
  | 1 => ok [(14, 4)] (.hdrld n (r 8 4) (laneBit (bitOf v 9)) (r 11 10) (r 14 12))
  | 2 => ok [(31, 4)] (.ld n (r 8 4) (r 13 9) (signedField (r 31 14) 18))
  | 3 => ok [(31, 4)] (.st n (r 8 4) (r 13 9) (signedField (r 31 14) 18))
  | 4 => ok [(22, 4)] (.move n { buf := if bitOf v 4 then some (laneBit (bitOf v 5), r 7 6) else none
                                 dst := r 12 8, src := r 17 13, count := r 22 18 })
  | 5 =>
    let f := decodeCvt v
    if tileOk f.fmtIn f.scaledIn && tileOk f.fmtOut f.scaledOut then ok [(34, 8)] (.cvt n f) else none
  | 6 => ok [(15, 4)] (.strm n (r 5 4) (r 10 6) (r 15 11))
  | 7 => ok [(10, 4)] (.rearm n (r 5 4) (r 10 6))
  | 8 => ok [(8, 4)] (.seed n (r 8 4))
  | _ => none

/-- The scalar slot of stride `i` (06 R217, R223). -/
def decodeScalar (n i v : Nat) : Option Instr :=
  let r (hi lo : Nat) : Nat := bits v hi lo
  let rd := r 10 6
  let a := r 15 11
  let b := r 20 16
  let ok (l : List (Nat × Nat)) (c : Instr) : Option Instr := if onlyFields v ((5, 0) :: l) then some c else none
  match r 5 0 with
  | 0x00 => ok [] (.nop n)
  | 0x01 => ok [(20, 6)] (.add n rd a b)
  | 0x02 => ok [(20, 6)] (.sub n rd a b)
  | 0x03 => ok [(20, 6)] (.and n rd a b)
  | 0x04 => ok [(20, 6)] (.or n rd a b)
  | 0x05 => ok [(20, 6)] (.xor n rd a b)
  | 0x06 => ok [(20, 6)] (.sll n rd a b)
  | 0x07 => ok [(20, 6)] (.srl n rd a b)
  | 0x08 => ok [(20, 6)] (.sra n rd a b)
  | 0x09 => ok [(15, 6), (47, 21)] (.addi n rd a (signedField (r 47 21) 27))
  | 0x0A => ok [(10, 6), (47, 16)] (.li n rd (signedField (r 47 16) 32))
  | 0x0B => ok [(10, 6), (47, 16)] (.lih n rd (r 47 16))
  | 0x0C => ok [(20, 6)] (.mul n rd a b)
  | 0x0D => if 5 < r 23 21 then none else ok [(8, 6), (20, 11), (23, 21)] (.cmp n (r 8 6) a b (r 23 21))
  | 0x0E => ok [(8, 6), (13, 11), (18, 16), (22, 21)] (.plog n (r 8 6) (r 13 11) (r 18 16) (r 22 21))
  | 0x10 => ok [(34, 21)] (.br n (r 34 21))
  | 0x12 => if r 34 21 ≤ i then none else ok [(7, 6), (15, 11), (34, 21)] (.loop n (r 7 6) a (r 34 21))
  | 0x13 => ok [] (.stationHalt n)
  | _ => none

/-- Counters of a scope (06 R235; 08 R300). -/
def scopeSize : Scope → Nat
  | .core => 64 | .cluster => 256 | .die => 1024 | .module => 4096

/-- The hurdle slot (06 R217, R235). -/
def decodeHurdle (n v : Nat) : Option (Option Instr) :=
  let sc := Scope.ofCode (bits v 5 4)
  let i := bits v 17 6
  match bits v 3 0 with
  | 0 => if v = 0 then some none else none
  | 1 => if i < scopeSize sc then some (some (.arrive n sc i (bits v 22 18) (bitOf v 23))) else none
  | 2 => if i < scopeSize sc then some (some (.wait n sc i (bits v 22 18) (bitOf v 23))) else none
  | 3 => if onlyFields v [(14, 0)] then some (some (.signal n (bits v 8 4) (bits v 13 9) (bitOf v 14))) else none
  | 4 =>
    let k := bits v 10 4
    if onlyFields v [(20, 0)] && 1 ≤ k && k ≤ 64 then some (some (.borrow n k (bits v 20 11 + 1))) else none
  | _ => none

/-- Stride `i` of station `n`: none where LOAD_COURSE refuses it (06 R217, R218). -/
def decodeStride (n i w : Nat) : Option Stride :=
  let ctl := bits w 7 0
  let lane := bits w 47 8
  match decodeSend n lane, decodeArray n 0 (bits w 95 48), decodeArray n 1 (bits w 143 96),
        decodeFm n (bits w 183 144), decodeScalar n i (bits w 231 184), decodeHurdle n (bits w 255 232) with
  | some snd, some a, some b, some fm, some sc, some hu =>
    if bits ctl 7 4 = 0 && onlyFields lane (laneFields lane) then
      some { pred := bits ctl 2 0, pneg := bitOf ctl 3, sendOp := snd, freeOp := decodeFree n lane
             a := a, b := b, fm := fm, sc := sc, hu := hu }
    else none
  | _, _, _, _, _, _ => none

end Sys2Proof.Machine
end

