-- ==== Sys2Proof/Machine/Course.lean ====
section
/-! DEFINITION. LOAD_COURSE: the checks of a course image and what loading it does; RUN and the start of a RUN
(00 R16; 06 R217, R242, R250; 07 R270 to R272; 13 R451 to R454; 17 R556, R557, R559, R560). -/
namespace Sys2Proof.Machine
open Sys2Proof

/-- A header and a length that the first check allows (13 R451, R453; 17 R556, R557, R560). -/
def headOk (s : State) (len : Nat) (h : ImageHeader) : Bool :=
  len = 128 + h.bodyLength + 29792 && h.magic = 0x43584331 && h.format = 1 && h.reserved = 0
    && decide (h.flags ≤ 2) && decide (5 ≤ h.counter) && decide (h.counter ≤ 63) && decide (h.signSlot ≤ 15)
    && !(s.debugOpen && bitOf h.flags 0)

/-- The module as the next course meets it: the next assignment and every repair of the fault map in effect
(01 R30; 09 R348, R350; 16 R539; log 49). -/
def nextModule (s : State) : State := applyNew (applyAssignment s)

/-- The modes of the course's banks; pocket bank 0 of every present station has mode KEEP (07 R270). -/
def courseModes (s : State) (c : Image) : Table Nat :=
  let t := (c.storeModes ++ c.pktModes).foldl (fun (t : Table Nat) e => if e.2 = 0 then t else t.set e.1 e.2) []
  ((List.range 768).filter (present s)).foldl (fun (t : Table Nat) n => t.set (8 * n) 2) t

/-- Memory in which a course may place data (09 R345, R350). -/
def placeable (s : State) (a len : Nat) : Bool :=
  (probes a len).all (fun p =>
    match placeMap s p with
    | .reserved | .regs => false
    | .hbm d => s.defects.get 0 (retiredKey (.hbm d) p) ≠ 3
    | .exchange => s.defects.get 0 (retiredKey .exchange p) ≠ 3
    | .dumpRegion => s.defects.get 0 (retiredKey .dumpRegion p) ≠ 3
    | .general => s.defects.get 0 (retiredKey .general p) ≠ 3
    | _ => true)

/-- The configuration checks of R250 but for its banks and ports. -/
def configOk (s : State) (c : Image) : Bool :=
  c.hdr.contract = 1 && c.hdr.moduleId = s.moduleId && c.moduleSet.contains s.moduleId
    && (List.range 768).all (fun n => c.stations.contains n == present s n) && c.stations.all (present s)
    && decide (c.splice ≤ 3) && modeOk s c.splice
    && (List.range 96).all (fun g => decide (c.ceilings.get 0 g ≤ ceilingMax s)
      && decide (((stationsOf s g).map (c.shares.get 0)).sum ≤ c.ceilings.get 0 g))

/-- Bank modes that R250 and R270 allow. -/
def modesOk (s : State) (c : Image) : Bool :=
  c.storeModes.all (fun e => decide (6144 ≤ e.1) && decide (e.1 < 9216) && decide (e.2 ≤ 2) && (e.2 = 0 || bankOk s (e.1 - 6144)))
    && c.pktModes.all (fun e => decide (e.2 ≤ 2) && present s (e.1 / 8))

/-- Every port that the course declares is UP with its declared peer (06 R250). -/
def portsOk (s : State) (c : Image) : Bool :=
  c.ports.all (fun d => decide (d.port < 16) && (hport s d.port).state = 2
    && (hport s d.port).peerModule = d.peerModule && (hport s d.port).peerPort = d.peerPort)

/-- The strides of a program from stride `i` on (06 R215). -/
def stridesOf : Nat → Nat → List Byte → List (Nat × Nat)
  | 0, _, _ => []
  | n + 1, i, bs => (i, ofLe (bs.take 32)) :: stridesOf n (i + 1) (bs.drop 32)

/-- Whole programs, entries and seeds of present stations, every stride of which decodes (02 R82; 06 R217). -/
def programsOk (s : State) (c : Image) : Bool :=
  c.programs.all (fun e => present s e.1 && hasLength e.2 0x80000
      && (stridesOf 16384 0 e.2).all (fun x => (decodeStride e.1 x.1 x.2).isSome))
    && c.entries.all (fun e => present s e.1 && decide (e.2 < 16384)) && c.seeds.all (fun e => present s e.1)

/-- Data for KEEP banks, and none for pocket bank 0 (07 R263; 13 R452). -/
def keepOk (s : State) (c : Image) : Bool :=
  c.keepData.all (fun e =>
    regionNo s e.1 = regionNo s (e.1 + e.2.length - 1) &&
    (probes e.1 e.2.length).all (fun p =>
      match placeMap s p with
      | .pocket n => decide (0x80000 ≤ p - pocketAddr n 0) && (match bankOf (.pocket n) p with
        | some b => s.bankMode.get 0 b = 2 | none => false)
      | .store g => (match bankOf (.store g) p with | some b => s.bankMode.get 0 b = 2 | none => false)
      | _ => false))

/-- The byte that the course's KEEP-bank data gives an address. -/
def keepByte (c : Image) (a : Nat) : Option Byte :=
  c.keepData.findSome? (fun e => if e.1 ≤ a then e.2[a - e.1]? else none)

/-- A descriptor of a declared list that injects a partial sum in a format that R182 excludes. -/
def badStatic (c : Image) (d : Desc) : Bool :=
  dstKind d = 1 && srcKind d = 0 && (List.range 32).all (fun i => (keepByte c (d.w1 + i)).isSome)
    && (let h := hdrOfBytes ((List.range 32).map (fun i => (keepByte c (d.w1 + i)).getD 0))
        h.kind = 1 && !partialOk h)

/-- The declared descriptor lists pass R182. -/
def staticOk (c : Image) : Bool :=
  c.staticLists.all (fun e => (List.range e.2).all (fun i =>
    !badStatic c (descOf (e.1 + 32 * i) (fun a => (keepByte c a).getD 0))))

/-- Exchange buffers: up to 64 ranges of whole 64 KiB units of the exchange region (13 R435). -/
def exchangeOk (s : State) (c : Image) : Bool :=
  decide (c.exchange.length ≤ 64) && c.exchange.all (fun e =>
    e.1 % 65536 = 0 && e.2 % 65536 = 0 && decide (0 < e.2) && decide (lpBase ≤ e.1) && decide (e.1 + e.2 ≤ dumpBase)
      && placeable s e.1 e.2)

/-- Bindings of engines to cores that are present (06 R234). -/
def bindingsOk (s : State) (c : Image) : Bool :=
  c.bindings.all (fun e => live s (e.1 / 4) && (match e.2 with
    | some (.core k) => decide (k < cores s (e.1 / 4))
    | _ => true))

/-- The modules of the job. -/
def jobSet (s : State) (c : Image) : List Nat := uniq (s.moduleId :: c.moduleSet)

/-- A module reaches the root within `n` hops of the job-hurdle tree (08 R314; 11 R399). -/
def reachesRoot (c : Image) : Nat → Nat → Bool
  | 0, m => m = c.root
  | n + 1, m => m = c.root || (match c.parents.find? (fun p => p.module = m) with
    | some p => reachesRoot c n p.parent
    | none => false)

/-- The job hurdles and their tree: one parent for every module but the root, and no module more than 8 hops from
it (08 R314; 11 R399). -/
def treeOk (s : State) (c : Image) : Bool :=
  c.jobHurdles = [] || (c.jobHurdles.all (fun i => decide (3840 ≤ i) && decide (i < 4096)) &&
    (jobSet s c).contains c.root &&
    (jobSet s c).all (fun m => reachesRoot c 8 m) &&
    c.parents.all (fun p => (jobSet s c).contains p.module && (jobSet s c).contains p.parent && p.module ≠ c.root) &&
    decide (c.parents.map (·.module)).Nodup &&
    (s.moduleId = c.root || (match c.parents.find? (fun p => p.module = s.moduleId) with
      | some p => c.ports.any (fun d => d.port = p.port && d.peerModule = p.parent)
      | none => false)))

/-- A course names a shard on some gateway. -/
def anyShard (c : Image) : Bool := c.shards.any (fun e => e.2 ≠ [])

/-- All 4 step items or none, and all 4 with any shard (11 R399). -/
def stepsOk (s : State) (c : Image) : Bool :=
  match c.steps.step, c.steps.ack, c.steps.decision, c.steps.epoch with
  | none, none, none, none => !anyShard c
  | some a, some b, some d, some e =>
    c.jobHurdles.contains a && c.jobHurdles.contains b && decide (d < 4096) && placeable s e 64
  | _, _, _, _ => false

/-- A route for every other module of the job, and every port that a route or this module's parent entry names is
declared (10 R360, R374). -/
def routesOk (s : State) (c : Image) : Bool :=
  c.routes.all (fun e => match e.2 with | some p => c.ports.any (fun d => d.port = p) | none => true)
    && c.parents.all (fun p => p.module ≠ s.moduleId || c.ports.any (fun d => d.port = p.port && d.peerModule = p.parent))
    && (jobSet s c).all (fun m => m = s.moduleId || (match c.routes.get none m with
    | some p => c.ports.any (fun d => d.port = p)
    | none => false))

/-- The weight images of a shard lie where data may be placed (09 R345, R350; 11 R384, R395). -/
def imagesOk (s : State) (x : Shard) : Bool :=
  x.outFmt = 15 || (tileOk x.outFmt x.outScaled
    && placeable s x.out0 (x.nChunks * storedBytes x.outFmt x.outScaled)
    && placeable s x.out1 (x.nChunks * storedBytes x.outFmt x.outScaled))

/-- A shard within the limits of its table (04 R174; 11 R384, R385, R392). -/
def shardOk (s : State) (c : Image) (k : Nat) (x : Shard) : Bool :=
  let rules := c.rules.get [] k
  let rec' := if x.rec16 then 16 else 8
  let size := if x.kind = .replica then 32768 * x.nChunks else 16384 * rec' * x.nChunks
  decide (1 ≤ x.nChunks) && decide (x.nChunks ≤ 65535) && decide (x.firstChunk + x.nChunks ≤ 0xFFFFFFFF)
    && decide (x.rule ≤ 7) && (x.kind ≠ .update || decide (x.rule < rules.length)) && decide (x.group ≤ 63)
    && decide (x.firstRow ≤ 127) && decide (x.lastRow ≤ 127)
    && x.bank0 % 4096 = 0 && x.bank1 % 4096 = 0 && placeable s x.bank0 size && placeable s x.bank1 size && imagesOk s x
    && (match x.gatherList with
        | some i => decide (i ≤ 15) && decide (3 ≤ x.gatherFmt) && decide (x.gatherFmt ≤ 6) && tileOk x.gatherFmt x.gatherScaled
        | none => true)
    && (x.kind ≠ .vector || (decide (x.doneCtr + 1 < 4096) && placeable s x.stage (65536 * x.nChunks)))
    && (x.kind ≠ .frozen || (x.bank1 = x.bank0 && x.out1 = x.out0))
    && (x.rec16 || !((rules.getD x.rule { ops := [] }).ops.any (fun w => namesAux (ruleOp w))))

/-- Chunk ranges do not overlap. -/
def disjoint : List Shard → Bool
  | [] => true
  | x :: t => t.all (fun y => decide (x.firstChunk + x.nChunks ≤ y.firstChunk) || decide (y.firstChunk + y.nChunks ≤ x.firstChunk))
    && disjoint t

/-- Shard tables, gather lists and rules of every gateway (11 R384, R391, R392). -/
def gatewaysOk (s : State) (c : Image) : Bool :=
  c.shards.all (fun e => decide (e.1 < 16) && decide (e.2.length ≤ 256) && e.2.all (shardOk s c e.1) && disjoint e.2
      && decide ((e.2.map (·.nChunks)).sum ≤ 65536))
    && c.gathers.all (fun e => decide (e.1 < 16) && decide (e.2.length ≤ 16) && e.2.all (fun l => decide (l.length ≤ 64)
      && l.all (fun t => decide (t.1 < 1024) && decide (t.2 < 16))))
    && c.rules.all (fun e => decide (e.1 < 16) && decide (e.2.length ≤ 8) && e.2.all (fun r =>
      decide (1 ≤ r.ops.length) && decide (r.ops.length ≤ 32) && r.ops.all (fun w => ruleOpOk (ruleOp w))))
    && (match c.lossGw with | some k => decide (k < 16) | none => true)

/-- General-core parts of live clusters, placed outside pocket bank 0, with up to 16 PMP entries (06 R255; 07 R263;
13 R452). -/
def gcsOk (s : State) (c : Image) : Bool :=
  c.gcs.all (fun e => live s e.1 && (match e.2 with
    | some p => decide (p.pmp.length ≤ 16) && p.code.all (fun x => placeable s x.1 x.2.length
        && (probes x.1 x.2.length).all (fun a => match placeMap s a with
          | .pocket n => decide (0x80000 ≤ a - pocketAddr n 0)
          | _ => true))
    | none => true))

/-- The module can take any course: memory of the tier, no fabric fault, room in the fault map (09 R345;
16 R539 and its unit-kind table). -/
def loadable (s : State) : Bool :=
  !(lpGone s 0 && lpGone s 1) && decide (s.vault.fmap.length < 32768)
    && s.vault.fmap.all (fun e => e.kind ≠ 6 || e.action ≠ 0)

/-- The content checks of LOAD_COURSE, on the module as the course would meet it (13 R453 step 3; log 49). -/
def contentOk (s : State) (c : Image) : Bool :=
  let s := nextModule s
  let t := { s with bankMode := courseModes s c }
  loadable s && c.sections.isSome && configOk s c && modesOk s c && portsOk s c && programsOk s c && keepOk t c && staticOk c
    && (c.chkEnable || bitOf c.hdr.flags 1) && c.reserves.all (fun r => placeable s r.1 r.2) && exchangeOk s c
    && c.windows.all (winCfgOk t) && bindingsOk s c && treeOk s c && stepsOk s c && routesOk s c && gatewaysOk s c
    && c.groups.all (fun e => decide (e.1 < 64) && (match e.2 with | some g => watchOk g | none => true))
    && c.channels.all (fun k => decide (k < 8)) && gcsOk s c

/-- The course's data in memory: KEEP banks zero-filled, then programs, data and general-core code (07 R270;
13 R453 step 4). -/
def loadMemory (s : State) (c : Image) : State :=
  let s := (banksOf s 2).foldl zeroBank s
  let s := c.programs.foldl (fun s e => (writeMem s (pocketAddr e.1 0) e.2).1) s
  let s := c.keepData.foldl (fun s e => (writeMem s e.1 e.2).1) s
  c.gcs.foldl (fun s e => match e.2 with
    | some p => p.code.foldl (fun s x => (writeMem s x.1 x.2).1) s
    | none => s) s

/-- Every LFSR at its seed, or at 1 where the seed is 0 (04 R171). -/
def seeded (s : State) (c : Image) : Table Station :=
  ((List.range 768).filter (present s)).map (fun n =>
    let v := c.seeds.get 0 n
    (n, { lfsr := if v = 0 then 1 else v }))

/-- Fields that read 0 in a sealed job without standing still: what CLK_CLU and PWR_HALF held when it was loaded, which
the first covering read after the job returns (00 R601; 14 R498, R499). -/
def holdFields (s : State) (c : Image) : State :=
  if !bitOf c.hdr.flags 0 then s
  else
    let keep (t : Table Nat) (k v : Nat) : Table Nat := if t.any (fun e => e.1 = k) then t else t.set k v
    let o := { s with course := none }
    let half := keep s.held (regKey 10 0x728) (powerReg o 0x728)
    let clocks := ((List.range 96).filter (live s)).foldl (fun t g =>
      keep t (regKey (g / 12) (0x2800 + 8 * (g % 12))) (clkClu o g % 2 ^ 32)) half
    { s with held := clocks }

/-- A loaded course takes effect (13 R453 steps 4 to 6; 04 R171; 07 R287; 08 R316, R317; 11 R411; 17 R552). -/
def applyCourse (s : State) (c : Image) : State :=
  let s := holdFields (nextModule s) c
  let s := { s with course := some c, bankMode := courseModes s c }
  let s := restBanks (loadMemory s c)
  let s := c.windows.foldl (fun s w => openWin s w false) { s with wins := [] }
  let s := { s with
    engines := (List.range 384).map (fun i => (i, { doneCnt := (s.engines.get {} i).doneCnt, bound := c.bindings.get none i }))
    stns := seeded s c, arrs := [], coreCtr := [], cluCtr := [], dieCtr := [], modCtr := []
    adds := [], waiters := [], valMsgs := [], seen := [], jobUp := [], jobSum := [], jobDown := []
    gws := (List.range 16).map (fun k => (k, { state := b2n c.steps.step.isSome }))
    groups := c.groups.map (fun e => (e.1, { cfg := e.2.getD {}, used := e.2.isSome }))
    nfCnt := [], coord := {}, steps := 0, ofls := [], gwIn := []
    keys := { s.keys with loads := s.keys.loads + 1 }, runNo := 1, jobState := 2, run := {}, dump := {}
    ports := s.ports.map (fun e => (e.1, clearPort e.2)) }
  setReg (setReg s (regKey 10 0x620) 0) (regKey 10 0x628) 0

/-- The commit point: the counter rises to the image's version (13 R453 step 5; 17 R557). -/
def commitCourse (s : State) (c : Image) : State :=
  if s.vault.counters.get 0 c.hdr.counter < c.hdr.version then
    commitNow s (fun v => { v with counters := v.counters.set c.hdr.counter c.hdr.version })
  else s

/-- A check of the signature or the version fails: SEC_ERR, its event and the status (17 R559). -/
def courseDenied (s : State) (src : Src) (event st : Nat) : State :=
  complete (raise (setBit s (regKey 10 0x900) 11) event 15 0 none) src st 0

/-- LOAD_COURSE: header, signature, version, content, commit (13 R451 to R453; 17 R557, R559; 18 R571; log 28). -/
def execLoadCourse (src : Src) (_addr len : Nat) (img : Image) (dmaError : Bool) (s : State) : Out :=
  command src .load true s (fun s =>
    if dmaError then .next (dmaFault s src)
    else if !headOk s len img.hdr then .next (complete s src stInvalid 0)
    else
      let s := readDual s false
      let key := s.vault.courseKeys.get 0 img.hdr.signSlot
      if key = 0 || img.signedBy ≠ key then .next (courseDenied s src 0x0A04 0x02)
      else if img.hdr.version < s.vault.counters.get 0 img.hdr.counter then .next (courseDenied s src 0x0A05 0x0C)
      else if !contentOk s img then .next (complete s src stInvalid 0)
      else if s.vault.counters.get 0 img.hdr.counter < img.hdr.version && s.vault.state ≠ 0 then
        .next (complete s src stFault 0)
      else .next (complete (commitCourse (applyCourse s img) img) src stOK img.hdr.job))

/-- Keys that the loaded course needs are missing (13 R454). -/
def keysMissing (s : State) : Bool :=
  ((List.range 16).any (usedPort s) && s.keys.link.isNone)
    || ((match s.course with | some c => c.channels ≠ [] | none => false) && s.keys.offload.isNone)
    || (sealedJob s && s.keys.output.isNone)

/-- Banks of modes RUN and KEEP in a state (07 R272). -/
def banksTo (s : State) (st : Nat) : State :=
  { s with bankState := s.bankMode.map (fun e => (e.1, if e.2 = 0 then 0 else st)) }

/-- RUN: its keys and the state of the job; banks change; FAULT_N is released (07 R272; 13 R454; 16 R528). -/
def execRun (src : Src) (s : State) : Out :=
  command src .run false s (fun s =>
    if keysMissing s then .next (complete s src stInvalid 0)
    else if s.coord.frozen || s.run.portLost then .next (complete s src stFault 0)
    else .next (banksTo { s with jobState := 3, run := { s.run with src := some src }, stop := {} } 3))

/-- The sequencer of a station at the start of a RUN; the LFSR carries on, and a stopped hop stays (02 R67, R72;
06 R222). -/
def startStn (c : Image) (n : Nat) (st : Station) : Station :=
  { pc := c.entries.get 0 n, run := .issuing, lfsr := st.lfsr, stopped := st.stopped }

/-- The general core of a cluster at the start of a RUN (06 R255, R256). -/
def startGc (c : Image) (g : Nat) : Gc :=
  match c.gcs.get none g with
  | some p => { state := .running, pc := p.entry, pmp := p.pmp }
  | none => {}

/-- A cluster at the start of a RUN (06 R239, R240; 08 R319; 14 R479; log 5). -/
def startClu (c : Image) (g : Nat) (x : Cluster) : Cluster :=
  { x with cyc := 0, ended := true, hold := 0, bpWait := false, tok := 0, timed := [], loans := [], borrowQ := []
           eclipsed := false, lowered := false, gc := startGc c g, onBoot := false }

/-- The peak of the token meter counts from the start of the RUN (06 R248). -/
def clearPeak (s : State) (g : Nat) : State :=
  let k := regKey (g / 12) (0x200 + 8 * (g % 12))
  setReg s k (setBits (reg s k) 14 8 0)

/-- A RUN starts: banks ACTIVE, landing buffers FREE, every present station at its entry stride, the coordinator at
its bases (02 R67; 06 R222, R242; 07 R272; 11 R400, R411). -/
def startRunAll (s : State) (c : Image) : State :=
  let s := banksTo ((banksOf s 1).foldl zeroBank s) 1
  let ns := (List.range 768).filter (present s)
  let gs := (List.range 96).filter (live s)
  let s := { s with
    stns := ns.map (fun n => (n, startStn c n (stn s n)))
    arrs := []
    engines := if sealedJob s then s.engines else s.engines.map (fun e => (e.1, { e.2 with doneCnt := 0 }))
    coreCtr := s.coreCtr.filter (fun e => e.1 % 64 < 56)
    clus := gs.foldl (fun t g => t.upd {} g (startClu c g)) s.clus
    coord := { s.coord with bs := 0, ba := 0, runSteps := 0, runSkips := 0, voted := false, votedSkip := false
                            freeze := false, acking := false }
    gws := s.gws.map (fun e => (e.1, { e.2 with doneBase := [] }))
    run := { s.run with started := true } }
  goCopies (gs.foldl (fun s g => retarget (clearPeak s g) g) s)

/-- RUN_START: at most 45 µs after the RUN is taken, the stations issue their first strides (06 R242; 07 R272). -/
def execRunStart (s : State) : Out :=
  match s.course with
  | some c => if s.jobState ≠ 3 || s.run.started then .next s else .next (startRunAll s c)
  | none => .next s

end Sys2Proof.Machine
end

