-- ==== Sys2Proof/Machine/Riscv.lean ====
section
/-! DEFINITION. RV64IMAC as functions of values: immediates, compressed instructions, integer arithmetic, branches,
and atomic operations (06 R255; log 67). -/
namespace Sys2Proof.Machine
open Sys2Proof

/-- The low `n` bits of a number, sign-extended to 64. -/
def sx (n v : Nat) : W64 := (BitVec.ofNat 64 v <<< (64 - n)).sshiftRight (64 - n)

/-- Register rd of an instruction word. -/
def rvRd (w : Nat) : Nat := bits w 11 7
/-- funct3. -/
def rvF3 (w : Nat) : Nat := bits w 14 12
/-- Register rs1. -/
def rvR1 (w : Nat) : Nat := bits w 19 15
/-- Register rs2. -/
def rvR2 (w : Nat) : Nat := bits w 24 20
/-- funct7. -/
def rvF7 (w : Nat) : Nat := bits w 31 25

/-- I-type immediate. -/
def immI (w : Nat) : W64 := sx 12 (bits w 31 20)
/-- S-type immediate. -/
def immS (w : Nat) : W64 := sx 12 (putFields 0 [(11, 5, bits w 31 25), (4, 0, bits w 11 7)])
/-- B-type immediate. -/
def immB (w : Nat) : W64 :=
  sx 13 (putFields 0 [(12, 12, bits w 31 31), (11, 11, bits w 7 7), (10, 5, bits w 30 25), (4, 1, bits w 11 8)])
/-- U-type immediate. -/
def immU (w : Nat) : W64 := sx 32 (bits w 31 12 * 4096)
/-- J-type immediate. -/
def immJ (w : Nat) : W64 :=
  sx 21 (putFields 0 [(20, 20, bits w 31 31), (19, 12, bits w 19 12), (11, 11, bits w 20 20), (10, 1, bits w 30 21)])

/-- An I-type word. -/
def encI (op f3 rd rs1 imm : Nat) : Nat := putFields 0 [(6, 0, op), (11, 7, rd), (14, 12, f3), (19, 15, rs1), (31, 20, imm)]
/-- An R-type word. -/
def encR (op f3 f7 rd rs1 rs2 : Nat) : Nat :=
  putFields 0 [(6, 0, op), (11, 7, rd), (14, 12, f3), (19, 15, rs1), (24, 20, rs2), (31, 25, f7)]
/-- An S-type word. -/
def encS (op f3 rs1 rs2 imm : Nat) : Nat :=
  putFields 0 [(6, 0, op), (11, 7, imm), (14, 12, f3), (19, 15, rs1), (24, 20, rs2), (31, 25, imm / 32)]
/-- A branch that compares a register with x0. -/
def encB (f3 rs1 imm : Nat) : Nat :=
  putFields 0 [(6, 0, 0x63), (7, 7, imm / 2048), (11, 8, imm / 2), (14, 12, f3), (19, 15, rs1), (30, 25, imm / 32)
    , (31, 31, imm / 4096)]

/-- The sign-extended 6-bit immediate of a compressed instruction, in 12 bits. -/
def cImm (w : Nat) : Nat := (sx 6 (putFields 0 [(5, 5, bits w 12 12), (4, 0, bits w 6 2)])).toNat % 4096

/-- The word that a quadrant 0 compressed instruction stands for; none for a reserved one. -/
def expand0 (w : Nat) : Option Nat :=
  let rd := 8 + bits w 4 2
  let r1 := 8 + bits w 9 7
  let o4 := putFields 0 [(5, 3, bits w 12 10), (2, 2, bits w 6 6), (6, 6, bits w 5 5)]
  let o8 := putFields 0 [(5, 3, bits w 12 10), (7, 6, bits w 6 5)]
  match bits w 15 13 with
  | 0 =>
    let i := putFields 0 [(5, 4, bits w 12 11), (9, 6, bits w 10 7), (2, 2, bits w 6 6), (3, 3, bits w 5 5)]
    if i = 0 then none else some (encI 0x13 0 rd 2 i)
  | 1 => some (encI 0x07 3 rd r1 o8)
  | 2 => some (encI 0x03 2 rd r1 o4)
  | 3 => some (encI 0x03 3 rd r1 o8)
  | 5 => some (encS 0x27 3 r1 rd o8)
  | 6 => some (encS 0x23 2 r1 rd o4)
  | 7 => some (encS 0x23 3 r1 rd o8)
  | _ => none

/-- The arithmetic of quadrant 1. -/
def expandAlu (w : Nat) : Option Nat :=
  let r := 8 + bits w 9 7
  let r2 := 8 + bits w 4 2
  let sh := cImm w % 64
  match bits w 11 10 with
  | 0 => some (encI 0x13 5 r r sh)
  | 1 => some (encI 0x13 5 r r (1024 + sh))
  | 2 => some (encI 0x13 7 r r (cImm w))
  | _ =>
    match bits w 12 12, bits w 6 5 with
    | 0, 0 => some (encR 0x33 0 0x20 r r r2)
    | 0, 1 => some (encR 0x33 4 0 r r r2)
    | 0, 2 => some (encR 0x33 6 0 r r r2)
    | 0, 3 => some (encR 0x33 7 0 r r r2)
    | 1, 0 => some (encR 0x3B 0 0x20 r r r2)
    | 1, 1 => some (encR 0x3B 0 0 r r r2)
    | _, _ => none

/-- Quadrant 1. -/
def expand1 (w : Nat) : Option Nat :=
  let rd := bits w 11 7
  let r1 := 8 + bits w 9 7
  let br := putFields 0 [(8, 8, bits w 12 12), (4, 3, bits w 11 10), (7, 6, bits w 6 5), (2, 1, bits w 4 3), (5, 5, bits w 2 2)]
  let bi := (sx 9 br).toNat % 8192
  match bits w 15 13 with
  | 0 => some (encI 0x13 0 rd rd (cImm w))
  | 1 => if rd = 0 then none else some (encI 0x1B 0 rd rd (cImm w))
  | 2 => some (encI 0x13 0 rd 0 (cImm w))
  | 3 =>
    if cImm w = 0 then none
    else if rd = 2 then
      let i := putFields 0 [(9, 9, bits w 12 12), (4, 4, bits w 6 6), (6, 6, bits w 5 5), (8, 7, bits w 4 3), (5, 5, bits w 2 2)]
      some (encI 0x13 0 2 2 ((sx 10 i).toNat % 4096))
    else some (putFields 0 [(6, 0, 0x37), (11, 7, rd), (31, 12, (sx 6 (cImm w)).toNat % 2 ^ 20)])
  | 4 => expandAlu w
  | 5 =>
    let i := putFields 0 [(11, 11, bits w 12 12), (4, 4, bits w 11 11), (9, 8, bits w 10 9), (10, 10, bits w 8 8)
      , (6, 6, bits w 7 7), (7, 7, bits w 6 6), (3, 1, bits w 5 3), (5, 5, bits w 2 2)]
    let j := (sx 12 i).toNat % 2 ^ 21
    some (putFields 0 [(6, 0, 0x6F), (19, 12, j / 4096), (20, 20, j / 2048), (30, 21, j / 2), (31, 31, j / 2 ^ 20)])
  | 6 => some (encB 0 r1 bi)
  | _ => some (encB 1 r1 bi)

/-- Quadrant 2. -/
def expand2 (w : Nat) : Option Nat :=
  let rd := bits w 11 7
  let r2 := bits w 6 2
  let l8 := putFields 0 [(5, 5, bits w 12 12), (4, 3, bits w 6 5), (8, 6, bits w 4 2)]
  let s8 := putFields 0 [(5, 3, bits w 12 10), (8, 6, bits w 9 7)]
  match bits w 15 13 with
  | 0 => some (encI 0x13 1 rd rd (cImm w % 64))
  | 1 => some (encI 0x07 3 rd 2 l8)
  | 2 =>
    if rd = 0 then none
    else some (encI 0x03 2 rd 2 (putFields 0 [(5, 5, bits w 12 12), (4, 2, bits w 6 4), (7, 6, bits w 3 2)]))
  | 3 => if rd = 0 then none else some (encI 0x03 3 rd 2 l8)
  | 4 =>
    match bits w 12 12, r2 with
    | 0, 0 => if rd = 0 then none else some (encI 0x67 0 0 rd 0)
    | 0, _ => some (encR 0x33 0 0 rd 0 r2)
    | _, 0 => if rd = 0 then some 0x00100073 else some (encI 0x67 0 1 rd 0)
    | _, _ => some (encR 0x33 0 0 rd rd r2)
  | 5 => some (encS 0x27 3 2 r2 s8)
  | 6 => some (encS 0x23 2 2 r2 (putFields 0 [(5, 2, bits w 12 9), (7, 6, bits w 8 7)]))
  | _ => some (encS 0x23 3 2 r2 s8)

/-- The 32-bit instruction that a 16-bit one stands for; none for a reserved one. -/
def expandC (w : Nat) : Option Nat :=
  match w % 4 with
  | 0 => expand0 w
  | 1 => expand1 w
  | 2 => expand2 w
  | _ => none

/-- MUL to REMU by funct3, from operands of `n` bits as signed and unsigned values. -/
def mulDiv (n f3 : Nat) (sa sb : Int) (ua ub : Nat) : Int :=
  match f3 with
  | 0 => sa * sb
  | 1 => (sa * sb).fdiv (2 ^ n)
  | 2 => (sa * ub).fdiv (2 ^ n)
  | 3 => (ua * ub / 2 ^ n : Nat)
  | 4 => if sb = 0 then -1 else sa.tdiv sb
  | 5 => if ub = 0 then -1 else (ua / ub : Nat)
  | 6 => sa.tmod sb
  | _ => (ua % ub : Nat)

/-- The integer operation of funct7 and funct3 on 64 bits; none for a reserved one. -/
def aluOp (f7 f3 : Nat) (a b : W64) : Option W64 :=
  let sh := b.toNat % 64
  match f7, f3 with
  | 0, 0 => some (a + b)
  | 0x20, 0 => some (a - b)
  | 0, 1 => some (a <<< sh)
  | 0, 2 => some (if a.slt b then 1 else 0)
  | 0, 3 => some (if a.ult b then 1 else 0)
  | 0, 4 => some (a ^^^ b)
  | 0, 5 => some (a >>> sh)
  | 0x20, 5 => some (a.sshiftRight sh)
  | 0, 6 => some (a ||| b)
  | 0, 7 => some (a &&& b)
  | 1, _ => some (BitVec.ofInt 64 (mulDiv 64 f3 a.toInt b.toInt a.toNat b.toNat))
  | _, _ => none

/-- The same on the low 32 bits, the result sign-extended. -/
def aluOpW (f7 f3 : Nat) (a b : W64) : Option W64 :=
  let x : W32 := a.setWidth 32
  let y : W32 := b.setWidth 32
  let sh := b.toNat % 32
  let r : Option W32 := match f7, f3 with
    | 0, 0 => some (x + y)
    | 0x20, 0 => some (x - y)
    | 0, 1 => some (x <<< sh)
    | 0, 5 => some (x >>> sh)
    | 0x20, 5 => some (x.sshiftRight sh)
    | 1, _ =>
      if f3 = 0 || 4 ≤ f3 then some (BitVec.ofInt 32 (mulDiv 32 f3 x.toInt y.toInt x.toNat y.toNat)) else none
    | _, _ => none
  r.map (·.signExtend 64)

/-- The operation of an OP-IMM or OP-IMM-32 word on rs1. -/
def aluImm (word : Bool) (w : Nat) (a : W64) : Option W64 :=
  let f3 := rvF3 w
  let op := if word then aluOpW else aluOp
  if f3 = 1 || f3 = 5 then
    let f7 := if word then rvF7 w else rvF7 w / 2 * 2
    if f3 = 1 && f7 ≠ 0 || f7 = 1 then none else op f7 f3 a (BitVec.ofNat 64 (bits w 25 20))
  else if word && f3 ≠ 0 then none
  else op 0 f3 a (immI w)

/-- A branch is taken; none for a reserved funct3. -/
def branchTaken (f3 : Nat) (a b : W64) : Option Bool :=
  match f3 with
  | 0 => some (a = b)
  | 1 => some (a ≠ b)
  | 4 => some (a.slt b)
  | 5 => some (!a.slt b)
  | 6 => some (a.ult b)
  | 7 => some (!a.ult b)
  | _ => none

/-- The value that an AMO stores, on `n` bits: of the memory's and the register's. -/
def amoValue (n f5 m r : Nat) : Option Nat :=
  let s (x : Nat) : Int := (BitVec.ofNat n x).toInt
  let u (x : Nat) : Nat := x % 2 ^ n
  match f5 with
  | 0x01 => some (u r)
  | 0x00 => some (u (m + r))
  | 0x04 => some (u (m ^^^ r))
  | 0x0C => some (u (m &&& r))
  | 0x08 => some (u (m ||| r))
  | 0x10 => some (if s m ≤ s r then u m else u r)
  | 0x14 => some (if s m ≤ s r then u r else u m)
  | 0x18 => some (min (u m) (u r))
  | 0x1C => some (max (u m) (u r))
  | _ => none

end Sys2Proof.Machine
end

