-- ==== Sys2Proof/Machine/GenCore.lean ====
section
/-! DEFINITION. The general cores: the Icxel instructions, loads and stores by module address, the calls of the
ROM library, and exceptions (01 R43; 04 R161; 06 R255 to R259; 07 R262 to R265; 08 R304; 09 R338, R340;
11 R409; 13 R455; 17 R555). -/
namespace Sys2Proof.Machine
open Sys2Proof

/-- A general core runs its program now; a dump pauses it (08 R326). -/
def gcActs (s : State) (g : Nat) : Bool := live s g && (gcOf s g).state = .running && s.dump.state ≠ 1

/-- Integer register `r` of a general core; x0 reads 0. -/
def gx (s : State) (g r : Nat) : W64 := if r = 0 then 0 else (gcOf s g).x.get 0 r

/-- The state with an integer register of a general core written; x0 keeps 0. -/
def putGx (s : State) (g r : Nat) (v : W64) : State :=
  if r = 0 then s else updGc s g (fun c => { c with x := c.x.set r v })

/-- The general core passes an instruction of `len` bytes. -/
def gcPass (s : State) (g len : Nat) : State := updGc s g (fun c => { c with pc := (c.pc + len) % 2 ^ 64 })

/-- The general core passes to its next instruction. -/
def gcNext (s : State) (g : Nat) : State := gcPass s g 4

/-- An exception in U-mode halts the general core, and a fault stop begins (06 R256). -/
def gcTrap (s : State) (g cause : Nat) : State :=
  wantStop (updGc s g (fun c => { c with state := .halted, waitCtr := none, released := none, wdog := 0, mcause := cause })) 0

/-- Ones at the low end of a PMP address, by `n` bits at most. -/
def lowOnes : Nat → Nat → Nat
  | 0, _ => 0
  | n + 1, v => if v % 2 = 1 then lowOnes n (v / 2) + 1 else 0

/-- The bytes that a PMP entry names: first and one past the last; `prev` is the address of the entry before it
(log 43). -/
def pmpSpan (prev e : Nat) : Nat × Nat :=
  let a := bits e 61 8
  match bits e 4 3 with
  | 0 => (0, 0)
  | 1 => (4 * prev, 4 * a)
  | 2 => (4 * a, 4 * a + 4)
  | _ =>
    let k := lowOnes 54 a
    (4 * (a - (2 ^ k - 1)), 4 * (a - (2 ^ k - 1)) + 2 ^ (k + 3))

/-- A U-mode access passes the PMP entries: the first that meets any of its bytes holds all of them and has the
permission bit set, 0 to read, 1 to write, 2 to execute (06 R255; log 43). -/
def pmpPerm (a len bit : Nat) : Nat → List Nat → Bool
  | _, [] => false
  | prev, e :: t =>
    let r := pmpSpan prev e
    if a < r.2 && r.1 < a + len then decide (r.1 ≤ a) && decide (a + len ≤ r.2) && bitOf e bit
    else pmpPerm a len bit (bits e 61 8) t

/-- A load or store passes the PMP entries (06 R255). -/
def pmpOk (a len : Nat) (write : Bool) (prev : Nat) (l : List Nat) : Bool := pmpPerm a len (if write then 1 else 0) prev l

/-- A stopped fabric hop keeps an access of a general core from its memory: the core stays at it (01 R37). -/
def gcBlocked (s : State) (g a : Nat) : Bool := !fabricOpen s g a

/-- Bytes of memory are there for a general core (01 R43; 07 R262, R263, R265; 17 R555). -/
def gcThere (s : State) (g a len : Nat) (write : Bool) : Bool :=
  decide (a + len ≤ 2 ^ 48) && !exchMapped s a len &&
    (probes a len).all (fun p =>
      match place s p with
      | .reserved | .regs => false
      | .pocket n => cluOf n = g && (!write || decide (0x80000 ≤ p - pocketAddr n 0))
      | .store h => h / 12 = g / 12
      | _ => true)

/-- A general core may reach bytes of memory (01 R43; 06 R255; 07 R262, R263, R265; 17 R555). -/
def gcReach (s : State) (g a len : Nat) (write : Bool) : Bool :=
  pmpOk a len write 0 (gcOf s g).pmp && gcThere s g a len write

/-- Load or store access fault (RISC-V; 01 R43). -/
def accessFault (write : Bool) : Nat := if write then 7 else 5

/-- A hurdle instruction of a general core names a counter of the job; a bad address is a store access fault
(08 R304, R332). -/
def gcHurdle (g a : Nat) (s : State) (f : State → Out) : Out :=
  if !gcActs s g then .next s
  else if addrBad s a then
    .next (gcTrap (raise (hurErr s (g / 12) 1 (8 * (g % 12)) true) 0x0302 (g / 12) (8 * (g % 12)) none) g 7)
  else f s

/-- XHARRIVE: an add, after every earlier access is visible (06 R257, R259; 08 R301, R305). -/
def execXharrive (g rs1 rs2 : Nat) (s : State) : Out :=
  gcHurdle g ((gx s g rs1).toNat % 2 ^ 32) s (fun s =>
    .next (gcNext (signalTo s g ((gx s g rs1).toNat % 2 ^ 32) ((gx s g rs2).setWidth 32)) g))

/-- XHSIGNAL (06 R257, R259; 08 R302, R305). -/
def execXhsignal (g rs1 rs2 : Nat) (s : State) : Out :=
  gcHurdle g ((gx s g rs1).toNat % 2 ^ 32) s (fun s =>
    .next (gcNext (signalTo s g ((gx s g rs1).toNat % 2 ^ 32) ((gx s g rs2).setWidth 32)) g))

/-- A hurdle address names a counter that this module holds: one of its own, or a job hurdle, of which every module
holds a copy (08 R303, R315). -/
def heldHere (s : State) (a : Nat) : Bool := addrModule s a = s.moduleId || isJobHurdle s (addrCtr a)

/-- XHWAIT: stalls until the counter satisfies the target, then rd is its value; the instruction is passed when
it is released (06 R257; 08 R306, R313, R315; log 44). -/
def execXhwait (g rd rs1 rs2 : Nat) (long : Bool) (s : State) : Out :=
  gcHurdle g ((gx s g rs1).toNat % 2 ^ 32) s (fun s =>
    let a := (gx s g rs1).toNat % 2 ^ 32
    let t : W32 := (gx s g rs2).setWidth 32
    let c := addrCtr a
    let here := heldHere s a
    if here && satisfied (ctrVal s c) t && !cutOff s (.gc g) c then .next (gcNext (putGx s g rd ((ctrVal s c).setWidth 64)) g)
    else
      let s := updGc s g (fun x =>
        { x with state := .xhwait, waitAddr := a, waitCtr := if here then some c else none, released := none, target := t
                 long := long, rd := rd, wdog := 0 })
      .next (if here then register s (.gc g) c else s))

/-- XHREAD: rd is the counter's value (06 R257; 08 R315; log 44). -/
def execXhread (g rd rs1 : Nat) (s : State) : Out :=
  gcHurdle g ((gx s g rs1).toNat % 2 ^ 32) s (fun s =>
    let a := (gx s g rs1).toNat % 2 ^ 32
    if heldHere s a then
      .next (gcNext (putGx s g rd ((ctrVal s (addrCtr a)).setWidth 64)) g)
    else
      let d := draw s
      .next (gcNext (putGx d.1 g rd (BitVec.ofNat 64 ((Config.freeWord d.2).toNat % 2 ^ 32))) g))

/-- An engine of the cluster bound to its general core (06 R234). -/
def gcEngine (s : State) (g e : Nat) : Bool := decide (e < 4) && (eng s g e).bound = some .gc

/-- A STRM or REARM on an engine that is not bound to the general core does nothing (06 R234). -/
def gcNotBound (s : State) (g : Nat) : State := raise s 0x0410 (g / 12) (8 * (g % 12)) none

/-- XSTRM: as STRM on an engine bound to the general core; the descriptor count has no operand (06 R234, R257;
log 45). -/
def execXstrm (g rd rs1 rs2 : Nat) (s : State) : Out :=
  if !gcActs s g then .next s
  else
    let e := (gx s g rs1).toNat
    if !gcEngine s g e then .next (gcNext (putGx (gcNotBound s g) g rd 0) g)
    else
      let d := draw s
      let s := strmOn d.1 g e ((gx s g rs2).toNat % 2 ^ 48) ((Config.freeWord d.2).toNat % 2 ^ 32)
      .next (gcNext (putGx s g rd 0) g)

/-- XREARM: as REARM on an engine bound to the general core (06 R234, R257). -/
def execXrearm (g rs1 rs2 : Nat) (s : State) : Out :=
  if !gcActs s g then .next s
  else
    let e := (gx s g rs1).toNat
    if !gcEngine s g e then .next (gcNext (gcNotBound s g) g)
    else .next (gcNext (rearmOn s g e ((gx s g rs2).toNat % 2 ^ 48)) g)

/-- The elements of a block row or block column, in order (06 R257; 04 R150). -/
def blockElems (v : Nat) (trans : Bool) : List (Nat × Nat) :=
  (List.range 32).map (fun i =>
    if trans then (32 * bits v 8 7 + i, bits v 6 0) else (bits v 6 0, 32 * bits v 8 7 + i))

/-- Bytes of the tile that hold listed elements, and their scales. -/
def blockBytes (f : Fmt) (sc : Bool) (l : List (Nat × Nat)) : List Nat :=
  uniq (l.flatMap (fun e =>
    let o := elemIndex e.1 e.2 * fmtBits f
    (List.range ((o + fmtBits f - 1) / 8 - o / 8 + 1)).map (fun j => o / 8 + j)
      ++ (if sc then [payloadBytes f + 4 * e.1 + e.2 / 32] else [])))

/-- The tensor group that rs2 names (04 R605; 06 R257). -/
def groupOf (v : Nat) : Option Nat := if bitOf v 9 then some (bits v 15 10) else none

/-- A vector register's 32-bit element (06 R258). -/
def vElem (s : State) (g v i : Nat) : W32 :=
  BitVec.ofNat 32 (ofLe ((List.range 4).map (fun j => (gcOf s g).v.get 0 (256 * v + 4 * i + j))))

/-- The state with bytes of a vector register written. -/
def putV (s : State) (g v : Nat) (bs : List Byte) : State :=
  updGc s g (fun c => { c with v := ((List.range bs.length).zip bs).foldl (fun t e => t.set (256 * v + e.1) e.2) c.v })

/-- XPLD: 32 elements of a block row or column as 32-bit values (04 R161; 06 R257, R258; 09 R338). -/
def execXpld (g vd rs1 rs2 fmt : Nat) (sc trans : Bool) (s : State) : Out :=
  if !gcActs s g then .next s
  else
    match Fmt.ofCode fmt with
    | none => .next (gcTrap s g 2)
    | some f =>
      if !tileOk fmt sc then .next (gcTrap s g 2)
      else
        let a := (gx s g rs1).toNat
        let v := (gx s g rs2).toNat
        let es := blockElems v trans
        let bs := blockBytes f sc es
        if !bs.all (fun o => gcReach s g (a + o) 1 false) then .next (gcTrap s g 5)
        else
          let m := murk s a (storedBytes fmt sc)
          let r := readList m.1 (uniq (bs.map (fun o => (a + o) / 64)))
          if gcBlocked s g a then .next s
          else
          match r.fail with
          | some _ => .next (gcTrap r.s g 5)
          | none =>
            let rd := fun o => stnByte m r (a + o)
            let int := fmt = 8 && !sc
            let xs := es.map (fun e =>
              if int then
                (BitVec.ofInt 32 (rd (elemIndex e.1 e.2)).toInt, false)
              else
                let c := cvt .fp32 .near false (tileElem f sc rd e.1 e.2)
                (BitVec.ofNat 32 c.1, c.2))
            let s := countNonFin r.s (groupOf v) (xs.countP (·.2))
            .next (gcNext (putV s g vd (xs.flatMap (fun x => leBytes 4 x.1.toNat))) g)

/-- The bytes that XPST writes: the elements of an unscaled format at their places, or a block row of a scaled one
with its scale (04 R154; 06 R258; 07 R266, R267). -/
def xpstBytes (f : Fmt) (sc : Bool) (es : List (Nat × Nat)) (c : Conv) : List (Nat × Byte) :=
  if sc then
    match es with
    | (r, col) :: _ =>
      let bs := packCodes f c.codes
      ((List.range bs.length).zip bs).map (fun e => (elemOffset f (elemIndex r col) + e.1, e.2))
        ++ c.scales.map (fun k => (payloadBytes f + 4 * r + col / 32, BitVec.ofNat 8 k))
    | [] => []
  else
    (es.zip c.codes).flatMap (fun e =>
      let w := fmtBits f / 8
      ((List.range w).zip (leBytes w e.2)).map (fun b => (elemIndex e.1.1 e.1.2 * w + b.1, b.2)))

/-- XPST: 32 elements from 32-bit values, to nearest even (04 R154, R161, R162; 06 R257, R258; 07 R263; 09
R340). -/
def execXpst (g vs rs1 rs2 fmt : Nat) (sc trans prop : Bool) (s : State) : Out :=
  if !gcActs s g then .next s
  else
    match Fmt.ofCode fmt with
    | none => .next (gcTrap s g 2)
    | some f =>
      if !tileOk fmt sc || (sc && trans) then .next (gcTrap s g 2)
      else
        let a := (gx s g rs1).toNat
        let v := (gx s g rs2).toNat
        let es := blockElems v trans
        let int := fmt = 8 && !sc
        let vals := (List.range 32).map (fun i =>
          if int then ofInt (vElem s g vs i).toInt else ofF32 (vElem s g vs i))
        let c := convert f sc false prop 1 0 vals
        let bs := (xpstBytes f sc es c).map (fun e => (a + e.1, e.2))
        if !bs.all (fun e => gcReach s g e.1 1 true) then .next (gcTrap s g 7)
        else if gcBlocked s g a then .next s
        else
          let r := putMem (touch s a (storedBytes fmt sc)) bs
          let s := countNonFin r.1 (groupOf v) c.count
          if r.2 then .next (gcNext s g) else .next (gcTrap s g 5)

/-- The general core ends its part in the RUN: ECALL with a7 0 (13 R455). -/
def execGcRunEndEcall (g : Nat) (s : State) : Out :=
  if !gcActs s g || gx s g 17 ≠ 0 then .next s
  else
    .next (updGc { s with run := { s.run with gcEnded := s.run.gcEnded.set g true } } g
      (fun c => { c with state := .halted }))

/-- The identity of n rows in FP32. -/
def identityBytes (n : Nat) : List Byte :=
  (List.range (n * n)).flatMap (fun i => leBytes 4 (if i / n = i % n then 0x3F800000 else 0))

/-- An inverse whose values are those of draw `d` (11 R409; log 15). -/
def inverseBytes (d n : Nat) : List Byte :=
  (List.range (n * n)).flatMap (fun i => leBytes 4 (Config.inverse d i).toNat)

/-- INVSPD, called by ECALL with a7 0x100: the inverse after `retries` damped retries, or the identity where the
third fails (11 R409, R411; 13 R455; log 15). -/
def execInvspd (g : Nat) (retries : Nat) (s : State) : Out :=
  if !gcActs s g || gx s g 17 ≠ 0x100 || 4 < retries then .next s
  else
    let a := (gx s g 10).toNat
    let n := (gx s g 11).toNat
    let len := 4 * n * n
    if n = 0 || 512 < n then .next (gcNext (putGx s g 10 (-1)) g)
    else if !gcReach s g a len false then .next (gcTrap s g 5)
    else if !gcReach s g a len true then .next (gcTrap s g 7)
    else
      let r := readMem s a len
      if r.fail.isSome then .next (gcTrap r.s g 5)
      else
        let d := draw r.s
        let w := writeMem d.1 a (if retries = 4 then identityBytes n else inverseBytes d.2 n)
        if !w.2 then .next (gcTrap w.1 g 5)
        else
          let s := if retries = 4 then
              raise (setBit (bump w.1 (regKey 10 0x628) 0 32 1) (regKey 10 0x620) 3) 0x0707 (g / 12) (8 * (g % 12)) none
            else w.1
          .next (gcNext (putGx s g 10 (BitVec.ofNat 64 retries)) g)

/-- GC_EXCEPTION: any other exception of the program, an ECALL that the ROM does not serve among them (06 R256;
13 R455). -/
def execGcException (g cause : Nat) (s : State) : Out :=
  if !gcActs s g || (cause = 8 && (gx s g 17 = 0 || gx s g 17 = 0x100)) then .next s
  else .next (gcTrap s g cause)

/-- An offset of a compute-die window at which a register stands. -/
def cdHas (o : Nat) : Bool :=
  [0, 0x10, 0x18, 0x20, 0x40, 0x48, 0x300, 0x308, 0x310, 0xA80, 0xA88, 0xA90, 0xB00, 0x2000, 0x2008].contains o
    || (0x100 ≤ o && o ≤ 0x130) || (0x200 ≤ o && o < 0x260) || (0x800 ≤ o && o < 0x860) || (0x900 ≤ o && o < 0xA80)
    || (0xB40 ≤ o && o < 0xBA0) || (0xC00 ≤ o && o < 0xF00) || (0x1000 ≤ o && o < 0x1300) || (0x2080 ≤ o && o ≤ 0x20A0)
    || (0x2400 ≤ o && o < 0x2480 && o % 64 < 0x28) || (0x2800 ≤ o && o < 0x2860)
    || (0x4000 ≤ o && o < 0x5800 && o % 32 < 0x18) || (0x6000 ≤ o && o < 0x6300) || (0x7000 ≤ o && o < 0x7300)
    || (0x8000 ≤ o && o < 0xB000) || (0x10000 ≤ o && o < 0x16000) || (0x18000 ≤ o && o < 0x1B000)
    || (0x1C000 ≤ o && o < 0x1D000)

/-- An offset of a hub-die window at which a register stands. -/
def hdHas (o : Nat) : Bool :=
  o = 0x40 || o = 0x48 || o = 0x400 || (0x2000 ≤ o && o ≤ 0x20A0) || (0x3000 ≤ o && o < 0x3200 && o % 64 < 0x38)

/-- An offset of the module-wide window at which a register stands. -/
def modHas (o : Nat) : Bool :=
  [0, 8, 0x10, 0x20, 0x28, 0x30, 0x38, 0x900, 0x908, 0x910, 0xA80, 0xA88, 0x82000].contains o
    || (0x400 ≤ o && o < 0x500) || (0x600 ≤ o && o ≤ 0x628) || (0x700 ≤ o && o ≤ 0x738) || (0x800 ≤ o && o ≤ 0x828)
    || (0xA00 ≤ o && o ≤ 0xA28) || (0x10000 ≤ o && o < 0x11000) || (0x20000 ≤ o && o < 0x24000)
    || (0x30000 ≤ o && o < 0x31000) || (0x40000 ≤ o && o < 0x40800) || (0x80000 ≤ o && o ≤ 0x80018)
    || (0x81000 ≤ o && o ≤ 0x81020) || (0x84000 ≤ o && o < 0x85000 && o % 64 < 0x20)
    || (0x100000 ≤ o && o < 0x140000 && o % 0x1000 ≤ 8) || (0x200000 ≤ o && o < 0x208100)

/-- A register stands at an offset of the register region; every other one is reserved (01 R40, R43). -/
def regHas (o : Nat) : Bool :=
  let w := o / 0x400000
  let x := o % 0x400000 / 8 * 8
  if w < 8 then cdHas x else if w < 10 then hdHas x else w = 10 && modHas x

/-- First address of the register region (01 R38). -/
def regSpan : Nat := 0x050000000000

/-- A general core may access a register (01 R40, R43; 13 R433; log 46). -/
def gcRegOk (s : State) (g a size : Nat) (write : Bool) : Bool :=
  pmpOk a size write 0 (gcOf s g).pmp && decide (regSpan ≤ a) && decide (a < regSpan + 0x4000000)
    && goodAccess (a - regSpan) size && regHas (a - regSpan)

/-- Sizes of an access by its kind: 1, 2, 4 or 8 bytes, 4 or 8 for a floating-point register, up to 256 for a
vector register (06 R255). -/
def gcSizeOk (op : GcOp) (size : Nat) : Bool :=
  match op with
  | .load _ _ | .store _ => [1, 2, 4, 8].contains size
  | .fload _ | .fstore _ => size = 4 || size = 8
  | .vload _ | .vstore _ => decide (1 ≤ size) && decide (size ≤ 256)

/-- A loaded value goes to its register: sign- or zero-extended, boxed in a floating-point register, or as bytes
(06 R255). -/
def gcLoaded (s : State) (g : Nat) (op : GcOp) (bs : List Byte) : State :=
  match op with
  | .load rd signed =>
    putGx s g rd (if signed then sx (8 * bs.length) (ofLe bs) else BitVec.ofNat 64 (ofLe bs))
  | .fload rd =>
    let v := ofLe bs
    updGc s g (fun c => { c with f := c.f.set rd (BitVec.ofNat 64 (if bs.length = 4 then v + 0xFFFFFFFF00000000 else v)) })
  | .vload vd => putV s g vd bs
  | _ => s

/-- The bytes that a store writes, or none for a load (06 R255). -/
def gcStored (s : State) (g : Nat) (op : GcOp) (size : Nat) : Option (List Byte) :=
  match op with
  | .store rs => some (leBytes size (gx s g rs).toNat)
  | .fstore rs => some (leBytes size ((gcOf s g).f.get 0 rs).toNat)
  | .vstore vs => some ((List.range size).map (fun i => (gcOf s g).v.get 0 (256 * vs + i)))
  | _ => none

/-- What an access of a general core meets: it is done, with the bytes that a read delivers; an exception; or a
stopped hop, behind which it waits. -/
inductive GcAcc where
  | done (s : State) (bs : List Byte)
  | trap (s : State) (cause : Nat)
  | wait
deriving DecidableEq, Repr

/-- A read of memory, with the exception of one that fails (07 R292; 09 R338). -/
def gcBytes (s : State) (g a size cause : Nat) : GcAcc :=
  if gcBlocked s g a then .wait
  else
    let m := murk s a size
    let r := readMem m.1 a size
    if r.fail.isSome then .trap r.s cause else .done r.s ((List.range size).map (fun i => stnByte m r (a + i)))

/-- A load by module address: a register or memory (01 R40, R43; 06 R255; 07 R262 to R265; log 46). -/
def gcLoad (s : State) (g a size : Nat) : GcAcc :=
  if gcRegOk s g a size false then
    let r := readReg s (a - regSpan) size
    .done r.1 (leBytes size r.2)
  else if !gcReach s g a size false then .trap s 5
  else gcBytes s g a size 5

/-- A store by module address (01 R40, R43; 06 R255; 07 R262 to R265; 09 R340; log 46). -/
def gcStore (s : State) (g a : Nat) (bs : List Byte) : GcAcc :=
  if gcRegOk s g a bs.length true then .done (writeReg s (a - regSpan) bs.length (ofLe bs)) []
  else if !gcReach s g a bs.length true then .trap s 7
  else if gcBlocked s g a then .wait
  else
    let w := writeMem s a bs
    if w.2 then .done w.1 [] else .trap w.1 5

/-- The state after an access, `f` what follows one that is done. -/
def gcAfter (s : State) (g : Nat) (o : GcAcc) (f : State → List Byte → State) : State :=
  match o with
  | .done t bs => f t bs
  | .trap t c => gcTrap t g c
  | .wait => s

/-- A load or store whose instruction has `len` bytes. -/
def gcLoadStore (s : State) (g : Nat) (op : GcOp) (a size len : Nat) : State :=
  match gcStored s g op size with
  | none => gcAfter s g (gcLoad s g a size) (fun t bs => gcPass (gcLoaded t g op bs) g len)
  | some bs => gcAfter s g (gcStore s g a bs) (fun t _ => gcPass t g len)

/-- A load or store of a general core by module address (01 R40, R43; 06 R255, R256; 07 R262 to R265; 09 R338,
R340; 17 R555; log 46). -/
def execGeneralCoreLoadStore (g : Nat) (op : GcOp) (a size : Nat) (s : State) : Out :=
  if !gcActs s g || !gcSizeOk op size then .next s else .next (gcLoadStore s g op a size 4)

end Sys2Proof.Machine
end

