-- ==== Sys2Proof/Machine/RvFloat.lean ====
section
/-! DEFINITION. IEEE 754 arithmetic of a general core: binary32 and binary64, the 5 rounding modes and the 5
exception flags of RISC-V (06 R255; log 67). A result is a code with its flags NX 1, UF 2, OF 4, DZ 8, NV 16. -/
namespace Sys2Proof.Machine
open Sys2Proof

/-- Exponent bits, mantissa bits and bias of the format of `n` bits, 32 or 64. -/
def fpOf (n : Nat) : Nat × Nat × Int := if n = 64 then (11, 52, 1023) else (8, 23, 127)

/-- The sign bit in place. -/
def fpSign (n : Nat) (neg : Bool) : Nat := if neg then 2 ^ (n - 1) else 0
/-- Infinity. -/
def fpInf (n : Nat) (neg : Bool) : Nat := fpSign n neg + (2 ^ (fpOf n).1 - 1) * 2 ^ (fpOf n).2.1
/-- The canonical NaN. -/
def fpNan (n : Nat) : Nat := fpInf n false + 2 ^ ((fpOf n).2.1 - 1)
/-- The largest finite value. -/
def fpMax (n : Nat) (neg : Bool) : Nat := fpInf n neg - 1

/-- The value of a code. -/
def fpNum (n c : Nat) : Num :=
  let p := fpOf n
  let neg := bitOf c (n - 1)
  if bits c (n - 2) p.2.1 = 2 ^ p.1 - 1 then (if c % 2 ^ p.2.1 = 0 then .inf neg else .nan neg)
  else decodeFloat p.1 p.2.1 p.2.2 c

/-- A signalling NaN. -/
def fpSnan (n c : Nat) : Bool := isNanNum (fpNum n c) && !bitOf c ((fpOf n).2.1 - 1)

/-- Invalid where an operand is a signalling NaN. -/
def snanFlag (n : Nat) (l : List Nat) : Nat := if l.any (fpSnan n) then 16 else 0

/-- Rounds m · 2^e to a multiple of 2^q by a mode (0 to 4 RNE, RTZ, RDN, RUP, RMM; 5 to odd): the quotient, and
whether it is inexact. -/
def roundRm (rm : Nat) (neg : Bool) (m : Nat) (e q : Int) : Nat × Bool :=
  if q ≤ e then (m * 2 ^ (e - q).toNat, false)
  else
    let h := 2 ^ (q - e).toNat
    let n := m / h
    let t := m % h
    let up : Bool := match rm with
      | 0 => decide (h < 2 * t) || (2 * t = h && n % 2 = 1)
      | 1 => false
      | 2 => neg && t ≠ 0
      | 3 => !neg && t ≠ 0
      | 4 => decide (h ≤ 2 * t)
      | _ => t ≠ 0 && n % 2 = 0
    (n + b2n up, t ≠ 0)

/-- A value rounded to a format; tininess is detected after rounding. -/
def fpRound (n rm : Nat) (x : Num) : Nat × Nat :=
  match x with
  | .nan _ => (fpNan n, 0)
  | .inf s => (fpInf n s, 0)
  | .fin s m e =>
    if m = 0 then (fpSign n s, 0)
    else
      let (eb, mb, b) := fpOf n
      let q := quantum mb b m e
      let r := roundRm rm s m e q
      let w := floorLog2 m e - mb
      let tiny := floorLog2 (roundRm rm s m e w).1 w < 1 - b
      if leMag r.1 q (2 ^ (mb + 1) - 1) (2 ^ eb - 2 - b - mb) then
        (encodeQ eb mb b s r.1 q, b2n r.2 + (if tiny && r.2 then 2 else 0))
      else
        (if rm = 1 || rm = 5 || (rm = 2 && !s) || (rm = 3 && s) then fpMax n s else fpInf n s, 5)

/-- An exact zero sum of operands of different signs is +0, and −0 when rounding down. -/
def zeroSum (rm : Nat) (x y z : Num) : Num :=
  if isZeroNum z && signNum x != signNum y then .fin (rm = 2) 0 0 else z

/-- x + y. -/
def fpAdd (n rm a b : Nat) : Nat × Nat :=
  let x := fpNum n a
  let y := fpNum n b
  match x, y with
  | .nan _, _ | _, .nan _ => (fpNan n, snanFlag n [a, b])
  | .inf s, .inf t => if s = t then (fpInf n s, 0) else (fpNan n, 16)
  | _, _ => fpRound n rm (zeroSum rm x y (addNum x y))

/-- The code with its sign reversed. -/
def fpNeg (n c : Nat) : Nat := c ^^^ 2 ^ (n - 1)

/-- x · y. -/
def fpMul (n rm a b : Nat) : Nat × Nat :=
  let x := fpNum n a
  let y := fpNum n b
  if isNanNum x || isNanNum y then (fpNan n, snanFlag n [a, b])
  else
    match mulNum x y with
    | .nan _ => (fpNan n, 16)
    | z => fpRound n rm z

/-- x / y. -/
def fpDiv (n rm a b : Nat) : Nat × Nat :=
  let x := fpNum n a
  let y := fpNum n b
  if isNanNum x || isNanNum y then (fpNan n, snanFlag n [a, b])
  else
    match divNum x y with
    | .nan _ => (fpNan n, 16)
    | .inf s => (fpInf n s, if isNonFin x then 0 else 8)
    | z => fpRound n rm z

/-- The square root. -/
def fpSqrt (n rm a : Nat) : Nat × Nat :=
  let x := fpNum n a
  if isNanNum x then (fpNan n, snanFlag n [a])
  else
    match sqrtNum x with
    | .nan _ => (fpNan n, 16)
    | z => fpRound n rm z

/-- (±x · y) ± z, rounded once. -/
def fpFma (n rm a b c : Nat) (negProd negAdd : Bool) : Nat × Nat :=
  let a' := if negProd then fpNeg n a else a
  let c' := if negAdd then fpNeg n c else c
  let x := fpNum n a'
  let y := fpNum n b
  let z := fpNum n c'
  let bad := snanFlag n [a, b, c]
  if isNanNum x || isNanNum y then (fpNan n, bad)
  else
    match mulNum x y, z with
    | .nan _, _ => (fpNan n, 16)
    | _, .nan _ => (fpNan n, bad)
    | .inf s, .inf t => if s = t then (fpInf n s, 0) else (fpNan n, 16)
    | p, _ => fpRound n rm (zeroSum rm p z (addNum p z))

/-- x below y, or equal where `eq`; −0 equals +0. -/
def fpLess (x y : Num) (eq : Bool) : Bool :=
  match addNum x (negNum y) with
  | .fin s m _ => if m = 0 then eq else s
  | .inf s => s
  | .nan _ => eq && signNum x = signNum y || (signNum x && !signNum y)

/-- The smaller or larger number; one NaN gives the other operand, and −0 is below +0. -/
def fpMinMax (n : Nat) (wantMax : Bool) (a b : Nat) : Nat × Nat :=
  let x := fpNum n a
  let y := fpNum n b
  let f := snanFlag n [a, b]
  if isNanNum x && isNanNum y then (fpNan n, f)
  else if isNanNum x then (b, f)
  else if isNanNum y then (a, f)
  else
    let below := fpLess x y false || (fpLess x y true && signNum x && !signNum y)
    (if below = wantMax then b else a, f)

/-- Sign injection: the magnitude of `a` with the sign of `b`, reversed, or combined. -/
def fpSgnj (n k a b : Nat) : Nat :=
  let s := bitOf b (n - 1)
  let t := match k with | 0 => s | 1 => !s | _ => s != bitOf a (n - 1)
  a % 2 ^ (n - 1) + fpSign n t

/-- Comparisons FLE 0, FLT 1, FEQ 2. -/
def fpCmp (n k a b : Nat) : Bool × Nat :=
  let x := fpNum n a
  let y := fpNum n b
  if isNanNum x || isNanNum y then (false, if k = 2 then snanFlag n [a, b] else 16)
  else
    match k with
    | 0 => (fpLess x y true, 0)
    | 1 => (fpLess x y false, 0)
    | _ => (fpLess x y true && fpLess y x true, 0)

/-- FCLASS. -/
def fpClass (n c : Nat) : Nat :=
  match fpNum n c with
  | .nan _ => if fpSnan n c then 2 ^ 8 else 2 ^ 9
  | .inf s => if s then 1 else 2 ^ 7
  | .fin s m _ =>
    if m = 0 then (if s then 2 ^ 3 else 2 ^ 4)
    else if bits c (n - 2) (fpOf n).2.1 = 0 then (if s then 2 ^ 2 else 2 ^ 5)
    else if s then 2 else 2 ^ 6

/-- A value to an integer of `k` bits, saturating; a NaN gives the largest. -/
def fpToInt (n rm c k : Nat) (signed : Bool) : Int × Nat :=
  let hi : Int := if signed then 2 ^ (k - 1) - 1 else 2 ^ k - 1
  let lo : Int := if signed then -2 ^ (k - 1) else 0
  match fpNum n c with
  | .nan _ => (hi, 16)
  | .inf s => (if s then lo else hi, 16)
  | .fin s m e =>
    let r := roundRm rm s m e 0
    let v : Int := if s then -r.1 else r.1
    if hi < v then (hi, 16) else if v < lo then (lo, 16) else (v, b2n r.2)

/-- An integer to a value. -/
def fpOfInt (n rm : Nat) (v : Int) : Nat × Nat := fpRound n rm (ofInt v)

/-- A code of `n` bits to a code of `k` bits. -/
def fpToFp (n k rm c : Nat) : Nat × Nat :=
  if isNanNum (fpNum n c) then (fpNan k, snanFlag n [c]) else fpRound k rm (fpNum n c)

/-- A code as its sign, and its magnitude with the leading 1 in bit `mb`, and the biased exponent, at most 0 for a
subnormal one. -/
def fpParts (n c : Nat) : Bool × Nat × Int :=
  let (_, mb, _) := fpOf n
  let ex := bits c (n - 2) mb
  let m := c % 2 ^ mb
  if ex = 0 then (bitOf c (n - 1), m * 2 ^ (mb - Nat.log2 m), (Nat.log2 m : Int) - mb + 1)
  else (bitOf c (n - 1), 2 ^ mb + m, ex)

/-- The 7-bit estimate of 1 / x. -/
def fpRec7 (n rm c : Nat) : Nat × Nat :=
  let (eb, mb, _) := fpOf n
  match fpNum n c with
  | .nan _ => (fpNan n, snanFlag n [c])
  | .inf s => (fpSign n s, 0)
  | .fin s m _ =>
    if m = 0 then (fpInf n s, 8)
    else
      let (_, f, ex) := fpParts n c
      let o : Int := 2 * (2 ^ (eb - 1) - 1) - 1 - ex
      if ex < -1 then
        (if rm = 1 || (rm = 2 && !s) || (rm = 3 && s) then fpMax n s else fpInf n s, 5)
      else
        let d := 257 + 2 * bits f (mb - 1) (mb - 7)
        let y := (65536 * 2 + d) / (2 * d) - 128
        let sig := (128 + y) * 2 ^ (mb - 7)
        if o ≤ 0 then (fpSign n s + sig / 2 ^ (1 - o).toNat, 0)
        else (fpSign n s + o.toNat * 2 ^ mb + y * 2 ^ (mb - 7), 0)

/-- The 7-bit estimate of 1 / √x. -/
def fpRsqrt7 (n c : Nat) : Nat × Nat :=
  let (eb, mb, _) := fpOf n
  match fpNum n c with
  | .nan _ => (fpNan n, snanFlag n [c])
  | .inf s => if s then (fpNan n, 16) else (0, 0)
  | .fin s m _ =>
    if m = 0 then (fpInf n s, 8)
    else if s then (fpNan n, 16)
    else
      let (_, f, ex) := fpParts n c
      let d := (if ex % 2 = 0 then 2 else 1) * (129 + 2 * bits f (mb - 1) (mb - 6))
      let y := (isqrtBits (4 * 65536 * 128 / d) 20 0 + 1) / 2 - 128
      let o : Int := (3 * (2 ^ (eb - 1) - 1) - 1 - ex) / 2
      (o.toNat * 2 ^ mb + y * 2 ^ (mb - 7), 0)

end Sys2Proof.Machine
end

