-- ==== Sys2Proof/Machine/RvVector.lean ====
section
/-! DEFINITION. The vector arithmetic of a general core: V extension 1.0 with VLEN 2048 and ELEN 64 (06 R255; log 67).
Every instruction is a function of the core's registers; none is a reserved encoding. -/
namespace Sys2Proof.Machine
open Sys2Proof

/-- Element width in bits that vtype selects. -/
def vsew (c : Gc) : Nat := 8 * 2 ^ bits c.vtype 5 3
/-- LMUL in eighths. -/
def lmul8 (t : Nat) : Nat := match bits t 2 0 with
  | 0 => 8 | 1 => 16 | 2 => 32 | 3 => 64 | 5 => 1 | 6 => 2 | 7 => 4 | _ => 0
/-- LMUL in eighths that vtype selects. -/
def vlmul (c : Gc) : Nat := lmul8 c.vtype
/-- Elements of `n` bits in a group of `l` eighths. -/
def vlMax (n l : Nat) : Nat := 256 * l / n
/-- vtype is unsupported. -/
def vill (c : Gc) : Bool := bitOf c.vtype 63

/-- Element `i` of `n` bits of the group that begins at register `r`. -/
def vGet (c : Gc) (r n i : Nat) : Nat := ofLe ((List.range (n / 8)).map (fun j => c.v.get 0 (256 * r + n / 8 * i + j)))
/-- Bit `i` of a mask register. -/
def vBit (c : Gc) (r i : Nat) : Bool := bitOf (c.v.get 0 (256 * r + i / 8)).toNat (i % 8)

/-- Element `i` of a group changed. -/
def vSet (v : Table Byte) (r n i x : Nat) : Table Byte :=
  ((List.range (n / 8)).zip (leBytes (n / 8) x)).foldl (fun t e => t.set (256 * r + n / 8 * i + e.1) e.2) v
/-- Bit `i` of a mask register changed. -/
def vSetBit (v : Table Byte) (r i : Nat) (b : Bool) : Table Byte :=
  v.upd 0 (256 * r + i / 8) (fun x => BitVec.ofNat 8 (setBits x.toNat (i % 8) (i % 8) (b2n b)))

/-- The body elements that a mask leaves active. -/
def vActive (c : Gc) (vm : Bool) : List Nat :=
  (List.range c.vl).filter (fun i => decide (c.vstart ≤ i) && (vm || vBit c 0 i))

/-- A group written: `f` gives an element and its flags, which are collected. Tail and masked-off elements stay, or
where their policy is agnostic are all ones as `ag` chooses. -/
def vWrite (c : Gc) (ag : Nat → Bool) (vm : Bool) (r n l : Nat) (f : Nat → Nat × Nat) : Gc × Nat :=
  if c.vl ≤ c.vstart then ({ c with vstart := 0 }, 0)
  else
    let act := vActive c vm
    let off := (List.range (max (vlMax n l) (2048 / n))).filter (fun i => decide (c.vstart ≤ i)
      && (if c.vl ≤ i then bitOf c.vtype 6 else bitOf c.vtype 7 && !(vm || vBit c 0 i)) && ag i)
    let rs := act.map (fun i => (i, f i))
    let v := rs.foldl (fun v e => vSet v r n e.1 e.2.1) c.v
    ({ c with v := off.foldl (fun v i => vSet v r n i (2 ^ n - 1)) v, vstart := 0 }, rs.foldl (fun x e => x ||| e.2.2) 0)

/-- A mask register written; its tail is always agnostic. -/
def vWriteMask (c : Gc) (ag : Nat → Bool) (vm : Bool) (r : Nat) (f : Nat → Bool × Nat) : Gc × Nat :=
  if c.vl ≤ c.vstart then ({ c with vstart := 0 }, 0)
  else
    let act := vActive c vm
    let off := (List.range c.vl).filter (fun i => decide (c.vstart ≤ i) && bitOf c.vtype 7 && !(vm || vBit c 0 i) && ag i)
    let tail := ((List.range (2048 - c.vl)).map (· + c.vl))
    let rs := act.map (fun i => (i, f i))
    let v := rs.foldl (fun v e => vSetBit v r e.1 e.2.1) c.v
    let v := off.foldl (fun v i => vSetBit v r i true) v
    ({ c with v := tail.foldl (fun v i => vSetBit v r i (ag i)) v, vstart := 0 }, rs.foldl (fun x e => x ||| e.2.2) 0)

/-- Element 0 of a register written, the others being its tail. -/
def vWrite0 (c : Gc) (ag : Nat → Bool) (r n x : Nat) : Gc :=
  if c.vl ≤ c.vstart then { c with vstart := 0 }
  else
    let v := vSet c.v r n 0 x
    let v := ((List.range (2048 / n)).filter (fun i => decide (0 < i) && bitOf c.vtype 6 && ag i)).foldl
      (fun v i => vSet v r n i (2 ^ n - 1)) v
    { c with v := v, vstart := 0 }

/-- The fields of a vector arithmetic instruction. -/
structure VIns where
  f6 : Nat
  vm : Bool
  vs2 : Nat
  vs1 : Nat
  f3 : Nat
  vd : Nat
deriving DecidableEq, Repr

/-- The fields of an OP-V word. -/
def vIns (w : Nat) : VIns :=
  { f6 := bits w 31 26, vm := bitOf w 25, vs2 := rvR2 w, vs1 := rvR1 w, f3 := rvF3 w, vd := rvRd w }

/-- Registers of a group of `l` eighths. -/
def regsOf (l : Nat) : Nat := max 1 (l / 8)
/-- A group: its EMUL is supported and its first register a multiple of it. -/
def grpOk (r n l : Nat) : Bool := decide (1 ≤ l) && decide (l ≤ 64) && decide (n ≤ 64) && r % regsOf l = 0
/-- Two groups share no register. -/
def apart (r l q k : Nat) : Bool := decide (r + regsOf l ≤ q) || decide (q + regsOf k ≤ r)
/-- A destination group of `n` bits may overlap a source group of `m` bits. -/
def mayOverlap (r n l q m k : Nat) : Bool :=
  apart r l q k || n = m || (decide (n < m) && r = q) || (decide (m < n) && decide (8 ≤ k) && q + regsOf k = r + regsOf l)

/-- The operand in field vs1 is a vector. -/
def VIns.isV (i : VIns) : Bool := decide (i.f3 ≤ 2)

/-- The registers of an instruction are allowed: destination, vs2 and vs1 by element width and EMUL. -/
def vOk (i : VIns) (n l n2 l2 n1 l1 : Nat) : Bool :=
  grpOk i.vd n l && grpOk i.vs2 n2 l2 && mayOverlap i.vd n l i.vs2 n2 l2 && (i.vm || i.vd ≠ 0)
    && (!i.isV || (grpOk i.vs1 n1 l1 && mayOverlap i.vd n l i.vs1 n1 l1))

/-- The same for a mask destination. -/
def vOkMask (i : VIns) (n l : Nat) : Bool :=
  grpOk i.vs2 n l && mayOverlap i.vd 1 8 i.vs2 n l && (!i.isV || (grpOk i.vs1 n l && mayOverlap i.vd 1 8 i.vs1 n l))

/-- Integer register `r` of a core. -/
def xOf (c : Gc) (r : Nat) : W64 := if r = 0 then 0 else c.x.get 0 r
/-- A core with an integer register written. -/
def setX (c : Gc) (r : Nat) (v : W64) : Gc := if r = 0 then c else { c with x := c.x.set r v }
/-- Floating-point register `r` as a code of `n` bits; a single that is not boxed is a NaN. -/
def fOf (c : Gc) (n r : Nat) : Nat :=
  let v := (c.f.get 0 r).toNat
  if n = 64 then v else if v / 2 ^ 32 = 2 ^ 32 - 1 then v % 2 ^ 32 else fpNan 32
/-- A core with a floating-point register written, a single boxed. -/
def setF (c : Gc) (n r v : Nat) : Gc :=
  { c with f := c.f.set r (BitVec.ofNat 64 (if n = 64 then v else (2 ^ 32 - 1) * 2 ^ 32 + v)) }
/-- Floating-point exception flags are accrued. -/
def accrue (c : Gc) (fl : Nat) : Gc := { c with fcsr := c.fcsr ||| fl }
/-- The saturation flag is accrued. -/
def accrueSat (c : Gc) (fl : Nat) : Gc := { c with vcsr := c.vcsr ||| fl }

/-- The first source operand of element `k`: an element, a scalar, or an immediate, unsigned where `zext`. -/
def vSrc (c : Gc) (i : VIns) (n : Nat) (zext : Bool) (k : Nat) : Nat :=
  match i.f3 with
  | 3 => if zext then i.vs1 else (sx 5 i.vs1).toNat % 2 ^ n
  | 4 | 6 => (xOf c i.vs1).toNat % 2 ^ n
  | 5 => fOf c n i.vs1
  | _ => vGet c i.vs1 n k

/-- A value of `n` bits as signed. -/
def sgn (n x : Nat) : Int := (BitVec.ofNat n x).toInt
/-- An integer in `n` bits. -/
def wrap (n : Nat) (x : Int) : Nat := (BitVec.ofInt n x).toNat
/-- An integer brought into a range, and whether it lay outside. -/
def clampInt (lo hi x : Int) : Int × Nat := if x < lo then (lo, 1) else if hi < x then (hi, 1) else (x, 0)
/-- Saturation to `n` unsigned or signed bits. -/
def satU (n : Nat) (x : Int) : Nat × Nat := let r := clampInt 0 (2 ^ n - 1) x; (r.1.toNat, r.2)
/-- Saturation to `n` signed bits. -/
def satS (n : Nat) (x : Int) : Nat × Nat := let r := clampInt (-2 ^ (n - 1)) (2 ^ (n - 1) - 1) x; (wrap n r.1, r.2)

/-- A shift right by `d` with the rounding of vxrm: 0 to nearest up, 1 to nearest even, 2 down, 3 to odd. -/
def roundOff (rm d : Nat) (x : Int) : Int :=
  let h : Int := 2 ^ d
  let q := x.fdiv h
  let t := x.fmod h
  let up : Bool := match rm with
    | 0 => t ≠ 0 && decide (h ≤ 2 * t)
    | 1 => decide (h < 2 * t) || (2 * t = h && q % 2 = 1)
    | 2 => false
    | _ => t ≠ 0 && q % 2 = 0
  q + b2n up

/-- OPI operations of one width, from vs2 element `a` and operand `b`: result and saturation. -/
def vIntOp (rm n f6 a b : Nat) : Nat × Nat :=
  let w (x : Int) : Nat × Nat := (wrap n x, 0)
  let sa := sgn n a
  let sb := sgn n b
  let sh := b % n
  match f6 with
  | 0x00 => w (a + b)
  | 0x02 => w (a - b)
  | 0x03 => w (b - a)
  | 0x04 => (min a b, 0)
  | 0x05 => w (min sa sb)
  | 0x06 => (max a b, 0)
  | 0x07 => w (max sa sb)
  | 0x09 => (a &&& b, 0)
  | 0x0A => (a ||| b, 0)
  | 0x0B => (a ^^^ b, 0)
  | 0x20 => satU n (a + b)
  | 0x21 => satS n (sa + sb)
  | 0x22 => satU n (a - b)
  | 0x23 => satS n (sa - sb)
  | 0x25 => w (a * 2 ^ sh : Nat)
  | 0x27 => satS n (roundOff rm (n - 1) (sa * sb))
  | 0x28 => (a / 2 ^ sh, 0)
  | 0x29 => w (sa.fdiv (2 ^ sh))
  | 0x2A => w (roundOff rm sh a)
  | _ => w (roundOff rm sh sa)

/-- Comparisons. -/
def vCompare (n f6 a b : Nat) : Bool :=
  match f6 with
  | 0x18 => a = b
  | 0x19 => a ≠ b
  | 0x1A => a < b
  | 0x1B => sgn n a < sgn n b
  | 0x1C => a ≤ b
  | 0x1D => sgn n a ≤ sgn n b
  | 0x1E => b < a
  | _ => sgn n b < sgn n a

/-- OPM operations of one width, `o` the old element of the destination. -/
def vMulOp (rm n f6 a b o : Nat) : Nat :=
  let d (k : Nat) : Nat := wrap n (mulDiv n k (sgn n a) (sgn n b) a b)
  match f6 with
  | 0x08 => wrap n (roundOff rm 1 (a + b))
  | 0x09 => wrap n (roundOff rm 1 (sgn n a + sgn n b))
  | 0x0A => wrap n (roundOff rm 1 (a - b))
  | 0x0B => wrap n (roundOff rm 1 (sgn n a - sgn n b))
  | 0x20 => d 5
  | 0x21 => d 4
  | 0x22 => d 7
  | 0x23 => d 6
  | 0x24 => d 3
  | 0x25 => d 0
  | 0x26 => d 2
  | 0x27 => d 1
  | 0x29 => wrap n (b * o + a)
  | 0x2B => wrap n (a - b * o)
  | 0x2D => wrap n (b * a + o)
  | _ => wrap n (o - b * a)

/-- Widening operations to `2n` bits; `a` has `2n` bits where f6 is 0x34 to 0x37. -/
def vWideOp (n f6 a b o : Nat) : Nat :=
  let sa := sgn n a
  let sb := sgn n b
  let w (x : Int) : Nat := wrap (2 * n) x
  match f6 with
  | 0x30 | 0x34 => w (a + b)
  | 0x31 => w (sa + sb)
  | 0x32 | 0x36 => w (a - b)
  | 0x33 => w (sa - sb)
  | 0x35 => w (a + sb)
  | 0x37 => w (a - sb)
  | 0x38 => w (a * b)
  | 0x3A => w (sa * b)
  | 0x3B => w (sa * sb)
  | 0x3C => w (a * b + o)
  | 0x3D => w (sa * sb + o)
  | 0x3E => w (sa * b + o)
  | _ => w (a * sb + o)

/-- Narrowing shifts and clips of an element of `2n` bits. -/
def vNarrowOp (rm n f6 a b : Nat) : Nat × Nat :=
  let sh := b % (2 * n)
  match f6 with
  | 0x2C => (a / 2 ^ sh % 2 ^ n, 0)
  | 0x2D => (wrap n ((sgn (2 * n) a).fdiv (2 ^ sh)), 0)
  | 0x2E => satU n (roundOff rm sh a)
  | _ => satS n (roundOff rm sh (sgn (2 * n) a))

/-- Single-width reduction steps. -/
def vRedOp (n f6 a b : Nat) : Nat :=
  match f6 with
  | 0 => (a + b) % 2 ^ n
  | 1 => a &&& b
  | 2 => a ||| b
  | 3 => a ^^^ b
  | 4 => min a b
  | 5 => wrap n (min (sgn n a) (sgn n b))
  | 6 => max a b
  | _ => wrap n (max (sgn n a) (sgn n b))

/-- Mask-register logic, from the bits of vs2 and vs1. -/
def vMaskOp (f6 : Nat) (a b : Bool) : Bool :=
  match f6 with
  | 0x18 => a && !b
  | 0x19 => a && b
  | 0x1A => a || b
  | 0x1B => a != b
  | 0x1C => a || !b
  | 0x1D => !(a && b)
  | 0x1E => !(a || b)
  | _ => a == b

/-- The forms of OPI operations: 1 vector, 2 scalar, 4 immediate. -/
def opiForms (f6 : Nat) : Nat :=
  if [0x00, 0x09, 0x0A, 0x0B, 0x0C, 0x0E, 0x10, 0x11, 0x17, 0x18, 0x19, 0x1C, 0x1D, 0x20, 0x21, 0x25, 0x27, 0x28, 0x29
    , 0x2A, 0x2B, 0x2C, 0x2D, 0x2E, 0x2F].contains f6 then 7
  else if [0x02, 0x04, 0x05, 0x06, 0x07, 0x12, 0x13, 0x1A, 0x1B, 0x22, 0x23].contains f6 then 3
  else if [0x03, 0x0F, 0x1E, 0x1F].contains f6 then 6
  else if f6 = 0x30 || f6 = 0x31 then 1
  else 0

/-- The forms of OPM operations. -/
def opmForms (f6 : Nat) : Nat :=
  if f6 ≤ 7 || [0x12, 0x14, 0x17].contains f6 || (0x18 ≤ f6 && f6 ≤ 0x1F) then 1
  else if f6 = 0x0E || f6 = 0x0F || f6 = 0x3E then 2
  else if (0x08 ≤ f6 && f6 ≤ 0x0B) || f6 = 0x10 || (0x20 ≤ f6 && f6 ≤ 0x27) || [0x29, 0x2B, 0x2D, 0x2F].contains f6
      || (0x30 ≤ f6 && f6 ≤ 0x38) || (0x3A ≤ f6 && f6 ≤ 0x3D) || f6 = 0x3F then 3
  else 0

/-- The forms of OPF operations. -/
def opfForms (f6 : Nat) : Nat :=
  if [0x01, 0x03, 0x05, 0x07, 0x12, 0x13, 0x31, 0x33].contains f6 then 1
  else if [0x0E, 0x0F, 0x17, 0x1D, 0x1F, 0x21, 0x27].contains f6 then 2
  else if [0x00, 0x02, 0x04, 0x06, 0x08, 0x09, 0x0A, 0x10, 0x18, 0x19, 0x1B, 0x1C, 0x20, 0x24, 0x30, 0x32, 0x34, 0x36
    , 0x38].contains f6 || (0x28 ≤ f6 && f6 ≤ 0x2F) || (0x3C ≤ f6 && f6 ≤ 0x3F) then 3
  else 0

/-- The form of an instruction among those bits. -/
def formBit (f3 : Nat) : Nat := if f3 ≤ 2 then 0 else if f3 = 3 then 2 else 1

/-- Reserved encodings and register choices are illegal. -/
def vIf (ok : Bool) (r : Gc) : Option Gc := if ok then some r else none

/-- The sums of a reduction in element order. -/
def vFold (c : Gc) (i : VIns) (n : Nat) (z : Nat × Nat) (f : Nat → Nat → Nat × Nat) : Nat × Nat :=
  (vActive c i.vm).foldl (fun z k => let r := f z.1 (vGet c i.vs2 n k); (r.1, z.2 ||| r.2)) z

/-- Gathers and slides: the element of vs2 that goes to `k`, none for 0 or `keep` for the old one. -/
inductive VFrom where
  | el (i : Nat) | zero | keep | val (x : Nat)
deriving DecidableEq, Repr

/-- A permutation written. -/
def vPermute (c : Gc) (ag : Nat → Bool) (i : VIns) (n l : Nat) (f : Nat → VFrom) : Gc :=
  (vWrite c ag i.vm i.vd n l (fun k =>
    (match f k with
     | .el j => vGet c i.vs2 n j
     | .zero => 0
     | .keep => vGet c i.vd n k
     | .val x => x, 0))).1

/-- vs2 gives nothing past VLMAX. -/
def upTo (n l j : Nat) : VFrom := if j < vlMax n l then .el j else .zero

/-- OPIVV, OPIVX, OPIVI. -/
def vecInt (c : Gc) (ag : Nat → Bool) (i : VIns) : Option Gc :=
  let n := vsew c
  let l := vlmul c
  let rm := bits c.vcsr 2 1
  let same := vOk i n l n l n l
  let far := apart i.vd l i.vs2 l
  let b := vSrc c i n
  let a (k : Nat) : Nat := vGet c i.vs2 n k
  let carry (k : Nat) : Nat := b2n (!i.vm && vBit c 0 k)
  let off : Nat := if i.f3 = 3 then i.vs1 else (xOf c i.vs1).toNat
  let sat (r : Gc × Nat) : Gc := accrueSat r.1 r.2
  if !bitOf (opiForms i.f6) (formBit i.f3) then none
  else
    match i.f6 with
    | 0x0C =>
      vIf (same && far && (!i.isV || apart i.vd l i.vs1 l)) (vPermute c ag i n l (fun k =>
        upTo n l (if i.isV then vGet c i.vs1 n k else off)))
    | 0x0E =>
      if i.isV then
        let l1 := 16 * l / n
        vIf (grpOk i.vd n l && grpOk i.vs2 n l && grpOk i.vs1 16 l1 && decide (n ≤ 16 * l) && far && apart i.vd l i.vs1 l1
            && (i.vm || i.vd ≠ 0))
          (vPermute c ag i n l (fun k => upTo n l (vGet c i.vs1 16 k)))
      else vIf (same && far) (vPermute c ag i n l (fun k => if k < off then .keep else .el (k - off)))
    | 0x0F => vIf same (vPermute c ag i n l (fun k => upTo n l (k + off)))
    | 0x10 => vIf (same && !i.vm) (vWrite c ag true i.vd n l (fun k => (wrap n (a k + b false k + carry k), 0))).1
    | 0x12 => vIf (same && !i.vm) (vWrite c ag true i.vd n l (fun k => (wrap n (a k - b false k - carry k), 0))).1
    | 0x11 => vIf (vOkMask i n l) (vWriteMask c ag true i.vd (fun k => (2 ^ n ≤ a k + b false k + carry k, 0))).1
    | 0x13 => vIf (vOkMask i n l) (vWriteMask c ag true i.vd (fun k => (a k < b false k + carry k, 0))).1
    | 0x17 =>
      vIf (same && (!i.vm || i.vs2 = 0))
        (vWrite c ag true i.vd n l (fun k => (if i.vm || vBit c 0 k then b false k else a k, 0))).1
    | 0x27 =>
      if i.f3 = 3 then
        let k := i.vs1 + 1
        let from' := 256 * i.vd + c.vstart * n / 8
        vIf ([1, 2, 4, 8].contains k && i.vm && i.vd % k = 0 && i.vs2 % k = 0)
          { c with
            v := ((List.range (256 * k)).filter (fun j => decide (from' ≤ 256 * i.vd + j))).foldl
              (fun v j => v.set (256 * i.vd + j) (c.v.get 0 (256 * i.vs2 + j))) c.v
            vstart := 0 }
      else vIf same (sat (vWrite c ag i.vm i.vd n l (fun k => vIntOp rm n 0x27 (a k) (b false k))))
    | 0x18 | 0x19 | 0x1A | 0x1B | 0x1C | 0x1D | 0x1E | 0x1F =>
      vIf (vOkMask i n l) (vWriteMask c ag i.vm i.vd (fun k => (vCompare n i.f6 (a k) (b false k), 0))).1
    | 0x2C | 0x2D | 0x2E | 0x2F =>
      vIf (vOk i n l (2 * n) (2 * l) n l)
        (sat (vWrite c ag i.vm i.vd n l (fun k => vNarrowOp rm n i.f6 (vGet c i.vs2 (2 * n) k) (b true k))))
    | 0x30 | 0x31 =>
      let e (k : Nat) : Nat := if i.f6 = 0x30 then k else wrap (2 * n) (sgn n k)
      vIf (grpOk i.vs2 n l && decide (n ≤ 32) && c.vstart = 0)
        (vWrite0 c ag i.vd (2 * n) (vFold c i n (vGet c i.vs1 (2 * n) 0, 0) (fun z x => ((z + e x) % 2 ^ (2 * n), 0))).1)
    | f => vIf same (sat (vWrite c ag i.vm i.vd n l (fun k => vIntOp rm n f (a k) (b (decide (0x25 ≤ f)) k))))

/-- The active bits of vs2 as a list of their places. -/
def maskOnes (c : Gc) (i : VIns) : List Nat := (vActive c i.vm).filter (vBit c i.vs2)

/-- The integer unary operations of OPMVV: 0x10 to x, 0x12 extensions, 0x14 mask operations. -/
def vecUnary (c : Gc) (ag : Nat → Bool) (i : VIns) : Option Gc :=
  let n := vsew c
  let l := vlmul c
  let ones := maskOnes c i
  let first : Nat := ones.headD c.vl
  let clean := c.vstart = 0
  match i.f6, i.vs1 with
  | 0x10, 0 => vIf i.vm { setX c i.vd (sx n (vGet c i.vs2 n 0)) with vstart := 0 }
  | 0x10, 0x10 => vIf clean (setX c i.vd (BitVec.ofNat 64 ones.length))
  | 0x10, 0x11 => vIf clean (setX c i.vd (match ones with | [] => -1 | k :: _ => BitVec.ofNat 64 k))
  | 0x12, k =>
    let d := 2 ^ (4 - k / 2)
    let m := n / d
    vIf (decide (2 ≤ k) && decide (k ≤ 7) && decide (8 * d ≤ n) && decide (d ≤ l) && grpOk i.vd n l
        && grpOk i.vs2 m (l / d) && mayOverlap i.vd n l i.vs2 m (l / d) && (i.vm || i.vd ≠ 0))
      (vWrite c ag i.vm i.vd n l (fun j =>
        (if k % 2 = 1 then wrap n (sgn m (vGet c i.vs2 m j)) else vGet c i.vs2 m j, 0))).1
  | 0x14, 0x10 =>
    vIf (clean && grpOk i.vd n l && apart i.vd l i.vs2 8 && (i.vm || i.vd ≠ 0))
      (vWrite c ag i.vm i.vd n l (fun k => ((ones.filter (· < k)).length % 2 ^ n, 0))).1
  | 0x14, 0x11 =>
    vIf (grpOk i.vd n l && i.vs2 = 0 && (i.vm || i.vd ≠ 0)) (vWrite c ag i.vm i.vd n l (fun k => (k % 2 ^ n, 0))).1
  | 0x14, k =>
    vIf (clean && decide (1 ≤ k) && decide (k ≤ 3) && i.vd ≠ i.vs2 && (i.vm || i.vd ≠ 0))
      (vWriteMask c ag i.vm i.vd (fun j =>
        ((match k with | 1 => decide (j < first) | 2 => decide (j = first) | _ => decide (j ≤ first)), 0))).1
  | _, _ => none

/-- OPMVV, OPMVX. -/
def vecMul (c : Gc) (ag : Nat → Bool) (i : VIns) : Option Gc :=
  let n := vsew c
  let l := vlmul c
  let rm := bits c.vcsr 2 1
  let same := vOk i n l n l n l
  let clean := c.vstart = 0
  let a (k : Nat) : Nat := vGet c i.vs2 n k
  let b := vSrc c i n false
  let last := c.vl - 1
  if !bitOf (opmForms i.f6) (formBit i.f3) then none
  else if i.isV && (i.f6 = 0x10 || i.f6 = 0x12 || i.f6 = 0x14) then vecUnary c ag i
  else if i.f6 ≤ 7 then
    vIf (grpOk i.vs2 n l && clean)
      (vWrite0 c ag i.vd n (vFold c i n (vGet c i.vs1 n 0, 0) (fun z x => (vRedOp n i.f6 z x, 0))).1)
  else if 0x18 ≤ i.f6 && i.f6 ≤ 0x1F then
    vIf i.vm (vWriteMask c ag true i.vd (fun k => (vMaskOp i.f6 (vBit c i.vs2 k) (vBit c i.vs1 k), 0))).1
  else if 0x30 ≤ i.f6 then
    let wide2 := 0x34 ≤ i.f6 && i.f6 ≤ 0x37
    let n2 := if wide2 then 2 * n else n
    vIf (vOk i (2 * n) (2 * l) n2 (if wide2 then 2 * l else l) n l)
      (vWrite c ag i.vm i.vd (2 * n) (2 * l) (fun k =>
        (vWideOp n i.f6 (vGet c i.vs2 n2 k) (b k) (vGet c i.vd (2 * n) k), 0))).1
  else
    match i.f6 with
    | 0x0E =>
      vIf (same && apart i.vd l i.vs2 l) (vPermute c ag i n l (fun k => if k = 0 then .val (b 0) else .el (k - 1)))
    | 0x0F => vIf same (vPermute c ag i n l (fun k => if k = last then .val (b 0) else upTo n l (k + 1)))
    | 0x10 => vIf (i.vm && i.vs2 = 0) (vWrite0 c ag i.vd n (b 0))
    | 0x17 =>
      let from' := (List.range c.vl).filter (vBit c i.vs1)
      vIf (same && i.vm && clean && apart i.vd l i.vs2 l && apart i.vd l i.vs1 8)
        (if c.vl = 0 then c else
          { (vWrite { c with vl := from'.length } ag true i.vd n l (fun k => (a (from'.getD k 0), 0))).1 with vl := c.vl })
    | f => vIf same (vWrite c ag i.vm i.vd n l (fun k => (vMulOp rm n f (a k) (b k) (vGet c i.vd n k), 0))).1

/-- A floating-point unary operation of VFUNARY1. -/
def vFpUnary (n rm k x : Nat) : Nat × Nat :=
  match k with
  | 0 => fpSqrt n rm x
  | 4 => fpRsqrt7 n x
  | 5 => fpRec7 n rm x
  | _ => (fpClass n x, 0)

/-- Binary floating-point operations, from vs2 element `a` and operand `b`. -/
def vFpOp (n rm f6 a b : Nat) : Nat × Nat :=
  match f6 with
  | 0x00 => fpAdd n rm a b
  | 0x02 => fpAdd n rm a (fpNeg n b)
  | 0x04 => fpMinMax n false a b
  | 0x06 => fpMinMax n true a b
  | 0x08 => (fpSgnj n 0 a b, 0)
  | 0x09 => (fpSgnj n 1 a b, 0)
  | 0x0A => (fpSgnj n 2 a b, 0)
  | 0x20 => fpDiv n rm a b
  | 0x21 => fpDiv n rm b a
  | 0x24 => fpMul n rm a b
  | _ => fpAdd n rm b (fpNeg n a)

/-- Fused operations 0x28 to 0x2F and, widening, 0x3C to 0x3F, `o` the old element of the destination. -/
def vFmaOp (n rm f6 a b o : Nat) : Nat × Nat :=
  let neg := f6 % 2 = 1
  let sub := f6 % 4 = 1 || f6 % 4 = 2
  if f6 < 0x2C then fpFma n rm b o a neg sub else fpFma n rm b a o neg sub

/-- Floating-point comparisons, from vs2 element `a` and operand `b`. -/
def vFpCompare (n f6 a b : Nat) : Bool × Nat :=
  match f6 with
  | 0x18 => fpCmp n 2 a b
  | 0x19 => fpCmp n 0 a b
  | 0x1B => fpCmp n 1 a b
  | 0x1C => (!(fpCmp n 2 a b).1, (fpCmp n 2 a b).2)
  | 0x1D => fpCmp n 1 b a
  | _ => fpCmp n 0 b a

/-- A sum of values in an order that free choices make: any tree of additions (vfredusum). -/
def treeSum (n rm d : Nat) : Nat → List Nat → Nat × Nat
  | _, [] => (0, 0)
  | 0, x :: t => t.foldl (fun z x => let r := fpAdd n rm z.1 x; (r.1, z.2 ||| r.2)) (x, 0)
  | _ + 1, [x] => (x, 0)
  | k + 1, l =>
    let side (b : Bool) : List Nat :=
      ((List.range l.length).zip l |>.filter (fun e => bitOf (Config.freeByte d (4096 * k + e.1)).toNat 0 = b)).map (·.2)
    let p := treeSum n rm d k (side false)
    let q := treeSum n rm d k (side true)
    if side false = [] then q else if side true = [] then p
    else
      let r := fpAdd n rm p.1 q.1
      (r.1, p.2 ||| q.2 ||| r.2)

/-- A conversion of VFUNARY0: from `m` to `n` bits. -/
def vFpConvert (n m rm k x : Nat) : Nat × Nat :=
  let int (rm : Nat) (signed : Bool) : Nat × Nat := let r := fpToInt m rm x n signed; (wrap n r.1, r.2)
  match k % 8 with
  | 0 => int rm false
  | 1 => int rm true
  | 2 => fpOfInt n rm x
  | 3 => fpOfInt n rm (sgn m x)
  | 4 => fpToFp m n rm x
  | 5 => fpToFp m n 5 x
  | 6 => int 1 false
  | _ => int 1 true

/-- The widths that a conversion of VFUNARY0 takes: its source, with EEW and EMUL, and its destination; none for a
reserved one. -/
def convWidths (n l k : Nat) : Option (Nat × Nat × Nat × Nat) :=
  let fp (x : Nat) : Bool := x = 32 || x = 64
  let ofInt := k % 8 = 2 || k % 8 = 3
  if k < 8 then (if fp n && k ≠ 4 && k ≠ 5 then some (n, l, n, l) else none)
  else if k < 16 then
    (if k ≠ 13 && fp (2 * n) && (ofInt || fp n) then some (n, l, 2 * n, 2 * l) else none)
  else if k < 24 then
    (if (if ofInt || k = 20 || k = 21 then fp n && n ≤ 32 else fp (2 * n)) then some (2 * n, 2 * l, n, l) else none)
  else none

/-- The floating-point unary operations of OPFVV. -/
def vecFpUnary (c : Gc) (ag : Nat → Bool) (i : VIns) : Option Gc :=
  let n := vsew c
  let l := vlmul c
  let rm := bits c.fcsr 7 5
  let out (r : Gc × Nat) : Gc := accrue r.1 r.2
  match i.f6 with
  | 0x10 => vIf (i.vm && i.vs1 = 0 && decide (32 ≤ n)) { setF c n i.vd (vGet c i.vs2 n 0) with vstart := 0 }
  | 0x12 =>
    match convWidths n l i.vs1 with
    | some (m, ml, d, dl) =>
      vIf (grpOk i.vd d dl && grpOk i.vs2 m ml && mayOverlap i.vd d dl i.vs2 m ml && (i.vm || i.vd ≠ 0))
        (out (vWrite c ag i.vm i.vd d dl (fun k => vFpConvert d m rm i.vs1 (vGet c i.vs2 m k))))
    | none => none
  | _ =>
    vIf ([0, 4, 5, 16].contains i.vs1 && decide (32 ≤ n) && grpOk i.vd n l && grpOk i.vs2 n l && (i.vm || i.vd ≠ 0))
      (out (vWrite c ag i.vm i.vd n l (fun k => vFpUnary n rm i.vs1 (vGet c i.vs2 n k))))

/-- Floating-point reductions: 01 and 31 unordered sums, 03 and 33 ordered ones, 05 minimum, 07 maximum. -/
def vecFpReduce (c : Gc) (ag : Nat → Bool) (d : Nat) (i : VIns) : Option Gc :=
  let n := vsew c
  let l := vlmul c
  let rm := bits c.fcsr 7 5
  let m := if 0x30 ≤ i.f6 then 2 * n else n
  let z := vGet c i.vs1 m 0
  let el (x : Nat) : Nat × Nat := if m = n then (x, 0) else fpToFp n m rm x
  let xs := (vActive c i.vm).map (fun k => el (vGet c i.vs2 n k))
  let fl := xs.foldl (fun f x => f ||| x.2) 0
  let step (f : Nat → Nat → Nat × Nat) : Nat × Nat :=
    xs.foldl (fun z x => let r := f z.1 x.1; (r.1, z.2 ||| r.2)) (z, fl)
  let r : Nat × Nat := match i.f6 % 8 with
    | 1 => if xs = [] then (z, 0) else let t := treeSum m rm d 4096 (z :: xs.map (·.1)); (t.1, t.2 ||| fl)
    | 3 => step (fpAdd m rm)
    | 5 => step (fpMinMax n false)
    | _ => step (fpMinMax n true)
  vIf (grpOk i.vs2 n l && decide (32 ≤ n) && decide (m ≤ 64) && c.vstart = 0)
    (if c.vl = 0 then c else accrue (vWrite0 c ag i.vd m r.1) r.2)

/-- OPFVV, OPFVF. -/
def vecFp (c : Gc) (ag : Nat → Bool) (d : Nat) (i : VIns) : Option Gc :=
  let n := vsew c
  let l := vlmul c
  let rm := bits c.fcsr 7 5
  let same := vOk i n l n l n l && decide (32 ≤ n)
  let a (k : Nat) : Nat := vGet c i.vs2 n k
  let b := vSrc c i n false
  let out (r : Gc × Nat) : Gc := accrue r.1 r.2
  if !bitOf (opfForms i.f6) (formBit i.f3) || 5 ≤ rm then none
  else if i.isV && (i.f6 = 0x10 || i.f6 = 0x12 || i.f6 = 0x13) then vecFpUnary c ag i
  else if [0x01, 0x03, 0x05, 0x07, 0x31, 0x33].contains i.f6 then vecFpReduce c ag d i
  else if 0x30 ≤ i.f6 then
    let w (m : Nat) (x : Nat) : Nat × Nat := if m = n then fpToFp n 64 rm x else (x, 0)
    let n2 := if i.f6 = 0x34 || i.f6 = 0x36 then 2 * n else n
    let l2 := if i.f6 = 0x34 || i.f6 = 0x36 then 2 * l else l
    vIf (vOk i (2 * n) (2 * l) n2 l2 n l && n = 32)
      (out (vWrite c ag i.vm i.vd (2 * n) (2 * l) (fun k =>
        let x := w n2 (vGet c i.vs2 n2 k)
        let y := w n (b k)
        let r := if i.f6 = 0x38 then fpMul 64 rm x.1 y.1
          else if 0x3C ≤ i.f6 then vFmaOp 64 rm i.f6 x.1 y.1 (vGet c i.vd (2 * n) k)
          else fpAdd 64 rm x.1 (if i.f6 = 0x32 || i.f6 = 0x36 then fpNeg 64 y.1 else y.1)
        (r.1, x.2 ||| y.2 ||| r.2))))
  else
    match i.f6 with
    | 0x0E =>
      vIf (same && apart i.vd l i.vs2 l) (vPermute c ag i n l (fun k => if k = 0 then .val (b 0) else .el (k - 1)))
    | 0x0F => vIf same (vPermute c ag i n l (fun k => if k = c.vl - 1 then .val (b 0) else upTo n l (k + 1)))
    | 0x10 => vIf (i.vm && i.vs2 = 0 && decide (32 ≤ n)) (vWrite0 c ag i.vd n (b 0))
    | 0x17 =>
      vIf (same && (!i.vm || i.vs2 = 0))
        (vWrite c ag true i.vd n l (fun k => (if i.vm || vBit c 0 k then b k else a k, 0))).1
    | 0x18 | 0x19 | 0x1B | 0x1C | 0x1D | 0x1F =>
      vIf (vOkMask i n l && decide (32 ≤ n)) (out (vWriteMask c ag i.vm i.vd (fun k => vFpCompare n i.f6 (a k) (b k))))
    | f =>
      if 0x28 ≤ f then
        vIf same (out (vWrite c ag i.vm i.vd n l (fun k => vFmaOp n rm f (a k) (b k) (vGet c i.vd n k))))
      else vIf same (out (vWrite c ag i.vm i.vd n l (fun k => vFpOp n rm f (a k) (b k))))

/-- vl for an application vector length: between half of it and VLMAX the core chooses. -/
def newVl (avl m : Nat) : Nat :=
  if avl ≤ m then avl
  else if 2 * m ≤ avl then m
  else (avl + 1) / 2 + Config.avlChoice avl m % (m + 1 - (avl + 1) / 2)

/-- vtype is supported. -/
def vtypeOk (t : Nat) : Bool :=
  decide (t < 256) && lmul8 t ≠ 0 && decide (bits t 5 3 ≤ 3) && decide (2 ^ bits t 5 3 ≤ lmul8 t)

/-- VSETVLI, VSETIVLI and VSETVL. -/
def vecSet (c : Gc) (w : Nat) : Option Gc :=
  let rd := rvRd w
  let r1 := rvR1 w
  let imm := bits w 31 30 = 3
  let t : Option Nat :=
    if !bitOf w 31 then some (bits w 30 20)
    else if imm then some (bits w 29 20)
    else if rvF7 w = 0x40 then some (xOf c (rvR2 w)).toNat
    else none
  t.map (fun t =>
    let m := vlMax (8 * 2 ^ bits t 5 3) (lmul8 t)
    let keep := !imm && r1 = 0 && rd = 0
    if !vtypeOk t || (keep && (vill c || m ≠ vlMax (vsew c) (vlmul c))) then
      { setX c rd 0 with vl := 0, vtype := 2 ^ 63, vstart := 0 }
    else
      let avl := if imm then r1 else if r1 ≠ 0 then (xOf c r1).toNat else m
      let vl := if keep then c.vl else newVl avl m
      { setX c rd (BitVec.ofNat 64 vl) with vl := vl, vtype := t, vstart := 0 })

/-- An OP-V instruction; `d` is the draw of its free choices. -/
def vecOp (c : Gc) (d w : Nat) : Option Gc :=
  let ag (i : Nat) : Bool := bitOf (Config.freeByte d i).toNat 0
  let i := vIns w
  if i.f3 = 7 then vecSet c w
  else if vill c then none
  else
    match i.f3 with
    | 0 | 3 | 4 => vecInt c ag i
    | 2 | 6 => vecMul c ag i
    | _ => vecFp c ag d i

end Sys2Proof.Machine
end

