-- ==== Sys2Proof/Machine/RvScalar.lean ====
section
/-! DEFINITION. The instructions of a general core that act on its own registers: integer, floating-point, control
registers, and vectors (06 R255; log 67). None is an illegal instruction. -/
namespace Sys2Proof.Machine
open Sys2Proof

/-- A core at an address. -/
def goTo (c : Gc) (a : W64) : Gc := { c with pc := a.toNat }
/-- A core past an instruction of `len` bytes. -/
def pass (c : Gc) (len : Nat) : Gc := { c with pc := (c.pc + len) % 2 ^ 64 }
/-- The address of a core's instruction. -/
def pcOf (c : Gc) : W64 := BitVec.ofNat 64 c.pc

/-- LUI, AUIPC, jumps, branches, integer arithmetic and fences. -/
def rvInt (c : Gc) (len w : Nat) : Option Gc :=
  let a := xOf c (rvR1 w)
  let b := xOf c (rvR2 w)
  let put (v : W64) : Gc := pass (setX c (rvRd w) v) len
  let link := BitVec.ofNat 64 (c.pc + len)
  match w % 128 with
  | 0x37 => some (put (immU w))
  | 0x17 => some (put (pcOf c + immU w))
  | 0x6F => some (goTo (setX c (rvRd w) link) (pcOf c + immJ w))
  | 0x67 => if rvF3 w = 0 then some (goTo (setX c (rvRd w) link) ((a + immI w) &&& ~~~1)) else none
  | 0x63 => (branchTaken (rvF3 w) a b).map (fun t => if t then goTo c (pcOf c + immB w) else pass c len)
  | 0x13 => (aluImm false w a).map put
  | 0x1B => (aluImm true w a).map put
  | 0x33 => (aluOp (rvF7 w) (rvF3 w) a b).map put
  | 0x3B => (aluOpW (rvF7 w) (rvF3 w) a b).map put
  | 0x0F => if rvF3 w ≤ 1 then some (pass c len) else none
  | _ => none

/-- The rounding mode of an instruction; none for a reserved one. -/
def rvRm (c : Gc) (w : Nat) : Option Nat :=
  let m := if rvF3 w = 7 then bits c.fcsr 7 5 else rvF3 w
  if m < 5 then some m else none

/-- The width of a floating-point format; none for one that the core lacks. -/
def rvWidth (f : Nat) : Option Nat := if f = 0 then some 32 else if f = 1 then some 64 else none

/-- A floating-point result with its flags. -/
def fpOut (c : Gc) (n rd : Nat) (r : Nat × Nat) : Gc := accrue (setF c n rd r.1) r.2

/-- The conversions of a value to an integer register: W, WU, L, LU. -/
def fpToX (c : Gc) (n rm k rd v : Nat) : Gc :=
  let m := if k < 2 then 32 else 64
  let r := fpToInt n rm v m (k % 2 = 0)
  accrue (setX c rd (sx m (wrap m r.1))) r.2

/-- The conversions of an integer register to a value: W, WU, L, LU. -/
def xToFp (n rm k : Nat) (v : W64) : Nat × Nat :=
  let m := if k < 2 then 32 else 64
  fpOfInt n rm (if k % 2 = 0 then sgn m v.toNat else (v.toNat % 2 ^ m : Nat))

/-- OP-FP. -/
def rvFp (c : Gc) (w : Nat) : Option Gc :=
  (rvWidth (bits w 26 25)).bind (fun n =>
    let rd := rvRd w
    let f3 := rvF3 w
    let r2 := rvR2 w
    let a := fOf c n (rvR1 w)
    let b := fOf c n r2
    let x := xOf c (rvR1 w)
    let out (r : Nat × Nat) : Gc := fpOut c n rd r
    match bits w 31 27 with
    | 0x00 => (rvRm c w).map (fun m => out (fpAdd n m a b))
    | 0x01 => (rvRm c w).map (fun m => out (fpAdd n m a (fpNeg n b)))
    | 0x02 => (rvRm c w).map (fun m => out (fpMul n m a b))
    | 0x03 => (rvRm c w).map (fun m => out (fpDiv n m a b))
    | 0x0B => if r2 = 0 then (rvRm c w).map (fun m => out (fpSqrt n m a)) else none
    | 0x04 => if f3 ≤ 2 then some (out (fpSgnj n f3 a b, 0)) else none
    | 0x05 => if f3 ≤ 1 then some (out (fpMinMax n (f3 = 1) a b)) else none
    | 0x14 =>
      if f3 ≤ 2 then
        let r := fpCmp n f3 a b
        some (accrue (setX c rd (BitVec.ofNat 64 (b2n r.1))) r.2)
      else none
    | 0x18 => if r2 ≤ 3 then (rvRm c w).map (fun m => fpToX c n m r2 rd a) else none
    | 0x1A => if r2 ≤ 3 then (rvRm c w).map (fun m => out (xToFp n m r2 x)) else none
    | 0x08 =>
      if r2 ≤ 1 && r2 ≠ bits w 26 25 then
        let k := if r2 = 1 then 64 else 32
        (rvRm c w).map (fun m => out (fpToFp k n m (fOf c k (rvR1 w))))
      else none
    | 0x1C =>
      if r2 ≠ 0 then none
      else if f3 = 0 then some (setX c rd (sx n (c.f.get 0 (rvR1 w)).toNat))
      else if f3 = 1 then some (setX c rd (BitVec.ofNat 64 (fpClass n a)))
      else none
    | 0x1E => if r2 = 0 && f3 = 0 then some (setF c n rd (x.toNat % 2 ^ n)) else none
    | _ => none)

/-- FMADD, FMSUB, FNMSUB, FNMADD. -/
def rvFma (c : Gc) (w : Nat) : Option Gc :=
  (rvWidth (bits w 26 25)).bind (fun n =>
    (rvRm c w).map (fun m =>
      let k := bits w 3 2
      fpOut c n (rvRd w) (fpFma n m (fOf c n (rvR1 w)) (fOf c n (rvR2 w)) (fOf c n (bits w 31 27)) (2 ≤ k) (k = 1 || k = 3))))

/-- A control register of U-mode at time `t`; `time` is mtime, 100 MHz (06 R255). -/
def csrRead (t : Nat) (c : Gc) (n : Nat) : Option Nat :=
  match n with
  | 0x001 => some (bits c.fcsr 4 0)
  | 0x002 => some (bits c.fcsr 7 5)
  | 0x003 => some c.fcsr
  | 0x008 => some c.vstart
  | 0x009 => some (bits c.vcsr 0 0)
  | 0x00A => some (bits c.vcsr 2 1)
  | 0x00F => some c.vcsr
  | 0xC01 => some (t / 10)
  | 0xC20 => some c.vl
  | 0xC21 => some c.vtype
  | 0xC22 => some 256
  | _ => none

/-- A core with a control register written; none where it is read-only. -/
def csrWrite (c : Gc) (n v : Nat) : Option Gc :=
  match n with
  | 0x001 => some { c with fcsr := setBits c.fcsr 4 0 v }
  | 0x002 => some { c with fcsr := setBits c.fcsr 7 5 v }
  | 0x003 => some { c with fcsr := v % 256 }
  | 0x008 => some { c with vstart := v % 2048 }
  | 0x009 => some { c with vcsr := setBits c.vcsr 0 0 v }
  | 0x00A => some { c with vcsr := setBits c.vcsr 2 1 v }
  | 0x00F => some { c with vcsr := v % 8 }
  | _ => none

/-- CSRRW, CSRRS, CSRRC and their immediate forms. -/
def rvCsr (t : Nat) (c : Gc) (w : Nat) : Option Gc :=
  let k := bits w 31 20
  let src := if 5 ≤ rvF3 w then rvR1 w else (xOf c (rvR1 w)).toNat
  (csrRead t c k).bind (fun old =>
    let put (c : Gc) : Gc := setX c (rvRd w) (BitVec.ofNat 64 old)
    match rvF3 w % 4 with
    | 1 => (csrWrite c k src).map put
    | 2 => if rvR1 w = 0 then some (put c) else (csrWrite c k (old ||| src)).map put
    | 3 => if rvR1 w = 0 then some (put c) else (csrWrite c k (old &&& (2 ^ 64 - 1 - src))).map put
    | _ => none)

/-- An instruction that acts on the core alone, at time `t`; `d` is the draw of its free choices. -/
def rvStep (t d : Nat) (c : Gc) (len w : Nat) : Option Gc :=
  match w % 128 with
  | 0x53 => (rvFp c w).map (pass · len)
  | 0x43 | 0x47 | 0x4B | 0x4F => (rvFma c w).map (pass · len)
  | 0x57 => (vecOp c d w).map (pass · len)
  | 0x73 => (rvCsr t c w).map (pass · len)
  | _ => rvInt c len w

end Sys2Proof.Machine
end

