-- ==== Sys2Proof/Machine/GcRun.lean ====
section
/-! DEFINITION. A general core runs its program: the fetch of an instruction, what it does to memory, its calls and
its Icxel instructions (04 R605; 06 R255 to R259; 13 R455; log 60, 67). -/
namespace Sys2Proof.Machine
open Sys2Proof

/-- 2 bytes of a program, or an instruction access fault (06 R255; 09 R338). -/
def gcParcel (s : State) (g a : Nat) : GcAcc :=
  if pmpPerm a 2 2 0 (gcOf s g).pmp && gcThere s g a 2 false then gcBytes s g a 2 1 else .trap s 1

/-- An instruction illegal to the core. -/
def gcIllegal (s : State) (g : Nat) : State := gcTrap s g 2

/-- A core changed by an instruction, or stopped by an illegal one. -/
def gcSet (s : State) (g : Nat) (c : Option Gc) : State :=
  match c with
  | some c => updGc s g (fun _ => c)
  | none => gcIllegal s g

/-- The address in a register plus an offset. -/
def gcAddr (s : State) (g r : Nat) (off : W64) : Nat := (gx s g r + off).toNat

/-- The core's reservation (06 R255). -/
def setResv (s : State) (g : Nat) (r : Option (Nat × Nat × List Byte)) : State := updGc s g (fun c => { c with resv := r })

/-- SC: it stores where its reservation stands and memory holds what LR read; it may fail for any reason. -/
def gcSc (s : State) (g a n len : Nat) (w : Nat) : State :=
  let d := draw s
  let out (t : State) (v : W64) : State := gcPass (putGx (setResv t g none) g (rvRd w) v) g len
  gcAfter s g (gcLoad d.1 g a n) (fun t bs =>
    if (gcOf s g).resv = some (a, n, bs) && bitOf (Config.freeWord d.2).toNat 0 then
      gcAfter s g (gcStore t g a (leBytes n (gx s g (rvR2 w)).toNat)) (fun t _ => out t 0)
    else out t 1)

/-- LR, SC and the other atomic operations (06 R255). -/
def gcAmo (s : State) (g len w : Nat) : State :=
  let n := if rvF3 w = 3 then 8 else 4
  let a := gcAddr s g (rvR1 w) 0
  let f5 := bits w 31 27
  if rvF3 w ≠ 2 && rvF3 w ≠ 3 then gcIllegal s g
  else if f5 = 0x02 then
    if rvR2 w ≠ 0 then gcIllegal s g
    else if a % n ≠ 0 then gcTrap s g 4
    else gcAfter s g (gcLoad s g a n) (fun t bs =>
      gcPass (putGx (setResv t g (some (a, n, bs))) g (rvRd w) (sx (8 * n) (ofLe bs))) g len)
  else
    match (if f5 = 0x03 then some 0 else amoValue (8 * n) f5 0 0) with
    | none => gcIllegal s g
    | some _ =>
      if a % n ≠ 0 then gcTrap s g 6
      else if !gcRegOk s g a n true && !(gcReach s g a n true && gcReach s g a n false) then gcTrap s g 7
      else if f5 = 0x03 then gcSc s g a n len w
      else gcAfter s g (gcLoad s g a n) (fun t bs =>
        gcAfter s g (gcStore t g a (leBytes n ((amoValue (8 * n) f5 (ofLe bs) (gx s g (rvR2 w)).toNat).getD 0)))
          (fun t _ => gcPass (putGx t g (rvRd w) (sx (8 * n) (ofLe bs))) g len))

/-- A vector access: the element's number, its address, and its place in a register group. -/
structure VAcc where
  el : Nat
  addr : Nat
  reg : Nat
  idx : Nat
deriving DecidableEq, Repr

/-- The elements of a vector load or store of `n` bits in turn. One that fails ends it: with vstart at the element,
or, in a fault-only-first load past element 0, by cutting vl. -/
def vMem (g n : Nat) (load ff : Bool) : List VAcc → State → GcAcc
  | [], s => .done s []
  | e :: t, s =>
    match (if load then gcLoad s g e.addr (n / 8)
           else gcStore s g e.addr (leBytes (n / 8) (vGet (gcOf s g) e.reg n e.idx))) with
    | .done u bs =>
      vMem g n load ff t (if load then updGc u g (fun c => { c with v := vSet c.v e.reg n e.idx (ofLe bs) }) else u)
    | .trap u k =>
      if ff && 0 < e.el then .done (updGc u g (fun c => { c with vl := e.el })) []
      else .trap (updGc u g (fun c => { c with vstart := e.el })) k
    | .wait => .wait

/-- The places of a vector load that its policies leave open take all ones as `ag` chooses. -/
def vLoadTail (c : Gc) (ag : Nat → Bool) (vm mask : Bool) (n l vl : Nat) (regs : List Nat) : Gc :=
  let off := (List.range (max (vlMax n l) (2048 / n))).filter (fun i => decide (c.vstart ≤ i)
    && (if vl ≤ i then mask || bitOf c.vtype 6 else bitOf c.vtype 7 && !(vm || vBit c 0 i)) && ag i)
  { c with v := regs.foldl (fun v r => off.foldl (fun v i => vSet v r n i (2 ^ n - 1)) v) c.v }

/-- A vector load or store: what it accesses, element width and EMUL, the first register of each field, and whether
its elements are whole registers or a mask, or fault only first. -/
structure VMemOp where
  n : Nat
  l : Nat
  vl : Nat
  list : List VAcc
  regs : List Nat
  whole : Bool := false
  mask : Bool := false
  ff : Bool := false
deriving DecidableEq, Repr

/-- The element width that a vector load or store names. -/
def vWidth (f3 : Nat) : Nat := match f3 with | 0 => 8 | 5 => 16 | 6 => 32 | _ => 64

/-- Whole registers, contiguous in memory from `base`. -/
def vWhole (c : Gc) (w base : Nat) (load : Bool) : Option VMemOp :=
  let k := bits w 31 29 + 1
  let n := vWidth (rvF3 w)
  let vl := 2048 * k / n
  if [1, 2, 4, 8].contains k && rvRd w % k = 0 && bitOf w 25 && (load || n = 8) then
    some { n := n, l := 8 * k, vl := vl, whole := true, regs := [rvRd w]
           list := ((List.range vl).filter (fun i => decide (c.vstart ≤ i))).map (fun i =>
             { el := i, addr := (base + n / 8 * i) % 2 ^ 64, reg := rvRd w, idx := i }) }
  else none

/-- A mask: the bytes of vl bits. -/
def vMaskMem (c : Gc) (w base : Nat) : Option VMemOp :=
  let vl := (c.vl + 7) / 8
  if !vill c && bits w 31 29 = 0 && rvF3 w = 0 && bitOf w 25 then
    some { n := 8, l := 8, vl := vl, mask := true, regs := [rvRd w]
           list := ((List.range vl).filter (fun i => decide (c.vstart ≤ i))).map (fun i =>
             { el := i, addr := (base + i) % 2 ^ 64, reg := rvRd w, idx := i }) }
  else none

/-- Segments of fields, element `i` of field 0 at `base + off i`. -/
def vSegs (c : Gc) (w n l base : Nat) (off : Nat → Nat) (load ff : Bool) : Option VMemOp :=
  let k := bits w 31 29 + 1
  let regs := (List.range k).map (fun f => rvRd w + f * regsOf l)
  if grpOk (rvRd w) n l && decide (k * regsOf l ≤ 8) && decide (rvRd w + k * regsOf l ≤ 32)
      && (bitOf w 25 || !load || rvRd w ≠ 0) then
    some { n := n, l := l, vl := c.vl, ff := ff, regs := regs
           list := (vActive c (bitOf w 25)).flatMap (fun i => (List.range k).map (fun f =>
             { el := i, addr := (base + off i + n / 8 * f) % 2 ^ 64, reg := regs.getD f 0, idx := i })) }
  else none

/-- What a vector load or store accesses; none for a reserved encoding. -/
def vMemOp (c : Gc) (w : Nat) (load : Bool) : Option VMemOp :=
  let base := (xOf c (rvR1 w)).toNat
  let n := vWidth (rvF3 w)
  let k := bits w 31 29 + 1
  let l := n * vlmul c / vsew c
  if bitOf w 28 then none
  else if bits w 27 26 = 0 && rvR2 w = 8 then vWhole c w base load
  else if bits w 27 26 = 0 && rvR2 w = 11 then vMaskMem c w base
  else if vill c then none
  else
    match bits w 27 26 with
    | 0 =>
      if rvR2 w = 0 || (load && rvR2 w = 16) then vSegs c w n l base (fun i => i * k * (n / 8)) load (rvR2 w = 16) else none
    | 2 => vSegs c w n l base (fun i => i * (xOf c (rvR2 w)).toNat) load false
    | _ =>
      let m := vsew c
      let d := vlmul c
      if grpOk (rvR2 w) n l && (!load || (if k = 1 then mayOverlap (rvRd w) m d (rvR2 w) n l
          else decide (rvRd w + k * regsOf d ≤ rvR2 w) || decide (rvR2 w + regsOf l ≤ rvRd w))) then
        vSegs c w m d base (fun i => vGet c (rvR2 w) n i) load false
      else none

/-- A vector load or store (06 R255). -/
def gcVMem (s : State) (g len w : Nat) (load : Bool) : State :=
  let d := draw s
  let ag (i : Nat) : Bool := bitOf (Config.freeByte d.2 i).toNat 0
  match vMemOp (gcOf s g) w load with
  | none => gcIllegal s g
  | some o =>
    gcAfter s g (vMem g o.n load o.ff o.list d.1) (fun t _ =>
      let tail (c : Gc) : Gc :=
        if load && !o.whole && decide (c.vstart < o.vl) then
          vLoadTail c ag (bitOf w 25) o.mask o.n o.l (if c.vl < o.vl && !o.mask then c.vl else o.vl) o.regs
        else c
      gcPass (updGc t g (fun c => { tail c with vstart := 0 })) g len)

/-- An Icxel instruction: custom-0, funct3, and the funct7 bits that it uses, the others 0 (06 R257). -/
def gcIcxel (s : State) (g w : Nat) : State :=
  let rd := rvRd w
  let a := rvR1 w
  let b := rvR2 w
  let f7 := rvF7 w
  let run (ok : Bool) (f : State → Out) : State := if ok then afterOut s (f s) else gcIllegal s g
  match rvF3 w with
  | 0 => run (f7 = 0) (execXharrive g a b)
  | 1 => run (decide (f7 < 2)) (execXhwait g rd a b (bitOf f7 0))
  | 2 => run (f7 = 0) (execXhsignal g a b)
  | 3 => run (f7 = 0) (execXstrm g rd a b)
  | 4 => run (f7 = 0) (execXrearm g a b)
  | 5 => run (decide (f7 < 64)) (execXpld g rd a b (f7 % 16) (bitOf f7 4) (bitOf f7 5))
  | 6 => run true (execXpst g rd a b (f7 % 16) (bitOf f7 4) (bitOf f7 5) (bitOf f7 6))
  | _ => run (f7 = 0) (execXhread g rd a)

/-- ECALL: the end of the core's part, INVSPD, or an exception (06 R256; 11 R409; 13 R455). -/
def gcEcall (s : State) (g : Nat) : State :=
  if gx s g 17 = 0 then afterOut s (execGcRunEndEcall g s)
  else if gx s g 17 = 0x100 then
    let d := draw s
    afterOut d.1 (execInvspd g ((Config.freeWord d.2).toNat % 5) d.1)
  else gcTrap s g 8

/-- ECALL, EBREAK, and WFI, which resumes at once (06 R255, R256). -/
def gcSystem (s : State) (g len w : Nat) : State :=
  if w = 0x73 then gcEcall s g
  else if w = 0x100073 then gcTrap s g 3
  else if w = 0x10500073 then gcPass s g len
  else gcIllegal s g

/-- An instruction of `len` bytes, as its 32-bit word (06 R255 to R259). -/
def gcInstr (s : State) (g len w : Nat) : State :=
  let f3 := rvF3 w
  match w % 128 with
  | 0x03 =>
    if f3 = 7 then gcIllegal s g
    else gcLoadStore s g (.load (rvRd w) (decide (f3 < 4))) (gcAddr s g (rvR1 w) (immI w)) (2 ^ (f3 % 4)) len
  | 0x23 =>
    if 3 < f3 then gcIllegal s g
    else gcLoadStore s g (.store (rvR2 w)) (gcAddr s g (rvR1 w) (immS w)) (2 ^ f3) len
  | 0x07 =>
    if f3 = 2 || f3 = 3 then gcLoadStore s g (.fload (rvRd w)) (gcAddr s g (rvR1 w) (immI w)) (2 ^ f3) len
    else if f3 = 0 || 5 ≤ f3 then gcVMem s g len w true
    else gcIllegal s g
  | 0x27 =>
    if f3 = 2 || f3 = 3 then gcLoadStore s g (.fstore (rvR2 w)) (gcAddr s g (rvR1 w) (immS w)) (2 ^ f3) len
    else if f3 = 0 || 5 ≤ f3 then gcVMem s g len w false
    else gcIllegal s g
  | 0x2F => gcAmo s g len w
  | 0x0B => gcIcxel s g w
  | op =>
    if op = 0x73 && f3 = 0 then gcSystem s g len w
    else
      let d := draw s
      gcSet d.1 g (rvStep s.timeNs d.2 (gcOf s g) len w)

/-- An instruction whose first 2 bytes are given (06 R255). -/
def gcDecode (s : State) (g lo : Nat) : State :=
  if lo % 4 = 3 then
    gcAfter s g (gcParcel s g (((gcOf s g).pc + 2) % 2 ^ 64)) (fun s hi => gcInstr s g 4 (lo + 65536 * ofLe hi))
  else
    match expandC lo with
    | some w => gcInstr s g 2 w
    | none => gcIllegal s g

/-- A general core runs the instruction at its program counter (06 R255, R256). -/
def gcStep (s : State) (g : Nat) : State :=
  if !gcActs s g then s
  else if (gcOf s g).pc % 2 ≠ 0 then gcTrap s g 0
  else gcAfter s g (gcParcel s g (gcOf s g).pc) (fun s lo => gcDecode s g (ofLe lo))

/-- A number of instructions of a general core. -/
def gcRun (g : Nat) : Nat → State → State
  | 0, s => s
  | n + 1, s => gcRun g n (gcStep s g)

/-- An edge of a cluster's clock for its general core: its caches and branch prediction make the number of
instructions that it retires variable, and held cycles do not stop it (06 R240, R255, R256). -/
def gcEdge (s : State) (g : Nat) : State :=
  if gcActs s g then
    let d := draw s
    gcRun g (Config.gcRetires d.2) d.1
  else s

end Sys2Proof.Machine
end

