-- ==== Sys2Proof/Machine/Move.lean ====
section
/-! DEFINITION. The feeder-and-move slot: header and pocket loads, stores, the move unit, and SEED
(06 R230 to R233, R239). -/
namespace Sys2Proof.Machine
open Sys2Proof

/-- HDRLD: a header field into rd, 0 from a FREE buffer (06 R230, R239). -/
def execHdrld (n rd : Nat) (lane : Lane) (buf sel : Nat) (s : State) : Out :=
  if !acts s n then .next s
  else
    let v := if lbState (stn s n) lane buf = .free then 0 else hdrField (lb s n lane buf).baton.hdr sel
    .next (putX s n rd 2 false (BitVec.ofNat 64 v))

/-- The pocket offset of an LD or ST: register [21:0] plus the byte offset, bits [2:0] taken as 0, or none
where the access is reserved (06 R216, R230). -/
def wordOperand (s : State) (n : Nat) (v : W64) (off : Int) : Option Nat :=
  let a : Int := (v.toNat % 0x400000 : Nat) + off
  if v.toNat / 0x400000 ≠ 0 || a < 0x80000 then none
  else
    let o := a.toNat / 8 * 8
    if o + 8 ≤ 0x400000 && pocketOk s n o 8 then some o else none

/-- Address bits [2:0] that LD and ST drop (06 R216, R252). -/
def lowWord (v : W64) (off : Int) : Bool := (((v.toNat : Nat) : Int) + off) % 8 ≠ 0

/-- What LD does with what its read delivers (06 R230, R241; 09 R338). -/
def loaded (n rd a : Nat) (c : State × List (Nat × Nat) × Nat) (r : ReadOut) : State :=
  match r.fail with
  | some _ => errHalt r.s n 0x0502
  | none => putX r.s n rd 4 false (BitVec.ofNat 64 (ofLe ((List.range 8).map (fun i => stnByte c r (a + i)))))

/-- LD: 8 bytes of the pocket into rd (06 R230, R239; 09 R338). -/
def execLd (n rd base : Nat) (off : Int) (s : State) : Out :=
  if !acts s n then .next s
  else
    let v := xreg s n base
    let s := fsIf (seeX s n [base]) (lowWord v off) n 6
    match wordOperand s n v off with
    | none => .next (badAddr s n)
    | some o =>
      let s := fsIf s (stalePocket s n o 8) n 3
      let c := cloud s n (pocketAddr n o) 8
      .next (loaded n rd (pocketAddr n o) c (readMem c.1 (pocketAddr n o) 8))

/-- ST: a register into 8 bytes of the pocket (06 R230, R239; 09 R340). -/
def execSt (n rs base : Nat) (off : Int) (s : State) : Out :=
  if !acts s n then .next s
  else
    let v := xreg s n base
    let s := fsIf (seeX s n [base, rs]) (lowWord v off) n 6
    match wordOperand s n v off with
    | none => .next (badAddr s n)
    | some o =>
      let bs := leBytes 8 (xreg s n rs).toNat
      .next (schedule s n 2 false (.pocket n o ((List.range 8).zip bs)))

/-- SEED: loads the LFSR; 0 is loaded as 1 (04 R171; 06 R230, R239). -/
def execSeed (n rs : Nat) (s : State) : Out :=
  if !acts s n then .next s
  else
    let v : W32 := (xreg s n rs).setWidth 32
    .next (schedule (seeX s n [rs]) n 1 false (.seed n (if v = 0 then 1 else v)))

/-- Units of a move-unit operation: 256 bytes of a MOVE, 64 elements of a CVT (06 R232). -/
def unitsOf : MoveOp → Nat
  | .move _ _ _ u => u
  | .cvt _ _ t _ _ _ _ _ _ _ => 256 * t

/-- The cycle of a running operation, held cycles it ran through included. -/
def runAge (s : State) (n : Nat) (r : MoveRun) : Nat := cycOf s n + r.slip - r.start

/-- A running operation has written its last unit and a waiting one may start (06 R232). -/
def runOver (s : State) (n : Nat) (r : MoveRun) : Bool := decide (unitsOf r.op + 2 ≤ runAge s n r)

/-- Gives an operation to the move unit: it starts, waits, or waits behind a waiting one (06 R232). -/
def queueMove (s : State) (n : Nat) (op : MoveOp) : State :=
  if unitsOf op = 0 then s
  else
    let t := stn s n
    let idle := match t.mv with | some r => runOver s n r | none => true
    if idle && t.mvWait.isNone then updStn s n (fun t => { t with mv := some { op := op, start := cycOf s n } })
    else if t.mvWait.isNone then updStn (fsFail s n 5) n (fun t => { t with mvWait := some op })
    else updStn (fsFail s n 5) n (fun t => { t with mvSecond := some op })

/-- MOVE: copies 256-byte units from the pocket or a landing buffer into the pocket (06 R216, R231,
R232). -/
def execMove (n : Nat) (f : MoveF) (s : State) : Out :=
  if !acts s n then .next s
  else
    let s := seeX s n [f.dst, f.src, f.count]
    let s := fsIf s ((xreg s n f.dst).toNat % 256 ≠ 0 || (xreg s n f.src).toNat % 256 ≠ 0) n 6
    let units := (xreg s n f.count).toNat % 2 ^ 32 / 256
    let len := 256 * units
    match f.buf, pocketOperand (xreg s n f.dst) 256 len with
    | some (l, b), some d =>
      if !pocketOk s n d len then .next (badAddr s n)
      else
        .next (queueMove s n (.move (some (l, b)) d ((xreg s n f.src).toNat / 256 * 256) units))
    | none, some d =>
      (match pocketOperand (xreg s n f.src) 256 len with
       | some o =>
         if !pocketOk s n d len || !pocketOk s n o len then .next (badAddr s n)
         else .next (queueMove s n (.move none d o units))
       | none => .next (badAddr s n))
    | _, none => .next (badAddr s n)

/-- CVT: converts whole tiles in the pocket (06 R216, R230, R231; 04 R605). A combination that R151 does
not permit stands in no loaded course (06 R217). -/
def execCvt (n : Nat) (f : CvtF) (s : State) : Out :=
  if !acts s n || !tileOk f.fmtIn f.scaledIn || !tileOk f.fmtOut f.scaledOut then .next s
  else
    let s := seeX s n [f.dst, f.src, f.count]
    let s := fsIf s ((xreg s n f.dst).toNat % 256 ≠ 0 || (xreg s n f.src).toNat % 256 ≠ 0) n 6
    let c := (xreg s n f.count).toNat
    let tiles := c % 2 ^ 32
    let lin := tiles * storedBytes f.fmtIn f.scaledIn
    let lout := tiles * storedBytes f.fmtOut f.scaledOut
    match pocketOperand (xreg s n f.dst) 256 lout, pocketOperand (xreg s n f.src) 256 lin with
    | some d, some o =>
      if !pocketOk s n d lout || !pocketOk s n o lin then .next (badAddr s n)
      else
        .next (queueMove s n (.cvt d o tiles f.fmtIn f.scaledIn f.fmtOut f.scaledOut f.stoch f.propagate
          (if bitOf c 32 then some (bits c 38 33) else none)))
    | _, _ => .next (badAddr s n)

/-- A waiting operation of the move unit starts in the cycle after the running one has completed
(06 R232). -/
def execMoveUnitStart (n : Nat) (s : State) : Out :=
  match (stn s n).mvWait with
  | some op =>
    let atEnd := match (stn s n).mv with | some r => r.done = unitsOf r.op && runOver s n r | none => true
    if atEnd then
      .next (updStn s n (fun t =>
        { t with mv := some { op := op, start := cycOf s n }, mvWait := t.mvSecond, mvSecond := none }))
    else .next s
  | none => .next s

/-- The stored row and scale index of run `q` of 32 elements in payload order (04 R149, R150). -/
def scaleOfRun (q : Nat) : Nat := 4 * (32 * (q / 128) + q % 32) + q / 32 % 4

/-- A read of a running operation fails: it ends and the station halts at its next hurdle (09 R338). -/
def moveFail (s : State) (n : Nat) : State :=
  errHalt (updStn s n (fun t => { t with mv := none })) n 0x0502

/-- What a MOVE does with what the read of unit `i` delivers (06 R231, R239, R241; 09 R338). -/
def movedUnit (n dst i a : Nat) (c : State × List (Nat × Nat) × Nat) (r : ReadOut) : State :=
  match r.fail with
  | some _ => moveFail r.s n
  | none => schedule r.s n 2 false (.moved n dst ((List.range 256).map (fun j => (256 * i + j, stnByte c r (a + j)))))

/-- Unit `i` of a MOVE; a landing buffer in which no baton is HELD, or in which another has overwritten the one that
the MOVE reads, gives free values (02 R63, R70, R76; 06 R231, R239, R243; log 12). -/
def moveUnit (s : State) (n : Nat) (lbuf : Option (Lane × Nat)) (dst src i : Nat) (spoiled : Option Nat) : State :=
  match lbuf with
  | some (l, b) =>
    let x := lb s n l b
    let d := draw s
    let byte (k : Nat) : Byte := match spoiled with
      | some e => Config.freeByte e k
      | none => if holds x then batonByte x.baton k else Config.freeByte d.2 k
    let bs := (List.range 256).map (fun j => (256 * i + j, byte (src + 256 * i + j)))
    schedule (if holds x then s else d.1) n 2 false (.moved n dst bs)
  | none =>
    let a := pocketAddr n (src + 256 * i)
    let c := cloud (fsIf s (stalePocket s n (src + 256 * i) 256) n 3) n a 256
    movedUnit n dst i a c (readMem c.1 a 256)

/-- Unit `i`, 64 elements, of a CVT (06 R231, R233, R239; 04 R154, R161). -/
def cvtUnit (s : State) (n : Nat) (dst src i fIn : Nat) (sIn : Bool) (fOut : Nat) (sOut stoch prop : Bool)
    (group : Option Nat) : State :=
  match Fmt.ofCode fIn, Fmt.ofCode fOut with
  | some f, some g =>
    let j := i / 256
    let q := 2 * (i % 256)
    let a := pocketAddr n (src + j * storedBytes fIn sIn)
    let offs := [elemOffset f (32 * q), elemOffset f (32 * q + 63)]
      ++ (if sIn then [payloadBytes f + scaleOfRun q, payloadBytes f + scaleOfRun (q + 1)] else [])
    let lo := a + elemOffset f (32 * q)
    let o := src + j * storedBytes fIn sIn
    let stale := stalePocket s n (o + elemOffset f (32 * q)) (8 * fmtBits f)
      || (sIn && staleAt s n [o + payloadBytes f + scaleOfRun q, o + payloadBytes f + scaleOfRun (q + 1)])
    let w := cloud (fsIf s stale n 3) n a (storedBytes fIn sIn)
    let r := readMem w.1 lo (8 * fmtBits f)
    let r2 := if sIn then readMem r.s (a + payloadBytes f + scaleOfRun q) 1 else { s := r.s }
    let r3 := if sIn then readMem r2.s (a + payloadBytes f + scaleOfRun (q + 1)) 1 else { s := r2.s }
    if r.fail.isSome || r2.fail.isSome || r3.fail.isSome || offs.isEmpty then moveFail r3.s n
    else
      let rd : ReadOut := { s := r3.s, mis := r.mis ++ r2.mis ++ r3.mis }
      let vals := (List.range 64).map (fun k =>
        let code := elemCode f (fun b => stnByte w rd (a + b)) (32 * q + k)
        if sIn then decodeScaled f code (stnByte w rd (a + payloadBytes f + scaleOfRun (q + k / 32))).toNat
        else decodeElem f false code)
      let c := convert g sOut stoch prop 2 (stn r3.s n).lfsr vals
      let s := updStn r3.s n (fun t => { t with lfsr := c.lfsr })
      let s := countNonFin s group c.count
      let bs := packCodes g c.codes
      let base := j * storedBytes fOut sOut
      let out := ((List.range bs.length).zip bs).map (fun e => (base + elemOffset g (32 * q) + e.1, e.2))
        ++ (if sOut then
          ((List.range 2).zip c.scales).map (fun e =>
            (base + payloadBytes g + scaleOfRun (q + e.1), BitVec.ofNat 8 e.2)) else [])
      schedule s n (1 + 256 * (j + 1) - i) false (.moved n dst out)
  | _, _ => s

/-- The move unit in one cycle: the next unit of the running operation (06 R232, R239). -/
def moveTick (s : State) (n : Nat) : State :=
  match (stn s n).mv with
  | none => s
  | some r =>
    if r.done < unitsOf r.op && r.done + 1 ≤ runAge s n r then
      let s := updStn s n (fun t => { t with mv := t.mv.map (fun r => { r with done := r.done + 1 }) })
      match r.op with
      | .move l d o _ => moveUnit s n l d o r.done r.spoiled
      | .cvt d o _ fi si fo so st pr gr => cvtUnit s n d o r.done fi si fo so st pr gr
    else s

end Sys2Proof.Machine
end

