-- ==== Sys2Proof/Machine/Flags.lean ====
section
/-! DEFINITION. Predicate results: the conditions of CMP and the functions of PLOG (06 R223). -/
namespace Sys2Proof.Machine
open Sys2Proof

/-- A condition of CMP: 0 eq, 1 ne, 2 lt, 3 ge, 4 ltu, 5 geu; 6 and 7 are reserved (06 R223). -/
def cmpCond (cond : Nat) (a b : W64) : Option Bool :=
  match cond with
  | 0 => some (a == b)
  | 1 => some (a != b)
  | 2 => some (a.slt b)
  | 3 => some (!a.slt b)
  | 4 => some (a.ult b)
  | 5 => some (!a.ult b)
  | _ => none

/-- A function of PLOG: 0 and, 1 or, 2 xor, 3 and-not (06 R223). -/
def plogFn (fn : Nat) (a b : Bool) : Option Bool :=
  match fn with
  | 0 => some (a && b)
  | 1 => some (a || b)
  | 2 => some (a != b)
  | 3 => some (a && !b)
  | _ => none

end Sys2Proof.Machine
end

