-- ==== Sys2Proof/Machine/Scalar.lean ====
section
/-! DEFINITION. The scalar sequencer of a station: arithmetic, predicates, branches and loops (06 R220 to
R224, R239). -/
namespace Sys2Proof.Machine
open Sys2Proof

/-- The end stride of active loops: the counters fall, most recent loop first; the first that stays
non-zero repeats its body (06 R224.3). -/
def loopEnd (pc : Nat) : List (Nat × Nat × Nat) → Table W32 → Option Nat × List (Nat × Nat × Nat) × Table W32
  | [], lc => (none, [], lc)
  | (k, first, last) :: t, lc =>
    if last = pc then
      let v := lc.get 0 k - 1
      if v ≠ 0 then (some first, (k, first, last) :: t, lc.set k v)
      else loopEnd pc t (lc.set k v)
    else
      let r := loopEnd pc t lc
      (r.1, (k, first, last) :: r.2.1, r.2.2)

/-- The sequencer passes its stride: loops at their end stride, then the next stride (06 R217, R224). -/
def passStride (t : Station) (cyc : Nat) : Station :=
  let r := loopEnd t.pc t.loops t.lc
  { t with lc := r.2.2, loops := r.2.1, pc := (match r.1 with | some f => f | none => (t.pc + 1) % 16384)
           nextCyc := cyc + 1, released := false, wdog := 0, issued := some (cyc, t.pc) }

/-- The station passes to its next stride. -/
def advance (s : State) (n : Nat) : State := updStn s n (fun t => passStride t (cycOf s n))

/-- A scalar operation that writes `rd` after its latency (06 R223, R239). -/
def scalarOp (n rd after : Nat) (reads : List Nat) (v : W64) (s : State) : Out :=
  if !acts s n then .next s
  else .next (advance (putX (seeX s n reads) n rd after true v) n)

/-- NOP. -/
def execNop (n : Nat) (s : State) : Out := if !acts s n then .next s else .next (advance s n)

/-- ADD: rd ← rs1 + rs2 modulo 2^64. -/
def execAdd (n rd a b : Nat) (s : State) : Out := scalarOp n rd 1 [a, b] (xreg s n a + xreg s n b) s
/-- SUB: rd ← rs1 − rs2 modulo 2^64. -/
def execSub (n rd a b : Nat) (s : State) : Out := scalarOp n rd 1 [a, b] (xreg s n a - xreg s n b) s
/-- AND. -/
def execAnd (n rd a b : Nat) (s : State) : Out := scalarOp n rd 1 [a, b] (xreg s n a &&& xreg s n b) s
/-- OR. -/
def execOr (n rd a b : Nat) (s : State) : Out := scalarOp n rd 1 [a, b] (xreg s n a ||| xreg s n b) s
/-- XOR. -/
def execXor (n rd a b : Nat) (s : State) : Out := scalarOp n rd 1 [a, b] (xreg s n a ^^^ xreg s n b) s
/-- SLL: by rs2[5:0]. -/
def execSll (n rd a b : Nat) (s : State) : Out :=
  scalarOp n rd 1 [a, b] (xreg s n a <<< ((xreg s n b).toNat % 64)) s
/-- SRL: by rs2[5:0]. -/
def execSrl (n rd a b : Nat) (s : State) : Out :=
  scalarOp n rd 1 [a, b] (xreg s n a >>> ((xreg s n b).toNat % 64)) s
/-- SRA: by rs2[5:0], arithmetic. -/
def execSra (n rd a b : Nat) (s : State) : Out :=
  scalarOp n rd 1 [a, b] ((xreg s n a).sshiftRight ((xreg s n b).toNat % 64)) s
/-- ADDI: rd ← rs1 + imm27, sign-extended. -/
def execAddi (n rd a : Nat) (imm : Int) (s : State) : Out :=
  scalarOp n rd 1 [a] (xreg s n a + BitVec.ofInt 64 imm) s
/-- LI: rd ← imm32, sign-extended. -/
def execLi (n rd : Nat) (imm : Int) (s : State) : Out := scalarOp n rd 1 [] (BitVec.ofInt 64 imm) s
/-- LIH: rd[63:32] ← imm32; rd[31:0] unchanged. -/
def execLih (n rd imm : Nat) (s : State) : Out :=
  scalarOp n rd 1 [rd] (BitVec.ofNat 64 (imm % 2 ^ 32 * 2 ^ 32 + (xreg s n rd).toNat % 2 ^ 32)) s
/-- MUL: the low 64 bits, after 3 cycles. -/
def execMul (n rd a b : Nat) (s : State) : Out := scalarOp n rd 3 [a, b] (xreg s n a * xreg s n b) s

/-- CMP: pd ← rs1 cond rs2; conditions 6 and 7 are reserved and stand in no loaded course (06 R217). -/
def execCmp (n pd a b cond : Nat) (s : State) : Out :=
  if !acts s n then .next s
  else
    match cmpCond cond (xreg s n a) (xreg s n b) with
    | some v => .next (advance (putP (seeX s n [a, b]) n pd v) n)
    | none => .next s

/-- PLOG: pd ← pa fn pb. -/
def execPlog (n pd a b fn : Nat) (s : State) : Out :=
  if !acts s n then .next s
  else
    match plogFn fn (preg s n a) (preg s n b) with
    | some v => .next (advance (putP (fsIf s (staleP s n a || staleP s n b) n 3) n pd v) n)
    | none => .next s

/-- BR: the target issues after 2 empty program cycles; loops whose body the target leaves end
(06 R224). -/
def execBr (n target : Nat) (s : State) : Out :=
  if !acts s n then .next s
  else
    .next (updStn (advance s n) n (fun t =>
      { t with pc := target % 16384, nextCyc := cycOf s n + 3
               loops := t.loops.filter (fun l => decide (l.2.1 ≤ target) && decide (target ≤ l.2.2)) }))

/-- LOOP: a counted loop over the strides after it up to `last`; with count 0 the body is skipped
(06 R224). -/
def execLoop (n lc rs1 last : Nat) (s : State) : Out :=
  if !acts s n then .next s
  else
    let count : W32 := (xreg s n rs1).setWidth 32
    let pc := (stn s n).pc
    let s' := advance (seeX s n [rs1]) n
    .next (updStn s' n (fun t =>
      let ls := t.loops.filter (fun l => l.1 ≠ lc)
      if count = 0 then
        { t with lc := t.lc.set lc count, loops := ls, pc := (last + 1) % 16384, nextCyc := cycOf s n + 3 }
      else
        { t with lc := t.lc.set lc count, loops := (lc, (pc + 1) % 16384, last) :: ls }))

/-- HALT: the station issues no further stride in the RUN (06 R224.5). -/
def execStationHalt (n : Nat) (s : State) : Out :=
  if !acts s n then .next s else .next (updStn (advance s n) n halted)

end Sys2Proof.Machine
end

