-- ==== Sys2Proof/Machine/Cycle.lean ====
section
/-! DEFINITION. A tick of the module's clocks: program cycles and held cycles of the clusters, what is due in
them, and the issue of strides (03 R107, R117, R131; 06 R219, R220, R236, R239, R240, R244, R251; 14 R481; log 5). -/
namespace Sys2Proof.Machine
open Sys2Proof

/-- The state after a command that the tick gives. -/
def runOn (s : State) (f : State → Out) : State := afterOut s (f s)

/-- Runs a command for each of a list. -/
def runEach {α : Type} (s : State) (l : List α) (f : α → State → Out) : State := l.foldl (fun s x => runOn s (f x)) s

/-- The stride index that a station issued in the present cycle, or the one it waits to issue (06 R253). -/
def overPc (s : State) (n : Nat) : Nat :=
  match (stn s n).issued with
  | some (c, i) => if c = cycOf s n then i else (stn s n).pc
  | none => (stn s n).pc

/-- A cycle over the token ceiling: 1 held cycle, the count, the event and the detector's check 7
(06 R244, R248, R252, R253). -/
def tokenOver (s : State) (g : Nat) : State :=
  if (clu s g).tok ≤ ceiling s g then s
  else
    let s := updClu s g (fun c => { c with hold := max c.hold 1 })
    let s := raise (bump s (regKey (g / 12) (0x200 + 8 * (g % 12))) 32 32 1) 0x0920 (g / 12) (g % 12) none
    match stationsOf s g with
    | n :: _ => fsFailAt s n (overPc s n) 7
    | [] => s

/-- PWR_TOKEN_OVER: the cycle that ends cost more than the cluster's ceiling (06 R244). -/
def execPwrTokenOver (g : Nat) (s : State) : Out :=
  if !live s g || (clu s g).tok ≤ ceiling s g then .next s
  else .next (updClu (tokenOver s g) g (fun c => { c with tok := 0 }))

/-- An array is listed with its sweeps at the row that the present cycle takes (03 R131). -/
def listArr (s : State) (n a : Nat) : State :=
  if s.arrs.any (fun e => e.1 = 2 * n + a) then s
  else
    let r : Acc := { sweep := (cycOf s n + 127) % 128 }
    { s with arrs := s.arrs.set (2 * n + a) { accs := [(0, r), (1, r)] } }

/-- Row by row, the drains of an array; a drained accumulator that becomes free starts its sweep again
(03 R107, R131). -/
def drainCycle (s : State) (n a : Nat) : State :=
  match (arr s n a).drains.find? (fun d => decide (d.row < drainLen d)) with
  | none => s
  | some d =>
    let s := drainRow s n a d d.row
    let atEnd := d.row + 1 = drainLen d
    updArr s n a (fun x =>
      let x := { x with drains := x.drains.map (fun e => if e.start = d.start then { e with row := e.row + 1 } else e) }
      if atEnd then
        (if d.complex then [0, 1] else [d.f.acc]).foldl (fun x i => updAcc x i (fun y => { y with sweep := 0 })) x
      else x)

/-- An array's part in a program cycle: a row of its drain, its token while it drains, its sweeps (03 R107, R117,
R131). -/
def arrayCycle (s : State) (n a : Nat) : State :=
  if s.arrs.any (fun e => e.1 = 2 * n + a) then
    let x := arr s n a
    let c := cycOf s n
    let s := drainCycle s n a
    let s := if drainingArr x c && x.macAt ≠ some c then addTok s (cluOf n) 1 else s
    sweepAcc (sweepAcc s n a 0) n a 1
  else s

/-- Stations of a cluster that issued a stride in the present cycle. -/
def issuedNow (s : State) (g : Nat) : Bool :=
  (stationsOf s g).any (fun n => match (stn s n).issued with | some (c, _) => c = cycOf s n | none => false)

/-- The end of a program cycle: drains, sweeps, move units, the token meter and the held cycles that follow
(02 R64; 03 R107, R131; 06 R239, R240, R244, R251). -/
def endCycle (s : State) (g : Nat) : State :=
  let s := (stationsOf s g).foldl (fun s n => moveTick (arrayCycle (arrayCycle s n 0) n 1) n) s
  let more := (clu s g).bpWait || (debugCourse s && issuedNow s g)
  let s := tokenOver s g
  updClu s g (fun c => { c with tok := 0, ended := true, hold := if more then max c.hold 1 else c.hold })

/-- Cycles in which a unit issues nothing are counted (08 R323). -/
def watchCycle (s : State) (g : Nat) : State :=
  let s := (stationsOf s g).foldl (fun s n =>
    if (stn s n).run = .issuing || (stn s n).run = .waiting then updStn s n (fun t => { t with wdog := t.wdog + 1 }) else s) s
  if (gcOf s g).state = .xhwait then updGc s g (fun c => { c with wdog := c.wdog + 1 }) else s

/-- A write of a station reaches its pocket; one whose read fails halts the station (06 R239; 09 R340). -/
def landPocket (s : State) (n addr : Nat) (bs : List (Nat × Byte)) : State :=
  let r := putMem s (bs.map (fun e => (pocketAddr n (addr + e.1), e.2)))
  if r.2 then r.1 else errHalt r.1 n 0x0502

/-- A timed effect becomes readable (03 R104, R123; 02 R60; 06 R239). -/
def landEff (s : State) (e : Eff) : State :=
  match e with
  | .reg n r v => updStn s n (fun t => { t with x := t.x.set r v })
  | .pred n p v => updStn s n (fun t => { t with p := t.p.set p v })
  | .pocket n a bs | .moved n a bs => landPocket s n a bs
  | .lbBytes n l b bs =>
    updLb s n l b (fun x => { x with written := true
                                     baton := { x.baton with body := bs.foldl (fun t e => t.set e.1 e.2) x.baton.body } })
  | .mset n a c => updArr s n a (fun x => { x with cfg := some c, k := 0, sub := 0 })
  | .mask n a t v =>
    updArr s n a (fun x => match t with
      | 0 => { x with rowLo := v }
      | 1 => { x with rowHi := v }
      | _ => { x with blk := v })
  | .seed n v => updStn s n (fun t => { t with lfsr := v })
  | .free n i o => updStn s n (fun t => freeLane (freeLane t .inner i) .outer o)

/-- Every effect of a cluster that is due lands, in issue order (06 R221, R239). -/
def landDue (s : State) (g : Nat) : State :=
  let c := clu s g
  let due (t : Timed) : Bool := decide (t.due ≤ c.cyc)
  (c.timed.filter due).foldl (fun s t => landEff s t.eff)
    (updClu s g (fun c => { c with timed := c.timed.filter (fun t => !due t) }))

/-- Both lanes. -/
def lanes : List Lane := [.inner, .outer]

/-- What is due on the hop of a lane into a station, within the cluster (02 R59, R61, R68). -/
def hopCycle (s : State) (n : Nat) (l : Lane) : State :=
  let s := runEach s [0, 1, 2, 3] (fun b s =>
    if (lb s n l b).doneAt.isSome then execBatonLanded n l b s else .next s)
  match hop s n l with
  | f :: _ =>
    if !f.inCluster then s
    else if f.waiting then runOn s (execBatonWaitEnd n l)
    else runOn s (execHeaderTransferArrive n l)
  | [] => s

/-- A held cycle of an output port whose second SEND waits: the lane port and its hop keep running
(06 R227, R240). -/
def portHeld' (s : State) (n : Nat) (l : Lane) : State :=
  if (port s n l).second.isNone then s
  else
    let s := updPort s n l (fun p => { p with idleAt := p.idleAt - 1 })
    let s := match neighbour s n l with
      | some m =>
        let mine (f : Flight) : Bool := f.sender = n && f.inCluster
        let bufs := ((hop s m l).filter (fun f => mine f && f.landing)).map (·.dst)
        let s := updHop s m l ((hop s m l).map (fun f => if mine f then { f with due := f.due - 1 } else f))
        hopCycle (bufs.foldl (fun s b => updLb s m l b (fun x => { x with doneAt := x.doneAt.map (· - 1) })) s) m l
      | none => s
    runOn s (execSendQueuedStart n l)

/-- A held cycle of a move unit whose second operation waits: the unit keeps running (06 R232, R240). -/
def moveHeld (s : State) (n : Nat) : State :=
  if (stn s n).mvSecond.isNone then s
  else
    let own (t : Timed) : Bool := match t.eff with | .moved m _ _ => m = n | _ => false
    let s := updStn s n (fun t => { t with mv := t.mv.map (fun r => { r with slip := r.slip + 1 }) })
    let s := updClu s (cluOf n) (fun c =>
      { c with timed := c.timed.map (fun t => if own t then { t with due := t.due - 1 } else t) })
    let c := clu s (cluOf n)
    let now (t : Timed) : Bool := own t && decide (t.due ≤ c.cyc)
    let s := (c.timed.filter now).foldl (fun s t => landEff s t.eff)
      (updClu s (cluOf n) (fun c => { c with timed := c.timed.filter (fun t => !now t) }))
    runOn (moveTick s n) (execMoveUnitStart n)

/-- A held cycle (06 R240; 08 R323). -/
def heldCycle (s : State) (g : Nat) : State :=
  let s := watchCycle (updClu s g (fun c => { c with hold := c.hold - 1 })) g
  (stationsOf s g).foldl (fun s n => moveHeld (portHeld' (portHeld' s n .inner) n .outer) n) s

/-- Some station of a cluster holds it by a second SEND, MOVE or CVT (06 R227, R232). -/
def secondWaits (s : State) (g : Nat) : Bool :=
  (stationsOf s g).any (fun n => (port s n .inner).second.isSome || (port s n .outer).second.isSome
    || (stn s n).mvSecond.isSome)

/-- Counted adds whose cycle has come reach their counters (06 R237). -/
def landAdds (s : State) (g : Nat) : State :=
  let due (a : Add) : Bool := match a.due with | some (h, _) => h = g && addReady s a | none => false
  (s.adds.filter due).foldl (fun s a => applyAdd s a.c a.n) { s with adds := s.adds.filter (fun a => !due a) }

/-- Waiting stations of a cluster that a value has released resume, those on core and cluster counters in the cycle of
the release; a long-hint WAIT is satisfied at no counted cycle, and WAIT_RELEASE ends it (06 R237; 08 R306, R321). -/
def releaseCycle (s : State) (g : Nat) : State :=
  let counted (c : Ctr) : Bool := !registers c
  let s := runEach s (stationsOf s g) (fun n s =>
    match (stn s n).pend with
    | some (.wait c _ long) =>
      if !long && (counted c || (stn s n).released) then execWaitRelease (.station n) s else .next s
    | _ => .next s)
  match (gcOf s g).waitCtr with
  | some c => if counted c then runOn s (execWaitRelease (.gc g)) else s
  | none => s

/-- What a program cycle brings before its strides: effects that are due, landings, counted adds, drains that
complete, waiting SENDs and moves, loans that end, releases. -/
def dueCycle (s : State) (g : Nat) : State :=
  let s := landDue s g
  let ns := stationsOf s g
  let s := ns.foldl (fun s n => lanes.foldl (fun s l => hopCycle s n l) s) s
  let s := landAdds s g
  let s := runEach s (ns.flatMap (fun n => [(n, 0), (n, 1)])) (fun e => execDrainComplete e.1 e.2)
  let s := runEach s (ns.flatMap (fun n => lanes.map (fun l => (n, l)))) (fun e => execSendQueuedStart e.1 e.2)
  let s := runEach s ns execMoveUnitStart
  let s := runEach s ((clu s g).loans.map (·.station)) (execBorrowWindowEnd g)
  releaseCycle s g

/-- The stride that a read of 32 bytes delivers (06 R217). -/
def strideOf (n pc a : Nat) (r : ReadOut) : State × Option Stride :=
  (r.s, if r.fail.isSome then none else decodeStride n pc (ofLe (readBytes r a 32)))

/-- The stride at a station's program counter, read from its pocket (06 R215, R217). -/
def fetchStride (s : State) (n : Nat) : State × Option Stride :=
  let pc := (stn s n).pc
  let a := pocketAddr n (32 * pc)
  strideOf n pc a (readMem s a 32)

/-- A MAC of a stride that is predicated off costs its tokens (03 R117; 06 R219). -/
def offTokens (s : State) (n a : Nat) (i : Option Instr) : State :=
  match i with
  | some (.mac _ _ m) =>
    updArr (addTok s (cluOf n) (macTokens s n a m)) n a (fun x => { x with macAt := some (cycOf s n) })
  | _ => s

/-- A hurdle operation that makes its stride wait (06 R236). -/
def gates (s : State) (n : Nat) (i : Instr) : Bool :=
  match i with
  | .wait _ sc k rs _ => !satisfied (ctrVal s (ctrOf n sc k)) ((xreg s n rs).setWidth 32)
  | .borrow _ _ _ => true
  | _ => false

/-- The operations of a stride but its hurdle slot, the scalar slot last. -/
def slotsOf (d : Stride) : List Instr :=
  d.sendOp.toList ++ d.freeOp.toList ++ d.a.toList ++ d.b.toList ++ d.fm.toList ++ [d.sc]

/-- What a station issues in this cycle: every slot of its stride; its hurdle alone where the stride waits or the
station halts there; a NOP where the predicate is false (06 R219, R220, R236; 16 R524; log 48). -/
def issueStn (s : State) (n : Nat) : State × List Instr :=
  let r := fetchStride s n
  match r.2 with
  | none => (errHalt (updStn r.1 n halted) n 0x0502, [])
  | some d =>
    let s := fsIf r.1 (staleP r.1 n d.pred) n 3
    let s := if d.a.isSome then listArr s n 0 else s
    let s := if d.b.isSome then listArr s n 1 else s
    if preg s n d.pred = d.pneg then (offTokens (offTokens s n 0 d.a) n 1 d.b, [.nop n])
    else
      match d.hu with
      | none => (s, slotsOf d)
      | some h =>
        if (stn s n).released then (s, slotsOf d)
        else if (stn s n).haltNext then (s, [h])
        else if gates s n h then (s, [h])
        else (s, h :: slotsOf d)

/-- The strides of a program cycle: every station of the cluster that issues (06 R220, R242). -/
def issueCycle (s : State) (g : Nat) : State :=
  (stationsOf s g).foldl (fun s n =>
    if (stn s n).run = .issuing && decide ((stn s n).nextCyc ≤ (clu s g).cyc) then
      let r := issueStn s n
      { r.1 with pending := r.1.pending ++ r.2 }
    else s) s

/-- A program cycle starts. -/
def startCycle (s : State) (g : Nat) : State :=
  issueCycle (watchCycle (dueCycle (updClu s g (fun c => { c with cyc := c.cyc + 1, ended := false })) g) g) g

/-- One cycle of a cluster's clock: the last program cycle ends; then a held cycle or the next program cycle
(06 R240). -/
def clusterTick (s : State) (g : Nat) : State :=
  let s := if (clu s g).ended then s else endCycle s g
  if 0 < (clu s g).hold || secondWaits s g then heldCycle s g else startCycle s g

/-- A stretched period is counted, in an open job in CLK_CLU too (14 R481, R499). -/
def stretchTick (s : State) (g : Nat) : State :=
  if (clu s g).stretch = 0 && !stretched s g then s
  else
    let s := updClu s g (fun c => { c with stretch := 0, stretches := c.stretches + 1 })
    if sealedJob s then s else bump s (regKey (g / 12) (0x2800 + 8 * (g % 12))) 32 32 1

/-- An edge of a cluster's clock: its cycles and its general core run from the start of a RUN, and a dump holds them
(06 R240, R242, R256; 08 R326). -/
def clusterEdge (s : State) (g : Nat) : State :=
  let s := stretchTick s g
  if s.jobState = 3 && s.run.started && s.dump.state ≠ 1 then gcEdge (clusterTick s g) g else s

/-- A tick: fixed time passes and the clocks of some clusters have an edge (14 R476, R477; log 5, 13). -/
def tick (s : State) : State :=
  if !s.power.fixedOn || s.power.stopped then s
  else
    let d := draw s
    let s := { d.1 with timeNs := s.timeNs + Config.nsPerTick d.2 }
    ((List.range 96).filter (fun g => Config.clockEdge d.2 g)).foldl (fun s g =>
      if live s g && decide (7 ≤ s.power.stage) then clusterEdge s g else s) s

end Sys2Proof.Machine
end

