-- ==== Sys2Proof/Machine/Dispatch.lean ====
section
/-! DEFINITION. The meaning of every command, one arm per constructor. -/
namespace Sys2Proof.Machine
open Sys2Proof

/-- What a command does to everything but the queue. -/
def exec (i : Instr) (s : State) : Host.Outcome State Fault Refusal :=
  match i with
  | .identify src addr => Sys2Proof.Machine.execIdentify src addr s
  | .loadCourse src addr len img dmaError => Sys2Proof.Machine.execLoadCourse src addr len img dmaError s
  | .openWindow src cfg => Sys2Proof.Machine.execOpenWindow src cfg s
  | .closeWindow src cluster window => Sys2Proof.Machine.execCloseWindow src cluster window s
  | .closeWindowDone src cluster window => Sys2Proof.Machine.execCloseWindowDone src cluster window s
  | .run src => Sys2Proof.Machine.execRun src s
  | .runStart => Sys2Proof.Machine.execRunStart s
  | .runComplete => Sys2Proof.Machine.execRunComplete s
  | .halt src => Sys2Proof.Machine.execHalt src s
  | .copy src p inp => Sys2Proof.Machine.execCopy src p inp s
  | .provisionKey src addr len slot kind w => Sys2Proof.Machine.execProvisionKey src addr len slot kind w s
  | .attest src nonce addr len => Sys2Proof.Machine.execAttest src nonce addr len s
  | .snapshot src dest limit kind fmt scaled mask => Sys2Proof.Machine.execSnapshot src dest limit kind fmt scaled mask s
  | .snapshotChunkRead gw chunk => Sys2Proof.Machine.execSnapshotChunkRead gw chunk s
  | .dumpTake src addr => Sys2Proof.Machine.execDumpTake src addr s
  | .dumpCopyLast src addr => Sys2Proof.Machine.execDumpCopyLast src addr s
  | .selftestUnit src kind index => Sys2Proof.Machine.execSelftestUnit src kind index s
  | .selftestModule src => Sys2Proof.Machine.execSelftestModule src s
  | .setBudget src cap => Sys2Proof.Machine.execSetBudget src cap s
  | .endJob src => Sys2Proof.Machine.execEndJob src s
  | .readTelemetry src addr page => Sys2Proof.Machine.execReadTelemetry src addr page s
  | .vaultRead src addr offset len area => Sys2Proof.Machine.execVaultRead src addr offset len area s
  | .setWatch src group cfg clearFrozen => Sys2Proof.Machine.execSetWatch src group cfg clearFrozen s
  | .setClockPolicy src scope mode mhz => Sys2Proof.Machine.execSetClockPolicy src scope mode mhz s
  | .armOffload src channel addr size => Sys2Proof.Machine.execArmOffload src channel addr size s
  | .readFaultMap src addr len => Sys2Proof.Machine.execReadFaultMap src addr len s
  | .linkDisable src port => Sys2Proof.Machine.execLinkDisable src port s
  | .linkEnable src port => Sys2Proof.Machine.execLinkEnable src port s
  | .linkRetrain src port => Sys2Proof.Machine.execLinkRetrain src port s
  | .linkStatus src port => Sys2Proof.Machine.execLinkStatus src port s
  | .linkLoopback src port => Sys2Proof.Machine.execLinkLoopback src port s
  | .loadSupplement src addr len supp dmaError => Sys2Proof.Machine.execLoadSupplement src addr len supp dmaError s
  | .sqEntryTake qp entry => Sys2Proof.Machine.execSqEntryTake qp entry s
  | .cmdSqTail qp value => Sys2Proof.Machine.execCmdSqTail qp value s
  | .cmdCqHead qp value => Sys2Proof.Machine.execCmdCqHead qp value s
  | .cmdEvtHead value => Sys2Proof.Machine.execCmdEvtHead value s
  | .qpEnable qp => Sys2Proof.Machine.execQpEnable qp s
  | .qpDisable qp => Sys2Proof.Machine.execQpDisable qp s
  | .evtRingEnable => Sys2Proof.Machine.execEvtRingEnable s
  | .warmReset value => Sys2Proof.Machine.execWarmReset value s
  | .registerWrite offset size value poisoned => Sys2Proof.Machine.execRegisterWrite offset size value poisoned s
  | .rcRead offset size => Sys2Proof.Machine.execRcRead offset size s
  | .bar2Read offset len => Sys2Proof.Machine.execBar2Read offset len s
  | .bar2Write offset data poisoned => Sys2Proof.Machine.execBar2Write offset data poisoned s
  | .eventRecordWrite => Sys2Proof.Machine.execEventRecordWrite s
  | .msiXSend vector => Sys2Proof.Machine.execMsiXSend vector s
  | .hostLinkDown => Sys2Proof.Machine.execHostLinkDown s
  | .pcieLinkUp speed width flit => Sys2Proof.Machine.execPcieLinkUp speed width flit s
  | .send n srcLane srcBuf outLane dstBuf => Sys2Proof.Machine.execSend n srcLane srcBuf outLane dstBuf s
  | .sendQueuedStart n outLane => Sys2Proof.Machine.execSendQueuedStart n outLane s
  | .free n inner outer => Sys2Proof.Machine.execFree n inner outer s
  | .mset n a f => Sys2Proof.Machine.execMset n a f s
  | .mac n a f => Sys2Proof.Machine.execMac n a f s
  | .drain n a f => Sys2Proof.Machine.execDrain n a f s
  | .drainComplete n a => Sys2Proof.Machine.execDrainComplete n a s
  | .rowSweep n a => Sys2Proof.Machine.execRowSweep n a s
  | .mask n a target rs => Sys2Proof.Machine.execMask n a target rs s
  | .hdrld n rd lane buf sel => Sys2Proof.Machine.execHdrld n rd lane buf sel s
  | .ld n rd base offset => Sys2Proof.Machine.execLd n rd base offset s
  | .st n rs base offset => Sys2Proof.Machine.execSt n rs base offset s
  | .move n f => Sys2Proof.Machine.execMove n f s
  | .cvt n f => Sys2Proof.Machine.execCvt n f s
  | .moveUnitStart n => Sys2Proof.Machine.execMoveUnitStart n s
  | .strm n engine raddr rcount => Sys2Proof.Machine.execStrm n engine raddr rcount s
  | .rearm n engine rbase => Sys2Proof.Machine.execRearm n engine rbase s
  | .seed n rs => Sys2Proof.Machine.execSeed n rs s
  | .nop n => Sys2Proof.Machine.execNop n s
  | .add n rd rs1 rs2 => Sys2Proof.Machine.execAdd n rd rs1 rs2 s
  | .sub n rd rs1 rs2 => Sys2Proof.Machine.execSub n rd rs1 rs2 s
  | .and n rd rs1 rs2 => Sys2Proof.Machine.execAnd n rd rs1 rs2 s
  | .or n rd rs1 rs2 => Sys2Proof.Machine.execOr n rd rs1 rs2 s
  | .xor n rd rs1 rs2 => Sys2Proof.Machine.execXor n rd rs1 rs2 s
  | .sll n rd rs1 rs2 => Sys2Proof.Machine.execSll n rd rs1 rs2 s
  | .srl n rd rs1 rs2 => Sys2Proof.Machine.execSrl n rd rs1 rs2 s
  | .sra n rd rs1 rs2 => Sys2Proof.Machine.execSra n rd rs1 rs2 s
  | .addi n rd rs1 imm => Sys2Proof.Machine.execAddi n rd rs1 imm s
  | .li n rd imm => Sys2Proof.Machine.execLi n rd imm s
  | .lih n rd imm => Sys2Proof.Machine.execLih n rd imm s
  | .mul n rd rs1 rs2 => Sys2Proof.Machine.execMul n rd rs1 rs2 s
  | .cmp n pd rs1 rs2 cond => Sys2Proof.Machine.execCmp n pd rs1 rs2 cond s
  | .plog n pd pa pb fn => Sys2Proof.Machine.execPlog n pd pa pb fn s
  | .br n target => Sys2Proof.Machine.execBr n target s
  | .loop n lc rs1 last => Sys2Proof.Machine.execLoop n lc rs1 last s
  | .stationHalt n => Sys2Proof.Machine.execStationHalt n s
  | .arrive n scope index rs one => Sys2Proof.Machine.execArrive n scope index rs one s
  | .wait n scope index rs long => Sys2Proof.Machine.execWait n scope index rs long s
  | .signal n raddr rs one => Sys2Proof.Machine.execSignal n raddr rs one s
  | .borrow n tokens len => Sys2Proof.Machine.execBorrow n tokens len s
  | .borrowGrant g => Sys2Proof.Machine.execBorrowGrant g s
  | .borrowWindowEnd g station => Sys2Proof.Machine.execBorrowWindowEnd g station s
  | .eclipseEnter n => Sys2Proof.Machine.execEclipseEnter n s
  | .hurEclipseHeadroom g => Sys2Proof.Machine.execHurEclipseHeadroom g s
  | .pwrTokenOver g => Sys2Proof.Machine.execPwrTokenOver g s
  | .xharrive g rs1 rs2 => Sys2Proof.Machine.execXharrive g rs1 rs2 s
  | .xhwait g rd rs1 rs2 long => Sys2Proof.Machine.execXhwait g rd rs1 rs2 long s
  | .xhsignal g rs1 rs2 => Sys2Proof.Machine.execXhsignal g rs1 rs2 s
  | .xstrm g rd rs1 rs2 => Sys2Proof.Machine.execXstrm g rd rs1 rs2 s
  | .xrearm g rs1 rs2 => Sys2Proof.Machine.execXrearm g rs1 rs2 s
  | .xpld g vd rs1 rs2 fmt scaled tr => Sys2Proof.Machine.execXpld g vd rs1 rs2 fmt scaled tr s
  | .xpst g vs rs1 rs2 fmt scaled tr prop => Sys2Proof.Machine.execXpst g vs rs1 rs2 fmt scaled tr prop s
  | .xhread g rd rs1 => Sys2Proof.Machine.execXhread g rd rs1 s
  | .gcRunEndEcall g => Sys2Proof.Machine.execGcRunEndEcall g s
  | .invspd g retries => Sys2Proof.Machine.execInvspd g retries s
  | .gcException g cause => Sys2Proof.Machine.execGcException g cause s
  | .headerTransferArrive n lane => Sys2Proof.Machine.execHeaderTransferArrive n lane s
  | .batonWaitEnd n lane => Sys2Proof.Machine.execBatonWaitEnd n lane s
  | .batonLanded n lane buf => Sys2Proof.Machine.execBatonLanded n lane buf s
  | .transferRetransmit n lane start k got crc => Sys2Proof.Machine.execTransferRetransmit n lane start k got crc s
  | .ringReplayFail n lane => Sys2Proof.Machine.execRingReplayFail n lane s
  | .fabricRetransmit window edge cluster again got crc => Sys2Proof.Machine.execFabricRetransmit window edge cluster again got crc s
  | .ringFabReplayFail window edge cluster => Sys2Proof.Machine.execRingFabReplayFail window edge cluster s
  | .descriptorBurstFetch g e => Sys2Proof.Machine.execDescriptorBurstFetch g e s
  | .descriptorStart g e => Sys2Proof.Machine.execDescriptorStart g e s
  | .lbInject g e => Sys2Proof.Machine.execLbInject g e s
  | .descriptorComplete g e => Sys2Proof.Machine.execDescriptorComplete g e s
  | .strTimeout g e => Sys2Proof.Machine.execStrTimeout g e s
  | .strmPendingStart g e => Sys2Proof.Machine.execStrmPendingStart g e s
  | .winRequestCheck req => Sys2Proof.Machine.execWinRequestCheck req s
  | .offloadPrefetchVerify g e data => Sys2Proof.Machine.execOffloadPrefetchVerify g e data s
  | .oflHostError g e => Sys2Proof.Machine.execOflHostError g e s
  | .bankWake bank => Sys2Proof.Machine.execBankWake bank s
  | .bankRetainTimeout bank => Sys2Proof.Machine.execBankRetainTimeout bank s
  | .hurdleAddApply k => Sys2Proof.Machine.execHurdleAddApply k s
  | .hurdleNodeForward node => Sys2Proof.Machine.execHurdleNodeForward node s
  | .hurdleValueUpdate k => Sys2Proof.Machine.execHurdleValueUpdate k s
  | .waitRelease w => Sys2Proof.Machine.execWaitRelease w s
  | .jobHurdleRootApply index => Sys2Proof.Machine.execJobHurdleRootApply index s
  | .jobHurdleValueArrive index => Sys2Proof.Machine.execJobHurdleValueArrive index s
  | .signalNetResend node got crc => Sys2Proof.Machine.execSignalNetResend node got crc s
  | .hurNetFail node => Sys2Proof.Machine.execHurNetFail node s
  | .hurWatchdog w => Sys2Proof.Machine.execHurWatchdog w s
  | .hurDumpDone => Sys2Proof.Machine.execHurDumpDone s
  | .correctedWriteBack k => Sys2Proof.Machine.execCorrectedWriteBack k s
  | .patrolScrubRead unit => Sys2Proof.Machine.execPatrolScrubRead unit s
  | .dramRefresh unit => Sys2Proof.Machine.execDramRefresh unit s
  | .memRefreshRaised unit temp => Sys2Proof.Machine.execMemRefreshRaised unit temp s
  | .portUp p peerModule peerPort => Sys2Proof.Machine.execPortUp p peerModule peerPort s
  | .hofTrainFail p => Sys2Proof.Machine.execHofTrainFail p s
  | .portTrainRetry p => Sys2Proof.Machine.execPortTrainRetry p s
  | .hofPortDown p => Sys2Proof.Machine.execHofPortDown p s
  | .flitSlot p => Sys2Proof.Machine.execFlitSlot p s
  | .flitReceive p space counter bytes => Sys2Proof.Machine.execFlitReceive p space counter bytes s
  | .flitResend p space seq => Sys2Proof.Machine.execFlitResend p space seq s
  | .ackTimeout p space => Sys2Proof.Machine.execAckTimeout p space s
  | .hofRetryExhausted p space => Sys2Proof.Machine.execHofRetryExhausted p space s
  | .controlFlit p bytes => Sys2Proof.Machine.execControlFlit p bytes s
  | .signalFlit p ms => Sys2Proof.Machine.execSignalFlit p ms s
  | .winWrite p m => Sys2Proof.Machine.execWinWrite p m s
  | .winRead p m => Sys2Proof.Machine.execWinRead p m s
  | .readData p m => Sys2Proof.Machine.execReadData p m s
  | .winReply p m => Sys2Proof.Machine.execWinReply p m s
  | .chunkGrad gw m => Sys2Proof.Machine.execChunkGrad gw m s
  | .chunkGather gw m => Sys2Proof.Machine.execChunkGather gw m s
  | .chunkReply p m => Sys2Proof.Machine.execChunkReply p m s
  | .chunkTake gw => Sys2Proof.Machine.execChunkTake gw s
  | .updateGroup gw => Sys2Proof.Machine.execUpdateGroup gw s
  | .chunkApplied gw => Sys2Proof.Machine.execChunkApplied gw s
  | .lossReport gw m => Sys2Proof.Machine.execLossReport gw m s
  | .engineFinished gw => Sys2Proof.Machine.execEngineFinished gw s
  | .coordinatorVote => Sys2Proof.Machine.execCoordinatorVote s
  | .stepDecision => Sys2Proof.Machine.execStepDecision s
  | .stepAckDone => Sys2Proof.Machine.execStepAckDone s
  | .clockSourceStable src => Sys2Proof.Machine.execClockSourceStable src s
  | .missingEdge src => Sys2Proof.Machine.execMissingEdge src s
  | .clkRefLoss => Sys2Proof.Machine.execClkRefLoss s
  | .clkRefRestored => Sys2Proof.Machine.execClkRefRestored s
  | .clkXtalLoss => Sys2Proof.Machine.execClkXtalLoss s
  | .clockLossRestart => Sys2Proof.Machine.execClockLossRestart s
  | .rampStep g => Sys2Proof.Machine.execRampStep g s
  | .pacerTargetUpdate g => Sys2Proof.Machine.execPacerTargetUpdate g s
  | .droopStretch g depth => Sys2Proof.Machine.execDroopStretch g depth s
  | .pacThermal g temp => Sys2Proof.Machine.execPacThermal g temp s
  | .pacTimingFloor g => Sys2Proof.Machine.execPacTimingFloor g s
  | .pwrSupplyWarn mv => Sys2Proof.Machine.execPwrSupplyWarn mv s
  | .supplyRiseHoldStart mv => Sys2Proof.Machine.execSupplyRiseHoldStart mv s
  | .pwrSupplyClear => Sys2Proof.Machine.execPwrSupplyClear s
  | .supplyReset mv => Sys2Proof.Machine.execSupplyReset mv s
  | .pwrOvervoltage mv => Sys2Proof.Machine.execPwrOvervoltage mv s
  | .overvoltageShutdown mv => Sys2Proof.Machine.execOvervoltageShutdown mv s
  | .budgetSample mv ca p10 p1000 west10 west1000 east10 east1000 => Sys2Proof.Machine.execBudgetSample mv ca p10 p1000 west10 west1000 east10 east1000 s
  | .budgetGrantRaise => Sys2Proof.Machine.execBudgetGrantRaise s
  | .budgetGrantLower => Sys2Proof.Machine.execBudgetGrantLower s
  | .pwrAlert => Sys2Proof.Machine.execPwrAlert s
  | .alertRelease => Sys2Proof.Machine.execAlertRelease s
  | .thermalTrip sensor temp => Sys2Proof.Machine.execThermalTrip sensor temp s
  | .regulatorStart mv => Sys2Proof.Machine.execRegulatorStart mv s
  | .railGroupGood => Sys2Proof.Machine.execRailGroupGood s
  | .railFailure => Sys2Proof.Machine.execRailFailure s
  | .railRetry => Sys2Proof.Machine.execRailRetry s
  | .powerUp => Sys2Proof.Machine.execPowerUp s
  | .fixedDomainStart => Sys2Proof.Machine.execFixedDomainStart s
  | .romBoot hd0Good hd1Good => Sys2Proof.Machine.execRomBoot hd0Good hd1Good s
  | .vaultRecovery => Sys2Proof.Machine.execVaultRecovery s
  | .memoryTraining failed => Sys2Proof.Machine.execMemoryTraining failed s
  | .powerupZeroiseDone lpddr => Sys2Proof.Machine.execPowerupZeroiseDone lpddr s
  | .powerupSelftest => Sys2Proof.Machine.execPowerupSelftest s
  | .commandProcessorOpen => Sys2Proof.Machine.execCommandProcessorOpen s
  | .ready => Sys2Proof.Machine.execReady s
  | .perstNAssert => Sys2Proof.Machine.execPerstNAssert s
  | .perstNDeassert => Sys2Proof.Machine.execPerstNDeassert s
  | .faultStop => Sys2Proof.Machine.execFaultStop s
  | .selftestRun => Sys2Proof.Machine.execSelftestRun s
  | .ctlMoonLockstep die pair => Sys2Proof.Machine.execCtlMoonLockstep die pair s
  | .ctlSupervisorLockstep => Sys2Proof.Machine.execCtlSupervisorLockstep s
  | .ctlFailoverDone => Sys2Proof.Machine.execCtlFailoverDone s
  | .vaultTransaction => Sys2Proof.Machine.execVaultTransaction s
  | .eventLogCommit => Sys2Proof.Machine.execEventLogCommit s
  | .lifetimeTelemetryCommit => Sys2Proof.Machine.execLifetimeTelemetryCommit s
  | .pldmSensorUpdate readings => Sys2Proof.Machine.execPldmSensorUpdate readings s
  | .entdaa addr => Sys2Proof.Machine.execEntdaa addr s
  | .setdasa addr => Sys2Proof.Machine.execSetdasa addr s
  | .rstdaa => Sys2Proof.Machine.execRstdaa s
  | .setEndpointId op eid => Sys2Proof.Machine.execSetEndpointId op eid s
  | .getEndpointId => Sys2Proof.Machine.execGetEndpointId s
  | .getMctpVersionSupport msgType => Sys2Proof.Machine.execGetMctpVersionSupport msgType s
  | .getMessageTypeSupport => Sys2Proof.Machine.execGetMessageTypeSupport s
  | .getTid => Sys2Proof.Machine.execGetTid s
  | .setTid tid => Sys2Proof.Machine.execSetTid tid s
  | .getPldmVersion handle flag type => Sys2Proof.Machine.execGetPldmVersion handle flag type s
  | .getPldmTypes => Sys2Proof.Machine.execGetPldmTypes s
  | .getPldmCommands type version => Sys2Proof.Machine.execGetPldmCommands type version s
  | .getPdrRepositoryInfo => Sys2Proof.Machine.execGetPdrRepositoryInfo s
  | .getPdr record handle flag count => Sys2Proof.Machine.execGetPdr record handle flag count s
  | .getSensorReading sensor rearm => Sys2Proof.Machine.execGetSensorReading sensor rearm s
  | .getStateSensorReadings sensor => Sys2Proof.Machine.execGetStateSensorReadings sensor s
  | .getSensorThresholds sensor => Sys2Proof.Machine.execGetSensorThresholds sensor s
  | .enroll rec => Sys2Proof.Machine.execEnroll rec s
  | .unlock tok => Sys2Proof.Machine.execUnlock tok s
  | .mgtVaultRead offset len area => Sys2Proof.Machine.execMgtVaultRead offset len area s
  | .supplyFallDuringHold mv => Sys2Proof.Machine.execSupplyFallDuringHold mv s
  | .refreshRateLowered unit temp => Sys2Proof.Machine.execRefreshRateLowered unit temp s
  | .generalCoreLoadStore g op addr size => Sys2Proof.Machine.execGeneralCoreLoadStore g op addr size s

end Sys2Proof.Machine
end

