-- ==== Sys2Proof/Safety.lean ====
section
/-! DEFINITION. What counts as a safe run, the forms that the state's parts keep, and what the statements say of
a command: what it changes and that it changes nothing else. -/
namespace Sys2Proof.Machine
open Sys2Proof

/-- An outcome that goes on. -/
def Goes (o : Out) : Prop := ∃ t, o = .next t

/-- A run of `k` steps that meets no fault and no refusal. -/
def SafeRun (k : Nat) (s : State) : Prop := ∃ t : State, Host.Core.run Sys2Proof.core k s = .next t

/-- Both memories are in canonical form (log 10). -/
def MemoryOk (s : State) : Prop := Memory.wf s.mem = true ∧ Memory.wf s.hostMem = true

/-- What every step keeps: both memories are in canonical form, and the job state is one of the 5 of R447. -/
def Good (s : State) : Prop := MemoryOk s ∧ s.jobState ≤ 4

/-- Every byte of memory reads as before. -/
def SameBytes (s t : State) : Prop := ∀ a, memGet t.mem a = memGet s.mem a

/-- Only one station, its cluster and registers of the register region differ. -/
def OnlyStation (n : Nat) (s t : State) : Prop :=
  t = { s with stns := t.stns, clus := t.clus, regs := t.regs } ∧
  (∀ m, m ≠ n → stn t m = stn s m) ∧ (∀ g, g ≠ cluOf n → clu t g = clu s g) ∧
  (debugCourse s = false → t.regs = s.regs)

/-- A stride that ends no active loop. -/
abbrev NoLoopEnds (s : State) (n : Nat) : Prop := ∀ l ∈ (stn s n).loops, l.2.2 ≠ (stn s n).pc

/-- A station has passed its stride, and nothing of it but its place in the program differs: the stride after it
is next where it ends no active loop. -/
def Passed (n : Nat) (s t : State) : Prop :=
  (∃ a b c, stn t n = { stn s n with
      lc := a, loops := b, pc := c, nextCyc := cycOf s n + 1, released := false, wdog := 0
      issued := some (cycOf s n, (stn s n).pc) } ∧
    (NoLoopEnds s n → a = (stn s n).lc ∧ b = (stn s n).loops ∧ c = ((stn s n).pc + 1) % 16384))

/-- Nothing of the cluster of a station differs but the effects on their way in it. -/
def ClusterEffects (n : Nat) (s t : State) (l : List Timed) : Prop :=
  clu t (cluOf n) = { clu s (cluOf n) with timed := l }

/-- A scalar register result: it is readable `after` program cycles from now; a result for x0 is discarded; the
station passes to its next stride, and nothing else differs (06 R221 to R223, R239). -/
def ScalarResult (n rd after : Nat) (v : W64) (s t : State) : Prop :=
  OnlyStation n s t ∧ Passed n s t ∧
  ClusterEffects n s t (if rd = 0 then (clu s (cluOf n)).timed
    else addTimed ⟨cycOf s n + after, cycOf s n, true, .reg n rd v⟩ (clu s (cluOf n)).timed)

/-- A predicate result, readable in the next program cycle; one for p0 is discarded (06 R221 to R223, R239). -/
def PredicateResult (n pd : Nat) (v : Bool) (s t : State) : Prop :=
  OnlyStation n s t ∧ Passed n s t ∧
  ClusterEffects n s t (if pd = 0 then (clu s (cluOf n)).timed
    else addTimed ⟨cycOf s n + 1, cycOf s n, true, .pred n pd v⟩ (clu s (cluOf n)).timed)

/-- An operation of the feeder-and-move slot that schedules one effect, or none, and touches nothing else. -/
def Schedules (n : Nat) (e : Option (Nat × Eff)) (s t : State) : Prop :=
  OnlyStation n s t ∧ stn t n = stn s n ∧
  ClusterEffects n s t (match e with
    | some (after, e) => addTimed ⟨cycOf s n + after, cycOf s n, false, e⟩ (clu s (cluOf n)).timed
    | none => (clu s (cluOf n)).timed)

/-- Detector registers aside, one state is another: only the registers differ, and those only in a debug course. -/
def OnlyDetector (s t : State) : Prop := t = { s with regs := t.regs } ∧ (debugCourse s = false → t.regs = s.regs)

/-- An access to a reserved address by a station: event 0x0411, the station halts at its next hurdle, and nothing
else of it, of the clusters and of memory differs (06 R216). -/
def BadAccess (n : Nat) (s t : State) : Prop :=
  t = { s with stns := t.stns, regs := t.regs, evs := t.evs, evTotal := s.evTotal + 1, stepErr := t.stepErr
               stop := t.stop } ∧
  t.evs = s.evs ++ [{ code := 0x0411, die := dieOf n, unit := n % 96, time := s.timeNs, isSealed := sealedJob s }] ∧
  stn t n = haltAtHurdle (stn s n) ∧ (∀ m, m ≠ n → stn t m = stn s m) ∧ (debugCourse s = false → t.regs = s.regs)

/-- Bytes with the addresses from `a` on. -/
def numbered (a : Nat) (bs : List Byte) : List (Nat × Byte) :=
  ((List.range bs.length).zip bs).map (fun e => (a + e.1, e.2))

/-- No SEND, MOVE or stream still reads one of the `k` buffers from `b` (02 R76). -/
def NotRead (s : State) (n : Nat) (lane : Lane) (b k : Nat) : Prop :=
  stillSent s n lane b k = [] ∧ stillMoved s n lane b k = false ∧ stillDrained s n lane b k = false

/-- The record of an event raised now. -/
def evNow (s : State) (code die unit : Nat) (detail : Option Nat) : Ev :=
  { code := code, die := die, unit := unit, detail := detail, time := s.timeNs, isSealed := sealedJob s }

/-- What an issue cycle of a MAC costs, performed or not: its tokens, and its count but in a sealed job
(03 R117, R139). -/
def macCost (s : State) (n a : Nat) (m : MacF) : State :=
  arrCount (updArr (addTok s (cluOf n) (macTokens s n a m)) n a (fun x => { x with macAt := some (cycOf s n) }))
    n 0x120 64 1

/-- A counter whose index its scope has (08 R300). -/
def CtrExists : Ctr → Prop
  | .core _ i => i < 64
  | .cluster _ i => i < 256
  | .die _ i => i < 1024
  | .module i => i < 4096

/-- The K pointer of an array after a MAC, and the feeder addresses at its wrap (03 R110). -/
def PointerMoves (g : ArrCfg) (c : Cls) (x y : Arr) : Prop :=
  (x.sub + 1 < subSteps g.f.pass c → y.sub = x.sub + 1 ∧ y.k = x.k ∧ y.cfg = some g) ∧
  (subSteps g.f.pass c ≤ x.sub + 1 → y.sub = 0 ∧
    (x.k + kWidth c < 128 → y.k = x.k + kWidth c ∧ y.cfg = some g) ∧
    (128 ≤ x.k + kWidth c → y.k = 0 ∧ y.cfg = some { g with
      colAddr := (g.colAddr + g.strideCol) % 2 ^ 64, rowAddr := (g.rowAddr + g.strideRow) % 2 ^ 64 }))

/-- The host command that a command of the table is, the class of its row in R447, and whether a supply warning
refuses it (13 R447, R448). -/
def hostCmd : Instr → Option (Src × CmdClass × Bool)
  | .identify src _ => some (src, .any, false)
  | .attest src _ _ _ => some (src, .any, false)
  | .setBudget src _ => some (src, .any, false)
  | .readTelemetry src _ _ => some (src, .any, false)
  | .vaultRead src _ _ _ _ => some (src, .any, true)
  | .setClockPolicy src _ _ _ => some (src, .any, false)
  | .readFaultMap src _ _ => some (src, .any, false)
  | .linkDisable src _ => some (src, .any, false)
  | .linkEnable src _ => some (src, .any, false)
  | .linkRetrain src _ => some (src, .any, false)
  | .linkStatus src _ => some (src, .any, false)
  | .linkLoopback src _ => some (src, .any, false)
  | .loadCourse src _ _ _ _ => some (src, .load, true)
  | .loadSupplement src _ _ _ _ => some (src, .load, true)
  | .openWindow src _ => some (src, .job, false)
  | .closeWindow src _ _ => some (src, .job, false)
  | .copy src _ _ => some (src, .job, true)
  | .provisionKey src _ _ _ _ _ => some (src, .job, false)
  | .snapshot src _ _ _ _ _ _ => some (src, .job, false)
  | .dumpTake src _ => some (src, .job, false)
  | .dumpCopyLast src _ => some (src, .job, false)
  | .setWatch src _ _ _ => some (src, .job, false)
  | .halt src => some (src, .job, false)
  | .endJob src => some (src, .job, false)
  | .run src => some (src, .run, false)
  | .armOffload src _ _ _ => some (src, .run, false)
  | .selftestUnit src _ _ => some (src, .test, false)
  | .selftestModule src => some (src, .test, false)
  | _ => none

/-- A host command of a class is taken: the command processor serves commands, the job state lets it run, and a
supply warning does not refuse it (13 R447, R448). -/
abbrev Taken (s : State) (c : CmdClass) (supply : Bool) : Prop :=
  cmdOpen s = true ∧ stateStatus c s.jobState = none ∧ (supply = true → s.power.warn = false)

/-- No station runs on: each has halted or was idle. -/
abbrev AllStopped (s : State) : Prop := ∀ e ∈ s.stns, e.2.run = .halted ∨ e.2.run = .idle

/-- No fault stop is wanted or under way, no step is open and no dump is being taken. -/
abbrev Quiet (s : State) : Prop := s.stop.wanted = false ∧ s.stop.stage = 0 ∧ stepOpen s = false ∧ s.dump.state ≠ 1

end Sys2Proof.Machine
end

