-- ==== Sys2Proof/Certificates/Slice0/Obligations.lean ====
section
/-! DEFINITION. The statements for the provers: what every command does to the state, what it leaves, and what
every step keeps. `exec c s = .next t` says that the command completes. -/
open Sys2Proof Sys2Proof.Machine

/-! ## Every command -/

/-- A step with a command at the front of the queue is that command on the state with the queue's rest. -/
def Obligations.StepRunsFront : Prop :=
  ∀ (c : Instr) (rest : List Instr) (s : State), s.pending = c :: rest →
    step s = exec c { s with pending := rest }

/-- A step on an empty queue is a tick (the model's choice, log 5): with the fixed domain off or stopped nothing
happens; else one draw is taken and fixed time goes on by the free value of that draw, and with no cluster live
nothing else happens. -/
def Obligations.IdleStepTicks : Prop :=
  ∀ s : State, s.pending = [] →
    step s = .next (tick s) ∧
    ((s.power.fixedOn = false ∨ s.power.stopped = true) → tick s = s) ∧
    (s.power.fixedOn = true → s.power.stopped = false → (∀ g, live s g = false) →
      tick s = { s with freeCtr := s.freeCtr + 1, timeNs := s.timeNs + Config.nsPerTick s.freeCtr })

/-- Every command answers a next state in every state, and leaves the queue as it is: no command stops the
module. No draw of a free value is used twice: the number of the next draw never falls (the model's own
field, log 12). -/
def Obligations.EveryCommandGoes : Prop :=
  (∀ (c : Instr) (s : State), ∃ t, exec c s = .next t ∧ t.pending = s.pending) ∧
  (∀ s t : State, step s = .next t → s.freeCtr ≤ t.freeCtr)

/-- Every step keeps both memories in canonical form and the job state one of the 5. -/
def Obligations.GoodStep : Prop :=
  ∀ s t : State, Good s → step s = .next t → Good t

/-- The module right after reset has that form. -/
def Obligations.GoodReset : Prop := Good State.reset

/-! ## Scalar sequencer -/

/-- The register operations of the scalar slot: the result of each, when it becomes readable, and that a result for
x0 is discarded. -/
def Obligations.ScalarResults : Prop :=
  ∀ (s : State) (n rd a b : Nat), acts s n = true →
    (∃ t, exec (.add n rd a b) s = .next t ∧ ScalarResult n rd 1 (xreg s n a + xreg s n b) s t) ∧
    (∃ t, exec (.sub n rd a b) s = .next t ∧ ScalarResult n rd 1 (xreg s n a - xreg s n b) s t) ∧
    (∃ t, exec (.and n rd a b) s = .next t ∧ ScalarResult n rd 1 (xreg s n a &&& xreg s n b) s t) ∧
    (∃ t, exec (.or n rd a b) s = .next t ∧ ScalarResult n rd 1 (xreg s n a ||| xreg s n b) s t) ∧
    (∃ t, exec (.xor n rd a b) s = .next t ∧ ScalarResult n rd 1 (xreg s n a ^^^ xreg s n b) s t) ∧
    (∃ t, exec (.sll n rd a b) s = .next t ∧
      ScalarResult n rd 1 (xreg s n a <<< ((xreg s n b).extractLsb' 0 6).toNat) s t) ∧
    (∃ t, exec (.srl n rd a b) s = .next t ∧
      ScalarResult n rd 1 (xreg s n a >>> ((xreg s n b).extractLsb' 0 6).toNat) s t) ∧
    (∃ t, exec (.sra n rd a b) s = .next t ∧
      ScalarResult n rd 1 ((xreg s n a).sshiftRight ((xreg s n b).extractLsb' 0 6).toNat) s t) ∧
    (∃ t, exec (.mul n rd a b) s = .next t ∧ ScalarResult n rd 3 (xreg s n a * xreg s n b) s t) ∧
    (∀ imm : Int, ∃ t, exec (.addi n rd a imm) s = .next t ∧
      ScalarResult n rd 1 (xreg s n a + BitVec.ofInt 64 imm) s t) ∧
    (∀ imm : Int, ∃ t, exec (.li n rd imm) s = .next t ∧ ScalarResult n rd 1 (BitVec.ofInt 64 imm) s t) ∧
    (∀ imm : Nat, imm < 2 ^ 32 → ∃ t, exec (.lih n rd imm) s = .next t ∧
      ScalarResult n rd 1 (BitVec.ofNat 32 imm ++ (xreg s n rd).extractLsb' 0 32) s t) ∧
    (∃ t, exec (.nop n) s = .next t ∧ OnlyStation n s t ∧ Passed n s t ∧ t.clus = s.clus)

/-- CMP and PLOG: every condition and function of the table, and when the predicate becomes readable. -/
def Obligations.PredicateResults : Prop :=
  ∀ (s : State) (n pd a b : Nat), acts s n = true →
    (∀ (cond : Nat) (v : Bool),
      (cond = 0 → (v = true ↔ xreg s n a = xreg s n b)) → (cond = 1 → (v = true ↔ xreg s n a ≠ xreg s n b)) →
      (cond = 2 → (v = true ↔ (xreg s n a).toInt < (xreg s n b).toInt)) →
      (cond = 3 → (v = true ↔ (xreg s n b).toInt ≤ (xreg s n a).toInt)) →
      (cond = 4 → (v = true ↔ (xreg s n a).toNat < (xreg s n b).toNat)) →
      (cond = 5 → (v = true ↔ (xreg s n b).toNat ≤ (xreg s n a).toNat)) → cond < 6 →
      ∃ t, exec (.cmp n pd a b cond) s = .next t ∧ PredicateResult n pd v s t) ∧
    (∃ t, exec (.plog n pd a b 0) s = .next t ∧ PredicateResult n pd (preg s n a && preg s n b) s t) ∧
    (∃ t, exec (.plog n pd a b 1) s = .next t ∧ PredicateResult n pd (preg s n a || preg s n b) s t) ∧
    (∃ t, exec (.plog n pd a b 2) s = .next t ∧ PredicateResult n pd (xor (preg s n a) (preg s n b)) s t) ∧
    (∃ t, exec (.plog n pd a b 3) s = .next t ∧ PredicateResult n pd (preg s n a && !preg s n b) s t)

/-- Branches, loops and HALT: where the program goes on and when, what loops end, and that at the end stride of a
loop its counter falls by 1 and the body runs again until it is 0. -/
def Obligations.BranchesAndLoops : Prop :=
  ∀ (s : State) (n : Nat), acts s n = true →
    (∀ target, target < 16384 → ∃ t, exec (.br n target) s = .next t ∧ OnlyStation n s t ∧ t.clus = s.clus ∧
      (stn t n).pc = target ∧ (stn t n).nextCyc = cycOf s n + 3 ∧ (stn t n).run = .issuing ∧
      (stn t n).x = (stn s n).x ∧ (stn t n).p = (stn s n).p ∧
      (NoLoopEnds s n → (stn t n).lc = (stn s n).lc ∧
        ∀ l, l ∈ (stn t n).loops ↔ l ∈ (stn s n).loops ∧ l.2.1 ≤ target ∧ target ≤ l.2.2)) ∧
    (∀ lc rs last, last < 16384 → NoLoopEnds s n →
      ∃ t, exec (.loop n lc rs last) s = .next t ∧ OnlyStation n s t ∧ t.clus = s.clus ∧
      (stn t n).x = (stn s n).x ∧ (stn t n).p = (stn s n).p ∧ (stn t n).run = .issuing ∧
      (stn t n).lc = (stn s n).lc.set lc ((xreg s n rs).setWidth 32) ∧
      ((xreg s n rs).setWidth 32 ≠ (0 : W32) → (stn t n).pc = ((stn s n).pc + 1) % 16384 ∧
        (stn t n).nextCyc = cycOf s n + 1 ∧
        (stn t n).loops = (lc, ((stn s n).pc + 1) % 16384, last) :: (stn s n).loops.filter (fun l => l.1 ≠ lc)) ∧
      ((xreg s n rs).setWidth 32 = (0 : W32) → (stn t n).pc = (last + 1) % 16384 ∧
        (stn t n).nextCyc = cycOf s n + 3 ∧ (stn t n).loops = (stn s n).loops.filter (fun l => l.1 ≠ lc))) ∧
    (∀ k first rest, (stn s n).loops = (k, first, (stn s n).pc) :: rest → (∀ l ∈ rest, l.2.2 ≠ (stn s n).pc) →
      ∃ t, exec (.nop n) s = .next t ∧ OnlyStation n s t ∧
      (stn t n).lc = (stn s n).lc.set k ((stn s n).lc.get 0 k - 1) ∧ (stn t n).nextCyc = cycOf s n + 1 ∧
      ((stn s n).lc.get 0 k - 1 ≠ (0 : W32) → (stn t n).pc = first ∧ (stn t n).loops = (stn s n).loops) ∧
      ((stn s n).lc.get 0 k - 1 = (0 : W32) → (stn t n).pc = ((stn s n).pc + 1) % 16384 ∧ (stn t n).loops = rest)) ∧
    (∃ t, exec (.stationHalt n) s = .next t ∧ OnlyStation n s t ∧ t.clus = s.clus ∧ (stn t n).run = .halted ∧
      (stn t n).x = (stn s n).x ∧ (stn t n).p = (stn s n).p ∧ acts t n = false)

/-- An effect that is due lands: a scalar register whose last effect among those due is a value holds it, and one
that no due effect names is unchanged. -/
def Obligations.ScalarEffectsLand : Prop :=
  ∀ (s : State) (n r : Nat) (v : W64) (l m : List Timed) (e : Timed),
    (clu s (cluOf n)).timed.filter (fun t => decide (t.due ≤ cycOf s n)) = l ++ e :: m →
    e.eff = .reg n r v →
    (∀ x ∈ l ++ e :: m, ∃ r' v', x.eff = .reg n r' v') →
    (∀ x ∈ m, ∀ v', x.eff ≠ .reg n r v') → r ≠ 0 →
    xreg (landDue s (cluOf n)) n r = v ∧
    (∀ q, q ≠ 0 → (∀ x ∈ l ++ e :: m, ∀ v', x.eff ≠ .reg n q v') →
      xreg (landDue s (cluOf n)) n q = xreg s n q)

/-! ## The feeder-and-move slot -/

/-- HDRLD, LD, ST and SEED: what each reads, what it writes and when that is readable; an LD or ST whose 8 bytes
lie at a reserved address does nothing but halt its station at its next hurdle. Bits [2:0] of the address
are taken as 0. What an LD reads of bytes that a stream descriptor in flight is writing is a free value (log 64): the
clause on its value is about the others. MOVE and CVT pass to the move unit, which is idle: they start in this cycle, and nothing
else differs. A MOVE of bits [31:8] of its count as units of 256 bytes; a CVT of whole tiles, with the
tensor group of its count. An operation that waits starts when the running one has written its last unit. -/
def Obligations.LoadsStoresAndMoves : Prop :=
  (∀ (s : State) (n : Nat), acts s n = true →
    (∀ rd lane buf sel, ∃ t, exec (.hdrld n rd lane buf sel) s = .next t ∧
      Schedules n (if rd = 0 then none else some (2, .reg n rd (BitVec.ofNat 64
        (if lbState (stn s n) lane buf = .free then 0 else hdrField (lb s n lane buf).baton.hdr sel)))) s t) ∧
    (∀ rd base (off : Int) (o : Nat), (xreg s n base).toNat < 0x400000 → o % 8 = 0 → 0x80000 ≤ o → o + 8 ≤ 0x400000 →
      (o : Int) ≤ (xreg s n base).toNat + off → ((xreg s n base).toNat : Int) + off < o + 8 → pocketOk s n o 8 = true →
      (s.cwErr = [] → (∀ r ∈ openRanges s, pocketAddr n o + 8 ≤ r.1 ∨ r.1 + r.2 ≤ pocketAddr n o) →
        ∃ t, exec (.ld n rd base off) s = .next t ∧
        Schedules n (if rd = 0 then none else some (4, .reg n rd (BitVec.ofNat 64
          (ofLe ((List.range 8).map (fun i => memGet s.mem (pocketAddr n o + i))))))) s t) ∧
      (∀ rs, ∃ t, exec (.st n rs base off) s = .next t ∧
        Schedules n (some (2, .pocket n o ((List.range 8).zip (leBytes 8 (xreg s n rs).toNat)))) s t)) ∧
    (∀ rd rs base (off : Int), (0x400000 ≤ (xreg s n base).toNat ∨
        ((xreg s n base).toNat : Int) + off < 0x80000 ∨ 0x400000 ≤ ((xreg s n base).toNat : Int) + off) →
      (∃ t, exec (.ld n rd base off) s = .next t ∧ BadAccess n s t) ∧
      (∃ t, exec (.st n rs base off) s = .next t ∧ BadAccess n s t)) ∧
    (∀ rs, ∃ t, exec (.seed n rs) s = .next t ∧ Schedules n (some (1, .seed n
      (if (xreg s n rs).setWidth 32 = (0 : W32) then 1 else (xreg s n rs).setWidth 32))) s t)) ∧
  (∀ (s : State) (n : Nat), acts s n = true →
    (∀ (f : MoveF) (d o u : Nat), (stn s n).mv = none → (stn s n).mvWait = none →
      d = (xreg s n f.dst).toNat / 256 * 256 → o = (xreg s n f.src).toNat / 256 * 256 →
      u = (xreg s n f.count).toNat % 2 ^ 32 / 256 → u ≠ 0 → 0x80000 ≤ d → d + 256 * u ≤ 0x400000 →
      pocketOk s n d (256 * u) = true →
      (∀ lb, f.buf = some lb → ∃ t, exec (.move n f) s = .next t ∧ OnlyStation n s t ∧ t.clus = s.clus ∧
        stn t n = { stn s n with mv := some { op := .move (some lb) d o u, start := cycOf s n } }) ∧
      (f.buf = none → 0x80000 ≤ o → o + 256 * u ≤ 0x400000 → pocketOk s n o (256 * u) = true →
        ∃ t, exec (.move n f) s = .next t ∧ OnlyStation n s t ∧ t.clus = s.clus ∧
        stn t n = { stn s n with mv := some { op := .move none d o u, start := cycOf s n } })) ∧
    (∀ (f : CvtF) (d o u c : Nat), (stn s n).mv = none → (stn s n).mvWait = none →
      tileOk f.fmtIn f.scaledIn = true → tileOk f.fmtOut f.scaledOut = true →
      d = (xreg s n f.dst).toNat / 256 * 256 → o = (xreg s n f.src).toNat / 256 * 256 →
      c = (xreg s n f.count).toNat → u = c % 2 ^ 32 → u ≠ 0 →
      0x80000 ≤ d → d + u * storedBytes f.fmtOut f.scaledOut ≤ 0x400000 →
      0x80000 ≤ o → o + u * storedBytes f.fmtIn f.scaledIn ≤ 0x400000 →
      pocketOk s n d (u * storedBytes f.fmtOut f.scaledOut) = true →
      pocketOk s n o (u * storedBytes f.fmtIn f.scaledIn) = true →
      ∃ t, exec (.cvt n f) s = .next t ∧ OnlyStation n s t ∧ t.clus = s.clus ∧
        stn t n = { stn s n with mv := some ⟨.cvt d o u f.fmtIn f.scaledIn f.fmtOut f.scaledOut f.stoch f.propagate
          (if bitOf c 32 then some (bits c 38 33) else none), cycOf s n, 0, 0, none⟩ }) ∧
    (∀ (f : MoveF), 0x400000 ≤ (xreg s n f.dst).toNat → ∃ t, exec (.move n f) s = .next t ∧ BadAccess n s t) ∧
    (∀ op r, (stn s n).mvWait = some op → (stn s n).mv = some r → r.done = unitsOf r.op →
      r.start + unitsOf r.op + 2 ≤ cycOf s n + r.slip →
      ∃ t, exec (.moveUnitStart n) s = .next t ∧ OnlyStation n s t ∧ t.clus = s.clus ∧ t.regs = s.regs ∧
        stn t n = { stn s n with mv := some { op := op, start := cycOf s n }, mvWait := (stn s n).mvSecond
                                 mvSecond := none }))

/-! ## The Relay Ring -/

/-- SEND by the state of its source buffer: a HELD baton leaves on an idle port with its header rewritten and
the rest of it as it is, one with no hops left raises event 0x0104, a HELD_BAD one halts the station at its
next hurdle, one that is LANDING, or whose port is busy, waits at the port, and a FREE buffer does nothing.
`u` is the state but for what the false-start detector of a debug course records. A waiting SEND starts once
its port is idle and its source has left LANDING, and the second one waits in its place; a FREE is in effect
in the next program cycle. -/
def Obligations.SendsAndFrees : Prop :=
  (∀ (s : State) (n : Nat) (src : Lane) (b : Nat) (out : Lane) (dst : Nat), acts s n = true →
    ((lb s n src b).state = .held → (lb s n src b).baton.hdr.hops ≠ 0 → (port s n out).wait = none →
      portBusy s n out = false → ∀ m, neighbour s n out = some m →
      ∃ (t : State) (f : Flight), exec (.send n src b out dst) s = .next t ∧
        t = { s with stns := t.stns, regs := t.regs } ∧ (debugCourse s = false → t.regs = s.regs) ∧
        (∀ k, k ≠ n → k ≠ m → stn t k = stn s k) ∧
        hop t m out = hop s m out ++ [f] ∧
        f.baton = { (lb s n src b).baton with hdr := hdrSealed { (lb s n src b).baton.hdr with
          hops := (lb s n src b).baton.hdr.hops - 1
          lap := if m = (lb s n src b).baton.hdr.source then min 255 ((lb s n src b).baton.hdr.lap + 1)
            else (lb s n src b).baton.hdr.lap
          payloadCrc := if (lb s n src b).written then batonCrc (lb s n src b).baton
            else (lb s n src b).baton.hdr.payloadCrc } } ∧
        f.dst = dstBuf (lb s n src b).baton.buffers dst ∧ f.sender = n ∧ f.waiting = false ∧ f.landing = false ∧
        f.inCluster = inCluster n m out ∧ f.due = cycOf s n + 3 ∧
        (port t n out).idleAt = cycOf s n + (lb s n src b).baton.transfers ∧
        (stn t n).x = (stn s n).x ∧ (stn t n).pc = (stn s n).pc ∧ (lb t n src b).state = .held ∧
        (lb t n src b).baton = (lb s n src b).baton) ∧
    ((lb s n src b).state = .held → (lb s n src b).baton.hdr.hops = 0 → (port s n out).wait = none →
      portBusy s n out = false → exec (.send n src b out dst) s =
        .next (raise (ringErr s n src 3) 0x0104 (dieOf n) (n % 96) none)) ∧
    ((lb s n src b).state = .heldBad → ∃ u, OnlyDetector s u ∧
      exec (.send n src b out dst) s = .next (errHalt u n 0)) ∧
    ((lb s n src b).state = .landing → (port s n out).wait = none → ∃ u, OnlyDetector s u ∧
      exec (.send n src b out dst) s =
        .next (updPort u n out (fun p => { p with wait := some ⟨src, b, dst⟩ }))) ∧
    ((lb s n src b).state = .held → (port s n out).wait = none → portBusy s n out = true →
      ∃ u, OnlyDetector s u ∧ exec (.send n src b out dst) s =
        .next (updPort u n out (fun p => { p with wait := some ⟨src, b, dst⟩ }))) ∧
    ((lb s n src b).state = .free → ∃ u, OnlyDetector s u ∧ exec (.send n src b out dst) s = .next u)) ∧
  ((∀ (s : State) (n : Nat) (out : Lane) (r : SendReq) (m : Nat), (port s n out).wait = some r →
    portBusy s n out = false → lbState (stn s n) r.srcLane r.srcBuf = .held →
    (lb s n r.srcLane r.srcBuf).state = .held → (lb s n r.srcLane r.srcBuf).baton.hdr.hops ≠ 0 →
    neighbour s n out = some m →
    ∃ (t : State) (f : Flight), exec (.sendQueuedStart n out) s = .next t ∧
      t = { s with stns := t.stns, regs := t.regs } ∧ (∀ k, k ≠ n → k ≠ m → stn t k = stn s k) ∧
      hop t m out = hop s m out ++ [f] ∧ f.sender = n ∧ f.due = cycOf s n + 3 ∧
      f.baton.body = (lb s n r.srcLane r.srcBuf).baton.body ∧
      f.baton.hdr.hops = (lb s n r.srcLane r.srcBuf).baton.hdr.hops - 1 ∧
      (port t n out).wait = (port s n out).second ∧ (port t n out).second = none ∧
      (port t n out).idleAt = cycOf s n + (lb s n r.srcLane r.srcBuf).baton.transfers) ∧
  (∀ (s : State) (n inner outer : Nat), acts s n = true → ∃ t, exec (.free n inner outer) s = .next t ∧
    Schedules n (some (1, .free n inner outer)) s t))

/-- Landing: a header takes its FREE buffers, where nothing still reads them with no other effect, and waits at the sending side while one is occupied, a wait ends
when they are FREE, and a baton whose last transfer has landed makes its buffer HELD, and HELD_BAD where the
first landing check that fails says so; either way its landing counter counts it once. The landing checks,
in their order: header CRC, job, format with length and buffers, payload CRC, with the event and the error
bit of the first that fails. -/
def Obligations.BatonsLand : Prop :=
  (∀ (s : State) (n : Nat) (lane : Lane),
    (∀ f rest, hop s n lane = f :: rest → f.landing = false → f.waiting = false →
      (stn s n).stopped.get false lane.code = false → (f.inCluster = true → f.due ≤ cycOf s n) →
      (allFree s n lane f.dst f.baton.buffers = true →
        (∃ t, exec (.headerTransferArrive n lane) s = .next t ∧ hop t n lane = { f with landing := true } :: rest ∧
          lb t n lane f.dst = { state := .landing, baton := f.baton
                                doneAt := if f.inCluster then some (cycOf s n + f.baton.transfers) else none } ∧
          t.coreCtr = s.coreCtr ∧ t.evs = s.evs ∧ t.clus = s.clus) ∧
        (NotRead s n lane f.dst f.baton.buffers →
          exec (.headerTransferArrive n lane) s = .next (updHop (updLb s n lane f.dst (fun y =>
            { y with state := .landing, baton := f.baton, written := false, readUntil := 0
                     doneAt := if f.inCluster then some (cycOf s n + f.baton.transfers) else none }))
            n lane ({ f with landing := true } :: rest)))) ∧
      (allFree s n lane f.dst f.baton.buffers = false →
        ∃ t, exec (.headerTransferArrive n lane) s = .next t ∧ hop t n lane = { f with waiting := true } :: rest ∧
          (stn t n).lbs = (stn s n).lbs ∧ (f.inCluster = true → (clu t (cluOf n)).bpWait = true) ∧
          (f.inCluster = false → t.clus = s.clus))) ∧
    (∀ f rest, hop s n lane = f :: rest → f.waiting = true → allFree s n lane f.dst f.baton.buffers = true →
      ∃ t, exec (.batonWaitEnd n lane) s = .next t ∧
        hop t n lane = { f with waiting := false, landing := true } :: rest ∧
        (lb t n lane f.dst).state = .landing ∧ (lb t n lane f.dst).baton = f.baton) ∧
    (∀ b f rest, b < 4 → (lb s n lane b).state = .landing → (∀ c, (lb s n lane b).doneAt = some c → c ≤ cycOf s n) →
      hop s n lane = f :: rest → f.landing = true → f.dst = b → (∀ g ∈ rest, g.landing = false) →
      ∃ t, exec (.batonLanded n lane b) s = .next t ∧ hop t n lane = rest ∧
        t.coreCtr = s.coreCtr.set (64 * n + 56 + 4 * lane.code + b)
          (s.coreCtr.get 0 (64 * n + 56 + 4 * lane.code + b) + 1) ∧
        (lb t n lane b).baton = (lb s n lane b).baton ∧
        (landingCheck (jobNo s) (lb s n lane b).baton = none →
          (lb t n lane b).state = .held ∧ t = { s with stns := t.stns, coreCtr := t.coreCtr }) ∧
        (∀ code bit, landingCheck (jobNo s) (lb s n lane b).baton = some (code, bit) →
          (lb t n lane b).state = .heldBad ∧
          { code := code, die := dieOf n, unit := n % 96, time := s.timeNs, isSealed := sealedJob s } ∈ t.evs))) ∧
  (∀ (job : Nat) (x : Baton),
    (hdrCrcOf x.hdr ≠ x.hdr.hdrCrc → landingCheck job x = some (0x0102, 1)) ∧
    (hdrCrcOf x.hdr = x.hdr.hdrCrc → x.hdr.job ≠ job → landingCheck job x = some (0x0106, 5)) ∧
    (hdrCrcOf x.hdr = x.hdr.hdrCrc → x.hdr.job = job →
      (tileOk x.hdr.fmt x.hdr.scaled = false ∨ (x.hdr.kind ≠ 0 ∧ ¬(x.hdr.fmt ≤ 1 ∧ x.hdr.scaled = false)) ∨
        lengthOk x = false) → landingCheck job x = some (0x0105, 4)) ∧
    (hdrCrcOf x.hdr = x.hdr.hdrCrc → x.hdr.job = job → tileOk x.hdr.fmt x.hdr.scaled = true →
      (x.hdr.kind = 0 ∨ (x.hdr.fmt ≤ 1 ∧ x.hdr.scaled = false)) → lengthOk x = true →
      (batonCrc x ≠ x.hdr.payloadCrc → landingCheck job x = some (0x0103, 2)) ∧
      (batonCrc x = x.hdr.payloadCrc → landingCheck job x = none)))

/-- A transfer that arrives and fails its CRC-16 is counted and, within a cluster, holds it for k + 2 cycles, k + 2
more for each further failed retransmission of the same transfer; one whose CRC is right changes nothing. After 8
failed retransmissions of one transfer the hop stops and its buffer is HELD_BAD, but where another baton stands in it
(the model's reading, log 61); the same on a hop of the main fabric, which is fatal. The hops of a route of the main
fabric: by column first, over edges that join their dies. -/
def Obligations.RetransmissionsAndStoppedHops : Prop :=
  (∀ (s : State) (n : Nat) (lane : Lane) (i k r : Nat) (got : List Byte) (crc : Nat) (f : Flight) (rest : List Flight),
    hop s n lane = f :: rest → 0 < k → k ≤ 8 → i + k ≤ f.baton.transfers → f.waiting = false →
    r = (if f.failAt = i then f.fails else 0) → (stn s n).stopped.get false lane.code = false →
    (crc16 got = crc → exec (.transferRetransmit n lane i k got crc) s = .next s) ∧
    (crc16 got ≠ crc → r < 8 →
      ∃ t, exec (.transferRetransmit n lane i k got crc) s = .next t ∧
        hop t n lane = { f with failAt := i, fails := r + 1 } :: rest ∧ (stn t n).lbs = (stn s n).lbs ∧
        bits (reg t (regKey (dieOf n) 0x18)) 31 0 =
          min (2 ^ 32 - 1) (bits (reg s (regKey (dieOf n) 0x18)) 31 0 + 1) ∧
        (clu t (cluOf n)).hold = (if f.inCluster then
          (if r = 0 then max (clu s (cluOf n)).hold (k + 2) else (clu s (cluOf n)).hold + (k + 2))
          else (clu s (cluOf n)).hold) ∧ SameBytes s t)) ∧
  (∀ (s : State) (n : Nat) (lane : Lane) (f : Flight) (rest : List Flight),
    hop s n lane = f :: rest → 8 ≤ f.fails → f.dst < 4 →
    ∃ t, exec (.ringReplayFail n lane) s = .next t ∧
      hop t n lane = rest.map (fun g => { g with stopped := true }) ∧
      (stn t n).stopped.get false lane.code = true ∧
      { code := 0x0101, die := dieOf n, unit := n % 96, time := s.timeNs, isSealed := sealedJob s } ∈ t.evs ∧
      (f.landing = true ∨ allFree s n lane f.dst f.baton.buffers = true → (lb t n lane f.dst).state = .heldBad ∧
        t.coreCtr = s.coreCtr.set (64 * n + 56 + 4 * lane.code + f.dst)
          (s.coreCtr.get 0 (64 * n + 56 + 4 * lane.code + f.dst) + 1)) ∧
      (f.landing = false → allFree s n lane f.dst f.baton.buffers = false →
        (stn t n).lbs = (stn s n).lbs ∧ t.coreCtr = s.coreCtr) ∧ SameBytes s t) ∧
  (∀ (s : State) (w edge c r : Nat) (again : Bool) (got : List Byte) (crc : Nat), fabHop w edge c = true →
    s.fabStopped.get false (fabKey w edge c) = false →
    r = (if again then s.fabFails.get 0 (fabKey w edge c) else 0) → r < 8 →
    (crc16 got = crc → exec (.fabricRetransmit w edge c again got crc) s = .next s) ∧
    (crc16 got ≠ crc → exec (.fabricRetransmit w edge c again got crc) s =
      .next (bump { s with fabFails := s.fabFails.set (fabKey w edge c) (r + 1) } (regKey w 0x48) 0 32 1))) ∧
  (∀ (s : State) (w edge c : Nat), fabHop w edge c = true → 8 ≤ s.fabFails.get 0 (fabKey w edge c) →
    s.fabStopped.get false (fabKey w edge c) = false →
    ∃ t, exec (.ringFabReplayFail w edge c) s = .next t ∧
      t.fabStopped = s.fabStopped.set (fabKey w edge c) true ∧
      { code := 0x0109, die := w, time := s.timeNs, isSealed := sealedJob s } ∈ t.evs ∧
      (s.jobState = 3 → t.stepErr = true ∧ (s.stop.wanted = false → s.stop.stage = 0 →
        t.stop.wanted = true ∧ t.stop.event = 0x0109)) ∧
      bits (reg t (regKey w 0x40)) 0 0 = 1 ∧ t.stns = s.stns ∧ SameBytes s t) ∧
  (∀ w edge c : Nat, fabHop w edge c = true ↔ w < 10 ∧ ((edge = 15 ∧ c < 12 ∧ (w < 8 ∨ c = 0)) ∨
    (c = 0 ∧ ∃ p, edgeEnds[edge]? = some p ∧ (p.1 = w ∨ p.2 = w)))) ∧
  (∀ a b : Nat, a < 8 → b < 10 → a ≠ b →
    (∀ h ∈ hopsVia a (route a b), h.1 ≤ 13 ∧ edgeJoins h.1 h.2 = true) ∧ (route a b).getLast? = some b ∧
    (∀ x ∈ (route a b).dropLast, x / 4 = a / 4))


/-! ## Matrix arrays -/

/-- MSET and MASK: what each schedules, an MSET of a bad format being recorded as refused, a pocket source at a
reserved address, and what the two do when they take effect. A MAC that does not perform: it costs its
tokens all the same; one of an array with no configuration or a bad one, and one whose accumulator drains,
is refused with its event, as is one that changes buffers within a product; one that names a FREE buffer leaves its
accumulators free values, and its class, by which the K pointer moves, is free (log 12). A sum of INT8 products
saturates. -/
def Obligations.SetupMasksAndRefusals : Prop :=
  (∀ (s : State) (n a : Nat), acts s n = true → a < 2 →
    (∀ (f : MsetF) (bad : Bool),
      (bad = true ↔ (f.srcCol = .pocket ∧ tileOk f.fmtCol f.scaledCol = false) ∨
        (f.srcRow = .pocket ∧ tileOk f.fmtRow f.scaledRow = false)) →
      (bad = false → baseOk s n f.srcCol f.fmtCol f.scaledCol f.baseCol (isComplex f.pass) = true ∧
        baseOk s n f.srcRow f.fmtRow f.scaledRow f.baseRow (isComplex f.pass) = true) →
      ∃ u, OnlyDetector s u ∧ exec (.mset n a f) s = .next (schedule u n 1 false (.mset n a
        { f := f, colAddr := (xreg s n f.baseCol).toNat / 256 * 256, rowAddr := (xreg s n f.baseRow).toNat / 256 * 256
          strideCol := (xreg s n f.strideCol).toNat, strideRow := (xreg s n f.strideRow).toNat, bad := bad }))) ∧
    (∀ (f : MsetF), (f.srcCol = .pocket → tileOk f.fmtCol f.scaledCol = true) →
      (f.srcRow = .pocket → tileOk f.fmtRow f.scaledRow = true) →
      (baseOk s n f.srcCol f.fmtCol f.scaledCol f.baseCol (isComplex f.pass) = false ∨
        baseOk s n f.srcRow f.fmtRow f.scaledRow f.baseRow (isComplex f.pass) = false) →
      ∃ t, exec (.mset n a f) s = .next t ∧ BadAccess n s t) ∧
    (∀ target rs, target ≤ 2 → ∃ t, exec (.mask n a target rs) s = .next t ∧
      Schedules n (some (2, .mask n a target (xreg s n rs))) s t) ∧
    (∀ cfg, arr (landEff s (.mset n a cfg)) n a = { arr s n a with cfg := some cfg, k := 0, sub := 0 }) ∧
    (∀ v, arr (landEff s (.mask n a 0 v)) n a = { arr s n a with rowLo := v } ∧
      arr (landEff s (.mask n a 1 v)) n a = { arr s n a with rowHi := v } ∧
      arr (landEff s (.mask n a 2 v)) n a = { arr s n a with blk := v })) ∧
  (∀ (s : State) (n a : Nat) (m : MacF), acts s n = true → a < 2 →
    (((arr s n a).cfg = none ∨ ∃ g, (arr s n a).cfg = some g ∧ g.bad = true) →
      exec (.mac n a m) s = .next (badSetup (macCost s n a m) n a m.acc)) ∧
    (∀ g i, (arr s n a).cfg = some g → g.bad = false → i ∈ targets g.f m →
      drainingAcc (arr s n a) i (cycOf s n) = true →
      exec (.mac n a m) s = .next (accConflict (macCost s n a m) n a m.acc)) ∧
    (∀ g, (arr s n a).cfg = some g → g.bad = false →
      (∀ i ∈ targets g.f m, drainingAcc (arr s n a) i (cycOf s n) = false) →
      (((arr s n a).k ≠ 0 ∨ (arr s n a).sub ≠ 0) → (g.f.srcCol ≠ .pocket ∧ m.bufCol ≠ (arr s n a).lastCol ∨
          g.f.srcRow ≠ .pocket ∧ m.bufRow ≠ (arr s n a).lastRow) →
        exec (.mac n a m) s = .next (badSetup (macCost s n a m) n a m.acc)) ∧
      (((arr s n a).k = 0 ∧ (arr s n a).sub = 0 ∨ (g.f.srcCol = .pocket ∨ m.bufCol = (arr s n a).lastCol) ∧
          (g.f.srcRow = .pocket ∨ m.bufRow = (arr s n a).lastRow)) →
        (∃ l, g.f.srcCol = (if l = Lane.inner then Feed.inner else .outer) ∧ lbState (stn s n) l m.bufCol = .free ∨
          g.f.srcRow = (if l = Lane.inner then Feed.inner else .outer) ∧ lbState (stn s n) l m.bufRow = .free) →
        ∃ (t : State) (c : Cls), exec (.mac n a m) s = .next t ∧
          t = { s with arrs := t.arrs, clus := t.clus, regs := t.regs, freeCtr := t.freeCtr } ∧
          (∀ b i, (b, i) ≠ (n, a) → i < 2 → arr t b i = arr s b i) ∧
          (∀ i ∈ targets g.f m, accOf (arr t n a) i = { (if m.clear then {} else accOf (arr s n a) i) with
            cells := [], free := some (s.freeCtr + i), lastMac := some (cycOf s n) }) ∧
          (∀ i, i ∉ targets g.f m → accOf (arr t n a) i = accOf (arr s n a) i) ∧
          PointerMoves g c (arr s n a) (arr t n a) ∧ (arr t n a).drains = (arr s n a).drains)) ∧
    (∀ (u : State) (code acc : Nat), (code = 3 ∨ code = 4) → acc < 2 →
      { code := if code = 3 then 0x0205 else 0x0206, die := dieOf n, unit := n % 96, time := u.timeNs
        isSealed := sealedJob u } ∈ (if code = 3 then badSetup u n a acc else accConflict u n a acc).evs ∧
      bitOf (reg (if code = 3 then badSetup u n a acc else accConflict u n a acc) (regKey (dieOf n) 0x100)) code =
        true ∧
      stn (if code = 3 then badSetup u n a acc else accConflict u n a acc) n = haltAtHurdle (stn u n)) ∧
    (∀ x : Int, (sat32 x).1.toInt = max (-(2 ^ 31)) (min (2 ^ 31 - 1) x) ∧
      ((sat32 x).2 = true ↔ x < -(2 ^ 31) ∨ 2 ^ 31 - 1 < x)))

/-- A MAC whose setup, operands and array permit it: its tokens and its count, the products in its target
accumulators and in no other, the K pointer, and that nothing else changes but what its pocket reads do (`v` after
the column operand's, `w` after both) and an event and a count for each cell that saturates. -/
def Obligations.MacPerforms : Prop :=
  ∀ (s : State) (n a : Nat) (m : MacF) (g : ArrCfg) (c : Cls) (fc fr : Fmt × Bool) (o q : Opnd) (v w : State)
    (ks : List Nat) (r : Arr × Nat × Nat), acts s n = true → a < 2 →
    (arr s n a).cfg = some g → g.bad = false →
    (∀ i ∈ targets g.f m, drainingAcc (arr s n a) i (cycOf s n) = false) →
    feedFmt s n g.f.srcCol m.bufCol g.f.fmtCol g.f.scaledCol = some fc →
    feedFmt s n g.f.srcRow m.bufRow g.f.fmtRow g.f.scaledRow = some fr →
    productCls g.f.pass fc.1 fc.2 fr.1 fr.2 = some c →
    imagOk s n g.f.pass g.f.srcCol m.bufCol fc.1 = true → imagOk s n g.f.pass g.f.srcRow m.bufRow fr.1 = true →
    ((arr s n a).k ≠ 0 ∨ (arr s n a).sub ≠ 0 → (g.f.srcCol = .pocket ∨ m.bufCol = (arr s n a).lastCol) ∧
      (g.f.srcRow = .pocket ∨ m.bufRow = (arr s n a).lastRow) ∧
      (c = .sixteen → (arr s n a).sub % 2 = 1 → isComplex g.f.pass = false → m.acc = (arr s n a).lastAcc)) →
    ks = (List.range (kWidth c)).map ((arr s n a).k + ·) →
    feed (macCost s n a m) n g.f.pass g.f.srcCol m.bufCol fc.1 fc.2 g.f.transCol g.colAddr true ks = (v, .ok o) →
    feed v n g.f.pass g.f.srcRow m.bufRow fr.1 fr.2 g.f.transRow g.rowAddr false ks = (w, .ok q) →
    (∀ e ∈ feedBufs g.f.pass g.f.srcCol m.bufCol fc.1 ++ feedBufs g.f.pass g.f.srcRow m.bufRow fr.1,
      (lb w n e.1 e.2).state ≠ .heldBad) →
    w.wireFault.get false (arrLoc w n a) = false →
    r = macProducts (if m.clear then clearAccs (arr w n a) (targets g.f m) else arr w n a) g.f m c
      (c = .int && !fc.2) o q (cycOf w n) →
    (arr w n a).cfg = some g →
    ∃ t, exec (.mac n a m) s = .next t ∧
      t = { w with arrs := t.arrs, regs := t.regs, evs := t.evs, evTotal := t.evTotal } ∧
      (∀ b i, (b, i) ≠ (n, a) → i < 2 → arr t b i = arr w b i) ∧
      (∀ i ∈ targets g.f m, accOf (arr t n a) i = { accOf r.1 i with lastMac := some (cycOf w n) }) ∧
      (∀ i, i ∉ targets g.f m → accOf (arr t n a) i = accOf (arr w n a) i) ∧
      PointerMoves g c (arr w n a) (arr t n a) ∧ (arr t n a).drains = (arr w n a).drains ∧
      (arr t n a).lastCol = m.bufCol ∧ (arr t n a).lastRow = m.bufRow ∧ (arr t n a).lastAcc = m.acc ∧
      t.evs = w.evs ++ List.replicate r.2.2 (evNow w 0x0207 (dieOf n) (n % 96) none) ∧
      (sealedJob w = true → t.regs = w.regs)

/-- DRAIN: where no accumulator of the array drains and its last products are in, it starts with its registers
read and the accumulators as they stand, to the pocket or to a HELD partial-sum baton; where a drain of the other array
writes the same pocket bytes, which value stays is free (log 17). Else what refuses it.
A drain while one runs is refused; the last row written, a drain ends with its column checks, which change
nothing where every sum agrees. The row sweep takes the next row of each accumulator that is not draining;
one whose sum disagrees marks its accumulator, raises 0x0201, once, and halts its station at its next
hurdle. -/
def Obligations.DrainsAndSweeps : Prop :=
  (∀ (s : State) (n a : Nat) (f : DrainF) (cx : Bool), acts s n = true → a < 2 →
    drainingArr (arr s n a) (cycOf s n) = false →
    cx = (match (arr s n a).cfg with | some g => isComplex g.f.pass | none => false) →
    (∀ i, (cx = true ∨ i = f.acc) → ∀ c, (accOf (arr s n a) i).lastMac = some c → c + 6 ≤ cycOf s n) →
    (∀ o, f.dest < 2 → tileOk f.fmtOut f.scaledOut = true →
      pocketOperand (xreg s n f.addr) 256 ((if cx then 2 else 1) * storedBytes f.fmtOut f.scaledOut) = some o →
      pocketOk s n o ((if cx then 2 else 1) * storedBytes f.fmtOut f.scaledOut) = true →
      (∃ t cl, exec (.drain n a f) s = .next t ∧ (arr t n a).drains = (arr s n a).drains ++
        [{ f := f, start := cycOf s n, addr := o, complex := cx, clash := cl
           snap := if cx then [accOf (arr s n a) 0, accOf (arr s n a) 1] else [accOf (arr s n a) f.acc]
           scale := if f.scaleEn then (xreg s n f.scale).setWidth 32 else 0x3F800000 }]) ∧
      ((∀ e ∈ (arr s n (1 - a)).drains, ∀ lo hi, drainRange e = some (lo, hi) →
          hi ≤ o ∨ o + (if cx then 2 else 1) * storedBytes f.fmtOut f.scaledOut ≤ lo) →
        ∃ u, OnlyDetector s u ∧ exec (.drain n a f) s = .next (updArr u n a (fun x => { x with drains := x.drains ++
          [{ f := f, start := cycOf s n, addr := o, complex := cx
             snap := if cx then [accOf x 0, accOf x 1] else [accOf x f.acc]
             scale := if f.scaleEn then (xreg s n f.scale).setWidth 32 else 0x3F800000 }] })))) ∧
    (2 ≤ f.dest → drainBuf s n f.lane f.buf = true →
      (cx = true → f.buf = 0 ∧ (lb s n f.lane 0).baton.hdr.fmt = 1 ∧ drainBuf s n f.lane 2 = true) →
      ∃ u, OnlyDetector s u ∧ exec (.drain n a f) s = .next (updArr u n a (fun x => { x with drains := x.drains ++
        [{ f := f, start := cycOf s n, addr := 0, complex := cx
           snap := if cx then [accOf x 0, accOf x 1] else [accOf x f.acc]
           scale := if f.scaleEn then (xreg s n f.scale).setWidth 32 else 0x3F800000 }] }))) ∧
    (f.dest < 2 → tileOk f.fmtOut f.scaledOut = false →
      ∃ u, OnlyDetector s u ∧ exec (.drain n a f) s = .next (badSetup u n a f.acc)) ∧
    (2 ≤ f.dest → drainBuf s n f.lane f.buf = false →
      ∃ u, OnlyDetector s u ∧ exec (.drain n a f) s = .next (badSetup u n a f.acc)) ∧
    (f.dest < 2 → tileOk f.fmtOut f.scaledOut = true → 0x400000 ≤ (xreg s n f.addr).toNat →
      ∃ t, exec (.drain n a f) s = .next t ∧ BadAccess n s t)) ∧
  (∀ (s : State) (n a : Nat), a < 2 →
    (∀ f, acts s n = true → drainingArr (arr s n a) (cycOf s n) = true →
      exec (.drain n a f) s = .next (accConflict s n a f.acc)) ∧
    (∀ d rest, (arr s n a).drains = d :: rest → drainLen d ≤ d.row → d.start + drainLen d + 2 ≤ cycOf s n →
      (chkEnable s = false ∨ ∀ x ∈ d.snap, ∀ i, i < 128 →
        compare x (colCells i) (x.xiRow.get 0 i) (x.alRow.get 0 i) = .ok) →
      exec (.drainComplete n a) s = .next (updArr s n a (fun x => { x with drains := rest }))) ∧
    (present s n = true → chkEnable s = true → (∀ i, i < 2 → drainingAcc (arr s n a) i (cycOf s n) = false ∧
        compare (accOf (arr s n a) i) (rowCells (accOf (arr s n a) i).sweep)
          ((accOf (arr s n a) i).xiCol.get 0 (accOf (arr s n a) i).sweep)
          ((accOf (arr s n a) i).alCol.get 0 (accOf (arr s n a) i).sweep) = .ok) →
      ∃ t, exec (.rowSweep n a) s = .next t ∧ t = { s with arrs := t.arrs } ∧
        (∀ b i, (b, i) ≠ (n, a) → i < 2 → arr t b i = arr s b i) ∧
        ∀ i, i < 2 → accOf (arr t n a) i =
          { accOf (arr s n a) i with sweep := ((accOf (arr s n a) i).sweep + 1) % 128 }) ∧
    (present s n = true → (chkEnable s = false ∨ ∀ i, i < 2 → drainingAcc (arr s n a) i (cycOf s n) = true) →
      exec (.rowSweep n a) s = .next s) ∧
    (present s n = true → chkEnable s = true → drainingAcc (arr s n a) 0 (cycOf s n) = true →
      drainingAcc (arr s n a) 1 (cycOf s n) = false → (accOf (arr s n a) 1).rowRaised = false →
      compare (accOf (arr s n a) 1) (rowCells (accOf (arr s n a) 1).sweep)
          ((accOf (arr s n a) 1).xiCol.get 0 (accOf (arr s n a) 1).sweep)
          ((accOf (arr s n a) 1).alCol.get 0 (accOf (arr s n a) 1).sweep) = .bad →
      ∃ t, exec (.rowSweep n a) s = .next t ∧ evNow s 0x0201 (dieOf n) (n % 96) none ∈ t.evs ∧
        accOf (arr t n a) 1 = { accOf (arr s n a) 1 with
          failed := true, rowRaised := true, sweep := ((accOf (arr s n a) 1).sweep + 1) % 128 } ∧
        stn t n = haltAtHurdle (stn s n) ∧ SameBytes s t))

/-! ## Stream engines -/

/-- STRM and REARM by the state of the engine: a list starts on an engine that is idle or parked, a parked
descriptor runs again with a new base, a request of a running engine waits, a second one and a REARM of an
idle engine are refused with 0x0405, and one of a station that the engine is not bound to halts it with
0x0410. A request that waits starts once the list or run before it has completed. -/
def Obligations.StreamRequests : Prop :=
  (∀ (s : State) (n e : Nat), acts s n = true →
    (∀ ra rc A C, A = (xreg s n ra).toNat % 2 ^ 48 → C = (xreg s n rc).toNat % 2 ^ 32 →
      (boundStation s (cluOf n) e = some n →
        (C = 0 → ∃ u, OnlyDetector s u ∧ exec (.strm n e ra rc) s = .next u) ∧
        (C ≠ 0 → (eng s (cluOf n) e).request.isSome = true →
          ∃ u, OnlyDetector s u ∧ exec (.strm n e ra rc) s = .next (refuse u (cluOf n) e)) ∧
        (C ≠ 0 → (eng s (cluOf n) e).request = none →
          ((eng s (cluOf n) e).state = .idle ∨ (eng s (cluOf n) e).state = .parked) →
          (listOk s (cluOf n) e A = true → ∃ u, OnlyDetector s u ∧ exec (.strm n e ra rc) s =
            .next (updEng u (cluOf n) e (fun x => { idleEngine x with state := .running, addr := A, count := C }))) ∧
          (listOk s (cluOf n) e A = false → ∃ u, OnlyDetector s u ∧ exec (.strm n e ra rc) s =
            .next (engReport (strErr (updEng u (cluOf n) e (fun x => { idleEngine x with lastStatus := stInvalid }))
              (cluOf n) e 0) (cluOf n) e 0x0401))) ∧
        (C ≠ 0 → (eng s (cluOf n) e).request = none →
          ((eng s (cluOf n) e).state = .running ∨ (eng s (cluOf n) e).state = .drainWait) →
          ∃ u, OnlyDetector s u ∧ exec (.strm n e ra rc) s =
            .next (updEng u (cluOf n) e (fun x => { x with request := some (.list A C) })))) ∧
      (boundStation s (cluOf n) e ≠ some n → ∃ u, OnlyDetector s u ∧ exec (.strm n e ra rc) s =
        .next (errHalt (raise u 0x0410 (dieOf n) (n % 96) none) n 0x0410))) ∧
    (∀ rb B, B = (xreg s n rb).toNat % 2 ^ 48 →
      (boundStation s (cluOf n) e = some n →
        (∀ d, (eng s (cluOf n) e).request = none → (eng s (cluOf n) e).state = .parked →
          (eng s (cluOf n) e).parked = some d →
          ∃ u, OnlyDetector s u ∧ exec (.rearm n e rb) s = .next (updEng u (cluOf n) e (fun x =>
            { idleEngine x with
              state := .running, addr := d.addr, count := 1, nFetched := 1, rearmed := true
              fetched := [if bitOf d.w0 9 then { d with w2 := B } else { d with w1 := B }] }))) ∧
        ((eng s (cluOf n) e).request = none → (eng s (cluOf n) e).state = .running →
          ∃ u, OnlyDetector s u ∧ exec (.rearm n e rb) s =
            .next (updEng u (cluOf n) e (fun x => { x with request := some (.rearm B) }))) ∧
        ((eng s (cluOf n) e).request.isSome = true ∨ (eng s (cluOf n) e).state = .idle →
          ∃ u, OnlyDetector s u ∧ exec (.rearm n e rb) s = .next (refuse u (cluOf n) e))) ∧
      (boundStation s (cluOf n) e ≠ some n → ∃ u, OnlyDetector s u ∧ exec (.rearm n e rb) s =
        .next (errHalt (raise u 0x0410 (dieOf n) (n % 96) none) n 0x0410)))) ∧
  (∀ (s : State) (g e : Nat),
    (∀ A C, (eng s g e).request = some (.list A C) → ((eng s g e).state = .idle ∨ (eng s g e).state = .parked) →
      listOk s g e A = true → exec (.strmPendingStart g e) s =
        .next (updEng s g e (fun x => { idleEngine x with state := .running, addr := A, count := C }))) ∧
    (∀ B d, (eng s g e).request = some (.rearm B) → (eng s g e).state = .parked → (eng s g e).parked = some d →
      ∃ t, exec (.strmPendingStart g e) s = .next t ∧ t = { s with engines := t.engines } ∧
        (eng t g e).state = .running ∧ (eng t g e).request = none ∧ (eng t g e).count = 1 ∧
        (eng t g e).fetched = [if bitOf d.w0 9 then { d with w2 := B } else { d with w1 := B }]) ∧
    (∀ B, (eng s g e).request = some (.rearm B) → (eng s g e).state = .idle →
      exec (.strmPendingStart g e) s =
        .next (refuse (updEng s g e (fun x => { x with request := none })) g e)) ∧
    ((eng s g e).request = none → exec (.strmPendingStart g e) s = .next s))

/-- A burst fetch takes the next descriptors of the list, 16 at most, 32 bytes each in order of address; one
whose read fails ends the list with status FAULT and event 0x0403, and one that runs into addresses that the engine may
not reach with INVALID (the model's reading, log 64). The next descriptor starts behind at most
3 in flight, and not during a dump; one that a check refuses ends with the status and the event of the first check that
fails, and moves nothing; one that a stopped fabric hop keeps from its memory moves nothing and does not end; a drain
point waits for the ones before it. -/
def Obligations.DescriptorsFetchAndStart : Prop :=
  (∀ (s : State) (g e k : Nat), ((eng s g e).state = .running ∨ (eng s g e).state = .drainWait) →
    (eng s g e).nFetched < (eng s g e).count → k = min 16 ((eng s g e).count - (eng s g e).nFetched) →
    (s.cwErr = [] → (∀ p ∈ probes ((eng s g e).addr + 32 * (eng s g e).nFetched) (32 * k), reach s g e p false = true) →
      ∃ t, exec (.descriptorBurstFetch g e) s = .next t ∧ SameBytes s t ∧
        eng t g e = { eng s g e with nFetched := (eng s g e).nFetched + k
                                     fetched := (eng s g e).fetched ++ (List.range k).map (fun i =>
          descOf ((eng s g e).addr + 32 * ((eng s g e).nFetched + i)) (memGet s.mem)) }) ∧
    (∀ ok, ok = (probes ((eng s g e).addr + 32 * (eng s g e).nFetched) (32 * k)).all (fun p => reach s g e p false) →
      (ok = false ∨ (readMem s ((eng s g e).addr + 32 * (eng s g e).nFetched) (32 * k)).fail.isSome = true) →
      ∃ t, exec (.descriptorBurstFetch g e) s = .next t ∧ (eng t g e).state = .idle ∧ (eng t g e).fetched = [] ∧
        (eng t g e).flight = [] ∧ (eng t g e).lastStatus = (if ok then stFault else stInvalid))) ∧
  (∀ (s : State) (g e : Nat) (d : Desc) (rest : List Desc), (eng s g e).fetched = d :: rest →
    ((eng s g e).state = .running ∨ (eng s g e).state = .drainWait) → (eng s g e).flight.length < 4 →
    s.dump.state ≠ 1 → waitsChannel s d = false → (∀ r ∈ (eng s g e).flight, isDrain r.d = false ∧ r.status = 0) →
    (isDrain d = true → (eng s g e).flight ≠ [] →
      exec (.descriptorStart g e) s = .next (updEng s g e (fun x => { x with state := .drainWait }))) ∧
    ((isDrain d = false ∨ (eng s g e).flight = []) →
      (∀ st ev, descBad s g e d (decide ((eng s g e).nStarted + 1 = (eng s g e).count)) = some (st, ev) →
        ∃ t, exec (.descriptorStart g e) s = .next t ∧ t = { s with engines := t.engines } ∧
          (eng t g e).flight = (eng s g e).flight ++ [{ d := d, status := st, event := ev }] ∧
          (eng t g e).fetched = rest ∧ (eng t g e).nStarted = (eng s g e).nStarted + 1) ∧
      (descBad s g e d (decide ((eng s g e).nStarted + 1 = (eng s g e).count)) = none →
        (descOpen s g d = true → exec (.descriptorStart g e) s = .next (moveDesc (updEng s g e (fun x =>
          { x with state := .running, fetched := rest, nStarted := x.nStarted + 1, flight := x.flight ++ [{ d := d }] }))
          g e (eng s g e).flight.length d)) ∧
        (descOpen s g d = false → exec (.descriptorStart g e) s = .next (updEng s g e (fun x =>
          { x with state := .running, fetched := rest, nStarted := x.nStarted + 1
                   flight := x.flight ++ [{ d := d, blocked := true }] }))))))

/-- A descriptor from memory to memory writes the bytes that its source holds when it starts, and no other byte of
memory: the store is `lenOf d` bytes from its destination address. Each byte of it reads as before or as written
until the descriptor completes, and as written from then on; `r` is the descriptor in flight after its start, whose
bytes still on their way `landLate` writes. The source holds nothing that another descriptor in flight writes. -/
def Obligations.MemoryToMemoryCopies : Prop :=
  ∀ (s : State) (g e i : Nat) (d : Desc) (r : DescRun), srcKind d = 0 → dstKind d = 0 → s.cwErr = [] →
    exchMapped s d.w1 (lenOf d) = false → exchMapped s d.w2 (lenOf d) = false →
    (∀ q ∈ openRanges s, d.w1 + lenOf d ≤ q.1 ∨ q.1 + q.2 ≤ d.w1) →
    (eng s g e).flight[i]? = some { d := d } → (eng (moveDesc s g e i d) g e).flight[i]? = some r →
    (∀ j, j < lenOf d →
      memGet (landLate (moveDesc s g e i d) r).mem (d.w2 + j) = memGet s.mem (d.w1 + j) ∧
      (memGet (moveDesc s g e i d).mem (d.w2 + j) = memGet s.mem (d.w1 + j) ∨
        memGet (moveDesc s g e i d).mem (d.w2 + j) = memGet s.mem (d.w2 + j))) ∧
    (∀ a, a < d.w2 ∨ d.w2 + lenOf d ≤ a → memGet (moveDesc s g e i d).mem a = memGet s.mem a ∧
      memGet (landLate (moveDesc s g e i d) r).mem a = memGet s.mem a) ∧ r.status = 0

/-- A landing-buffer destination injects its baton once its buffers are FREE and no header arrives for them; the
oldest descriptor completes once every byte of it has reached its destination (`landLate` writes what had not): its
status byte, its counts and its done action, and after a status other than OK the list is abandoned, memory outside
the destination of a dead window's descriptor being as before. What a refused window or a PCIe error leaves at a
destination is a free value (the model's form, log 16). A prefetched record is written where its tag verifies, and
one that is as it was written for this channel, index and step opens to its plain text. -/
def Obligations.InjectionsAndCompletions : Prop :=
  ∀ (s : State) (g e : Nat),
    (∀ r rest n b l f, (eng s g e).flight = r :: rest → r.inject = some b → boundStation s g e = some n →
      l = lbLane r.d.w2 → f = (if b.buffers = 1 then lbFirst r.d.w2 else if b.buffers = 2 then lbFirst r.d.w2 / 2 * 2
        else 0) → (∀ h t, hop s n l = h :: t → h.landing = true ∨ h.stopped = true ∨
        sharesBuf h.dst h.baton.buffers f b.buffers = false ∨
        h.waiting = false ∧ (h.inCluster = false ∨ cycOf s n < h.due)) → allFree s n l f b.buffers = true →
      (∃ t, exec (.lbInject g e) s = .next t ∧ lb t n l f = { state := .landing, baton := b } ∧ SameBytes s t ∧
        t.coreCtr = s.coreCtr ∧ t.evs = s.evs) ∧
      (NotRead s n l f b.buffers → exec (.lbInject g e) s = .next (updEng (updLb s n l f (fun y =>
        { y with state := .landing, baton := b, written := false, doneAt := none, readUntil := 0 })) g e
        (fun x => { x with flight := { r with inject := none, injected := some b } :: rest })))) ∧
    (∀ r rest, (eng s g e).flight = r :: rest → runOverDesc s g e r = true → r.status = 0 → doneOf r.d = 0 →
      s.cwErr = [] → ∃ t, exec (.descriptorComplete g e) s = .next t ∧
        (∀ a, memGet t.mem a = if a = r.d.addr + 6 then 0 else memGet (landLate s r).mem a) ∧
        (srcKind r.d ≠ 3 → r.late = [] → SameBytes s (landLate s r)) ∧
        (∀ j b, srcKind r.d = 3 → exchMapped s r.d.w2 (lenOf r.d) = false → j < lenOf r.d → r.failOff = none →
          r.late.find? (fun x => x.1 = r.d.w2 + j) = some b → memGet (landLate s r).mem (r.d.w2 + j) = b.2) ∧
        (eng t g e).flight = rest ∧ (eng t g e).lastStatus = stOK ∧
        (eng t g e).doneCnt = (if sealedJob s then (eng s g e).doneCnt else ((eng s g e).doneCnt + 1) % 2 ^ 32) ∧
        (rest = [] → (eng s g e).fetched = [] → (eng s g e).nStarted = (eng s g e).count →
          (isPersist r.d = false → (eng t g e).state = .idle) ∧
          (isPersist r.d = true → (eng t g e).state = .parked ∧ (eng t g e).parked = some r.d)) ∧
        t.stns = s.stns ∧ t.evs = s.evs) ∧
    (∀ r rest, (eng s g e).flight = r :: rest → runOverDesc s g e r = true → r.status ≠ 0 →
      ∃ t, exec (.descriptorComplete g e) s = .next t ∧ (eng t g e).state = .idle ∧ (eng t g e).flight = [] ∧
        (eng t g e).fetched = [] ∧ (eng t g e).lastStatus = r.status) ∧
    (∀ i, i = (eng s g e).flight.findIdx (fun r => !(r.units.isEmpty && r.reqs.isEmpty)) →
      i < (eng s g e).flight.length → exec (.strTimeout g e) s =
        .next (endRun (updRun s g e i (fun r => { r with units := [], reqs := [] })) g e i stTimeout 0x0404)) ∧
    (∀ r rest, (eng s g e).flight = r :: rest → runOverDesc s g e r = true → r.status ≠ 0 → s.cwErr = [] →
      ∃ t, exec (.descriptorComplete g e) s = .next t ∧ memGet t.mem (r.d.addr + 6) = BitVec.ofNat 8 r.status ∧
        (r.status ≠ stDead → (r.status ≠ stTimeout ∨ srcKind r.d ≠ 3) → ∀ a, a ≠ r.d.addr + 6 →
          memGet t.mem a = memGet (landLate s r).mem a) ∧
        (r.status = stDead ∨ r.status = stTimeout ∧ srcKind r.d = 3 → ∀ a, a ≠ r.d.addr + 6 →
          (dstKind r.d = 0 → a < r.d.w2 ∨ r.d.w2 + lenOf r.d ≤ a) →
          (dstKind r.d ≠ 0 → ∀ q ∈ r.taken, a < q.1 ∨ q.1 + q.2 ≤ a) → memGet t.mem a = memGet s.mem a)) ∧
    (∀ i r, i = (eng s g e).flight.findIdx (fun r => (srcKind r.d = 2 || dstKind r.d = 2) && r.status = 0) →
      (eng s g e).flight[i]? = some r →
      (dstKind r.d ≠ 2 → exec (.oflHostError g e) s = .next (endRun s g e i stFault 0x0444)) ∧
      (dstKind r.d = 2 → exec (.oflHostError g e) s = .next (endRun (undefHost s ((ofl s (bits r.d.w2 2 0)).base +
        65600 * bits r.d.w2 31 4) (65600 * oflRecords (lenOf r.d))) g e i stFault 0x0444))) ∧
    (∀ i d k data, verifying (eng s g e).flight = some (i, d, k) →
      (openOfl s d k data = none →
        exec (.offloadPrefetchVerify g e data) s = .next (endRun s g e i stFault 0x0443)) ∧
      (∀ plain bs, openOfl s d k data = some plain → bs = plain.take (min 65536 (lenOf d - 65536 * k)) →
        exec (.offloadPrefetchVerify g e data) s = .next (updRun (bump
          (writeLate s g e i (d.w2 + 65536 * k) (exchOut s (d.w2 + 65536 * k) bs)) (oflReg (bits d.w1 2 0) 0x10) 0 64 1)
          g e i (fun r => { r with records := r.records.erase k }))) ∧
      (∀ plain, plain.length = 65536 →
        data = gcmSeal (oflKey s) (oflIv s (bits d.w1 2 0) (bits d.w1 31 4 + k)) [] plain →
        openOfl s d k data = some plain))


/-! ## Hurdles -/

/-- ARRIVE, SIGNAL, WAIT and BORROW of a station that does not halt at its next hurdle: the add that leaves, the
message to another module, a bad address, a WAIT that is satisfied and one that waits, and a request to
borrow. A WAIT whose counter lies behind a stopped hop of the signal net waits, and is not registered; a SIGNAL to a
landing counter of this module marks it for the detector. A station that is to halt at its next hurdle halts at any hurdle operation, and the operation has no
other effect. -/
def Obligations.HurdleOperations : Prop :=
  (∀ (s : State) (n : Nat), acts s n = true → (stn s n).haltNext = false →
    (∀ scope i rs one v, v = (if one then 1 else (xreg s n rs).setWidth 32) → v ≠ (0 : W32) →
      ∃ u, OnlyDetector s u ∧ exec (.arrive n scope i rs one) s = .next
        { (if scope = .core ∧ 56 ≤ i then updStn u n (fun t => { t with misused := t.misused.set i true }) else u) with
          adds := s.adds ++ [{ c := ctrOf n scope i, n := v, node := cluOf n, top := meet (cluOf n) (ctrOf n scope i)
                               due := match scope with
                                 | .core => some (cluOf n, cycOf s n + 3)
                                 | .cluster => some (cluOf n, cycOf s n + 12)
                                 | _ => none }] }) ∧
    (∀ scope i rs long, satisfied (ctrVal s (ctrOf n scope i)) ((xreg s n rs).setWidth 32) = true →
      cutOff s (.station n) (ctrOf n scope i) = false →
      ∃ u, OnlyDetector s u ∧ exec (.wait n scope i rs long) s = .next u) ∧
    (∀ scope i rs long, (satisfied (ctrVal s (ctrOf n scope i)) ((xreg s n rs).setWidth 32) = false ∨
        cutOff s (.station n) (ctrOf n scope i) = true) →
      ∃ t, exec (.wait n scope i rs long) s = .next t ∧
        stn t n = { stn s n with run := .waiting, released := false
                                 pend := some (.wait (ctrOf n scope i) ((xreg s n rs).setWidth 32) long) } ∧
        (∀ m, m ≠ n → stn t m = stn s m) ∧
        (registers (ctrOf n scope i) = true → cutOff s (.station n) (ctrOf n scope i) = false →
          t.waiters = s.waiters ++ [(.station n, ctrOf n scope i)] ∧
          seenVal t (.station n) (ctrOf n scope i) = ctrVal s (ctrOf n scope i)) ∧
        (registers (ctrOf n scope i) = false ∨ cutOff s (.station n) (ctrOf n scope i) = true →
          t.waiters = s.waiters) ∧ t.adds = s.adds ∧ SameBytes s t) ∧
    (∀ ra rs one A v, A = (xreg s n ra).toNat % 2 ^ 32 → v = (if one then 1 else (xreg s n rs).setWidth 32) →
      v ≠ (0 : W32) →
      (addrBad s A = false → addrModule s A = s.moduleId →
        ∃ t, exec (.signal n ra rs one) s = .next t ∧ t = { s with stns := t.stns, adds := t.adds, regs := t.regs } ∧
          (∀ m, (∀ i, addrCtr A = .core m i → i < 56) → stn t m = stn s m) ∧
          (∀ m i, addrCtr A = .core m i → 56 ≤ i →
            stn t m = { stn s m with misused := (stn s m).misused.set i true }) ∧
          t.adds = s.adds ++ [{ c := addrCtr A, n := v, node := cluOf n, top := meet (cluOf n) (addrCtr A) }]) ∧
      (∀ p, addrBad s A = false → addrModule s A ≠ s.moduleId → routeOf s (addrModule s A) = some p →
        ∃ u, OnlyDetector s u ∧ exec (.signal n ra rs one) s = .next (queueHur u p
          { address := A % 2 ^ 28, value := v.toNat, job := jobNo s, run := s.runNo % 65536, kind := 1 })) ∧
      (addrBad s A = true → ∃ u, OnlyDetector s u ∧ exec (.signal n ra rs one) s =
        .next (errHalt (raise (hurErr u (dieOf n) 1 (n % 96) false) 0x0302 (dieOf n) (n % 96) none) n 0x0302))) ∧
    (∀ tokens len, ∃ t, exec (.borrow n tokens len) s = .next t ∧ t = { s with stns := t.stns, clus := t.clus } ∧
      stn t n = { stn s n with run := .waiting, released := false, pend := some (.borrow tokens len) } ∧
      (∀ m, m ≠ n → stn t m = stn s m) ∧ (∀ g, g ≠ cluOf n → clu t g = clu s g) ∧
      (cycOf s n, n, tokens, len) ∈ (clu t (cluOf n)).borrowQ)) ∧
  (∀ (s : State) (n : Nat), acts s n = true → (stn s n).haltNext = true →
    (∀ scope i rs one, exec (.arrive n scope i rs one) s = .next (updStn s n halted)) ∧
    (∀ scope i rs long, exec (.wait n scope i rs long) s = .next (updStn s n halted)) ∧
    (∀ ra rs one, exec (.signal n ra rs one) s = .next (updStn s n halted)) ∧
    (∀ tokens len, exec (.borrow n tokens len) s = .next (updStn s n halted)))

/-- A WAIT is satisfied for the half of the 32-bit numbers that lie at or above its target, whichever way the
counter has wrapped. -/
def Obligations.WaitWraps : Prop :=
  ∀ (v t : W32) (k : Nat), k < 2 ^ 31 →
    satisfied (t + BitVec.ofNat 32 k) t = true ∧ satisfied (t - BitVec.ofNat 32 (k + 1)) t = false ∧
    (satisfied v t = true ∨ satisfied t v = true ∨ v = t + BitVec.ofNat 32 (2 ^ 31))

/-- The eclipse pool: the first waiting BORROW is granted its tokens where the pool has them, drawn on its
lenders, and only then; a window that ends gives them back and its lenders may resume. What a grant draws on
the lenders is what was asked, where they have it, and no more of one than it has lent and not yet given
away. -/
def Obligations.BorrowsAndLoans : Prop :=
  (∀ (s : State) (g : Nat),
    (∀ at' n k len rest, (clu s g).borrowQ.filter (fun e => borrows s e.2.1) = (at', n, k, len) :: rest →
      (k ≤ poolLeft s g → ∃ t, exec (.borrowGrant g) s = .next t ∧ t = { s with stns := t.stns, clus := t.clus } ∧
        stn t n = { stn s n with run := .issuing, released := true, pend := none } ∧
        (∀ m, m ≠ n → stn t m = stn s m) ∧ (∀ h, h ≠ g → clu t h = clu s h) ∧
        clu t g = { clu s g with
          borrowQ := rest
          loans := (clu s g).loans ++ [⟨n, k, (clu s g).cyc + 1 + len, drawTokens s (clu s g) k (stationsOf s g)⟩] }) ∧
      (poolLeft s g < k → exec (.borrowGrant g) s = .next s)) ∧
    (∀ n l, l ∈ (clu s g).loans → l.station = n → l.endCyc ≤ (clu s g).cyc →
      ∃ t, exec (.borrowWindowEnd g n) s = .next t ∧
        (∀ x ∈ (clu t g).loans, x.station ≠ n ∨ (clu s g).cyc < x.endCyc) ∧
        ((stationsOf s g).all (fun m => !((stn s m).run = .waiting && (stn s m).released)) = true →
          t = updClu s g (fun c => { c with loans := c.loans.filter (fun l =>
            !(l.station = n && decide (l.endCyc ≤ c.cyc))) })))) ∧
  (∀ (s : State) (g k : Nat), k ≤ poolLeft s g →
    ((drawTokens s (clu s g) k (stationsOf s g)).map (·.2)).sum = k ∧
    ∀ d ∈ drawTokens s (clu s g) k (stationsOf s g), d.2 + lentOut (clu s g) d.1 ≤ (stn s d.1).lent)

/-- Eclipse: a station at a long-hint WAIT whose arrays are idle lends its share; a cluster in eclipse has its
clock lowered to 0.6 GHz, once, with event 0x0306, and what that frees raises the grants of its die's other working
clusters, by amounts that are free (log 38), up to 2.1 GHz and not while the module draws more than its cap; a cycle over the token ceiling costs a held cycle, a count and
event 0x0920. -/
def Obligations.EclipseAndCeiling : Prop :=
  ∀ (s : State),
    (∀ n c t, (stn s n).run = .waiting → (stn s n).pend = some (.wait c t true) → (stn s n).released = false →
      (stn s n).eclipse = false → arraysIdle s n = true →
      exec (.eclipseEnter n) s = .next (updStn s n (fun t => { t with eclipse := true, lent := share s n }))) ∧
    (∀ g, inEclipse s g = true → (clu s g).lowered = false →
      ∃ t, exec (.hurEclipseHeadroom g) s = .next t ∧
        t = { s with clus := t.clus, evs := t.evs, evTotal := t.evTotal, freeCtr := t.freeCtr } ∧
        t.evs = s.evs ++ [evNow s 0x0306 (g / 12) (g % 12) none] ∧ (clu t g).lowered = true ∧
        (clu t g).target = 600 ∧
        (∀ h, h ≠ g → ∃ k, (clu s h).grant ≤ k ∧ k ≤ max (clu s h).grant 2100 ∧ clu t h = { clu s h with grant := k } ∧
          (h / 12 ≠ g / 12 ∨ live s h = false ∨ inEclipse s h = true ∨ effCap s < s.power.watts →
            k = (clu s h).grant))) ∧
    (∀ g, inEclipse s g = true → (clu s g).lowered = true → exec (.hurEclipseHeadroom g) s = .next s) ∧
    (∀ g, live s g = true → ceiling s g < (clu s g).tok →
      ∃ t, exec (.pwrTokenOver g) s = .next t ∧ t = { s with
          clus := t.clus, regs := t.regs, evs := t.evs, evTotal := t.evTotal } ∧
        t.evs = s.evs ++ [evNow s 0x0920 (g / 12) (g % 12) none] ∧
        clu t g = { clu s g with tok := 0, hold := max (clu s g).hold 1 } ∧ (∀ h, h ≠ g → clu t h = clu s h) ∧
        bits (reg t (regKey (g / 12) (0x200 + 8 * (g % 12)))) 63 32 =
          min (2 ^ 32 - 1) (bits (reg s (regKey (g / 12) (0x200 + 8 * (g % 12)))) 63 32 + 1)) ∧
    (∀ g, (clu s g).tok ≤ ceiling s g → exec (.pwrTokenOver g) s = .next s)

/-- Adds and values on their way: an add that has reached its node changes its counter by its value and registered
waiters are told, and a WAIT or XHWAIT on a core or cluster counter that the new value satisfies is released for good; a
node forwards the sums of what it has received to the level above; a value reaches its waiter in the order sent, and
releases a wait that it satisfies; and a waiting unit that has been released, or sees a satisfying value, goes on, a
station once every loan on its share has returned. -/
def Obligations.AddsAndReleases : Prop :=
  ∀ (s : State),
    (∀ i a, s.adds[i]? = some a → addReady s a = true → isJobHurdle s a.c = false →
      ∃ t, exec (.hurdleAddApply i) s = .next t ∧ ctrVal t a.c = ctrVal s a.c + a.n ∧
        (∀ c, c ≠ a.c → CtrExists c → CtrExists a.c → ctrVal t c = ctrVal s c) ∧
        t.adds = dropAt s.adds i ∧
        (registers a.c = true → t.valMsgs = s.valMsgs ++
          ((s.waiters.filter (fun w => w.2 = a.c)).map (fun w => (w.1, a.c, ctrVal s a.c + a.n))) ∧
          t.stns = s.stns ∧ t.clus = s.clus) ∧
        (registers a.c = false → t.valMsgs = s.valMsgs ∧
          (∀ m tgt long, (stn s m).run = .waiting → (stn s m).pend = some (.wait a.c tgt long) →
            satisfied (ctrVal s a.c + a.n) tgt = true → (stn t m).released = true) ∧
          (∀ g, (gcOf s g).state = .xhwait → (gcOf s g).waitCtr = some a.c → (gcOf s g).released = none →
            satisfied (ctrVal s a.c + a.n) (gcOf s g).target = true →
            (gcOf t g).released = some (ctrVal s a.c + a.n)) ∧
          (∀ m, (∀ tgt long, (stn s m).pend ≠ some (.wait a.c tgt long)) → (∀ i, a.c ≠ .core m i) → stn t m = stn s m) ∧
          (∀ g, (gcOf s g).waitCtr ≠ some a.c → clu t g = clu s g)) ∧ SameBytes s t) ∧
    (∀ node, s.netStopped.get false node = false →
      ∃ t, exec (.hurdleNodeForward node) s = .next t ∧
        t = { s with adds := t.adds, hopFails := s.hopFails.drop node } ∧
        (∀ a ∈ t.adds, a.node = node → a.top = node ∨ parentNode node = node) ∧
        (∀ a ∈ s.adds, (a.node ≠ node ∨ a.top = node) → a ∈ t.adds) ∧
        ∀ c, ((t.adds.filter (fun a => a.c = c)).map (·.n)).sum = ((s.adds.filter (fun a => a.c = c)).map (·.n)).sum) ∧
    (∀ i w c v, s.valMsgs[i]? = some (w, c, v) → (∀ e ∈ s.valMsgs.take i, e.1 ≠ w) → cutOff s w c = false →
      ∃ t, exec (.hurdleValueUpdate i) s = .next t ∧
        t = { s with valMsgs := dropAt s.valMsgs i, seen := t.seen, stns := t.stns, clus := t.clus } ∧
        (∀ n tgt long, w = .station n → (stn s n).run = .waiting → (stn s n).pend = some (.wait c tgt long) →
          satisfied v tgt = true → (stn t n).released = true) ∧
        (∀ g, w = .gc g → (gcOf s g).state = .xhwait → (gcOf s g).waitCtr = some c → (gcOf s g).released = none →
          satisfied v (gcOf s g).target = true → (gcOf t g).released = some v) ∧
        (∀ m, w ≠ .station m → stn t m = stn s m) ∧ (∀ g, w ≠ .gc g → clu t g = clu s g) ∧
        (registers c = true → seenVal t w c = v)) ∧
    (∀ i w c v, s.valMsgs[i]? = some (w, c, v) → cutOff s w c = true → exec (.hurdleValueUpdate i) s = .next s) ∧
    (∀ n c t long, (stn s n).run = .waiting → (stn s n).pend = some (.wait c t long) → lentOut (clu s (cluOf n)) n ≠ 0 →
      ((stn s n).released = true ∨ satisfied (seenVal s (.station n) c) t = true ∧ cutOff s (.station n) c = false) →
      exec (.waitRelease (.station n)) s = .next (updStn s n (fun st =>
        { st with released := true, lent := lentOut (clu s (cluOf n)) n }))) ∧
    (∀ n c t long, (stn s n).run = .waiting → (stn s n).pend = some (.wait c t long) →
      ((stn s n).released = true ∨ satisfied (seenVal s (.station n) c) t = true ∧ cutOff s (.station n) c = false) →
      lentOut (clu s (cluOf n)) n = 0 →
      ∃ u, exec (.waitRelease (.station n)) s = .next u ∧
        stn u n = { stn s n with run := .issuing, pend := none, released := true, eclipse := false, lent := 0 } ∧
        (∀ m, m ≠ n → stn u m = stn s m) ∧ (∀ e ∈ u.waiters, e.1 ≠ .station n) ∧ SameBytes s u) ∧
    (∀ g c v, (gcOf s g).state = .xhwait → (gcOf s g).waitCtr = some c → s.dump.state ≠ 1 →
      ((gcOf s g).released = some v ∨ (gcOf s g).released = none ∧ v = seenVal s (.gc g) c ∧
        satisfied v (gcOf s g).target = true ∧ cutOff s (.gc g) c = false) →
      ∃ u, exec (.waitRelease (.gc g)) s = .next u ∧ (gcOf u g).state = .running ∧
        (gcOf u g).pc = ((gcOf s g).pc + 4) % 2 ^ 64 ∧ u.stns = s.stns ∧
        ((gcOf s g).rd ≠ 0 → gx u g (gcOf s g).rd = v.setWidth 64))

/-- Job hurdles: the root applies what has come in and sends the new value to its children, another module passes
it to its parent, and a value from the root replaces this module's copy. The signal net: a flit that arrives and fails its
CRC-8 is counted, one whose CRC is right changes nothing, and after 8 failures the hop stops, with a fatal event and a
test of the hop. -/
def Obligations.JobHurdlesAndTheNet : Prop :=
  ∀ (s : State),
    (∀ i, s.jobUp.get 0 i ≠ 0 → isRoot s = true →
      ∃ t, exec (.jobHurdleRootApply i) s = .next t ∧ t.jobUp.get 0 i = 0 ∧
        t.jobSum = s.jobSum.set i (s.jobSum.get 0 i + s.jobUp.get 0 i) ∧
        t.jobDown = s.jobDown ++ [(i, s.jobSum.get 0 i + s.jobUp.get 0 i)] ∧
        (∀ p ∈ childPorts s, hurMsg s i (s.jobSum.get 0 i + s.jobUp.get 0 i) 3 ∈ (hport t p).hurQ) ∧
        (∀ p, p ∉ childPorts s → hport t p = hport s p)) ∧
    (∀ i p, s.jobUp.get 0 i ≠ 0 → isRoot s = false → parentPort s = some p →
      exec (.jobHurdleRootApply i) s =
        .next (queueHur { s with jobUp := s.jobUp.drop i } p (hurMsg s i (s.jobUp.get 0 i) 2))) ∧
    (∀ i v, s.jobDown.find? (fun e => e.1 = i) = some (i, v) →
      ∃ t, exec (.jobHurdleValueArrive i) s = .next t ∧ ctrVal t (.module i) = v ∧
        t.jobDown = s.jobDown.erase (i, v) ∧ (∀ j, j ≠ i → ctrVal t (.module j) = ctrVal s (.module j)) ∧
        t.valMsgs = s.valMsgs ++ ((s.waiters.filter (fun w => w.2 = .module i)).map (fun w => (w.1, .module i, v)))) ∧
    (∀ node got crc, node < 105 → s.netStopped.get false node = false →
      (crc8 got = crc → exec (.signalNetResend node got crc) s = .next s) ∧
      (crc8 got ≠ crc → s.hopFails.get 0 node < 8 → exec (.signalNetResend node got crc) s =
        .next { s with hopFails := s.hopFails.set node (s.hopFails.get 0 node + 1) })) ∧
    (∀ node, node < 105 → s.netStopped.get false node = false → 8 ≤ s.hopFails.get 0 node →
      ∃ t, exec (.hurNetFail node) s = .next t ∧ t.netStopped = s.netStopped.set node true ∧
        evNow s 0x0305 (nodeDie node) 0 (some node) ∈ t.evs ∧
        (s.tests.length < 256 → s.tests.any (fun x => x.kind = 7 ∧ x.index = node) = false →
          t.tests = s.tests ++ [⟨7, node, 0x0305⟩]) ∧
        (s.jobState = 3 → s.stop.wanted = false → s.stop.stage = 0 →
          t.stop.wanted = true ∧ t.stop.event = 0x0305 ∧ t.stepErr = true) ∧ t.stns = s.stns ∧ SameBytes s t)

/-! ## General cores -/

/-- The hurdle and stream instructions of a general core: an add by hurdle address, the value of a counter of
this module, a wait that is satisfied and one that is not, a bad address (a store access fault, which halts
the core and begins a fault stop), and an engine that is not bound to it. A job hurdle is one of this module's,
whichever module its address names. The value of another counter of another module, and the count of an XSTRM, are free values (logs 44, 45). What a general core's register write and
its passing on do to it, and to nothing else. A core that runs takes the 32-bit instruction at its program counter;
custom-0 words are the 8 instructions by funct3, and a funct7 bit that one does not use makes it an illegal instruction. An
instruction of the public ISA (log 67) that is no load, store, atomic or system instruction changes the core alone, or is
illegal. -/
def Obligations.GeneralCoreInstructions : Prop :=
  (∀ (s : State) (g rd rs1 rs2 A : Nat), gcActs s g = true → A = (gx s g rs1).toNat % 2 ^ 32 →
    (addrBad s A = false →
      exec (.xharrive g rs1 rs2) s = .next (gcNext (signalTo s g A ((gx s g rs2).setWidth 32)) g) ∧
      exec (.xhsignal g rs1 rs2) s = .next (gcNext (signalTo s g A ((gx s g rs2).setWidth 32)) g) ∧
      (addrModule s A = s.moduleId ∨ isJobHurdle s (addrCtr A) = true →
        exec (.xhread g rd rs1) s = .next (gcNext (putGx s g rd ((ctrVal s (addrCtr A)).setWidth 64)) g) ∧
        (∀ long, satisfied (ctrVal s (addrCtr A)) ((gx s g rs2).setWidth 32) = true →
          cutOff s (.gc g) (addrCtr A) = false →
          exec (.xhwait g rd rs1 rs2 long) s =
            .next (gcNext (putGx s g rd ((ctrVal s (addrCtr A)).setWidth 64)) g)) ∧
        (∀ long, (satisfied (ctrVal s (addrCtr A)) ((gx s g rs2).setWidth 32) = false ∨
            cutOff s (.gc g) (addrCtr A) = true) →
          ∃ t, exec (.xhwait g rd rs1 rs2 long) s = .next t ∧ t.stns = s.stns ∧
            gcOf t g = { gcOf s g with state := .xhwait, waitAddr := A, waitCtr := some (addrCtr A), released := none
                                       target := (gx s g rs2).setWidth 32, long := long, rd := rd, wdog := 0 } ∧
            (registers (addrCtr A) = true → cutOff s (.gc g) (addrCtr A) = false →
              t.waiters = s.waiters ++ [(.gc g, addrCtr A)]))) ∧
      (addrModule s A ≠ s.moduleId → isJobHurdle s (addrCtr A) = false → exec (.xhread g rd rs1) s = .next (gcNext (putGx { s with
        freeCtr := s.freeCtr + 1 } g rd (BitVec.ofNat 64 ((Config.freeWord s.freeCtr).toNat % 2 ^ 32))) g) ∧
        ∀ long, exec (.xhwait g rd rs1 rs2 long) s = .next (updGc s g (fun x =>
          { x with state := .xhwait, waitAddr := A, waitCtr := none, released := none
                   target := (gx s g rs2).setWidth 32, long := long, rd := rd, wdog := 0 })))) ∧
    (addrBad s A = true → ∀ long, ∃ t, t = gcTrap (raise (hurErr s (g / 12) 1 (8 * (g % 12)) true) 0x0302 (g / 12)
        (8 * (g % 12)) none) g 7 ∧ exec (.xharrive g rs1 rs2) s = .next t ∧ exec (.xhsignal g rs1 rs2) s = .next t ∧
        exec (.xhwait g rd rs1 rs2 long) s = .next t ∧ exec (.xhread g rd rs1) s = .next t ∧
        (gcOf t g).state = .halted ∧ (gcOf t g).mcause = 7 ∧ (gcOf t g).pc = (gcOf s g).pc) ∧
    (∀ e, e = (gx s g rs1).toNat →
      (gcEngine s g e = true →
        exec (.xrearm g rs1 rs2) s = .next (gcNext (rearmOn s g e ((gx s g rs2).toNat % 2 ^ 48)) g) ∧
        exec (.xstrm g rd rs1 rs2) s = .next (gcNext (putGx (strmOn { s with freeCtr := s.freeCtr + 1 } g e
          ((gx s g rs2).toNat % 2 ^ 48) ((Config.freeWord s.freeCtr).toNat % 2 ^ 32)) g rd 0) g)) ∧
      (gcEngine s g e = false →
        exec (.xrearm g rs1 rs2) s = .next (gcNext (raise s 0x0410 (g / 12) (8 * (g % 12)) none) g) ∧
        exec (.xstrm g rd rs1 rs2) s =
          .next (gcNext (putGx (raise s 0x0410 (g / 12) (8 * (g % 12)) none) g rd 0) g)))) ∧
  (∀ (s : State) (g rd r : Nat) (v : W64),
    (rd ≠ 0 → gx (gcNext (putGx s g rd v) g) g rd = v) ∧ gx s g 0 = 0 ∧
    (r ≠ rd → gx (gcNext (putGx s g rd v) g) g r = gx s g r) ∧
    (gcOf (gcNext (putGx s g rd v) g) g).pc = ((gcOf s g).pc + 4) % 2 ^ 64 ∧
    (gcOf (gcNext (putGx s g rd v) g) g).state = (gcOf s g).state ∧
    (gcOf (gcNext (putGx s g rd v) g) g).f = (gcOf s g).f ∧ (gcOf (gcNext (putGx s g rd v) g) g).v = (gcOf s g).v ∧
    gcNext (putGx s g rd v) g = { s with clus := (gcNext (putGx s g rd v) g).clus } ∧
    (∀ h, h ≠ g → clu (gcNext (putGx s g rd v) g) h = clu s h) ∧
    (∀ cause, (gcOf (gcTrap s g cause) g).state = .halted ∧ (gcOf (gcTrap s g cause) g).mcause = cause ∧
      (s.jobState = 3 → (gcTrap s g cause).stepErr = true))) ∧
  (∀ (s : State) (g lo hi : Nat), gcActs s g = true → (gcOf s g).pc % 2 = 0 → lo < 65536 → lo % 4 = 3 → hi < 65536 →
    gcParcel s g (gcOf s g).pc = .done s (leBytes 2 lo) →
    gcParcel s g (((gcOf s g).pc + 2) % 2 ^ 64) = .done s (leBytes 2 hi) →
    gcStep s g = gcInstr s g 4 (lo + 65536 * hi)) ∧
  (∀ (s : State) (g w rd rs1 rs2 f7 : Nat), w < 2 ^ 32 → w % 128 = 0x0B → rd = bits w 11 7 → rs1 = bits w 19 15 →
    rs2 = bits w 24 20 → f7 = bits w 31 25 →
    match bits w 14 12 with
    | 0 => (f7 = 0 → exec (.xharrive g rs1 rs2) s = .next (gcInstr s g 4 w)) ∧ (f7 ≠ 0 → gcInstr s g 4 w = gcTrap s g 2)
    | 1 => (f7 < 2 → exec (.xhwait g rd rs1 rs2 (f7 = 1)) s = .next (gcInstr s g 4 w)) ∧
        (2 ≤ f7 → gcInstr s g 4 w = gcTrap s g 2)
    | 2 => (f7 = 0 → exec (.xhsignal g rs1 rs2) s = .next (gcInstr s g 4 w)) ∧ (f7 ≠ 0 → gcInstr s g 4 w = gcTrap s g 2)
    | 3 => (f7 = 0 → exec (.xstrm g rd rs1 rs2) s = .next (gcInstr s g 4 w)) ∧ (f7 ≠ 0 → gcInstr s g 4 w = gcTrap s g 2)
    | 4 => (f7 = 0 → exec (.xrearm g rs1 rs2) s = .next (gcInstr s g 4 w)) ∧ (f7 ≠ 0 → gcInstr s g 4 w = gcTrap s g 2)
    | 5 => (f7 < 64 → exec (.xpld g rd rs1 rs2 (f7 % 16) (bitOf f7 4) (bitOf f7 5)) s = .next (gcInstr s g 4 w)) ∧
        (64 ≤ f7 → gcInstr s g 4 w = gcTrap s g 2)
    | 6 => exec (.xpst g rd rs1 rs2 (f7 % 16) (bitOf f7 4) (bitOf f7 5) (bitOf f7 6)) s = .next (gcInstr s g 4 w)
    | _ => (f7 = 0 → exec (.xhread g rd rs1) s = .next (gcInstr s g 4 w)) ∧ (f7 ≠ 0 → gcInstr s g 4 w = gcTrap s g 2)) ∧
  (∀ (s : State) (g len w : Nat), w % 128 ∉ [0x03, 0x07, 0x0B, 0x23, 0x27, 0x2F, 0x73] →
    (∀ c, rvStep s.timeNs s.freeCtr (gcOf s g) len w = some c →
      gcOf (gcInstr s g len w) g = c ∧ (∀ h, h ≠ g → clu (gcInstr s g len w) h = clu s h) ∧
      gcInstr s g len w = { s with clus := (gcInstr s g len w).clus, freeCtr := s.freeCtr + 1 }) ∧
    (rvStep s.timeNs s.freeCtr (gcOf s g) len w = none →
      gcInstr s g len w = gcTrap { s with freeCtr := s.freeCtr + 1 } g 2))

/-- XPLD and XPST between memory that is permitted and free of errors and a vector register: what each loads or
stores, INT8 elements as signed 32-bit numbers, and no other byte of memory. The formats that no tile has, and a
scaled block column of an XPST, trap as an illegal instruction, and an element that the core may not reach as an
access fault. A tile behind a stopped hop of the main fabric keeps the core at its instruction (log 59); what an XPLD reads
of bytes that a stream descriptor in flight is writing is a free value (log 64). -/
def Obligations.BlocksOfTiles : Prop :=
  ∀ (s : State) (g vd rs1 rs2 fmt : Nat) (sc tr pr : Bool), gcActs s g = true →
    (tileOk fmt sc = false → exec (.xpld g vd rs1 rs2 fmt sc tr) s = .next (gcTrap s g 2) ∧
      exec (.xpst g vd rs1 rs2 fmt sc tr pr) s = .next (gcTrap s g 2)) ∧
    (sc = true → tr = true → exec (.xpst g vd rs1 rs2 fmt sc tr pr) s = .next (gcTrap s g 2)) ∧
    (∀ f, Fmt.ofCode fmt = some f → tileOk fmt sc = true →
      ((∃ o ∈ blockBytes f sc (blockElems (gx s g rs2).toNat tr), gcReach s g ((gx s g rs1).toNat + o) 1 false = false) →
        exec (.xpld g vd rs1 rs2 fmt sc tr) s = .next (gcTrap s g 5))) ∧
    (s.cwErr = [] → (∀ o ∈ blockBytes .int8 false (blockElems (gx s g rs2).toNat tr),
        gcReach s g ((gx s g rs1).toNat + o) 1 false = true) → gcBlocked s g (gx s g rs1).toNat = false →
      (∀ r ∈ openRanges s, (gx s g rs1).toNat + storedBytes 8 false ≤ r.1 ∨ r.1 + r.2 ≤ (gx s g rs1).toNat) →
      ∃ t, exec (.xpld g vd rs1 rs2 8 false tr) s = .next t ∧ t = { s with clus := t.clus, nfCnt := t.nfCnt } ∧
        (∀ i e, (blockElems (gx s g rs2).toNat tr)[i]? = some e → vElem t g vd i =
          BitVec.ofInt 32 (memGet s.mem ((gx s g rs1).toNat + elemIndex e.1 e.2)).toInt) ∧
        (gcOf t g).x = (gcOf s g).x ∧ (gcOf t g).pc = ((gcOf s g).pc + 4) % 2 ^ 64) ∧
    (∀ f bs c, Fmt.ofCode fmt = some f → tileOk fmt sc = true → (sc = true → tr = false) → s.cwErr = [] →
      c = convert f sc false pr 1 0 ((List.range 32).map (fun i =>
        if fmt = 8 && !sc then ofInt (vElem s g vd i).toInt else ofF32 (vElem s g vd i))) →
      bs = (xpstBytes f sc (blockElems (gx s g rs2).toNat tr) c).map (fun e => ((gx s g rs1).toNat + e.1, e.2)) →
      (∀ e ∈ bs, gcReach s g e.1 1 true = true) →
      (gcBlocked s g (gx s g rs1).toNat = true → exec (.xpst g vd rs1 rs2 fmt sc tr pr) s = .next s) ∧
      (gcBlocked s g (gx s g rs1).toNat = false → ∃ t, exec (.xpst g vd rs1 rs2 fmt sc tr pr) s = .next t ∧
        (∀ b, memGet t.mem b = memGet (memPut s.mem bs) b) ∧ (∀ b, (∀ e ∈ bs, e.1 ≠ b) → memGet t.mem b = memGet s.mem b) ∧
        gcOf t g = { gcOf s g with pc := ((gcOf s g).pc + 4) % 2 ^ 64 } ∧ t.stns = s.stns ∧
        (bitOf (gx s g rs2).toNat 9 = false → t.nfCnt = s.nfCnt) ∧
        (bitOf (gx s g rs2).toNat 9 = true → ∀ k, t.nfCnt.get 0 k = s.nfCnt.get 0 k +
          if k = bits (gx s g rs2).toNat 15 10 then c.count else 0)))

/-- Loads and stores of a general core by module address: bytes of memory that it may reach, in little-endian
order, and an access that it may not make. An ECALL with a7 0 ends its part in the RUN; any other exception
halts it and begins a fault stop. INVSPD: a size outside 1 to 512 answers −1; else a0 is the number of
damped retries, and after the last one has failed the matrix is the identity, counted, with event 0x0707.
The values of an inverse are free (log 15), as is what a load reads of bytes that a stream descriptor in flight is
writing (log 64); an access behind a stopped hop of the main fabric keeps the core at its instruction (log 59). -/
def Obligations.GeneralCoreAccesses : Prop :=
  (∀ (s : State) (g a size : Nat), gcActs s g = true →
    (∀ op, gcSizeOk op size = true → gcStored s g op size = none → gcRegOk s g a size false = false →
      gcReach s g a size false = true → s.cwErr = [] → gcBlocked s g a = false →
      (∀ r ∈ openRanges s, a + size ≤ r.1 ∨ r.1 + r.2 ≤ a) →
      ∃ t, exec (.generalCoreLoadStore g op a size) s = .next t ∧
        t = { gcNext (gcLoaded s g op (memRead s.mem a size)) g with reached := t.reached }) ∧
    (∀ rd sg (t : State), rd ≠ 0 → (size = 1 ∨ size = 2 ∨ size = 4 ∨ size = 8) →
      t = gcNext (gcLoaded s g (.load rd sg) (memRead s.mem a size)) g →
        (sg = false → gx t g rd = BitVec.ofNat 64 (ofLe (memRead s.mem a size))) ∧
        (sg = true → (gx t g rd).toInt = (BitVec.ofNat (8 * size) (ofLe (memRead s.mem a size))).toInt)) ∧
    (∀ op bs, gcSizeOk op size = true → gcStored s g op size = some bs → gcRegOk s g a size true = false →
      gcReach s g a size true = true → s.cwErr = [] → gcBlocked s g a = false →
      ∃ t, exec (.generalCoreLoadStore g op a size) s = .next t ∧
        (∀ k, k < size → memGet t.mem (a + k) = bs.getD k 0) ∧
        (∀ b, b < a ∨ a + size ≤ b → memGet t.mem b = memGet s.mem b) ∧ t.stns = s.stns ∧
        gcOf t g = { gcOf s g with pc := ((gcOf s g).pc + 4) % 2 ^ 64 }) ∧
    (∀ rs k, k < size → size ≤ 8 →
      (gcStored s g (.store rs) size).map (fun l => l.getD k 0) = some ((gx s g rs).extractLsb' (8 * k) 8)) ∧
    (∀ op, gcSizeOk op size = true →
      (gcStored s g op size = none → gcRegOk s g a size false = true → exec (.generalCoreLoadStore g op a size) s =
        .next (gcNext (gcLoaded (readReg s (a - regSpan) size).1 g op
          (leBytes size (readReg s (a - regSpan) size).2)) g)) ∧
      (∀ bs, gcStored s g op size = some bs → gcRegOk s g a size true = true →
        exec (.generalCoreLoadStore g op a size) s =
          .next (gcNext (writeReg s (a - regSpan) size (ofLe bs)) g))) ∧
    (∀ op w, gcSizeOk op size = true → w = (gcStored s g op size).isSome → gcRegOk s g a size w = false →
      gcReach s g a size w = true → gcBlocked s g a = true → exec (.generalCoreLoadStore g op a size) s = .next s) ∧
    (∀ op, gcSizeOk op size = true → gcRegOk s g a size false = false → gcReach s g a size false = false →
      gcStored s g op size = none → exec (.generalCoreLoadStore g op a size) s = .next (gcTrap s g 5)) ∧
    (∀ op bs, gcSizeOk op size = true → gcRegOk s g a size true = false → gcReach s g a size true = false →
      gcStored s g op size = some bs → exec (.generalCoreLoadStore g op a size) s = .next (gcTrap s g 7)) ∧
    (gx s g 17 = 0 → ∃ t, exec (.gcRunEndEcall g) s = .next t ∧ (gcOf t g).state = .halted ∧
      t.run.gcEnded = s.run.gcEnded.set g true ∧ t.stns = s.stns ∧ SameBytes s t ∧
      (∀ h, h ≠ g → clu t h = clu s h)) ∧
    (∀ cause, cause ≠ 8 ∨ (gx s g 17 ≠ 0 ∧ gx s g 17 ≠ 0x100) →
      exec (.gcException g cause) s = .next (gcTrap s g cause))) ∧
  (∀ (s : State) (g retries a n : Nat), gcActs s g = true → gx s g 17 = 0x100 → retries ≤ 4 →
    a = (gx s g 10).toNat → n = (gx s g 11).toNat →
    (n = 0 ∨ 512 < n → exec (.invspd g retries) s = .next (gcNext (putGx s g 10 (-1)) g)) ∧
    (1 ≤ n → n ≤ 512 → gcReach s g a (4 * n * n) false = true → gcReach s g a (4 * n * n) true = true → s.cwErr = [] →
      ∃ t, exec (.invspd g retries) s = .next t ∧ gx t g 10 = BitVec.ofNat 64 retries ∧
        (∀ b, b < a ∨ a + 4 * n * n ≤ b → memGet t.mem b = memGet s.mem b) ∧
        (retries = 4 → memRead t.mem a (4 * n * n) = identityBytes n ∧
          t.evs = s.evs ++ [evNow s 0x0707 (g / 12) (8 * (g % 12)) none]) ∧
        (retries < 4 → memRead t.mem a (4 * n * n) = inverseBytes s.freeCtr n ∧ t.evs = s.evs)))

/-! ## Windows and banks -/

/-- The checks of a window request, in order: the first that fails discards it, answers WINDOW_DEAD, counts it
and raises 0x0406, with no byte of memory changed; a write that passes all changes its bytes and no others,
and a read delivers them; one whose bank is changing waits. An answered request of this module's own descriptor is
struck from it, with its status; what a window of this module has accepted of it, and what a read delivers, is kept until
the descriptor completes (the model's, logs 16, 64). -/
def Obligations.WindowRequests : Prop :=
  (∀ (s : State) (q : WinReq) (w : Win) (bank : Nat), w = win s q.cluster q.window →
    bank = 6144 + 32 * q.cluster + (65536 * w.base + q.offset) / 0x400000 →
    (w.state ≠ 1 → winFails s q = some 0) ∧
    (w.state = 1 → (q.srcModule ≠ w.srcModule ∨ q.srcJob ≠ w.srcJob) → winFails s q = some 1) ∧
    (w.state = 1 → q.srcModule = w.srcModule → q.srcJob = w.srcJob →
      bitOf w.dir (if q.write then 0 else 1) = false → winFails s q = some 2) ∧
    (w.state = 1 → q.srcModule = w.srcModule → q.srcJob = w.srcJob →
      bitOf w.dir (if q.write then 0 else 1) = true →
      (65536 * (w.sizeM1 + 1) < q.offset + q.length → winFails s q = some 3) ∧
      (q.offset + q.length ≤ 65536 * (w.sizeM1 + 1) →
        (s.bankState.get 0 bank = 0 → winFails s q = some 4) ∧
        (s.bankState.get 0 bank ≠ 0 → winFails s q = none))) ∧
    (∀ r d c, winFails s q = some r → waitingUnit s q = none → (d, c) = winPlace q →
      ∃ t, exec (.winRequestCheck q) s = .next t ∧ (winUnit s q).2.1 = stDead ∧ (winUnit s q).2.2 = [] ∧
        t = { s with regs := t.regs, evs := t.evs, evTotal := t.evTotal } ∧
        t.evs = s.evs ++ [evNow s 0x0406 d c none] ∧ (q.cluster < 96 → d = q.cluster / 12 ∧ c = q.cluster % 12) ∧
        bits (reg t (regKey d 0xA90)) 31 0 = min (2 ^ 32 - 1) (bits (reg s (regKey d 0xA90)) 31 0 + 1)) ∧
    (winFails s q = none → changing s (winAddr s q) q.length = true → exec (.winRequestCheck q) s = .next s) ∧
    (winFails s q = none → changing s (winAddr s q) q.length = false → waitingUnit s q = none → s.cwErr = [] →
      q.write = true → q.data.length = q.length →
      ∃ t, exec (.winRequestCheck q) s = .next t ∧ (winUnit s q).2.1 = stOK ∧
        (∀ k, k < q.length → memGet t.mem (winAddr s q + k) = q.data.getD k 0) ∧
        (∀ a, a < winAddr s q ∨ winAddr s q + q.length ≤ a → memGet t.mem a = memGet s.mem a) ∧ t.stns = s.stns) ∧
    (winFails s q = none → changing s (winAddr s q) q.length = false → waitingUnit s q = none → s.cwErr = [] →
      q.write = false → (∀ r ∈ openRanges s, winAddr s q + q.length ≤ r.1 ∨ r.1 + r.2 ≤ winAddr s q) →
      ∃ t, exec (.winRequestCheck q) s = .next t ∧ (winUnit s q).2.1 = stOK ∧
        (winUnit s q).2.2 = memRead s.mem (winAddr s q) q.length ∧ SameBytes s t ∧ t.stns = s.stns)) ∧
  (∀ (s : State) (q : WinReq) (k i : Nat) (d : DescRun), waitingUnit s q = some (k, i, d) →
    (∀ r u, winFails s q = some r → u = endRun (updRun (winDead s q r) (k / 4) (k % 4) i
        (fun x => { x with units := x.units.erase q })) (k / 4) (k % 4) i stDead 0x0402 →
      (q.write = true → exec (.winRequestCheck q) s = .next u) ∧
      ∃ t, exec (.winRequestCheck q) s = .next t ∧ t = { u with engines := t.engines } ∧
        (eng t (k / 4) (k % 4)).flight = (eng u (k / 4) (k % 4)).flight) ∧
    (winFails s q = none → changing s (winAddr s q) q.length = false → q.write = true → (winUnit s q).2.1 = stOK →
      exec (.winRequestCheck q) s = .next (updRun (winUnit s q).1 (k / 4) (k % 4) i
        (fun x => { x with units := x.units.erase q, taken := x.taken ++ [(winAddr s q, q.length)] }))) ∧
    (∀ a u, winFails s q = none → changing s (winAddr s q) q.length = false → q.write = false →
      (winUnit s q).2.1 = stOK → a = d.d.w2 + (q.offset - bits d.d.w1 58 32) →
      u = updRun (winUnit s q).1 (k / 4) (k % 4) i (fun x => { x with units := x.units.erase q }) →
      exec (.winRequestCheck q) s = .next (updRun u (k / 4) (k % 4) i (fun x =>
        { x with late := x.late ++ numbered a (winUnit s q).2.2 }))))

/-- Window messages of other modules: a write and a read are performed request by request and answered with the
tag of the request, a read of which a part fails by WINDOW_DEAD; a message waits while a bank that it names is changing;
of a write of which a part is refused, what the
others stored is a free value (the model's form, log 16), and nothing else of memory changes. -/
def Obligations.WindowMessages : Prop :=
  ∀ (s : State) (p : Nat) (m : Msg) (u : State), (p, m) ∈ s.inbox → u = { s with inbox := s.inbox.erase (p, m) } →
    ((m.mtype = 1 → (∃ q ∈ msgUnits m true m.data.length, winWaits s q = true) → exec (.winWrite p m) s = .next s) ∧
      (m.mtype = 2 → (∃ q ∈ msgUnits m false m.want, winWaits s q = true) → exec (.winRead p m) s = .next s)) ∧
    (m.mtype = 1 → (∀ q ∈ msgUnits m true m.data.length, winWaits s q = false) →
      (winUnits u (msgUnits m true m.data.length)).2.1 ≠ stDead →
      exec (.winWrite p m) s = .next (sendMsg (winUnits u (msgUnits m true m.data.length)).1
      (newMsg (winUnits u (msgUnits m true m.data.length)).1 4 m.src m.tag
        (winUnits u (msgUnits m true m.data.length)).2.1 []))) ∧
    (m.mtype = 1 → (∀ q ∈ msgUnits m true m.data.length, winWaits s q = false) →
      (winUnits u (msgUnits m true m.data.length)).2.1 = stDead → s.cwErr = [] →
      ∃ v, exec (.winWrite p m) s = .next (sendMsg v (newMsg v 4 m.src m.tag stDead [])) ∧ v.stns = s.stns ∧
        ∀ a, (∀ q ∈ msgUnits m true m.data.length, winFails u q = none →
          a < winAddr u q ∨ winAddr u q + 256 ≤ a) → memGet v.mem a = memGet s.mem a) ∧
    (m.mtype = 2 → (∀ q ∈ msgUnits m false m.want, winWaits s q = false) →
      (winUnits u (msgUnits m false m.want)).2.1 = stOK →
      exec (.winRead p m) s = .next (sendMsg (winUnits u (msgUnits m false m.want)).1
        (newMsg (winUnits u (msgUnits m false m.want)).1 3 m.src m.tag 0 (winUnits u (msgUnits m false m.want)).2.2))) ∧
    (m.mtype = 2 → (∀ q ∈ msgUnits m false m.want, winWaits s q = false) →
      (winUnits u (msgUnits m false m.want)).2.1 ≠ stOK →
      exec (.winRead p m) s = .next (sendMsg (winUnits u (msgUnits m false m.want)).1
        (newMsg (winUnits u (msgUnits m false m.want)).1 4 m.src m.tag stDead []))) ∧
    (∀ k i d off, m.mtype = 3 → waitingTag s m.tag = some (k, i, d, off) →
      exec (.readData p m) s = .next (updRun (updRun u (k / 4) (k % 4) i (fun x =>
          { x with late := x.late ++ numbered (d.d.w2 + off) m.data })) (k / 4) (k % 4) i
        (fun x => { x with reqs := x.reqs.filter (fun q => q.1 ≠ m.tag) }))) ∧
    (∀ k i d off, m.mtype = 4 → waitingTag s m.tag = some (k, i, d, off) →
      (m.target % 256 = stOK → exec (.winReply p m) s = .next (answered u k i m.tag)) ∧
      (m.target % 256 = stDead →
        exec (.winReply p m) s = .next (endRun (answered u k i m.tag) (k / 4) (k % 4) i stDead 0x0402)) ∧
      (m.target % 256 ≠ stOK → m.target % 256 ≠ stDead →
        exec (.winReply p m) s = .next (endRun (answered u k i m.tag) (k / 4) (k % 4) i stFault 0x0403))) ∧
    (m.mtype = 7 → ∃ t, exec (.chunkReply p m) s = .next t ∧ t = { u with gws := t.gws } ∧
      ∀ e ∈ t.gws, m.tag ∉ e.2.gathers)

/-! ## Memory tiers -/

/-- Corrected write-back, patrol scrub, refresh and its rate, a readout that asks for the rate in effect showing in
temp_c alone. KEEP banks between RUNs: an access wakes one that
is retaining, and 100 µs without one puts it back. -/
def Obligations.TiersAndBanks : Prop :=
  (∀ (s : State),
    (∀ i cw, s.writeBack[i]? = some (cw, none) → ∃ t, exec (.correctedWriteBack i) s = .next t ∧
      t = { s with cwErr := s.cwErr.drop cw, writeBack := s.writeBack.filter (fun e => e.1 ≠ cw) } ∧ SameBytes s t) ∧
    (∀ w, w < 8 → 6 ≤ s.power.stage → s.cwErr = [] →
      exec (.patrolScrubRead w) s = .next { s with scrubAt := s.scrubAt.set w (s.scrubAt.get 0 w + 1) }) ∧
    (∀ w cw, w < 8 → 6 ≤ s.power.stage → scrubCw s w (s.scrubAt.get 0 w % scrubSpan s w) = some cw →
      (s.cwErr.get {} cw).virt = false → 1 ≤ (s.cwErr.get {} cw).syms →
      ((s.cwErr.get {} cw).syms ≤ 3 → ∃ t, exec (.patrolScrubRead w) s = .next t ∧ SameBytes s t ∧
        t.cwErr.get {} cw = {} ∧ (∀ c, c ≠ cw → t.cwErr.get {} c = s.cwErr.get {} c)) ∧
      (4 ≤ (s.cwErr.get {} cw).syms → (s.cwErr.get {} cw).syms ≤ 5 →
        ∃ t, exec (.patrolScrubRead w) s = .next t ∧ SameBytes s t ∧ t.cwErr = s.cwErr ∧ t.stns = s.stns ∧
          evNow s 0x0504 (memDie s (64 * cw)).1 0 none ∈ t.evs)) ∧
    (∀ u, refreshes s u = true → exec (.dramRefresh u) s =
      .next (updDram s u (fun d => { d with refreshes := d.refreshes + 1 }))) ∧
    (∀ u temp, u < 48 → 5 ≤ s.power.stage →
      ((dramOf s u).refresh < refreshRate temp → exec (.memRefreshRaised u temp) s =
        .next (raise (updDram s u (fun d => { d with refresh := refreshRate temp, temp := temp % 256 }))
          0x0507 (dramWindow u).1 (dramWindow u).2 none)) ∧
      (refreshRate temp < (dramOf s u).refresh → exec (.refreshRateLowered u temp) s =
        .next (updDram s u (fun d => { d with refresh := refreshRate temp, temp := temp % 256 }))) ∧
      (refreshRate temp = (dramOf s u).refresh →
        exec (.memRefreshRaised u temp) s = .next (updDram s u (fun d => { d with temp := temp % 256 })) ∧
        exec (.refreshRateLowered u temp) s = .next (updDram s u (fun d => { d with temp := temp % 256 })))) ∧
    (∀ temp, refreshRate temp = (if temp ≤ 85 then 0 else if temp ≤ 95 then 1 else 2))) ∧
  (∀ (s : State) (b : Nat),
    (s.jobState = 2 → s.bankMode.get 0 b = 2 → s.bankState.get 0 b = 2 →
      exec (.bankWake b) s = .next { s with bankState := s.bankState.set b 1 }) ∧
    (s.jobState = 2 → s.bankMode.get 0 b = 2 → s.bankState.get 0 b = 1 →
      exec (.bankRetainTimeout b) s = .next { s with bankState := s.bankState.set b 2 } ∧
      exec (.bankWake b) s = .next s) ∧
    (s.jobState ≠ 2 → exec (.bankWake b) s = .next s ∧ exec (.bankRetainTimeout b) s = .next s))

/-- A write changes the bytes it is given and no other, wherever no codeword it touches has an error. A read
delivers what the last write left, and changes no byte. A codeword of more symbol errors than can be
corrected fails the read that meets it first. -/
def Obligations.MemoryKeepsWhatIsWritten : Prop :=
  (∀ (s : State) (a : Nat) (bs : List Byte), (∀ i, i < bs.length → s.cwErr.get {} ((a + i) / 64) = {}) →
    (writeMem s a bs).2 = true ∧ (∀ i, i < bs.length → memGet (writeMem s a bs).1.mem (a + i) = bs.getD i 0) ∧
    (∀ b, b < a ∨ a + bs.length ≤ b → memGet (writeMem s a bs).1.mem b = memGet s.mem b)) ∧
  (∀ (s : State) (a : Nat) (bs : List Byte), (∀ i, i < bs.length → s.cwErr.get {} ((a + i) / 64) = {}) →
    (readMem (writeMem s a bs).1 a bs.length).fail = none ∧
    readBytes (readMem (writeMem s a bs).1 a bs.length) a bs.length = bs ∧
    (∀ n, SameBytes s (readMem s a n).s) ∧
    (∀ n, 0 < n → (s.cwErr.get {} (a / 64)).virt = false → 4 ≤ (s.cwErr.get {} (a / 64)).syms →
      (s.cwErr.get {} (a / 64)).syms ≤ 5 → (readMem s a n).fail = some (a / 64)))

/-! ## Handoff links -/

/-- Bring-up of a port: it sends its control flit, it comes UP with the peer whose control flits it has seen and
everything of the flit layer begins anew, and a port with a failed lane does not come UP; 4 attempts that fail
leave it FAILED with event 0x0603; a port that leaves UP raises 0x0604, and the loss of one that the loaded course
uses ends the RUN. -/
def Obligations.PortsComeUpAndGoDown : Prop :=
  ∀ (s : State) (p : Nat), p < 16 →
    (∀ pm pp, pm < 1024 → pp < 16 → ((hport s p).seen ≠ some (pm, pp) ∨ laneFailed s p = true) →
      exec (.portUp p pm pp) s = .next s) ∧
    (∀ pm pp, (hport s p).state = 1 → (hport s p).enabled = true → linksOpen s = true → pm < 1024 → pp < 16 →
      (hport s p).seen = some (pm, pp) → laneFailed s p = false →
      ∃ t, exec (.portUp p pm pp) s = .next t ∧ (∀ q, q ≠ p → hport t q = hport s q) ∧
        hport t p = { hport s p with
          state := 2, peerModule := pm, peerPort := pp, attempts := 0, slot := 0, before := some (pm, pp), spaces := []
          trained := true, credit0 := 1024, credit1 := 1024, freed0 := 0, freed1 := 0, starts := [], rx := []
          sent := none } ∧
        t.capGen = (s.capGen + 1) % 2 ^ 32 ∧ evNow s 0x0607 (8 + p / 8) p none ∈ t.evs ∧
        (((hport s p).before = none ∨ (hport s p).before = some (pm, pp)) → t.regs = s.regs ∧
          t.evs = s.evs ++ [evNow s 0x0607 (8 + p / 8) p none]) ∧
        (∀ b, (hport s p).before = some b → b ≠ (pm, pp) → evNow s 0x0605 (8 + p / 8) p none ∈ t.evs ∧
          bitOf (reg t (hofReg p 8)) 3 = true)) ∧
    ((hport s p).state = 1 → (hport s p).attempts ≠ 3 → exec (.hofTrainFail p) s =
      .next (updHPort s p (fun h => { h with state := 3, attempts := h.attempts + 1 }))) ∧
    ((hport s p).state = 1 → (hport s p).attempts = 3 → ∃ t, exec (.hofTrainFail p) s = .next t ∧
      hport t p = { hport s p with state := 3, attempts := 4 } ∧
      t.evs = s.evs ++ [evNow s 0x0603 (8 + p / 8) p none] ∧ bitOf (reg t (hofReg p 8)) 2 = true) ∧
    ((hport s p).state = 3 → (hport s p).enabled = true → portHeld s p = false → 1 ≤ (hport s p).attempts →
      (hport s p).attempts ≤ 3 → exec (.portTrainRetry p) s = .next (updHPort s p (fun h =>
        { h with state := 1, seen := none, sent := some (controlFlit s 0 (identityBody s p) {}) }))) ∧
    ((hport s p).state = 2 → ∃ t, exec (.hofPortDown p) s = .next t ∧
      (laneFailed s p = true → hport t p = { hport s p with state := 3, attempts := 0 }) ∧
      (laneFailed s p = false → hport t p = { hport s p with
        state := 1, attempts := 0, seen := none, sent := some (controlFlit s 0 (identityBody s p) {}) }) ∧ t.capGen = (s.capGen + 1) % 2 ^ 32 ∧
      t.evs = s.evs ++ [evNow s 0x0604 (8 + p / 8) p none] ∧ SameBytes s t ∧
      (usedPort s p = false → t.stop = s.stop ∧ t.run = s.run) ∧
      (usedPort s p = true → t.run.portLost = true ∧
        (s.jobState = 3 → s.stop.wanted = false → s.stop.stage = 0 → t.stop.wanted = true ∧ t.stop.event = 0x0604 ∧
          t.stepErr = true)))

/-- The flit of a slot: in every slot 31 modulo 32 a signal flit, a resent one first, or an idle one; else a control
flit, a resent message flit, or the first message flit that has a credit and room in the replay buffer, which it enters,
enciphered under the link key, by the next sequence number. A flit of the replay buffer is sent again unchanged. A flit
as it is sent has a good CRC, and its link word and body are read back from its bytes. -/
def Obligations.FlitsOfSlots : Prop :=
  (∀ (l : LinkWord) (rest : List Byte), flitGood (flitBytes l rest) = true ∧ (flitBytes l rest).length = 256 ∧
    (rest.length = 240 → ((flitBytes l rest).drop 12).take 240 = rest) ∧
    (l.seq < 4096 → l.ack < 4096 → l.type < 8 → l.cls < 2 → l.dst < 1024 → l.src < 1024 → l.cr0 < 128 → l.cr1 < 128 →
      l.reserved = 0 → l.job < 2 ^ 32 → readLink (ofLe ((flitBytes l rest).take 12)) = l)) ∧
  ∀ (s : State) (p : Nat), p < 16 → (hport s p).state = 2 →
    (∀ k f rest, ((hport s p).slot % 32 = 31 ∧ k = 1 ∨ (hport s p).slot % 32 ≠ 31 ∧ k = 0 ∧ (hport s p).ctlQ = []) →
      toResend (hport s p) k = f :: rest →
      ∃ t, exec (.flitSlot p) s = .next t ∧ (hport t p).sent = some f.2 ∧ (hport t p).slot = (hport s p).slot + 1 ∧
        (hport t p).counter = (hport s p).counter ∧ (space (hport t p) k).next = (space (hport s p) k).next ∧
        (space (hport t p) k).unacked = (space (hport s p) k).unacked ∧ SameBytes s t) ∧
    ((hport s p).slot % 32 = 31 → toResend (hport s p) 1 = [] →
      ((hport s p).hurQ = [] ∨ s.keys.link = none ∨ 2048 ≤ (space (hport s p) 1).unacked.length) →
      exec (.flitSlot p) s = .next (sendPlain s p 1 {} (hport s p))) ∧
    ((hport s p).slot % 32 = 31 → toResend (hport s p) 1 = [] → (hport s p).hurQ ≠ [] → s.keys.link.isSome = true →
      (space (hport s p) 1).unacked.length < 2048 →
      ∃ t, exec (.flitSlot p) s = .next t ∧ t = { s with ports := t.ports, regs := t.regs } ∧
        (hport t p).hurQ = (hport s p).hurQ.drop 14 ∧ (hport t p).slot = (hport s p).slot + 1 ∧
        (hport t p).counter = (hport s p).counter + 1 ∧
        ∃ bs l, (hport t p).sent = some bs ∧ l.type = 3 ∧ l.seq = (space (hport s p) 1).next ∧ l.job = jobNo s ∧
          bs = flitBytes l (gcmSeal (linkKey s) (flitIv s.moduleId p (hport s p).counter) (flitAad l)
            (sized 224 (((hport s p).hurQ.take 14).flatMap hurBytes))) ∧
          (space (hport t p) 1).unacked = (space (hport s p) 1).unacked ++ [((space (hport s p) 1).next, bs)] ∧
          (space (hport t p) 1).next = ((space (hport s p) 1).next + 1) % 4096) ∧
    ((hport s p).slot % 32 ≠ 31 →
      (∀ b rest, (hport s p).ctlQ = b :: rest → exec (.flitSlot p) s =
        .next (sendPlain s p 0 { type := 4, dst := (hport s p).peerModule, src := s.moduleId, body := b }
          { hport s p with ctlQ := rest })) ∧
      ((hport s p).ctlQ = [] → toResend (hport s p) 0 = [] → (∀ f ∈ (hport s p).txQ, (if f.cls = 0 then (hport s p).credit0
          else (hport s p).credit1) = 0) → exec (.flitSlot p) s = .next (sendPlain s p 0 {} (hport s p))) ∧
      (∀ f rest, (hport s p).ctlQ = [] → toResend (hport s p) 0 = [] → (hport s p).txQ = f :: rest →
        s.keys.link.isSome = true → 0 < (if f.cls = 0 then (hport s p).credit0 else (hport s p).credit1) →
        (space (hport s p) 0).unacked.length < 2048 →
        ∃ t bs l, exec (.flitSlot p) s = .next t ∧ t = { s with ports := t.ports, regs := t.regs } ∧
          (hport t p).txQ = rest ∧ (hport t p).sent = some bs ∧ l.type = f.type ∧ l.cls = f.cls ∧ l.dst = f.dst ∧
          l.src = f.src ∧ l.job = f.job ∧ l.seq = (space (hport s p) 0).next ∧
          bs = flitBytes l (gcmSeal (linkKey s) (flitIv s.moduleId p (hport s p).counter) (flitAad l)
            (sized 224 f.body)) ∧ (hport t p).counter = (hport s p).counter + 1 ∧
          (space (hport t p) 0).unacked = (space (hport s p) 0).unacked ++ [((space (hport s p) 0).next, bs)] ∧
          (hport t p).credit0 = (hport s p).credit0 - (if f.cls = 0 then 1 else 0) ∧
          (hport t p).credit1 = (hport s p).credit1 - (if f.cls = 0 then 0 else 1)))

/-- A flit that reaches a port: a bad CRC only makes a nak due; a sequenced flit that is not the expected one is
discarded whole; the expected one of the loaded job whose tag is good under its sender's counter (the model's operand,
log 66) is accepted, and one of another job is discarded, counted and freed, a request with a clear reply to its sender;
a bad tag stops the port. Resends: a nak has the flit that it names and every later one sent again, an acknowledgement
that does not come in time the oldest one and every later one; a flit that has failed 16 resends stops the port with
event 0x0601. Control flits carry the peer's identity in bring-up, and clear replies in UP (their layout is the model's,
log 66). -/
def Obligations.FlitsReceivedAndResent : Prop :=
  (∀ (s : State) (p k counter : Nat) (bytes rest : List Byte) (l : LinkWord), p < 16 → k < 2 →
    (hport s p).state = 2 → l = readLink (ofLe (bytes.take 12)) → rest = (bytes.drop 12).take 240 →
    (flitGood bytes = false → exec (.flitReceive p k counter bytes) s =
      .next (updHPort s p (fun h => updSpace h k (fun x => { x with nakDue := true })))) ∧
    (flitGood bytes = true → l.nak = false → l.type = 0 → exec (.flitReceive p k counter bytes) s =
      .next (updHPort s p (fun h => takeAck h k l))) ∧
    (flitGood bytes = true → 1 ≤ l.type → l.type ≤ 3 → k = (if l.type = 3 then 1 else 0) →
      (l.seq ≠ (space (hport s p) k).expect → exec (.flitReceive p k counter bytes) s = .next s) ∧
      (l.seq = (space (hport s p) k).expect → l.nak = false → jobMatches s l = false →
        ∃ t, exec (.flitReceive p k counter bytes) s = .next t ∧ t.inbox = s.inbox ∧ t.inHur = s.inHur ∧
          (space (hport t p) k).expect = ((space (hport s p) k).expect + 1) % 4096 ∧
          bitOf (reg t (hofReg p 8)) 4 = true ∧
          (l.type ≠ 3 → l.cls = 0 → (hport t p).freed0 = (hport s p).freed0 + 1) ∧
          (hport t p).ctlQ = (hport s p).ctlQ ++ (if l.type = 1 ∧ l.cls = 0 then [clearBody l.seq] else []))) ∧
      (l.seq = (space (hport s p) k).expect → l.nak = false → jobMatches s l = true →
        (∀ body, gcmOpen (linkKey s) (flitIv (hport s p).peerModule (hport s p).peerPort counter) (flitAad l) rest =
            some body →
          (l.type = 3 → ∃ t, exec (.flitReceive p k counter bytes) s = .next t ∧
            t.inHur = s.inHur ++ [(p, signalBody body)] ∧
            (space (hport t p) k).expect = ((space (hport s p) k).expect + 1) % 4096) ∧
          (∀ m, l.type = 1 → m = readMsg l.dst l.src body → flitsFor m.length ≤ 1 → m.dst = s.moduleId →
            1 ≤ m.mtype → m.mtype ≤ 7 →
            ∃ t, exec (.flitReceive p k counter bytes) s = .next t ∧ t.inbox = s.inbox ++ [(p, m)] ∧
              (space (hport t p) k).expect = ((space (hport s p) k).expect + 1) % 4096)) ∧
        (gcmOpen (linkKey s) (flitIv (hport s p).peerModule (hport s p).peerPort counter) (flitAad l) rest = none →
          ∃ t, exec (.flitReceive p k counter bytes) s = .next t ∧ (hport t p).state = 3 ∧
            t.inbox = s.inbox ∧ t.inHur = s.inHur ∧ evNow s 0x0602 (8 + p / 8) p none ∈ t.evs))) ∧
  (∀ (s : State) (p k : Nat), p < 16 →
    (∀ seq n, (hport s p).state = 2 → (∃ f ∈ (space (hport s p) k).unacked, f.1 = seq) →
      n = (if (space (hport s p) k).failSeq = seq then (space (hport s p) k).fails else 0) →
      (n < 16 → exec (.flitResend p k seq) s = .next (updHPort s p (fun h => updSpace h k (fun x =>
        { x with again := (x.unacked.dropWhile (fun f => f.1 ≠ seq)).map (·.1), failSeq := seq, fails := n + 1 })))) ∧
      (16 ≤ n → ∃ t, exec (.flitResend p k seq) s = .next t ∧ (hport t p).state = 3 ∧
        evNow s 0x0601 (8 + p / 8) p none ∈ t.evs ∧ bitOf (reg t (hofReg p 8)) 0 = true)) ∧
    (∀ f rest n, (hport s p).state = 2 → (space (hport s p) k).unacked = f :: rest →
      n = (if (space (hport s p) k).failSeq = f.1 then (space (hport s p) k).fails else 0) →
      (n < 16 → exec (.ackTimeout p k) s = .next (updHPort s p (fun h => updSpace h k (fun x =>
        { x with again := f.1 :: rest.map (·.1), failSeq := f.1, fails := n + 1 })))) ∧
      (16 ≤ n → ∃ t, exec (.ackTimeout p k) s = .next t ∧ (hport t p).state = 3 ∧
        evNow s 0x0601 (8 + p / 8) p none ∈ t.evs)) ∧
    ((hport s p).state = 2 → 16 ≤ (space (hport s p) k).fails → ∃ t, exec (.hofRetryExhausted p k) s = .next t ∧
      (hport t p).state = 3 ∧ evNow s 0x0601 (8 + p / 8) p none ∈ t.evs ∧ bitOf (reg t (hofReg p 8)) 0 = true) ∧
    ((hport s p).state = 2 → (space (hport s p) k).fails < 16 → exec (.hofRetryExhausted p k) s = .next s) ∧
    (∀ bytes body pm pp, flitGood bytes = true → (readLink (ofLe (bytes.take 12))).type = 4 →
      body = (bytes.drop 12).take 224 → ofLe (body.take 1) = 1 → pm = ofLe ((body.drop 1).take 2) % 1024 →
      pp = ofLe ((body.drop 3).take 1) % 16 → (hport s p).state = 1 → exec (.controlFlit p bytes) s =
        .next (updHPort s p (fun h => { h with seen := some (pm, pp), peerModule := pm, peerPort := pp }))) ∧
    (∀ bytes body seq src tag ty, flitGood bytes = true → (readLink (ofLe (bytes.take 12))).type = 4 →
      body = (bytes.drop 12).take 224 → ofLe (body.take 1) = 2 → seq = ofLe ((body.drop 1).take 2) →
      (hport s p).state = 2 → (hport s p).starts.find? (fun e => e.1 = seq) = some (seq, src, tag, ty) →
      (src = s.moduleId → exec (.controlFlit p bytes) s = .next (deadReply s tag)) ∧
      (src ≠ s.moduleId → exec (.controlFlit p bytes) s = .next (sendMsg s
        (newMsg s (if ty = 5 ∨ ty = 6 then 7 else 4) src tag stDead [])))))

/-- Link hurdle messages: an add for a counter of this module enters at the root of its hurdle tree, one for another
module goes on by the route table, an add to a job hurdle is combined, and a message of another job or run, or of a
bad address, is counted and discarded with its event. -/
def Obligations.LinkHurdleMessages : Prop :=
  ∀ (s : State) (p : Nat) (m : HurMsg) (u : State), (p, [m]) ∈ s.inHur →
    u = { s with inHur := s.inHur.erase (p, [m]) } → m.reserved = 0 →
    (m.kind = 1 → bits m.address 27 18 ≠ s.moduleId → ∀ q, routeOf s (bits m.address 27 18) = some q →
      exec (.signalFlit p [m]) s = .next (queueHur u q m)) ∧
    ((m.kind = 1 → bits m.address 27 18 = s.moduleId) → 1 ≤ m.kind → m.kind ≤ 3 →
      ((m.job ≠ jobNo s ∨ s.course = none) → exec (.signalFlit p [m]) s = .next (hurDiscard u 1 0x0304)) ∧
      (m.job = jobNo s → s.course.isSome = true →
        (m.run ≠ s.runNo % 65536 → exec (.signalFlit p [m]) s = .next (hurDiscard u 0 0x0303)) ∧
        (m.run = s.runNo % 65536 →
          (addrReserved m.address = true → exec (.signalFlit p [m]) s = .next (hurDiscard u 2 0x0302)) ∧
          (addrReserved m.address = false →
            (m.kind = 1 → addrAbsent s m.address = false → BitVec.ofNat 32 m.value ≠ 0 →
              exec (.signalFlit p [m]) s = .next { u with adds := s.adds ++
                [{ c := addrCtr m.address, n := BitVec.ofNat 32 m.value, node := 104
                   top := meet 104 (addrCtr m.address) }] }) ∧
            (m.kind = 2 → exec (.signalFlit p [m]) s = .next { u with
              jobUp := s.jobUp.upd 0 (bits m.address 11 0) (· + BitVec.ofNat 32 m.value) }) ∧
            (m.kind = 3 → childPorts s = [] → exec (.signalFlit p [m]) s = .next { u with
              jobDown := s.jobDown ++ [(bits m.address 11 0, BitVec.ofNat 32 m.value)] })))))


/-! ## Parameter update -/

/-- A chunk message at a gateway whose input is empty: one that a check refuses is answered with that check's
status and event 0x0705, a duplicate is answered OK and counted, a gradient waits for a buffer, a loss
report is tested and kept, and a gather of this step is taken, or waits while its bank changes or a stopped hop keeps
it from its memory. `u` is the state with the message taken from
those that have arrived. A waiting gradient chunk enters a free buffer, sets its bit of the bitmap and is
answered OK; with 8 buffers taken it waits; and a chunk of which the bitmap bit is set is a duplicate. -/
def Obligations.ChunksArriveOnce : Prop :=
  (∀ (s : State) (k p : Nat) (m : Msg), s.gwIn.get [] k = [] → s.inbox.find? (fun e => e.2 = m) = some (p, m) →
    chunkGw m = k → ∃ u, u = { s with inbox := s.inbox.erase (p, m), gwIn := u.gwIn } ∧ u.gwIn.get [] k = [] ∧
      (∀ j, j ≠ k → u.gwIn.get [] j = s.gwIn.get [] j) ∧
      (∀ c : Chunk, c = { id := chunkId m, data := m.data, src := .messages [m] } → m.mtype = 5 →
        (∀ st, judge s k c = .bad st → exec (.chunkGrad k m) s =
          .next (answerChunk (raise (setBit u (gwReg k 0x10) 0) 0x0705 (k / 2) k none) c st)) ∧
        (judge s k c = .dup → exec (.chunkGrad k m) s = .next (answerChunk (bump u (gwReg k 0x18) 0 32 1) c stOK)) ∧
        (∀ i j slot fmt, judge s k c = .grad i j slot fmt →
          exec (.chunkGrad k m) s = .next { s with inbox := s.inbox.erase (p, m), gwIn := s.gwIn.set k [c] }) ∧
        (judge s k c = .loss → chunkId m = lossId → exec (.lossReport k m) s = .next (takeLoss u k c))) ∧
      (∀ c : Chunk, m.mtype = 6 → c = { id := chunkId m, data := m.data, src := .messages [m]
                                        gather := some (m.fmt, m.scaled, m.step) } →
        (∀ j x, judge s k c = .gather j x → (gw s k).bufs.length < 8 →
          (engineWaits s (k / 2) (gatherAddr s x j) 32768 = false →
            exec (.chunkGather k m) s = .next (takeGather u k c j x m.fmt m.scaled)) ∧
          (engineWaits s (k / 2) (gatherAddr s x j) 32768 = true → exec (.chunkGather k m) s =
            .next { s with inbox := s.inbox.erase (p, m), gwIn := s.gwIn.set k [c] })) ∧
        (judge s k c = .hold → exec (.chunkGather k m) s =
          .next { s with inbox := s.inbox.erase (p, m), gwIn := s.gwIn.set k [c] }))) ∧
  (∀ (s : State) (k : Nat) (c : Chunk) (m : Msg), s.gwIn.get [] k = [c] → c.src = .messages [m] → c.gather = none →
    m.src ≠ s.moduleId →
    ∀ i j slot fmt, judge s k c = .grad i j slot fmt →
      ((gw s k).bufs.length < 8 → ∃ t, exec (.chunkTake k) s = .next t ∧
        gw t k = { gw s k with
          bitmap := (gw s k).bitmap.set slot true
          bufs := (gw s k).bufs ++ [{ slot := slot, shard := i, index := j, fmt := fmt, data := c.data.drop 256 }] } ∧
        t.gwIn.get [] k = [] ∧ judge t k c = .dup ∧
        t.ports = (replyTo s m 7 stOK []).ports ∧ SameBytes s t) ∧
      (8 ≤ (gw s k).bufs.length → exec (.chunkTake k) s = .next s))

/-- The next 32 parameters of the oldest chunk: the rule's records go to the bank that the step writes and to no
other byte (memory holds the exchange cipher's bytes where a sealed job maps the address), the live bank is only read;
a gradient of a VECTOR shard is only counted; a record that cannot be read raises 0x0706 and writes nothing; a snapshot
that has still to read the chunk makes it wait, a changing bank or a stopped hop does too, and an address that the
engine may not reach raises 0x0508 and writes nothing. -/
def Obligations.UpdateGroups : Prop :=
  ∀ (s : State) (k : Nat) (c : ChunkBuf) (rest : List ChunkBuf) (x : Shard) (e n a b : Nat), (gw s k).bufs = c :: rest →
    c.next < 512 → (shardsOf s k)[c.shard]? = some x → e = 32 * c.next → n = recBytes x →
    a = bankBase x s.coord.live + (c.index * 16384 + e) * n → b = bankBase x (!s.coord.live) + (c.index * 16384 + e) * n →
    (x.kind ≠ .vector → snapHolds s k c.slot = false → engineMay s (k / 2) a (32 * n) = true →
      engineMay s (k / 2) b (32 * n) = true → engineWaits s (k / 2) a (32 * n) = false →
      engineWaits s (k / 2) b (32 * n) = false →
      (∀ o, s.cwErr = [] → o = runGroup (ruleOf s k x) (s.coord.commits + 1) s.freeCtr x c e 32
          (exchIn s a (memRead s.mem a (32 * n))) →
        ∃ t, exec (.updateGroup k) s = .next t ∧
          (∀ i, i < o.1.length → memGet t.mem (b + i) = (exchOut s b o.1).getD i 0) ∧
          (∀ d, d < b ∨ b + o.1.length ≤ d → memGet t.mem d = memGet s.mem d) ∧
          (gw t k).bufs = { c with next := c.next + 1, out := c.out ++ o.2.1 } :: rest ∧
          t.nfCnt.get 0 x.group = s.nfCnt.get 0 x.group + o.2.2.1 ∧ t.coord = s.coord ∧ t.stns = s.stns) ∧
      ((readMem (wakeRange (wakeRange s a (32 * n)) b (32 * n)) a (32 * n)).fail.isSome = true →
        ∃ t, exec (.updateGroup k) s = .next t ∧ SameBytes s t ∧
        (gw t k).bufs = { c with next := c.next + 1, failed := true } :: rest ∧ (gw t k).readFault = true ∧
        evNow s 0x0706 (k / 2) k none ∈ t.evs)) ∧
    (x.kind = .vector → ∃ t, exec (.updateGroup k) s = .next t ∧ SameBytes s t ∧
      (gw t k).bufs = { c with next := c.next + 1 } :: rest ∧
      t.nfCnt.get 0 x.group = s.nfCnt.get 0 x.group +
        ((List.range 32).map (fun i => gradElem c (e + i))).countP isNonFin) ∧
    (x.kind ≠ .vector → snapHolds s k c.slot = true → exec (.updateGroup k) s = .next (snapWait s k c)) ∧
    (x.kind ≠ .vector → snapHolds s k c.slot = false →
      (engineWaits s (k / 2) a (32 * n) = true ∨ engineWaits s (k / 2) b (32 * n) = true →
        exec (.updateGroup k) s = .next s) ∧
      (engineMay s (k / 2) a (32 * n) = false → engineWaits s (k / 2) b (32 * n) = false →
        ∃ t, exec (.updateGroup k) s = .next t ∧ t.mem = s.mem ∧ evNow s 0x0508 (k / 2) k none ∈ t.evs ∧
          (gw t k).bufs = { c with next := c.next + 1, failed := true } :: rest))

/-- A chunk whose last group has left frees its buffer and is counted, and then its weight image and gathers are
written or its VECTOR gradients staged (a changing bank or a stopped hop makes all of it wait); an engine has finished when every chunk it expects is in and applied, every
gather is answered, and its loss report is in. -/
def Obligations.ChunksAppliedAndEnginesFinish : Prop :=
  ∀ (s : State) (k : Nat),
    (∀ c rest x u, (gw s k).bufs = c :: rest → 512 ≤ c.next → (shardsOf s k)[c.shard]? = some x →
      u = updGw s k (fun g => { g with bufs := rest, applied := g.applied + 1 }) →
      (engineWaits s (k / 2) (chunkWrites s x c.index).1 (chunkWrites s x c.index).2 = true →
        exec (.chunkApplied k) s = .next s) ∧
      (engineWaits s (k / 2) (chunkWrites s x c.index).1 (chunkWrites s x c.index).2 = false →
        (x.kind ≠ .vector → c.failed = false → exec (.chunkApplied k) s = .next (publish u k x c)) ∧
        (x.kind ≠ .vector → c.failed = true → exec (.chunkApplied k) s = .next u) ∧
        (x.kind = .vector → exec (.chunkApplied k) s = .next (sendAdd (engineWrite u k
          (x.stage + c.index * 65536) (packCodes .fp32 ((List.range 16384).map (fun e => (toF32 (gradElem c e)).toNat))))
          (96 + k / 2) (.module (x.doneCtr + 1)) 1 none)))) ∧
    (k < 16 → s.jobState = 3 → (gw s k).state = 1 → (gw s k).bufs = [] → (gw s k).gathers = [] →
      (lossHere s k = true → (gw s k).loss.isSome = true) → shardsDone s (gw s k) 0 (shardsOf s k) = true →
      exec (.engineFinished k) s = .next (updGw s k (fun x => { x with state := 2 }))) ∧
    ((gw s k).bufs ≠ [] ∨ (gw s k).gathers ≠ [] ∨ shardsDone s (gw s k) 0 (shardsOf s k) = false →
      exec (.engineFinished k) s = .next s)

/-- The vote: with every engine finished the module adds 1 to the step hurdle's vote count, and 1 more to its
skip count where any group asks for a skip, a record could not be read, or an error has begun a fault stop.
The decision: once every module's vote is in, the step commits where no skip was voted and the live bank
changes over; else it is skipped, with event 0x0702, and the live bank stays. Either way the step is
counted, its epoch record is written (a changing bank or a stopped hop makes the decision wait), the decision counter
and the ack hurdle get their adds, and a freeze that a module voted halts the
job at the acknowledgement. -/
def Obligations.VotesAndDecisions : Prop :=
  (∀ (s : State) (h a d ep : Nat), stepItems s = some (h, a, d, ep) → s.jobState = 3 → s.coord.voted = false →
    s.coord.acking = false →
    ((∀ e ∈ s.gws, e.2.state ≠ 1) → ∃ t, exec (.coordinatorVote) s = .next t ∧
      t.coord = { s.coord with voted := true, freeze := decide (strongest s = 3),
                               votedSkip := s.stepErr || decide (2 ≤ strongest s) || s.gws.any (fun e => e.2.readFault) } ∧
      t.adds = s.adds ++ [{ c := .module h, node := 104, top := 104
                            n := if s.stepErr || decide (2 ≤ strongest s) || s.gws.any (fun e => e.2.readFault)
                              then 0x10001 else 0x10000 }] ∧ SameBytes s t ∧ t.stns = s.stns) ∧
    ((∃ e ∈ s.gws, e.2.state = 1) → exec (.coordinatorVote) s = .next s)) ∧
  (∀ (s : State) (h a d ep : Nat) (v : W32), stepItems s = some (h, a, d, ep) → s.jobState = 3 →
    (v = ctrVal s (.module h) → s.coord.voted = true →
      (satisfied v (s.coord.bs + BitVec.ofNat 32 (jobModules s * 0x10000)) = true → engineWaits s 8 ep 64 = false →
        ∃ t, exec (.stepDecision) s = .next t ∧ t.steps = s.steps + 1 ∧ t.coord.bs = v ∧ t.coord.acking = true ∧
          t.coord.voted = false ∧
          ((v - s.coord.bs).toNat = jobModules s * 0x10000 → t.coord.live = !s.coord.live ∧
            t.coord.commits = s.coord.commits + 1 ∧ t.coord.skips = s.coord.skips ∧ t.coord.lastVerdict = false) ∧
          ((v - s.coord.bs).toNat ≠ jobModules s * 0x10000 → t.coord.live = s.coord.live ∧
            t.coord.commits = s.coord.commits ∧ t.coord.skips = s.coord.skips + 1 ∧ t.coord.lastVerdict = true ∧
            evNow s 0x0702 15 0 none ∈ t.evs) ∧
          t.adds = s.adds ++ [{ c := .module d, n := 1, node := 104, top := 104 },
            { c := .module a, n := if s.coord.freeze then 0x10001 else 0x10000, node := 104, top := 104 }] ∧
          (∀ e ∈ t.gws, e.2.bitmap = [] ∧ e.2.loss = none ∧ e.2.state ≠ 2) ∧
          (s.cwErr = [] → ∀ b, b < ep ∨ ep + 64 ≤ b → memGet t.mem b = memGet s.mem b) ∧
          (engineMay s 8 ep 64 = true → exchMapped s ep 64 = false → s.cwErr = [] →
            ∀ i, i < 64 → memGet t.mem (ep + i) = (epochRecord t).getD i 0) ∧
          (engineMay s 8 ep 64 = false → t.mem = s.mem ∧ evNow s 0x0508 8 0 none ∈ t.evs)) ∧
      (engineWaits s 8 ep 64 = true → exec (.stepDecision) s = .next s) ∧
      (satisfied v (s.coord.bs + BitVec.ofNat 32 (jobModules s * 0x10000)) = false →
        exec (.stepDecision) s = .next s)) ∧
    (v = ctrVal s (.module a) → s.coord.acking = true →
      satisfied v (s.coord.ba + BitVec.ofNat 32 (jobModules s * 0x10000)) = true →
      ((v - s.coord.ba).toNat ≤ jobModules s * 0x10000 → exec (.stepAckDone) s = .next { s with
        coord := { s.coord with ba := v, acking := false, freeze := false } }) ∧
      (jobModules s * 0x10000 < (v - s.coord.ba).toNat → ∃ t, exec (.stepAckDone) s = .next t ∧
        t.coord = { s.coord with ba := v, acking := false, freeze := false, frozen := true } ∧
        t.run.skipped = true ∧ t.evs = s.evs ++ [evNow s 0x0704 15 0 none] ∧
        (∀ e ∈ t.stns, e.2.run = .halted ∨ e.2.run = .idle) ∧ SameBytes s t)))

/-! ## Commands of the host -/

/-- A host command that its job state, or a supply warning, refuses completes with that status and has no effect;
one that arrives before the command processor serves commands waits. A completion is an entry of 16 bytes at the tail
of its queue pair's completion queue, with the phase bit; the tail goes on, and the phase is inverted as it wraps; an
interrupt of the pair's vector is due; a token is kept with its first completion; and a replay that has waited for
its original completes after it with DUPLICATE_REPLAYED. A command that neither refuses, with its parameters in range and
host memory that takes what it writes, completes OK with its effect: so do the queries and the settings of the host; an
entry is taken, a queue pair and the ring are enabled, and what is due is recorded and sent. -/
def Obligations.CommandsAndCompletions : Prop :=
  (∀ (s : State) (src : Src) (a : Nat), Taken s .any false →
    (s.power.ready = true → hostFails s a 4096 = false →
      exec (.identify src a) s = .next (complete (hostWrite s a (capBlock s)) src stOK s.capGen)) ∧
    (∀ nonce len, 63424 ≤ len → hostFails s a 63424 = false → ∃ bs, bs.length = 63424 ∧
      exec (.attest src nonce a len) s = .next (complete (hostWrite s a bs) src stOK 63424)) ∧
    (∀ cap, 4000 ≤ cap → cap ≤ 14000 → ∃ u, u.power.cap = cap ∧ u.capGen = (s.capGen + 1) % 2 ^ 32 ∧
      exec (.setBudget src cap) s = .next (complete u src stOK (cap + ceilingMax u * 2 ^ 32))) ∧
    (∀ page, page < 5 → hostFails s a 4096 = false → ∃ u bs, u = { s with freeCtr := u.freeCtr } ∧ bs.length = 4096 ∧
      exec (.readTelemetry src a page) s = .next (complete (hostWrite u a bs) src stOK 4096)) ∧
    (∀ len n, s.vault.badMap = 0 → n = 64 + 16 * s.vault.fmap.length → n ≤ len → hostFails s a n = false →
      ∃ bs, bs.length = n ∧ exec (.readFaultMap src a len) s =
        .next (complete (hostWrite s a bs) src stOK (n % 2 ^ 32 + s.vault.fmap.length * 2 ^ 32))) ∧
    (∀ scope mode mhz, scope < 3 → mode < 2 → 600 ≤ mhz → mhz ≤ 2100 →
      ∃ t, exec (.setClockPolicy src scope mode mhz) s = .next t ∧
        (scope ≠ 2 → t.power.westMhz = mhz) ∧ (scope ≠ 1 → t.power.eastMhz = mhz) ∧
        (t.cmdTotal = s.cmdTotal → (src, scope) ∈ t.power.clockWait))) ∧
  (∀ (s : State) (src : Src), Taken s .job false →
    (∀ g cfg, g < 64 → (s.groups.get {} g).used = true → watchOk cfg = true →
      ∃ u, exec (.setWatch src g cfg 1) s = .next (complete u src stOK 0) ∧ (u.groups.get {} g).nextCfg = some cfg) ∧
    (∀ a len slot kind w k, s.debugOpen = false → kind < 5 → slot < 16 → (2 ≤ kind → slot = 0) → keyHeld s kind = false →
      w.dmaError = false → wrappedOk s len slot kind w = true → unwrapKey w = some k →
      (kind = 1 → k.take 32 ≠ k.drop 32) →
      ∃ u, exec (.provisionKey src a len slot kind w) s = .next (complete u src stOK 0) ∧
        (kind = 4 → u.keys.link = some (ofLe k)) ∧ (kind ≤ 1 → u.keys.data.get (9, 0) slot = (kind, ofLe k)))) ∧
  (∀ (s : State) (src : Src) (k a size : Nat) (c : Image), Taken s .run false → s.course = some c → k ∈ c.channels →
    k < 8 → a % 4096 = 0 → 65600 ≤ size → ∃ u, (u.ofls.get {} k).armed = true ∧
      exec (.armOffload src k a size) s = .next (complete u src stOK (size / 65600 % 2 ^ 32))) ∧
  (∀ (s : State) (q : Nat), barOpen s = true → q < 64 →
    (∃ t, exec (.qpDisable q) s = .next t ∧ (qp t q).enable = false) ∧
    ((qp s q).sqM1 ≠ 0 → (qp s q).cqM1 ≠ 0 → ∃ t, exec (.qpEnable q) s = .next t ∧ (qp t q).enable = true) ∧
    (s.ring.m1 ≠ 0 → ∃ t, exec (.evtRingEnable) s = .next t ∧ t.ring.enable = true)) ∧
  (∀ (s : State) (q cid : Nat) (entry : List Byte), cmdOpen s = true → s.power.linkUp = true → turn s = some q →
    entry.length = 64 → badEntry entry = false → outOfRange entry = none → (qp s q).outs = [] →
    cid = ofLe ((entry.drop 4).take 4) → ofLe ((entry.drop 8).take 8) = 0 →
    ∃ t, exec (.sqEntryTake q entry) s = .next t ∧ (qp t q).outs = [⟨cid, 0, (entry.getD 0 0).toNat⟩] ∧ SameBytes s t) ∧
  (∀ (s : State) (e : Ev) (rest : List Ev), s.evs = e :: rest → s.vault.state < 2 → s.vault.buf.length < 4096 →
    s.ring.enable = false →
    ∃ t x, exec (.eventRecordWrite) s = .next t ∧ t.evs = rest ∧ t.vault.buf = s.vault.buf ++ [x] ∧ x.ev.code = e.code) ∧
  (∀ (s : State) (c : Instr) (src : Src) (cls : CmdClass) (supply : Bool), hostCmd c = some (src, cls, supply) →
    (cmdOpen s = false → exec c s = .next s) ∧
    (∀ st, cmdOpen s = true → stateStatus cls s.jobState = some st → exec c s = .next (complete s src st 0)) ∧
    (cmdOpen s = true → stateStatus cls s.jobState = none → supply = true → s.power.warn = true →
      exec c s = .next (complete s src 0x09 0))) ∧
  (∀ (s : State) (src : Src) (st r tok tail : Nat) (x : Qp) (ph : Bool) (e : List Byte), x = qp s src.qp →
    tok = (match x.outs.find? (fun o => o.cid = src.cid) with | some o => o.token | none => 0) →
    tail = (if x.cqTail = x.cqM1 then 0 else x.cqTail + 1) → ph = (if x.cqTail = x.cqM1 then !x.phase else x.phase) →
    e = leBytes 4 src.cid ++ leBytes 1 st ++ leBytes 1 st ++ leBytes 2 (x.sqHead % 4096 + b2n x.phase * 2 ^ 15)
      ++ leBytes 8 r →
    e.length = 16 ∧
    ((∀ p ∈ x.replays, tok = 0 ∨ p.2 ≠ tok) → ∃ t, complete s src st r = t ∧
      t = { s with hostMem := t.hostMem, posts := t.posts, qps := t.qps, vecDue := t.vecDue, cmdTotal := s.cmdTotal + 1 } ∧
      (s.power.linkUp = true → t.hostMem = memWrite s.hostMem (x.cqBase + 16 * x.cqTail) e ∧ t.posts = s.posts) ∧
      (s.power.linkUp = false → t.hostMem = s.hostMem ∧ t.posts = s.posts ++ [.write (x.cqBase + 16 * x.cqTail) e]) ∧
      qp t src.qp = { x with cqTail := tail, phase := ph, unread := x.unread + 1, outs := dropOut src.cid x.outs
                             toks := x.toks.map (fun y => if y.token = tok && tok ≠ 0 && y.done.isNone then
                               { y with done := some (st, r) } else y) } ∧
      (∀ q, q ≠ src.qp → qp t q = qp s q) ∧ x.vector ∈ t.vecDue ∧ (∀ v ∈ t.vecDue, v = x.vector ∨ v ∈ s.vecDue)) ∧
    (∀ c d, x.replays = [(c, tok)] → tok ≠ 0 → s.power.linkUp = true →
      d = leBytes 4 c ++ leBytes 1 0x01 ++ leBytes 1 st ++ leBytes 2 (x.sqHead % 4096 + b2n ph * 2 ^ 15) ++ leBytes 8 r →
      ∃ t, complete s src st r = t ∧ t.cmdTotal = s.cmdTotal + 1 ∧ (qp t src.qp).replays = [] ∧
        (qp t src.qp).outs = dropOut c (dropOut src.cid x.outs) ∧ (qp t src.qp).unread = x.unread + 2 ∧
        t.hostMem = memWrite (memWrite s.hostMem (x.cqBase + 16 * x.cqTail) e) (x.cqBase + 16 * tail) d))

/-- Queries and settings: what each writes to host memory or changes, and the result it completes with; IDENTIFY
completes with FAULT where its host address meets an error, its 4,096 bytes of host memory then holding free values
(the model's form, log 16), and parameters out of range make a command complete with
INVALID. -/
def Obligations.QueriesAndSettings : Prop :=
  ∀ (s : State) (src : Src),
    (∀ a, Taken s .any false →
      (s.power.ready = true → hostFails s a 4096 = false → (capBlock s).length = 4096 ∧
        exec (.identify src a) s = .next (complete (hostWrite s a (capBlock s)) src stOK s.capGen)) ∧
      (s.power.ready = true → hostFails s a 4096 = true →
        exec (.identify src a) s = .next (dmaFault (undefHost s a 4096) src))) ∧
    (∀ nonce a len b, Taken s .any false → b = reportBody s nonce →
      (63424 ≤ len → hostFails s a (b.length + 29792) = false → exec (.attest src nonce a len) s =
        .next (complete (hostWrite s a (b ++ sized 29792 (Config.slhSign dikSeed b))) src stOK 63424)) ∧
      (len < 63424 → exec (.attest src nonce a len) s = .next (complete s src stInvalid 0))) ∧
    (∀ cap u, Taken s .any false →
      u = { s with power := { s.power with cap := cap }, capGen := (s.capGen + 1) % 2 ^ 32 } →
      (4000 ≤ cap → cap ≤ 14000 →
        exec (.setBudget src cap) s = .next (complete u src stOK (cap + ceilingMax u * 2 ^ 32)) ∧
        (s.suppsEff = [] → ceilingMax u = min 64 (52 * cap / 12000))) ∧
      (cap < 4000 ∨ 14000 < cap → exec (.setBudget src cap) s = .next (complete s src stInvalid 0))) ∧
    (∀ a page, Taken s .any false → hostFails s a 4096 = false →
      (page = 0 → exec (.readTelemetry src a page) s =
        .next (complete (hostWrite s a (sized 4096 (page0 s))) src stOK 4096)) ∧
      (1 ≤ page → page ≤ 4 → ∃ bs, exec (.readTelemetry src a page) s =
          .next (complete (hostWrite { s with freeCtr := s.freeCtr + 1 } a bs) src stOK 4096) ∧
        bs.length = 4096 ∧ ofLe (bs.take 8) = s.timeNs % 2 ^ 64 ∧
        (page = 1 → ofLe ((bs.drop 20).take 4) = s.power.cap % 2 ^ 32 ∧
          (sealedJob s = false → ofLe ((bs.drop 8).take 4) = s.power.mv % 2 ^ 32))) ∧
      (5 ≤ page → exec (.readTelemetry src a page) s = .next (complete s src stInvalid 0))) ∧
    (∀ a off len area, Taken s .any true →
      (areaEnd s area = none → exec (.vaultRead src a off len area) s = .next (complete s src stInvalid 0)) ∧
      (∀ n, areaEnd s area = some n → n < off + len →
        exec (.vaultRead src a off len area) s = .next (complete s src stInvalid 0)) ∧
      (∀ n v, areaEnd s area = some n → off + len ≤ n → v = readArea s area off len →
        hostFails v.1 a v.2.length = false → exec (.vaultRead src a off len area) s =
          .next (complete (hostWrite v.1 a v.2) src stOK (len % 2 ^ 32)))) ∧
    (∀ a len n, Taken s .any false → s.vault.badMap = 0 → n = 64 + 16 * s.vault.fmap.length →
      (n ≤ len → hostFails s a n = false → (faultMapBytes s).length = n ∧ exec (.readFaultMap src a len) s =
        .next (complete (hostWrite s a (faultMapBytes s)) src stOK (n % 2 ^ 32 + s.vault.fmap.length * 2 ^ 32))) ∧
      (len < n → exec (.readFaultMap src a len) s = .next (complete s src stInvalid 0))) ∧
    (∀ k a size c, Taken s .run false → s.course = some c →
      (k ∈ c.channels → k < 8 → a % 4096 = 0 → 65600 ≤ size → exec (.armOffload src k a size) s =
        .next (complete { s with ofls := s.ofls.upd {} k (fun o => { o with armed := true, base := a, size := size }) }
          src stOK (size / 65600 % 2 ^ 32))) ∧
      (k ∉ c.channels ∨ 8 ≤ k ∨ a % 4096 ≠ 0 ∨ size < 65600 →
        exec (.armOffload src k a size) s = .next (complete s src stInvalid 0))) ∧
    (∀ a len slot kind w, Taken s .job false → s.debugOpen = false → kind < 5 → slot < 16 → (2 ≤ kind → slot = 0) →
      (keyHeld s kind = true → exec (.provisionKey src a len slot kind w) s = .next (complete s src 0x04 0)) ∧
      (keyHeld s kind = false → w.dmaError = true → exec (.provisionKey src a len slot kind w) s =
        .next (dmaFault s src)) ∧
      (keyHeld s kind = false → w.dmaError = false → wrappedOk s len slot kind w = false →
        exec (.provisionKey src a len slot kind w) s = .next (complete s src stInvalid 0)) ∧
      (keyHeld s kind = false → w.dmaError = false → wrappedOk s len slot kind w = true →
        (unwrapKey w = none → exec (.provisionKey src a len slot kind w) s =
          .next (complete (raise (setBit s (regKey 10 0x900) 9) 0x0A02 15 0 none) src 0x02 0)) ∧
        (∀ k, unwrapKey w = some k →
          ((kind = 1 → k.take 32 ≠ k.drop 32) → exec (.provisionKey src a len slot kind w) s =
            .next (complete { s with keys := putKey s.keys slot kind (ofLe k) } src stOK 0)) ∧
          (kind = 1 → k.take 32 = k.drop 32 →
            exec (.provisionKey src a len slot kind w) s = .next (complete s src stInvalid 0))))) ∧
    (∀ (w : Wrapped) (k ss : List Byte), k.length = (if w.kind = 1 then 64 else 32) →
      ss = sized 32 (Config.kemSecret kemSeed w.kemCt) →
      w.wrapped = gcmSeal (ofLe (shake256 (ascii "IXG816/WRAP" ++ ss ++ wrapHead w) 32)) 0 (wrapHead w) k →
      unwrapKey w = some k) ∧
    (∀ a len slot kind w, Taken s .job false → s.debugOpen = true →
      exec (.provisionKey src a len slot kind w) s = .next (complete s src 0x02 0)) ∧
    (∀ g cfg, Taken s .job false → g < 64 →
      ((s.groups.get {} g).used = true → watchOk cfg = true → exec (.setWatch src g cfg 1) s = .next (complete
        { s with groups := s.groups.upd {} g (fun x => { x with nextCfg := some cfg }) } src stOK 0)) ∧
      ((s.groups.get {} g).used = false ∨ watchOk cfg = false →
        exec (.setWatch src g cfg 1) s = .next (complete s src stInvalid 0)) ∧
      (s.jobState ≠ 3 → exec (.setWatch src g cfg 2) s =
        .next (complete { s with coord := { s.coord with frozen := false } } src stOK 0)) ∧
      (s.jobState = 3 → exec (.setWatch src g cfg 2) s = .next (complete s src 0x04 0)))

/-- COPY: to the module, the bytes of host memory, deciphered as its crypto says, and no others, record by record where
each carries a tag, one that fails being left out with event 0x0A01 and status FAULT; to host memory, the bytes as the module holds them, or as
output records under the output key; no plaintext of a sealed job; the done hurdle after the last byte; and what lies
outside the mapped exchange buffers of a sealed job is not enciphered. One that meets a changing bank or a stopped hop
waits with its key; one that meets an address that does not exist ends with FAULT. A read of host memory that fails completes with
FAULT and leaves free values in the range (the model's form, log 16), and no other byte changed. -/
def Obligations.Copies : Prop :=
  (∀ (s : State) (a : Nat) (bs : List Byte), exchMapped s a bs.length = false →
    exchOut s a bs = bs ∧ exchIn s a bs = bs) ∧
  (∀ (s : State) (src : Src) (p : CopyP) (inp : CopyIn) (w : State) (key : Nat), Taken s .job true →
    w = wakeRange s p.addr p.length → key = (s.keys.data.get (9, 0) p.slot).2 →
    ((copyOk s p = false ∨ copyKeyOk s p = false) →
      exec (.copy src p inp) s = .next (complete s src stInvalid 0)) ∧
    (copyOk s p = true → copyKeyOk s p = true →
      (sealedJob s = true → p.dir = 1 → p.crypto = 0 → exec (.copy src p inp) s = .next (complete s src 0x07 0)) ∧
      ((sealedJob s = false ∨ p.dir = 0 ∨ p.crypto ≠ 0) → reachesReserved w p.addr p.length = true →
        exec (.copy src p inp) s = .next (complete (raise s 0x0508 15 0 none) src stFault 0)) ∧
      ((sealedJob s = false ∨ p.dir = 0 ∨ p.crypto ≠ 0) → reachesReserved w p.addr p.length = false →
        copyWaits s p = true →
        exec (.copy src p inp) s = .next { s with copies := s.copies ++ [⟨src, key, p, inp⟩] }) ∧
      (p.dir = 0 → reachesReserved w p.addr p.length = false → copyWaits s p = false →
        (inp.dmaError = true → exec (.copy src p inp) s = .next (dmaFault (undefMem w p.addr p.length) src) ∧
          (s.cwErr = [] → ∀ a, a < p.addr ∨ p.addr + p.length ≤ a →
            memGet (undefMem w p.addr p.length).mem a = memGet s.mem a)) ∧
        (inp.dmaError = false → s.cwErr = [] → (p.crypto = 1 → exchMapped s p.addr p.length = false) → ∃ u,
          u.stns = s.stns ∧ u.qps = s.qps ∧
          (∀ j, j < p.length → memGet u.mem (p.addr + j) =
            if p.crypto ≠ 1 then (exchOut s p.addr (copyPlain key p inp.data)).getD j 0
            else match openCopy key p (j / 65536) ((inp.data.drop (65552 * (j / 65536))).take 65552) with
              | some x => x.getD (j % 65536) 0
              | none => memGet s.mem (p.addr + j)) ∧
          (∀ a, a < p.addr ∨ p.addr + p.length ≤ a → memGet u.mem a = memGet s.mem a) ∧
          ((p.crypto ≠ 1 ∨ ∀ i, 65536 * i < p.length →
              (openCopy key p i ((inp.data.drop (65552 * i)).take 65552)).isSome = true) →
            u.evs = s.evs ∧ exec (.copy src p inp) s =
              .next (complete (if p.hurdle = 0 then u else signalTo u 104 p.hurdle 1) src stOK 0)) ∧
          (∀ i, p.crypto = 1 → 65536 * i < p.length →
            openCopy key p i ((inp.data.drop (65552 * i)).take 65552) = none →
            evNow s 0x0A01 15 0 none ∈ u.evs ∧ exec (.copy src p inp) s = .next (complete u src stFault 0)))) ∧
      (p.dir = 1 → p.crypto = 0 → sealedJob s = false → reachesReserved w p.addr p.length = false →
        copyWaits s p = false → s.cwErr = [] → hostFails s p.host p.length = false → ∃ u, u = { s with bankState := u.bankState, reached := u.reached } ∧
        exec (.copy src p inp) s = .next (complete (if p.hurdle = 0 then
          hostWrite u p.host (memRead s.mem p.addr p.length) else signalTo
          (hostWrite u p.host (memRead s.mem p.addr p.length)) 104 p.hurdle 1) src stOK 0)) ∧
      (p.dir = 1 → p.crypto = 3 → reachesReserved w p.addr p.length = false → copyWaits s p = false → s.cwErr = [] →
        hostFails s p.host (65600 * ((p.length + 65535) / 65536)) = false → p.hurdle = 0 →
        ∃ u, exec (.copy src p inp) s = .next (complete u src stOK 0) ∧ SameBytes s u ∧
          u.keys.egress = s.keys.egress + (p.length + 65535) / 65536 ∧ u.evs = s.evs)))

/-- Queue pairs: enabling one begins it at index 0 with phase 1, and disabling one takes no more of its entries;
doorbells of an enabled pair and of the event ring move their indices; the entry whose turn it is starts its command,
is refused where R442 does not allow it or its mode, scope or action is out of range, is answered from the token store where its token is kept, or waits behind its
fence. -/
def Obligations.QueuesAndDoorbells : Prop :=
  (∀ (s : State) (q v : Nat), barOpen s = true → q < 64 →
    ((qp s q).enable = false → (qp s q).sqM1 ≠ 0 → (qp s q).cqM1 ≠ 0 →
      ∃ t, exec (.qpEnable q) s = .next t ∧ t = { s with qps := t.qps } ∧ (∀ r, r ≠ q → qp t r = qp s r) ∧
        qp t q = { qp s q with enable := true, sqHead := 0, sqTail := 0, cqHead := 0, cqTail := 0, unread := 0
                               phase := true }) ∧
    (((qp s q).enable = true ∨ (qp s q).sqM1 = 0 ∨ (qp s q).cqM1 = 0) →
      ∃ t, exec (.qpEnable q) s = .next t ∧ t = { s with qps := t.qps } ∧ ∀ r, qp t r = qp s r) ∧
    (∃ t, exec (.qpDisable q) s = .next t ∧ t = { s with qps := t.qps } ∧ (∀ r, r ≠ q → qp t r = qp s r) ∧
      qp t q = { qp s q with enable := false }) ∧
    ((qp s q).enable = true → v % 4096 ≤ (qp s q).sqM1 →
      exec (.cmdSqTail q v) s = .next (updQp s q (fun x => { x with sqTail := v % 4096 }))) ∧
    ((qp s q).enable = true → v % 4096 ≤ (qp s q).cqM1 →
      exec (.cmdCqHead q v) s = .next (updQp s q (fun x => { x with
        cqHead := v % 4096, unread := x.unread - (v % 4096 + (x.cqM1 + 1) - x.cqHead) % (x.cqM1 + 1) }))) ∧
    (s.ring.enable = true → v % 65536 ≤ s.ring.m1 → exec (.cmdEvtHead v) s = .next { s with ring := { s.ring with
      head := v % 65536
      count := s.ring.count - (v % 65536 + (s.ring.m1 + 1) - s.ring.head) % (s.ring.m1 + 1) } }) ∧
    ((s.ring.enable = false ∨ s.ring.m1 < v % 65536) → exec (.cmdEvtHead v) s = .next (badAccess s)) ∧
    (s.ring.enable = false → s.ring.m1 ≠ 0 → exec (.evtRingEnable) s = .next { s with ring := { s.ring with
      enable := true, head := 0, tail := 0, count := 0, phase := true } }) ∧
    (s.ring.enable = true → exec (.evtRingEnable) s = .next s)) ∧
  (∀ (s u : State) (q cid tok op : Nat) (entry : List Byte), cmdOpen s = true → s.power.linkUp = true →
    entry.length = 64 → cid = ofLe ((entry.drop 4).take 4) → tok = ofLe ((entry.drop 8).take 8) →
    op = (entry.getD 0 0).toNat →
    u = updQp { s with rot := (q + 1) % 64 } q (fun x =>
      { x with sqHead := if x.sqHead = x.sqM1 then 0 else x.sqHead + 1 }) →
    (turn s ≠ some q → exec (.sqEntryTake q entry) s = .next s) ∧
    (turn s = some q →
      (entry.getD 1 0 = 1 → (qp s q).outs ≠ [] → exec (.sqEntryTake q entry) s = .next s) ∧
      ((entry.getD 1 0 ≠ 1 ∨ (qp s q).outs = []) →
        (badEntry entry = true → exec (.sqEntryTake q entry) s = .next (postCq u q cid stInvalid stInvalid 0)) ∧
        (badEntry entry = false →
          (∀ w, ((tok = 0 ∧ w = updQp u q (fun x => { x with outs := x.outs ++ [⟨cid, 0, op⟩] })) ∨
              (tok ≠ 0 ∧ (∀ y ∈ (qp s q).toks, y.token ≠ tok) ∧ w = updQp u q (fun x => { x with
                outs := x.outs ++ [(⟨cid, tok, op⟩ : OutCmd)]
                toks := (x.toks ++ [(⟨tok, op, none⟩ : Tok)]).drop (x.toks.length - 1023) }))) →
            (outOfRange entry = none → exec (.sqEntryTake q entry) s = .next w) ∧
            (∀ c, outOfRange entry = some c → exec (.sqEntryTake q entry) s =
              .next (complete w ⟨q, cid⟩ ((stateStatus c s.jobState).getD stInvalid) 0))) ∧
          (∀ y, tok ≠ 0 → (qp s q).toks.find? (fun t => t.token = tok) = some y →
            (y.opcode ≠ op → exec (.sqEntryTake q entry) s = .next (postCq u q cid stInvalid stInvalid 0)) ∧
            (y.opcode = op → ∀ st r, y.done = some (st, r) →
              exec (.sqEntryTake q entry) s = .next (postCq u q cid 0x01 st r)) ∧
            (y.opcode = op → y.done = none → exec (.sqEntryTake q entry) s = .next (updQp u q (fun x =>
              { x with outs := x.outs ++ [⟨cid, 0, op⟩], replays := x.replays ++ [(cid, tok)] }))))))))

/-- A doorbell write of an index at or above the queue's size, or to a disabled pair, is ignored, sets
CMD_ERR.bad_access and raises event 0x0C01. -/
def Obligations.BadDoorbells : Prop :=
  ∀ (s : State) (q v : Nat), barOpen s = true → q < 64 →
    ((qp s q).enable = false ∨ (qp s q).sqM1 + 1 ≤ v % 4096 → ∃ t, exec (.cmdSqTail q v) s = .next t ∧
      t = { s with regs := t.regs, evs := s.evs ++ [evNow s 0x0C01 15 0 none], evTotal := s.evTotal + 1 } ∧
      bitOf (reg t cmdErrKey) 0 = true ∧ (∀ i, 0 < i → bitOf (reg t cmdErrKey) i = bitOf (reg s cmdErrKey) i) ∧
      (∀ k, k ≠ cmdErrKey → reg t k = reg s k)) ∧
    ((qp s q).enable = false ∨ (qp s q).cqM1 + 1 ≤ v % 4096 → ∃ t, exec (.cmdCqHead q v) s = .next t ∧
      t = { s with regs := t.regs, evs := s.evs ++ [evNow s 0x0C01 15 0 none], evTotal := s.evTotal + 1 } ∧
      bitOf (reg t cmdErrKey) 0 = true ∧ (∀ i, 0 < i → bitOf (reg t cmdErrKey) i = bitOf (reg s cmdErrKey) i) ∧
      (∀ k, k ≠ cmdErrKey → reg t k = reg s k))

/-- Host accesses through BAR0 and BAR2: a read answers with the register's bytes and clears a read-to-clear field that
it covers whole; a write clears the bits written as 1 of a write-1-to-clear field, and in a die's window no other register; a
doorbell and the warm-reset register act as the commands of their own; a poisoned write is discarded, and an access of
a wrong size is refused. A word that still shows what it held when a sealed job was loaded does so up to the first
covering read after that job. BAR2 reads and writes memory that it may reach, and nothing else; an access that a stopped
fabric hop keeps from its memory moves nothing (the model's reading, log 59). -/
def Obligations.RegisterAccesses : Prop :=
  ∀ (s : State), barOpen s = true →
    (∀ o size w x, o < 0x4000000 → goodAccess o size = true → w = o / 0x400000 → x = o % 0x400000 / 8 * 8 →
      ∃ t, exec (.rcRead o size) s = .next t ∧
        t = { s with barReply := t.barReply, regs := t.regs, freeCtr := t.freeCtr, held := t.held } ∧
        t.barReply = some (leBytes size (heldWord s w x (word64 s w x) / 2 ^ (8 * (o % 8)) % 2 ^ (8 * size))) ∧
        (s.held = [] → heldWord s w x (word64 s w x) = word64 s w x ∧ t.held = []) ∧
        (sealedJob s = false → o % 8 = 0 → t.held = s.held.drop (regKey w x)) ∧
        ((sealedJob s = true ∨ o % 8 ≠ 0) → t.held = s.held) ∧
        (rcField w x = none → t.regs = s.regs) ∧
        (∀ hi lo, rcField w x = some (hi, lo) →
          (hiddenField s w x = false → 8 * (o % 8) ≤ lo → hi < 8 * (o % 8 + size) →
            bits (reg t (regKey w x)) hi lo = 0 ∧ ∀ k, k ≠ regKey w x → reg t k = reg s k) ∧
          ((hiddenField s w x = true ∨ lo < 8 * (o % 8) ∨ 8 * (o % 8 + size) ≤ hi) → t.regs = s.regs))) ∧
    (∀ o size, o < 0x4000000 → goodAccess o size = false →
      exec (.rcRead o size) s = .next { badAccess s with barReply := some (List.replicate size 0) } ∧
      ∀ v, exec (.registerWrite o size v false) s = .next (badAccess s)) ∧
    (∀ o size v, o < 0x4000000 → exec (.registerWrite o size v true) s =
      .next (raise (setBit s cmdErrKey 1) 0x0C02 15 0 none)) ∧
    (∀ o size v w x, o < 0x4000000 → goodAccess o size = true → w = o / 0x400000 → x = o % 0x400000 / 8 * 8 →
      (w1cMask w x ≠ 0 → hiddenField s w x = false → ∃ t, exec (.registerWrite o size v false) s = .next t ∧
        t = { s with regs := t.regs } ∧ (∀ k, k ≠ regKey w x → reg t k = reg s k) ∧
        ∀ i, bitOf (reg t (regKey w x)) i = (bitOf (reg s (regKey w x)) i && !(bitOf (w1cMask w x) i &&
          (decide (8 * (o % 8) ≤ i) && decide (i < 8 * (o % 8 + size)) && bitOf v (i - 8 * (o % 8)))))) ∧
      (w1cMask w x = 0 → w ≠ 10 → exec (.registerWrite o size v false) s = .next s)) ∧
    (∀ q v, q < 64 →
      exec (.registerWrite (0x2900000 + 0x1000 * q) 4 v false) s = exec (.cmdSqTail q v) s ∧
      exec (.registerWrite (0x2900008 + 0x1000 * q) 4 v false) s = exec (.cmdCqHead q v) s ∧
      exec (.registerWrite 0x2880018 4 v false) s = exec (.warmReset v) s ∧
      exec (.registerWrite 0x2881018 4 v false) s = exec (.cmdEvtHead v) s ∧
      ((qp s q).enable = false → exec (.registerWrite (0x2884000 + 64 * q) 8 v false) s =
        .next (updQp s q (fun x => { x with sqBase := v % 2 ^ 64 / 4096 * 4096 }))) ∧
      (4000 ≤ bits v 31 16 → bits v 31 16 ≤ 14000 → exec (.registerWrite 0x2800720 4 v false) s =
        .next { s with power := { s.power with alertCap := bits v 31 16 } })) ∧
    (∀ o len, s.power.ready = true →
      (bar2Mapped s o len = true → bar2Blocked s o len = true →
        exec (.bar2Read o len) s = .next { s with barReply := none }) ∧
      (bar2Mapped s o len = true → bar2Blocked s o len = false → s.cwErr = [] → ∃ t, exec (.bar2Read o len) s = .next t ∧
        t = { s with barReply := some (memRead s.mem (lpBase + o) len), reached := t.reached }) ∧
      (bar2Mapped s o len = false →
        exec (.bar2Read o len) s = .next { raise (setBit s cmdErrKey 2) 0x0C03 15 0 none with barReply := none })) ∧
    (∀ o data, s.power.ready = true →
      (bar2Mapped s o data.length = true → bar2Blocked s o data.length = true →
        exec (.bar2Write o data false) s = .next s) ∧
      (bar2Mapped s o data.length = true → bar2Blocked s o data.length = false → s.cwErr = [] →
        ∃ t, exec (.bar2Write o data false) s = .next t ∧
        t = { s with mem := t.mem, cwErr := t.cwErr, writeBack := t.writeBack, reached := t.reached } ∧
        (∀ i, i < data.length → memGet t.mem (lpBase + o + i) = data.getD i 0) ∧
        (∀ a, a < lpBase + o ∨ lpBase + o + data.length ≤ a → memGet t.mem a = memGet s.mem a)) ∧
      (bar2Mapped s o data.length = false →
        exec (.bar2Write o data false) s = .next (raise (setBit s cmdErrKey 2) 0x0C03 15 0 none)) ∧
      exec (.bar2Write o data true) s = .next (raise (setBit s cmdErrKey 1) 0x0C02 15 0 none)) ∧
    (s.power.ready = false → ∀ o len, exec (.bar2Read o len) s = .next { s with barReply := none })

/-- The oldest event goes to the event log's buffer and, where the ring is enabled, to its tail: 16 bytes with the
phase bit, unit and detail hidden for the classes of R466 in a sealed job; a full ring drops and counts it, and the next
record written is 0x0C04. A detail that the spec does not state is a free value (log 12). Interrupts of masked vectors
stay pending; while the link is down what is posted is held, and it is delivered in order as the link comes up. -/
def Obligations.EventsAndInterrupts : Prop :=
  (∀ (s : State) (e : Ev) (rest : List Ev) (d : Nat) (b : List Byte), s.evs = e :: rest → s.vault.state < 2 →
    s.vault.buf.length < 4096 → b = evRecord e e.isSealed s.ring.phase →
    (e.detail = some d → ∃ t l, exec (.eventRecordWrite) s = .next t ∧ l = { s.vault with
        buf := s.vault.buf ++ [{ ev := e, hours := hoursOf s, gap := s.vault.gap }], gap := false } ∧
      (s.ring.enable = false → t = { s with evs := rest, vault := l }) ∧
      (s.ring.enable = true → s.ring.m1 < s.ring.count → t = { s with
          evs := rest, vault := l, regs := t.regs, ring := { s.ring with lost := true } } ∧
        bitOf (reg t cmdErrKey) 3 = true ∧ bits (reg t (regKey 10 0x81020)) 31 0 =
          min (2 ^ 32 - 1) (bits (reg s (regKey 10 0x81020)) 31 0 + 1)) ∧
      (s.ring.enable = true → s.ring.count ≤ s.ring.m1 → s.ring.lost = false → s.power.linkUp = true →
        t = { s with evs := rest, vault := l, vecDue := t.vecDue
                     hostMem := memWrite s.hostMem (s.ring.base + 16 * s.ring.tail) b
                     ring := { s.ring with count := s.ring.count + 1
                                           tail := if s.ring.tail = s.ring.m1 then 0 else s.ring.tail + 1
                                           phase := if s.ring.tail = s.ring.m1 then !s.ring.phase else s.ring.phase } } ∧
        s.ring.vector ∈ t.vecDue ∧ b.length = 16 ∧ ofLe (b.take 2) = e.code % 2 ^ 16 ∧
        bits (ofLe (b.drop 8)) 62 0 = e.time % 2 ^ 63 ∧ bitOf (ofLe (b.drop 8)) 63 = s.ring.phase ∧
        ofLe ((b.drop 2).take 2) % 16 = e.die % 16 ∧
        (e.isSealed = true → hiddenClass e.code = true →
          ofLe ((b.drop 2).take 2) / 16 = 0 ∧ ofLe ((b.drop 4).take 4) = 0) ∧
        ((e.isSealed = false ∨ hiddenClass e.code = false) → ofLe ((b.drop 2).take 2) / 16 = e.unit % 4096 ∧
          ofLe ((b.drop 4).take 4) = d % 2 ^ 32)) ∧
      (s.ring.enable = true → s.ring.count + 1 ≤ s.ring.m1 → s.ring.lost = true → s.power.linkUp = true →
        s.vault.buf.length < 4095 →
        t.ring.lost = false ∧ t.ring.count = s.ring.count + 2 ∧ t.evTotal = s.evTotal + 1 ∧
        ∃ r a y, t.hostMem = memWrite (memWrite s.hostMem (s.ring.base + 16 * s.ring.tail) r) a y ∧
          r.length = 16 ∧ ofLe (r.take 2) = 0x0C04)) ∧
    (e.detail = none → exec (.eventRecordWrite) s = exec (.eventRecordWrite) { s with
      freeCtr := s.freeCtr + 1
      evs := { e with detail := some ((Config.freeWord s.freeCtr).toNat % 2 ^ 32) } :: rest })) ∧
  (∀ (s : State) (v : Nat), v ∈ s.vecDue →
    ((msixOf s v).masked = true →
      exec (.msiXSend v) s = .next { s with vecDue := s.vecDue.erase v, pba := s.pba.set v true }) ∧
    ((msixOf s v).masked = false → s.power.linkUp = true → exec (.msiXSend v) s = .next { s with
      vecDue := s.vecDue.erase v, hostMem := memWrite s.hostMem (msixOf s v).addr (leBytes 4 (msixOf s v).data) }) ∧
    ((msixOf s v).masked = false → s.power.linkUp = false →
      exec (.msiXSend v) s = .next { s with vecDue := s.vecDue.erase v, posts := s.posts ++ [.vector v] })) ∧
  (∀ (s : State), s.power.linkUp = true → exec (.hostLinkDown) s =
    .next (raise (setBit { s with power := { s.power with linkUp := false } } cmdErrKey 4) 0x0C05 15 0 none)) ∧
  (∀ (s : State) (sp wd : Nat) (fl : Bool), s.power.linkUp = false → s.power.perst = false → s.power.noSup = false →
    s.power.rails = 3 → s.power.refOk = true → s.power.trip = false → sp < 8 → wd < 32 →
    ∃ t, exec (.pcieLinkUp sp wd fl) s = .next t ∧ t.power.linkUp = true ∧ t.power.speed = sp ∧ t.power.width = wd ∧
      t.power.flit = fl ∧ t.posts = [] ∧ t.hostMem = (s.posts.foldl deliver s).hostMem ∧ t.mem = s.mem ∧
      t.jobState = s.jobState ∧
      (6 ≤ sp → 16 ≤ wd → t.evs = s.evs) ∧ (sp < 6 ∨ wd < 16 → evNow s 0x0C06 15 0 none ∈ t.evs) ∧
      ((s.power.linksOn = true ∨ s.power.stage < 8) → t.ports = s.ports) ∧
      (s.power.linksOn = false → 8 ≤ s.power.stage → t.power.linksOn = true ∧ ∀ p, p < 16 → (hport s p).state = 0 →
        (hport s p).enabled = true → portHeld s p = false → hport t p = { hport s p with
          state := 1, attempts := 0, seen := none, sent := some (controlFlit s 0 (identityBody s p) {}) }))

/-- LINK_CONTROL on a port that the loaded course does not use, and the commands of windows: the port that each
action leaves, with the event and the new capability block of a port that leaves UP; BUSY on a port in use; a window
opened and closed, a CLOSE_WINDOW completing once what the window accepted is written. -/
def Obligations.LinkAndWindowCommands : Prop :=
  (∀ (s : State) (src : Src) (p : Nat), Taken s .any false → p < 16 →
    (usedPort s p = true → exec (.linkDisable src p) s = .next (complete s src 0x04 0) ∧
      exec (.linkEnable src p) s = .next (complete s src 0x04 0) ∧
      exec (.linkRetrain src p) s = .next (complete s src 0x04 0) ∧
      exec (.linkLoopback src p) s = .next (complete s src 0x04 0)) ∧
    (usedPort s p = false → (hport s p).state ≠ 2 →
      (∃ u, exec (.linkDisable src p) s = .next (complete u src stOK 0) ∧
        u = { s with ports := u.ports, gated := s.gated.set p true } ∧ (∀ q, q ≠ p → hport u q = hport s q) ∧
        hport u p = { hport s p with state := 0, attempts := 0, enabled := false }) ∧
      (∃ u, exec (.linkEnable src p) s = .next (complete u src stOK 0) ∧
        u = { s with ports := u.ports, gated := s.gated.drop p } ∧ (∀ q, q ≠ p → hport u q = hport s q) ∧
        (portHeld s p = true → hport u p = { hport s p with state := 3, attempts := 0, enabled := true }) ∧
        (portHeld s p = false → hport u p = { hport s p with
          state := 1, attempts := 0, enabled := true, seen := none, sent := some (controlFlit s 0 (identityBody s p) {}) })) ∧
      ((hport s p).enabled = true → ∃ u, exec (.linkRetrain src p) s = .next (complete u src stOK 0) ∧
        u = { s with ports := u.ports } ∧ (∀ q, q ≠ p → hport u q = hport s q) ∧
        (portHeld s p = true → hport u p = { hport s p with state := 3, attempts := 0 }) ∧
        (portHeld s p = false → hport u p = { hport s p with
          state := 1, attempts := 0, seen := none, sent := some (controlFlit s 0 (identityBody s p) {}) })) ∧
      ((hport s p).enabled = false → exec (.linkRetrain src p) s = .next (complete s src stOK 0)) ∧
      ((hport s p).enabled = true → ∃ u, exec (.linkLoopback src p) s = .next (complete u src stOK 0) ∧
        u = { s with ports := u.ports } ∧ (∀ q, q ≠ p → hport u q = hport s q) ∧
        (hport u p).state = (if portHeld s p then 3 else 1) ∧ (hport u p).enabled = true ∧
        (hport u p).loop = if s.defects.get 0 (12 * 65536 + p) = 0 then 1 else 2)) ∧
    (usedPort s p = false → (hport s p).state = 2 → (hport s p).enabled = true → portHeld s p = false →
      (∃ u, exec (.linkDisable src p) s = .next (complete u src stOK 0) ∧ (hport u p).state = 0 ∧
        (hport u p).enabled = false ∧ u.evs = s.evs ++ [evNow s 0x0604 (8 + p / 8) p none] ∧
        u.capGen = (s.capGen + 1) % 2 ^ 32 ∧ u.stop = s.stop) ∧
      (∃ u, exec (.linkRetrain src p) s = .next (complete u src stOK 0) ∧ (hport u p).state = 1 ∧
        u.evs = s.evs ++ [evNow s 0x0604 (8 + p / 8) p none] ∧ u.capGen = (s.capGen + 1) % 2 ^ 32 ∧ u.stop = s.stop)) ∧
    (exec (.linkStatus src p) s = .next (complete s src stOK (portStatus s p)) ∧
      (s.gated.get false p = true → portStatus s p = 0) ∧
      (s.gated.get false p = false → (hport s p).state < 4 → bits (portStatus s p) 1 0 = (hport s p).state ∧
        bitOf (portStatus s p) 2 = (hport s p).enabled ∧ bitOf (portStatus s p) 3 = usedPort s p ∧
        bits (portStatus s p) 13 4 = (hport s p).peerModule % 1024 ∧
        bits (portStatus s p) 17 14 = (hport s p).peerPort % 16 ∧ bits (portStatus s p) 19 18 = (hport s p).loop % 4))) ∧
  (∀ (s : State) (src : Src) (c : WinCfg), Taken s .job false → c.cluster < 96 → c.window < 64 →
    ((win s c.cluster c.window).state ≠ 0 → exec (.openWindow src c) s = .next (complete s src 0x04 0)) ∧
    ((win s c.cluster c.window).state = 0 → winCfgOk s c = false →
      exec (.openWindow src c) s = .next (complete s src stInvalid 0)) ∧
    ((win s c.cluster c.window).state = 0 → winCfgOk s c = true → ∃ u,
      exec (.openWindow src c) s = .next (complete u src stOK 0) ∧ u = { s with wins := u.wins } ∧
      win u c.cluster c.window = { state := 1, dir := c.dir, byCommand := true, base := c.base, sizeM1 := c.sizeM1
                                   srcModule := c.srcModule, srcJob := c.srcJob } ∧
      ∀ g w, g < 96 → w < 64 → (g, w) ≠ (c.cluster, c.window) → win u g w = win s g w)) ∧
  (∀ (s : State) (src : Src) (g w : Nat), g < 96 → w < 64 →
    (Taken s .job false → (win s g w).state = 0 → exec (.closeWindow src g w) s = .next (complete s src stOK 0)) ∧
    (Taken s .job false → (win s g w).state ≠ 0 → exec (.closeWindow src g w) s =
      .next (updWin s g w (fun x => { x with state := 2, closers := x.closers ++ [src] }))) ∧
    ((win s g w).state = 2 → (win s g w).closers = [src] →
      exec (.closeWindowDone src g w) s = .next (complete (updWin s g w (fun _ => {})) src stOK 0)) ∧
    ((win s g w).state ≠ 2 → exec (.closeWindowDone src g w) s = .next s))

/-- LOAD_COURSE in the order of its checks, and what a loaded course leaves: its job, its run number, counters and
steps at 0, every LFSR at its seed and its version counter raised. RUN and its start: the keys and the state that it
needs, the banks, every station at its entry stride with its landing buffers FREE and its arrays at their state of
R603, and the COPYs that waited for its banks going on. RUN_COMPLETE: the status and the result of the RUN, counters at 0, banks at rest. HALT and END_JOB: every unit
stopped, and after END_JOB the course, windows, keys, counters and LFSR states gone and the memory of the job 0. An
image's header and its sections are read from the bytes that hold them. -/
def Obligations.JobsAndRuns : Prop :=
  (∀ h : ImageHeader, h.magic < 2 ^ 32 → h.format < 2 ^ 16 → h.contract < 2 ^ 16 → h.job < 2 ^ 32 → h.flags < 2 ^ 8 →
    h.signSlot < 2 ^ 8 → h.counter < 2 ^ 16 → h.version < 2 ^ 64 → h.bodyLength < 2 ^ 64 → h.sectionCount < 2 ^ 32 →
    h.moduleId < 2 ^ 16 → h.reserved < 2 ^ 720 → headerOf (headBytes h) = h) ∧
  (∀ (n : Nat) (x : Section) (rest : List Byte), 1 ≤ x.type → x.type ≤ 0x0D → x.target < 2 ^ 64 → x.body.length < 2 ^ 32 →
    x.body.length % 8 = 0 → sectionsOf (n + 1) (leBytes 2 x.type ++ leBytes 2 0 ++ leBytes 4 x.body.length ++
      leBytes 8 x.target ++ x.body ++ rest) = (sectionsOf n rest).map (x :: ·)) ∧
  (∀ (s : State) (src : Src) (a len : Nat) (img : Image) (key : Nat), Taken s .load true → s.vault.badEssential = 0 →
    key = s.vault.courseKeys.get 0 img.hdr.signSlot →
    exec (.loadCourse src a len img true) s = .next (dmaFault s src) ∧
    (headOk s len img.hdr = false → exec (.loadCourse src a len img false) s = .next (complete s src stInvalid 0)) ∧
    (headOk s len img.hdr = true →
      ((key = 0 ∨ img.signedBy ≠ key) → exec (.loadCourse src a len img false) s =
        .next (complete (raise (setBit s (regKey 10 0x900) 11) 0x0A04 15 0 none) src 0x02 0)) ∧
      (key ≠ 0 → img.signedBy = key →
        (img.hdr.version < s.vault.counters.get 0 img.hdr.counter → exec (.loadCourse src a len img false) s =
          .next (complete (raise (setBit s (regKey 10 0x900) 11) 0x0A05 15 0 none) src 0x0C 0)) ∧
        (s.vault.counters.get 0 img.hdr.counter ≤ img.hdr.version →
          (contentOk s img = false → exec (.loadCourse src a len img false) s = .next (complete s src stInvalid 0)) ∧
          (contentOk s img = true → s.vault.state ≠ 0 → s.vault.counters.get 0 img.hdr.counter < img.hdr.version →
            exec (.loadCourse src a len img false) s = .next (complete s src stFault 0)) ∧
          (contentOk s img = true → s.vault.state = 0 → ∃ u,
            exec (.loadCourse src a len img false) s = .next (complete u src stOK img.hdr.job) ∧ u.jobState = 2 ∧
            u.course = some img ∧ u.runNo = 1 ∧ u.steps = 0 ∧ u.coreCtr = [] ∧ u.cluCtr = [] ∧ u.dieCtr = [] ∧
            u.modCtr = [] ∧ (∀ n, present u n = true → (stn u n).lfsr =
              (if img.seeds.get 0 n = 0 then 1 else img.seeds.get 0 n)) ∧
            u.vault.counters.get 0 img.hdr.counter = img.hdr.version ∧ u.qps = s.qps ∧ u.hostMem = s.hostMem ∧
            ∀ b, u.bankState.get 0 b = if u.bankMode.get 0 b = 2 then 2 else 0))))) ∧
  (∀ (s : State) (src : Src), Taken s .run false →
    (keysMissing s = true → exec (.run src) s = .next (complete s src stInvalid 0)) ∧
    (keysMissing s = false → (s.coord.frozen = true ∨ s.run.portLost = true) →
      exec (.run src) s = .next (complete s src stFault 0)) ∧
    (keysMissing s = false → s.coord.frozen = false → s.run.portLost = false → ∃ t, exec (.run src) s = .next t ∧
      t = { s with jobState := 3, run := { s.run with src := some src }, stop := {}, bankState := t.bankState } ∧
      ∀ b, t.bankState.get 0 b = if s.bankMode.get 0 b = 0 then 0 else 3)) ∧
  (∀ (s : State) (c : Image), s.course = some c → s.jobState = 3 → s.run.started = false →
    ∃ t, exec (.runStart) s = .next (goCopies t) ∧ (s.copies = [] → goCopies t = t) ∧ t.copies = s.copies ∧
      t.run = { s.run with started := true } ∧ t.arrs = [] ∧
      (∀ n, present s n = true → stn t n = { pc := c.entries.get 0 n, run := .issuing, lfsr := (stn s n).lfsr
                                             stopped := (stn s n).stopped } ∧
        ∀ i, i < 64 → t.coreCtr.get 0 (64 * n + i) = if i < 56 then s.coreCtr.get 0 (64 * n + i) else 0) ∧
      (∀ g, live s g = true → (clu t g).cyc = 0 ∧ (clu t g).timed = [] ∧ (clu t g).loans = [] ∧
        (clu t g).onBoot = false ∧ (gcOf t g).state = (if (c.gcs.get none g).isSome then .running else .halted)) ∧
      (∀ b, t.bankState.get 0 b = if s.bankMode.get 0 b = 0 then 0 else 1) ∧
      t.coord.bs = 0 ∧ t.coord.ba = 0 ∧ t.qps = s.qps ∧ t.evs = s.evs ∧
      (∀ a, memGet t.mem a = memGet s.mem a ∨ memGet t.mem a = 0)) ∧
  (∀ (s : State) (c : Src), s.jobState = 3 → s.run.started = true → s.run.src = some c → s.run.halts = [] → Quiet s →
    (∀ n, n < 768 → present s n = true → (stn s n).run = .halted) → gcsEnded s = true → enginesDone s = true →
    settled s = true →
    runStatus s = (if s.run.fault then 0x06 else if s.run.timeout then 0x0A
      else if s.run.skipped || 0 < s.coord.runSkips then 0x0B else 0x00) ∧
    bits (runResult s) 31 0 = s.runNo % 2 ^ 32 ∧ bits (runResult s) 47 32 = s.coord.runSteps % 2 ^ 16 ∧
    ∃ u, exec (.runComplete) s = .next (complete u c (runStatus s) (runResult s)) ∧ u.jobState = 2 ∧
      u.runNo = (s.runNo + 1) % 2 ^ 32 ∧ u.coreCtr = [] ∧ u.cluCtr = [] ∧ u.dieCtr = [] ∧ u.modCtr = [] ∧
      (∀ e ∈ u.stns, e.2.run = .idle) ∧ (∀ e ∈ u.engines, e.2.state = .idle) ∧
      (∀ b, u.bankState.get 0 b = if s.bankMode.get 0 b = 2 then 2 else 0) ∧ u.course = s.course ∧ u.evs = s.evs ∧
      (∀ a, memGet u.mem a = memGet s.mem a ∨ memGet u.mem a = 0)) ∧
  (∀ (s : State) (n : Nat), n < 768 → present s n = true → (stn s n).run ≠ .halted →
    exec (.runComplete) s = .next s) ∧
  (∀ (s : State) (src : Src), Taken s .job false →
    (s.jobState = 2 → exec (.halt src) s = .next (complete s src stOK 0)) ∧
    (s.jobState = 3 → Quiet s → ∃ t, exec (.halt src) s = .next t ∧ AllStopped t ∧ t.jobState = 3 ∧
      t.run = { s.run with byHalt := true, halts := s.run.halts ++ [src] } ∧ (∀ e ∈ t.engines, e.2.state = .idle) ∧
      (∀ e ∈ t.clus, e.2.gc.state = .halted) ∧ SameBytes s t ∧ t.steps = s.steps) ∧
    (s.jobState = 3 → s.stop.wanted = false → s.stop.stage = 0 → s.dump.state ≠ 1 → stepOpen s = true →
      ∃ t, exec (.halt src) s = .next t ∧ AllStopped t ∧ t.steps = s.steps + 1 ∧
        t.coord.skips = s.coord.skips + 1 ∧ evNow s 0x0702 15 0 none ∈ t.evs)) ∧
  (∀ (s : State) (src : Src), Taken s .job false → ∃ u, exec (.endJob src) s = .next (complete u src stOK (jobNo s)) ∧
    u.jobState = 0 ∧ u.course = none ∧ u.wins = [] ∧ u.keys = { loads := s.keys.loads } ∧ u.snap = none ∧
    u.coreCtr = [] ∧ u.cluCtr = [] ∧ u.dieCtr = [] ∧ u.modCtr = [] ∧ (∀ n, n < 768 → (stn u n).lfsr = 0) ∧
    evNow s 0x0A07 15 0 none ∈ u.evs ∧
    (∀ a, a < 0x018000000000 ∨ (lpBase ≤ a ∧ a < 0x024004000000) ∨ (storeSpan ≤ a ∧ a < 0x0408C0000000) →
      memGet u.mem a = 0) ∧
    (s.jobState = 2 → Quiet s → (∀ e ∈ s.wins, e.2.closers = []) → s.snap = none →
      ∀ a, 0x024004000000 ≤ a → a < 0x03C700000000 →
        memGet u.mem a = if (usedRanges s).contains ((a - lpBase) / 0x400000) then 0 else memGet s.mem a))

/-- Fault stops, dumps and snapshots: a fault stop begins once every station that the error halts has halted, or 100 µs
after it, drives FAULT_N low, votes skip for an open step, and takes a dump once that is decided; the watchdog ends the
RUN with TIMEOUT and a dump; a dump stands in its region, after trigger 1 or 3 every unit is halted, and a DUMP command
copies it; a trigger during a dump that ends the RUN changes nothing else; a SNAPSHOT reads chunk by chunk, each once its
bank is not changing and no stopped hop keeps it, and completes after its last tile with the bytes written and the step. -/
def Obligations.StopsDumpsAndSnapshots : Prop :=
  (∀ (s : State), s.stop.wanted = true → s.jobState = 3 →
    (s.stop.stage = 0 → (allHalted s = true ∨ s.stop.since + 100000 ≤ s.timeNs) →
      (stepOpen s = false → s.dump.state ≠ 1 → ∃ t, exec (.faultStop) s = .next t ∧ t = { s with
        evs := s.evs ++ [evNow s 0x0C0A 15 0 none], evTotal := s.evTotal + 1, run := { s.run with fault := true }
        stop := { s.stop with active := true, stage := 2 }
        dump := { state := 1, trigger := 3, isSealed := sealedJob s, seq := s.dump.seq + 1, event := s.stop.event
                  station := 0xFFFF, time := s.timeNs, src := none, held := heldRecords s } }) ∧
      (∀ h a d ep, stepOpen s = true → stepItems s = some (h, a, d, ep) → s.coord.voted = false →
        s.run.portLost = false → ∃ t, exec (.faultStop) s = .next t ∧ t.stop = { s.stop with active := true, stage := 1 } ∧
          t.run = s.run ∧ t.coord.voted = true ∧ t.coord.votedSkip = true ∧
          t.adds = s.adds ++ [{ c := .module h, n := 0x10001, node := 104, top := 104 }] ∧ t.dump = s.dump ∧
          evNow s 0x0C0A 15 0 none ∈ t.evs)) ∧
    (s.stop.stage = 0 → allHalted s = false → s.timeNs < s.stop.since + 100000 → exec (.faultStop) s = .next s) ∧
    (s.stop.stage = 1 → stepOpen s = false → s.dump.state ≠ 1 → exec (.faultStop) s = .next { s with
      stop := { s.stop with stage := 2 }, run := { s.run with fault := true }
      dump := { state := 1, trigger := 3, isSealed := sealedJob s, seq := s.dump.seq + 1, event := s.stop.event
                station := 0xFFFF, time := s.timeNs, src := none, held := heldRecords s } }) ∧
    (s.stop.stage = 1 → stepOpen s = false → dumpEnds s = true → ∃ t, exec (.faultStop) s = .next t ∧ t.run = s.run ∧
      t.stop = { s.stop with stage := 2 } ∧ t.dump = { s.dump with second := true })) ∧
  (∀ (s : State) (w : Waiter), s.jobState = 3 → s.run.timeout = false →
    (expired s w = true → s.dump.state ≠ 1 → ∃ t, exec (.hurWatchdog w) s = .next t ∧
      t = { s with regs := t.regs, evs := t.evs, evTotal := s.evTotal + 1, run := { s.run with timeout := true }
                   dump := t.dump } ∧
      (∀ n, w = .station n → t.evs = s.evs ++ [evNow s 0x0301 (dieOf n) (n % 96) none] ∧ t.dump.station = n) ∧
      (∀ g, w = .gc g → t.evs = s.evs ++ [evNow s 0x0301 (g / 12) (8 * (g % 12)) none] ∧ t.dump.station = 0xFFFF) ∧
      t.dump.state = 1 ∧ t.dump.trigger = 1 ∧ t.dump.event = 0x0301 ∧ t.dump.seq = s.dump.seq + 1 ∧
      t.dump.held = heldRecords t) ∧
    (expired s w = true → dumpEnds s = true → s.dump.second = false → ∃ t, exec (.hurWatchdog w) s = .next t ∧
      t.run = s.run ∧ t.dump = { s.dump with second := true } ∧ t.evTotal = s.evTotal + 1) ∧
    (dumpEnds s = true → s.dump.second = true → exec (.hurWatchdog w) s = .next s) ∧
    (expired s w = false → exec (.hurWatchdog w) s = .next s)) ∧
  (∀ (s : State), s.dump.state = 1 → placeMap s dumpBase ≠ .reserved →
    (s.dump.isSealed = true ∨ ∀ e ∈ dumpImage s, e.1 + e.2.length ≤ 0xB2000) → (∀ e ∈ s.dump.held, 0x1000 ≤ e.1) →
    ∃ u, u.dump = { s.dump with state := 2, src := none, held := [] } ∧ evNow s 0x0307 15 0 none ∈ u.evs ∧
      (∀ a, a < dumpBase ∨ dumpBase + 0xB2000 ≤ a → memGet u.mem a = memGet s.mem a) ∧
      (s.dump.isSealed = false → ∀ i, i < 48 → memGet u.mem (dumpBase + i) = (dumpHead s).getD i 0) ∧
      ofLe ((dumpHead s).take 4) = 0x50464431 ∧
      (s.dump.src = none → (s.dump.trigger = 1 ∨ s.dump.trigger = 3) → exec (.hurDumpDone) s = .next u ∧ AllStopped u ∧
        (s.stop.wanted = true → u.stop.stage = 3)) ∧
      (∀ src a, s.dump.src = some (src, a) → s.dump.trigger = 2 → s.dump.later = 0 →
        (a = 0 → exec (.hurDumpDone) s = .next (complete u src stOK s.dump.seq)) ∧
        (a ≠ 0 → hostFails s a 0xB2000 = false → exec (.hurDumpDone) s =
          .next (complete (hostWrite u a (memRead u.mem dumpBase 0xB2000)) src stOK s.dump.seq)))) ∧
  (∀ (s : State), s.dump.state ≠ 1 → exec (.hurDumpDone) s = .next s) ∧
  (∀ (s : State) (src : Src) (a : Nat), Taken s .job false →
    (s.dump.state = 1 → exec (.dumpTake src a) s = .next (complete s src 0x04 0) ∧
      exec (.dumpCopyLast src a) s = .next (complete s src 0x04 0)) ∧
    (s.dump.state ≠ 1 → exec (.dumpTake src a) s = .next { s with
      dump := { state := 1, trigger := 2, isSealed := sealedJob s, seq := s.dump.seq + 1, event := 0
                station := 0xFFFF, time := s.timeNs, src := some (src, a), held := heldRecords s } }) ∧
    (s.dump.state = 0 → exec (.dumpCopyLast src a) s = .next (complete s src stInvalid 0)) ∧
    (s.dump.state = 2 → a = 0 → exec (.dumpCopyLast src a) s = .next (complete s src stOK s.dump.seq)) ∧
    (s.dump.state = 2 → a ≠ 0 → hostFails s a 0xB2000 = false → s.cwErr = [] → ∃ u, u = { s with reached := u.reached } ∧
      exec (.dumpCopyLast src a) s =
        .next (complete (hostWrite u a (memRead s.mem dumpBase 0xB2000)) src stOK s.dump.seq)) ∧
    (s.dump.state = 2 → a ≠ 0 → (readMem s dumpBase 0xB2000).fail.isSome = true → exec (.dumpCopyLast src a) s =
      .next (complete (readMem s dumpBase 0xB2000).s src stFault 0))) ∧
  (∀ (s : State) (src : Src) (dest limit fmt mask : Nat) (sc : Bool) (l : List (Nat × Nat)), Taken s .job false →
    l = snapChunks s mask →
    (s.snap.isSome = true → exec (.snapshot src dest limit 0 fmt sc mask) s = .next (complete s src 0x04 0)) ∧
    (s.snap = none → fmt < 8 → tileOk fmt sc = true → mask < 65536 →
      (limit < snapBytes s 0 (l.length * storedBytes fmt sc) →
        exec (.snapshot src dest limit 0 fmt sc mask) s = .next (complete s src stInvalid 0)) ∧
      (snapBytes s 0 (l.length * storedBytes fmt sc) ≤ limit → l ≠ [] →
        ∃ x : Snap, x = { src := src, dest := dest, window := false, fmt := fmt, scaled := sc, bank := s.coord.live
                          step := s.steps, todo := l } ∧
          exec (.snapshot src dest limit 0 fmt sc mask) s = .next { s with snap := some x }) ∧
      (snapBytes s 0 (l.length * storedBytes fmt sc) ≤ limit → l = [] →
        exec (.snapshot src dest limit 0 fmt sc mask) s = .next (complete s src stOK (s.steps % 2 ^ 32 * 2 ^ 32))))) ∧
  (∀ (s : State) (x : Snap) (k slot j a n : Nat) (y : Shard) (f : Fmt) (bs : List Byte) (rest : List (Nat × Nat)),
    s.snap = some x → x.todo = (k, slot) :: rest → x.status = 0 → x.tags = [] → slotChunk slot (shardsOf s k) = some (y, j) →
    n = recBytes y → a = bankBase y x.bank + j * 16384 * n → Fmt.ofCode x.fmt = some f →
    (engineWaits s (k / 2) a (16384 * n) = true → exec (.snapshotChunkRead k slot) s = .next s) ∧
    (engineMay s (k / 2) a (16384 * n) = true → engineWaits s (k / 2) a (16384 * n) = false → s.cwErr = [] → x.window = false → sealedJob s = false →
      hostFails s (x.dest + x.pos) 65600 = false →
      bs = tileBytes f x.scaled (convert f x.scaled false false 512 0 ((List.range 16384).map (fun e =>
        decodeElem .pb32 false (ofLe ((List.range 4).map (fun i => memGet s.mem (a + e * n + i))))))) →
      ∃ u, u = { s with reached := u.reached, bankState := u.bankState, snap := none
                        hostMem := memWrite s.hostMem (x.dest + x.pos) bs } ∧
        (rest ≠ [] → exec (.snapshotChunkRead k slot) s = .next { u with
          snap := some { x with todo := rest, pos := x.pos + bs.length } }) ∧
        (rest = [] → exec (.snapshotChunkRead k slot) s = .next (complete u x.src stOK
          ((x.pos + bs.length) % 2 ^ 32 + x.step % 2 ^ 32 * 2 ^ 32)))) ∧
    (engineMay s (k / 2) a (16384 * n) = false → exec (.snapshotChunkRead k slot) s = .next (complete (raise
      { s with snap := none } 0x0508 (k / 2) k none) x.src stFault 0)))

/-- Self-tests and control cores: what SELFTEST answers for a unit that is absent, in use, good or faulty; the outcome
of a test that runs by itself, lasting where the fault shows again or has shown 3 times before; a lasting fault asks
for its entry in the fault map, an edge for one of each channel; a lockstep error of a moon pair leaves its die to the other pair, and one of the
acting supervisor to the standby, or stops the module where there is none. -/
def Obligations.SelfTestsAndControlCores : Prop :=
  (∀ (s : State) (src : Src) (kind i loc : Nat), Taken s .test false → loc = locOf s kind i →
    (unitCount kind ≤ i → exec (.selftestUnit src kind i) s = .next (complete s src stInvalid 0)) ∧
    (i < unitCount kind →
      (unitAbsent s kind i = true → exec (.selftestUnit src kind i) s = .next (complete s src stOK 4)) ∧
      (unitAbsent s kind i = false → unitInUse s kind i = true →
        exec (.selftestUnit src kind i) s = .next (complete s src stOK 3)) ∧
      (unitAbsent s kind i = false → unitInUse s kind i = false →
        (reproduces s kind loc = false → exec (.selftestUnit src kind i) s =
          .next (complete (setLast (wipeUnit s kind i) kind 0 0 loc) src stOK 0)) ∧
        (reproduces s kind loc = true → exec (.selftestUnit src kind i) s =
          .next (complete (lastingOutcome (wipeUnit s kind i) kind loc 0) src stOK 2))))) ∧
  (∀ (s : State) (src : Src), Taken s .test false →
    (foundUnits s = [] → exec (.selftestModule src) s = .next (complete ((working s).foldl offBoot s) src stOK 0)) ∧
    (foundUnits s ≠ [] → ∃ u, exec (.selftestModule src) s = .next (complete u src stOK 2) ∧
      ∀ x ∈ foundUnits s, evNow s (kindClass x.1 * 256 + 0xF1) (unitDie x.1 x.2) x.1 (some x.2) ∈ u.evs)) ∧
  (∀ (s : State) (kind loc event : Nat), mapLoad s + 1 < 32768 → s.vault.state < 2 →
      (kind ≠ 6 → mapped s kind loc = false → (lastingOutcome s kind loc event).vault.queue = s.vault.queue ++
        [.fault { kind := kind, action := 0, location := loc, event := event, hours := hoursOf s }]) ∧
      (kind = 6 → (lastingOutcome s kind loc event).vault.queue = s.vault.queue ++
        ((edgeActions s loc).filter (fun a => !edgeMapped s loc a)).map (fun a =>
          .fault { kind := 6, action := a, location := loc, event := event, hours := hoursOf s })) ∧
      evNow s (kindClass kind * 256 + 0xF1) (unitDie kind loc) kind (some loc) ∈ (lastingOutcome s kind loc event).evs ∧
      (lastingOutcome s kind loc event).fltLast = some (kind, 2, event, loc)) ∧
  (∀ (s u : State) (t : Test) (loc : Nat), 8 ≤ s.power.stage → s.power.stopped = false → s.power.noSup = false →
    s.tests.find? (testMayRun s) = some t → loc = locOf s t.kind t.index →
    u = wipeUnit { s with tests := s.tests.erase t } t.kind t.index →
    (reproduces s t.kind loc = true ∨ 3 ≤ transients s t.kind loc →
      exec (.selftestRun) s = .next (lastingOutcome u t.kind loc t.event)) ∧
    (reproduces s t.kind loc = false → transients s t.kind loc < 3 →
      exec (.selftestRun) s = .next (transientOutcome u t.kind loc t.event) ∧
      evNow s (kindClass t.kind * 256 + 0xF0) (unitDie t.kind loc) t.kind (some loc) ∈
        (transientOutcome u t.kind loc t.event).evs ∧
      bitOf (reg (transientOutcome u t.kind loc t.event) fltStatus) 8 = true)) ∧
  (∀ (s : State), s.tests.find? (testMayRun s) = none → exec (.selftestRun) s = .next s) ∧
  (∀ (s : State) (die pair : Nat), die < 8 → pair < 2 → 3 ≤ s.power.stage → s.power.stopped = false →
    moonServes s die pair = true → ∃ t, exec (.ctlMoonLockstep die pair) s = .next t ∧ moonServes t die pair = false ∧
      (∀ d p, p < 2 → (d, p) ≠ (die, pair) → moonServes t d p = moonServes s d p) ∧
      evNow s 0x0C07 die pair none ∈ t.evs ∧
      (s.tests.length < 256 → (∀ x ∈ s.tests, x.kind ≠ 13 ∨ x.index ≠ 2 * die + pair) →
        t.tests = s.tests ++ [⟨13, 2 * die + pair, 0x0C07⟩]) ∧
      (s.jobState = 3 → t.stepErr = true ∧ (s.stop.wanted = false → s.stop.stage = 0 →
        t.stop.wanted = true ∧ t.stop.event = 0x0C07)) ∧ t.stns = s.stns ∧ SameBytes s t) ∧
  (∀ (s : State), 3 ≤ s.power.stage → s.power.stopped = false → s.power.noSup = false → s.ctl.failing = false →
    (s.ctl.hd1 = false → s.ctl.hd1Ok = true → ∃ t, exec (.ctlSupervisorLockstep) s = .next t ∧
      t.ctl = { s.ctl with hd1 := true, hd0Ok := false, failing := true } ∧ evNow s 0x0C08 8 0 none ∈ t.evs ∧
      (s.jobState = 3 → t.stepErr = true ∧ t.run.src = s.run.src) ∧ t.run.halts = [] ∧ t.snap = none ∧ SameBytes s t) ∧
    (s.ctl.hd1 = true → s.ctl.hd0Ok = true → ∃ t, exec (.ctlSupervisorLockstep) s = .next t ∧
      t.ctl = { s.ctl with hd1 := false, hd1Ok := false, failing := true } ∧ evNow s 0x0C08 9 0 none ∈ t.evs) ∧
    (s.ctl.hd1 = false → s.ctl.hd1Ok = false → ∃ t, exec (.ctlSupervisorLockstep) s = .next t ∧
      t.power = { s.power with noSup := true } ∧ AllStopped t ∧ cmdOpen t = false ∧ t.evs = s.evs)) ∧
  (∀ (s : State), s.ctl.failing = true → s.ctl.hd1 = true → ∃ t, exec (.ctlFailoverDone) s = .next t ∧
    t.ctl.failing = false ∧ t.ctl.hd1 = true ∧ evNow s 0x0C09 8 0 none ∈ t.evs ∧
    (reproduces s 14 0 = false → transients s 14 0 < 3 → t.ctl.hd0Ok = true) ∧
    (reproduces s 14 0 = true → t.ctl.hd0Ok = s.ctl.hd0Ok ∨ t.ctl.hd0Ok = false)) ∧
  (∀ (s : State), s.ctl.failing = true → s.ctl.hd1 = false → ∃ t, exec (.ctlFailoverDone) s = .next t ∧
    t.ctl.failing = false ∧ t.ctl.hd1 = false ∧ evNow s 0x0C09 9 0 none ∈ t.evs ∧
    (reproduces s 14 1 = false → transients s 14 1 < 3 → t.ctl.hd1Ok = true))

/-! ## Clocks, power, power-up and resets -/

/-- Clock sources and cluster clocks: a source that is stable, its missing edges, the loss of REFCLK and its return, the
loss of the crystal, and the restart with no source left; a region's ramp of at most 1 MHz a step, its limits (the
replica's being a measured value, log 38), stretches, the thermal limit and the timing floor; and SET_CLOCK_POLICY. -/
def Obligations.ClocksAndPacers : Prop :=
  (∀ (s : State), (s.power.stage ≠ 0 ∨ s.power.stopped = true) →
    exec (.clockSourceStable .xtal) s = .next { s with power := { s.power with xtalOk := true } } ∧
    (s.power.fixedOn = true → s.power.xtalSrc = true → s.power.refLost = false → exec (.clockSourceStable .refclk) s =
      .next { s with power := { s.power with refOk := true, xtalSrc := false } }) ∧
    ((s.power.fixedOn = false ∨ s.power.xtalSrc = false ∨ s.power.refLost = true) →
      exec (.clockSourceStable .refclk) s = .next { s with power := { s.power with refOk := true } })) ∧
  (∀ (s : State),
    exec (.missingEdge .refclk) s = .next { s with power := { s.power with refOk := false } } ∧
    exec (.missingEdge .xtal) s = .next { s with power := { s.power with xtalOk := false } } ∧
    (s.power.fixedOn = true → s.power.refLost = false → s.power.linkUp = true → ∃ t, exec (.clkRefLoss) s = .next t ∧
      t = { s with power := { s.power with refOk := false, refLost := true, linkUp := false
                                           xtalSrc := s.power.xtalSrc || s.power.xtalOk }
                   regs := t.regs, evTotal := s.evTotal + 2
                   evs := s.evs ++ [evNow s 0x0801 15 0 none, evNow s 0x0C05 15 0 none] } ∧
      bitOf (reg t (regKey 10 0x700)) 3 = true ∧ bitOf (reg t cmdErrKey) 4 = true) ∧
    (s.power.fixedOn = true → s.power.refLost = true → exec (.clkRefRestored) s = .next (raise
      { s with power := { s.power with refOk := true, refLost := false, xtalSrc := false } } 0x0802 15 0 none)) ∧
    (s.power.fixedOn = true → s.power.xtalOk = true → s.power.xtalSrc = false → ∃ t, exec (.clkXtalLoss) s = .next t ∧
      t = { s with power := { s.power with xtalOk := false }, regs := t.regs, evTotal := s.evTotal + 1
                   evs := s.evs ++ [evNow s 0x0803 15 0 none] } ∧ bitOf (reg t (regKey 10 0x700)) 4 = true) ∧
    (s.power.fixedOn = true → s.power.refOk = false → s.power.xtalOk = false → ∃ t, exec (.clockLossRestart) s = .next t ∧
      t.power.stage = 1 ∧ t.power.stopped = true ∧ t.power.cause = 1 ∧ t.power.rails = s.power.rails ∧
      t.power.ready = false ∧ t.jobState = 0 ∧ t.course = none ∧ t.keys = {} ∧ t.qps = [] ∧ t.regs = [] ∧
      t.vault.fmap = s.vault.fmap ∧ t.vault.counters = s.vault.counters ∧ t.vault.log = s.vault.log ∧
      t.hostMem = s.hostMem ∧ (∀ n, (stn t n).run = .idle))) ∧
  (∀ (s : State) (g : Nat),
    ((clu s g).ramping = true → (clu s g).onBoot = false → s.power.clockWait = [] → ∃ r, exec (.rampStep g) s =
        .next (updClu s g (fun c => { c with ratio := r, ramping := decide (r ≠ ratioOf c.target) })) ∧
      r ≤ (clu s g).ratio + 655 ∧ (clu s g).ratio ≤ r + 655 ∧
      ((clu s g).ratio < ratioOf (clu s g).target → (clu s g).ratio < r ∧ r ≤ ratioOf (clu s g).target) ∧
      (ratioOf (clu s g).target ≤ (clu s g).ratio → ratioOf (clu s g).target ≤ r ∧ r ≤ (clu s g).ratio)) ∧
    ((clu s g).ramping = false → exec (.rampStep g) s = .next s) ∧
    (live s g = true → 7 ≤ s.power.stage →
      (∃ r, 600 ≤ r ∧ r ≤ 2100 ∧ exec (.pacerTargetUpdate g) s =
        .next (retarget (updClu { s with freeCtr := s.freeCtr + 1 } g (fun c => { c with replica := r })) g)) ∧
      (∀ depth, 1 ≤ depth → depth ≤ 3 → exec (.droopStretch g depth) s =
        .next (updClu s g (fun c => { c with stretch := max c.stretch (2 ^ (depth - 1)) }))) ∧
      (∀ temp, 100 ≤ temp → ∃ t, exec (.pacThermal g temp) s = .next t ∧
        clu t g = { clu s g with thermal := max 600 ((clu s g).thermal - 100) } ∧ t.power.thermal.get false g = true ∧
        (∀ h, h ≠ g → clu t h = clu s h) ∧
        (s.power.thermal.get false g = false → t.evs = s.evs ++ [evNow s 0x0804 (g / 12) (g % 12) none]) ∧
        (s.power.thermal.get false g = true → t.evs = s.evs)) ∧
      (∀ temp, temp < 98 → s.power.thermal.get false g = true → ∃ t, exec (.pacThermal g temp) s = .next t ∧
        clu t g = { clu s g with thermal := min 2100 ((clu s g).thermal + 100) } ∧
        (t.power.thermal.get false g = true ↔ (clu s g).thermal + 100 < 2100) ∧ t.evs = s.evs) ∧
      (∀ temp, 98 ≤ temp → temp < 100 → exec (.pacThermal g temp) s = .next s) ∧
      (∃ t, exec (.pacTimingFloor g) s = .next t ∧ evNow s 0x0805 (g / 12) (g % 12) none ∈ t.evs ∧
        (s.tests.length < 256 → (∀ x ∈ s.tests, x.kind ≠ 4 ∨ x.index ≠ g) → t.tests = s.tests ++ [⟨4, g, 0x0805⟩]) ∧
        (s.jobState = 3 → t.stepErr = true ∧ (s.stop.wanted = false → s.stop.stage = 0 →
          t.stop.wanted = true ∧ t.stop.event = 0x0805)) ∧ t.clus = s.clus ∧ SameBytes s t)) ∧
    ((clu (retarget s g) g).target = pacerLimit s g ∧ 600 ≤ pacerLimit s g ∧
      (pacerLimit s g = 600 ∨ (pacerLimit s g ≤ policyLimit s g ∧ pacerLimit s g ≤ (clu s g).replica ∧
        pacerLimit s g ≤ (clu s g).thermal ∧ pacerLimit s g ≤ (clu s g).grant ∧ (clu s g).lowered = false ∧
        pacerLimit s g ≤ 2100)))) ∧
  (∀ (s : State) (src : Src) (scope mode mhz : Nat), Taken s .any false →
    (scope < 3 → mode < 2 → 600 ≤ mhz → mhz ≤ 2100 → ∃ t, exec (.setClockPolicy src scope mode mhz) s = .next t ∧
      (scope ≠ 2 → t.power.westCapped = decide (mode = 1) ∧ t.power.westMhz = mhz) ∧
      (scope = 2 → t.power.westCapped = s.power.westCapped ∧ t.power.westMhz = s.power.westMhz) ∧
      (scope ≠ 1 → t.power.eastCapped = decide (mode = 1) ∧ t.power.eastMhz = mhz) ∧
      (scope = 1 → t.power.eastCapped = s.power.eastCapped ∧ t.power.eastMhz = s.power.eastMhz) ∧
      (∀ g, live s g = true → inScope scope g = true → (clu t g).target = pacerLimit t g) ∧
      (∀ g, inScope scope g = false → clu t g = clu s g) ∧ t.evs = s.evs ∧
      (s.power.clockWait = [] → rampsOver t scope = true → t.power.clockWait = [] ∧ t.cmdTotal = s.cmdTotal + 1) ∧
      (s.power.clockWait = [] → rampsOver t scope = false → t.power.clockWait = [(src, scope)] ∧
        t.cmdTotal = s.cmdTotal)) ∧
    ((3 ≤ scope ∨ 2 ≤ mode ∨ mhz < 600 ∨ 2100 < mhz) →
      exec (.setClockPolicy src scope mode mhz) s = .next (complete s src stInvalid 0)))

/-- Each Pacer's limits and each ramp go on. The supply thresholds and the budget: the warning, its hold and its end; over-voltage; what a sample of the budget
manager sets, counts and raises; grants raised and lowered by 25 MHz between 600 and 2,100 MHz; and PWR_ALERT_N. -/
def Obligations.SupplyAndBudget : Prop :=
  (∀ (s : State) (g : Nat), live s g = true → 7 ≤ s.power.stage →
    (∃ t, exec (.pacerTargetUpdate g) s = .next t ∧ 600 ≤ (clu t g).replica ∧ (clu t g).replica ≤ 2100 ∧
      (clu t g).target = pacerLimit t g) ∧
    (∀ depth, 1 ≤ depth → depth ≤ 3 → ∃ t, exec (.droopStretch g depth) s = .next t ∧
      2 ^ (depth - 1) ≤ (clu t g).stretch) ∧
    (∀ temp, 100 ≤ temp → ∃ t, exec (.pacThermal g temp) s = .next t ∧
      (clu t g).thermal = max 600 ((clu s g).thermal - 100)) ∧
    (∃ t, exec (.pacTimingFloor g) s = .next t ∧ evNow s 0x0805 (g / 12) (g % 12) none ∈ t.evs) ∧
    ((clu s g).ramping = true → (clu s g).onBoot = false →
      ∃ t, exec (.rampStep g) s = .next t ∧ (clu t g).ratio = rampRatio (clu s g).ratio (ratioOf (clu s g).target))) ∧
  (∀ (s : State) (mv : Nat),
    (s.power.rails = 3 → s.power.warn = false → mv < 35000 → ∃ t, exec (.pwrSupplyWarn mv) s = .next t ∧
      t = { s with power := { s.power with mv := mv, warn := true, hold := false }, regs := t.regs
                   evs := s.evs ++ [evNow s 0x0901 15 0 none], evTotal := s.evTotal + 1
                   vault := { s.vault with life := { s.vault.life with warnings := s.vault.life.warnings + 1 } } } ∧
      bitOf (reg t pwrStatus) 8 = true ∧ vaultOpen t = false) ∧
    (35000 ≤ mv → exec (.pwrSupplyWarn mv) s = .next s) ∧
    (s.power.warn = true → s.power.hold = false → 36000 < mv →
      exec (.supplyRiseHoldStart mv) s = .next { s with power := { s.power with mv := mv, hold := true } }) ∧
    (mv ≤ 36000 → exec (.supplyRiseHoldStart mv) s = .next s) ∧
    (s.power.warn = true → s.power.hold = true → mv < 36000 →
      exec (.supplyFallDuringHold mv) s = .next { s with power := { s.power with mv := mv, hold := false } }) ∧
    (s.power.warn = true → s.power.hold = true → exec (.pwrSupplyClear) s =
      .next (raise { s with power := { s.power with warn := false, hold := false } } 0x0902 15 0 none)) ∧
    (s.power.hold = false → exec (.pwrSupplyClear) s = .next s) ∧
    (s.power.rails = 3 → 44500 < mv → exec (.pwrOvervoltage mv) s =
      .next (raise (setBit { s with power := { s.power with mv := mv } } pwrStatus 11) 0x0905 15 0 none)) ∧
    (mv ≤ 44500 → exec (.pwrOvervoltage mv) s = .next s)) ∧
  (∀ (s : State) (mv ca p10 p1000 w10 w1000 e10 e1000 cap : Nat) (back : Bool), budgetOn s = true →
    cap = (if s.power.alert then min s.power.cap s.power.alertCap else s.power.cap) →
    (back = true ↔ min (12 * cap) 160000 < 10 * p10 ∨ (s.power.backstop = true ∧ cap < p10)) →
    ∃ t, exec (.budgetSample mv ca p10 p1000 w10 w1000 e10 e1000) s = .next t ∧
      t.power.mv = mv ∧ t.power.ca = ca ∧ t.power.p10 = p10 ∧ t.power.watts = p1000 ∧ t.power.west = w1000 ∧
      t.power.east = e1000 ∧ t.power.excess = decide (cap < p1000) ∧ t.power.backstop = back ∧
      (t.power.halfWest = true ↔ 7000 < w1000 ∨ 8400 < w10) ∧ (t.power.halfEast = true ↔ 7000 < e1000 ∨ 8400 < e10) ∧
      (s.power.alertStretch = true → (t.power.alertStretch = true ↔ s.power.alertCap < p10)) ∧
      (s.power.excess = false → s.power.backstop = false → (cap < p1000 ∨ back = true) →
        bits (reg t (regKey 10 0x730)) 31 0 = min (2 ^ 32 - 1) (bits (reg s (regKey 10 0x730)) 31 0 + 1)) ∧
      (cap < p1000 → s.power.overRaised = false → evNow s 0x0903 15 0 none ∈ t.evs) ∧
      ((7000 < w1000 ∨ 8400 < w10) → s.power.halfWest = false → evNow s 0x0906 15 0 none ∈ t.evs) ∧
      (p1000 ≤ cap → back = false → w1000 ≤ 7000 → w10 ≤ 8400 → e1000 ≤ 7000 → e10 ≤ 8400 → t.evs = s.evs ∧
        t.regs = s.regs) ∧ t.clus = s.clus ∧ SameBytes s t) ∧
  (∀ (s : State), budgetOn s = true →
    (100 * s.power.watts < 95 * effCap s → ∃ t, exec (.budgetGrantRaise) s = .next t ∧ t = { s with clus := t.clus } ∧
      ∀ g, clu t g = if live s g then { clu s g with grant := min 2100 ((clu s g).grant + 25) } else clu s g) ∧
    (95 * effCap s ≤ 100 * s.power.watts → exec (.budgetGrantRaise) s = .next s) ∧
    (∃ t, exec (.budgetGrantLower) s = .next t ∧ t = { s with clus := t.clus } ∧
      ∀ g, clu t g = if live s g && (decide (effCap s < s.power.watts) || s.power.backstop ||
          (if westDie (g / 12) then s.power.halfWest else s.power.halfEast))
        then { clu s g with grant := max 600 ((clu s g).grant - 25) } else clu s g)) ∧
  (∀ (s : State),
    (s.power.rails = 3 → s.power.alert = false → ∃ t, exec (.pwrAlert) s = .next t ∧
      t = { s with power := { s.power with alert := true, alertStretch := true }, regs := t.regs
                   evs := s.evs ++ [evNow s 0x0904 15 0 none], evTotal := s.evTotal + 1 } ∧
      bitOf (reg t pwrStatus) 9 = true ∧ effCap t = min s.power.cap s.power.alertCap ∧ ∀ g, stretched t g = true) ∧
    (s.power.alert = true → exec (.alertRelease) s = .next { s with power := { s.power with alert := false } }) ∧
    (s.power.alert = false → exec (.alertRelease) s = .next s))

/-- The clock sources, whose loss and return the fixed domain follows, and the power-up sequence: rails, fixed domain, ROM boot, vault, training, zeroisation, self-test, command processor and
ready: what each does from the step before it. -/
def Obligations.PowerUpSequence : Prop :=
  (∀ (s : State), s.power.fixedOn = true →
    (s.power.stage ≠ 0 → ∃ t, exec (.clockSourceStable .xtal) s = .next t ∧ t.power.xtalOk = true) ∧
    (∃ t, exec (.missingEdge .refclk) s = .next t ∧ t.power.refOk = false) ∧
    (s.power.refLost = false → ∃ t, exec (.clkRefLoss) s = .next t ∧ t.power.refLost = true ∧
      (s.power.xtalOk = true → t.power.xtalSrc = true) ∧ evNow s 0x0801 15 0 none ∈ t.evs) ∧
    (s.power.refLost = true → ∃ t, exec (.clkRefRestored) s = .next t ∧ t.power.refLost = false ∧
      t.power.xtalSrc = false) ∧
    (s.power.xtalOk = true → ∃ t, exec (.clkXtalLoss) s = .next t ∧ t.power.xtalOk = false) ∧
    (s.power.refOk = false → s.power.xtalOk = false → ∃ t, exec (.clockLossRestart) s = .next t ∧ t.power.stage = 1 ∧
      t.power.stopped = true)) ∧
  (∀ (s : State) (mv : Nat),
    (s.power.regulators = false → s.power.rails = 0 → s.power.trip = false → s.power.railFails = 0 →
      (36000 < mv → exec (.regulatorStart mv) s = .next { s with power := { s.power with mv := mv, regulators := true } }) ∧
      (mv ≤ 36000 → exec (.regulatorStart mv) s = .next s)) ∧
    (s.power.regulators = true → s.power.rails < 3 →
      exec (.railGroupGood) s = .next { s with power := { s.power with
        rails := s.power.rails + 1, railFails := if s.power.rails = 2 then 0 else s.power.railFails } } ∧
      exec (.railFailure) s = .next { s with power := { s.power with
        regulators := false, rails := 0, railFault := true, railFails := s.power.railFails + 1 } }) ∧
    (s.power.regulators = false → s.power.rails = 0 → s.power.trip = false →
      (1 ≤ s.power.railFails → s.power.railFails ≤ 2 →
        exec (.railRetry) s = .next { s with power := { s.power with regulators := true } }) ∧
      (3 ≤ s.power.railFails → exec (.railRetry) s = .next s ∧ exec (.regulatorStart mv) s = .next s))) ∧
  (∀ (s : State), s.power.rails = 3 → s.power.stage = 0 → s.power.stopped = false → ∃ t, exec (.powerUp) s = .next t ∧
    t.power.stage = 1 ∧ t.power.rails = 3 ∧ t.power.ready = false ∧ t.jobState = 0 ∧ t.course = none ∧ t.regs = [] ∧
    t.mem = [] ∧ t.qps = [] ∧ t.keys = {} ∧ t.vault.fmap = s.vault.fmap ∧ t.vault.counters = s.vault.counters ∧
    t.vault.log = s.vault.log ∧ t.vault.supps = s.vault.supps ∧ t.hostMem = s.hostMem) ∧
  (∀ (s : State), s.power.stage = 1 → (s.power.refOk = true ∨ s.power.xtalOk = true) →
    exec (.fixedDomainStart) s = .next { s with power := { s.power with
      fixedOn := true, xtalSrc := !s.power.refOk, stage := 2, stopped := false, since := s.timeNs } }) ∧
  (∀ (s : State), s.power.stage = 1 → s.power.refOk = false → s.power.xtalOk = false →
    exec (.fixedDomainStart) s = .next s) ∧
  (∀ (s : State) (a b : Bool), s.power.stage = 2 → s.power.noSup = false → pairOut s 14 0 = false →
    pairOut s 14 1 = false → ∃ t, exec (.romBoot a b) s = .next t ∧ t = { s with ctl := t.ctl, power := t.power } ∧
      t.ctl.hd1 = (!a && b) ∧ t.ctl.hd0Ok = a ∧ t.ctl.hd1Ok = b ∧
      (a = true ∨ b = true → t.power = { s.power with stage := 3 }) ∧
      (a = false → b = false → t.power = { s.power with noSup := true })) ∧
  (∀ (s : State), s.power.stage = 3 → s.vault.torn = false → s.vault.badEssential = 0 → s.vault.badMap = 0 →
    s.vault.state ≠ 3 → s.vault.poolSpent = false → s.vault.blockFails = false → s.vault.badSupps = [] →
    ∃ t, exec (.vaultRecovery) s = .next t ∧ t.power = { s.power with stage := 4 } ∧ t.suppsEff = s.vault.supps ∧
      t.vault.counters.get 0 0 = (s.vault.counters.get 0 0 + 1) % 2 ^ 64 ∧
      (∀ i, i ≠ 0 → t.vault.counters.get 0 i = s.vault.counters.get 0 i) ∧
      t.evs = s.evs ++ [evNow s 0x0B02 15 0 (some (t.vault.counters.get 0 0 % 2 ^ 32))] ∧
      t.vault.fmap = s.vault.fmap ∧ SameBytes s t) ∧
  (∀ (s : State), s.power.stage = 4 → s.vault.fmap = [] → s.defects = [] → ∃ t, exec (.memoryTraining []) s = .next t ∧
    t.power = { s.power with stage := 5 } ∧ (∀ u, u < 48 → (dramOf t u).trained = true ∧ (dramOf t u).sparesUsed = 0) ∧
    t.evs = s.evs ∧ SameBytes s t) ∧
  (∀ (s : State) (u : Nat), s.power.stage = 4 → u < 48 → s.vault.fmap = [] → ∃ t, exec (.memoryTraining [u]) s = .next t ∧
    t.power.stage = 5 ∧ (dramOf t u).trained = false ∧
    evNow s 0x0506 (if u < 16 then u / 2 else 8 + (u - 16) / 16) (if u < 16 then u else u - 16) none ∈ t.evs) ∧
  (∀ (s : State), s.power.stage = 5 → s.power.resetting = false → ∃ t, exec (.powerupZeroiseDone false) s = .next t ∧
    t.power = { s.power with stage := 6 } ∧
    (∀ a, a < 0x018000000000 ∨ (storeSpan ≤ a ∧ a < 0x0408C0000000) → memGet t.mem a = 0) ∧
    (∀ a, lpBase ≤ a → a < storeSpan → memGet t.mem a = memGet s.mem a)) ∧
  (∀ (s : State), 5 ≤ s.power.stage → s.power.stage < 8 → s.power.lpZero = false → s.power.resetting = false →
    ∃ t, exec (.powerupZeroiseDone true) s = .next t ∧ t.power = { s.power with lpZero := true } ∧
      evNow s 0x0A07 15 0 none ∈ t.evs ∧ (∀ a, lpBase ≤ a → a < 0x03C700000000 → memGet t.mem a = 0) ∧
      (∀ a, a < lpBase ∨ 0x03C700000000 ≤ a → memGet t.mem a = memGet s.mem a)) ∧
  (∀ (s : State), s.power.stage = 6 → s.power.resetting = false → s.vault.fmap = [] → s.defects = [] →
    s.wireFault = [] → s.ctl.moonOut = [] → ∃ t, exec (.powerupSelftest) s = .next t ∧
      t.power = { s.power with stage := 7 } ∧ t.coresEff = s.coresNext ∧ t.assign = s.assignNext ∧
      (∀ e ∈ t.clus, e.2.onBoot = true ∧ e.2.ratio = 0x60000) ∧ t.vault = s.vault ∧ t.evs = s.evs ∧ SameBytes s t) ∧
  (∀ (s : State), s.power.netFault = false → s.power.noSup = false → s.power.stage = 7 →
    (s.power.lpZero = true → ∃ t, exec (.commandProcessorOpen) s = .next t ∧ t.power.stage = 8 ∧
      t.power.resetting = false ∧ (s.power.linkUp = false → t.ports = s.ports)) ∧
    (s.power.lpZero = false → exec (.commandProcessorOpen) s = .next s)) ∧
  (∀ (s : State), s.power.stage = 8 →
    ((s.power.perst = false ∨ s.power.cause ≠ 2) → exec (.ready) s = .next { s with
      capGen := 1, power := { s.power with
        stage := 9, ready := true, readyMs := (s.timeNs - s.power.since) / 1000000 % 2 ^ 32 } }) ∧
    (s.power.perst = true → s.power.cause = 2 → exec (.ready) s = .next s))

/-- The resets: a warm reset and PERST_N end the job without completions, return queue pairs, event ring, cap and clock
policy to their reset values and keep vault, training and handoff ports; a fall below 32.0 V, a rise above 46.0 V and a
thermal trip turn every rail off and keep the vault alone, an interrupted transaction being left torn. -/
def Obligations.Resets : Prop :=
  (∀ (s : State) (v : Nat), barOpen s = true →
    (v % 2 ^ 32 = 0x5752 → s.power.ready = true → ∃ t, exec (.warmReset v) s = .next t ∧ t.power.stage = 5 ∧
      t.power.resetting = true ∧ t.power.cause = 3 ∧ t.power.ready = false ∧ t.power.cap = 12000 ∧
      t.power.westCapped = false ∧ t.power.eastCapped = false ∧ t.power.resets = min 65535 (s.power.resets + 1) ∧
      t.power.linkUp = true ∧ t.qps = [] ∧ t.ring = {} ∧ t.msix = s.msix ∧ t.course = none ∧
      t.keys = { loads := s.keys.loads } ∧ t.wins = [] ∧ t.hostMem = s.hostMem ∧ t.posts = s.posts ∧ t.dram = s.dram ∧
      t.vault.counters = s.vault.counters ∧ t.vault.fmap = s.vault.fmap ∧ t.coresEff = s.coresEff ∧
      (∀ p, (hport t p).state = (hport s p).state ∧ (hport t p).enabled = (hport s p).enabled) ∧
      (∀ i, t.reached.get false i = true ↔ i ∈ usedRanges s) ∧ SameBytes s t) ∧
    ((v % 2 ^ 32 ≠ 0x5752 ∨ s.power.ready = false) → exec (.warmReset v) s = .next s)) ∧
  (∀ (s : State), s.power.perst = false →
    (s.power.ready = true → ∃ t, exec (.perstNAssert) s = .next t ∧ t.power.perst = true ∧ t.power.linkUp = false ∧
      t.power.stage = 5 ∧ t.power.cause = 2 ∧ t.power.ready = false ∧ t.qps = [] ∧ t.ring = {} ∧ t.msix = [] ∧
      t.pba = [] ∧ t.posts = [] ∧ t.course = none ∧ t.keys = { loads := s.keys.loads } ∧ t.hostMem = s.hostMem ∧
      t.vault.counters = s.vault.counters ∧ t.coresEff = s.coresEff ∧ SameBytes s t) ∧
    (s.power.ready = false → exec (.perstNAssert) s =
      .next { s with power := { s.power with perst := true, linkUp := false } })) ∧
  (∀ (s : State), s.power.perst = true → ∃ x, exec (.perstNDeassert) s =
      .next { s with power := { s.power with perst := false, since := x } } ∧
    (s.power.cause = 2 → s.power.ready = false → s.power.stage ≠ 0 → x = s.timeNs) ∧
    (s.power.ready = true → x = s.power.since)) ∧
  (∀ (s t : State) (mv sensor temp limit : Nat) (c : Instr),
    (c = .supplyReset mv ∧ mv < 32000 ∨ c = .overvoltageShutdown mv ∧ 46000 < mv ∨
      c = .thermalTrip sensor temp ∧ fatalTemp sensor = some limit ∧ limit ≤ temp ∧ s.power.rails ≠ 0) →
    exec c s = .next t →
    t.power.rails = 0 ∧ t.power.regulators = false ∧ t.power.stage = 0 ∧ t.power.ready = false ∧ t.jobState = 0 ∧
      t.mem = [] ∧ t.regs = [] ∧ t.keys = {} ∧ t.course = none ∧ t.qps = [] ∧ t.stns = [] ∧ t.evs = [] ∧
      t.vault.counters = s.vault.counters ∧ t.vault.fmap = s.vault.fmap ∧ t.vault.log = s.vault.log ∧
      t.vault.courseKeys = s.vault.courseKeys ∧ t.hostMem = s.hostMem ∧ (c = .thermalTrip sensor temp →
        t.power.trip = true ∧ (t.vault.torn = true ↔ s.vault.torn = true ∨ (s.vault.queue ≠ [] ∧ vaultOpen s = true)))) ∧
  (∀ (s : State) (mv sensor temp : Nat),
    (mv < 32000 → ∃ t, exec (.supplyReset mv) s = .next t ∧ t.power.mv = mv ∧
      (mv = 0 → t.power.trip = false ∧ t.power.railFault = false ∧ t.power.railFails = 0) ∧
      (mv ≠ 0 → t.power.trip = s.power.trip)) ∧
    (32000 ≤ mv → exec (.supplyReset mv) s = .next s) ∧
    (46000 < mv → ∃ t, exec (.overvoltageShutdown mv) s = .next t ∧ t.power.mv = mv) ∧
    (mv ≤ 46000 → exec (.overvoltageShutdown mv) s = .next s) ∧
    (∀ limit, fatalTemp sensor = some limit → limit ≤ temp → s.power.rails ≠ 0 →
      ∃ t, exec (.thermalTrip sensor temp) s = .next t ∧ t.power.trip = true) ∧
    (∀ limit, fatalTemp sensor = some limit → temp < limit → exec (.thermalTrip sensor temp) s = .next s))

/-! ## Vault and management -/

/-- The vault: transactions run one by one and wait for a supply warning to end; a fault-map entry raises the
generation and takes its unit out of use; a command's own commits behind those that wait; the event log and the lifetime telemetry are committed; supplements, enrollment and the debug unlock are
taken under their keys and counters only; and areas 2 and 3 give the counters and the public keys. -/
def Obligations.VaultCommands : Prop :=
  (∀ (s : State) (x : Txn) (q : List Txn), s.vault.queue = x :: q →
    (s.power.warn = true → exec (.vaultTransaction) s = .next s) ∧
    (s.power.warn = false → s.vault.state ≠ 0 →
      exec (.vaultTransaction) s = .next { s with vault := { s.vault with queue := q } }) ∧
    (s.power.warn = false → s.vault.state = 0 → s.vault.blockFails = false →
      (∀ e, x = .fault e → ∃ t, exec (.vaultTransaction) s = .next t ∧ t.capGen = (s.capGen + 1) % 2 ^ 32 ∧
        t.vault = { s.vault with queue := q, txn := (s.vault.txn + 1) % 2 ^ 64
                                 fmap := s.vault.fmap ++ [entryOf s e], mapGen := (s.vault.mapGen + 1) % 2 ^ 32 } ∧
        (e.kind = 5 → t.banksBad.get false e.location = true) ∧
        (e.kind = 6 → e.action = 4 → t.edgesBad.get false e.location = true ∧
          evNow s 0x0108 15 0 (some e.location) ∈ t.evs) ∧
        (e.kind = 14 → (if e.location = 0 then t.ctl.hd0Ok else t.ctl.hd1Ok) = false) ∧
        t.jobState = s.jobState ∧ t.stns = s.stns ∧ t.mem = s.mem) ∧
      (∀ l, x = .log l → s.vault.log.length + l.length ≤ logMax → ∃ t, exec (.vaultTransaction) s = .next t ∧
        t = { s with vault := t.vault } ∧ t.vault.txn = (s.vault.txn + 1) % 2 ^ 64 ∧ t.vault.queue = q ∧
        t.vault.logSeq = s.vault.logSeq + l.length ∧ t.vault.log.length = s.vault.log.length + l.length ∧
        t.vault.log.take s.vault.log.length = s.vault.log ∧
        ∀ i e, l[i]? = some e → t.vault.log[s.vault.log.length + i]? = some { e with seq := s.vault.logSeq + i }) ∧
      (x = .life → ∃ t, exec (.vaultTransaction) s = .next t ∧ t = { s with vault := t.vault } ∧
        t.vault.lifeSaved = { s.vault.life with seconds := s.vault.life.seconds + s.timeNs / 1000000000 } ∧
        t.vault.queue = q))) ∧
  (∀ (s : State), s.vault.state = 0 →
    (s.vault.buf ≠ [] → exec (.eventLogCommit) s = .next { s with vault := { s.vault with
      buf := [], queue := s.vault.queue ++ [.log s.vault.buf] } }) ∧
    (s.vault.buf = [] → exec (.eventLogCommit) s = .next s) ∧
    (4 ≤ s.power.stage → exec (.lifetimeTelemetryCommit) s = .next { s with vault := { s.vault with
      queue := s.vault.queue ++ [.life] } })) ∧
  (∀ (s : State) (src : Src) (a len : Nat) (p : Supplement), Taken s .load true → suppHeadOk p = true →
    len = 64 + p.bodyLength + 29792 → len ≤ 64 * 2 ^ 20 → s.vault.badEssential = 0 → s.vault.state = 0 →
    exec (.loadSupplement src a len p true) s = .next (dmaFault s src) ∧
    ((s.vault.suppKey = 0 ∨ p.signedBy ≠ s.vault.suppKey) → exec (.loadSupplement src a len p false) s =
      .next (complete (raise (setBit s (regKey 10 0x900) 11) 0x0A04 15 0 none) src 0x02 0)) ∧
    (s.vault.suppKey ≠ 0 → p.signedBy = s.vault.suppKey →
      (p.version < s.vault.counters.get 0 (1 + p.type) → exec (.loadSupplement src a len p false) s =
        .next (complete (raise (setBit s (regKey 10 0x900) 11) 0x0A05 15 0 none) src 0x0C 0)) ∧
      (s.vault.counters.get 0 (1 + p.type) ≤ p.version → ∃ u, exec (.loadSupplement src a len p false) s =
          .next (complete u src stOK 0) ∧ u.vault.supps.get (0, 0) p.type = (p.version, p.measure) ∧
        u.vault.counters.get 0 (1 + p.type) = p.version ∧ u.vault.queue = [] ∧ u.suppsEff = s.suppsEff) ∧
      (s.vault.counters.get 0 (1 + p.type) ≤ p.version → s.vault.blockFails = false → s.vault.queue = [] →
        exec (.loadSupplement src a len p false) s = .next (complete { s with vault := { s.vault with
          txn := (s.vault.txn + 1) % 2 ^ 64, supps := s.vault.supps.set p.type (p.version, p.measure)
          badSupps := s.vault.badSupps.drop p.type
          counters := s.vault.counters.set (1 + p.type) p.version } } src stOK 0)))) ∧
  (∀ (s : State) (src : Src) (a off len : Nat), Taken s .any true → s.vault.badEssential = 0 →
    hostFails s a len = false → ∀ bs : List Byte,
    (bs = (List.range 64).flatMap (fun i => leBytes 8 (s.vault.counters.get 0 i)) → off + len ≤ 512 →
      exec (.vaultRead src a off len 2) s =
        .next (complete (hostWrite s a ((bs.drop off).take len)) src stOK (len % 2 ^ 32))) ∧
    (bs = (List.range 16).flatMap (fun i => keyBytes (s.vault.courseKeys.get 0 i)) ++ keyBytes s.vault.suppKey →
      off + len ≤ 1088 → exec (.vaultRead src a off len 3) s =
        .next (complete (hostWrite s a ((bs.drop off).take len)) src stOK (len % 2 ^ 32)))) ∧
  (∀ (s : State) (r : EnrollRec), mgtUp s = true → s.vault.badEssential = 0 →
    (enrollOk r = false → exec (.enroll r) s = .next (answer s (.vendor stInvalid []))) ∧
    (enrollOk r = true → s.power.warn = true → exec (.enroll r) s = .next (answer s (.vendor 0x09 []))) ∧
    (enrollOk r = true → s.power.warn = false →
      (s.vault.courseKeys.get 0 0 = 0 ∨ r.signedBy ≠ s.vault.courseKeys.get 0 0 →
        exec (.enroll r) s = .next (answer s (.vendor 0x02 []))) ∧
      (s.vault.courseKeys.get 0 0 ≠ 0 → r.signedBy = s.vault.courseKeys.get 0 0 →
        (r.version ≤ s.vault.counters.get 0 1 → exec (.enroll r) s = .next (answer s (.vendor 0x0C []))) ∧
        (s.vault.counters.get 0 1 < r.version → s.vault.state ≠ 0 →
          exec (.enroll r) s = .next (answer s (.vendor stFault []))) ∧
        (s.vault.counters.get 0 1 < r.version → s.vault.state = 0 → ∃ u, exec (.enroll r) s =
            .next (answer u (.vendor stOK [])) ∧ u.vault.counters.get 0 1 = r.version ∧ u.vault.queue = [] ∧
          u.vault.courseKeys.get 0 r.slot = r.key ∧ evNow s 0x0B09 15 0 none ∈ u.evs) ∧
        (s.vault.counters.get 0 1 < r.version → s.vault.state = 0 → s.vault.blockFails = false → s.vault.queue = [] → ∃ u,
          exec (.enroll r) s = .next (answer u (.vendor stOK [])) ∧
          u = { s with vault := u.vault, evs := s.evs ++ [evNow s 0x0B09 15 0 none], evTotal := s.evTotal + 1 } ∧
          u.vault.counters = s.vault.counters.set 1 r.version ∧ u.vault.courseKeys.get 0 r.slot = r.key ∧
          (∀ i, i ≠ r.slot → u.vault.courseKeys.get 0 i = s.vault.courseKeys.get 0 i))))) ∧
  (∀ (s : State) (k : Token), mgtUp s = true → s.vault.state ≠ 3 →
    (tokenOk s k = false → exec (.unlock k) s = .next (answer s (.vendor stInvalid []))) ∧
    (tokenOk s k = true → k.signedBy ≠ debugKey → exec (.unlock k) s = .next (answer s (.vendor 0x02 []))) ∧
    (tokenOk s k = true → k.signedBy = debugKey → ∃ u, exec (.unlock k) s = .next (answer u (.vendor stOK [])) ∧
      u.debugOpen = true ∧ u.jobState = 0 ∧ u.course = none ∧ u.keys = { loads := s.keys.loads } ∧
      (∀ a, a < 0x018000000000 ∨ (lpBase ≤ a ∧ a < 0x03C700000000) ∨ (storeSpan ≤ a ∧ a < 0x0408C0000000) →
        memGet u.mem a = 0) ∧ (∃ e ∈ u.evs, e.code = 0x0A06 ∧ e.time = s.timeNs))) ∧
  (∀ (s : State) (off len area n : Nat), mgtUp s = true → areaEnd s area = some n → len ≤ 1024 → off + len ≤ n →
    (s.power.warn = true → exec (.mgtVaultRead off len area) s = .next (answer s (.vendor 0x09 []))) ∧
    (s.power.warn = false → exec (.mgtVaultRead off len area) s =
      .next (answer (readArea s area off len).1 (.vendor stOK (readArea s area off len).2))))

/-- The management endpoint: a dynamic address, endpoint and terminus identifiers, the lists of types and commands,
sensor readings and thresholds; what the spec does not state of an answer is the free value of a draw (log 40). -/
def Obligations.ManagementEndpoint : Prop :=
  (∀ (s : State) (a : Answer), ∃ t, answer s a = t ∧ t = { s with mgt := { s.mgt with reply := some a }, regs := t.regs } ∧
    bits (reg t (regKey 10 0xA88)) 31 0 = min (2 ^ 32 - 1) (bits (reg s (regKey 10 0xA88)) 31 0 + 1)) ∧
  (∀ (s : State), mgtUp s = true →
    (∀ a, s.mgt.i3c = false → a < 128 →
      exec (.entdaa a) s = .next { s with mgt := { s.mgt with i3c := true, address := a } } ∧
      exec (.setdasa a) s = .next { s with mgt := { s.mgt with i3c := true, address := a } }) ∧
    exec (.rstdaa) s = .next { s with mgt := { s.mgt with i3c := false, address := 0x5A } } ∧
    (∀ op e, op < 2 → 8 ≤ e → e < 255 → exec (.setEndpointId op e) s =
      .next (answer { s with mgt := { s.mgt with eid := e, eidValid := true } } (.numbers [e]))) ∧
    (∀ op e, (2 ≤ op ∨ e < 8 ∨ 255 ≤ e) → exec (.setEndpointId op e) s = .next (answer s .refused)) ∧
    exec (.getEndpointId) s = .next (answer s (.numbers [s.mgt.eid])) ∧
    exec (.getMessageTypeSupport) s = .next (answer s (.numbers [0x00, 0x01, 0x7F])) ∧
    exec (.getTid) s = .next (answer s (.numbers [s.mgt.tid])) ∧
    (∀ i, 1 ≤ i → i < 255 → exec (.setTid i) s = .next (answer { s with mgt := { s.mgt with tid := i } } (.numbers []))) ∧
    exec (.setTid 0) s = .next (answer s .refused) ∧
    exec (.getPldmTypes) s = .next (answer s (.numbers [0, 2])) ∧
    (∀ v, exec (.getPldmCommands 0 v) s = .next (answer s (.numbers [0x02, 0x01, 0x03, 0x04, 0x05])) ∧
      exec (.getPldmCommands 2 v) s = .next (answer s (.numbers [0x50, 0x51, 0x11, 0x21, 0x12])) ∧
      exec (.getPldmCommands 1 v) s = .next (answer s .refused)) ∧
    (∀ u, u = answer { s with freeCtr := s.freeCtr + 1 } (.unstated s.freeCtr) →
      (∀ m, (m = 0 ∨ m = 1 ∨ m = 0x7F) → exec (.getMctpVersionSupport m) s = .next u) ∧
      (∀ h f ty, (ty = 0 ∨ ty = 2) → exec (.getPldmVersion h f ty) s = .next u) ∧
      exec (.getPdrRepositoryInfo) s = .next u ∧ (∀ r h f c, exec (.getPdr r h f c) s = .next u)) ∧
    (∀ i re, 1 ≤ i → i ≤ 33 →
      (∀ v, sensorUp s i = true → s.mgt.sensors.find? (fun e => e.1 = i) = some (i, v) →
        exec (.getSensorReading i re) s = .next (answer s (.reading (some v)))) ∧
      (sensorUp s i = false → exec (.getSensorReading i re) s = .next (answer s (.reading none)))) ∧
    (∀ i re, 33 < i → exec (.getSensorReading i re) s = .next (answer s .refused)) ∧
    (∀ i v, (i = 40 ∨ i = 41) → s.mgt.sensors.find? (fun e => e.1 = i) = some (i, v) →
      exec (.getStateSensorReadings i) s = .next (answer s (.reading (some v)))) ∧
    exec (.getSensorThresholds 1) s = .next (answer s (.thresholds [(0, 35000), (1, 32000), (2, 44500), (4, 46000)])) ∧
    (∀ i, 5 ≤ i → i ≤ 12 → exec (.getSensorThresholds i) s = .next (answer s (.thresholds [(2, 95), (3, 100), (4, 115)]))) ∧
    (∀ i, (i = 13 ∨ i = 14) → exec (.getSensorThresholds i) s =
      .next (answer s (.thresholds [(2, 95), (3, 105), (4, 115)]))) ∧
    (∀ i, (15 ≤ i ∧ i ≤ 30 ∨ i = 33) → exec (.getSensorThresholds i) s =
      .next (answer s (.thresholds [(2, 85), (3, 95), (4, 105)]))) ∧
    (∀ l, ∃ t, exec (.pldmSensorUpdate l) s = .next t ∧ t.freeCtr = s.freeCtr + 1 ∧
      t.mgt.sensors.get 0 4 = effCap s ∧ t.mgt.sensors.get 0 40 = s.jobState ∧
      (healthCodes s = [] → t.mgt.sensors.get 0 41 = 0) ∧
      (∀ k, healthCodes s = [k] → t.mgt.sensors.get 0 41 = k) ∧
      (∀ i v, l = [(i, v)] → 1 ≤ i → i ≤ 33 → i ≠ 4 → sensorUp s i = true → t.mgt.sensors.get 0 i = v) ∧
      t.evs = s.evs ∧ SameBytes s t)) ∧
  (∀ (s : State), mgtUp s = false → (∀ a, exec (.entdaa a) s = .next s) ∧ exec (.getTid) s = .next s ∧
    ∀ k, exec (.unlock k) s = .next s)

/-! ## Rules of the spec on their own -/

/-- The logical cores of a cluster follow from its failed physical positions, and its stations from its cores. -/
def Obligations.CoresByFailedPositions : Prop :=
  ∀ (s t : State) (g : Nat) (l : List (Option Nat)), g < 96 → s.assignNext.get [] g = [] → s.coresNext.get 8 g = 8 →
    (∀ p, some p ∈ l → p ≤ 8) → t = applyAssignment (l.foldl (fun s p => failPosition s g p) s) →
    (none ∉ l → l.dedup.length ≤ 1 → cores t g = 8) ∧
    (none ∉ l → l.dedup.length = 2 → cores t g = 7) ∧
    (none ∉ l → 3 ≤ l.dedup.length → cores t g = 0) ∧
    (none ∈ l → cores t g = 0) ∧
    (∀ k, k < 8 → (present t (8 * g + k) = true ↔ k < cores t g)) ∧ (live t g = true ↔ 0 < cores t g)

/-- In a sealed job CMW_NORM2 and CMW_LOSS of every group read 0, and the counts and flags read as in an open job. -/
def Obligations.SealedNormsReadZero : Prop :=
  ∀ (s : State) (g : Nat), g < 64 → sealedJob s = true →
    word64 s 10 (0x40000 + 32 * g + 0x08) = 0 ∧ word64 s 10 (0x40000 + 32 * g + 0x10) = 0 ∧
    ∀ c : Option Image, sealedJob { s with course := c } = false →
      word64 s 10 (0x40000 + 32 * g) = word64 { s with course := c } 10 (0x40000 + 32 * g) ∧
      word64 s 10 (0x40000 + 32 * g + 0x18) = word64 { s with course := c } 10 (0x40000 + 32 * g + 0x18)
end

