-- ==== Sys2Proof/Laws/Cipher.lean ====
section
/-! SUPPORT. AES-256-GCM: lengths, and what is sealed opens again. -/
namespace Sys2Proof.Machine
open Sys2Proof

theorem xorList_length (a b : List Nat) : (xorList a b).length = min a.length b.length := by simp [xorList]

@[simp] theorem leBytes_length : ∀ n v : Nat, (leBytes n v).length = n
  | 0, _ => rfl
  | n + 1, v => by simp [leBytes, leBytes_length n]

@[simp] theorem natsOf_length (l : List Byte) : (natsOf l).length = l.length := by simp [natsOf]

@[simp] theorem bytesOf_length (l : List Nat) : (bytesOf l).length = l.length := by simp [bytesOf]

@[simp] theorem bytesOf_natsOf (l : List Byte) : bytesOf (natsOf l) = l := by
  simp only [bytesOf, natsOf, List.map_map]
  conv_rhs => rw [← List.map_id l]
  exact List.map_congr_left (fun a _ => by simp)

/-- Words of the key schedule have 4 bytes each. -/
theorem expandKey_words : ∀ (n i rcon : Nat) (ws : List (List Nat)), (∀ w ∈ ws, w.length = 4) → 8 ≤ ws.length →
    (∀ w ∈ expandKey n i rcon ws, w.length = 4) ∧ (expandKey n i rcon ws).length = ws.length + n
  | 0, _, _, _, h, _ => ⟨h, rfl⟩
  | n + 1, i, rcon, w0 :: ws, h, h8 => by
    have hw : w0.length = 4 := h w0 (by simp)
    have h7 : ((w0 :: ws).getD 7 []).length = 4 := by
      have : 7 < (w0 :: ws).length := by omega
      rw [List.getD_eq_getElem _ _ this]
      exact h _ (List.getElem_mem _)
    have ht : ∀ t : List Nat, t.length = 4 → (∀ w ∈ xorList ((w0 :: ws).getD 7 []) t :: w0 :: ws, w.length = 4) := by
      intro t e w hm
      rcases List.mem_cons.1 hm with rfl | hm
      · rw [xorList_length, h7, e]; rfl
      · exact h w hm
    unfold expandKey
    refine ⟨(expandKey_words n _ _ _ (ht _ ?_) (by simp at h8 ⊢; omega)).1, ?_⟩
    · obtain ⟨a, b, c, d, rfl⟩ : ∃ a b c d, w0 = [a, b, c, d] := by
        match w0, hw with
        | [a, b, c, d], _ => exact ⟨a, b, c, d, rfl⟩
      simp only [List.headD_cons]
      split
      · simp
      · split <;> simp
    · rw [(expandKey_words n _ _ _ (ht _ ?_) (by simp at h8 ⊢; omega)).2]
      · simp; omega
      · obtain ⟨a, b, c, d, rfl⟩ : ∃ a b c d, w0 = [a, b, c, d] := by
          match w0, hw with
          | [a, b, c, d], _ => exact ⟨a, b, c, d, rfl⟩
        simp only [List.headD_cons]
        split
        · simp
        · split <;> simp

/-- A list of `k` times `n` elements has `n` parts of `k`. -/
theorem parts_all {α : Type} (k : Nat) (hk : 0 < k) : ∀ (n : Nat) (l : List α), l.length = k * n →
    (∀ p ∈ parts k n l, p.length = k) ∧ (parts k n l).length = n
  | 0, _, _ => ⟨by simp [parts], rfl⟩
  | n + 1, l, h => by
    have hl : l.length = k + k * n := by rw [h]; ring
    have hne : l.isEmpty = false := by
      cases l with
      | nil => simp at hl; omega
      | cons a t => rfl
    have ih := parts_all k hk n (l.drop k) (by simp; omega)
    constructor
    · intro p hp
      simp only [parts, hne] at hp
      rcases List.mem_cons.1 hp with rfl | hp
      · simp; omega
      · exact ih.1 p hp
    · simp [parts, hne, ih.2]

/-- AES-256 has 15 round keys of 16 bytes. -/
theorem roundKeys_all (key : List Nat) (h : key.length = 32) :
    (∀ k ∈ roundKeys key, k.length = 16) ∧ (roundKeys key).length = 15 := by
  have h4 := parts_all 4 (by decide) 8 key (by omega)
  have hw := expandKey_words 52 8 1 (parts 4 8 key).reverse (fun w hm => h4.1 w (List.mem_reverse.1 hm)) (by simp [h4.2])
  refine parts_all 16 (by decide) 15 _ ?_
  rw [List.length_flatten]
  have : ((expandKey 52 8 1 (parts 4 8 key).reverse).reverse.map List.length) = List.replicate 60 4 := by
    rw [List.eq_replicate_iff]
    refine ⟨by simp [hw.2, h4.2], ?_⟩
    intro b hb
    obtain ⟨w, hm, rfl⟩ := List.mem_map.1 hb
    exact hw.1 w (List.mem_reverse.1 hm)
  rw [this]
  rfl

theorem encRounds_length : ∀ (ks : List (List Nat)) (s : List Nat), (∀ k ∈ ks, k.length = 16) → ks ≠ [] →
    (encRounds ks s).length = 16
  | [], _, _, h => absurd rfl h
  | [k], s, h, _ => by simp [encRounds, xorList_length, shiftRows, h k (by simp)]
  | k :: k' :: t, s, h, _ => by
    rw [encRounds]
    · exact encRounds_length (k' :: t) _ (fun x hx => h x (by simp [hx])) (by simp)
    · simp

/-- A block of AES-256 has 16 bytes. -/
theorem aesEnc_length (key : Nat) (b : List Nat) : (aesEnc (roundKeys (keyNats 32 key)) b).length = 16 := by
  have h := roundKeys_all (keyNats 32 key) (by simp [keyNats])
  match hk : roundKeys (keyNats 32 key), h with
  | k :: t, h =>
    simp only [aesEnc]
    refine encRounds_length t _ (fun x hx => h.1 x (by simp [hx])) ?_
    rintro rfl
    simp at h

@[simp] theorem gcmTag_length (key iv : Nat) (aad ct : List Byte) : (gcmTag key iv aad ct).length = 16 := by
  simp [gcmTag, xorList_length, beNats, aesEnc_length]

theorem ctrMode_length (key : Nat) (iv : List Nat) : ∀ (n c : Nat) (l : List Nat), l.length ≤ 16 * n →
    (ctrMode (roundKeys (keyNats 32 key)) iv n c l).length = l.length
  | 0, _, l, h => by simp [ctrMode]; omega
  | n + 1, c, l, h => by
    simp only [ctrMode, List.length_append, xorList_length, aesEnc_length, List.length_take]
    rw [ctrMode_length key iv n (c + 1) (l.drop 16) (by simp; omega)]
    simp; omega

@[simp] theorem gcmCipher_length (key iv : Nat) (bs : List Byte) : (gcmCipher key iv bs).length = bs.length := by
  simp only [gcmCipher, bytesOf_length]
  rw [ctrMode_length _ _ _ _ _ (by simp; omega)]
  simp

/-- Exclusive or of bytes is that of their numbers. -/
theorem bytesOf_xorList (a b : List Nat) : bytesOf (xorList a b) = List.zipWith (· ^^^ ·) (bytesOf a) (bytesOf b) := by
  induction a generalizing b with
  | nil => rfl
  | cons x t ih =>
    cases b with
    | nil => rfl
    | cons y u =>
      have := ih u
      simp only [bytesOf, xorList, List.zipWith_cons_cons, List.map_cons] at *
      rw [this]
      congr 1
      exact BitVec.ofNat_xor ..

theorem zipWith_xor_self : ∀ (a b : List Byte), a.length ≤ b.length →
    List.zipWith (· ^^^ ·) (List.zipWith (· ^^^ ·) a b) b = a
  | [], _, _ => rfl
  | _ :: _, [], h => absurd h (by simp)
  | x :: a, y :: b, h => by
    simp only [List.zipWith_cons_cons]
    rw [zipWith_xor_self a b (by simpa using h)]
    congr 1
    rw [BitVec.xor_assoc, BitVec.xor_self, BitVec.xor_zero]

/-- Counter mode undoes itself. -/
theorem ctrMode_twice (key : Nat) (iv : List Nat) : ∀ (n c : Nat) (bs : List Byte), bs.length ≤ 16 * n →
    bytesOf (ctrMode (roundKeys (keyNats 32 key)) iv n c (natsOf (bytesOf
      (ctrMode (roundKeys (keyNats 32 key)) iv n c (natsOf bs))))) = bs
  | 0, _, bs, h => by
    have : bs = [] := by cases bs with | nil => rfl | cons a t => simp at h
    subst this; rfl
  | n + 1, c, bs, h => by
    have ih := ctrMode_twice key iv n (c + 1) (bs.drop 16) (by simp; omega)
    have hk := aesEnc_length key (iv ++ beNats 4 c)
    generalize hK : aesEnc (roundKeys (keyNats 32 key)) (iv ++ beNats 4 c) = K at hk
    have e : natsOf (bs.drop 16) = (natsOf bs).drop 16 := by simp [natsOf]
    rw [e] at ih
    simp only [ctrMode, hK]
    generalize hr : ctrMode (roundKeys (keyNats 32 key)) iv n (c + 1) ((natsOf bs).drop 16) = r at ih
    have hrl : r.length = bs.length - 16 := by
      rw [← hr, ctrMode_length _ _ _ _ _ (by simp; omega)]; simp
    have hx : (xorList ((natsOf bs).take 16) K).length = min 16 bs.length := by simp [xorList_length, hk, min_comm]
    generalize hX : xorList ((natsOf bs).take 16) K = X at hx
    have h1 : (natsOf (bytesOf (X ++ r))).take 16 = natsOf (bytesOf X) := by
      by_cases hb : 16 ≤ bs.length
      · simp only [natsOf, bytesOf, List.map_append]
        rw [List.take_left' (by simp; omega)]
      · have : r = [] := List.length_eq_zero_iff.1 (by omega)
        subst this
        simp only [List.append_nil]
        exact List.take_of_length_le (by simp; omega)
    have h2 : (natsOf (bytesOf (X ++ r))).drop 16 = natsOf (bytesOf r) := by
      by_cases hb : 16 ≤ bs.length
      · simp only [natsOf, bytesOf, List.map_append]
        rw [List.drop_left' (by simp; omega)]
      · have : r = [] := List.length_eq_zero_iff.1 (by omega)
        subst this
        simp only [List.append_nil]
        rw [List.drop_eq_nil_of_le (by simp; omega)]
        rfl
    rw [h1, h2]
    have hb : ∀ a b : List Nat, bytesOf (a ++ b) = bytesOf a ++ bytesOf b := by simp [bytesOf]
    rw [hb, ih, bytesOf_xorList, bytesOf_natsOf, ← hX, bytesOf_xorList, zipWith_xor_self _ _ (by simp [hk])]
    have : bytesOf ((natsOf bs).take 16) = bs.take 16 := by
      rw [show (natsOf bs).take 16 = natsOf (bs.take 16) by simp [natsOf], bytesOf_natsOf]
    rw [this, List.take_append_drop]

/-- Enciphering twice gives the plain text. -/
theorem gcmCipher_twice (key iv : Nat) (bs : List Byte) : gcmCipher key iv (gcmCipher key iv bs) = bs := by
  have h := gcmCipher_length key iv bs
  rw [show gcmCipher key iv (gcmCipher key iv bs) = bytesOf (ctrMode (roundKeys (keyNats 32 key)) (keyNats 12 iv)
    (((gcmCipher key iv bs).length + 15) / 16) 2 (natsOf (gcmCipher key iv bs))) from rfl, h]
  exact ctrMode_twice key (keyNats 12 iv) _ 2 bs (by omega)

/-- What opens is a cipher text with its own tag. -/
theorem gcmOpen_tagged (key iv : Nat) (aad ct : List Byte) :
    gcmOpen key iv aad (ct ++ gcmTag key iv aad ct) = some (gcmCipher key iv ct) := by
  have h : (ct ++ gcmTag key iv aad ct).length - 16 = ct.length := by simp
  simp only [gcmOpen, h, List.take_left', List.drop_left', if_true]

/-- A tag other than the cipher text's own does not open. -/
theorem gcmOpen_wrong (key iv : Nat) (aad ct tag : List Byte) (hl : tag.length = 16) (h : tag ≠ gcmTag key iv aad ct) :
    gcmOpen key iv aad (ct ++ tag) = none := by
  have e : (ct ++ tag).length - 16 = ct.length := by simp [hl]
  simp only [gcmOpen, e, List.take_left', List.drop_left', if_neg h]

@[simp] theorem gcmSeal_length (key iv : Nat) (aad plain : List Byte) :
    (gcmSeal key iv aad plain).length = plain.length + 16 := by simp [gcmSeal]

/-- What is sealed opens to its plain text (17 R553). -/
theorem gcmOpen_gcmSeal (key iv : Nat) (aad plain : List Byte) :
    gcmOpen key iv aad (gcmSeal key iv aad plain) = some plain := by
  rw [gcmSeal, gcmOpen_tagged, gcmCipher_twice]

end Sys2Proof.Machine
end

