-- ==== Sys2Proof/Laws/Flits.lean ====
section
/-! SUPPORT. Flits as bytes: their length, their CRC, and the bytes that they carry. -/
namespace Sys2Proof.Machine
open Sys2Proof

@[simp] theorem sized_length (n : Nat) (l : List Byte) : (sized n l).length = n := by simp [sized]

/-- A list of `n` bytes is its own first `n`. -/
theorem sized_self (l : List Byte) : sized l.length l = l := by simp [sized]

/-- Little-endian bytes read back as the number's low bytes (00 R6). -/
theorem ofLe_leBytes : ∀ n v : Nat, ofLe (leBytes n v) = v % 256 ^ n
  | 0, v => by simp [leBytes, ofLe, Nat.mod_one]
  | n + 1, v => by
    simp only [leBytes, ofLe, ofLe_leBytes n, BitVec.toNat_ofNat]
    rw [show (256 : Nat) ^ (n + 1) = 256 * 256 ^ n by ring, Nat.mod_mul]

/-- A CRC-32 has 32 bits. -/
theorem crc32_lt (bs : List Byte) : crc32 bs < 2 ^ 32 := BitVec.isLt _

/-- A flit has 256 bytes. -/
@[simp] theorem flitBytes_length (l : LinkWord) (rest : List Byte) : (flitBytes l rest).length = 256 := by
  simp [flitBytes]

/-- A flit as it is sent has a good CRC. -/
theorem flitBytes_good (l : LinkWord) (rest : List Byte) : flitGood (flitBytes l rest) = true := by
  have h := ofLe_leBytes 4 (crc32 (leBytes 12 (linkBits l) ++ sized 240 rest))
  rw [Nat.mod_eq_of_lt (show _ < 256 ^ 4 from crc32_lt _)] at h
  have hb : (leBytes 12 (linkBits l) ++ sized 240 rest).length = 252 := by simp
  rw [flitGood, flitBytes, List.take_left' hb, List.drop_left' hb, List.take_of_length_le (by simp), h]
  simp

/-- The 240 bytes after its link word. -/
theorem flitBytes_rest (l : LinkWord) (rest : List Byte) (h : rest.length = 240) :
    ((flitBytes l rest).drop 12).take 240 = rest := by
  simp only [flitBytes, List.append_assoc]
  rw [List.drop_left' (by simp), List.take_left' (by simp), ← h, sized_self]

end Sys2Proof.Machine
end

