-- ==== Sys2Proof/Laws/GcRun.lean ====
section
/-! SUPPORT. How a general core takes an instruction, and what an instruction on its own registers changes. -/
namespace Sys2Proof.Machine
open Sys2Proof

/-- A custom-0 word is an Icxel instruction. -/
theorem gcInstr_custom {s : State} {g len w : Nat} (h : w % 128 = 0x0B) : gcInstr s g len w = gcIcxel s g w := by
  unfold gcInstr
  simp only [h]

/-- An instruction that is no load, store, atomic, custom or system one acts on the core alone. -/
theorem gcInstr_own {s : State} {g len w : Nat} (h : w % 128 ∉ [0x03, 0x07, 0x0B, 0x23, 0x27, 0x2F, 0x73]) :
    gcInstr s g len w = gcSet (draw s).1 g (rvStep s.timeNs (draw s).2 (gcOf s g) len w) := by
  simp only [List.mem_cons, List.mem_nil_iff, or_false, not_or] at h
  unfold gcInstr
  split <;> simp_all

/-- A core at an even address whose 2 parcels are read takes the 32-bit instruction that they hold. -/
theorem gcStep_word {s : State} {g : Nat} {lo hi : List Byte} (h0 : gcActs s g = true) (h1 : (gcOf s g).pc % 2 = 0)
    (h3 : ofLe lo % 4 = 3) (h5 : gcParcel s g (gcOf s g).pc = .done s lo)
    (h6 : gcParcel s g (((gcOf s g).pc + 2) % 2 ^ 64) = .done s hi) :
    gcStep s g = gcInstr s g 4 (ofLe lo + 65536 * ofLe hi) := by
  unfold gcStep
  simp only [h0, h1, h5, gcAfter, gcDecode, h3, h6]
  simp

@[simp] theorem xOf_zero {c : Gc} {r : Nat} {v : W64} : xOf (setX c r v) 0 = 0 := rfl
@[simp] theorem setX_pc (c : Gc) (r : Nat) (v : W64) : (setX c r v).pc = c.pc := by unfold setX; split <;> rfl
@[simp] theorem setX_f (c : Gc) (r : Nat) (v : W64) : (setX c r v).f = c.f := by unfold setX; split <;> rfl
@[simp] theorem setX_v (c : Gc) (r : Nat) (v : W64) : (setX c r v).v = c.v := by unfold setX; split <;> rfl
@[simp] theorem setF_x (c : Gc) (n r v : Nat) : (setF c n r v).x = c.x := rfl
@[simp] theorem setF_pc (c : Gc) (n r v : Nat) : (setF c n r v).pc = c.pc := rfl
@[simp] theorem accrue_x (c : Gc) (fl : Nat) : (accrue c fl).x = c.x := rfl
@[simp] theorem accrue_pc (c : Gc) (fl : Nat) : (accrue c fl).pc = c.pc := rfl
@[simp] theorem pass_x (c : Gc) (len : Nat) : (pass c len).x = c.x := rfl
@[simp] theorem pass_pc (c : Gc) (len : Nat) : (pass c len).pc = (c.pc + len) % 2 ^ 64 := rfl
@[simp] theorem goTo_x (c : Gc) (a : W64) : (goTo c a).x = c.x := rfl
@[simp] theorem goTo_pc (c : Gc) (a : W64) : (goTo c a).pc = a.toNat := rfl

end Sys2Proof.Machine
end

