-- ==== Sys2Proof/Laws/Memory.lean ====
section
/-! SUPPORT. Laws of memory: a read after a write, and the canonical form, which every operation keeps. -/
namespace Sys2Proof.Machine
open Sys2Proof

/-- A lower bound may be lowered. -/
theorem memAbove_mono {lo lo' : Nat} {m : Memory} (h : lo' ≤ lo) (w : memAbove lo m = true) :
    memAbove lo' m = true := by
  cases m with
  | nil => rfl
  | cons e t =>
    obtain ⟨a, b⟩ := e
    simp only [memAbove, Bool.and_eq_true, decide_eq_true_eq] at w ⊢
    exact ⟨⟨by omega, w.1.2⟩, w.2⟩

/-- An address below every entry reads 0. -/
theorem memGet_below {lo k : Nat} {m : Memory} (w : memAbove lo m = true) (h : k < lo) : memGet m k = 0 := by
  induction m generalizing lo with
  | nil => rfl
  | cons e t ih =>
    obtain ⟨a, b⟩ := e
    simp only [memAbove, Bool.and_eq_true, decide_eq_true_eq] at w
    simp only [memGet]
    rw [if_neg (by omega)]
    exact ih w.2 (by omega)

/-- A filter keeps a lower bound. -/
theorem memAbove_filter {lo : Nat} {m : Memory} (p : Nat × Byte → Bool) (w : memAbove lo m = true) :
    memAbove lo (m.filter p) = true := by
  induction m generalizing lo with
  | nil => rfl
  | cons e t ih =>
    obtain ⟨a, b⟩ := e
    simp only [memAbove, Bool.and_eq_true, decide_eq_true_eq] at w
    simp only [List.filter_cons]
    split
    · simp only [memAbove, Bool.and_eq_true, decide_eq_true_eq]
      exact ⟨w.1, ih w.2⟩
    · exact memAbove_mono (by omega) (ih w.2)

/-- An entry put into a memory that has none at its address keeps a lower bound at or below the address. -/
theorem memAbove_memInsert {lo k : Nat} {v : Byte} {m : Memory} (w : memAbove lo m = true) (h : lo ≤ k)
    (hv : v ≠ 0) (hn : ∀ e ∈ m, e.1 ≠ k) : memAbove lo (memInsert k v m) = true := by
  induction m generalizing lo with
  | nil =>
    simp only [memInsert, memAbove, Bool.and_eq_true, decide_eq_true_eq, and_true]
    exact ⟨h, by simpa using hv⟩
  | cons e t ih =>
    obtain ⟨a, b⟩ := e
    simp only [memAbove, Bool.and_eq_true, decide_eq_true_eq] at w
    have ha : a ≠ k := hn (a, b) (by simp)
    simp only [memInsert]
    split
    · simp only [memAbove, Bool.and_eq_true, decide_eq_true_eq]
      exact ⟨⟨h, by simpa using hv⟩, ⟨by omega, w.1.2⟩, w.2⟩
    · simp only [memAbove, Bool.and_eq_true, decide_eq_true_eq]
      exact ⟨w.1, ih w.2 (by omega) (fun e he => hn e (by simp [he]))⟩

/-- A write keeps a lower bound that lies at or below its address. -/
theorem memAbove_memSet {lo k : Nat} {v : Byte} {m : Memory} (w : memAbove lo m = true) (h : lo ≤ k) :
    memAbove lo (memSet m k v) = true := by
  unfold memSet
  split
  · exact memAbove_filter _ w
  · rename_i hv
    exact memAbove_memInsert (memAbove_filter _ w) h hv (fun e he => by simpa using (List.mem_filter.mp he).2)

/-- A read of a memory without its entries at an address. -/
theorem memGet_without (m : Memory) (k j : Nat) :
    memGet (m.filter (fun e => e.1 != k)) j = if j = k then 0 else memGet m j := by
  induction m with
  | nil => simp [memGet]
  | cons e t ih =>
    obtain ⟨a, b⟩ := e
    by_cases ha : a = k
    · subst ha
      simp only [List.filter_cons, bne_self_eq_false, Bool.false_eq_true, ↓reduceIte, ih, memGet]
      by_cases hj : j = a
      · simp [hj]
      · simp [hj, Ne.symm hj]
    · have hb : (a != k) = true := by simpa using ha
      simp only [List.filter_cons, hb, ↓reduceIte, memGet, ih]
      by_cases hj : a = j
      · subst hj; simp [ha]
      · simp [hj]

/-- A read of a memory with an entry put in, where no entry was. -/
theorem memGet_memInsert {m : Memory} (k : Nat) (v : Byte) (j : Nat) (hn : ∀ e ∈ m, e.1 ≠ k) :
    memGet (memInsert k v m) j = if j = k then v else memGet m j := by
  induction m with
  | nil => simp [memInsert, memGet, eq_comm]
  | cons e t ih =>
    obtain ⟨a, b⟩ := e
    have ha : a ≠ k := hn (a, b) (by simp)
    have ih' := ih (fun e he => hn e (by simp [he]))
    simp only [memInsert]
    split
    · by_cases hj : j = k
      · subst hj; simp [memGet]
      · simp [memGet, hj, Ne.symm hj]
    · simp only [memGet, ih']
      by_cases hj : a = j
      · subst hj; simp [ha]
      · simp [hj]

/-- A read after a write. -/
theorem memGet_memSet (m : Memory) (k : Nat) (v : Byte) (j : Nat) :
    memGet (memSet m k v) j = if j = k then v else memGet m j := by
  unfold memSet
  split
  · rename_i hv
    rw [memGet_without, hv]
  · rw [memGet_memInsert _ _ _ (fun e he => by simpa using (List.mem_filter.mp he).2), memGet_without]
    split <;> rfl

/-- A write keeps the canonical form. -/
theorem wf_memSet {m : Memory} (w : Memory.wf m = true) (k : Nat) (v : Byte) : Memory.wf (memSet m k v) = true :=
  memAbove_memSet w (Nat.zero_le k)

/-- A write of consecutive bytes keeps the canonical form. -/
theorem wf_memWrite {m : Memory} (w : Memory.wf m = true) (k : Nat) (l : List Byte) :
    Memory.wf (memWrite m k l) = true := by
  induction l generalizing m k with
  | nil => exact w
  | cons b t ih => exact ih (wf_memSet w k b) (k + 1)

/-- A read after a write of consecutive bytes. -/
theorem memGet_memWrite (m : Memory) (k : Nat) (l : List Byte) (j : Nat) :
    memGet (memWrite m k l) j = if k ≤ j ∧ j < k + l.length then l[j - k]?.getD 0 else memGet m j := by
  induction l generalizing m k with
  | nil => rw [if_neg (by simp only [List.length_nil]; omega)]; rfl
  | cons b t ih =>
    simp only [memWrite]
    rw [ih (memSet m k b) (k + 1), memGet_memSet]
    by_cases h : j = k
    · subst h; simp
    · by_cases h2 : k + 1 ≤ j ∧ j < k + 1 + t.length
      · have : k ≤ j ∧ j < k + (b :: t).length := by simp; omega
        rw [if_pos h2, if_pos this]
        have e : j - k = (j - (k + 1)) + 1 := by omega
        rw [e, List.getElem?_cons_succ]
      · have : ¬(k ≤ j ∧ j < k + (b :: t).length) := by simp; omega
        rw [if_neg h2, if_neg this, if_neg h]

/-- A write of listed bytes keeps the canonical form. -/
theorem wf_memPut {m : Memory} (w : Memory.wf m = true) (l : List (Nat × Byte)) : Memory.wf (memPut m l) = true := by
  induction l generalizing m with
  | nil => exact w
  | cons e t ih => exact ih (wf_memSet w e.1 e.2)

/-- A write of listed bytes leaves every address that is not listed. -/
theorem memGet_memPut_other (m : Memory) (l : List (Nat × Byte)) (j : Nat)
    (h : ∀ e ∈ l, e.1 ≠ j) : memGet (memPut m l) j = memGet m j := by
  induction l generalizing m with
  | nil => rfl
  | cons e t ih =>
    have he := h e (by simp)
    have := ih (memSet m e.1 e.2) (fun x hx => h x (by simp [hx]))
    simp only [memPut, List.foldl_cons] at this ⊢
    rw [this, memGet_memSet, if_neg (Ne.symm he)]

/-- Zeroising keeps the canonical form. -/
theorem wf_memZero {m : Memory} (w : Memory.wf m = true) (lo hi : Nat) : Memory.wf (memZero m lo hi) = true :=
  memAbove_filter _ w

/-- A filter keeps the canonical form. -/
theorem wf_filter {m : Memory} (w : Memory.wf m = true) (p : Nat × Byte → Bool) : Memory.wf (m.filter p) = true :=
  memAbove_filter p w

/-- Writes of consecutive bytes, one after another, keep the canonical form. -/
theorem wf_foldl_memWrite {α : Type} {m : Memory} (w : Memory.wf m = true) (l : List α) (f : α → Nat)
    (g : α → List Byte) : Memory.wf (l.foldl (fun m e => memWrite m (f e) (g e)) m) = true := by
  induction l generalizing m with
  | nil => exact w
  | cons e t ih => exact ih (wf_memWrite w _ _)

/-- A read after zeroising. -/
theorem memGet_memZero (m : Memory) (lo hi j : Nat) :
    memGet (memZero m lo hi) j = if lo ≤ j ∧ j < hi then 0 else memGet m j := by
  induction m with
  | nil => simp [memZero, memGet]
  | cons e t ih =>
    obtain ⟨a, b⟩ := e
    simp only [memZero] at ih
    by_cases ha : a < lo ∨ hi ≤ a
    · have hb : (decide (a < lo) || decide (hi ≤ a)) = true := by simpa using ha
      simp only [memZero, List.filter_cons, hb, ↓reduceIte, memGet, ih]
      by_cases hj : a = j
      · subst hj
        rw [if_pos rfl, if_neg (by omega), if_pos rfl]
      · simp [hj]
    · have hb : (decide (a < lo) || decide (hi ≤ a)) = false := by simpa using ha
      simp only [memZero, List.filter_cons, hb, Bool.false_eq_true, ↓reduceIte, memGet, ih]
      by_cases hj : a = j
      · subst hj
        rw [if_pos (by omega), if_pos (by omega)]
      · simp [hj]

end Sys2Proof.Machine
end

