-- ==== Sys2Proof/Laws/Kept.lean ====
section
/-! SUPPORT. What every command keeps: the queue, the canonical form of both memories, a legal job state, and that
no draw of a free value is used twice. `Kept s t` says so of a state `t` that follows `s`; each operation keeps it. -/
namespace Sys2Proof.Machine
open Sys2Proof

/-- State `t` has the queue of `s`, its draws are those of `s` or later ones, its memories are in canonical form
where those of `s` are, and its job state is legal where that of `s` is. -/
structure Kept (s t : State) : Prop where
  pending : t.pending = s.pending
  draws : s.freeCtr ≤ t.freeCtr
  mem : Memory.wf s.mem = true → Memory.wf t.mem = true
  hostMem : Memory.wf s.hostMem = true → Memory.wf t.hostMem = true
  jobState : s.jobState ≤ 4 → t.jobState ≤ 4

/-- An outcome that goes on in a state that keeps what `Kept` says. -/
def KeptOut (s : State) (o : Out) : Prop := ∃ t, o = .next t ∧ Kept s t

theorem Kept.refl (s : State) : Kept s s := ⟨rfl, Nat.le_refl _, id, id, id⟩

theorem Kept.trans {s t u : State} (h : Kept s t) (k : Kept t u) : Kept s u :=
  ⟨k.pending.trans h.pending, h.draws.trans k.draws, fun w => k.mem (h.mem w), fun w => k.hostMem (h.hostMem w),
    fun w => k.jobState (h.jobState w)⟩

/-- A state that differs in other parts only. -/
theorem kept_mk {a s : State}
    {u2 u41 u46 u54 u56 u59 u66 u67 u68 : Nat} {u4 : Option (List Byte)} {u5 : List Ev} {u6 : Table W64}
    {u8 : Table CwErr} {u9 u30 u32 u51 u64 u78 u79 u82 : Table Bool} {u10 u12 u14 u29 u31 u35 u36 u37
    u38 u50 : Table Nat} {u11 : List (Nat × Option (List Byte))} {u13 : Table Dram} {u15 : Table Station} {u16 :
    Table Arr} {u17 : Table Cluster} {u18 u19 u20 u21 u26 u27 : Table W32} {u22 : List Add} {u23 : List
    (Waiter × Ctr)} {u24 : List (Waiter × Ctr × W32)} {u25 : List (Waiter × W32)} {u28 : List (Nat ×
    W32)} {u33 : Table Engine} {u34 : Table Win} {u39 : Dump} {u40 : Option Image} {u42 : FaultStop}
    {u43 u83 : Bool} {u44 : List Test} {u45 u80 u81 : Table (List Nat)} {u47 : Table HPort} {u48 : List
    (Nat × Msg)} {u49 : List (Nat × List HurMsg)} {u52 : Table Ofl} {u53 : Keys} {u55 : Table (List
    Chunk)} {u58 : Table Qp} {u60 : EvtRing} {u61 : List Post} {u62 : List Nat} {u63 : Table Msix} {u65
    : List (Nat × Nat)} {u69 : Table Gw} {u70 : Table Group} {u71 : Coord} {u72 : Option Snap} {u73 :
    RunCtl} {u74 : Power} {u75 : Ctl} {u76 : Vault} {u77 : Mgt} {u84 : Option Nat} {u85 : Option (Nat ×
    Nat × Nat × Nat)} {u86 : Table (Nat × Nat)} {u87 : Table Nat} {u88 : List HeldCopy}
    (h : Kept a s) :
    Kept a (State.mk s.pending s.freeCtr u2 s.hostMem u4 u5 u6 s.mem u8 u9 u10 u11 u12 u13 u14 u15 u16 u17 u18 u19 u20
      u21 u22 u23 u24 u25 u26 u27 u28 u29 u30 u31 u32 u33 u34 u35 u36 u37 u38 u39 u40 u41 u42 u43 u44 u45
      u46 u47 u48 u49 u50 u51 u52 u53 u54 u55 u56 s.jobState u58 u59 u60 u61 u62 u63 u64 u65 u66 u67 u68
      u69 u70 u71 u72 u73 u74 u75 u76 u77 u78 u79 u80 u81 u82 u83 u84 u85 u86 u87 u88) :=
  ⟨h.pending, h.draws, h.mem, h.hostMem, h.jobState⟩

/-- A state whose tracked parts each keep what they must. -/
theorem kept_parts {a s t : State} (h : Kept a s) (p : t.pending = s.pending) (d : s.freeCtr ≤ t.freeCtr)
    (m : Memory.wf s.mem = true → Memory.wf t.mem = true)
    (n : Memory.wf s.hostMem = true → Memory.wf t.hostMem = true)
    (j : s.jobState ≤ 4 → t.jobState ≤ 4) : Kept a t := h.trans ⟨p, d, m, n, j⟩

/-- A state whose draws, memories and job state change as they may. -/
theorem kept_all {a s : State} {d j : Nat} {m n : Memory}
    {u2 u41 u46 u54 u56 u59 u66 u67 u68 : Nat} {u4 : Option (List Byte)} {u5 : List Ev} {u6 : Table W64}
    {u8 : Table CwErr} {u9 u30 u32 u51 u64 u78 u79 u82 : Table Bool} {u10 u12 u14 u29 u31 u35 u36 u37
    u38 u50 : Table Nat} {u11 : List (Nat × Option (List Byte))} {u13 : Table Dram} {u15 : Table Station} {u16 :
    Table Arr} {u17 : Table Cluster} {u18 u19 u20 u21 u26 u27 : Table W32} {u22 : List Add} {u23 : List
    (Waiter × Ctr)} {u24 : List (Waiter × Ctr × W32)} {u25 : List (Waiter × W32)} {u28 : List (Nat ×
    W32)} {u33 : Table Engine} {u34 : Table Win} {u39 : Dump} {u40 : Option Image} {u42 : FaultStop}
    {u43 u83 : Bool} {u44 : List Test} {u45 u80 u81 : Table (List Nat)} {u47 : Table HPort} {u48 : List
    (Nat × Msg)} {u49 : List (Nat × List HurMsg)} {u52 : Table Ofl} {u53 : Keys} {u55 : Table (List
    Chunk)} {u58 : Table Qp} {u60 : EvtRing} {u61 : List Post} {u62 : List Nat} {u63 : Table Msix} {u65
    : List (Nat × Nat)} {u69 : Table Gw} {u70 : Table Group} {u71 : Coord} {u72 : Option Snap} {u73 :
    RunCtl} {u74 : Power} {u75 : Ctl} {u76 : Vault} {u77 : Mgt} {u84 : Option Nat} {u85 : Option (Nat ×
    Nat × Nat × Nat)} {u86 : Table (Nat × Nat)} {u87 : Table Nat} {u88 : List HeldCopy}
    (h : Kept a s) (hd : s.freeCtr ≤ d)
    (hm : Memory.wf s.mem = true → Memory.wf m = true) (hn : Memory.wf s.hostMem = true → Memory.wf n = true)
    (hj : s.jobState ≤ 4 → j ≤ 4) :
    Kept a (State.mk s.pending d u2 n u4 u5 u6 m u8 u9 u10 u11 u12 u13 u14 u15 u16 u17 u18 u19 u20
      u21 u22 u23 u24 u25 u26 u27 u28 u29 u30 u31 u32 u33 u34 u35 u36 u37 u38 u39 u40 u41 u42 u43 u44 u45
      u46 u47 u48 u49 u50 u51 u52 u53 u54 u55 u56 j u58 u59 u60 u61 u62 u63 u64 u65 u66 u67 u68
      u69 u70 u71 u72 u73 u74 u75 u76 u77 u78 u79 u80 u81 u82 u83 u84 u85 u86 u87 u88) :=
  h.trans ⟨rfl, hd, hm, hn, hj⟩

theorem kept_next {a s : State} (h : Kept a s) : KeptOut a (.next s) := ⟨s, rfl, h⟩

theorem kept_ite {a s t : State} {c : Prop} [Decidable c] (h : Kept a s) (k : Kept a t) :
    Kept a (if c then s else t) := by
  split
  · exact h
  · exact k

theorem keptOut_ite {a : State} {o u : Out} {c : Prop} [Decidable c] (h : KeptOut a o) (k : KeptOut a u) :
    KeptOut a (if c then o else u) := by
  split
  · exact h
  · exact k

theorem kept_cut {a x : State} {P : Prop} (h : Kept a x) (k : Kept a x → P) : P := k h

theorem kept_foldl {α : Type} {a : State} {f : State → α → State} {l : List α} {s : State}
    (k : ∀ t x, Kept a t → Kept a (f t x)) (h : Kept a s) : Kept a (l.foldl f s) := by
  induction l generalizing s with
  | nil => exact h
  | cons x t ih => exact ih (k s x h)

theorem kept_foldl_pair {α β : Type} {a : State} {f : State × β → α → State × β} {l : List α} {s : State × β}
    (k : ∀ t x, Kept a t.1 → Kept a (f t x).1) (h : Kept a s.1) : Kept a (l.foldl f s).1 := by
  induction l generalizing s with
  | nil => exact h
  | cons x t ih => exact ih (k s x h)

theorem kept_foldr {α : Type} {a : State} {f : α → State → State} {l : List α} {s : State}
    (k : ∀ t x, Kept a t → Kept a (f x t)) (h : Kept a s) : Kept a (l.foldr f s) := by
  induction l with
  | nil => exact h
  | cons x t ih => exact k _ x ih

end Sys2Proof.Machine
end

