-- ==== Sys2Proof/Laws/KeptOps.lean ====
section
/-! SUPPORT. What the operations on parts, events, errors, memory, counters and messages keep (see Kept). -/
namespace Sys2Proof.Machine
open Sys2Proof
set_option linter.unreachableTactic false
set_option linter.unusedTactic false
set_option linter.unusedVariables false

theorem updStn_kept {s0 : State} {s : State} {n : Nat} {f : Station → Station} (hk : Kept s0 s) :
    Kept s0 (updStn s n f) := by
  unfold updStn
  repeat' first
    | with_reducible assumption
    | fail_if_no_progress (with_reducible refine kept_mk ?_)
    | fail_if_no_progress (with_reducible refine kept_all ?_ (by omega) (by first | exact id | exact fun w => wf_filter w _ | exact fun w => wf_foldl_memWrite w _ _ _) (by exact id) (by omega))
    | with_reducible refine kept_next ?_
    | dsimp only

theorem updArr_kept {s0 : State} {s : State} {n a : Nat} {f : Arr → Arr} (hk : Kept s0 s) :
    Kept s0 (updArr s n a f) := by
  unfold updArr
  repeat' first
    | with_reducible assumption
    | fail_if_no_progress (with_reducible refine kept_mk ?_)
    | fail_if_no_progress (with_reducible refine kept_all ?_ (by omega) (by first | exact id | exact fun w => wf_filter w _ | exact fun w => wf_foldl_memWrite w _ _ _) (by exact id) (by omega))
    | with_reducible refine kept_next ?_
    | dsimp only

theorem updClu_kept {s0 : State} {s : State} {g : Nat} {f : Cluster → Cluster} (hk : Kept s0 s) :
    Kept s0 (updClu s g f) := by
  unfold updClu
  repeat' first
    | with_reducible assumption
    | fail_if_no_progress (with_reducible refine kept_mk ?_)
    | fail_if_no_progress (with_reducible refine kept_all ?_ (by omega) (by first | exact id | exact fun w => wf_filter w _ | exact fun w => wf_foldl_memWrite w _ _ _) (by exact id) (by omega))
    | with_reducible refine kept_next ?_
    | dsimp only

theorem updGc_kept {s0 : State} {s : State} {g : Nat} {f : Gc → Gc} (hk : Kept s0 s) :
    Kept s0 (updGc s g f) := by
  unfold updGc
  repeat' first
    | with_reducible assumption
    | fail_if_no_progress (with_reducible refine kept_mk ?_)
    | fail_if_no_progress (with_reducible refine kept_all ?_ (by omega) (by first | exact id | exact fun w => wf_filter w _ | exact fun w => wf_foldl_memWrite w _ _ _) (by exact id) (by omega))
    | with_reducible refine kept_next ?_
    | with_reducible refine updClu_kept ?_
    | dsimp only

theorem updEng_kept {s0 : State} {s : State} {g e : Nat} {f : Engine → Engine} (hk : Kept s0 s) :
    Kept s0 (updEng s g e f) := by
  unfold updEng
  repeat' first
    | with_reducible assumption
    | fail_if_no_progress (with_reducible refine kept_mk ?_)
    | fail_if_no_progress (with_reducible refine kept_all ?_ (by omega) (by first | exact id | exact fun w => wf_filter w _ | exact fun w => wf_foldl_memWrite w _ _ _) (by exact id) (by omega))
    | with_reducible refine kept_next ?_
    | dsimp only

theorem setReg_kept {s0 : State} {s : State} {k v : Nat} (hk : Kept s0 s) :
    Kept s0 (setReg s k v) := by
  unfold setReg
  repeat' first
    | with_reducible assumption
    | fail_if_no_progress (with_reducible refine kept_mk ?_)
    | fail_if_no_progress (with_reducible refine kept_all ?_ (by omega) (by first | exact id | exact fun w => wf_filter w _ | exact fun w => wf_foldl_memWrite w _ _ _) (by exact id) (by omega))
    | with_reducible refine kept_next ?_
    | dsimp only

theorem bump_kept {s0 : State} {s : State} {k lo w n : Nat} (hk : Kept s0 s) :
    Kept s0 (bump s k lo w n) := by
  unfold bump
  repeat' first
    | with_reducible assumption
    | fail_if_no_progress (with_reducible refine kept_mk ?_)
    | fail_if_no_progress (with_reducible refine kept_all ?_ (by omega) (by first | exact id | exact fun w => wf_filter w _ | exact fun w => wf_foldl_memWrite w _ _ _) (by exact id) (by omega))
    | with_reducible refine kept_next ?_
    | with_reducible refine setReg_kept ?_
    | (extract_lets +onlyGivenNames x; (first | (refine kept_cut (a := s0) (x := x) ?_ ?_; (on_goal 1 => unfold x); (on_goal 2 => intro hx; clear_value x)) | (refine kept_cut (a := s0) (x := x.1) ?_ ?_; (on_goal 1 => unfold x); (on_goal 2 => intro hx; clear_value x)) | clear_value x))
    | dsimp only

theorem latch_kept {s0 : State} {s : State} {k top bit : Nat} {first : List (Nat × Nat × Nat)} (hk : Kept s0 s) :
    Kept s0 (latch s k top bit first) := by
  unfold latch
  repeat' first
    | with_reducible assumption
    | fail_if_no_progress (with_reducible refine kept_mk ?_)
    | fail_if_no_progress (with_reducible refine kept_all ?_ (by omega) (by first | exact id | exact fun w => wf_filter w _ | exact fun w => wf_foldl_memWrite w _ _ _) (by exact id) (by omega))
    | with_reducible refine kept_next ?_
    | with_reducible refine setReg_kept ?_
    | (extract_lets +onlyGivenNames x; (first | (refine kept_cut (a := s0) (x := x) ?_ ?_; (on_goal 1 => unfold x); (on_goal 2 => intro hx; clear_value x)) | (refine kept_cut (a := s0) (x := x.1) ?_ ?_; (on_goal 1 => unfold x); (on_goal 2 => intro hx; clear_value x)) | clear_value x))
    | with_reducible refine kept_ite ?_ ?_
    | with_reducible refine keptOut_ite ?_ ?_
    | split
    | dsimp only

theorem raise_kept {s0 : State} {s : State} {code die unit : Nat} {detail : Option Nat} (hk : Kept s0 s) :
    Kept s0 (raise s code die unit detail) := by
  unfold raise
  repeat' first
    | with_reducible assumption
    | fail_if_no_progress (with_reducible refine kept_mk ?_)
    | fail_if_no_progress (with_reducible refine kept_all ?_ (by omega) (by first | exact id | exact fun w => wf_filter w _ | exact fun w => wf_foldl_memWrite w _ _ _) (by exact id) (by omega))
    | with_reducible refine kept_next ?_
    | dsimp only

theorem draw_kept {s0 : State} {s : State} (h : Kept s0 s) : Kept s0 (draw s).1 :=
  kept_parts h rfl (Nat.le_succ _) id id id

theorem schedule_kept {s0 : State} {s : State} {n after : Nat} {scalar : Bool} {e : Eff} (hk : Kept s0 s) :
    Kept s0 (schedule s n after scalar e) := by
  unfold schedule
  repeat' first
    | with_reducible assumption
    | fail_if_no_progress (with_reducible refine kept_mk ?_)
    | fail_if_no_progress (with_reducible refine kept_all ?_ (by omega) (by first | exact id | exact fun w => wf_filter w _ | exact fun w => wf_foldl_memWrite w _ _ _) (by exact id) (by omega))
    | with_reducible refine kept_next ?_
    | with_reducible refine updClu_kept ?_
    | dsimp only

theorem fsFailAt_kept {s0 : State} {s : State} {n pc bit : Nat} (hk : Kept s0 s) :
    Kept s0 (fsFailAt s n pc bit) := by
  unfold fsFailAt
  repeat' first
    | with_reducible assumption
    | fail_if_no_progress (with_reducible refine kept_mk ?_)
    | fail_if_no_progress (with_reducible refine kept_all ?_ (by omega) (by first | exact id | exact fun w => wf_filter w _ | exact fun w => wf_foldl_memWrite w _ _ _) (by exact id) (by omega))
    | with_reducible refine kept_next ?_
    | with_reducible refine setReg_kept ?_
    | with_reducible refine latch_kept ?_
    | with_reducible refine bump_kept ?_
    | (extract_lets +onlyGivenNames x; (first | (refine kept_cut (a := s0) (x := x) ?_ ?_; (on_goal 1 => unfold x); (on_goal 2 => intro hx; clear_value x)) | (refine kept_cut (a := s0) (x := x.1) ?_ ?_; (on_goal 1 => unfold x); (on_goal 2 => intro hx; clear_value x)) | clear_value x))
    | with_reducible refine kept_ite ?_ ?_
    | with_reducible refine keptOut_ite ?_ ?_
    | split
    | dsimp only

theorem fsFail_kept {s0 : State} {s : State} {n bit : Nat} (hk : Kept s0 s) :
    Kept s0 (fsFail s n bit) := by
  unfold fsFail
  repeat' first
    | with_reducible assumption
    | fail_if_no_progress (with_reducible refine kept_mk ?_)
    | fail_if_no_progress (with_reducible refine kept_all ?_ (by omega) (by first | exact id | exact fun w => wf_filter w _ | exact fun w => wf_foldl_memWrite w _ _ _) (by exact id) (by omega))
    | with_reducible refine kept_next ?_
    | with_reducible refine fsFailAt_kept ?_
    | dsimp only

theorem fsIf_kept {s0 : State} {s : State} {c : Bool} {n bit : Nat} (hk : Kept s0 s) :
    Kept s0 (fsIf s c n bit) := by
  unfold fsIf
  repeat' first
    | with_reducible assumption
    | fail_if_no_progress (with_reducible refine kept_mk ?_)
    | fail_if_no_progress (with_reducible refine kept_all ?_ (by omega) (by first | exact id | exact fun w => wf_filter w _ | exact fun w => wf_foldl_memWrite w _ _ _) (by exact id) (by omega))
    | with_reducible refine kept_next ?_
    | with_reducible refine fsFail_kept ?_
    | with_reducible refine kept_ite ?_ ?_
    | with_reducible refine keptOut_ite ?_ ?_
    | split
    | dsimp only

theorem wantStop_kept {s0 : State} {s : State} {event : Nat} (hk : Kept s0 s) :
    Kept s0 (wantStop s event) := by
  unfold wantStop
  repeat' first
    | with_reducible assumption
    | fail_if_no_progress (with_reducible refine kept_mk ?_)
    | fail_if_no_progress (with_reducible refine kept_all ?_ (by omega) (by first | exact id | exact fun w => wf_filter w _ | exact fun w => wf_foldl_memWrite w _ _ _) (by exact id) (by omega))
    | with_reducible refine kept_next ?_
    | with_reducible refine kept_ite ?_ ?_
    | with_reducible refine keptOut_ite ?_ ?_
    | split
    | dsimp only

theorem errHalt_kept {s0 : State} {s : State} {n event : Nat} (hk : Kept s0 s) :
    Kept s0 (errHalt s n event) := by
  unfold errHalt
  repeat' first
    | with_reducible assumption
    | fail_if_no_progress (with_reducible refine kept_mk ?_)
    | fail_if_no_progress (with_reducible refine kept_all ?_ (by omega) (by first | exact id | exact fun w => wf_filter w _ | exact fun w => wf_foldl_memWrite w _ _ _) (by exact id) (by omega))
    | with_reducible refine kept_next ?_
    | with_reducible refine wantStop_kept ?_
    | with_reducible refine updStn_kept ?_
    | dsimp only

theorem requestTest_kept {s0 : State} {s : State} {kind index event : Nat} (hk : Kept s0 s) :
    Kept s0 (requestTest s kind index event) := by
  unfold requestTest
  repeat' first
    | with_reducible assumption
    | fail_if_no_progress (with_reducible refine kept_mk ?_)
    | fail_if_no_progress (with_reducible refine kept_all ?_ (by omega) (by first | exact id | exact fun w => wf_filter w _ | exact fun w => wf_foldl_memWrite w _ _ _) (by exact id) (by omega))
    | with_reducible refine kept_next ?_
    | with_reducible refine raise_kept ?_
    | with_reducible refine latch_kept ?_
    | with_reducible refine kept_ite ?_ ?_
    | with_reducible refine keptOut_ite ?_ ?_
    | split
    | dsimp only

theorem countNonFin_kept {s0 : State} {s : State} {group : Option Nat} {n : Nat} (hk : Kept s0 s) :
    Kept s0 (countNonFin s group n) := by
  unfold countNonFin
  repeat' first
    | with_reducible assumption
    | fail_if_no_progress (with_reducible refine kept_mk ?_)
    | fail_if_no_progress (with_reducible refine kept_all ?_ (by omega) (by first | exact id | exact fun w => wf_filter w _ | exact fun w => wf_foldl_memWrite w _ _ _) (by exact id) (by omega))
    | with_reducible refine kept_next ?_
    | with_reducible refine kept_ite ?_ ?_
    | with_reducible refine keptOut_ite ?_ ?_
    | split
    | dsimp only

theorem addTok_kept {s0 : State} {s : State} {g n : Nat} (hk : Kept s0 s) :
    Kept s0 (addTok s g n) := by
  unfold addTok
  repeat' first
    | with_reducible assumption
    | fail_if_no_progress (with_reducible refine kept_mk ?_)
    | fail_if_no_progress (with_reducible refine kept_all ?_ (by omega) (by first | exact id | exact fun w => wf_filter w _ | exact fun w => wf_foldl_memWrite w _ _ _) (by exact id) (by omega))
    | with_reducible refine kept_next ?_
    | with_reducible refine updClu_kept ?_
    | with_reducible refine setReg_kept ?_
    | (extract_lets +onlyGivenNames x; (first | (refine kept_cut (a := s0) (x := x) ?_ ?_; (on_goal 1 => unfold x); (on_goal 2 => intro hx; clear_value x)) | (refine kept_cut (a := s0) (x := x.1) ?_ ?_; (on_goal 1 => unfold x); (on_goal 2 => intro hx; clear_value x)) | clear_value x))
    | dsimp only

theorem rate_kept {s0 : State} {s : State} {key limit ns : Nat} (hk : Kept s0 s) :
    Kept s0 (rate s key limit ns).1 := by
  unfold rate
  repeat' first
    | with_reducible assumption
    | fail_if_no_progress (with_reducible refine kept_mk ?_)
    | fail_if_no_progress (with_reducible refine kept_all ?_ (by omega) (by first | exact id | exact fun w => wf_filter w _ | exact fun w => wf_foldl_memWrite w _ _ _) (by exact id) (by omega))
    | with_reducible refine kept_next ?_
    | (extract_lets +onlyGivenNames x; (first | (refine kept_cut (a := s0) (x := x) ?_ ?_; (on_goal 1 => unfold x); (on_goal 2 => intro hx; clear_value x)) | (refine kept_cut (a := s0) (x := x.1) ?_ ?_; (on_goal 1 => unfold x); (on_goal 2 => intro hx; clear_value x)) | clear_value x))
    | with_reducible refine kept_ite ?_ ?_
    | with_reducible refine keptOut_ite ?_ ?_
    | split
    | dsimp only

theorem retarget_kept {s0 : State} {s : State} {g : Nat} (hk : Kept s0 s) :
    Kept s0 (retarget s g) := by
  unfold retarget
  repeat' first
    | with_reducible assumption
    | fail_if_no_progress (with_reducible refine kept_mk ?_)
    | fail_if_no_progress (with_reducible refine kept_all ?_ (by omega) (by first | exact id | exact fun w => wf_filter w _ | exact fun w => wf_foldl_memWrite w _ _ _) (by exact id) (by omega))
    | with_reducible refine kept_next ?_
    | with_reducible refine updClu_kept ?_
    | (extract_lets +onlyGivenNames x; (first | (refine kept_cut (a := s0) (x := x) ?_ ?_; (on_goal 1 => unfold x); (on_goal 2 => intro hx; clear_value x)) | (refine kept_cut (a := s0) (x := x.1) ?_ ?_; (on_goal 1 => unfold x); (on_goal 2 => intro hx; clear_value x)) | clear_value x))
    | dsimp only

theorem memErr_kept {s0 : State} {s : State} {a bit : Nat} (hk : Kept s0 s) :
    Kept s0 (memErr s a bit) := by
  unfold memErr
  repeat' first
    | with_reducible assumption
    | fail_if_no_progress (with_reducible refine kept_mk ?_)
    | fail_if_no_progress (with_reducible refine kept_all ?_ (by omega) (by first | exact id | exact fun w => wf_filter w _ | exact fun w => wf_foldl_memWrite w _ _ _) (by exact id) (by omega))
    | with_reducible refine kept_next ?_
    | with_reducible refine latch_kept ?_
    | with_reducible refine setReg_kept ?_
    | (extract_lets +onlyGivenNames x; (first | (refine kept_cut (a := s0) (x := x) ?_ ?_; (on_goal 1 => unfold x); (on_goal 2 => intro hx; clear_value x)) | (refine kept_cut (a := s0) (x := x.1) ?_ ?_; (on_goal 1 => unfold x); (on_goal 2 => intro hx; clear_value x)) | clear_value x))
    | with_reducible refine kept_ite ?_ ?_
    | with_reducible refine keptOut_ite ?_ ?_
    | split
    | dsimp only

theorem corrected_kept {s0 : State} {s : State} {a : Nat} {m : Option (List Byte)} (hk : Kept s0 s) :
    Kept s0 (corrected s a m) := by
  unfold corrected
  repeat' first
    | with_reducible assumption
    | fail_if_no_progress (with_reducible refine kept_mk ?_)
    | fail_if_no_progress (with_reducible refine kept_all ?_ (by omega) (by first | exact id | exact fun w => wf_filter w _ | exact fun w => wf_foldl_memWrite w _ _ _) (by exact id) (by omega))
    | with_reducible refine kept_next ?_
    | with_reducible refine bump_kept ?_
    | with_reducible refine memErr_kept ?_
    | with_reducible refine raise_kept ?_
    | with_reducible refine rate_kept ?_
    | with_reducible refine requestTest_kept ?_
    | (extract_lets +onlyGivenNames x; (first | (refine kept_cut (a := s0) (x := x) ?_ ?_; (on_goal 1 => unfold x); (on_goal 2 => intro hx; clear_value x)) | (refine kept_cut (a := s0) (x := x.1) ?_ ?_; (on_goal 1 => unfold x); (on_goal 2 => intro hx; clear_value x)) | clear_value x))
    | with_reducible refine kept_ite ?_ ?_
    | with_reducible refine keptOut_ite ?_ ?_
    | split
    | dsimp only

theorem uncorrectable_kept {s0 : State} {s : State} {a bit code : Nat} (hk : Kept s0 s) :
    Kept s0 (uncorrectable s a bit code) := by
  unfold uncorrectable
  repeat' first
    | with_reducible assumption
    | fail_if_no_progress (with_reducible refine kept_mk ?_)
    | fail_if_no_progress (with_reducible refine kept_all ?_ (by omega) (by first | exact id | exact fun w => wf_filter w _ | exact fun w => wf_foldl_memWrite w _ _ _) (by exact id) (by omega))
    | with_reducible refine kept_next ?_
    | with_reducible refine bump_kept ?_
    | with_reducible refine memErr_kept ?_
    | with_reducible refine requestTest_kept ?_
    | with_reducible refine raise_kept ?_
    | (extract_lets +onlyGivenNames x; (first | (refine kept_cut (a := s0) (x := x) ?_ ?_; (on_goal 1 => unfold x); (on_goal 2 => intro hx; clear_value x)) | (refine kept_cut (a := s0) (x := x.1) ?_ ?_; (on_goal 1 => unfold x); (on_goal 2 => intro hx; clear_value x)) | clear_value x))
    | dsimp only

theorem readCw_kept {s0 : State} {s : State} {cw : Nat} (h : Kept s0 s) : Kept s0 (readCw s cw).1 := by
  unfold readCw
  split
  · exact h
  · exact corrected_kept h
  · exact kept_ite (corrected_kept h) h
  · exact uncorrectable_kept h
  · exact uncorrectable_kept h

theorem readCws_kept {s0 : State} {n : Nat} {s : State} {cw : Nat} (h : Kept s0 s) : Kept s0 (readCws s cw n).s := by
  induction n generalizing s cw with
  | zero => exact h
  | succ n ih =>
    have hr := readCw_kept (cw := cw) h
    unfold readCws
    extract_lets r
    split
    · exact hr
    · exact hr
    · exact ih hr
    · exact ih hr

theorem touch_kept {s0 : State} {s : State} {a len : Nat} (hk : Kept s0 s) :
    Kept s0 (touch s a len) := by
  unfold touch
  repeat' first
    | with_reducible assumption
    | fail_if_no_progress (with_reducible refine kept_mk ?_)
    | fail_if_no_progress (with_reducible refine kept_all ?_ (by omega) (by first | exact id | exact fun w => wf_filter w _ | exact fun w => wf_foldl_memWrite w _ _ _) (by exact id) (by omega))
    | with_reducible refine kept_next ?_
    | with_reducible refine kept_foldl (fun t x ht => ?_) ?_
    | with_reducible refine kept_foldl_pair (fun t x ht => ?_) ?_
    | (extract_lets +onlyGivenNames x; (first | (refine kept_cut (a := s0) (x := x) ?_ ?_; (on_goal 1 => unfold x); (on_goal 2 => intro hx; clear_value x)) | (refine kept_cut (a := s0) (x := x.1) ?_ ?_; (on_goal 1 => unfold x); (on_goal 2 => intro hx; clear_value x)) | clear_value x))
    | with_reducible refine kept_ite ?_ ?_
    | with_reducible refine keptOut_ite ?_ ?_
    | split
    | dsimp only

theorem readMem_kept {s0 : State} {s : State} {a len : Nat} (hk : Kept s0 s) :
    Kept s0 (readMem s a len).s := by
  unfold readMem
  repeat' first
    | with_reducible assumption
    | fail_if_no_progress (with_reducible refine kept_mk ?_)
    | fail_if_no_progress (with_reducible refine kept_all ?_ (by omega) (by first | exact id | exact fun w => wf_filter w _ | exact fun w => wf_foldl_memWrite w _ _ _) (by exact id) (by omega))
    | with_reducible refine kept_next ?_
    | with_reducible refine readCws_kept ?_
    | with_reducible refine touch_kept ?_
    | dsimp only

theorem writeCw_kept {s0 : State} {s : State} {cw : Nat} {bs : List (Nat × Byte)} (h : Kept s0 s) :
    Kept s0 (writeCw s cw bs).1 := by
  unfold writeCw
  extract_lets r
  have hr : Kept s0 r.1 := by
    unfold r
    split
    · exact h
    · exact readCw_kept h
  clear_value r
  split
  · exact hr
  · exact hr
  · refine kept_parts hr rfl (Nat.le_refl _) (fun w => ?_) id id
    dsimp only
    split
    · exact wf_memPut (wf_memWrite w _ _) _
    · exact wf_memPut w _

theorem writeCws_kept {s0 : State} {l : List Nat} {s : State} {bs : List (Nat × Byte)} (h : Kept s0 s) :
    Kept s0 (writeCws s bs l).1 := by
  induction l generalizing s with
  | nil => exact h
  | cons c t ih => exact ih (writeCw_kept h)

theorem putMem_kept {s0 : State} {s : State} {bs : List (Nat × Byte)} (hk : Kept s0 s) :
    Kept s0 (putMem s bs).1 := by
  unfold putMem
  repeat' first
    | with_reducible assumption
    | fail_if_no_progress (with_reducible refine kept_mk ?_)
    | fail_if_no_progress (with_reducible refine kept_all ?_ (by omega) (by first | exact id | exact fun w => wf_filter w _ | exact fun w => wf_foldl_memWrite w _ _ _) (by exact id) (by omega))
    | with_reducible refine kept_next ?_
    | with_reducible refine writeCws_kept ?_
    | dsimp only

theorem writeMem_kept {s0 : State} {s : State} {a : Nat} {bs : List Byte} (hk : Kept s0 s) :
    Kept s0 (writeMem s a bs).1 := by
  unfold writeMem
  repeat' first
    | with_reducible assumption
    | fail_if_no_progress (with_reducible refine kept_mk ?_)
    | fail_if_no_progress (with_reducible refine kept_all ?_ (by omega) (by first | exact id | exact fun w => wf_filter w _ | exact fun w => wf_foldl_memWrite w _ _ _) (by exact id) (by omega))
    | with_reducible refine kept_next ?_
    | with_reducible refine putMem_kept ?_
    | with_reducible refine touch_kept ?_
    | dsimp only

theorem undefMem_kept {s0 : State} {s : State} {a len : Nat} (hk : Kept s0 s) :
    Kept s0 (undefMem s a len) := by
  unfold undefMem
  repeat' first
    | with_reducible assumption
    | fail_if_no_progress (with_reducible refine kept_mk ?_)
    | fail_if_no_progress (with_reducible refine kept_all ?_ (by omega) (by first | exact id | exact fun w => wf_filter w _ | exact fun w => wf_foldl_memWrite w _ _ _) (by exact id) (by omega))
    | with_reducible refine kept_next ?_
    | with_reducible refine draw_kept ?_
    | with_reducible refine writeMem_kept ?_
    | (extract_lets +onlyGivenNames x; (first | (refine kept_cut (a := s0) (x := x) ?_ ?_; (on_goal 1 => unfold x); (on_goal 2 => intro hx; clear_value x)) | (refine kept_cut (a := s0) (x := x.1) ?_ ?_; (on_goal 1 => unfold x); (on_goal 2 => intro hx; clear_value x)) | clear_value x))
    | dsimp only

theorem zeroise_kept {s0 : State} {s : State} {lo hi : Nat} (h : Kept s0 s) : Kept s0 (zeroise s lo hi) :=
  kept_parts h rfl (Nat.le_refl _) (fun w => wf_memZero w lo hi) id id

theorem hostWrite_kept {s0 : State} {s : State} {a : Nat} {bs : List Byte} (h : Kept s0 s) : Kept s0 (hostWrite s a bs) :=
  kept_parts h rfl (Nat.le_refl _) id (fun w => wf_memWrite w a bs) id

theorem undefHost_kept {s0 : State} {s : State} {a len : Nat} (hk : Kept s0 s) :
    Kept s0 (undefHost s a len) := by
  unfold undefHost
  repeat' first
    | with_reducible assumption
    | fail_if_no_progress (with_reducible refine kept_mk ?_)
    | fail_if_no_progress (with_reducible refine kept_all ?_ (by omega) (by first | exact id | exact fun w => wf_filter w _ | exact fun w => wf_foldl_memWrite w _ _ _) (by exact id) (by omega))
    | with_reducible refine kept_next ?_
    | with_reducible refine draw_kept ?_
    | with_reducible refine hostWrite_kept ?_
    | (extract_lets +onlyGivenNames x; (first | (refine kept_cut (a := s0) (x := x) ?_ ?_; (on_goal 1 => unfold x); (on_goal 2 => intro hx; clear_value x)) | (refine kept_cut (a := s0) (x := x.1) ?_ ?_; (on_goal 1 => unfold x); (on_goal 2 => intro hx; clear_value x)) | clear_value x))
    | dsimp only

theorem murk_kept {s0 : State} {s : State} {a len : Nat} (hk : Kept s0 s) :
    Kept s0 (murk s a len).1 := by
  unfold murk
  repeat' first
    | with_reducible assumption
    | fail_if_no_progress (with_reducible refine kept_mk ?_)
    | fail_if_no_progress (with_reducible refine kept_all ?_ (by omega) (by first | exact id | exact fun w => wf_filter w _ | exact fun w => wf_foldl_memWrite w _ _ _) (by exact id) (by omega))
    | with_reducible refine kept_next ?_
    | with_reducible refine draw_kept ?_
    | (extract_lets +onlyGivenNames x; (first | (refine kept_cut (a := s0) (x := x) ?_ ?_; (on_goal 1 => unfold x); (on_goal 2 => intro hx; clear_value x)) | (refine kept_cut (a := s0) (x := x.1) ?_ ?_; (on_goal 1 => unfold x); (on_goal 2 => intro hx; clear_value x)) | clear_value x))
    | with_reducible refine kept_ite ?_ ?_
    | with_reducible refine keptOut_ite ?_ ?_
    | split
    | dsimp only

theorem cloud_kept {s0 : State} {s : State} {n a len : Nat} (hk : Kept s0 s) :
    Kept s0 (cloud s n a len).1 := by
  unfold cloud
  repeat' first
    | with_reducible assumption
    | fail_if_no_progress (with_reducible refine kept_mk ?_)
    | fail_if_no_progress (with_reducible refine kept_all ?_ (by omega) (by first | exact id | exact fun w => wf_filter w _ | exact fun w => wf_foldl_memWrite w _ _ _) (by exact id) (by omega))
    | with_reducible refine kept_next ?_
    | with_reducible refine murk_kept ?_
    | with_reducible refine draw_kept ?_
    | with_reducible refine fsIf_kept ?_
    | (extract_lets +onlyGivenNames x; (first | (refine kept_cut (a := s0) (x := x) ?_ ?_; (on_goal 1 => unfold x); (on_goal 2 => intro hx; clear_value x)) | (refine kept_cut (a := s0) (x := x.1) ?_ ?_; (on_goal 1 => unfold x); (on_goal 2 => intro hx; clear_value x)) | clear_value x))
    | with_reducible refine kept_ite ?_ ?_
    | with_reducible refine keptOut_ite ?_ ?_
    | split
    | dsimp only

theorem seeX_kept {s0 : State} {s : State} {n : Nat} {rs : List Nat} (hk : Kept s0 s) :
    Kept s0 (seeX s n rs) := by
  unfold seeX
  repeat' first
    | with_reducible assumption
    | fail_if_no_progress (with_reducible refine kept_mk ?_)
    | fail_if_no_progress (with_reducible refine kept_all ?_ (by omega) (by first | exact id | exact fun w => wf_filter w _ | exact fun w => wf_foldl_memWrite w _ _ _) (by exact id) (by omega))
    | with_reducible refine kept_next ?_
    | with_reducible refine fsIf_kept ?_
    | dsimp only

theorem putX_kept {s0 : State} {s : State} {n r after : Nat} {scalar : Bool} {v : W64} (hk : Kept s0 s) :
    Kept s0 (putX s n r after scalar v) := by
  unfold putX
  repeat' first
    | with_reducible assumption
    | fail_if_no_progress (with_reducible refine kept_mk ?_)
    | fail_if_no_progress (with_reducible refine kept_all ?_ (by omega) (by first | exact id | exact fun w => wf_filter w _ | exact fun w => wf_foldl_memWrite w _ _ _) (by exact id) (by omega))
    | with_reducible refine kept_next ?_
    | with_reducible refine schedule_kept ?_
    | with_reducible refine kept_ite ?_ ?_
    | with_reducible refine keptOut_ite ?_ ?_
    | split
    | dsimp only

theorem putP_kept {s0 : State} {s : State} {n p : Nat} {v : Bool} (hk : Kept s0 s) :
    Kept s0 (putP s n p v) := by
  unfold putP
  repeat' first
    | with_reducible assumption
    | fail_if_no_progress (with_reducible refine kept_mk ?_)
    | fail_if_no_progress (with_reducible refine kept_all ?_ (by omega) (by first | exact id | exact fun w => wf_filter w _ | exact fun w => wf_foldl_memWrite w _ _ _) (by exact id) (by omega))
    | with_reducible refine kept_next ?_
    | with_reducible refine schedule_kept ?_
    | with_reducible refine kept_ite ?_ ?_
    | with_reducible refine keptOut_ite ?_ ?_
    | split
    | dsimp only

theorem badAddr_kept {s0 : State} {s : State} {n : Nat} (hk : Kept s0 s) :
    Kept s0 (badAddr s n) := by
  unfold badAddr
  repeat' first
    | with_reducible assumption
    | fail_if_no_progress (with_reducible refine kept_mk ?_)
    | fail_if_no_progress (with_reducible refine kept_all ?_ (by omega) (by first | exact id | exact fun w => wf_filter w _ | exact fun w => wf_foldl_memWrite w _ _ _) (by exact id) (by omega))
    | with_reducible refine kept_next ?_
    | with_reducible refine errHalt_kept ?_
    | with_reducible refine raise_kept ?_
    | dsimp only

theorem updLb_kept {s0 : State} {s : State} {n : Nat} {lane : Lane} {b : Nat} {f : LBuf → LBuf} (hk : Kept s0 s) :
    Kept s0 (updLb s n lane b f) := by
  unfold updLb
  repeat' first
    | with_reducible assumption
    | fail_if_no_progress (with_reducible refine kept_mk ?_)
    | fail_if_no_progress (with_reducible refine kept_all ?_ (by omega) (by first | exact id | exact fun w => wf_filter w _ | exact fun w => wf_foldl_memWrite w _ _ _) (by exact id) (by omega))
    | with_reducible refine kept_next ?_
    | with_reducible refine updStn_kept ?_
    | dsimp only

theorem setCtr_kept {s0 : State} {s : State} {c : Ctr} {v : W32} (hk : Kept s0 s) :
    Kept s0 (setCtr s c v) := by
  unfold setCtr
  repeat' first
    | with_reducible assumption
    | fail_if_no_progress (with_reducible refine kept_mk ?_)
    | fail_if_no_progress (with_reducible refine kept_all ?_ (by omega) (by first | exact id | exact fun w => wf_filter w _ | exact fun w => wf_foldl_memWrite w _ _ _) (by exact id) (by omega))
    | with_reducible refine kept_next ?_
    | split
    | dsimp only

theorem sendAdd_kept {s0 : State} {s : State} {node : Nat} {c : Ctr} {n : W32} {due : Option (Nat × Nat)} (hk : Kept s0 s) :
    Kept s0 (sendAdd s node c n due) := by
  unfold sendAdd
  repeat' first
    | with_reducible assumption
    | fail_if_no_progress (with_reducible refine kept_mk ?_)
    | fail_if_no_progress (with_reducible refine kept_all ?_ (by omega) (by first | exact id | exact fun w => wf_filter w _ | exact fun w => wf_foldl_memWrite w _ _ _) (by exact id) (by omega))
    | with_reducible refine kept_next ?_
    | with_reducible refine kept_ite ?_ ?_
    | with_reducible refine keptOut_ite ?_ ?_
    | split
    | dsimp only

theorem updHPort_kept {s0 : State} {s : State} {p : Nat} {f : HPort → HPort} (hk : Kept s0 s) :
    Kept s0 (updHPort s p f) := by
  unfold updHPort
  repeat' first
    | with_reducible assumption
    | fail_if_no_progress (with_reducible refine kept_mk ?_)
    | fail_if_no_progress (with_reducible refine kept_all ?_ (by omega) (by first | exact id | exact fun w => wf_filter w _ | exact fun w => wf_foldl_memWrite w _ _ _) (by exact id) (by omega))
    | with_reducible refine kept_next ?_
    | dsimp only

theorem queueHur_kept {s0 : State} {s : State} {p : Nat} {m : HurMsg} (hk : Kept s0 s) :
    Kept s0 (queueHur s p m) := by
  unfold queueHur
  repeat' first
    | with_reducible assumption
    | fail_if_no_progress (with_reducible refine kept_mk ?_)
    | fail_if_no_progress (with_reducible refine kept_all ?_ (by omega) (by first | exact id | exact fun w => wf_filter w _ | exact fun w => wf_foldl_memWrite w _ _ _) (by exact id) (by omega))
    | with_reducible refine kept_next ?_
    | with_reducible refine updHPort_kept ?_
    | dsimp only

theorem signalTo_kept {s0 : State} {s : State} {node addr : Nat} {n : W32} (hk : Kept s0 s) :
    Kept s0 (signalTo s node addr n) := by
  unfold signalTo
  repeat' first
    | with_reducible assumption
    | fail_if_no_progress (with_reducible refine kept_mk ?_)
    | fail_if_no_progress (with_reducible refine kept_all ?_ (by omega) (by first | exact id | exact fun w => wf_filter w _ | exact fun w => wf_foldl_memWrite w _ _ _) (by exact id) (by omega))
    | with_reducible refine kept_next ?_
    | with_reducible refine sendAdd_kept ?_
    | with_reducible refine queueHur_kept ?_
    | (extract_lets +onlyGivenNames x; (first | (refine kept_cut (a := s0) (x := x) ?_ ?_; (on_goal 1 => unfold x); (on_goal 2 => intro hx; clear_value x)) | (refine kept_cut (a := s0) (x := x.1) ?_ ?_; (on_goal 1 => unfold x); (on_goal 2 => intro hx; clear_value x)) | clear_value x))
    | with_reducible refine kept_ite ?_ ?_
    | with_reducible refine keptOut_ite ?_ ?_
    | split
    | dsimp only

theorem hurErr_kept {s0 : State} {s : State} {d bit station : Nat} {gc : Bool} (hk : Kept s0 s) :
    Kept s0 (hurErr s d bit station gc) := by
  unfold hurErr
  repeat' first
    | with_reducible assumption
    | fail_if_no_progress (with_reducible refine kept_mk ?_)
    | fail_if_no_progress (with_reducible refine kept_all ?_ (by omega) (by first | exact id | exact fun w => wf_filter w _ | exact fun w => wf_foldl_memWrite w _ _ _) (by exact id) (by omega))
    | with_reducible refine kept_next ?_
    | with_reducible refine latch_kept ?_
    | dsimp only

theorem tellWaiters_kept {s0 : State} {s : State} {c : Ctr} {v : W32} (hk : Kept s0 s) :
    Kept s0 (tellWaiters s c v) := by
  unfold tellWaiters
  repeat' first
    | with_reducible assumption
    | fail_if_no_progress (with_reducible refine kept_mk ?_)
    | fail_if_no_progress (with_reducible refine kept_all ?_ (by omega) (by first | exact id | exact fun w => wf_filter w _ | exact fun w => wf_foldl_memWrite w _ _ _) (by exact id) (by omega))
    | with_reducible refine kept_next ?_
    | dsimp only

theorem register_kept {s0 : State} {s : State} {w : Waiter} {c : Ctr} (hk : Kept s0 s) :
    Kept s0 (register s w c) := by
  unfold register
  repeat' first
    | with_reducible assumption
    | fail_if_no_progress (with_reducible refine kept_mk ?_)
    | fail_if_no_progress (with_reducible refine kept_all ?_ (by omega) (by first | exact id | exact fun w => wf_filter w _ | exact fun w => wf_foldl_memWrite w _ _ _) (by exact id) (by omega))
    | with_reducible refine kept_next ?_
    | with_reducible refine kept_ite ?_ ?_
    | with_reducible refine keptOut_ite ?_ ?_
    | split
    | dsimp only

theorem unregister_kept {s0 : State} {s : State} {w : Waiter} (hk : Kept s0 s) :
    Kept s0 (unregister s w) := by
  unfold unregister
  repeat' first
    | with_reducible assumption
    | fail_if_no_progress (with_reducible refine kept_mk ?_)
    | fail_if_no_progress (with_reducible refine kept_all ?_ (by omega) (by first | exact id | exact fun w => wf_filter w _ | exact fun w => wf_foldl_memWrite w _ _ _) (by exact id) (by omega))
    | with_reducible refine kept_next ?_
    | dsimp only

theorem leaveEclipse_kept {s0 : State} {s : State} {g : Nat} (hk : Kept s0 s) :
    Kept s0 (leaveEclipse s g) := by
  unfold leaveEclipse
  repeat' first
    | with_reducible assumption
    | fail_if_no_progress (with_reducible refine kept_mk ?_)
    | fail_if_no_progress (with_reducible refine kept_all ?_ (by omega) (by first | exact id | exact fun w => wf_filter w _ | exact fun w => wf_foldl_memWrite w _ _ _) (by exact id) (by omega))
    | with_reducible refine kept_next ?_
    | with_reducible refine updClu_kept ?_
    | with_reducible refine retarget_kept ?_
    | (extract_lets +onlyGivenNames x; (first | (refine kept_cut (a := s0) (x := x) ?_ ?_; (on_goal 1 => unfold x); (on_goal 2 => intro hx; clear_value x)) | (refine kept_cut (a := s0) (x := x.1) ?_ ?_; (on_goal 1 => unfold x); (on_goal 2 => intro hx; clear_value x)) | clear_value x))
    | with_reducible refine kept_ite ?_ ?_
    | with_reducible refine keptOut_ite ?_ ?_
    | split
    | dsimp only

theorem resume_kept {s0 : State} {s : State} {n : Nat} (hk : Kept s0 s) :
    Kept s0 (resume s n) := by
  unfold resume
  repeat' first
    | with_reducible assumption
    | fail_if_no_progress (with_reducible refine kept_mk ?_)
    | fail_if_no_progress (with_reducible refine kept_all ?_ (by omega) (by first | exact id | exact fun w => wf_filter w _ | exact fun w => wf_foldl_memWrite w _ _ _) (by exact id) (by omega))
    | with_reducible refine kept_next ?_
    | with_reducible refine unregister_kept ?_
    | with_reducible refine leaveEclipse_kept ?_
    | with_reducible refine updStn_kept ?_
    | (extract_lets +onlyGivenNames x; (first | (refine kept_cut (a := s0) (x := x) ?_ ?_; (on_goal 1 => unfold x); (on_goal 2 => intro hx; clear_value x)) | (refine kept_cut (a := s0) (x := x.1) ?_ ?_; (on_goal 1 => unfold x); (on_goal 2 => intro hx; clear_value x)) | clear_value x))
    | with_reducible refine kept_ite ?_ ?_
    | with_reducible refine keptOut_ite ?_ ?_
    | split
    | dsimp only

theorem testWaiter_kept {s0 : State} {s : State} {w : Waiter} {c : Ctr} {v : W32} (hk : Kept s0 s) :
    Kept s0 (testWaiter s w c v) := by
  unfold testWaiter
  repeat' first
    | with_reducible assumption
    | fail_if_no_progress (with_reducible refine kept_mk ?_)
    | fail_if_no_progress (with_reducible refine kept_all ?_ (by omega) (by first | exact id | exact fun w => wf_filter w _ | exact fun w => wf_foldl_memWrite w _ _ _) (by exact id) (by omega))
    | with_reducible refine kept_next ?_
    | with_reducible refine updStn_kept ?_
    | with_reducible refine updGc_kept ?_
    | split
    | dsimp only

theorem testDirect_kept {s0 : State} {s : State} {c : Ctr} {v : W32} (hk : Kept s0 s) :
    Kept s0 (testDirect s c v) := by
  unfold testDirect
  repeat' first
    | with_reducible assumption
    | fail_if_no_progress (with_reducible refine kept_mk ?_)
    | fail_if_no_progress (with_reducible refine kept_all ?_ (by omega) (by first | exact id | exact fun w => wf_filter w _ | exact fun w => wf_foldl_memWrite w _ _ _) (by exact id) (by omega))
    | with_reducible refine kept_next ?_
    | dsimp only

theorem markLanding_kept {s0 : State} {s : State} {c : Ctr} (hk : Kept s0 s) :
    Kept s0 (markLanding s c) := by
  unfold markLanding
  repeat' first
    | with_reducible assumption
    | fail_if_no_progress (with_reducible refine kept_mk ?_)
    | fail_if_no_progress (with_reducible refine kept_all ?_ (by omega) (by first | exact id | exact fun w => wf_filter w _ | exact fun w => wf_foldl_memWrite w _ _ _) (by exact id) (by omega))
    | with_reducible refine kept_next ?_
    | with_reducible refine updStn_kept ?_
    | with_reducible refine kept_ite ?_ ?_
    | with_reducible refine keptOut_ite ?_ ?_
    | split
    | dsimp only

theorem applyAdd_kept {s0 : State} {s : State} {c : Ctr} {n : W32} (hk : Kept s0 s) :
    Kept s0 (applyAdd s c n) := by
  unfold applyAdd
  repeat' first
    | with_reducible assumption
    | fail_if_no_progress (with_reducible refine kept_mk ?_)
    | fail_if_no_progress (with_reducible refine kept_all ?_ (by omega) (by first | exact id | exact fun w => wf_filter w _ | exact fun w => wf_foldl_memWrite w _ _ _) (by exact id) (by omega))
    | with_reducible refine kept_next ?_
    | with_reducible refine markLanding_kept ?_
    | with_reducible refine setCtr_kept ?_
    | with_reducible refine tellWaiters_kept ?_
    | with_reducible refine testDirect_kept ?_
    | (extract_lets +onlyGivenNames x; (first | (refine kept_cut (a := s0) (x := x) ?_ ?_; (on_goal 1 => unfold x); (on_goal 2 => intro hx; clear_value x)) | (refine kept_cut (a := s0) (x := x.1) ?_ ?_; (on_goal 1 => unfold x); (on_goal 2 => intro hx; clear_value x)) | clear_value x))
    | with_reducible refine kept_ite ?_ ?_
    | with_reducible refine keptOut_ite ?_ ?_
    | split
    | dsimp only

theorem sendMsg_kept {s0 : State} {s : State} {m : Msg} (hk : Kept s0 s) :
    Kept s0 (sendMsg s m) := by
  unfold sendMsg
  repeat' first
    | with_reducible assumption
    | fail_if_no_progress (with_reducible refine kept_mk ?_)
    | fail_if_no_progress (with_reducible refine kept_all ?_ (by omega) (by first | exact id | exact fun w => wf_filter w _ | exact fun w => wf_foldl_memWrite w _ _ _) (by exact id) (by omega))
    | with_reducible refine kept_next ?_
    | with_reducible refine updHPort_kept ?_
    | split
    | dsimp only

theorem replyTo_kept {s0 : State} {s : State} {q : Msg} {mtype status : Nat} {data : List Byte} (hk : Kept s0 s) :
    Kept s0 (replyTo s q mtype status data) := by
  unfold replyTo
  repeat' first
    | with_reducible assumption
    | fail_if_no_progress (with_reducible refine kept_mk ?_)
    | fail_if_no_progress (with_reducible refine kept_all ?_ (by omega) (by first | exact id | exact fun w => wf_filter w _ | exact fun w => wf_foldl_memWrite w _ _ _) (by exact id) (by omega))
    | with_reducible refine kept_next ?_
    | with_reducible refine sendMsg_kept ?_
    | dsimp only

theorem takeInbox_kept {s0 : State} {s : State} {p : Nat} {m : Msg} (hk : Kept s0 s) :
    Kept s0 (takeInbox s p m) := by
  unfold takeInbox
  repeat' first
    | with_reducible assumption
    | fail_if_no_progress (with_reducible refine kept_mk ?_)
    | fail_if_no_progress (with_reducible refine kept_all ?_ (by omega) (by first | exact id | exact fun w => wf_filter w _ | exact fun w => wf_foldl_memWrite w _ _ _) (by exact id) (by omega))
    | with_reducible refine kept_next ?_
    | dsimp only

end Sys2Proof.Machine
end

