-- ==== Sys2Proof/Laws/KeptStations.lean ====
section
/-! SUPPORT. What the operations on the Relay Ring, the scalar sequencer, the arrays and the move unit keep (see Kept). -/
namespace Sys2Proof.Machine
open Sys2Proof
set_option linter.unreachableTactic false
set_option linter.unusedTactic false
set_option linter.unusedVariables false

theorem updHop_kept {s0 : State} {s : State} {n : Nat} {lane : Lane} {l : List Flight} (hk : Kept s0 s) :
    Kept s0 (updHop s n lane l) := by
  unfold updHop
  repeat' first
    | with_reducible assumption
    | fail_if_no_progress (with_reducible refine kept_mk ?_)
    | fail_if_no_progress (with_reducible refine kept_all ?_ (by omega) (by first | exact id | exact fun w => wf_filter w _ | exact fun w => wf_foldl_memWrite w _ _ _) (by exact id) (by omega))
    | with_reducible refine kept_next ?_
    | with_reducible refine updStn_kept ?_
    | dsimp only

theorem updPort_kept {s0 : State} {s : State} {n : Nat} {lane : Lane} {f : Port → Port} (hk : Kept s0 s) :
    Kept s0 (updPort s n lane f) := by
  unfold updPort
  repeat' first
    | with_reducible assumption
    | fail_if_no_progress (with_reducible refine kept_mk ?_)
    | fail_if_no_progress (with_reducible refine kept_all ?_ (by omega) (by first | exact id | exact fun w => wf_filter w _ | exact fun w => wf_foldl_memWrite w _ _ _) (by exact id) (by omega))
    | with_reducible refine kept_next ?_
    | with_reducible refine updStn_kept ?_
    | dsimp only

theorem ringErr_kept {s0 : State} {s : State} {n : Nat} {lane : Lane} {bit : Nat} (hk : Kept s0 s) :
    Kept s0 (ringErr s n lane bit) := by
  unfold ringErr
  repeat' first
    | with_reducible assumption
    | fail_if_no_progress (with_reducible refine kept_mk ?_)
    | fail_if_no_progress (with_reducible refine kept_all ?_ (by omega) (by first | exact id | exact fun w => wf_filter w _ | exact fun w => wf_foldl_memWrite w _ _ _) (by exact id) (by omega))
    | with_reducible refine kept_next ?_
    | with_reducible refine latch_kept ?_
    | dsimp only

theorem launch_kept {s0 : State} {s : State} {n : Nat} {r : SendReq} {lane : Lane} (hk : Kept s0 s) :
    Kept s0 (launch s n r lane) := by
  unfold launch
  repeat' first
    | with_reducible assumption
    | fail_if_no_progress (with_reducible refine kept_mk ?_)
    | fail_if_no_progress (with_reducible refine kept_all ?_ (by omega) (by first | exact id | exact fun w => wf_filter w _ | exact fun w => wf_foldl_memWrite w _ _ _) (by exact id) (by omega))
    | with_reducible refine kept_next ?_
    | with_reducible refine raise_kept ?_
    | with_reducible refine ringErr_kept ?_
    | with_reducible refine fsIf_kept ?_
    | with_reducible refine updHop_kept ?_
    | with_reducible refine updLb_kept ?_
    | with_reducible refine updPort_kept ?_
    | with_reducible refine errHalt_kept ?_
    | (extract_lets +onlyGivenNames x; (first | (refine kept_cut (a := s0) (x := x) ?_ ?_; (on_goal 1 => unfold x); (on_goal 2 => intro hx; clear_value x)) | (refine kept_cut (a := s0) (x := x.1) ?_ ?_; (on_goal 1 => unfold x); (on_goal 2 => intro hx; clear_value x)) | clear_value x))
    | with_reducible refine kept_ite ?_ ?_
    | with_reducible refine keptOut_ite ?_ ?_
    | split
    | dsimp only

theorem spoilSends_kept {s0 : State} {s : State} {n : Nat} {lane : Lane} {l : List Nat} {d : Nat} (hk : Kept s0 s) :
    Kept s0 (spoilSends s n lane l d) := by
  unfold spoilSends
  repeat' first
    | with_reducible assumption
    | fail_if_no_progress (with_reducible refine kept_mk ?_)
    | fail_if_no_progress (with_reducible refine kept_all ?_ (by omega) (by first | exact id | exact fun w => wf_filter w _ | exact fun w => wf_foldl_memWrite w _ _ _) (by exact id) (by omega))
    | with_reducible refine kept_next ?_
    | with_reducible refine updLb_kept ?_
    | with_reducible refine updHop_kept ?_
    | with_reducible refine kept_foldl (fun t x ht => ?_) ?_
    | with_reducible refine kept_foldl_pair (fun t x ht => ?_) ?_
    | (extract_lets +onlyGivenNames x; (first | (refine kept_cut (a := s0) (x := x) ?_ ?_; (on_goal 1 => unfold x); (on_goal 2 => intro hx; clear_value x)) | (refine kept_cut (a := s0) (x := x.1) ?_ ?_; (on_goal 1 => unfold x); (on_goal 2 => intro hx; clear_value x)) | clear_value x))
    | with_reducible refine kept_ite ?_ ?_
    | with_reducible refine keptOut_ite ?_ ?_
    | split
    | dsimp only

theorem spoilDrains_kept {s0 : State} {s : State} {n : Nat} {lane : Lane} {b k d : Nat} (hk : Kept s0 s) :
    Kept s0 (spoilDrains s n lane b k d) := by
  unfold spoilDrains
  repeat' first
    | with_reducible assumption
    | fail_if_no_progress (with_reducible refine kept_mk ?_)
    | fail_if_no_progress (with_reducible refine kept_all ?_ (by omega) (by first | exact id | exact fun w => wf_filter w _ | exact fun w => wf_foldl_memWrite w _ _ _) (by exact id) (by omega))
    | with_reducible refine kept_next ?_
    | (extract_lets +onlyGivenNames x; (first | (refine kept_cut (a := s0) (x := x) ?_ ?_; (on_goal 1 => unfold x); (on_goal 2 => intro hx; clear_value x)) | (refine kept_cut (a := s0) (x := x.1) ?_ ?_; (on_goal 1 => unfold x); (on_goal 2 => intro hx; clear_value x)) | clear_value x))
    | with_reducible refine kept_ite ?_ ?_
    | with_reducible refine keptOut_ite ?_ ?_
    | split
    | dsimp only

theorem spoil_kept {s0 : State} {s : State} {n : Nat} {lane : Lane} {b k : Nat} (hk : Kept s0 s) :
    Kept s0 (spoil s n lane b k) := by
  unfold spoil
  repeat' first
    | with_reducible assumption
    | fail_if_no_progress (with_reducible refine kept_mk ?_)
    | fail_if_no_progress (with_reducible refine kept_all ?_ (by omega) (by first | exact id | exact fun w => wf_filter w _ | exact fun w => wf_foldl_memWrite w _ _ _) (by exact id) (by omega))
    | with_reducible refine kept_next ?_
    | with_reducible refine draw_kept ?_
    | with_reducible refine spoilSends_kept ?_
    | with_reducible refine spoilDrains_kept ?_
    | with_reducible refine updStn_kept ?_
    | (extract_lets +onlyGivenNames x; (first | (refine kept_cut (a := s0) (x := x) ?_ ?_; (on_goal 1 => unfold x); (on_goal 2 => intro hx; clear_value x)) | (refine kept_cut (a := s0) (x := x.1) ?_ ?_; (on_goal 1 => unfold x); (on_goal 2 => intro hx; clear_value x)) | clear_value x))
    | with_reducible refine kept_ite ?_ ?_
    | with_reducible refine keptOut_ite ?_ ?_
    | split
    | dsimp only

theorem land_kept {s0 : State} {s : State} {n : Nat} {lane : Lane} {b : Nat} {x : Baton} {doneAt : Option Nat} (hk : Kept s0 s) :
    Kept s0 (land s n lane b x doneAt) := by
  unfold land
  repeat' first
    | with_reducible assumption
    | fail_if_no_progress (with_reducible refine kept_mk ?_)
    | fail_if_no_progress (with_reducible refine kept_all ?_ (by omega) (by first | exact id | exact fun w => wf_filter w _ | exact fun w => wf_foldl_memWrite w _ _ _) (by exact id) (by omega))
    | with_reducible refine kept_next ?_
    | with_reducible refine updLb_kept ?_
    | with_reducible refine spoil_kept ?_
    | dsimp only

theorem countLanding_kept {s0 : State} {s : State} {n : Nat} {lane : Lane} {b : Nat} (hk : Kept s0 s) :
    Kept s0 (countLanding s n lane b) := by
  unfold countLanding
  repeat' first
    | with_reducible assumption
    | fail_if_no_progress (with_reducible refine kept_mk ?_)
    | fail_if_no_progress (with_reducible refine kept_all ?_ (by omega) (by first | exact id | exact fun w => wf_filter w _ | exact fun w => wf_foldl_memWrite w _ _ _) (by exact id) (by omega))
    | with_reducible refine kept_next ?_
    | with_reducible refine testDirect_kept ?_
    | with_reducible refine setCtr_kept ?_
    | (extract_lets +onlyGivenNames x; (first | (refine kept_cut (a := s0) (x := x) ?_ ?_; (on_goal 1 => unfold x); (on_goal 2 => intro hx; clear_value x)) | (refine kept_cut (a := s0) (x := x.1) ?_ ?_; (on_goal 1 => unfold x); (on_goal 2 => intro hx; clear_value x)) | clear_value x))
    | dsimp only

theorem settleBy_kept {s0 : State} {s : State} {n : Nat} {lane : Lane} {b : Nat} {r : Option (Nat × Nat)} (hk : Kept s0 s) :
    Kept s0 (settleBy s n lane b r) := by
  unfold settleBy
  repeat' first
    | with_reducible assumption
    | fail_if_no_progress (with_reducible refine kept_mk ?_)
    | fail_if_no_progress (with_reducible refine kept_all ?_ (by omega) (by first | exact id | exact fun w => wf_filter w _ | exact fun w => wf_foldl_memWrite w _ _ _) (by exact id) (by omega))
    | with_reducible refine kept_next ?_
    | with_reducible refine countLanding_kept ?_
    | with_reducible refine updLb_kept ?_
    | with_reducible refine raise_kept ?_
    | with_reducible refine ringErr_kept ?_
    | with_reducible refine requestTest_kept ?_
    | with_reducible refine errHalt_kept ?_
    | (extract_lets +onlyGivenNames x; (first | (refine kept_cut (a := s0) (x := x) ?_ ?_; (on_goal 1 => unfold x); (on_goal 2 => intro hx; clear_value x)) | (refine kept_cut (a := s0) (x := x.1) ?_ ?_; (on_goal 1 => unfold x); (on_goal 2 => intro hx; clear_value x)) | clear_value x))
    | with_reducible refine kept_ite ?_ ?_
    | with_reducible refine keptOut_ite ?_ ?_
    | split
    | dsimp only

theorem settle_kept {s0 : State} {s : State} {n : Nat} {lane : Lane} {b : Nat} (hk : Kept s0 s) :
    Kept s0 (settle s n lane b) := by
  unfold settle
  repeat' first
    | with_reducible assumption
    | fail_if_no_progress (with_reducible refine kept_mk ?_)
    | fail_if_no_progress (with_reducible refine kept_all ?_ (by omega) (by first | exact id | exact fun w => wf_filter w _ | exact fun w => wf_foldl_memWrite w _ _ _) (by exact id) (by omega))
    | with_reducible refine kept_next ?_
    | with_reducible refine settleBy_kept ?_
    | dsimp only

theorem advance_kept {s0 : State} {s : State} {n : Nat} (hk : Kept s0 s) :
    Kept s0 (advance s n) := by
  unfold advance
  repeat' first
    | with_reducible assumption
    | fail_if_no_progress (with_reducible refine kept_mk ?_)
    | fail_if_no_progress (with_reducible refine kept_all ?_ (by omega) (by first | exact id | exact fun w => wf_filter w _ | exact fun w => wf_foldl_memWrite w _ _ _) (by exact id) (by omega))
    | with_reducible refine kept_next ?_
    | with_reducible refine updStn_kept ?_
    | dsimp only

theorem scalarOp_kept {s0 : State} {n rd after : Nat} {reads : List Nat} {v : W64} {s : State} (hk : Kept s0 s) :
    KeptOut s0 (scalarOp n rd after reads v s) := by
  unfold scalarOp
  repeat' first
    | with_reducible assumption
    | fail_if_no_progress (with_reducible refine kept_mk ?_)
    | fail_if_no_progress (with_reducible refine kept_all ?_ (by omega) (by first | exact id | exact fun w => wf_filter w _ | exact fun w => wf_foldl_memWrite w _ _ _) (by exact id) (by omega))
    | with_reducible refine kept_next ?_
    | with_reducible refine advance_kept ?_
    | with_reducible refine putX_kept ?_
    | with_reducible refine seeX_kept ?_
    | with_reducible refine kept_ite ?_ ?_
    | with_reducible refine keptOut_ite ?_ ?_
    | split
    | dsimp only

theorem arrErr_kept {s0 : State} {s : State} {n a bit acc : Nat} {loc : Nat} (hk : Kept s0 s) :
    Kept s0 (arrErr s n a bit acc loc) := by
  unfold arrErr
  repeat' first
    | with_reducible assumption
    | fail_if_no_progress (with_reducible refine kept_mk ?_)
    | fail_if_no_progress (with_reducible refine kept_all ?_ (by omega) (by first | exact id | exact fun w => wf_filter w _ | exact fun w => wf_foldl_memWrite w _ _ _) (by exact id) (by omega))
    | with_reducible refine kept_next ?_
    | with_reducible refine setReg_kept ?_
    | with_reducible refine latch_kept ?_
    | (extract_lets +onlyGivenNames x; (first | (refine kept_cut (a := s0) (x := x) ?_ ?_; (on_goal 1 => unfold x); (on_goal 2 => intro hx; clear_value x)) | (refine kept_cut (a := s0) (x := x.1) ?_ ?_; (on_goal 1 => unfold x); (on_goal 2 => intro hx; clear_value x)) | clear_value x))
    | with_reducible refine kept_ite ?_ ?_
    | with_reducible refine keptOut_ite ?_ ?_
    | split
    | dsimp only

theorem arrCount_kept {s0 : State} {s : State} {n off w k : Nat} (hk : Kept s0 s) :
    Kept s0 (arrCount s n off w k) := by
  unfold arrCount
  repeat' first
    | with_reducible assumption
    | fail_if_no_progress (with_reducible refine kept_mk ?_)
    | fail_if_no_progress (with_reducible refine kept_all ?_ (by omega) (by first | exact id | exact fun w => wf_filter w _ | exact fun w => wf_foldl_memWrite w _ _ _) (by exact id) (by omega))
    | with_reducible refine kept_next ?_
    | with_reducible refine bump_kept ?_
    | with_reducible refine kept_ite ?_ ?_
    | with_reducible refine keptOut_ite ?_ ?_
    | split
    | dsimp only

theorem badSetup_kept {s0 : State} {s : State} {n a acc : Nat} (hk : Kept s0 s) :
    Kept s0 (badSetup s n a acc) := by
  unfold badSetup
  repeat' first
    | with_reducible assumption
    | fail_if_no_progress (with_reducible refine kept_mk ?_)
    | fail_if_no_progress (with_reducible refine kept_all ?_ (by omega) (by first | exact id | exact fun w => wf_filter w _ | exact fun w => wf_foldl_memWrite w _ _ _) (by exact id) (by omega))
    | with_reducible refine kept_next ?_
    | with_reducible refine errHalt_kept ?_
    | with_reducible refine raise_kept ?_
    | with_reducible refine arrErr_kept ?_
    | dsimp only

theorem accConflict_kept {s0 : State} {s : State} {n a acc : Nat} (hk : Kept s0 s) :
    Kept s0 (accConflict s n a acc) := by
  unfold accConflict
  repeat' first
    | with_reducible assumption
    | fail_if_no_progress (with_reducible refine kept_mk ?_)
    | fail_if_no_progress (with_reducible refine kept_all ?_ (by omega) (by first | exact id | exact fun w => wf_filter w _ | exact fun w => wf_foldl_memWrite w _ _ _) (by exact id) (by omega))
    | with_reducible refine kept_next ?_
    | with_reducible refine errHalt_kept ?_
    | with_reducible refine raise_kept ?_
    | with_reducible refine arrErr_kept ?_
    | dsimp only

theorem readList_kept {s0 : State} {l : List Nat} {s : State} (hk : Kept s0 s) : Kept s0 (readList s l).s := by
  induction l generalizing s with
  | nil => exact hk
  | cons c t ih =>
    have hr := readCw_kept (cw := c) hk
    unfold readList
    extract_lets r
    split
    · exact hr
    · exact hr
    · exact ih hr
    · exact ih hr

theorem feed_kept {s0 : State} {s : State} {n : Nat} {p : Pass} {src : Feed} {buf : Nat} {f : Fmt} {sc tr : Bool} {addr : Nat} {colOp : Bool} {ks : List Nat} (hk : Kept s0 s) :
    Kept s0 (feed s n p src buf f sc tr addr colOp ks).1 := by
  unfold feed
  repeat' first
    | with_reducible assumption
    | fail_if_no_progress (with_reducible refine kept_mk ?_)
    | fail_if_no_progress (with_reducible refine kept_all ?_ (by omega) (by first | exact id | exact fun w => wf_filter w _ | exact fun w => wf_foldl_memWrite w _ _ _) (by exact id) (by omega))
    | with_reducible refine kept_next ?_
    | with_reducible refine badAddr_kept ?_
    | with_reducible refine cloud_kept ?_
    | with_reducible refine fsIf_kept ?_
    | with_reducible refine readList_kept ?_
    | dsimp only
    | (extract_lets +onlyGivenNames x; (first | (refine kept_cut (a := s0) (x := x) ?_ ?_; (on_goal 1 => unfold x); (on_goal 2 => intro hx; clear_value x)) | (refine kept_cut (a := s0) (x := x.1) ?_ ?_; (on_goal 1 => unfold x); (on_goal 2 => intro hx; clear_value x)) | clear_value x))
    | with_reducible refine kept_ite ?_ ?_
    | with_reducible refine keptOut_ite ?_ ?_
    | split

theorem freeAccs_kept {s0 : State} {s : State} {n a : Nat} {ts : List Nat} (hk : Kept s0 s) :
    Kept s0 (freeAccs s n a ts) := by
  unfold freeAccs
  repeat' first
    | with_reducible assumption
    | fail_if_no_progress (with_reducible refine kept_mk ?_)
    | fail_if_no_progress (with_reducible refine kept_all ?_ (by omega) (by first | exact id | exact fun w => wf_filter w _ | exact fun w => wf_foldl_memWrite w _ _ _) (by exact id) (by omega))
    | with_reducible refine kept_next ?_
    | with_reducible refine updArr_kept ?_
    | with_reducible refine kept_foldl (fun t x ht => ?_) ?_
    | with_reducible refine kept_foldl_pair (fun t x ht => ?_) ?_
    | (extract_lets +onlyGivenNames x; (first | (refine kept_cut (a := s0) (x := x) ?_ ?_; (on_goal 1 => unfold x); (on_goal 2 => intro hx; clear_value x)) | (refine kept_cut (a := s0) (x := x.1) ?_ ?_; (on_goal 1 => unfold x); (on_goal 2 => intro hx; clear_value x)) | clear_value x))
    | dsimp only

theorem raiseTimes_kept {s0 : State} {s : State} {k code die unit : Nat} (hk : Kept s0 s) :
    Kept s0 (raiseTimes s k code die unit) := by
  unfold raiseTimes
  repeat' first
    | with_reducible assumption
    | fail_if_no_progress (with_reducible refine kept_mk ?_)
    | fail_if_no_progress (with_reducible refine kept_all ?_ (by omega) (by first | exact id | exact fun w => wf_filter w _ | exact fun w => wf_foldl_memWrite w _ _ _) (by exact id) (by omega))
    | with_reducible refine kept_next ?_
    | dsimp only

theorem markAccs_kept {s0 : State} {s : State} {n a : Nat} {ts : List Nat} (hk : Kept s0 s) :
    Kept s0 (markAccs s n a ts) := by
  unfold markAccs
  repeat' first
    | with_reducible assumption
    | fail_if_no_progress (with_reducible refine kept_mk ?_)
    | fail_if_no_progress (with_reducible refine kept_all ?_ (by omega) (by first | exact id | exact fun w => wf_filter w _ | exact fun w => wf_foldl_memWrite w _ _ _) (by exact id) (by omega))
    | with_reducible refine kept_next ?_
    | with_reducible refine updArr_kept ?_
    | with_reducible refine kept_foldl (fun t x ht => ?_) ?_
    | with_reducible refine kept_foldl_pair (fun t x ht => ?_) ?_
    | dsimp only

theorem macRun_kept {s0 : State} {s : State} {n a : Nat} {m : MacF} {g : ArrCfg} {c : Cls} {fc fr : Fmt × Bool} (hk : Kept s0 s) :
    Kept s0 (macRun s n a m g c fc fr) := by
  unfold macRun
  repeat' first
    | with_reducible assumption
    | fail_if_no_progress (with_reducible refine kept_mk ?_)
    | fail_if_no_progress (with_reducible refine kept_all ?_ (by omega) (by first | exact id | exact fun w => wf_filter w _ | exact fun w => wf_foldl_memWrite w _ _ _) (by exact id) (by omega))
    | with_reducible refine kept_next ?_
    | with_reducible refine feed_kept ?_
    | with_reducible refine badAddr_kept ?_
    | with_reducible refine errHalt_kept ?_
    | with_reducible refine updArr_kept ?_
    | with_reducible refine arrCount_kept ?_
    | with_reducible refine raiseTimes_kept ?_
    | with_reducible refine markAccs_kept ?_
    | with_reducible refine freeAccs_kept ?_
    | with_reducible refine raise_kept ?_
    | with_reducible refine arrErr_kept ?_
    | with_reducible refine requestTest_kept ?_
    | with_reducible refine fsFail_kept ?_
    | with_reducible refine kept_foldl (fun t x ht => ?_) ?_
    | with_reducible refine kept_foldl_pair (fun t x ht => ?_) ?_
    | (extract_lets +onlyGivenNames x; (first | (refine kept_cut (a := s0) (x := x) ?_ ?_; (on_goal 1 => unfold x); (on_goal 2 => intro hx; clear_value x)) | (refine kept_cut (a := s0) (x := x.1) ?_ ?_; (on_goal 1 => unfold x); (on_goal 2 => intro hx; clear_value x)) | clear_value x))
    | with_reducible refine kept_ite ?_ ?_
    | with_reducible refine keptOut_ite ?_ ?_
    | split
    | dsimp only

theorem macFree_kept {s0 : State} {s : State} {n a : Nat} {m : MacF} {g : ArrCfg} (hk : Kept s0 s) :
    Kept s0 (macFree s n a m g) := by
  unfold macFree
  repeat' first
    | with_reducible assumption
    | fail_if_no_progress (with_reducible refine kept_mk ?_)
    | fail_if_no_progress (with_reducible refine kept_all ?_ (by omega) (by first | exact id | exact fun w => wf_filter w _ | exact fun w => wf_foldl_memWrite w _ _ _) (by exact id) (by omega))
    | with_reducible refine kept_next ?_
    | with_reducible refine fsFail_kept ?_
    | with_reducible refine updArr_kept ?_
    | with_reducible refine draw_kept ?_
    | with_reducible refine freeAccs_kept ?_
    | (extract_lets +onlyGivenNames x; (first | (refine kept_cut (a := s0) (x := x) ?_ ?_; (on_goal 1 => unfold x); (on_goal 2 => intro hx; clear_value x)) | (refine kept_cut (a := s0) (x := x.1) ?_ ?_; (on_goal 1 => unfold x); (on_goal 2 => intro hx; clear_value x)) | clear_value x))
    | with_reducible refine kept_ite ?_ ?_
    | with_reducible refine keptOut_ite ?_ ?_
    | split
    | dsimp only

theorem addDrain_kept {s0 : State} {s : State} {n a : Nat} {d : DrainRun} (hk : Kept s0 s) :
    Kept s0 (addDrain s n a d) := by
  unfold addDrain
  repeat' first
    | with_reducible assumption
    | fail_if_no_progress (with_reducible refine kept_mk ?_)
    | fail_if_no_progress (with_reducible refine kept_all ?_ (by omega) (by first | exact id | exact fun w => wf_filter w _ | exact fun w => wf_foldl_memWrite w _ _ _) (by exact id) (by omega))
    | with_reducible refine kept_next ?_
    | with_reducible refine updArr_kept ?_
    | with_reducible refine draw_kept ?_
    | (extract_lets +onlyGivenNames x; (first | (refine kept_cut (a := s0) (x := x) ?_ ?_; (on_goal 1 => unfold x); (on_goal 2 => intro hx; clear_value x)) | (refine kept_cut (a := s0) (x := x.1) ?_ ?_; (on_goal 1 => unfold x); (on_goal 2 => intro hx; clear_value x)) | clear_value x))
    | with_reducible refine kept_ite ?_ ?_
    | with_reducible refine keptOut_ite ?_ ?_
    | split
    | dsimp only

theorem drainStart_kept {s0 : State} {s : State} {n a : Nat} {f : DrainF} {addr : Nat} {cx : Bool} (hk : Kept s0 s) :
    Kept s0 (drainStart s n a f addr cx) := by
  unfold drainStart
  repeat' first
    | with_reducible assumption
    | fail_if_no_progress (with_reducible refine kept_mk ?_)
    | fail_if_no_progress (with_reducible refine kept_all ?_ (by omega) (by first | exact id | exact fun w => wf_filter w _ | exact fun w => wf_foldl_memWrite w _ _ _) (by exact id) (by omega))
    | with_reducible refine kept_next ?_
    | with_reducible refine fsIf_kept ?_
    | with_reducible refine addDrain_kept ?_
    | (extract_lets +onlyGivenNames x; (first | (refine kept_cut (a := s0) (x := x) ?_ ?_; (on_goal 1 => unfold x); (on_goal 2 => intro hx; clear_value x)) | (refine kept_cut (a := s0) (x := x.1) ?_ ?_; (on_goal 1 => unfold x); (on_goal 2 => intro hx; clear_value x)) | clear_value x))
    | with_reducible refine kept_ite ?_ ?_
    | with_reducible refine keptOut_ite ?_ ?_
    | split
    | dsimp only

theorem checkResult_kept {s0 : State} {s : State} {n a acc : Nat} {row : Bool} {i : Nat} {c : Cmp} (hk : Kept s0 s) :
    Kept s0 (checkResult s n a acc row i c) := by
  unfold checkResult
  repeat' first
    | with_reducible assumption
    | fail_if_no_progress (with_reducible refine kept_mk ?_)
    | fail_if_no_progress (with_reducible refine kept_all ?_ (by omega) (by first | exact id | exact fun w => wf_filter w _ | exact fun w => wf_foldl_memWrite w _ _ _) (by exact id) (by omega))
    | with_reducible refine kept_next ?_
    | with_reducible refine arrCount_kept ?_
    | with_reducible refine updArr_kept ?_
    | with_reducible refine arrErr_kept ?_
    | with_reducible refine raise_kept ?_
    | with_reducible refine errHalt_kept ?_
    | with_reducible refine requestTest_kept ?_
    | (extract_lets +onlyGivenNames x; (first | (refine kept_cut (a := s0) (x := x) ?_ ?_; (on_goal 1 => unfold x); (on_goal 2 => intro hx; clear_value x)) | (refine kept_cut (a := s0) (x := x.1) ?_ ?_; (on_goal 1 => unfold x); (on_goal 2 => intro hx; clear_value x)) | clear_value x))
    | with_reducible refine kept_ite ?_ ?_
    | with_reducible refine keptOut_ite ?_ ?_
    | split
    | dsimp only

theorem sweepAcc_kept {s0 : State} {s : State} {n a acc : Nat} (hk : Kept s0 s) :
    Kept s0 (sweepAcc s n a acc) := by
  unfold sweepAcc
  repeat' first
    | with_reducible assumption
    | fail_if_no_progress (with_reducible refine kept_mk ?_)
    | fail_if_no_progress (with_reducible refine kept_all ?_ (by omega) (by first | exact id | exact fun w => wf_filter w _ | exact fun w => wf_foldl_memWrite w _ _ _) (by exact id) (by omega))
    | with_reducible refine kept_next ?_
    | with_reducible refine updArr_kept ?_
    | with_reducible refine checkResult_kept ?_
    | (extract_lets +onlyGivenNames x; (first | (refine kept_cut (a := s0) (x := x) ?_ ?_; (on_goal 1 => unfold x); (on_goal 2 => intro hx; clear_value x)) | (refine kept_cut (a := s0) (x := x.1) ?_ ?_; (on_goal 1 => unfold x); (on_goal 2 => intro hx; clear_value x)) | clear_value x))
    | with_reducible refine kept_ite ?_ ?_
    | with_reducible refine keptOut_ite ?_ ?_
    | split
    | dsimp only

theorem drainRow_kept {s0 : State} {s : State} {n a : Nat} {d : DrainRun} {i : Nat} (hk : Kept s0 s) :
    Kept s0 (drainRow s n a d i) := by
  unfold drainRow
  repeat' first
    | with_reducible assumption
    | fail_if_no_progress (with_reducible refine kept_mk ?_)
    | fail_if_no_progress (with_reducible refine kept_all ?_ (by omega) (by first | exact id | exact fun w => wf_filter w _ | exact fun w => wf_foldl_memWrite w _ _ _) (by exact id) (by omega))
    | with_reducible refine kept_next ?_
    | with_reducible refine checkResult_kept ?_
    | with_reducible refine cloud_kept ?_
    | with_reducible refine fsIf_kept ?_
    | with_reducible refine readList_kept ?_
    | with_reducible refine errHalt_kept ?_
    | with_reducible refine updStn_kept ?_
    | with_reducible refine countNonFin_kept ?_
    | with_reducible refine schedule_kept ?_
    | (extract_lets +onlyGivenNames x; (first | (refine kept_cut (a := s0) (x := x) ?_ ?_; (on_goal 1 => unfold x); (on_goal 2 => intro hx; clear_value x)) | (refine kept_cut (a := s0) (x := x.1) ?_ ?_; (on_goal 1 => unfold x); (on_goal 2 => intro hx; clear_value x)) | clear_value x))
    | with_reducible refine kept_ite ?_ ?_
    | with_reducible refine keptOut_ite ?_ ?_
    | split
    | dsimp only

theorem columnChecks_kept {s0 : State} {s : State} {n a : Nat} {d : DrainRun} (hk : Kept s0 s) :
    Kept s0 (columnChecks s n a d) := by
  unfold columnChecks
  repeat' first
    | with_reducible assumption
    | fail_if_no_progress (with_reducible refine kept_mk ?_)
    | fail_if_no_progress (with_reducible refine kept_all ?_ (by omega) (by first | exact id | exact fun w => wf_filter w _ | exact fun w => wf_foldl_memWrite w _ _ _) (by exact id) (by omega))
    | with_reducible refine kept_next ?_
    | with_reducible refine checkResult_kept ?_
    | with_reducible refine kept_foldl (fun t x ht => ?_) ?_
    | with_reducible refine kept_foldl_pair (fun t x ht => ?_) ?_
    | with_reducible refine kept_ite ?_ ?_
    | with_reducible refine keptOut_ite ?_ ?_
    | split
    | dsimp only

theorem loaded_kept {s0 : State} {n rd a : Nat} {c : State × List (Nat × Nat) × Nat} {r : ReadOut} (hk : Kept s0 r.s) :
    Kept s0 (loaded n rd a c r) := by
  unfold loaded
  split
  · exact errHalt_kept hk
  · exact putX_kept hk

theorem queueMove_kept {s0 : State} {s : State} {n : Nat} {op : MoveOp} (hk : Kept s0 s) :
    Kept s0 (queueMove s n op) := by
  unfold queueMove
  repeat' first
    | with_reducible assumption
    | fail_if_no_progress (with_reducible refine kept_mk ?_)
    | fail_if_no_progress (with_reducible refine kept_all ?_ (by omega) (by first | exact id | exact fun w => wf_filter w _ | exact fun w => wf_foldl_memWrite w _ _ _) (by exact id) (by omega))
    | with_reducible refine kept_next ?_
    | with_reducible refine updStn_kept ?_
    | with_reducible refine fsFail_kept ?_
    | (extract_lets +onlyGivenNames x; (first | (refine kept_cut (a := s0) (x := x) ?_ ?_; (on_goal 1 => unfold x); (on_goal 2 => intro hx; clear_value x)) | (refine kept_cut (a := s0) (x := x.1) ?_ ?_; (on_goal 1 => unfold x); (on_goal 2 => intro hx; clear_value x)) | clear_value x))
    | with_reducible refine kept_ite ?_ ?_
    | with_reducible refine keptOut_ite ?_ ?_
    | split
    | dsimp only

theorem moveFail_kept {s0 : State} {s : State} {n : Nat} (hk : Kept s0 s) :
    Kept s0 (moveFail s n) := by
  unfold moveFail
  repeat' first
    | with_reducible assumption
    | fail_if_no_progress (with_reducible refine kept_mk ?_)
    | fail_if_no_progress (with_reducible refine kept_all ?_ (by omega) (by first | exact id | exact fun w => wf_filter w _ | exact fun w => wf_foldl_memWrite w _ _ _) (by exact id) (by omega))
    | with_reducible refine kept_next ?_
    | with_reducible refine errHalt_kept ?_
    | with_reducible refine updStn_kept ?_
    | dsimp only

theorem movedUnit_kept {s0 : State} {n dst i a : Nat} {c : State × List (Nat × Nat) × Nat} {r : ReadOut}
    (hk : Kept s0 r.s) : Kept s0 (movedUnit n dst i a c r) := by
  unfold movedUnit
  split
  · exact moveFail_kept hk
  · exact schedule_kept hk

theorem moveUnit_kept {s0 : State} {s : State} {n : Nat} {lbuf : Option (Lane × Nat)} {dst src i : Nat} {spoiled : Option Nat} (hk : Kept s0 s) :
    Kept s0 (moveUnit s n lbuf dst src i spoiled) := by
  unfold moveUnit
  repeat' first
    | with_reducible assumption
    | fail_if_no_progress (with_reducible refine kept_mk ?_)
    | fail_if_no_progress (with_reducible refine kept_all ?_ (by omega) (by first | exact id | exact fun w => wf_filter w _ | exact fun w => wf_foldl_memWrite w _ _ _) (by exact id) (by omega))
    | with_reducible refine kept_next ?_
    | with_reducible refine draw_kept ?_
    | with_reducible refine schedule_kept ?_
    | with_reducible refine cloud_kept ?_
    | with_reducible refine fsIf_kept ?_
    | with_reducible refine movedUnit_kept ?_
    | with_reducible refine readMem_kept ?_
    | (extract_lets +onlyGivenNames x; (first | (refine kept_cut (a := s0) (x := x) ?_ ?_; (on_goal 1 => unfold x); (on_goal 2 => intro hx; clear_value x)) | (refine kept_cut (a := s0) (x := x.1) ?_ ?_; (on_goal 1 => unfold x); (on_goal 2 => intro hx; clear_value x)) | clear_value x))
    | with_reducible refine kept_ite ?_ ?_
    | with_reducible refine keptOut_ite ?_ ?_
    | split
    | dsimp only

theorem cvtUnit_kept {s0 : State} {s : State} {n : Nat} {dst src i fIn : Nat} {sIn : Bool} {fOut : Nat} {sOut stoch prop : Bool} {group : Option Nat} (hk : Kept s0 s) :
    Kept s0 (cvtUnit s n dst src i fIn sIn fOut sOut stoch prop group) := by
  unfold cvtUnit
  repeat' first
    | with_reducible assumption
    | fail_if_no_progress (with_reducible refine kept_mk ?_)
    | fail_if_no_progress (with_reducible refine kept_all ?_ (by omega) (by first | exact id | exact fun w => wf_filter w _ | exact fun w => wf_foldl_memWrite w _ _ _) (by exact id) (by omega))
    | with_reducible refine kept_next ?_
    | with_reducible refine cloud_kept ?_
    | with_reducible refine fsIf_kept ?_
    | with_reducible refine readMem_kept ?_
    | with_reducible refine moveFail_kept ?_
    | with_reducible refine updStn_kept ?_
    | with_reducible refine countNonFin_kept ?_
    | with_reducible refine schedule_kept ?_
    | (extract_lets +onlyGivenNames x; (first | (refine kept_cut (a := s0) (x := x) ?_ ?_; (on_goal 1 => unfold x); (on_goal 2 => intro hx; clear_value x)) | (refine kept_cut (a := s0) (x := x.1) ?_ ?_; (on_goal 1 => unfold x); (on_goal 2 => intro hx; clear_value x)) | clear_value x))
    | with_reducible refine kept_ite ?_ ?_
    | with_reducible refine keptOut_ite ?_ ?_
    | split
    | dsimp only

theorem moveTick_kept {s0 : State} {s : State} {n : Nat} (hk : Kept s0 s) :
    Kept s0 (moveTick s n) := by
  unfold moveTick
  repeat' first
    | with_reducible assumption
    | fail_if_no_progress (with_reducible refine kept_mk ?_)
    | fail_if_no_progress (with_reducible refine kept_all ?_ (by omega) (by first | exact id | exact fun w => wf_filter w _ | exact fun w => wf_foldl_memWrite w _ _ _) (by exact id) (by omega))
    | with_reducible refine kept_next ?_
    | with_reducible refine updStn_kept ?_
    | with_reducible refine moveUnit_kept ?_
    | with_reducible refine cvtUnit_kept ?_
    | (extract_lets +onlyGivenNames x; (first | (refine kept_cut (a := s0) (x := x) ?_ ?_; (on_goal 1 => unfold x); (on_goal 2 => intro hx; clear_value x)) | (refine kept_cut (a := s0) (x := x.1) ?_ ?_; (on_goal 1 => unfold x); (on_goal 2 => intro hx; clear_value x)) | clear_value x))
    | with_reducible refine kept_ite ?_ ?_
    | with_reducible refine keptOut_ite ?_ ?_
    | split
    | dsimp only

end Sys2Proof.Machine
end

