-- ==== Sys2Proof/Laws/KeptUnits.lean ====
section
/-! SUPPORT. What the operations on stream engines, the host port, windows, hurdles and links keep (see Kept). -/
namespace Sys2Proof.Machine
open Sys2Proof
set_option linter.unreachableTactic false
set_option linter.unusedTactic false
set_option linter.unusedVariables false

theorem engReport_kept {s0 : State} {s : State} {g e code : Nat} (hk : Kept s0 s) :
    Kept s0 (engReport s g e code) := by
  unfold engReport
  repeat' first
    | with_reducible assumption
    | fail_if_no_progress (with_reducible refine kept_mk ?_)
    | fail_if_no_progress (with_reducible refine kept_all ?_ (by omega) (by first | exact id | exact fun w => wf_filter w _ | exact fun w => wf_foldl_memWrite w _ _ _) (by exact id) (by omega))
    | with_reducible refine kept_next ?_
    | with_reducible refine errHalt_kept ?_
    | with_reducible refine raise_kept ?_
    | split
    | dsimp only

theorem strErr_kept {s0 : State} {s : State} {g e bit : Nat} (hk : Kept s0 s) :
    Kept s0 (strErr s g e bit) := by
  unfold strErr
  repeat' first
    | with_reducible assumption
    | fail_if_no_progress (with_reducible refine kept_mk ?_)
    | fail_if_no_progress (with_reducible refine kept_all ?_ (by omega) (by first | exact id | exact fun w => wf_filter w _ | exact fun w => wf_foldl_memWrite w _ _ _) (by exact id) (by omega))
    | with_reducible refine kept_next ?_
    | with_reducible refine latch_kept ?_
    | dsimp only

theorem startList_kept {s0 : State} {s : State} {g e addr count : Nat} (hk : Kept s0 s) :
    Kept s0 (startList s g e addr count) := by
  unfold startList
  repeat' first
    | with_reducible assumption
    | fail_if_no_progress (with_reducible refine kept_mk ?_)
    | fail_if_no_progress (with_reducible refine kept_all ?_ (by omega) (by first | exact id | exact fun w => wf_filter w _ | exact fun w => wf_foldl_memWrite w _ _ _) (by exact id) (by omega))
    | with_reducible refine kept_next ?_
    | with_reducible refine updEng_kept ?_
    | with_reducible refine engReport_kept ?_
    | with_reducible refine strErr_kept ?_
    | (extract_lets +onlyGivenNames x; (first | (refine kept_cut (a := s0) (x := x) ?_ ?_; (on_goal 1 => unfold x); (on_goal 2 => intro hx; clear_value x)) | (refine kept_cut (a := s0) (x := x.1) ?_ ?_; (on_goal 1 => unfold x); (on_goal 2 => intro hx; clear_value x)) | clear_value x))
    | with_reducible refine kept_ite ?_ ?_
    | with_reducible refine keptOut_ite ?_ ?_
    | split
    | dsimp only

theorem startRun_kept {s0 : State} {s : State} {g e base : Nat} (hk : Kept s0 s) :
    Kept s0 (startRun s g e base) := by
  unfold startRun
  repeat' first
    | with_reducible assumption
    | fail_if_no_progress (with_reducible refine kept_mk ?_)
    | fail_if_no_progress (with_reducible refine kept_all ?_ (by omega) (by first | exact id | exact fun w => wf_filter w _ | exact fun w => wf_foldl_memWrite w _ _ _) (by exact id) (by omega))
    | with_reducible refine kept_next ?_
    | with_reducible refine updEng_kept ?_
    | (extract_lets +onlyGivenNames x; (first | (refine kept_cut (a := s0) (x := x) ?_ ?_; (on_goal 1 => unfold x); (on_goal 2 => intro hx; clear_value x)) | (refine kept_cut (a := s0) (x := x.1) ?_ ?_; (on_goal 1 => unfold x); (on_goal 2 => intro hx; clear_value x)) | clear_value x))
    | with_reducible refine kept_ite ?_ ?_
    | with_reducible refine keptOut_ite ?_ ?_
    | split
    | dsimp only

theorem refuse_kept {s0 : State} {s : State} {g e : Nat} (hk : Kept s0 s) :
    Kept s0 (refuse s g e) := by
  unfold refuse
  repeat' first
    | with_reducible assumption
    | fail_if_no_progress (with_reducible refine kept_mk ?_)
    | fail_if_no_progress (with_reducible refine kept_all ?_ (by omega) (by first | exact id | exact fun w => wf_filter w _ | exact fun w => wf_foldl_memWrite w _ _ _) (by exact id) (by omega))
    | with_reducible refine kept_next ?_
    | with_reducible refine engReport_kept ?_
    | with_reducible refine strErr_kept ?_
    | dsimp only

theorem strmOn_kept {s0 : State} {s : State} {g e addr count : Nat} (hk : Kept s0 s) :
    Kept s0 (strmOn s g e addr count) := by
  unfold strmOn
  repeat' first
    | with_reducible assumption
    | fail_if_no_progress (with_reducible refine kept_mk ?_)
    | fail_if_no_progress (with_reducible refine kept_all ?_ (by omega) (by first | exact id | exact fun w => wf_filter w _ | exact fun w => wf_foldl_memWrite w _ _ _) (by exact id) (by omega))
    | with_reducible refine kept_next ?_
    | with_reducible refine refuse_kept ?_
    | with_reducible refine startList_kept ?_
    | with_reducible refine updEng_kept ?_
    | (extract_lets +onlyGivenNames x; (first | (refine kept_cut (a := s0) (x := x) ?_ ?_; (on_goal 1 => unfold x); (on_goal 2 => intro hx; clear_value x)) | (refine kept_cut (a := s0) (x := x.1) ?_ ?_; (on_goal 1 => unfold x); (on_goal 2 => intro hx; clear_value x)) | clear_value x))
    | with_reducible refine kept_ite ?_ ?_
    | with_reducible refine keptOut_ite ?_ ?_
    | split
    | dsimp only

theorem rearmOn_kept {s0 : State} {s : State} {g e base : Nat} (hk : Kept s0 s) :
    Kept s0 (rearmOn s g e base) := by
  unfold rearmOn
  repeat' first
    | with_reducible assumption
    | fail_if_no_progress (with_reducible refine kept_mk ?_)
    | fail_if_no_progress (with_reducible refine kept_all ?_ (by omega) (by first | exact id | exact fun w => wf_filter w _ | exact fun w => wf_foldl_memWrite w _ _ _) (by exact id) (by omega))
    | with_reducible refine kept_next ?_
    | with_reducible refine refuse_kept ?_
    | with_reducible refine startRun_kept ?_
    | with_reducible refine updEng_kept ?_
    | (extract_lets +onlyGivenNames x; (first | (refine kept_cut (a := s0) (x := x) ?_ ?_; (on_goal 1 => unfold x); (on_goal 2 => intro hx; clear_value x)) | (refine kept_cut (a := s0) (x := x.1) ?_ ?_; (on_goal 1 => unfold x); (on_goal 2 => intro hx; clear_value x)) | clear_value x))
    | with_reducible refine kept_ite ?_ ?_
    | with_reducible refine keptOut_ite ?_ ?_
    | split
    | dsimp only

theorem notBound_kept {s0 : State} {s : State} {n : Nat} (hk : Kept s0 s) :
    Kept s0 (notBound s n) := by
  unfold notBound
  repeat' first
    | with_reducible assumption
    | fail_if_no_progress (with_reducible refine kept_mk ?_)
    | fail_if_no_progress (with_reducible refine kept_all ?_ (by omega) (by first | exact id | exact fun w => wf_filter w _ | exact fun w => wf_foldl_memWrite w _ _ _) (by exact id) (by omega))
    | with_reducible refine kept_next ?_
    | with_reducible refine errHalt_kept ?_
    | with_reducible refine raise_kept ?_
    | dsimp only

theorem doneAction_kept {s0 : State} {s : State} {g e : Nat} {d : Desc} (hk : Kept s0 s) :
    Kept s0 (doneAction s g e d) := by
  unfold doneAction
  repeat' first
    | with_reducible assumption
    | fail_if_no_progress (with_reducible refine kept_mk ?_)
    | fail_if_no_progress (with_reducible refine kept_all ?_ (by omega) (by first | exact id | exact fun w => wf_filter w _ | exact fun w => wf_foldl_memWrite w _ _ _) (by exact id) (by omega))
    | with_reducible refine kept_next ?_
    | with_reducible refine hurErr_kept ?_
    | with_reducible refine engReport_kept ?_
    | with_reducible refine signalTo_kept ?_
    | (extract_lets +onlyGivenNames x; (first | (refine kept_cut (a := s0) (x := x) ?_ ?_; (on_goal 1 => unfold x); (on_goal 2 => intro hx; clear_value x)) | (refine kept_cut (a := s0) (x := x.1) ?_ ?_; (on_goal 1 => unfold x); (on_goal 2 => intro hx; clear_value x)) | clear_value x))
    | with_reducible refine kept_ite ?_ ?_
    | with_reducible refine keptOut_ite ?_ ?_
    | split
    | dsimp only

theorem notStarted_kept {s0 : State} {s : State} {x : Engine} (hk : Kept s0 s) :
    Kept s0 (notStarted s x).1 := by
  unfold notStarted
  repeat' first
    | with_reducible assumption
    | fail_if_no_progress (with_reducible refine kept_mk ?_)
    | fail_if_no_progress (with_reducible refine kept_all ?_ (by omega) (by first | exact id | exact fun w => wf_filter w _ | exact fun w => wf_foldl_memWrite w _ _ _) (by exact id) (by omega))
    | with_reducible refine kept_next ?_
    | with_reducible refine readMem_kept ?_
    | (extract_lets +onlyGivenNames x; (first | (refine kept_cut (a := s0) (x := x) ?_ ?_; (on_goal 1 => unfold x); (on_goal 2 => intro hx; clear_value x)) | (refine kept_cut (a := s0) (x := x.1) ?_ ?_; (on_goal 1 => unfold x); (on_goal 2 => intro hx; clear_value x)) | clear_value x))
    | split
    | dsimp only

theorem abandon_kept {s0 : State} {s : State} {g e : Nat} {ds : List Desc} (hk : Kept s0 s) :
    Kept s0 (abandon s g e ds) := by
  unfold abandon
  repeat' first
    | with_reducible assumption
    | fail_if_no_progress (with_reducible refine kept_mk ?_)
    | fail_if_no_progress (with_reducible refine kept_all ?_ (by omega) (by first | exact id | exact fun w => wf_filter w _ | exact fun w => wf_foldl_memWrite w _ _ _) (by exact id) (by omega))
    | with_reducible refine kept_next ?_
    | with_reducible refine updEng_kept ?_
    | with_reducible refine doneAction_kept ?_
    | with_reducible refine kept_foldl (fun t x ht => ?_) ?_
    | with_reducible refine kept_foldl_pair (fun t x ht => ?_) ?_
    | (extract_lets +onlyGivenNames x; (first | (refine kept_cut (a := s0) (x := x) ?_ ?_; (on_goal 1 => unfold x); (on_goal 2 => intro hx; clear_value x)) | (refine kept_cut (a := s0) (x := x.1) ?_ ?_; (on_goal 1 => unfold x); (on_goal 2 => intro hx; clear_value x)) | clear_value x))
    | dsimp only

theorem endList_kept {s0 : State} {s : State} {g e st : Nat} {x : Engine} (hk : Kept s0 s) :
    Kept s0 (endList s g e st x) := by
  unfold endList
  repeat' first
    | with_reducible assumption
    | fail_if_no_progress (with_reducible refine kept_mk ?_)
    | fail_if_no_progress (with_reducible refine kept_all ?_ (by omega) (by first | exact id | exact fun w => wf_filter w _ | exact fun w => wf_foldl_memWrite w _ _ _) (by exact id) (by omega))
    | with_reducible refine kept_next ?_
    | with_reducible refine updEng_kept ?_
    | with_reducible refine engReport_kept ?_
    | with_reducible refine strErr_kept ?_
    | with_reducible refine abandon_kept ?_
    | (extract_lets +onlyGivenNames x; (first | (refine kept_cut (a := s0) (x := x) ?_ ?_; (on_goal 1 => unfold x); (on_goal 2 => intro hx; clear_value x)) | (refine kept_cut (a := s0) (x := x.1) ?_ ?_; (on_goal 1 => unfold x); (on_goal 2 => intro hx; clear_value x)) | clear_value x))
    | dsimp only

theorem oflWrite_kept {s0 : State} {n : Nat} {s : State} {c i : Nat} {bs : List Byte} (hk : Kept s0 s) :
    Kept s0 (oflWrite s c i n bs) := by
  induction n generalizing s i bs with
  | zero => exact hk
  | succ n ih =>
    unfold oflWrite
    repeat' first
      | with_reducible assumption
      | fail_if_no_progress (with_reducible refine kept_mk ?_)
      | fail_if_no_progress (with_reducible refine kept_all ?_ (by omega) (by first | exact id | exact fun w => wf_filter w _ | exact fun w => wf_foldl_memWrite w _ _ _) (by exact id) (by omega))
      | with_reducible refine kept_next ?_
      | with_reducible refine ih ?_
      | with_reducible refine hostWrite_kept ?_
      | with_reducible refine bump_kept ?_
      | (extract_lets +onlyGivenNames x; (first | (refine kept_cut (a := s0) (x := x) ?_ ?_; (on_goal 1 => unfold x); (on_goal 2 => intro hx; clear_value x)) | (refine kept_cut (a := s0) (x := x.1) ?_ ?_; (on_goal 1 => unfold x); (on_goal 2 => intro hx; clear_value x)) | clear_value x))
      | split
      | dsimp only

theorem updRun_kept {s0 : State} {s : State} {g e i : Nat} {f : DescRun → DescRun} (hk : Kept s0 s) :
    Kept s0 (updRun s g e i f) := by
  unfold updRun
  repeat' first
    | with_reducible assumption
    | fail_if_no_progress (with_reducible refine kept_mk ?_)
    | fail_if_no_progress (with_reducible refine kept_all ?_ (by omega) (by first | exact id | exact fun w => wf_filter w _ | exact fun w => wf_foldl_memWrite w _ _ _) (by exact id) (by omega))
    | with_reducible refine kept_next ?_
    | with_reducible refine updEng_kept ?_
    | dsimp only

theorem winSend_kept {s0 : State} {n : Nat} {s : State} {g e i w : Nat} {write : Bool} {off len : Nat} {bs : List Byte}
    (hk : Kept s0 s) : Kept s0 (winSend s g e i w write off n len bs) := by
  induction n generalizing s off len bs with
  | zero => exact hk
  | succ n ih =>
    unfold winSend
    repeat' first
      | with_reducible assumption
      | fail_if_no_progress (with_reducible refine kept_mk ?_)
      | fail_if_no_progress (with_reducible refine kept_all ?_ (by omega) (by first | exact id | exact fun w => wf_filter w _ | exact fun w => wf_foldl_memWrite w _ _ _) (by exact id) (by omega))
      | with_reducible refine kept_next ?_
      | with_reducible refine ih ?_
      | with_reducible refine sendMsg_kept ?_
      | with_reducible refine updRun_kept ?_
      | (extract_lets +onlyGivenNames x; (first | (refine kept_cut (a := s0) (x := x) ?_ ?_; (on_goal 1 => unfold x); (on_goal 2 => intro hx; clear_value x)) | (refine kept_cut (a := s0) (x := x.1) ?_ ?_; (on_goal 1 => unfold x); (on_goal 2 => intro hx; clear_value x)) | clear_value x))
      | split
      | dsimp only

theorem toGateway_kept {s0 : State} {s : State} {gw : Nat} {c : Chunk} (hk : Kept s0 s) :
    Kept s0 (toGateway s gw c) := by
  unfold toGateway
  repeat' first
    | with_reducible assumption
    | fail_if_no_progress (with_reducible refine kept_mk ?_)
    | fail_if_no_progress (with_reducible refine kept_all ?_ (by omega) (by first | exact id | exact fun w => wf_filter w _ | exact fun w => wf_foldl_memWrite w _ _ _) (by exact id) (by omega))
    | with_reducible refine kept_next ?_
    | dsimp only

theorem sourceBytes_kept {s0 : State} {s : State} {g e : Nat} {d : Desc} (hk : Kept s0 s) :
    Kept s0 (sourceBytes s g e d).1 := by
  unfold sourceBytes
  repeat' first
    | with_reducible assumption
    | fail_if_no_progress (with_reducible refine kept_mk ?_)
    | fail_if_no_progress (with_reducible refine kept_all ?_ (by omega) (by first | exact id | exact fun w => wf_filter w _ | exact fun w => wf_foldl_memWrite w _ _ _) (by exact id) (by omega))
    | with_reducible refine kept_next ?_
    | with_reducible refine murk_kept ?_
    | with_reducible refine readMem_kept ?_
    | (extract_lets +onlyGivenNames x; (first | (refine kept_cut (a := s0) (x := x) ?_ ?_; (on_goal 1 => unfold x); (on_goal 2 => intro hx; clear_value x)) | (refine kept_cut (a := s0) (x := x.1) ?_ ?_; (on_goal 1 => unfold x); (on_goal 2 => intro hx; clear_value x)) | clear_value x))
    | with_reducible refine kept_ite ?_ ?_
    | with_reducible refine keptOut_ite ?_ ?_
    | split
    | dsimp only

theorem endRun_kept {s0 : State} {s : State} {g e i st ev : Nat} (hk : Kept s0 s) :
    Kept s0 (endRun s g e i st ev) := by
  unfold endRun
  repeat' first
    | with_reducible assumption
    | fail_if_no_progress (with_reducible refine kept_mk ?_)
    | fail_if_no_progress (with_reducible refine kept_all ?_ (by omega) (by first | exact id | exact fun w => wf_filter w _ | exact fun w => wf_foldl_memWrite w _ _ _) (by exact id) (by omega))
    | with_reducible refine kept_next ?_
    | with_reducible refine updRun_kept ?_
    | with_reducible refine kept_ite ?_ ?_
    | with_reducible refine keptOut_ite ?_ ?_
    | split
    | dsimp only

theorem writeLate_kept {s0 : State} {s : State} {g e i a : Nat} {bs : List Byte} (hk : Kept s0 s) :
    Kept s0 (writeLate s g e i a bs) := by
  unfold writeLate
  repeat' first
    | with_reducible assumption
    | fail_if_no_progress (with_reducible refine kept_mk ?_)
    | fail_if_no_progress (with_reducible refine kept_all ?_ (by omega) (by first | exact id | exact fun w => wf_filter w _ | exact fun w => wf_foldl_memWrite w _ _ _) (by exact id) (by omega))
    | with_reducible refine kept_next ?_
    | with_reducible refine draw_kept ?_
    | with_reducible refine updRun_kept ?_
    | with_reducible refine putMem_kept ?_
    | with_reducible refine touch_kept ?_
    | (extract_lets +onlyGivenNames x; (first | (refine kept_cut (a := s0) (x := x) ?_ ?_; (on_goal 1 => unfold x); (on_goal 2 => intro hx; clear_value x)) | (refine kept_cut (a := s0) (x := x.1) ?_ ?_; (on_goal 1 => unfold x); (on_goal 2 => intro hx; clear_value x)) | clear_value x))
    | dsimp only

theorem openRange_kept {s0 : State} {s : State} {g e i : Nat} {d : Desc} (hk : Kept s0 s) :
    Kept s0 (openRange s g e i d) := by
  unfold openRange
  repeat' first
    | with_reducible assumption
    | fail_if_no_progress (with_reducible refine kept_mk ?_)
    | fail_if_no_progress (with_reducible refine kept_all ?_ (by omega) (by first | exact id | exact fun w => wf_filter w _ | exact fun w => wf_foldl_memWrite w _ _ _) (by exact id) (by omega))
    | with_reducible refine kept_next ?_
    | with_reducible refine updRun_kept ?_
    | with_reducible refine kept_ite ?_ ?_
    | with_reducible refine keptOut_ite ?_ ?_
    | split
    | dsimp only

theorem deliverDesc_kept {s0 : State} {s : State} {g e i : Nat} {d : Desc} {bs : List Byte} {failed : Bool} (hk : Kept s0 s) :
    Kept s0 (deliverDesc s g e i d bs failed) := by
  unfold deliverDesc
  repeat' first
    | with_reducible assumption
    | fail_if_no_progress (with_reducible refine kept_mk ?_)
    | fail_if_no_progress (with_reducible refine kept_all ?_ (by omega) (by first | exact id | exact fun w => wf_filter w _ | exact fun w => wf_foldl_memWrite w _ _ _) (by exact id) (by omega))
    | with_reducible refine kept_next ?_
    | with_reducible refine endRun_kept ?_
    | with_reducible refine openRange_kept ?_
    | with_reducible refine writeLate_kept ?_
    | with_reducible refine updRun_kept ?_
    | with_reducible refine oflWrite_kept ?_
    | with_reducible refine winSend_kept ?_
    | with_reducible refine toGateway_kept ?_
    | (extract_lets +onlyGivenNames x; (first | (refine kept_cut (a := s0) (x := x) ?_ ?_; (on_goal 1 => unfold x); (on_goal 2 => intro hx; clear_value x)) | (refine kept_cut (a := s0) (x := x.1) ?_ ?_; (on_goal 1 => unfold x); (on_goal 2 => intro hx; clear_value x)) | clear_value x))
    | with_reducible refine kept_ite ?_ ?_
    | with_reducible refine keptOut_ite ?_ ?_
    | split
    | dsimp only

theorem moveDesc_kept {s0 : State} {s : State} {g e i : Nat} {d : Desc} (hk : Kept s0 s) :
    Kept s0 (moveDesc s g e i d) := by
  unfold moveDesc
  repeat' first
    | with_reducible assumption
    | fail_if_no_progress (with_reducible refine kept_mk ?_)
    | fail_if_no_progress (with_reducible refine kept_all ?_ (by omega) (by first | exact id | exact fun w => wf_filter w _ | exact fun w => wf_foldl_memWrite w _ _ _) (by exact id) (by omega))
    | with_reducible refine kept_next ?_
    | with_reducible refine updRun_kept ?_
    | with_reducible refine openRange_kept ?_
    | with_reducible refine winSend_kept ?_
    | with_reducible refine sourceBytes_kept ?_
    | with_reducible refine deliverDesc_kept ?_
    | (extract_lets +onlyGivenNames x; (first | (refine kept_cut (a := s0) (x := x) ?_ ?_; (on_goal 1 => unfold x); (on_goal 2 => intro hx; clear_value x)) | (refine kept_cut (a := s0) (x := x.1) ?_ ?_; (on_goal 1 => unfold x); (on_goal 2 => intro hx; clear_value x)) | clear_value x))
    | with_reducible refine kept_ite ?_ ?_
    | with_reducible refine keptOut_ite ?_ ?_
    | split
    | dsimp only

theorem markEvent_kept {s0 : State} {s : State} {d : Desc} {ev : Nat} (hk : Kept s0 s) :
    Kept s0 (markEvent s d ev) := by
  unfold markEvent
  repeat' first
    | with_reducible assumption
    | fail_if_no_progress (with_reducible refine kept_mk ?_)
    | fail_if_no_progress (with_reducible refine kept_all ?_ (by omega) (by first | exact id | exact fun w => wf_filter w _ | exact fun w => wf_foldl_memWrite w _ _ _) (by exact id) (by omega))
    | with_reducible refine kept_next ?_
    | with_reducible refine setReg_kept ?_
    | dsimp only
    | (extract_lets +onlyGivenNames x; (first | (refine kept_cut (a := s0) (x := x) ?_ ?_; (on_goal 1 => unfold x); (on_goal 2 => intro hx; clear_value x)) | (refine kept_cut (a := s0) (x := x.1) ?_ ?_; (on_goal 1 => unfold x); (on_goal 2 => intro hx; clear_value x)) | clear_value x))
    | with_reducible refine kept_ite ?_ ?_
    | with_reducible refine keptOut_ite ?_ ?_
    | split

theorem landLate_kept {s0 : State} {s : State} {r : DescRun} (hk : Kept s0 s) :
    Kept s0 (landLate s r) := by
  unfold landLate
  repeat' first
    | with_reducible assumption
    | fail_if_no_progress (with_reducible refine kept_mk ?_)
    | fail_if_no_progress (with_reducible refine kept_all ?_ (by omega) (by first | exact id | exact fun w => wf_filter w _ | exact fun w => wf_foldl_memWrite w _ _ _) (by exact id) (by omega))
    | with_reducible refine kept_next ?_
    | with_reducible refine writeMem_kept ?_
    | with_reducible refine putMem_kept ?_
    | (extract_lets +onlyGivenNames x; (first | (refine kept_cut (a := s0) (x := x) ?_ ?_; (on_goal 1 => unfold x); (on_goal 2 => intro hx; clear_value x)) | (refine kept_cut (a := s0) (x := x.1) ?_ ?_; (on_goal 1 => unfold x); (on_goal 2 => intro hx; clear_value x)) | clear_value x))
    | with_reducible refine kept_ite ?_ ?_
    | with_reducible refine keptOut_ite ?_ ?_
    | split
    | dsimp only

theorem deadDest_kept {s0 : State} {s : State} {r : DescRun} (hk : Kept s0 s) :
    Kept s0 (deadDest s r) := by
  unfold deadDest
  repeat' first
    | with_reducible assumption
    | fail_if_no_progress (with_reducible refine kept_mk ?_)
    | fail_if_no_progress (with_reducible refine kept_all ?_ (by omega) (by first | exact id | exact fun w => wf_filter w _ | exact fun w => wf_foldl_memWrite w _ _ _) (by exact id) (by omega))
    | with_reducible refine kept_next ?_
    | with_reducible refine undefMem_kept ?_
    | with_reducible refine kept_foldl (fun t x ht => ?_) ?_
    | with_reducible refine kept_foldl_pair (fun t x ht => ?_) ?_
    | with_reducible refine kept_ite ?_ ?_
    | with_reducible refine keptOut_ite ?_ ?_
    | split
    | dsimp only

theorem updQp_kept {s0 : State} {s : State} {q : Nat} {f : Qp → Qp} (hk : Kept s0 s) :
    Kept s0 (updQp s q f) := by
  unfold updQp
  repeat' first
    | with_reducible assumption
    | fail_if_no_progress (with_reducible refine kept_mk ?_)
    | fail_if_no_progress (with_reducible refine kept_all ?_ (by omega) (by first | exact id | exact fun w => wf_filter w _ | exact fun w => wf_foldl_memWrite w _ _ _) (by exact id) (by omega))
    | with_reducible refine kept_next ?_
    | dsimp only

theorem setBit_kept {s0 : State} {s : State} {k b : Nat} (hk : Kept s0 s) :
    Kept s0 (setBit s k b) := by
  unfold setBit
  repeat' first
    | with_reducible assumption
    | fail_if_no_progress (with_reducible refine kept_mk ?_)
    | fail_if_no_progress (with_reducible refine kept_all ?_ (by omega) (by first | exact id | exact fun w => wf_filter w _ | exact fun w => wf_foldl_memWrite w _ _ _) (by exact id) (by omega))
    | with_reducible refine kept_next ?_
    | with_reducible refine setReg_kept ?_
    | dsimp only

theorem deliver_kept {s0 : State} {s : State} {p : Post} (hk : Kept s0 s) : Kept s0 (deliver s p) := by
  cases p
  · exact hostWrite_kept hk
  · exact hostWrite_kept hk

theorem post_kept {s0 : State} {s : State} {p : Post} (hk : Kept s0 s) :
    Kept s0 (post s p) := by
  unfold post
  repeat' first
    | with_reducible assumption
    | fail_if_no_progress (with_reducible refine kept_mk ?_)
    | fail_if_no_progress (with_reducible refine kept_all ?_ (by omega) (by first | exact id | exact fun w => wf_filter w _ | exact fun w => wf_foldl_memWrite w _ _ _) (by exact id) (by omega))
    | with_reducible refine kept_next ?_
    | with_reducible refine deliver_kept ?_
    | with_reducible refine kept_ite ?_ ?_
    | with_reducible refine keptOut_ite ?_ ?_
    | split
    | dsimp only

theorem needVector_kept {s0 : State} {s : State} {v : Nat} (hk : Kept s0 s) :
    Kept s0 (needVector s v) := by
  unfold needVector
  repeat' first
    | with_reducible assumption
    | fail_if_no_progress (with_reducible refine kept_mk ?_)
    | fail_if_no_progress (with_reducible refine kept_all ?_ (by omega) (by first | exact id | exact fun w => wf_filter w _ | exact fun w => wf_foldl_memWrite w _ _ _) (by exact id) (by omega))
    | with_reducible refine kept_next ?_
    | with_reducible refine kept_ite ?_ ?_
    | with_reducible refine keptOut_ite ?_ ?_
    | split
    | dsimp only

theorem postCq_kept {s0 : State} {s : State} {q cid st first result : Nat} (hk : Kept s0 s) :
    Kept s0 (postCq s q cid st first result) := by
  unfold postCq
  repeat' first
    | with_reducible assumption
    | fail_if_no_progress (with_reducible refine kept_mk ?_)
    | fail_if_no_progress (with_reducible refine kept_all ?_ (by omega) (by first | exact id | exact fun w => wf_filter w _ | exact fun w => wf_foldl_memWrite w _ _ _) (by exact id) (by omega))
    | with_reducible refine kept_next ?_
    | with_reducible refine post_kept ?_
    | with_reducible refine updQp_kept ?_
    | with_reducible refine needVector_kept ?_
    | (extract_lets +onlyGivenNames x; (first | (refine kept_cut (a := s0) (x := x) ?_ ?_; (on_goal 1 => unfold x); (on_goal 2 => intro hx; clear_value x)) | (refine kept_cut (a := s0) (x := x.1) ?_ ?_; (on_goal 1 => unfold x); (on_goal 2 => intro hx; clear_value x)) | clear_value x))
    | with_reducible refine kept_ite ?_ ?_
    | with_reducible refine keptOut_ite ?_ ?_
    | split
    | dsimp only

theorem complete_kept {s0 : State} {s : State} {src : Src} {st result : Nat} (hk : Kept s0 s) :
    Kept s0 (complete s src st result) := by
  unfold complete
  repeat' first
    | with_reducible assumption
    | fail_if_no_progress (with_reducible refine kept_mk ?_)
    | fail_if_no_progress (with_reducible refine kept_all ?_ (by omega) (by first | exact id | exact fun w => wf_filter w _ | exact fun w => wf_foldl_memWrite w _ _ _) (by exact id) (by omega))
    | with_reducible refine kept_next ?_
    | with_reducible refine updQp_kept ?_
    | with_reducible refine postCq_kept ?_
    | with_reducible refine kept_foldl (fun t x ht => ?_) ?_
    | with_reducible refine kept_foldl_pair (fun t x ht => ?_) ?_
    | (extract_lets +onlyGivenNames x; (first | (refine kept_cut (a := s0) (x := x) ?_ ?_; (on_goal 1 => unfold x); (on_goal 2 => intro hx; clear_value x)) | (refine kept_cut (a := s0) (x := x.1) ?_ ?_; (on_goal 1 => unfold x); (on_goal 2 => intro hx; clear_value x)) | clear_value x))
    | with_reducible refine kept_ite ?_ ?_
    | with_reducible refine keptOut_ite ?_ ?_
    | split
    | dsimp only

theorem command_kept {s0 : State} {src : Src} {c : CmdClass} {supply : Bool} {s : State} {f : State → Out} (hk : Kept s0 s) (k : ∀ t, Kept s0 t → KeptOut s0 (f t)) :
    KeptOut s0 (command src c supply s f) := by
  unfold command
  repeat' first
    | with_reducible assumption
    | fail_if_no_progress (with_reducible refine kept_mk ?_)
    | fail_if_no_progress (with_reducible refine kept_all ?_ (by omega) (by first | exact id | exact fun w => wf_filter w _ | exact fun w => wf_foldl_memWrite w _ _ _) (by exact id) (by omega))
    | with_reducible refine kept_next ?_
    | with_reducible refine complete_kept ?_
    | with_reducible refine k _ ?_
    | with_reducible refine k _ _ ?_
    | with_reducible refine kept_ite ?_ ?_
    | with_reducible refine keptOut_ite ?_ ?_
    | split
    | dsimp only

theorem dmaFault_kept {s0 : State} {s : State} {src : Src} (hk : Kept s0 s) :
    Kept s0 (dmaFault s src) := by
  unfold dmaFault
  repeat' first
    | with_reducible assumption
    | fail_if_no_progress (with_reducible refine kept_mk ?_)
    | fail_if_no_progress (with_reducible refine kept_all ?_ (by omega) (by first | exact id | exact fun w => wf_filter w _ | exact fun w => wf_foldl_memWrite w _ _ _) (by exact id) (by omega))
    | with_reducible refine kept_next ?_
    | with_reducible refine complete_kept ?_
    | with_reducible refine raise_kept ?_
    | with_reducible refine setBit_kept ?_
    | dsimp only

theorem writeFault_kept {s0 : State} {s : State} {src : Src} {a len : Nat} (hk : Kept s0 s) :
    Kept s0 (writeFault s src a len) := by
  unfold writeFault
  repeat' first
    | with_reducible assumption
    | fail_if_no_progress (with_reducible refine kept_mk ?_)
    | fail_if_no_progress (with_reducible refine kept_all ?_ (by omega) (by first | exact id | exact fun w => wf_filter w _ | exact fun w => wf_foldl_memWrite w _ _ _) (by exact id) (by omega))
    | with_reducible refine kept_next ?_
    | with_reducible refine dmaFault_kept ?_
    | with_reducible refine undefHost_kept ?_
    | dsimp only

theorem toHost_kept {s0 : State} {s : State} {src : Src} {a : Nat} {bs : List Byte} {f : State → State} (hk : Kept s0 s) (k : ∀ t, Kept s0 t → Kept s0 (f t)) :
    KeptOut s0 (toHost s src a bs f) := by
  unfold toHost
  repeat' first
    | with_reducible assumption
    | fail_if_no_progress (with_reducible refine kept_mk ?_)
    | fail_if_no_progress (with_reducible refine kept_all ?_ (by omega) (by first | exact id | exact fun w => wf_filter w _ | exact fun w => wf_foldl_memWrite w _ _ _) (by exact id) (by omega))
    | with_reducible refine kept_next ?_
    | with_reducible refine writeFault_kept ?_
    | with_reducible refine hostWrite_kept ?_
    | with_reducible refine k _ ?_
    | with_reducible refine k _ _ ?_
    | with_reducible refine kept_ite ?_ ?_
    | with_reducible refine keptOut_ite ?_ ?_
    | split
    | dsimp only

theorem egressRecord_kept {s0 : State} {s : State} {source i : Nat} {plain : List Byte} (hk : Kept s0 s) :
    Kept s0 (egressRecord s source i plain).1 := by
  unfold egressRecord
  repeat' first
    | with_reducible assumption
    | fail_if_no_progress (with_reducible refine kept_mk ?_)
    | fail_if_no_progress (with_reducible refine kept_all ?_ (by omega) (by first | exact id | exact fun w => wf_filter w _ | exact fun w => wf_foldl_memWrite w _ _ _) (by exact id) (by omega))
    | with_reducible refine kept_next ?_
    | (extract_lets +onlyGivenNames x; (first | (refine kept_cut (a := s0) (x := x) ?_ ?_; (on_goal 1 => unfold x); (on_goal 2 => intro hx; clear_value x)) | (refine kept_cut (a := s0) (x := x.1) ?_ ?_; (on_goal 1 => unfold x); (on_goal 2 => intro hx; clear_value x)) | clear_value x))
    | dsimp only

theorem badAccess_kept {s0 : State} {s : State} (hk : Kept s0 s) :
    Kept s0 (badAccess s) := by
  unfold badAccess
  repeat' first
    | with_reducible assumption
    | fail_if_no_progress (with_reducible refine kept_mk ?_)
    | fail_if_no_progress (with_reducible refine kept_all ?_ (by omega) (by first | exact id | exact fun w => wf_filter w _ | exact fun w => wf_foldl_memWrite w _ _ _) (by exact id) (by omega))
    | with_reducible refine kept_next ?_
    | with_reducible refine raise_kept ?_
    | with_reducible refine setBit_kept ?_
    | dsimp only

theorem execCmdSqTail_kept {s0 : State} {q value : Nat} {s : State} (hk : Kept s0 s) :
    KeptOut s0 (execCmdSqTail q value s) := by
  unfold execCmdSqTail
  repeat' first
    | with_reducible assumption
    | fail_if_no_progress (with_reducible refine kept_mk ?_)
    | fail_if_no_progress (with_reducible refine kept_all ?_ (by omega) (by first | exact id | exact fun w => wf_filter w _ | exact fun w => wf_foldl_memWrite w _ _ _) (by exact id) (by omega))
    | with_reducible refine kept_next ?_
    | with_reducible refine badAccess_kept ?_
    | with_reducible refine updQp_kept ?_
    | with_reducible refine kept_ite ?_ ?_
    | with_reducible refine keptOut_ite ?_ ?_
    | split
    | dsimp only

theorem execCmdCqHead_kept {s0 : State} {q value : Nat} {s : State} (hk : Kept s0 s) :
    KeptOut s0 (execCmdCqHead q value s) := by
  unfold execCmdCqHead
  repeat' first
    | with_reducible assumption
    | fail_if_no_progress (with_reducible refine kept_mk ?_)
    | fail_if_no_progress (with_reducible refine kept_all ?_ (by omega) (by first | exact id | exact fun w => wf_filter w _ | exact fun w => wf_foldl_memWrite w _ _ _) (by exact id) (by omega))
    | with_reducible refine kept_next ?_
    | with_reducible refine badAccess_kept ?_
    | with_reducible refine updQp_kept ?_
    | (extract_lets +onlyGivenNames x; (first | (refine kept_cut (a := s0) (x := x) ?_ ?_; (on_goal 1 => unfold x); (on_goal 2 => intro hx; clear_value x)) | (refine kept_cut (a := s0) (x := x.1) ?_ ?_; (on_goal 1 => unfold x); (on_goal 2 => intro hx; clear_value x)) | clear_value x))
    | with_reducible refine kept_ite ?_ ?_
    | with_reducible refine keptOut_ite ?_ ?_
    | split
    | dsimp only

theorem execCmdEvtHead_kept {s0 : State} {value : Nat} {s : State} (hk : Kept s0 s) :
    KeptOut s0 (execCmdEvtHead value s) := by
  unfold execCmdEvtHead
  repeat' first
    | with_reducible assumption
    | fail_if_no_progress (with_reducible refine kept_mk ?_)
    | fail_if_no_progress (with_reducible refine kept_all ?_ (by omega) (by first | exact id | exact fun w => wf_filter w _ | exact fun w => wf_foldl_memWrite w _ _ _) (by exact id) (by omega))
    | with_reducible refine kept_next ?_
    | with_reducible refine badAccess_kept ?_
    | (extract_lets +onlyGivenNames x; (first | (refine kept_cut (a := s0) (x := x) ?_ ?_; (on_goal 1 => unfold x); (on_goal 2 => intro hx; clear_value x)) | (refine kept_cut (a := s0) (x := x.1) ?_ ?_; (on_goal 1 => unfold x); (on_goal 2 => intro hx; clear_value x)) | clear_value x))
    | with_reducible refine kept_ite ?_ ?_
    | with_reducible refine keptOut_ite ?_ ?_
    | split
    | dsimp only

theorem ringPut_kept {s0 : State} {s : State} {e : Ev} (hk : Kept s0 s) :
    Kept s0 (ringPut s e) := by
  unfold ringPut
  repeat' first
    | with_reducible assumption
    | fail_if_no_progress (with_reducible refine kept_mk ?_)
    | fail_if_no_progress (with_reducible refine kept_all ?_ (by omega) (by first | exact id | exact fun w => wf_filter w _ | exact fun w => wf_foldl_memWrite w _ _ _) (by exact id) (by omega))
    | with_reducible refine kept_next ?_
    | with_reducible refine post_kept ?_
    | with_reducible refine needVector_kept ?_
    | (extract_lets +onlyGivenNames x; (first | (refine kept_cut (a := s0) (x := x) ?_ ?_; (on_goal 1 => unfold x); (on_goal 2 => intro hx; clear_value x)) | (refine kept_cut (a := s0) (x := x.1) ?_ ?_; (on_goal 1 => unfold x); (on_goal 2 => intro hx; clear_value x)) | clear_value x))
    | with_reducible refine kept_ite ?_ ?_
    | with_reducible refine keptOut_ite ?_ ?_
    | split
    | dsimp only

theorem ringDrop_kept {s0 : State} {s : State} (hk : Kept s0 s) :
    Kept s0 (ringDrop s) := by
  unfold ringDrop
  repeat' first
    | with_reducible assumption
    | fail_if_no_progress (with_reducible refine kept_mk ?_)
    | fail_if_no_progress (with_reducible refine kept_all ?_ (by omega) (by first | exact id | exact fun w => wf_filter w _ | exact fun w => wf_foldl_memWrite w _ _ _) (by exact id) (by omega))
    | with_reducible refine kept_next ?_
    | with_reducible refine bump_kept ?_
    | with_reducible refine setBit_kept ?_
    | (extract_lets +onlyGivenNames x; (first | (refine kept_cut (a := s0) (x := x) ?_ ?_; (on_goal 1 => unfold x); (on_goal 2 => intro hx; clear_value x)) | (refine kept_cut (a := s0) (x := x.1) ?_ ?_; (on_goal 1 => unfold x); (on_goal 2 => intro hx; clear_value x)) | clear_value x))
    | dsimp only

theorem settleEv_kept {s0 : State} {s : State} {e : Ev} (hk : Kept s0 s) :
    Kept s0 (settleEv s e).1 := by
  unfold settleEv
  repeat' first
    | with_reducible assumption
    | fail_if_no_progress (with_reducible refine kept_mk ?_)
    | fail_if_no_progress (with_reducible refine kept_all ?_ (by omega) (by first | exact id | exact fun w => wf_filter w _ | exact fun w => wf_foldl_memWrite w _ _ _) (by exact id) (by omega))
    | with_reducible refine kept_next ?_
    | with_reducible refine draw_kept ?_
    | split
    | dsimp only

theorem logPut_kept {s0 : State} {s : State} {e : Ev} (hk : Kept s0 s) :
    Kept s0 (logPut s e) := by
  unfold logPut
  repeat' first
    | with_reducible assumption
    | fail_if_no_progress (with_reducible refine kept_mk ?_)
    | fail_if_no_progress (with_reducible refine kept_all ?_ (by omega) (by first | exact id | exact fun w => wf_filter w _ | exact fun w => wf_foldl_memWrite w _ _ _) (by exact id) (by omega))
    | with_reducible refine kept_next ?_
    | with_reducible refine bump_kept ?_
    | with_reducible refine setBit_kept ?_
    | with_reducible refine raise_kept ?_
    | (extract_lets +onlyGivenNames x; (first | (refine kept_cut (a := s0) (x := x) ?_ ?_; (on_goal 1 => unfold x); (on_goal 2 => intro hx; clear_value x)) | (refine kept_cut (a := s0) (x := x.1) ?_ ?_; (on_goal 1 => unfold x); (on_goal 2 => intro hx; clear_value x)) | clear_value x))
    | with_reducible refine kept_ite ?_ ?_
    | with_reducible refine keptOut_ite ?_ ?_
    | split
    | dsimp only

theorem updWin_kept {s0 : State} {s : State} {g w : Nat} {f : Win → Win} (hk : Kept s0 s) :
    Kept s0 (updWin s g w f) := by
  unfold updWin
  repeat' first
    | with_reducible assumption
    | fail_if_no_progress (with_reducible refine kept_mk ?_)
    | fail_if_no_progress (with_reducible refine kept_all ?_ (by omega) (by first | exact id | exact fun w => wf_filter w _ | exact fun w => wf_foldl_memWrite w _ _ _) (by exact id) (by omega))
    | with_reducible refine kept_next ?_
    | dsimp only

theorem winDead_kept {s0 : State} {s : State} {q : WinReq} {reason : Nat} (hk : Kept s0 s) :
    Kept s0 (winDead s q reason) := by
  unfold winDead
  repeat' first
    | with_reducible assumption
    | fail_if_no_progress (with_reducible refine kept_mk ?_)
    | fail_if_no_progress (with_reducible refine kept_all ?_ (by omega) (by first | exact id | exact fun w => wf_filter w _ | exact fun w => wf_foldl_memWrite w _ _ _) (by exact id) (by omega))
    | with_reducible refine kept_next ?_
    | with_reducible refine bump_kept ?_
    | with_reducible refine setReg_kept ?_
    | with_reducible refine latch_kept ?_
    | with_reducible refine raise_kept ?_
    | (extract_lets +onlyGivenNames x; (first | (refine kept_cut (a := s0) (x := x) ?_ ?_; (on_goal 1 => unfold x); (on_goal 2 => intro hx; clear_value x)) | (refine kept_cut (a := s0) (x := x.1) ?_ ?_; (on_goal 1 => unfold x); (on_goal 2 => intro hx; clear_value x)) | clear_value x))
    | with_reducible refine kept_ite ?_ ?_
    | with_reducible refine keptOut_ite ?_ ?_
    | split
    | dsimp only

theorem wakeBank_kept {s0 : State} {s : State} {b : Nat} (hk : Kept s0 s) :
    Kept s0 (wakeBank s b) := by
  unfold wakeBank
  repeat' first
    | with_reducible assumption
    | fail_if_no_progress (with_reducible refine kept_mk ?_)
    | fail_if_no_progress (with_reducible refine kept_all ?_ (by omega) (by first | exact id | exact fun w => wf_filter w _ | exact fun w => wf_foldl_memWrite w _ _ _) (by exact id) (by omega))
    | with_reducible refine kept_next ?_
    | with_reducible refine kept_ite ?_ ?_
    | with_reducible refine keptOut_ite ?_ ?_
    | split
    | dsimp only

theorem wakeRange_kept {s0 : State} {s : State} {a len : Nat} (hk : Kept s0 s) :
    Kept s0 (wakeRange s a len) := by
  unfold wakeRange
  repeat' first
    | with_reducible assumption
    | fail_if_no_progress (with_reducible refine kept_mk ?_)
    | fail_if_no_progress (with_reducible refine kept_all ?_ (by omega) (by first | exact id | exact fun w => wf_filter w _ | exact fun w => wf_foldl_memWrite w _ _ _) (by exact id) (by omega))
    | with_reducible refine kept_next ?_
    | with_reducible refine wakeBank_kept ?_
    | with_reducible refine kept_foldl (fun t x ht => ?_) ?_
    | with_reducible refine kept_foldl_pair (fun t x ht => ?_) ?_
    | split
    | dsimp only

theorem winUnit_kept {s0 : State} {s : State} {q : WinReq} (hk : Kept s0 s) : Kept s0 (winUnit s q).1 := by
  have hw := wakeRange_kept (a := winAddr s q) (len := q.length) hk
  unfold winUnit
  split
  · exact winDead_kept hk
  · split
    · exact writeMem_kept hw
    · exact readMem_kept (murk_kept hw)

theorem winUnits_kept {s0 : State} {l : List WinReq} {s : State} (hk : Kept s0 s) : Kept s0 (winUnits s l).1 := by
  induction l generalizing s with
  | nil => exact hk
  | cons q t ih => exact ih (winUnit_kept hk)

theorem deadUnits_kept {s0 s t : State} {l : List WinReq} (hk : Kept s0 t) : Kept s0 (deadUnits s t l) := by
  unfold deadUnits
  exact kept_foldl (fun t x ht => undefMem_kept ht) hk

theorem answered_kept {s0 : State} {s : State} {k i tag : Nat} (hk : Kept s0 s) :
    Kept s0 (answered s k i tag) := by
  unfold answered
  repeat' first
    | with_reducible assumption
    | fail_if_no_progress (with_reducible refine kept_mk ?_)
    | fail_if_no_progress (with_reducible refine kept_all ?_ (by omega) (by first | exact id | exact fun w => wf_filter w _ | exact fun w => wf_foldl_memWrite w _ _ _) (by exact id) (by omega))
    | with_reducible refine kept_next ?_
    | with_reducible refine updRun_kept ?_
    | dsimp only

theorem finishSnap_kept {s0 : State} {s : State} (hk : Kept s0 s) :
    Kept s0 (finishSnap s) := by
  unfold finishSnap
  repeat' first
    | with_reducible assumption
    | fail_if_no_progress (with_reducible refine kept_mk ?_)
    | fail_if_no_progress (with_reducible refine kept_all ?_ (by omega) (by first | exact id | exact fun w => wf_filter w _ | exact fun w => wf_foldl_memWrite w _ _ _) (by exact id) (by omega))
    | with_reducible refine kept_next ?_
    | with_reducible refine complete_kept ?_
    | (extract_lets +onlyGivenNames x; (first | (refine kept_cut (a := s0) (x := x) ?_ ?_; (on_goal 1 => unfold x); (on_goal 2 => intro hx; clear_value x)) | (refine kept_cut (a := s0) (x := x.1) ?_ ?_; (on_goal 1 => unfold x); (on_goal 2 => intro hx; clear_value x)) | clear_value x))
    | with_reducible refine kept_ite ?_ ?_
    | with_reducible refine keptOut_ite ?_ ?_
    | split
    | dsimp only

theorem snapAnswer_kept {s0 : State} {s : State} {tag st : Nat} (hk : Kept s0 s) :
    Kept s0 (snapAnswer s tag st) := by
  unfold snapAnswer
  repeat' first
    | with_reducible assumption
    | fail_if_no_progress (with_reducible refine kept_mk ?_)
    | fail_if_no_progress (with_reducible refine kept_all ?_ (by omega) (by first | exact id | exact fun w => wf_filter w _ | exact fun w => wf_foldl_memWrite w _ _ _) (by exact id) (by omega))
    | with_reducible refine kept_next ?_
    | with_reducible refine finishSnap_kept ?_
    | with_reducible refine kept_ite ?_ ?_
    | with_reducible refine keptOut_ite ?_ ?_
    | split
    | dsimp only

theorem openWin_kept {s0 : State} {s : State} {c : WinCfg} {byCommand : Bool} (hk : Kept s0 s) :
    Kept s0 (openWin s c byCommand) := by
  unfold openWin
  repeat' first
    | with_reducible assumption
    | fail_if_no_progress (with_reducible refine kept_mk ?_)
    | fail_if_no_progress (with_reducible refine kept_all ?_ (by omega) (by first | exact id | exact fun w => wf_filter w _ | exact fun w => wf_foldl_memWrite w _ _ _) (by exact id) (by omega))
    | with_reducible refine kept_next ?_
    | with_reducible refine updWin_kept ?_
    | dsimp only

theorem hurdleGate_kept {s0 : State} {n : Nat} {s : State} {f : State → Out} (hk : Kept s0 s) (k : ∀ t, Kept s0 t → KeptOut s0 (f t)) :
    KeptOut s0 (hurdleGate n s f) := by
  unfold hurdleGate
  repeat' first
    | with_reducible assumption
    | fail_if_no_progress (with_reducible refine kept_mk ?_)
    | fail_if_no_progress (with_reducible refine kept_all ?_ (by omega) (by first | exact id | exact fun w => wf_filter w _ | exact fun w => wf_foldl_memWrite w _ _ _) (by exact id) (by omega))
    | with_reducible refine kept_next ?_
    | with_reducible refine updStn_kept ?_
    | with_reducible refine k _ ?_
    | with_reducible refine k _ _ ?_
    | with_reducible refine kept_ite ?_ ?_
    | with_reducible refine keptOut_ite ?_ ?_
    | split
    | dsimp only

theorem giveHeadroom_kept {s0 : State} {s : State} {g : Nat} (hk : Kept s0 s) :
    Kept s0 (giveHeadroom s g) := by
  unfold giveHeadroom
  repeat' first
    | with_reducible assumption
    | fail_if_no_progress (with_reducible refine kept_mk ?_)
    | fail_if_no_progress (with_reducible refine kept_all ?_ (by omega) (by first | exact id | exact fun w => wf_filter w _ | exact fun w => wf_foldl_memWrite w _ _ _) (by exact id) (by omega))
    | with_reducible refine kept_next ?_
    | with_reducible refine draw_kept ?_
    | with_reducible refine updClu_kept ?_
    | with_reducible refine kept_foldl (fun t x ht => ?_) ?_
    | with_reducible refine kept_foldl_pair (fun t x ht => ?_) ?_
    | (extract_lets +onlyGivenNames x; (first | (refine kept_cut (a := s0) (x := x) ?_ ?_; (on_goal 1 => unfold x); (on_goal 2 => intro hx; clear_value x)) | (refine kept_cut (a := s0) (x := x.1) ?_ ?_; (on_goal 1 => unfold x); (on_goal 2 => intro hx; clear_value x)) | clear_value x))
    | with_reducible refine kept_ite ?_ ?_
    | with_reducible refine keptOut_ite ?_ ?_
    | split
    | dsimp only

theorem resumeGc_kept {s0 : State} {s : State} {g : Nat} {v : W32} (hk : Kept s0 s) :
    Kept s0 (resumeGc s g v) := by
  unfold resumeGc
  repeat' first
    | with_reducible assumption
    | fail_if_no_progress (with_reducible refine kept_mk ?_)
    | fail_if_no_progress (with_reducible refine kept_all ?_ (by omega) (by first | exact id | exact fun w => wf_filter w _ | exact fun w => wf_foldl_memWrite w _ _ _) (by exact id) (by omega))
    | with_reducible refine kept_next ?_
    | with_reducible refine unregister_kept ?_
    | with_reducible refine leaveEclipse_kept ?_
    | with_reducible refine updGc_kept ?_
    | (extract_lets +onlyGivenNames x; (first | (refine kept_cut (a := s0) (x := x) ?_ ?_; (on_goal 1 => unfold x); (on_goal 2 => intro hx; clear_value x)) | (refine kept_cut (a := s0) (x := x.1) ?_ ?_; (on_goal 1 => unfold x); (on_goal 2 => intro hx; clear_value x)) | clear_value x))
    | with_reducible refine kept_ite ?_ ?_
    | with_reducible refine keptOut_ite ?_ ?_
    | split
    | dsimp only

theorem rewriteCap_kept {s0 : State} {s : State} (hk : Kept s0 s) :
    Kept s0 (rewriteCap s) := by
  unfold rewriteCap
  repeat' first
    | with_reducible assumption
    | fail_if_no_progress (with_reducible refine kept_mk ?_)
    | fail_if_no_progress (with_reducible refine kept_all ?_ (by omega) (by first | exact id | exact fun w => wf_filter w _ | exact fun w => wf_foldl_memWrite w _ _ _) (by exact id) (by omega))
    | with_reducible refine kept_next ?_
    | dsimp only

theorem leaveUp_kept {s0 : State} {s : State} {p st : Nat} (hk : Kept s0 s) :
    Kept s0 (leaveUp s p st) := by
  unfold leaveUp
  repeat' first
    | with_reducible assumption
    | fail_if_no_progress (with_reducible refine kept_mk ?_)
    | fail_if_no_progress (with_reducible refine kept_all ?_ (by omega) (by first | exact id | exact fun w => wf_filter w _ | exact fun w => wf_foldl_memWrite w _ _ _) (by exact id) (by omega))
    | with_reducible refine kept_next ?_
    | with_reducible refine updHPort_kept ?_
    | with_reducible refine rewriteCap_kept ?_
    | with_reducible refine raise_kept ?_
    | with_reducible refine wantStop_kept ?_
    | (extract_lets +onlyGivenNames x; (first | (refine kept_cut (a := s0) (x := x) ?_ ?_; (on_goal 1 => unfold x); (on_goal 2 => intro hx; clear_value x)) | (refine kept_cut (a := s0) (x := x.1) ?_ ?_; (on_goal 1 => unfold x); (on_goal 2 => intro hx; clear_value x)) | clear_value x))
    | with_reducible refine kept_ite ?_ ?_
    | with_reducible refine keptOut_ite ?_ ?_
    | split
    | dsimp only

theorem trainPort_kept {s0 : State} {s : State} {p : Nat} (hk : Kept s0 s) :
    Kept s0 (trainPort s p) := by
  unfold trainPort
  repeat' first
    | with_reducible assumption
    | fail_if_no_progress (with_reducible refine kept_mk ?_)
    | fail_if_no_progress (with_reducible refine kept_all ?_ (by omega) (by first | exact id | exact fun w => wf_filter w _ | exact fun w => wf_foldl_memWrite w _ _ _) (by exact id) (by omega))
    | with_reducible refine kept_next ?_
    | with_reducible refine updHPort_kept ?_
    | dsimp only

theorem bringUp_kept {s0 : State} {s : State} {p : Nat} (hk : Kept s0 s) :
    Kept s0 (bringUp s p) := by
  unfold bringUp
  repeat' first
    | with_reducible assumption
    | fail_if_no_progress (with_reducible refine kept_mk ?_)
    | fail_if_no_progress (with_reducible refine kept_all ?_ (by omega) (by first | exact id | exact fun w => wf_filter w _ | exact fun w => wf_foldl_memWrite w _ _ _) (by exact id) (by omega))
    | with_reducible refine kept_next ?_
    | with_reducible refine leaveUp_kept ?_
    | with_reducible refine trainPort_kept ?_
    | with_reducible refine kept_ite ?_ ?_
    | with_reducible refine keptOut_ite ?_ ?_
    | split
    | dsimp only

theorem linkCommand_kept {s0 : State} {src : Src} {p : Nat} {s : State} {f : State → State} (hk : Kept s0 s) (k : ∀ t, Kept s0 t → Kept s0 (f t)) :
    KeptOut s0 (linkCommand src p s f) := by
  unfold linkCommand
  repeat' first
    | with_reducible assumption
    | fail_if_no_progress (with_reducible refine kept_mk ?_)
    | fail_if_no_progress (with_reducible refine kept_all ?_ (by omega) (by first | exact id | exact fun w => wf_filter w _ | exact fun w => wf_foldl_memWrite w _ _ _) (by exact id) (by omega))
    | with_reducible refine kept_next ?_
    | with_reducible refine command_kept ?_ ?_
    | with_reducible refine complete_kept ?_
    | with_reducible refine k _ ?_
    | with_reducible refine k _ _ ?_
    | (intro t ht)
    | with_reducible refine kept_ite ?_ ?_
    | with_reducible refine keptOut_ite ?_ ?_
    | split
    | dsimp only

theorem sendNew_kept {s0 : State} {s : State} {p k : Nat} {f : Flit} {h : HPort} (hk : Kept s0 s) :
    Kept s0 (sendNew s p k f h) := by
  unfold sendNew
  repeat' first
    | with_reducible assumption
    | fail_if_no_progress (with_reducible refine kept_mk ?_)
    | fail_if_no_progress (with_reducible refine kept_all ?_ (by omega) (by first | exact id | exact fun w => wf_filter w _ | exact fun w => wf_foldl_memWrite w _ _ _) (by exact id) (by omega))
    | with_reducible refine kept_next ?_
    | with_reducible refine updHPort_kept ?_
    | with_reducible refine bump_kept ?_
    | (extract_lets +onlyGivenNames x; (first | (refine kept_cut (a := s0) (x := x) ?_ ?_; (on_goal 1 => unfold x); (on_goal 2 => intro hx; clear_value x)) | (refine kept_cut (a := s0) (x := x.1) ?_ ?_; (on_goal 1 => unfold x); (on_goal 2 => intro hx; clear_value x)) | clear_value x))
    | dsimp only

theorem sendPlain_kept {s0 : State} {s : State} {p k : Nat} {f : Flit} {h : HPort} (hk : Kept s0 s) :
    Kept s0 (sendPlain s p k f h) := by
  unfold sendPlain
  repeat' first
    | with_reducible assumption
    | fail_if_no_progress (with_reducible refine kept_mk ?_)
    | fail_if_no_progress (with_reducible refine kept_all ?_ (by omega) (by first | exact id | exact fun w => wf_filter w _ | exact fun w => wf_foldl_memWrite w _ _ _) (by exact id) (by omega))
    | with_reducible refine kept_next ?_
    | with_reducible refine updHPort_kept ?_
    | dsimp only

theorem countResend_kept {s0 : State} {s : State} {p : Nat} (hk : Kept s0 s) :
    Kept s0 (countResend s p) := by
  unfold countResend
  repeat' first
    | with_reducible assumption
    | fail_if_no_progress (with_reducible refine kept_mk ?_)
    | fail_if_no_progress (with_reducible refine kept_all ?_ (by omega) (by first | exact id | exact fun w => wf_filter w _ | exact fun w => wf_foldl_memWrite w _ _ _) (by exact id) (by omega))
    | with_reducible refine kept_next ?_
    | with_reducible refine rate_kept ?_
    | with_reducible refine bump_kept ?_
    | with_reducible refine requestTest_kept ?_
    | (extract_lets +onlyGivenNames x; (first | (refine kept_cut (a := s0) (x := x) ?_ ?_; (on_goal 1 => unfold x); (on_goal 2 => intro hx; clear_value x)) | (refine kept_cut (a := s0) (x := x.1) ?_ ?_; (on_goal 1 => unfold x); (on_goal 2 => intro hx; clear_value x)) | clear_value x))
    | with_reducible refine kept_ite ?_ ?_
    | with_reducible refine keptOut_ite ?_ ?_
    | split
    | dsimp only

theorem sendAgain_kept {s0 : State} {s : State} {p k : Nat} {f : Nat × List Byte} (hk : Kept s0 s) :
    Kept s0 (sendAgain s p k f) := by
  unfold sendAgain
  repeat' first
    | with_reducible assumption
    | fail_if_no_progress (with_reducible refine kept_mk ?_)
    | fail_if_no_progress (with_reducible refine kept_all ?_ (by omega) (by first | exact id | exact fun w => wf_filter w _ | exact fun w => wf_foldl_memWrite w _ _ _) (by exact id) (by omega))
    | with_reducible refine kept_next ?_
    | with_reducible refine countResend_kept ?_
    | with_reducible refine updHPort_kept ?_
    | dsimp only

theorem hofDiscard_kept {s0 : State} {s : State} {p : Nat} (hk : Kept s0 s) :
    Kept s0 (hofDiscard s p) := by
  unfold hofDiscard
  repeat' first
    | with_reducible assumption
    | fail_if_no_progress (with_reducible refine kept_mk ?_)
    | fail_if_no_progress (with_reducible refine kept_all ?_ (by omega) (by first | exact id | exact fun w => wf_filter w _ | exact fun w => wf_foldl_memWrite w _ _ _) (by exact id) (by omega))
    | with_reducible refine kept_next ?_
    | with_reducible refine setBit_kept ?_
    | with_reducible refine bump_kept ?_
    | with_reducible refine raise_kept ?_
    | with_reducible refine updHPort_kept ?_
    | (extract_lets +onlyGivenNames x; (first | (refine kept_cut (a := s0) (x := x) ?_ ?_; (on_goal 1 => unfold x); (on_goal 2 => intro hx; clear_value x)) | (refine kept_cut (a := s0) (x := x.1) ?_ ?_; (on_goal 1 => unfold x); (on_goal 2 => intro hx; clear_value x)) | clear_value x))
    | with_reducible refine kept_ite ?_ ?_
    | with_reducible refine keptOut_ite ?_ ?_
    | split
    | dsimp only

theorem portFail_kept {s0 : State} {s : State} {p bit code : Nat} (hk : Kept s0 s) :
    Kept s0 (portFail s p bit code) := by
  unfold portFail
  repeat' first
    | with_reducible assumption
    | fail_if_no_progress (with_reducible refine kept_mk ?_)
    | fail_if_no_progress (with_reducible refine kept_all ?_ (by omega) (by first | exact id | exact fun w => wf_filter w _ | exact fun w => wf_foldl_memWrite w _ _ _) (by exact id) (by omega))
    | with_reducible refine kept_next ?_
    | with_reducible refine leaveUp_kept ?_
    | with_reducible refine requestTest_kept ?_
    | with_reducible refine raise_kept ?_
    | with_reducible refine setBit_kept ?_
    | dsimp only

theorem resend_kept {s0 : State} {s : State} {p k seq : Nat} (hk : Kept s0 s) :
    Kept s0 (resend s p k seq) := by
  unfold resend
  repeat' first
    | with_reducible assumption
    | fail_if_no_progress (with_reducible refine kept_mk ?_)
    | fail_if_no_progress (with_reducible refine kept_all ?_ (by omega) (by first | exact id | exact fun w => wf_filter w _ | exact fun w => wf_foldl_memWrite w _ _ _) (by exact id) (by omega))
    | with_reducible refine kept_next ?_
    | with_reducible refine portFail_kept ?_
    | with_reducible refine updHPort_kept ?_
    | (extract_lets +onlyGivenNames x; (first | (refine kept_cut (a := s0) (x := x) ?_ ?_; (on_goal 1 => unfold x); (on_goal 2 => intro hx; clear_value x)) | (refine kept_cut (a := s0) (x := x.1) ?_ ?_; (on_goal 1 => unfold x); (on_goal 2 => intro hx; clear_value x)) | clear_value x))
    | with_reducible refine kept_ite ?_ ?_
    | with_reducible refine keptOut_ite ?_ ?_
    | split
    | dsimp only

theorem takeNak_kept {s0 : State} {s : State} {p k : Nat} {f : LinkWord} (hk : Kept s0 s) :
    Kept s0 (takeNak s p k f) := by
  unfold takeNak
  repeat' first
    | with_reducible assumption
    | fail_if_no_progress (with_reducible refine kept_mk ?_)
    | fail_if_no_progress (with_reducible refine kept_all ?_ (by omega) (by first | exact id | exact fun w => wf_filter w _ | exact fun w => wf_foldl_memWrite w _ _ _) (by exact id) (by omega))
    | with_reducible refine kept_next ?_
    | with_reducible refine resend_kept ?_
    | (extract_lets +onlyGivenNames x; (first | (refine kept_cut (a := s0) (x := x) ?_ ?_; (on_goal 1 => unfold x); (on_goal 2 => intro hx; clear_value x)) | (refine kept_cut (a := s0) (x := x.1) ?_ ?_; (on_goal 1 => unfold x); (on_goal 2 => intro hx; clear_value x)) | clear_value x))
    | with_reducible refine kept_ite ?_ ?_
    | with_reducible refine keptOut_ite ?_ ?_
    | split
    | dsimp only

theorem msgDone_kept {s0 : State} {s : State} {p : Nat} {m : Msg} (hk : Kept s0 s) :
    Kept s0 (msgDone s p m) := by
  unfold msgDone
  repeat' first
    | with_reducible assumption
    | fail_if_no_progress (with_reducible refine kept_mk ?_)
    | fail_if_no_progress (with_reducible refine kept_all ?_ (by omega) (by first | exact id | exact fun w => wf_filter w _ | exact fun w => wf_foldl_memWrite w _ _ _) (by exact id) (by omega))
    | with_reducible refine kept_next ?_
    | with_reducible refine hofDiscard_kept ?_
    | with_reducible refine sendMsg_kept ?_
    | with_reducible refine kept_ite ?_ ?_
    | with_reducible refine keptOut_ite ?_ ?_
    | split
    | dsimp only

theorem freeCredit_kept {s0 : State} {s : State} {p : Nat} {l : LinkWord} (hk : Kept s0 s) :
    Kept s0 (freeCredit s p l) := by
  unfold freeCredit
  repeat' first
    | with_reducible assumption
    | fail_if_no_progress (with_reducible refine kept_mk ?_)
    | fail_if_no_progress (with_reducible refine kept_all ?_ (by omega) (by first | exact id | exact fun w => wf_filter w _ | exact fun w => wf_foldl_memWrite w _ _ _) (by exact id) (by omega))
    | with_reducible refine kept_next ?_
    | with_reducible refine updHPort_kept ?_
    | with_reducible refine kept_ite ?_ ?_
    | with_reducible refine keptOut_ite ?_ ?_
    | split
    | dsimp only

theorem growMsg_kept {s0 : State} {s : State} {p cls : Nat} {f : LinkWord} {bs : List Byte} {left : Nat} (hk : Kept s0 s) :
    Kept s0 (growMsg s p cls f bs left) := by
  unfold growMsg
  repeat' first
    | with_reducible assumption
    | fail_if_no_progress (with_reducible refine kept_mk ?_)
    | fail_if_no_progress (with_reducible refine kept_all ?_ (by omega) (by first | exact id | exact fun w => wf_filter w _ | exact fun w => wf_foldl_memWrite w _ _ _) (by exact id) (by omega))
    | with_reducible refine kept_next ?_
    | with_reducible refine msgDone_kept ?_
    | with_reducible refine updHPort_kept ?_
    | with_reducible refine kept_ite ?_ ?_
    | with_reducible refine keptOut_ite ?_ ?_
    | split
    | dsimp only

theorem msgFlit_kept {s0 : State} {s : State} {p : Nat} {l : LinkWord} {body : List Byte} (hk : Kept s0 s) :
    Kept s0 (msgFlit s p l body) := by
  unfold msgFlit
  repeat' first
    | with_reducible assumption
    | fail_if_no_progress (with_reducible refine kept_mk ?_)
    | fail_if_no_progress (with_reducible refine kept_all ?_ (by omega) (by first | exact id | exact fun w => wf_filter w _ | exact fun w => wf_foldl_memWrite w _ _ _) (by exact id) (by omega))
    | with_reducible refine kept_next ?_
    | with_reducible refine growMsg_kept ?_
    | with_reducible refine kept_ite ?_ ?_
    | with_reducible refine keptOut_ite ?_ ?_
    | split
    | dsimp only

theorem acceptFlit_kept {s0 : State} {s : State} {p : Nat} {l : LinkWord} {counter : Nat} {rest : List Byte} (hk : Kept s0 s) :
    Kept s0 (acceptFlit s p l counter rest) := by
  unfold acceptFlit
  repeat' first
    | with_reducible assumption
    | fail_if_no_progress (with_reducible refine kept_mk ?_)
    | fail_if_no_progress (with_reducible refine kept_all ?_ (by omega) (by first | exact id | exact fun w => wf_filter w _ | exact fun w => wf_foldl_memWrite w _ _ _) (by exact id) (by omega))
    | with_reducible refine kept_next ?_
    | with_reducible refine freeCredit_kept ?_
    | with_reducible refine bump_kept ?_
    | with_reducible refine hofDiscard_kept ?_
    | with_reducible refine updHPort_kept ?_
    | with_reducible refine portFail_kept ?_
    | with_reducible refine msgFlit_kept ?_
    | (extract_lets +onlyGivenNames x; (first | (refine kept_cut (a := s0) (x := x) ?_ ?_; (on_goal 1 => unfold x); (on_goal 2 => intro hx; clear_value x)) | (refine kept_cut (a := s0) (x := x.1) ?_ ?_; (on_goal 1 => unfold x); (on_goal 2 => intro hx; clear_value x)) | clear_value x))
    | with_reducible refine kept_ite ?_ ?_
    | with_reducible refine keptOut_ite ?_ ?_
    | split
    | dsimp only

theorem deadReply_kept {s0 : State} {s : State} {tag : Nat} (hk : Kept s0 s) :
    Kept s0 (deadReply s tag) := by
  unfold deadReply
  repeat' first
    | with_reducible assumption
    | fail_if_no_progress (with_reducible refine kept_mk ?_)
    | fail_if_no_progress (with_reducible refine kept_all ?_ (by omega) (by first | exact id | exact fun w => wf_filter w _ | exact fun w => wf_foldl_memWrite w _ _ _) (by exact id) (by omega))
    | with_reducible refine kept_next ?_
    | with_reducible refine endRun_kept ?_
    | with_reducible refine answered_kept ?_
    | with_reducible refine snapAnswer_kept ?_
    | (extract_lets +onlyGivenNames x; (first | (refine kept_cut (a := s0) (x := x) ?_ ?_; (on_goal 1 => unfold x); (on_goal 2 => intro hx; clear_value x)) | (refine kept_cut (a := s0) (x := x.1) ?_ ?_; (on_goal 1 => unfold x); (on_goal 2 => intro hx; clear_value x)) | clear_value x))
    | with_reducible refine kept_ite ?_ ?_
    | with_reducible refine keptOut_ite ?_ ?_
    | split
    | dsimp only

theorem clearReply_kept {s0 : State} {s : State} {p seq : Nat} (hk : Kept s0 s) :
    Kept s0 (clearReply s p seq) := by
  unfold clearReply
  repeat' first
    | with_reducible assumption
    | fail_if_no_progress (with_reducible refine kept_mk ?_)
    | fail_if_no_progress (with_reducible refine kept_all ?_ (by omega) (by first | exact id | exact fun w => wf_filter w _ | exact fun w => wf_foldl_memWrite w _ _ _) (by exact id) (by omega))
    | with_reducible refine kept_next ?_
    | with_reducible refine deadReply_kept ?_
    | with_reducible refine sendMsg_kept ?_
    | with_reducible refine kept_ite ?_ ?_
    | with_reducible refine keptOut_ite ?_ ?_
    | split
    | dsimp only

theorem controlBody_kept {s0 : State} {s : State} {p : Nat} {body : List Byte} (hk : Kept s0 s) :
    Kept s0 (controlBody s p body) := by
  unfold controlBody
  repeat' first
    | with_reducible assumption
    | fail_if_no_progress (with_reducible refine kept_mk ?_)
    | fail_if_no_progress (with_reducible refine kept_all ?_ (by omega) (by first | exact id | exact fun w => wf_filter w _ | exact fun w => wf_foldl_memWrite w _ _ _) (by exact id) (by omega))
    | with_reducible refine kept_next ?_
    | with_reducible refine updHPort_kept ?_
    | with_reducible refine clearReply_kept ?_
    | (extract_lets +onlyGivenNames x; (first | (refine kept_cut (a := s0) (x := x) ?_ ?_; (on_goal 1 => unfold x); (on_goal 2 => intro hx; clear_value x)) | (refine kept_cut (a := s0) (x := x.1) ?_ ?_; (on_goal 1 => unfold x); (on_goal 2 => intro hx; clear_value x)) | clear_value x))
    | with_reducible refine kept_ite ?_ ?_
    | with_reducible refine keptOut_ite ?_ ?_
    | split
    | dsimp only

theorem hurDiscard_kept {s0 : State} {s : State} {bit code : Nat} (hk : Kept s0 s) :
    Kept s0 (hurDiscard s bit code) := by
  unfold hurDiscard
  repeat' first
    | with_reducible assumption
    | fail_if_no_progress (with_reducible refine kept_mk ?_)
    | fail_if_no_progress (with_reducible refine kept_all ?_ (by omega) (by first | exact id | exact fun w => wf_filter w _ | exact fun w => wf_foldl_memWrite w _ _ _) (by exact id) (by omega))
    | with_reducible refine kept_next ?_
    | with_reducible refine raise_kept ?_
    | with_reducible refine setBit_kept ?_
    | with_reducible refine bump_kept ?_
    | dsimp only

theorem takeHur_kept {s0 : State} {s : State} {m : HurMsg} (hk : Kept s0 s) :
    Kept s0 (takeHur s m) := by
  unfold takeHur
  repeat' first
    | with_reducible assumption
    | fail_if_no_progress (with_reducible refine kept_mk ?_)
    | fail_if_no_progress (with_reducible refine kept_all ?_ (by omega) (by first | exact id | exact fun w => wf_filter w _ | exact fun w => wf_foldl_memWrite w _ _ _) (by exact id) (by omega))
    | with_reducible refine kept_next ?_
    | with_reducible refine queueHur_kept ?_
    | with_reducible refine hurDiscard_kept ?_
    | with_reducible refine sendAdd_kept ?_
    | with_reducible refine kept_foldl (fun t x ht => ?_) ?_
    | with_reducible refine kept_foldl_pair (fun t x ht => ?_) ?_
    | (extract_lets +onlyGivenNames x; (first | (refine kept_cut (a := s0) (x := x) ?_ ?_; (on_goal 1 => unfold x); (on_goal 2 => intro hx; clear_value x)) | (refine kept_cut (a := s0) (x := x.1) ?_ ?_; (on_goal 1 => unfold x); (on_goal 2 => intro hx; clear_value x)) | clear_value x))
    | with_reducible refine kept_ite ?_ ?_
    | with_reducible refine keptOut_ite ?_ ?_
    | split
    | dsimp only

end Sys2Proof.Machine
end

