-- ==== Sys2Proof/Laws/KeptModule.lean ====
section
/-! SUPPORT. What the operations on stops, updates, jobs, the vault and power-up keep (see Kept). -/
namespace Sys2Proof.Machine
open Sys2Proof
set_option linter.unreachableTactic false
set_option linter.unusedTactic false
set_option linter.unusedVariables false

theorem haltAll_kept {s0 : State} {s : State} (hk : Kept s0 s) :
    Kept s0 (haltAll s) := by
  unfold haltAll
  repeat' first
    | with_reducible assumption
    | fail_if_no_progress (with_reducible refine kept_mk ?_)
    | fail_if_no_progress (with_reducible refine kept_all ?_ (by omega) (by first | exact id | exact fun w => wf_filter w _ | exact fun w => wf_foldl_memWrite w _ _ _) (by exact id) (by omega))
    | with_reducible refine kept_next ?_
    | with_reducible refine kept_ite ?_ ?_
    | with_reducible refine keptOut_ite ?_ ?_
    | split
    | dsimp only

theorem updGw_kept {s0 : State} {s : State} {k : Nat} {f : Gw → Gw} (hk : Kept s0 s) :
    Kept s0 (updGw s k f) := by
  unfold updGw
  repeat' first
    | with_reducible assumption
    | fail_if_no_progress (with_reducible refine kept_mk ?_)
    | fail_if_no_progress (with_reducible refine kept_all ?_ (by omega) (by first | exact id | exact fun w => wf_filter w _ | exact fun w => wf_foldl_memWrite w _ _ _) (by exact id) (by omega))
    | with_reducible refine kept_next ?_
    | dsimp only

theorem nextStep_kept {s0 : State} {s : State} (hk : Kept s0 s) :
    Kept s0 (nextStep s) := by
  unfold nextStep
  repeat' first
    | with_reducible assumption
    | fail_if_no_progress (with_reducible refine kept_mk ?_)
    | fail_if_no_progress (with_reducible refine kept_all ?_ (by omega) (by first | exact id | exact fun w => wf_filter w _ | exact fun w => wf_foldl_memWrite w _ _ _) (by exact id) (by omega))
    | with_reducible refine kept_next ?_
    | with_reducible refine kept_ite ?_ ?_
    | with_reducible refine keptOut_ite ?_ ?_
    | split
    | dsimp only

theorem tally_kept {s0 : State} {s : State} (hk : Kept s0 s) :
    Kept s0 (tally s) := by
  unfold tally
  repeat' first
    | with_reducible assumption
    | fail_if_no_progress (with_reducible refine kept_mk ?_)
    | fail_if_no_progress (with_reducible refine kept_all ?_ (by omega) (by first | exact id | exact fun w => wf_filter w _ | exact fun w => wf_foldl_memWrite w _ _ _) (by exact id) (by omega))
    | with_reducible refine kept_next ?_
    | with_reducible refine kept_foldl (fun t x ht => ?_) ?_
    | with_reducible refine kept_foldl_pair (fun t x ht => ?_) ?_
    | with_reducible refine kept_ite ?_ ?_
    | with_reducible refine keptOut_ite ?_ ?_
    | split
    | dsimp only

theorem latchGroups_kept {s0 : State} {s : State} (hk : Kept s0 s) :
    Kept s0 (latchGroups s) := by
  unfold latchGroups
  repeat' first
    | with_reducible assumption
    | fail_if_no_progress (with_reducible refine kept_mk ?_)
    | fail_if_no_progress (with_reducible refine kept_all ?_ (by omega) (by first | exact id | exact fun w => wf_filter w _ | exact fun w => wf_foldl_memWrite w _ _ _) (by exact id) (by omega))
    | with_reducible refine kept_next ?_
    | dsimp only

theorem discardStep_kept {s0 : State} {s : State} (hk : Kept s0 s) : Kept s0 (discardStep s) := by
  unfold discardStep
  split
  · exact hk
  · extract_lets +onlyGivenNames x
    have hx : Kept s0 x := by
      refine raise_kept (nextStep_kept (latchGroups_kept ?_))
      split
      · exact hk
      · exact tally_kept hk
    clear_value x
    exact kept_mk hx

theorem dumpWrite_kept {s0 : State} {s : State} (hk : Kept s0 s) :
    Kept s0 (dumpWrite s) := by
  unfold dumpWrite
  repeat' first
    | with_reducible assumption
    | fail_if_no_progress (with_reducible refine kept_mk ?_)
    | fail_if_no_progress (with_reducible refine kept_all ?_ (by omega) (by first | exact id | exact fun w => wf_filter w _ | exact fun w => wf_foldl_memWrite w _ _ _) (by exact id) (by omega))
    | with_reducible refine kept_next ?_
    | with_reducible refine raise_kept ?_
    | with_reducible refine zeroise_kept ?_
    | with_reducible refine kept_foldl (fun t x ht => ?_) ?_
    | with_reducible refine kept_foldl_pair (fun t x ht => ?_) ?_
    | (extract_lets +onlyGivenNames x; (first | (refine kept_cut (a := s0) (x := x) ?_ ?_; (on_goal 1 => unfold x); (on_goal 2 => intro hx; clear_value x)) | (refine kept_cut (a := s0) (x := x.1) ?_ ?_; (on_goal 1 => unfold x); (on_goal 2 => intro hx; clear_value x)) | clear_value x))
    | with_reducible refine kept_ite ?_ ?_
    | with_reducible refine keptOut_ite ?_ ?_
    | split
    | dsimp only

theorem startDump_kept {s0 : State} {s : State} {trigger event station : Nat} {src : Option (Src × Nat)} (hk : Kept s0 s) :
    Kept s0 (startDump s trigger event station src) := by
  unfold startDump
  repeat' first
    | with_reducible assumption
    | fail_if_no_progress (with_reducible refine kept_mk ?_)
    | fail_if_no_progress (with_reducible refine kept_all ?_ (by omega) (by first | exact id | exact fun w => wf_filter w _ | exact fun w => wf_foldl_memWrite w _ _ _) (by exact id) (by omega))
    | with_reducible refine kept_next ?_
    | with_reducible refine kept_ite ?_ ?_
    | with_reducible refine keptOut_ite ?_ ?_
    | split
    | dsimp only

theorem finishDump_kept {s0 : State} {s : State} (hk : Kept s0 s) :
    Kept s0 (finishDump s) := by
  unfold finishDump
  repeat' first
    | with_reducible assumption
    | fail_if_no_progress (with_reducible refine kept_mk ?_)
    | fail_if_no_progress (with_reducible refine kept_all ?_ (by omega) (by first | exact id | exact fun w => wf_filter w _ | exact fun w => wf_foldl_memWrite w _ _ _) (by exact id) (by omega))
    | with_reducible refine kept_next ?_
    | with_reducible refine dumpWrite_kept ?_
    | with_reducible refine raise_kept ?_
    | with_reducible refine complete_kept ?_
    | with_reducible refine writeFault_kept ?_
    | with_reducible refine hostWrite_kept ?_
    | with_reducible refine haltAll_kept ?_
    | (extract_lets +onlyGivenNames x; (first | (refine kept_cut (a := s0) (x := x) ?_ ?_; (on_goal 1 => unfold x); (on_goal 2 => intro hx; clear_value x)) | (refine kept_cut (a := s0) (x := x.1) ?_ ?_; (on_goal 1 => unfold x); (on_goal 2 => intro hx; clear_value x)) | clear_value x))
    | split
    | dsimp only

theorem answerChunk_kept {s0 : State} {s : State} {c : Chunk} {st : Nat} (hk : Kept s0 s) :
    Kept s0 (answerChunk s c st) := by
  unfold answerChunk
  repeat' first
    | with_reducible assumption
    | fail_if_no_progress (with_reducible refine kept_mk ?_)
    | fail_if_no_progress (with_reducible refine kept_all ?_ (by omega) (by first | exact id | exact fun w => wf_filter w _ | exact fun w => wf_foldl_memWrite w _ _ _) (by exact id) (by omega))
    | with_reducible refine kept_next ?_
    | with_reducible refine updRun_kept ?_
    | with_reducible refine endRun_kept ?_
    | with_reducible refine replyTo_kept ?_
    | with_reducible refine kept_foldl (fun t x ht => ?_) ?_
    | with_reducible refine kept_foldl_pair (fun t x ht => ?_) ?_
    | (extract_lets +onlyGivenNames x; (first | (refine kept_cut (a := s0) (x := x) ?_ ?_; (on_goal 1 => unfold x); (on_goal 2 => intro hx; clear_value x)) | (refine kept_cut (a := s0) (x := x.1) ?_ ?_; (on_goal 1 => unfold x); (on_goal 2 => intro hx; clear_value x)) | clear_value x))
    | with_reducible refine kept_ite ?_ ?_
    | with_reducible refine keptOut_ite ?_ ?_
    | split
    | dsimp only

theorem badChunk_kept {s0 : State} {s : State} {k : Nat} {c : Chunk} {st : Nat} (hk : Kept s0 s) :
    Kept s0 (badChunk s k c st) := by
  unfold badChunk
  repeat' first
    | with_reducible assumption
    | fail_if_no_progress (with_reducible refine kept_mk ?_)
    | fail_if_no_progress (with_reducible refine kept_all ?_ (by omega) (by first | exact id | exact fun w => wf_filter w _ | exact fun w => wf_foldl_memWrite w _ _ _) (by exact id) (by omega))
    | with_reducible refine kept_next ?_
    | with_reducible refine answerChunk_kept ?_
    | with_reducible refine raise_kept ?_
    | with_reducible refine setBit_kept ?_
    | dsimp only

theorem dupChunk_kept {s0 : State} {s : State} {k : Nat} {c : Chunk} (hk : Kept s0 s) :
    Kept s0 (dupChunk s k c) := by
  unfold dupChunk
  repeat' first
    | with_reducible assumption
    | fail_if_no_progress (with_reducible refine kept_mk ?_)
    | fail_if_no_progress (with_reducible refine kept_all ?_ (by omega) (by first | exact id | exact fun w => wf_filter w _ | exact fun w => wf_foldl_memWrite w _ _ _) (by exact id) (by omega))
    | with_reducible refine kept_next ?_
    | with_reducible refine answerChunk_kept ?_
    | with_reducible refine bump_kept ?_
    | dsimp only

theorem reservedAccess_kept {s0 : State} {s : State} {die unit : Nat} (hk : Kept s0 s) :
    Kept s0 (reservedAccess s die unit) := by
  unfold reservedAccess
  repeat' first
    | with_reducible assumption
    | fail_if_no_progress (with_reducible refine kept_mk ?_)
    | fail_if_no_progress (with_reducible refine kept_all ?_ (by omega) (by first | exact id | exact fun w => wf_filter w _ | exact fun w => wf_foldl_memWrite w _ _ _) (by exact id) (by omega))
    | with_reducible refine kept_next ?_
    | with_reducible refine raise_kept ?_
    | dsimp only

theorem readFaultAt_kept {s0 : State} {s : State} {k : Nat} (hk : Kept s0 s) :
    Kept s0 (readFaultAt s k) := by
  unfold readFaultAt
  repeat' first
    | with_reducible assumption
    | fail_if_no_progress (with_reducible refine kept_mk ?_)
    | fail_if_no_progress (with_reducible refine kept_all ?_ (by omega) (by first | exact id | exact fun w => wf_filter w _ | exact fun w => wf_foldl_memWrite w _ _ _) (by exact id) (by omega))
    | with_reducible refine kept_next ?_
    | with_reducible refine updGw_kept ?_
    | with_reducible refine raise_kept ?_
    | with_reducible refine setBit_kept ?_
    | (extract_lets +onlyGivenNames x; (first | (refine kept_cut (a := s0) (x := x) ?_ ?_; (on_goal 1 => unfold x); (on_goal 2 => intro hx; clear_value x)) | (refine kept_cut (a := s0) (x := x.1) ?_ ?_; (on_goal 1 => unfold x); (on_goal 2 => intro hx; clear_value x)) | clear_value x))
    | dsimp only

theorem engineWrite_kept {s0 : State} {s : State} {k a : Nat} {bs : List Byte} (hk : Kept s0 s) :
    Kept s0 (engineWrite s k a bs) := by
  unfold engineWrite
  repeat' first
    | with_reducible assumption
    | fail_if_no_progress (with_reducible refine kept_mk ?_)
    | fail_if_no_progress (with_reducible refine kept_all ?_ (by omega) (by first | exact id | exact fun w => wf_filter w _ | exact fun w => wf_foldl_memWrite w _ _ _) (by exact id) (by omega))
    | with_reducible refine kept_next ?_
    | with_reducible refine writeMem_kept ?_
    | with_reducible refine wakeRange_kept ?_
    | with_reducible refine readFaultAt_kept ?_
    | with_reducible refine reservedAccess_kept ?_
    | (extract_lets +onlyGivenNames x; (first | (refine kept_cut (a := s0) (x := x) ?_ ?_; (on_goal 1 => unfold x); (on_goal 2 => intro hx; clear_value x)) | (refine kept_cut (a := s0) (x := x.1) ?_ ?_; (on_goal 1 => unfold x); (on_goal 2 => intro hx; clear_value x)) | clear_value x))
    | with_reducible refine kept_ite ?_ ?_
    | with_reducible refine keptOut_ite ?_ ?_
    | split
    | dsimp only

theorem takeGather_kept {s0 : State} {s : State} {k : Nat} {c : Chunk} {j : Nat} {x : Shard} {fmt : Nat} {sc : Bool} (hk : Kept s0 s) :
    Kept s0 (takeGather s k c j x fmt sc) := by
  unfold takeGather
  repeat' first
    | with_reducible assumption
    | fail_if_no_progress (with_reducible refine kept_mk ?_)
    | fail_if_no_progress (with_reducible refine kept_all ?_ (by omega) (by first | exact id | exact fun w => wf_filter w _ | exact fun w => wf_foldl_memWrite w _ _ _) (by exact id) (by omega))
    | with_reducible refine kept_next ?_
    | with_reducible refine countNonFin_kept ?_
    | with_reducible refine answerChunk_kept ?_
    | with_reducible refine engineWrite_kept ?_
    | (extract_lets +onlyGivenNames x; (first | (refine kept_cut (a := s0) (x := x) ?_ ?_; (on_goal 1 => unfold x); (on_goal 2 => intro hx; clear_value x)) | (refine kept_cut (a := s0) (x := x.1) ?_ ?_; (on_goal 1 => unfold x); (on_goal 2 => intro hx; clear_value x)) | clear_value x))
    | dsimp only

theorem takeLoss_kept {s0 : State} {s : State} {k : Nat} {c : Chunk} (hk : Kept s0 s) :
    Kept s0 (takeLoss s k c) := by
  unfold takeLoss
  repeat' first
    | with_reducible assumption
    | fail_if_no_progress (with_reducible refine kept_mk ?_)
    | fail_if_no_progress (with_reducible refine kept_all ?_ (by omega) (by first | exact id | exact fun w => wf_filter w _ | exact fun w => wf_foldl_memWrite w _ _ _) (by exact id) (by omega))
    | with_reducible refine kept_next ?_
    | with_reducible refine updGw_kept ?_
    | with_reducible refine answerChunk_kept ?_
    | (extract_lets +onlyGivenNames x; (first | (refine kept_cut (a := s0) (x := x) ?_ ?_; (on_goal 1 => unfold x); (on_goal 2 => intro hx; clear_value x)) | (refine kept_cut (a := s0) (x := x.1) ?_ ?_; (on_goal 1 => unfold x); (on_goal 2 => intro hx; clear_value x)) | clear_value x))
    | dsimp only

theorem takeGrad_kept {s0 : State} {s : State} {k i j slot fmt : Nat} {c : Chunk} (hk : Kept s0 s) :
    Kept s0 (takeGrad s k i j slot fmt c) := by
  unfold takeGrad
  repeat' first
    | with_reducible assumption
    | fail_if_no_progress (with_reducible refine kept_mk ?_)
    | fail_if_no_progress (with_reducible refine kept_all ?_ (by omega) (by first | exact id | exact fun w => wf_filter w _ | exact fun w => wf_foldl_memWrite w _ _ _) (by exact id) (by omega))
    | with_reducible refine kept_next ?_
    | with_reducible refine answerChunk_kept ?_
    | with_reducible refine updGw_kept ?_
    | dsimp only

theorem actOn_kept {s0 : State} {s : State} {k : Nat} {c : Chunk} {v : Verdict} (hk : Kept s0 s) :
    Kept s0 (actOn s k c v) := by
  unfold actOn
  repeat' first
    | with_reducible assumption
    | fail_if_no_progress (with_reducible refine kept_mk ?_)
    | fail_if_no_progress (with_reducible refine kept_all ?_ (by omega) (by first | exact id | exact fun w => wf_filter w _ | exact fun w => wf_foldl_memWrite w _ _ _) (by exact id) (by omega))
    | with_reducible refine kept_next ?_
    | with_reducible refine badChunk_kept ?_
    | with_reducible refine dupChunk_kept ?_
    | with_reducible refine takeLoss_kept ?_
    | with_reducible refine takeGrad_kept ?_
    | with_reducible refine takeGather_kept ?_
    | split
    | dsimp only

theorem serve_kept {s0 : State} {s : State} {k : Nat} {p : Chunk → Bool} (hk : Kept s0 s) :
    Kept s0 (serve s k p) := by
  unfold serve
  repeat' first
    | with_reducible assumption
    | fail_if_no_progress (with_reducible refine kept_mk ?_)
    | fail_if_no_progress (with_reducible refine kept_all ?_ (by omega) (by first | exact id | exact fun w => wf_filter w _ | exact fun w => wf_foldl_memWrite w _ _ _) (by exact id) (by omega))
    | with_reducible refine kept_next ?_
    | with_reducible refine actOn_kept ?_
    | split
    | dsimp only

theorem intake_kept {s0 : State} {s : State} {k p : Nat} {m : Msg} (hk : Kept s0 s) :
    Kept s0 (intake s k p m) := by
  unfold intake
  repeat' first
    | with_reducible assumption
    | fail_if_no_progress (with_reducible refine kept_mk ?_)
    | fail_if_no_progress (with_reducible refine kept_all ?_ (by omega) (by first | exact id | exact fun w => wf_filter w _ | exact fun w => wf_foldl_memWrite w _ _ _) (by exact id) (by omega))
    | with_reducible refine kept_next ?_
    | with_reducible refine takeInbox_kept ?_
    | dsimp only

theorem watch_kept {s0 : State} {s : State} {k g nf : Nat} {sq : List Num} (hk : Kept s0 s) :
    Kept s0 (watch s k g nf sq) := by
  unfold watch
  repeat' first
    | with_reducible assumption
    | fail_if_no_progress (with_reducible refine kept_mk ?_)
    | fail_if_no_progress (with_reducible refine kept_all ?_ (by omega) (by first | exact id | exact fun w => wf_filter w _ | exact fun w => wf_foldl_memWrite w _ _ _) (by exact id) (by omega))
    | with_reducible refine kept_next ?_
    | with_reducible refine updGw_kept ?_
    | with_reducible refine countNonFin_kept ?_
    | with_reducible refine kept_foldl (fun t x ht => ?_) ?_
    | with_reducible refine kept_foldl_pair (fun t x ht => ?_) ?_
    | dsimp only

theorem updBuf_kept {s0 : State} {s : State} {k : Nat} {f : ChunkBuf → ChunkBuf} (hk : Kept s0 s) :
    Kept s0 (updBuf s k f) := by
  unfold updBuf
  repeat' first
    | with_reducible assumption
    | fail_if_no_progress (with_reducible refine kept_mk ?_)
    | fail_if_no_progress (with_reducible refine kept_all ?_ (by omega) (by first | exact id | exact fun w => wf_filter w _ | exact fun w => wf_foldl_memWrite w _ _ _) (by exact id) (by omega))
    | with_reducible refine kept_next ?_
    | with_reducible refine updGw_kept ?_
    | dsimp only

theorem snapWait_kept {s0 : State} {s : State} {k : Nat} {c : ChunkBuf} (hk : Kept s0 s) :
    Kept s0 (snapWait s k c) := by
  unfold snapWait
  repeat' first
    | with_reducible assumption
    | fail_if_no_progress (with_reducible refine kept_mk ?_)
    | fail_if_no_progress (with_reducible refine kept_all ?_ (by omega) (by first | exact id | exact fun w => wf_filter w _ | exact fun w => wf_foldl_memWrite w _ _ _) (by exact id) (by omega))
    | with_reducible refine kept_next ?_
    | with_reducible refine setBit_kept ?_
    | with_reducible refine bump_kept ?_
    | with_reducible refine updBuf_kept ?_
    | with_reducible refine raise_kept ?_
    | (extract_lets +onlyGivenNames x; (first | (refine kept_cut (a := s0) (x := x) ?_ ?_; (on_goal 1 => unfold x); (on_goal 2 => intro hx; clear_value x)) | (refine kept_cut (a := s0) (x := x.1) ?_ ?_; (on_goal 1 => unfold x); (on_goal 2 => intro hx; clear_value x)) | clear_value x))
    | with_reducible refine kept_ite ?_ ?_
    | with_reducible refine keptOut_ite ?_ ?_
    | split
    | dsimp only

theorem sendGather_kept {s0 : State} {s : State} {k id fmt : Nat} {sc : Bool} {bs : List Byte} {t : Nat × Nat} (hk : Kept s0 s) :
    Kept s0 (sendGather s k id fmt sc bs t) := by
  unfold sendGather
  repeat' first
    | with_reducible assumption
    | fail_if_no_progress (with_reducible refine kept_mk ?_)
    | fail_if_no_progress (with_reducible refine kept_all ?_ (by omega) (by first | exact id | exact fun w => wf_filter w _ | exact fun w => wf_foldl_memWrite w _ _ _) (by exact id) (by omega))
    | with_reducible refine kept_next ?_
    | with_reducible refine updGw_kept ?_
    | with_reducible refine toGateway_kept ?_
    | with_reducible refine sendMsg_kept ?_
    | (extract_lets +onlyGivenNames x; (first | (refine kept_cut (a := s0) (x := x) ?_ ?_; (on_goal 1 => unfold x); (on_goal 2 => intro hx; clear_value x)) | (refine kept_cut (a := s0) (x := x.1) ?_ ?_; (on_goal 1 => unfold x); (on_goal 2 => intro hx; clear_value x)) | clear_value x))
    | with_reducible refine kept_ite ?_ ?_
    | with_reducible refine keptOut_ite ?_ ?_
    | split
    | dsimp only

theorem publish_kept {s0 : State} {s : State} {k : Nat} {x : Shard} {c : ChunkBuf} (hk : Kept s0 s) :
    Kept s0 (publish s k x c) := by
  unfold publish
  repeat' first
    | with_reducible assumption
    | fail_if_no_progress (with_reducible refine kept_mk ?_)
    | fail_if_no_progress (with_reducible refine kept_all ?_ (by omega) (by first | exact id | exact fun w => wf_filter w _ | exact fun w => wf_foldl_memWrite w _ _ _) (by exact id) (by omega))
    | with_reducible refine kept_next ?_
    | with_reducible refine engineWrite_kept ?_
    | with_reducible refine countNonFin_kept ?_
    | with_reducible refine sendGather_kept ?_
    | with_reducible refine kept_foldl (fun t x ht => ?_) ?_
    | with_reducible refine kept_foldl_pair (fun t x ht => ?_) ?_
    | (extract_lets +onlyGivenNames x; (first | (refine kept_cut (a := s0) (x := x) ?_ ?_; (on_goal 1 => unfold x); (on_goal 2 => intro hx; clear_value x)) | (refine kept_cut (a := s0) (x := x.1) ?_ ?_; (on_goal 1 => unfold x); (on_goal 2 => intro hx; clear_value x)) | clear_value x))
    | split
    | dsimp only

theorem voteGroup_kept {s0 : State} {s : State} {g : Nat} (hk : Kept s0 s) :
    Kept s0 (voteGroup s g) := by
  unfold voteGroup
  repeat' first
    | with_reducible assumption
    | fail_if_no_progress (with_reducible refine kept_mk ?_)
    | fail_if_no_progress (with_reducible refine kept_all ?_ (by omega) (by first | exact id | exact fun w => wf_filter w _ | exact fun w => wf_foldl_memWrite w _ _ _) (by exact id) (by omega))
    | with_reducible refine kept_next ?_
    | with_reducible refine raise_kept ?_
    | with_reducible refine setBit_kept ?_
    | (extract_lets +onlyGivenNames x; (first | (refine kept_cut (a := s0) (x := x) ?_ ?_; (on_goal 1 => unfold x); (on_goal 2 => intro hx; clear_value x)) | (refine kept_cut (a := s0) (x := x.1) ?_ ?_; (on_goal 1 => unfold x); (on_goal 2 => intro hx; clear_value x)) | clear_value x))
    | with_reducible refine kept_ite ?_ ?_
    | with_reducible refine keptOut_ite ?_ ?_
    | split
    | dsimp only

theorem castVote_kept {s0 : State} {s : State} {h : Nat} {forced : Bool} (hk : Kept s0 s) :
    Kept s0 (castVote s h forced) := by
  unfold castVote
  repeat' first
    | with_reducible assumption
    | fail_if_no_progress (with_reducible refine kept_mk ?_)
    | fail_if_no_progress (with_reducible refine kept_all ?_ (by omega) (by first | exact id | exact fun w => wf_filter w _ | exact fun w => wf_foldl_memWrite w _ _ _) (by exact id) (by omega))
    | with_reducible refine kept_next ?_
    | with_reducible refine tally_kept ?_
    | with_reducible refine voteGroup_kept ?_
    | with_reducible refine sendAdd_kept ?_
    | with_reducible refine kept_foldl (fun t x ht => ?_) ?_
    | with_reducible refine kept_foldl_pair (fun t x ht => ?_) ?_
    | (extract_lets +onlyGivenNames x; (first | (refine kept_cut (a := s0) (x := x) ?_ ?_; (on_goal 1 => unfold x); (on_goal 2 => intro hx; clear_value x)) | (refine kept_cut (a := s0) (x := x.1) ?_ ?_; (on_goal 1 => unfold x); (on_goal 2 => intro hx; clear_value x)) | clear_value x))
    | with_reducible refine kept_ite ?_ ?_
    | with_reducible refine keptOut_ite ?_ ?_
    | split
    | dsimp only

theorem foldLosses_kept {s0 : State} {s : State} (hk : Kept s0 s) :
    Kept s0 (foldLosses s) := by
  unfold foldLosses
  repeat' first
    | with_reducible assumption
    | fail_if_no_progress (with_reducible refine kept_mk ?_)
    | fail_if_no_progress (with_reducible refine kept_all ?_ (by omega) (by first | exact id | exact fun w => wf_filter w _ | exact fun w => wf_foldl_memWrite w _ _ _) (by exact id) (by omega))
    | with_reducible refine kept_next ?_
    | with_reducible refine kept_foldl (fun t x ht => ?_) ?_
    | with_reducible refine kept_foldl_pair (fun t x ht => ?_) ?_
    | split
    | dsimp only

theorem decideStep_kept {s0 : State} {s : State} {v : W32} (hk : Kept s0 s) :
    Kept s0 (decideStep s v) := by
  unfold decideStep
  repeat' first
    | with_reducible assumption
    | fail_if_no_progress (with_reducible refine kept_mk ?_)
    | fail_if_no_progress (with_reducible refine kept_all ?_ (by omega) (by first | exact id | exact fun w => wf_filter w _ | exact fun w => wf_foldl_memWrite w _ _ _) (by exact id) (by omega))
    | with_reducible refine kept_next ?_
    | with_reducible refine foldLosses_kept ?_
    | with_reducible refine nextStep_kept ?_
    | with_reducible refine latchGroups_kept ?_
    | with_reducible refine raise_kept ?_
    | with_reducible refine writeMem_kept ?_
    | with_reducible refine reservedAccess_kept ?_
    | with_reducible refine sendAdd_kept ?_
    | (extract_lets +onlyGivenNames x; (first | (refine kept_cut (a := s0) (x := x) ?_ ?_; (on_goal 1 => unfold x); (on_goal 2 => intro hx; clear_value x)) | (refine kept_cut (a := s0) (x := x.1) ?_ ?_; (on_goal 1 => unfold x); (on_goal 2 => intro hx; clear_value x)) | clear_value x))
    | with_reducible refine kept_ite ?_ ?_
    | with_reducible refine keptOut_ite ?_ ?_
    | split
    | dsimp only

theorem snapFail_kept {s0 : State} {s : State} {st : Nat} (hk : Kept s0 s) :
    Kept s0 (snapFail s st) := by
  unfold snapFail
  repeat' first
    | with_reducible assumption
    | fail_if_no_progress (with_reducible refine kept_mk ?_)
    | fail_if_no_progress (with_reducible refine kept_all ?_ (by omega) (by first | exact id | exact fun w => wf_filter w _ | exact fun w => wf_foldl_memWrite w _ _ _) (by exact id) (by omega))
    | with_reducible refine kept_next ?_
    | with_reducible refine finishSnap_kept ?_
    | dsimp only

theorem snapRecords_kept {s0 : State} {n : Nat} {s : State} {x : Snap} {last : Bool} (hk : Kept s0 s) :
    Kept s0 (snapRecords s x last n).1 := by
  induction n generalizing s x with
  | zero => exact hk
  | succ n ih =>
    unfold snapRecords
    split
    · exact hk
    · exact ih (hostWrite_kept (egressRecord_kept hk))

theorem snapPut_kept {s0 : State} {s : State} {x : Snap} {bs : List Byte} (hk : Kept s0 s) :
    Kept s0 (snapPut s x bs) := by
  unfold snapPut
  repeat' first
    | with_reducible assumption
    | fail_if_no_progress (with_reducible refine kept_mk ?_)
    | fail_if_no_progress (with_reducible refine kept_all ?_ (by omega) (by first | exact id | exact fun w => wf_filter w _ | exact fun w => wf_foldl_memWrite w _ _ _) (by exact id) (by omega))
    | with_reducible refine kept_next ?_
    | with_reducible refine winUnits_kept ?_
    | with_reducible refine sendMsg_kept ?_
    | with_reducible refine snapRecords_kept ?_
    | with_reducible refine hostWrite_kept ?_
    | (extract_lets +onlyGivenNames x; (first | (refine kept_cut (a := s0) (x := x) ?_ ?_; (on_goal 1 => unfold x); (on_goal 2 => intro hx; clear_value x)) | (refine kept_cut (a := s0) (x := x.1) ?_ ?_; (on_goal 1 => unfold x); (on_goal 2 => intro hx; clear_value x)) | clear_value x))
    | with_reducible refine kept_ite ?_ ?_
    | with_reducible refine keptOut_ite ?_ ?_
    | split
    | dsimp only

theorem failPosition_kept {s0 : State} {s : State} {g : Nat} {p : Option Nat} (hk : Kept s0 s) :
    Kept s0 (failPosition s g p) := by
  unfold failPosition
  repeat' first
    | with_reducible assumption
    | fail_if_no_progress (with_reducible refine kept_mk ?_)
    | fail_if_no_progress (with_reducible refine kept_all ?_ (by omega) (by first | exact id | exact fun w => wf_filter w _ | exact fun w => wf_foldl_memWrite w _ _ _) (by exact id) (by omega))
    | with_reducible refine kept_next ?_
    | (extract_lets +onlyGivenNames x; (first | (refine kept_cut (a := s0) (x := x) ?_ ?_; (on_goal 1 => unfold x); (on_goal 2 => intro hx; clear_value x)) | (refine kept_cut (a := s0) (x := x.1) ?_ ?_; (on_goal 1 => unfold x); (on_goal 2 => intro hx; clear_value x)) | clear_value x))
    | with_reducible refine kept_ite ?_ ?_
    | with_reducible refine keptOut_ite ?_ ?_
    | split
    | dsimp only

theorem applyAssignment_kept {s0 : State} {s : State} (hk : Kept s0 s) :
    Kept s0 (applyAssignment s) := by
  unfold applyAssignment
  repeat' first
    | with_reducible assumption
    | fail_if_no_progress (with_reducible refine kept_mk ?_)
    | fail_if_no_progress (with_reducible refine kept_all ?_ (by omega) (by first | exact id | exact fun w => wf_filter w _ | exact fun w => wf_foldl_memWrite w _ _ _) (by exact id) (by omega))
    | with_reducible refine kept_next ?_
    | dsimp only

theorem zeroBank_kept {s0 : State} {s : State} {b : Nat} (hk : Kept s0 s) :
    Kept s0 (zeroBank s b) := by
  unfold zeroBank
  repeat' first
    | with_reducible assumption
    | fail_if_no_progress (with_reducible refine kept_mk ?_)
    | fail_if_no_progress (with_reducible refine kept_all ?_ (by omega) (by first | exact id | exact fun w => wf_filter w _ | exact fun w => wf_foldl_memWrite w _ _ _) (by exact id) (by omega))
    | with_reducible refine kept_next ?_
    | with_reducible refine zeroise_kept ?_
    | (extract_lets +onlyGivenNames x; (first | (refine kept_cut (a := s0) (x := x) ?_ ?_; (on_goal 1 => unfold x); (on_goal 2 => intro hx; clear_value x)) | (refine kept_cut (a := s0) (x := x.1) ?_ ?_; (on_goal 1 => unfold x); (on_goal 2 => intro hx; clear_value x)) | clear_value x))
    | dsimp only

theorem restBanks_kept {s0 : State} {s : State} (hk : Kept s0 s) :
    Kept s0 (restBanks s) := by
  unfold restBanks
  repeat' first
    | with_reducible assumption
    | fail_if_no_progress (with_reducible refine kept_mk ?_)
    | fail_if_no_progress (with_reducible refine kept_all ?_ (by omega) (by first | exact id | exact fun w => wf_filter w _ | exact fun w => wf_foldl_memWrite w _ _ _) (by exact id) (by omega))
    | with_reducible refine kept_next ?_
    | with_reducible refine kept_ite ?_ ?_
    | with_reducible refine keptOut_ite ?_ ?_
    | split
    | dsimp only

theorem stopStep1_kept {s0 : State} {s : State} (hk : Kept s0 s) :
    Kept s0 (stopStep1 s) := by
  unfold stopStep1
  repeat' first
    | with_reducible assumption
    | fail_if_no_progress (with_reducible refine kept_mk ?_)
    | fail_if_no_progress (with_reducible refine kept_all ?_ (by omega) (by first | exact id | exact fun w => wf_filter w _ | exact fun w => wf_foldl_memWrite w _ _ _) (by exact id) (by omega))
    | with_reducible refine kept_next ?_
    | with_reducible refine raise_kept ?_
    | with_reducible refine castVote_kept ?_
    | (extract_lets +onlyGivenNames x; (first | (refine kept_cut (a := s0) (x := x) ?_ ?_; (on_goal 1 => unfold x); (on_goal 2 => intro hx; clear_value x)) | (refine kept_cut (a := s0) (x := x.1) ?_ ?_; (on_goal 1 => unfold x); (on_goal 2 => intro hx; clear_value x)) | clear_value x))
    | with_reducible refine kept_ite ?_ ?_
    | with_reducible refine keptOut_ite ?_ ?_
    | split
    | dsimp only

theorem stopStep3_kept {s0 : State} {s : State} (hk : Kept s0 s) :
    Kept s0 (stopStep3 s) := by
  unfold stopStep3
  repeat' first
    | with_reducible assumption
    | fail_if_no_progress (with_reducible refine kept_mk ?_)
    | fail_if_no_progress (with_reducible refine kept_all ?_ (by omega) (by first | exact id | exact fun w => wf_filter w _ | exact fun w => wf_foldl_memWrite w _ _ _) (by exact id) (by omega))
    | with_reducible refine kept_next ?_
    | with_reducible refine startDump_kept ?_
    | (extract_lets +onlyGivenNames x; (first | (refine kept_cut (a := s0) (x := x) ?_ ?_; (on_goal 1 => unfold x); (on_goal 2 => intro hx; clear_value x)) | (refine kept_cut (a := s0) (x := x.1) ?_ ?_; (on_goal 1 => unfold x); (on_goal 2 => intro hx; clear_value x)) | clear_value x))
    | with_reducible refine kept_ite ?_ ?_
    | with_reducible refine keptOut_ite ?_ ?_
    | split
    | dsimp only

theorem endStop_kept {s0 : State} {s : State} (hk : Kept s0 s) :
    Kept s0 (endStop s) := by
  unfold endStop
  repeat' first
    | with_reducible assumption
    | fail_if_no_progress (with_reducible refine kept_mk ?_)
    | fail_if_no_progress (with_reducible refine kept_all ?_ (by omega) (by first | exact id | exact fun w => wf_filter w _ | exact fun w => wf_foldl_memWrite w _ _ _) (by exact id) (by omega))
    | with_reducible refine kept_next ?_
    | with_reducible refine stopStep1_kept ?_
    | with_reducible refine discardStep_kept ?_
    | with_reducible refine stopStep3_kept ?_
    | with_reducible refine finishDump_kept ?_
    | (extract_lets +onlyGivenNames x; (first | (refine kept_cut (a := s0) (x := x) ?_ ?_; (on_goal 1 => unfold x); (on_goal 2 => intro hx; clear_value x)) | (refine kept_cut (a := s0) (x := x.1) ?_ ?_; (on_goal 1 => unfold x); (on_goal 2 => intro hx; clear_value x)) | clear_value x))
    | with_reducible refine kept_ite ?_ ?_
    | with_reducible refine keptOut_ite ?_ ?_
    | split
    | dsimp only

theorem wakeClocks_kept {s0 : State} {s : State} (hk : Kept s0 s) :
    Kept s0 (wakeClocks s) := by
  unfold wakeClocks
  repeat' first
    | with_reducible assumption
    | fail_if_no_progress (with_reducible refine kept_mk ?_)
    | fail_if_no_progress (with_reducible refine kept_all ?_ (by omega) (by first | exact id | exact fun w => wf_filter w _ | exact fun w => wf_foldl_memWrite w _ _ _) (by exact id) (by omega))
    | with_reducible refine kept_next ?_
    | with_reducible refine leaveEclipse_kept ?_
    | with_reducible refine kept_foldl (fun t x ht => ?_) ?_
    | with_reducible refine kept_foldl_pair (fun t x ht => ?_) ?_
    | dsimp only

theorem afterRun_kept {s0 : State} {s : State} (hk : Kept s0 s) :
    Kept s0 (afterRun s) := by
  unfold afterRun
  repeat' first
    | with_reducible assumption
    | fail_if_no_progress (with_reducible refine kept_mk ?_)
    | fail_if_no_progress (with_reducible refine kept_all ?_ (by omega) (by first | exact id | exact fun w => wf_filter w _ | exact fun w => wf_foldl_memWrite w _ _ _) (by exact id) (by omega))
    | with_reducible refine kept_next ?_
    | with_reducible refine wakeClocks_kept ?_
    | with_reducible refine restBanks_kept ?_
    | with_reducible refine zeroBank_kept ?_
    | with_reducible refine kept_foldl (fun t x ht => ?_) ?_
    | with_reducible refine kept_foldl_pair (fun t x ht => ?_) ?_
    | (extract_lets +onlyGivenNames x; (first | (refine kept_cut (a := s0) (x := x) ?_ ?_; (on_goal 1 => unfold x); (on_goal 2 => intro hx; clear_value x)) | (refine kept_cut (a := s0) (x := x.1) ?_ ?_; (on_goal 1 => unfold x); (on_goal 2 => intro hx; clear_value x)) | clear_value x))
    | dsimp only

theorem completeRun_kept {s0 : State} {s : State} (hk : Kept s0 s) :
    Kept s0 (completeRun s) := by
  unfold completeRun
  repeat' first
    | with_reducible assumption
    | fail_if_no_progress (with_reducible refine kept_mk ?_)
    | fail_if_no_progress (with_reducible refine kept_all ?_ (by omega) (by first | exact id | exact fun w => wf_filter w _ | exact fun w => wf_foldl_memWrite w _ _ _) (by exact id) (by omega))
    | with_reducible refine kept_next ?_
    | with_reducible refine discardStep_kept ?_
    | with_reducible refine afterRun_kept ?_
    | with_reducible refine complete_kept ?_
    | with_reducible refine kept_foldl (fun t x ht => ?_) ?_
    | with_reducible refine kept_foldl_pair (fun t x ht => ?_) ?_
    | (extract_lets +onlyGivenNames x; (first | (refine kept_cut (a := s0) (x := x) ?_ ?_; (on_goal 1 => unfold x); (on_goal 2 => intro hx; clear_value x)) | (refine kept_cut (a := s0) (x := x.1) ?_ ?_; (on_goal 1 => unfold x); (on_goal 2 => intro hx; clear_value x)) | clear_value x))
    | split
    | dsimp only

theorem haltRun_kept {s0 : State} {s : State} (hk : Kept s0 s) :
    Kept s0 (haltRun s) := by
  unfold haltRun
  repeat' first
    | with_reducible assumption
    | fail_if_no_progress (with_reducible refine kept_mk ?_)
    | fail_if_no_progress (with_reducible refine kept_all ?_ (by omega) (by first | exact id | exact fun w => wf_filter w _ | exact fun w => wf_foldl_memWrite w _ _ _) (by exact id) (by omega))
    | with_reducible refine kept_next ?_
    | with_reducible refine haltAll_kept ?_
    | with_reducible refine endStop_kept ?_
    | dsimp only

theorem zeroJob_kept {s0 : State} {s : State} (hk : Kept s0 s) :
    Kept s0 (zeroJob s) := by
  unfold zeroJob
  repeat' first
    | with_reducible assumption
    | fail_if_no_progress (with_reducible refine kept_mk ?_)
    | fail_if_no_progress (with_reducible refine kept_all ?_ (by omega) (by first | exact id | exact fun w => wf_filter w _ | exact fun w => wf_foldl_memWrite w _ _ _) (by exact id) (by omega))
    | with_reducible refine kept_next ?_
    | with_reducible refine zeroise_kept ?_
    | with_reducible refine draw_kept ?_
    | with_reducible refine raise_kept ?_
    | with_reducible refine kept_foldl (fun t x ht => ?_) ?_
    | with_reducible refine kept_foldl_pair (fun t x ht => ?_) ?_
    | (extract_lets +onlyGivenNames x; (first | (refine kept_cut (a := s0) (x := x) ?_ ?_; (on_goal 1 => unfold x); (on_goal 2 => intro hx; clear_value x)) | (refine kept_cut (a := s0) (x := x.1) ?_ ?_; (on_goal 1 => unfold x); (on_goal 2 => intro hx; clear_value x)) | clear_value x))
    | dsimp only

theorem jobless_kept {s0 : State} {s : State} (hk : Kept s0 s) :
    Kept s0 (jobless s) := by
  unfold jobless
  repeat' first
    | with_reducible assumption
    | fail_if_no_progress (with_reducible refine kept_mk ?_)
    | fail_if_no_progress (with_reducible refine kept_all ?_ (by omega) (by first | exact id | exact fun w => wf_filter w _ | exact fun w => wf_foldl_memWrite w _ _ _) (by exact id) (by omega))
    | with_reducible refine kept_next ?_
    | with_reducible refine wakeClocks_kept ?_
    | (extract_lets +onlyGivenNames x; (first | (refine kept_cut (a := s0) (x := x) ?_ ?_; (on_goal 1 => unfold x); (on_goal 2 => intro hx; clear_value x)) | (refine kept_cut (a := s0) (x := x.1) ?_ ?_; (on_goal 1 => unfold x); (on_goal 2 => intro hx; clear_value x)) | clear_value x))
    | with_reducible refine kept_ite ?_ ?_
    | with_reducible refine keptOut_ite ?_ ?_
    | split
    | dsimp only

theorem clearJob_kept {s0 : State} {s : State} (hk : Kept s0 s) :
    Kept s0 (clearJob s) := by
  unfold clearJob
  repeat' first
    | with_reducible assumption
    | fail_if_no_progress (with_reducible refine kept_mk ?_)
    | fail_if_no_progress (with_reducible refine kept_all ?_ (by omega) (by first | exact id | exact fun w => wf_filter w _ | exact fun w => wf_foldl_memWrite w _ _ _) (by exact id) (by omega))
    | with_reducible refine kept_next ?_
    | with_reducible refine jobless_kept ?_
    | with_reducible refine zeroJob_kept ?_
    | dsimp only

theorem closeAll_kept {s0 : State} {s : State} (hk : Kept s0 s) :
    Kept s0 (closeAll s) := by
  unfold closeAll
  repeat' first
    | with_reducible assumption
    | fail_if_no_progress (with_reducible refine kept_mk ?_)
    | fail_if_no_progress (with_reducible refine kept_all ?_ (by omega) (by first | exact id | exact fun w => wf_filter w _ | exact fun w => wf_foldl_memWrite w _ _ _) (by exact id) (by omega))
    | with_reducible refine kept_next ?_
    | with_reducible refine complete_kept ?_
    | with_reducible refine kept_foldl (fun t x ht => ?_) ?_
    | with_reducible refine kept_foldl_pair (fun t x ht => ?_) ?_
    | dsimp only

theorem dropCopies_kept {s0 : State} {s : State} (hk : Kept s0 s) :
    Kept s0 (dropCopies s) := by
  unfold dropCopies
  repeat' first
    | with_reducible assumption
    | fail_if_no_progress (with_reducible refine kept_mk ?_)
    | fail_if_no_progress (with_reducible refine kept_all ?_ (by omega) (by first | exact id | exact fun w => wf_filter w _ | exact fun w => wf_foldl_memWrite w _ _ _) (by exact id) (by omega))
    | with_reducible refine kept_next ?_
    | with_reducible refine complete_kept ?_
    | with_reducible refine kept_foldl (fun t x ht => ?_) ?_
    | with_reducible refine kept_foldl_pair (fun t x ht => ?_) ?_
    | dsimp only

theorem dropSnap_kept {s0 : State} {s : State} (hk : Kept s0 s) :
    Kept s0 (dropSnap s) := by
  unfold dropSnap
  repeat' first
    | with_reducible assumption
    | fail_if_no_progress (with_reducible refine kept_mk ?_)
    | fail_if_no_progress (with_reducible refine kept_all ?_ (by omega) (by first | exact id | exact fun w => wf_filter w _ | exact fun w => wf_foldl_memWrite w _ _ _) (by exact id) (by omega))
    | with_reducible refine kept_next ?_
    | with_reducible refine complete_kept ?_
    | split
    | dsimp only

theorem wear_kept {s0 : State} {s : State} (hk : Kept s0 s) :
    Kept s0 (wear s) := by
  unfold wear
  repeat' first
    | with_reducible assumption
    | fail_if_no_progress (with_reducible refine kept_mk ?_)
    | fail_if_no_progress (with_reducible refine kept_all ?_ (by omega) (by first | exact id | exact fun w => wf_filter w _ | exact fun w => wf_foldl_memWrite w _ _ _) (by exact id) (by omega))
    | with_reducible refine kept_next ?_
    | with_reducible refine raise_kept ?_
    | with_reducible refine setBit_kept ?_
    | (extract_lets +onlyGivenNames x; (first | (refine kept_cut (a := s0) (x := x) ?_ ?_; (on_goal 1 => unfold x); (on_goal 2 => intro hx; clear_value x)) | (refine kept_cut (a := s0) (x := x.1) ?_ ?_; (on_goal 1 => unfold x); (on_goal 2 => intro hx; clear_value x)) | clear_value x))
    | with_reducible refine kept_ite ?_ ?_
    | with_reducible refine keptOut_ite ?_ ?_
    | split
    | dsimp only

theorem commitTxn_kept {s0 : State} {s : State} {f : Vault → Vault} (hk : Kept s0 s) :
    Kept s0 (commitTxn s f) := by
  unfold commitTxn
  repeat' first
    | with_reducible assumption
    | fail_if_no_progress (with_reducible refine kept_mk ?_)
    | fail_if_no_progress (with_reducible refine kept_all ?_ (by omega) (by first | exact id | exact fun w => wf_filter w _ | exact fun w => wf_foldl_memWrite w _ _ _) (by exact id) (by omega))
    | with_reducible refine kept_next ?_
    | with_reducible refine wear_kept ?_
    | (extract_lets +onlyGivenNames x; (first | (refine kept_cut (a := s0) (x := x) ?_ ?_; (on_goal 1 => unfold x); (on_goal 2 => intro hx; clear_value x)) | (refine kept_cut (a := s0) (x := x.1) ?_ ?_; (on_goal 1 => unfold x); (on_goal 2 => intro hx; clear_value x)) | clear_value x))
    | dsimp only

theorem setDefect_kept {s0 : State} {s : State} {k v : Nat} (hk : Kept s0 s) :
    Kept s0 (setDefect s k v) := by
  unfold setDefect
  repeat' first
    | with_reducible assumption
    | fail_if_no_progress (with_reducible refine kept_mk ?_)
    | fail_if_no_progress (with_reducible refine kept_all ?_ (by omega) (by first | exact id | exact fun w => wf_filter w _ | exact fun w => wf_foldl_memWrite w _ _ _) (by exact id) (by omega))
    | with_reducible refine kept_next ?_
    | with_reducible refine kept_ite ?_ ?_
    | with_reducible refine keptOut_ite ?_ ?_
    | split
    | dsimp only

theorem edgeFail_kept {s0 : State} {s : State} {e : Nat} (hk : Kept s0 s) :
    Kept s0 (edgeFail s e) := by
  unfold edgeFail
  repeat' first
    | with_reducible assumption
    | fail_if_no_progress (with_reducible refine kept_mk ?_)
    | fail_if_no_progress (with_reducible refine kept_all ?_ (by omega) (by first | exact id | exact fun w => wf_filter w _ | exact fun w => wf_foldl_memWrite w _ _ _) (by exact id) (by omega))
    | with_reducible refine kept_next ?_
    | with_reducible refine latch_kept ?_
    | with_reducible refine raise_kept ?_
    | with_reducible refine kept_foldl (fun t x ht => ?_) ?_
    | with_reducible refine kept_foldl_pair (fun t x ht => ?_) ?_
    | (extract_lets +onlyGivenNames x; (first | (refine kept_cut (a := s0) (x := x) ?_ ?_; (on_goal 1 => unfold x); (on_goal 2 => intro hx; clear_value x)) | (refine kept_cut (a := s0) (x := x.1) ?_ ?_; (on_goal 1 => unfold x); (on_goal 2 => intro hx; clear_value x)) | clear_value x))
    | dsimp only

theorem retireDies_kept {s0 : State} {s : State} (hk : Kept s0 s) :
    Kept s0 (retireDies s) := by
  unfold retireDies
  repeat' first
    | with_reducible assumption
    | fail_if_no_progress (with_reducible refine kept_mk ?_)
    | fail_if_no_progress (with_reducible refine kept_all ?_ (by omega) (by first | exact id | exact fun w => wf_filter w _ | exact fun w => wf_foldl_memWrite w _ _ _) (by exact id) (by omega))
    | with_reducible refine kept_next ?_
    | with_reducible refine failPosition_kept ?_
    | with_reducible refine kept_foldl (fun t x ht => ?_) ?_
    | with_reducible refine kept_foldl_pair (fun t x ht => ?_) ?_
    | with_reducible refine kept_ite ?_ ?_
    | with_reducible refine keptOut_ite ?_ ?_
    | split
    | dsimp only

theorem removeUnit_kept {s0 : State} {s : State} {kind loc action : Nat} (hk : Kept s0 s) :
    Kept s0 (removeUnit s kind loc action) := by
  unfold removeUnit
  repeat' first
    | with_reducible assumption
    | fail_if_no_progress (with_reducible refine kept_mk ?_)
    | fail_if_no_progress (with_reducible refine kept_all ?_ (by omega) (by first | exact id | exact fun w => wf_filter w _ | exact fun w => wf_foldl_memWrite w _ _ _) (by exact id) (by omega))
    | with_reducible refine kept_next ?_
    | with_reducible refine failPosition_kept ?_
    | with_reducible refine setDefect_kept ?_
    | with_reducible refine retireDies_kept ?_
    | with_reducible refine kept_ite ?_ ?_
    | with_reducible refine keptOut_ite ?_ ?_
    | split
    | dsimp only

theorem announce_kept {s0 : State} {s : State} {e : FEntry} (hk : Kept s0 s) :
    Kept s0 (announce s e) := by
  unfold announce
  repeat' first
    | with_reducible assumption
    | fail_if_no_progress (with_reducible refine kept_mk ?_)
    | fail_if_no_progress (with_reducible refine kept_all ?_ (by omega) (by first | exact id | exact fun w => wf_filter w _ | exact fun w => wf_foldl_memWrite w _ _ _) (by exact id) (by omega))
    | with_reducible refine kept_next ?_
    | with_reducible refine edgeFail_kept ?_
    | with_reducible refine latch_kept ?_
    | with_reducible refine draw_kept ?_
    | with_reducible refine raise_kept ?_
    | with_reducible refine kept_foldl (fun t x ht => ?_) ?_
    | with_reducible refine kept_foldl_pair (fun t x ht => ?_) ?_
    | (extract_lets +onlyGivenNames x; (first | (refine kept_cut (a := s0) (x := x) ?_ ?_; (on_goal 1 => unfold x); (on_goal 2 => intro hx; clear_value x)) | (refine kept_cut (a := s0) (x := x.1) ?_ ?_; (on_goal 1 => unfold x); (on_goal 2 => intro hx; clear_value x)) | clear_value x))
    | with_reducible refine kept_ite ?_ ?_
    | with_reducible refine keptOut_ite ?_ ?_
    | split
    | dsimp only

theorem commitFault_kept {s0 : State} {s : State} {e : FEntry} (hk : Kept s0 s) :
    Kept s0 (commitFault s e) := by
  unfold commitFault
  repeat' first
    | with_reducible assumption
    | fail_if_no_progress (with_reducible refine kept_mk ?_)
    | fail_if_no_progress (with_reducible refine kept_all ?_ (by omega) (by first | exact id | exact fun w => wf_filter w _ | exact fun w => wf_foldl_memWrite w _ _ _) (by exact id) (by omega))
    | with_reducible refine kept_next ?_
    | with_reducible refine removeUnit_kept ?_
    | with_reducible refine announce_kept ?_
    | with_reducible refine rewriteCap_kept ?_
    | with_reducible refine commitTxn_kept ?_
    | (extract_lets +onlyGivenNames x; (first | (refine kept_cut (a := s0) (x := x) ?_ ?_; (on_goal 1 => unfold x); (on_goal 2 => intro hx; clear_value x)) | (refine kept_cut (a := s0) (x := x.1) ?_ ?_; (on_goal 1 => unfold x); (on_goal 2 => intro hx; clear_value x)) | clear_value x))
    | dsimp only

theorem recordFault_kept {s0 : State} {s : State} {e : FEntry} (hk : Kept s0 s) :
    Kept s0 (recordFault s e) := by
  unfold recordFault
  repeat' first
    | with_reducible assumption
    | fail_if_no_progress (with_reducible refine kept_mk ?_)
    | fail_if_no_progress (with_reducible refine kept_all ?_ (by omega) (by first | exact id | exact fun w => wf_filter w _ | exact fun w => wf_foldl_memWrite w _ _ _) (by exact id) (by omega))
    | with_reducible refine kept_next ?_
    | with_reducible refine kept_ite ?_ ?_
    | with_reducible refine keptOut_ite ?_ ?_
    | split
    | dsimp only

theorem runTxn_kept {s0 : State} {s : State} {t : Txn} (hk : Kept s0 s) :
    Kept s0 (runTxn s t) := by
  unfold runTxn
  repeat' first
    | with_reducible assumption
    | fail_if_no_progress (with_reducible refine kept_mk ?_)
    | fail_if_no_progress (with_reducible refine kept_all ?_ (by omega) (by first | exact id | exact fun w => wf_filter w _ | exact fun w => wf_foldl_memWrite w _ _ _) (by exact id) (by omega))
    | with_reducible refine kept_next ?_
    | with_reducible refine commitFault_kept ?_
    | with_reducible refine commitTxn_kept ?_
    | with_reducible refine kept_ite ?_ ?_
    | with_reducible refine keptOut_ite ?_ ?_
    | split
    | dsimp only

theorem drainVault_kept {s0 : State} {s : State} (hk : Kept s0 s) :
    Kept s0 (drainVault s) := by
  unfold drainVault
  repeat' first
    | with_reducible assumption
    | fail_if_no_progress (with_reducible refine kept_mk ?_)
    | fail_if_no_progress (with_reducible refine kept_all ?_ (by omega) (by first | exact id | exact fun w => wf_filter w _ | exact fun w => wf_foldl_memWrite w _ _ _) (by exact id) (by omega))
    | with_reducible refine kept_next ?_
    | with_reducible refine runTxn_kept ?_
    | with_reducible refine kept_foldl (fun t x ht => ?_) ?_
    | with_reducible refine kept_foldl_pair (fun t x ht => ?_) ?_
    | dsimp only

theorem commitNow_kept {s0 : State} {s : State} {f : Vault → Vault} (hk : Kept s0 s) :
    Kept s0 (commitNow s f) := by
  unfold commitNow
  repeat' first
    | with_reducible assumption
    | fail_if_no_progress (with_reducible refine kept_mk ?_)
    | fail_if_no_progress (with_reducible refine kept_all ?_ (by omega) (by first | exact id | exact fun w => wf_filter w _ | exact fun w => wf_foldl_memWrite w _ _ _) (by exact id) (by omega))
    | with_reducible refine kept_next ?_
    | with_reducible refine commitTxn_kept ?_
    | with_reducible refine drainVault_kept ?_
    | dsimp only

theorem failVault_kept {s0 : State} {s : State} (hk : Kept s0 s) :
    Kept s0 (failVault s) := by
  unfold failVault
  repeat' first
    | with_reducible assumption
    | fail_if_no_progress (with_reducible refine kept_mk ?_)
    | fail_if_no_progress (with_reducible refine kept_all ?_ (by omega) (by first | exact id | exact fun w => wf_filter w _ | exact fun w => wf_foldl_memWrite w _ _ _) (by exact id) (by omega))
    | with_reducible refine kept_next ?_
    | with_reducible refine raise_kept ?_
    | dsimp only

theorem readDual_kept {s0 : State} {s : State} {fmap : Bool} (hk : Kept s0 s) :
    Kept s0 (readDual s fmap) := by
  unfold readDual
  repeat' first
    | with_reducible assumption
    | fail_if_no_progress (with_reducible refine kept_mk ?_)
    | fail_if_no_progress (with_reducible refine kept_all ?_ (by omega) (by first | exact id | exact fun w => wf_filter w _ | exact fun w => wf_foldl_memWrite w _ _ _) (by exact id) (by omega))
    | with_reducible refine kept_next ?_
    | with_reducible refine commitTxn_kept ?_
    | with_reducible refine raise_kept ?_
    | with_reducible refine setBit_kept ?_
    | with_reducible refine failVault_kept ?_
    | (extract_lets +onlyGivenNames x; (first | (refine kept_cut (a := s0) (x := x) ?_ ?_; (on_goal 1 => unfold x); (on_goal 2 => intro hx; clear_value x)) | (refine kept_cut (a := s0) (x := x.1) ?_ ?_; (on_goal 1 => unfold x); (on_goal 2 => intro hx; clear_value x)) | clear_value x))
    | with_reducible refine kept_ite ?_ ?_
    | with_reducible refine keptOut_ite ?_ ?_
    | split
    | dsimp only

theorem updDram_kept {s0 : State} {s : State} {u : Nat} {f : Dram → Dram} (hk : Kept s0 s) :
    Kept s0 (updDram s u f) := by
  unfold updDram
  repeat' first
    | with_reducible assumption
    | fail_if_no_progress (with_reducible refine kept_mk ?_)
    | fail_if_no_progress (with_reducible refine kept_all ?_ (by omega) (by first | exact id | exact fun w => wf_filter w _ | exact fun w => wf_foldl_memWrite w _ _ _) (by exact id) (by omega))
    | with_reducible refine kept_next ?_
    | dsimp only

theorem readout_kept {s0 : State} {s : State} {u temp : Nat} (hk : Kept s0 s) :
    Kept s0 (readout s u temp) := by
  unfold readout
  repeat' first
    | with_reducible assumption
    | fail_if_no_progress (with_reducible refine kept_mk ?_)
    | fail_if_no_progress (with_reducible refine kept_all ?_ (by omega) (by first | exact id | exact fun w => wf_filter w _ | exact fun w => wf_foldl_memWrite w _ _ _) (by exact id) (by omega))
    | with_reducible refine kept_next ?_
    | with_reducible refine updDram_kept ?_
    | dsimp only

theorem readArea_kept {s0 : State} {s : State} {area off len : Nat} (hk : Kept s0 s) :
    Kept s0 (readArea s area off len).1 := by
  unfold readArea
  repeat' first
    | with_reducible assumption
    | fail_if_no_progress (with_reducible refine kept_mk ?_)
    | fail_if_no_progress (with_reducible refine kept_all ?_ (by omega) (by first | exact id | exact fun w => wf_filter w _ | exact fun w => wf_foldl_memWrite w _ _ _) (by exact id) (by omega))
    | with_reducible refine kept_next ?_
    | with_reducible refine raise_kept ?_
    | with_reducible refine setBit_kept ?_
    | with_reducible refine draw_kept ?_
    | with_reducible refine readDual_kept ?_
    | (extract_lets +onlyGivenNames x; (first | (refine kept_cut (a := s0) (x := x) ?_ ?_; (on_goal 1 => unfold x); (on_goal 2 => intro hx; clear_value x)) | (refine kept_cut (a := s0) (x := x.1) ?_ ?_; (on_goal 1 => unfold x); (on_goal 2 => intro hx; clear_value x)) | clear_value x))
    | with_reducible refine kept_ite ?_ ?_
    | with_reducible refine keptOut_ite ?_ ?_
    | split
    | dsimp only

theorem updPower_kept {s0 : State} {s : State} {f : Power → Power} (hk : Kept s0 s) :
    Kept s0 (updPower s f) := by
  unfold updPower
  repeat' first
    | with_reducible assumption
    | fail_if_no_progress (with_reducible refine kept_mk ?_)
    | fail_if_no_progress (with_reducible refine kept_all ?_ (by omega) (by first | exact id | exact fun w => wf_filter w _ | exact fun w => wf_foldl_memWrite w _ _ _) (by exact id) (by omega))
    | with_reducible refine kept_next ?_
    | dsimp only

theorem cleared_kept {s0 : State} {s : State} (hk : Kept s0 s) : Kept s0 (cleared s) :=
  kept_parts hk rfl (Nat.le_refl _) (fun _ => rfl) id (fun _ => Nat.zero_le 4)

theorem dark_kept {s0 : State} {s : State} (hk : Kept s0 s) :
    Kept s0 (dark s) := by
  unfold dark
  repeat' first
    | with_reducible assumption
    | fail_if_no_progress (with_reducible refine kept_mk ?_)
    | fail_if_no_progress (with_reducible refine kept_all ?_ (by omega) (by first | exact id | exact fun w => wf_filter w _ | exact fun w => wf_foldl_memWrite w _ _ _) (by exact id) (by omega))
    | with_reducible refine kept_next ?_
    | with_reducible refine updPower_kept ?_
    | with_reducible refine cleared_kept ?_
    | dsimp only

theorem releasePins_kept {s0 : State} {s : State} {mv : Nat} (hk : Kept s0 s) :
    Kept s0 (releasePins s mv) := by
  unfold releasePins
  repeat' first
    | with_reducible assumption
    | fail_if_no_progress (with_reducible refine kept_mk ?_)
    | fail_if_no_progress (with_reducible refine kept_all ?_ (by omega) (by first | exact id | exact fun w => wf_filter w _ | exact fun w => wf_foldl_memWrite w _ _ _) (by exact id) (by omega))
    | with_reducible refine kept_next ?_
    | with_reducible refine updPower_kept ?_
    | with_reducible refine kept_ite ?_ ?_
    | with_reducible refine keptOut_ite ?_ ?_
    | split
    | dsimp only

theorem releasePorts_kept {s0 : State} {s : State} (hk : Kept s0 s) :
    Kept s0 (releasePorts s) := by
  unfold releasePorts
  repeat' first
    | with_reducible assumption
    | fail_if_no_progress (with_reducible refine kept_mk ?_)
    | fail_if_no_progress (with_reducible refine kept_all ?_ (by omega) (by first | exact id | exact fun w => wf_filter w _ | exact fun w => wf_foldl_memWrite w _ _ _) (by exact id) (by omega))
    | with_reducible refine kept_next ?_
    | with_reducible refine kept_ite ?_ ?_
    | with_reducible refine keptOut_ite ?_ ?_
    | split
    | dsimp only

theorem useRef_kept {s0 : State} {s : State} (hk : Kept s0 s) :
    Kept s0 (useRef s) := by
  unfold useRef
  repeat' first
    | with_reducible assumption
    | fail_if_no_progress (with_reducible refine kept_mk ?_)
    | fail_if_no_progress (with_reducible refine kept_all ?_ (by omega) (by first | exact id | exact fun w => wf_filter w _ | exact fun w => wf_foldl_memWrite w _ _ _) (by exact id) (by omega))
    | with_reducible refine kept_next ?_
    | with_reducible refine updPower_kept ?_
    | dsimp only

theorem loadSupps_kept {s0 : State} {s : State} (hk : Kept s0 s) :
    Kept s0 (loadSupps s) := by
  unfold loadSupps
  repeat' first
    | with_reducible assumption
    | fail_if_no_progress (with_reducible refine kept_mk ?_)
    | fail_if_no_progress (with_reducible refine kept_all ?_ (by omega) (by first | exact id | exact fun w => wf_filter w _ | exact fun w => wf_foldl_memWrite w _ _ _) (by exact id) (by omega))
    | with_reducible refine kept_next ?_
    | with_reducible refine raise_kept ?_
    | with_reducible refine setBit_kept ?_
    | (extract_lets +onlyGivenNames x; (first | (refine kept_cut (a := s0) (x := x) ?_ ?_; (on_goal 1 => unfold x); (on_goal 2 => intro hx; clear_value x)) | (refine kept_cut (a := s0) (x := x.1) ?_ ?_; (on_goal 1 => unfold x); (on_goal 2 => intro hx; clear_value x)) | clear_value x))
    | with_reducible refine kept_ite ?_ ?_
    | with_reducible refine keptOut_ite ?_ ?_
    | split
    | dsimp only

theorem raiseBoot_kept {s0 : State} {s : State} (hk : Kept s0 s) :
    Kept s0 (raiseBoot s) := by
  unfold raiseBoot
  repeat' first
    | with_reducible assumption
    | fail_if_no_progress (with_reducible refine kept_mk ?_)
    | fail_if_no_progress (with_reducible refine kept_all ?_ (by omega) (by first | exact id | exact fun w => wf_filter w _ | exact fun w => wf_foldl_memWrite w _ _ _) (by exact id) (by omega))
    | with_reducible refine kept_next ?_
    | with_reducible refine failVault_kept ?_
    | with_reducible refine raise_kept ?_
    | with_reducible refine commitTxn_kept ?_
    | (extract_lets +onlyGivenNames x; (first | (refine kept_cut (a := s0) (x := x) ?_ ?_; (on_goal 1 => unfold x); (on_goal 2 => intro hx; clear_value x)) | (refine kept_cut (a := s0) (x := x.1) ?_ ?_; (on_goal 1 => unfold x); (on_goal 2 => intro hx; clear_value x)) | clear_value x))
    | with_reducible refine kept_ite ?_ ?_
    | with_reducible refine keptOut_ite ?_ ?_
    | split
    | dsimp only

theorem applyRepair_kept {s0 : State} {s : State} {e : FEntry} (hk : Kept s0 s) :
    Kept s0 (applyRepair s e) := by
  unfold applyRepair
  repeat' first
    | with_reducible assumption
    | fail_if_no_progress (with_reducible refine kept_mk ?_)
    | fail_if_no_progress (with_reducible refine kept_all ?_ (by omega) (by first | exact id | exact fun w => wf_filter w _ | exact fun w => wf_foldl_memWrite w _ _ _) (by exact id) (by omega))
    | with_reducible refine kept_next ?_
    | with_reducible refine setDefect_kept ?_
    | with_reducible refine kept_ite ?_ ?_
    | with_reducible refine keptOut_ite ?_ ?_
    | split
    | dsimp only

theorem countSpares_kept {s0 : State} {s : State} (hk : Kept s0 s) :
    Kept s0 (countSpares s) := by
  unfold countSpares
  repeat' first
    | with_reducible assumption
    | fail_if_no_progress (with_reducible refine kept_mk ?_)
    | fail_if_no_progress (with_reducible refine kept_all ?_ (by omega) (by first | exact id | exact fun w => wf_filter w _ | exact fun w => wf_foldl_memWrite w _ _ _) (by exact id) (by omega))
    | with_reducible refine kept_next ?_
    | (extract_lets +onlyGivenNames x; (first | (refine kept_cut (a := s0) (x := x) ?_ ?_; (on_goal 1 => unfold x); (on_goal 2 => intro hx; clear_value x)) | (refine kept_cut (a := s0) (x := x.1) ?_ ?_; (on_goal 1 => unfold x); (on_goal 2 => intro hx; clear_value x)) | clear_value x))
    | dsimp only

theorem mapInEffect_kept {s0 : State} {s : State} (hk : Kept s0 s) :
    Kept s0 (mapInEffect s) := by
  unfold mapInEffect
  repeat' first
    | with_reducible assumption
    | fail_if_no_progress (with_reducible refine kept_mk ?_)
    | fail_if_no_progress (with_reducible refine kept_all ?_ (by omega) (by first | exact id | exact fun w => wf_filter w _ | exact fun w => wf_foldl_memWrite w _ _ _) (by exact id) (by omega))
    | with_reducible refine kept_next ?_
    | dsimp only

theorem dropFull_kept {s0 : State} {s : State} (hk : Kept s0 s) :
    Kept s0 (dropFull s) := by
  unfold dropFull
  repeat' first
    | with_reducible assumption
    | fail_if_no_progress (with_reducible refine kept_mk ?_)
    | fail_if_no_progress (with_reducible refine kept_all ?_ (by omega) (by first | exact id | exact fun w => wf_filter w _ | exact fun w => wf_foldl_memWrite w _ _ _) (by exact id) (by omega))
    | with_reducible refine kept_next ?_
    | with_reducible refine kept_ite ?_ ?_
    | with_reducible refine keptOut_ite ?_ ?_
    | split
    | dsimp only

theorem applyNew_kept {s0 : State} {s : State} (hk : Kept s0 s) :
    Kept s0 (applyNew s) := by
  unfold applyNew
  repeat' first
    | with_reducible assumption
    | fail_if_no_progress (with_reducible refine kept_mk ?_)
    | fail_if_no_progress (with_reducible refine kept_all ?_ (by omega) (by first | exact id | exact fun w => wf_filter w _ | exact fun w => wf_foldl_memWrite w _ _ _) (by exact id) (by omega))
    | with_reducible refine kept_next ?_
    | with_reducible refine dropFull_kept ?_
    | with_reducible refine setDefect_kept ?_
    | with_reducible refine applyRepair_kept ?_
    | with_reducible refine countSpares_kept ?_
    | with_reducible refine mapInEffect_kept ?_
    | with_reducible refine kept_foldl (fun t x ht => ?_) ?_
    | with_reducible refine kept_foldl_pair (fun t x ht => ?_) ?_
    | (extract_lets +onlyGivenNames x; (first | (refine kept_cut (a := s0) (x := x) ?_ ?_; (on_goal 1 => unfold x); (on_goal 2 => intro hx; clear_value x)) | (refine kept_cut (a := s0) (x := x.1) ?_ ?_; (on_goal 1 => unfold x); (on_goal 2 => intro hx; clear_value x)) | clear_value x))
    | dsimp only

theorem trainFail_kept {s0 : State} {s : State} {u : Nat} (hk : Kept s0 s) :
    Kept s0 (trainFail s u) := by
  unfold trainFail
  repeat' first
    | with_reducible assumption
    | fail_if_no_progress (with_reducible refine kept_mk ?_)
    | fail_if_no_progress (with_reducible refine kept_all ?_ (by omega) (by first | exact id | exact fun w => wf_filter w _ | exact fun w => wf_foldl_memWrite w _ _ _) (by exact id) (by omega))
    | with_reducible refine kept_next ?_
    | with_reducible refine raise_kept ?_
    | with_reducible refine setDefect_kept ?_
    | with_reducible refine recordFault_kept ?_
    | (extract_lets +onlyGivenNames x; (first | (refine kept_cut (a := s0) (x := x) ?_ ?_; (on_goal 1 => unfold x); (on_goal 2 => intro hx; clear_value x)) | (refine kept_cut (a := s0) (x := x.1) ?_ ?_; (on_goal 1 => unfold x); (on_goal 2 => intro hx; clear_value x)) | clear_value x))
    | with_reducible refine kept_ite ?_ ?_
    | with_reducible refine keptOut_ite ?_ ?_
    | split
    | dsimp only

theorem zeroFast_kept {s0 : State} {s : State} (hk : Kept s0 s) :
    Kept s0 (zeroFast s) := by
  unfold zeroFast
  repeat' first
    | with_reducible assumption
    | fail_if_no_progress (with_reducible refine kept_mk ?_)
    | fail_if_no_progress (with_reducible refine kept_all ?_ (by omega) (by first | exact id | exact fun w => wf_filter w _ | exact fun w => wf_foldl_memWrite w _ _ _) (by exact id) (by omega))
    | with_reducible refine kept_next ?_
    | with_reducible refine zeroise_kept ?_
    | dsimp only

theorem bootFault_kept {s0 : State} {s : State} {k : Nat} (hk : Kept s0 s) :
    Kept s0 (bootFault s k) := by
  unfold bootFault
  repeat' first
    | with_reducible assumption
    | fail_if_no_progress (with_reducible refine kept_mk ?_)
    | fail_if_no_progress (with_reducible refine kept_all ?_ (by omega) (by first | exact id | exact fun w => wf_filter w _ | exact fun w => wf_foldl_memWrite w _ _ _) (by exact id) (by omega))
    | with_reducible refine kept_next ?_
    | with_reducible refine announce_kept ?_
    | (extract_lets +onlyGivenNames x; (first | (refine kept_cut (a := s0) (x := x) ?_ ?_; (on_goal 1 => unfold x); (on_goal 2 => intro hx; clear_value x)) | (refine kept_cut (a := s0) (x := x.1) ?_ ?_; (on_goal 1 => unfold x); (on_goal 2 => intro hx; clear_value x)) | clear_value x))
    | with_reducible refine kept_ite ?_ ?_
    | with_reducible refine keptOut_ite ?_ ?_
    | split
    | dsimp only

theorem applyMap_kept {s0 : State} {s : State} (hk : Kept s0 s) :
    Kept s0 (applyMap s) := by
  unfold applyMap
  repeat' first
    | with_reducible assumption
    | fail_if_no_progress (with_reducible refine kept_mk ?_)
    | fail_if_no_progress (with_reducible refine kept_all ?_ (by omega) (by first | exact id | exact fun w => wf_filter w _ | exact fun w => wf_foldl_memWrite w _ _ _) (by exact id) (by omega))
    | with_reducible refine kept_next ?_
    | with_reducible refine removeUnit_kept ?_
    | with_reducible refine kept_foldl (fun t x ht => ?_) ?_
    | with_reducible refine kept_foldl_pair (fun t x ht => ?_) ?_
    | with_reducible refine kept_ite ?_ ?_
    | with_reducible refine keptOut_ite ?_ ?_
    | split
    | dsimp only

theorem startPorts_kept {s0 : State} {s : State} (hk : Kept s0 s) :
    Kept s0 (startPorts s) := by
  unfold startPorts
  repeat' first
    | with_reducible assumption
    | fail_if_no_progress (with_reducible refine kept_mk ?_)
    | fail_if_no_progress (with_reducible refine kept_all ?_ (by omega) (by first | exact id | exact fun w => wf_filter w _ | exact fun w => wf_foldl_memWrite w _ _ _) (by exact id) (by omega))
    | with_reducible refine kept_next ?_
    | with_reducible refine updPower_kept ?_
    | with_reducible refine bringUp_kept ?_
    | with_reducible refine kept_foldl (fun t x ht => ?_) ?_
    | with_reducible refine kept_foldl_pair (fun t x ht => ?_) ?_
    | (extract_lets +onlyGivenNames x; (first | (refine kept_cut (a := s0) (x := x) ?_ ?_; (on_goal 1 => unfold x); (on_goal 2 => intro hx; clear_value x)) | (refine kept_cut (a := s0) (x := x.1) ?_ ?_; (on_goal 1 => unfold x); (on_goal 2 => intro hx; clear_value x)) | clear_value x))
    | with_reducible refine kept_ite ?_ ?_
    | with_reducible refine keptOut_ite ?_ ?_
    | split
    | dsimp only

theorem logReset_kept {s0 : State} {s : State} (hk : Kept s0 s) :
    Kept s0 (logReset s) := by
  unfold logReset
  repeat' first
    | with_reducible assumption
    | fail_if_no_progress (with_reducible refine kept_mk ?_)
    | fail_if_no_progress (with_reducible refine kept_all ?_ (by omega) (by first | exact id | exact fun w => wf_filter w _ | exact fun w => wf_foldl_memWrite w _ _ _) (by exact id) (by omega))
    | with_reducible refine kept_next ?_
    | with_reducible refine draw_kept ?_
    | with_reducible refine logPut_kept ?_
    | (extract_lets +onlyGivenNames x; (first | (refine kept_cut (a := s0) (x := x) ?_ ?_; (on_goal 1 => unfold x); (on_goal 2 => intro hx; clear_value x)) | (refine kept_cut (a := s0) (x := x.1) ?_ ?_; (on_goal 1 => unfold x); (on_goal 2 => intro hx; clear_value x)) | clear_value x))
    | dsimp only

theorem beginReset_kept {s0 : State} {s : State} {kind : Nat} (hk : Kept s0 s) : Kept s0 (beginReset s kind) := by
  unfold beginReset
  extract_lets used st t v
  have ht : Kept s0 t := logReset_kept (jobless_kept hk)
  have hs : st ≤ 4 := by unfold st; split <;> omega
  clear_value t st
  exact updPower_kept (kept_all ht (Nat.le_refl _) id id (fun _ => hs))

theorem warmReset_kept {s0 : State} {s : State} {v : Nat} (hk : Kept s0 s) :
    Kept s0 (warmReset s v) := by
  unfold warmReset
  repeat' first
    | with_reducible assumption
    | fail_if_no_progress (with_reducible refine kept_mk ?_)
    | fail_if_no_progress (with_reducible refine kept_all ?_ (by omega) (by first | exact id | exact fun w => wf_filter w _ | exact fun w => wf_foldl_memWrite w _ _ _) (by exact id) (by omega))
    | with_reducible refine kept_next ?_
    | with_reducible refine beginReset_kept ?_
    | with_reducible refine kept_ite ?_ ?_
    | with_reducible refine keptOut_ite ?_ ?_
    | split
    | dsimp only

end Sys2Proof.Machine
end

