-- ==== Sys2Proof/Laws/KeptRest.lean ====
section
/-! SUPPORT. What the operations on memory tiers, clocks, self-tests, management, host commands, registers, general cores, courses and ticks keep (see Kept). -/
namespace Sys2Proof.Machine
open Sys2Proof
set_option linter.unreachableTactic false
set_option linter.unusedTactic false
set_option linter.unusedVariables false

theorem storeCorrected_kept {s0 : State} {s : State} {cw : Nat} {m : Option (List Byte)} (hk : Kept s0 s) :
    Kept s0 (storeCorrected s cw m) := by
  unfold storeCorrected
  refine kept_all hk (Nat.le_refl _) (fun w => ?_) (by exact id) (by exact id)
  cases m with
  | none => exact w
  | some k => exact wf_memWrite w _ _

theorem scrubBad_kept {s0 : State} {s : State} {cw : Nat} (hk : Kept s0 s) :
    Kept s0 (scrubBad s cw) := by
  unfold scrubBad
  repeat' first
    | with_reducible assumption
    | fail_if_no_progress (with_reducible refine kept_mk ?_)
    | fail_if_no_progress (with_reducible refine kept_all ?_ (by omega) (by first | exact id | exact fun w => wf_filter w _ | exact fun w => wf_foldl_memWrite w _ _ _) (by exact id) (by omega))
    | with_reducible refine kept_next ?_
    | with_reducible refine bump_kept ?_
    | with_reducible refine latch_kept ?_
    | with_reducible refine setReg_kept ?_
    | with_reducible refine requestTest_kept ?_
    | with_reducible refine raise_kept ?_
    | (extract_lets +onlyGivenNames x; (first | (refine kept_cut (a := s0) (x := x) ?_ ?_; (on_goal 1 => unfold x); (on_goal 2 => intro hx; clear_value x)) | (refine kept_cut (a := s0) (x := x.1) ?_ ?_; (on_goal 1 => unfold x); (on_goal 2 => intro hx; clear_value x)) | clear_value x))
    | with_reducible refine kept_ite ?_ ?_
    | with_reducible refine keptOut_ite ?_ ?_
    | split
    | dsimp only

theorem scrubRead_kept {s0 : State} {s : State} {cw : Nat} (hk : Kept s0 s) :
    Kept s0 (scrubRead s cw) := by
  unfold scrubRead
  repeat' first
    | with_reducible assumption
    | fail_if_no_progress (with_reducible refine kept_mk ?_)
    | fail_if_no_progress (with_reducible refine kept_all ?_ (by omega) (by first | exact id | exact fun w => wf_filter w _ | exact fun w => wf_foldl_memWrite w _ _ _) (by exact id) (by omega))
    | with_reducible refine kept_next ?_
    | with_reducible refine corrected_kept ?_
    | with_reducible refine storeCorrected_kept ?_
    | with_reducible refine scrubBad_kept ?_
    | with_reducible refine kept_ite ?_ ?_
    | with_reducible refine keptOut_ite ?_ ?_
    | split
    | dsimp only

theorem policyDone_kept {s0 : State} {s : State} (hk : Kept s0 s) :
    Kept s0 (policyDone s) := by
  unfold policyDone
  repeat' first
    | with_reducible assumption
    | fail_if_no_progress (with_reducible refine kept_mk ?_)
    | fail_if_no_progress (with_reducible refine kept_all ?_ (by omega) (by first | exact id | exact fun w => wf_filter w _ | exact fun w => wf_foldl_memWrite w _ _ _) (by exact id) (by omega))
    | with_reducible refine kept_next ?_
    | with_reducible refine updPower_kept ?_
    | with_reducible refine complete_kept ?_
    | with_reducible refine kept_foldl (fun t x ht => ?_) ?_
    | with_reducible refine kept_foldl_pair (fun t x ht => ?_) ?_
    | (extract_lets +onlyGivenNames x; (first | (refine kept_cut (a := s0) (x := x) ?_ ?_; (on_goal 1 => unfold x); (on_goal 2 => intro hx; clear_value x)) | (refine kept_cut (a := s0) (x := x.1) ?_ ?_; (on_goal 1 => unfold x); (on_goal 2 => intro hx; clear_value x)) | clear_value x))
    | dsimp only

theorem askStretch_kept {s0 : State} {s : State} {g k : Nat} (hk : Kept s0 s) :
    Kept s0 (askStretch s g k) := by
  unfold askStretch
  repeat' first
    | with_reducible assumption
    | fail_if_no_progress (with_reducible refine kept_mk ?_)
    | fail_if_no_progress (with_reducible refine kept_all ?_ (by omega) (by first | exact id | exact fun w => wf_filter w _ | exact fun w => wf_foldl_memWrite w _ _ _) (by exact id) (by omega))
    | with_reducible refine kept_next ?_
    | with_reducible refine updClu_kept ?_
    | dsimp only

theorem halfRow_kept {s0 : State} {s : State} {was now : Bool} (hk : Kept s0 s) :
    Kept s0 (halfRow s was now) := by
  unfold halfRow
  repeat' first
    | with_reducible assumption
    | fail_if_no_progress (with_reducible refine kept_mk ?_)
    | fail_if_no_progress (with_reducible refine kept_all ?_ (by omega) (by first | exact id | exact fun w => wf_filter w _ | exact fun w => wf_foldl_memWrite w _ _ _) (by exact id) (by omega))
    | with_reducible refine kept_next ?_
    | with_reducible refine raise_kept ?_
    | with_reducible refine setBit_kept ?_
    | with_reducible refine kept_ite ?_ ?_
    | with_reducible refine keptOut_ite ?_ ?_
    | split
    | dsimp only

theorem setLast_kept {s0 : State} {s : State} {kind code event loc : Nat} (hk : Kept s0 s) :
    Kept s0 (setLast s kind code event loc) := by
  unfold setLast
  repeat' first
    | with_reducible assumption
    | fail_if_no_progress (with_reducible refine kept_mk ?_)
    | fail_if_no_progress (with_reducible refine kept_all ?_ (by omega) (by first | exact id | exact fun w => wf_filter w _ | exact fun w => wf_foldl_memWrite w _ _ _) (by exact id) (by omega))
    | with_reducible refine kept_next ?_
    | dsimp only

theorem transientOutcome_kept {s0 : State} {s : State} {kind loc event : Nat} (hk : Kept s0 s) :
    Kept s0 (transientOutcome s kind loc event) := by
  unfold transientOutcome
  repeat' first
    | with_reducible assumption
    | fail_if_no_progress (with_reducible refine kept_mk ?_)
    | fail_if_no_progress (with_reducible refine kept_all ?_ (by omega) (by first | exact id | exact fun w => wf_filter w _ | exact fun w => wf_foldl_memWrite w _ _ _) (by exact id) (by omega))
    | with_reducible refine kept_next ?_
    | with_reducible refine bump_kept ?_
    | with_reducible refine setBit_kept ?_
    | with_reducible refine raise_kept ?_
    | with_reducible refine setLast_kept ?_
    | (extract_lets +onlyGivenNames x; (first | (refine kept_cut (a := s0) (x := x) ?_ ?_; (on_goal 1 => unfold x); (on_goal 2 => intro hx; clear_value x)) | (refine kept_cut (a := s0) (x := x.1) ?_ ?_; (on_goal 1 => unfold x); (on_goal 2 => intro hx; clear_value x)) | clear_value x))
    | dsimp only

theorem lastingOutcome_kept {s0 : State} {s : State} {kind loc event : Nat} (hk : Kept s0 s) :
    Kept s0 (lastingOutcome s kind loc event) := by
  unfold lastingOutcome
  extract_lets x y e
  have hy : Kept s0 y := raise_kept (setLast_kept (bump_kept (setBit_kept hk)))
  clear_value y x
  split
  · refine kept_foldl (fun t a ht => ?_) hy
    exact kept_ite ht (recordFault_kept ht)
  · split
    · exact hy
    · refine recordFault_kept ?_
      refine kept_ite (leaveUp_kept (setDefect_kept hy)) (kept_ite (kept_mk hy) (kept_ite (removeUnit_kept hy) hy))

theorem offBoot_kept {s0 : State} {s : State} {g : Nat} (hk : Kept s0 s) :
    Kept s0 (offBoot s g) := by
  unfold offBoot
  repeat' first
    | with_reducible assumption
    | fail_if_no_progress (with_reducible refine kept_mk ?_)
    | fail_if_no_progress (with_reducible refine kept_all ?_ (by omega) (by first | exact id | exact fun w => wf_filter w _ | exact fun w => wf_foldl_memWrite w _ _ _) (by exact id) (by omega))
    | with_reducible refine kept_next ?_
    | with_reducible refine retarget_kept ?_
    | with_reducible refine updClu_kept ?_
    | with_reducible refine kept_ite ?_ ?_
    | with_reducible refine keptOut_ite ?_ ?_
    | split
    | dsimp only

theorem wipeUnit_kept {s0 : State} {s : State} {kind index : Nat} (hk : Kept s0 s) :
    Kept s0 (wipeUnit s kind index) := by
  unfold wipeUnit
  repeat' first
    | with_reducible assumption
    | fail_if_no_progress (with_reducible refine kept_mk ?_)
    | fail_if_no_progress (with_reducible refine kept_all ?_ (by omega) (by first | exact id | exact fun w => wf_filter w _ | exact fun w => wf_foldl_memWrite w _ _ _) (by exact id) (by omega))
    | with_reducible refine kept_next ?_
    | with_reducible refine offBoot_kept ?_
    | (extract_lets +onlyGivenNames x; (first | (refine kept_cut (a := s0) (x := x) ?_ ?_; (on_goal 1 => unfold x); (on_goal 2 => intro hx; clear_value x)) | (refine kept_cut (a := s0) (x := x.1) ?_ ?_; (on_goal 1 => unfold x); (on_goal 2 => intro hx; clear_value x)) | clear_value x))
    | with_reducible refine kept_ite ?_ ?_
    | with_reducible refine keptOut_ite ?_ ?_
    | split
    | dsimp only

theorem testUnit_kept {s0 : State} {s : State} {kind index event : Nat} (hk : Kept s0 s) :
    Kept s0 (testUnit s kind index event).1 := by
  unfold testUnit
  repeat' first
    | with_reducible assumption
    | fail_if_no_progress (with_reducible refine kept_mk ?_)
    | fail_if_no_progress (with_reducible refine kept_all ?_ (by omega) (by first | exact id | exact fun w => wf_filter w _ | exact fun w => wf_foldl_memWrite w _ _ _) (by exact id) (by omega))
    | with_reducible refine kept_next ?_
    | with_reducible refine wipeUnit_kept ?_
    | with_reducible refine lastingOutcome_kept ?_
    | with_reducible refine transientOutcome_kept ?_
    | (extract_lets +onlyGivenNames x; (first | (refine kept_cut (a := s0) (x := x) ?_ ?_; (on_goal 1 => unfold x); (on_goal 2 => intro hx; clear_value x)) | (refine kept_cut (a := s0) (x := x.1) ?_ ?_; (on_goal 1 => unfold x); (on_goal 2 => intro hx; clear_value x)) | clear_value x))
    | with_reducible refine kept_ite ?_ ?_
    | with_reducible refine keptOut_ite ?_ ?_
    | split
    | dsimp only

theorem failCommands_kept {s0 : State} {s : State} (hk : Kept s0 s) :
    Kept s0 (failCommands s) := by
  unfold failCommands
  repeat' first
    | with_reducible assumption
    | fail_if_no_progress (with_reducible refine kept_mk ?_)
    | fail_if_no_progress (with_reducible refine kept_all ?_ (by omega) (by first | exact id | exact fun w => wf_filter w _ | exact fun w => wf_foldl_memWrite w _ _ _) (by exact id) (by omega))
    | with_reducible refine kept_next ?_
    | with_reducible refine complete_kept ?_
    | with_reducible refine kept_foldl (fun t x ht => ?_) ?_
    | with_reducible refine kept_foldl_pair (fun t x ht => ?_) ?_
    | (extract_lets +onlyGivenNames x; (first | (refine kept_cut (a := s0) (x := x) ?_ ?_; (on_goal 1 => unfold x); (on_goal 2 => intro hx; clear_value x)) | (refine kept_cut (a := s0) (x := x.1) ?_ ?_; (on_goal 1 => unfold x); (on_goal 2 => intro hx; clear_value x)) | clear_value x))
    | split
    | dsimp only

theorem answer_kept {s0 : State} {s : State} {a : Answer} (hk : Kept s0 s) :
    Kept s0 (answer s a) := by
  unfold answer
  repeat' first
    | with_reducible assumption
    | fail_if_no_progress (with_reducible refine kept_mk ?_)
    | fail_if_no_progress (with_reducible refine kept_all ?_ (by omega) (by first | exact id | exact fun w => wf_filter w _ | exact fun w => wf_foldl_memWrite w _ _ _) (by exact id) (by omega))
    | with_reducible refine kept_next ?_
    | with_reducible refine bump_kept ?_
    | dsimp only

theorem request_kept {s0 : State} {s : State} {f : State → State} (hk : Kept s0 s) (k : ∀ t, Kept s0 t → Kept s0 (f t)) :
    KeptOut s0 (request s f) := by
  unfold request
  repeat' first
    | with_reducible assumption
    | fail_if_no_progress (with_reducible refine kept_mk ?_)
    | fail_if_no_progress (with_reducible refine kept_all ?_ (by omega) (by first | exact id | exact fun w => wf_filter w _ | exact fun w => wf_foldl_memWrite w _ _ _) (by exact id) (by omega))
    | with_reducible refine kept_next ?_
    | with_reducible refine k _ ?_
    | with_reducible refine k _ _ ?_
    | with_reducible refine kept_ite ?_ ?_
    | with_reducible refine keptOut_ite ?_ ?_
    | split
    | dsimp only

theorem openAnswer_kept {s0 : State} {s : State} (hk : Kept s0 s) :
    Kept s0 (openAnswer s) := by
  unfold openAnswer
  repeat' first
    | with_reducible assumption
    | fail_if_no_progress (with_reducible refine kept_mk ?_)
    | fail_if_no_progress (with_reducible refine kept_all ?_ (by omega) (by first | exact id | exact fun w => wf_filter w _ | exact fun w => wf_foldl_memWrite w _ _ _) (by exact id) (by omega))
    | with_reducible refine kept_next ?_
    | with_reducible refine draw_kept ?_
    | with_reducible refine answer_kept ?_
    | (extract_lets +onlyGivenNames x; (first | (refine kept_cut (a := s0) (x := x) ?_ ?_; (on_goal 1 => unfold x); (on_goal 2 => intro hx; clear_value x)) | (refine kept_cut (a := s0) (x := x.1) ?_ ?_; (on_goal 1 => unfold x); (on_goal 2 => intro hx; clear_value x)) | clear_value x))
    | dsimp only

theorem assignAddress_kept {s0 : State} {addr : Nat} {s : State} (hk : Kept s0 s) :
    KeptOut s0 (assignAddress addr s) := by
  unfold assignAddress
  repeat' first
    | with_reducible assumption
    | fail_if_no_progress (with_reducible refine kept_mk ?_)
    | fail_if_no_progress (with_reducible refine kept_all ?_ (by omega) (by first | exact id | exact fun w => wf_filter w _ | exact fun w => wf_foldl_memWrite w _ _ _) (by exact id) (by omega))
    | with_reducible refine kept_next ?_
    | with_reducible refine kept_ite ?_ ?_
    | with_reducible refine keptOut_ite ?_ ?_
    | split
    | dsimp only

theorem thermalCycle_kept {s0 : State} {s : State} (hk : Kept s0 s) :
    Kept s0 (thermalCycle s) := by
  unfold thermalCycle
  repeat' first
    | with_reducible assumption
    | fail_if_no_progress (with_reducible refine kept_mk ?_)
    | fail_if_no_progress (with_reducible refine kept_all ?_ (by omega) (by first | exact id | exact fun w => wf_filter w _ | exact fun w => wf_foldl_memWrite w _ _ _) (by exact id) (by omega))
    | with_reducible refine kept_next ?_
    | (extract_lets +onlyGivenNames x; (first | (refine kept_cut (a := s0) (x := x) ?_ ?_; (on_goal 1 => unfold x); (on_goal 2 => intro hx; clear_value x)) | (refine kept_cut (a := s0) (x := x.1) ?_ ?_; (on_goal 1 => unfold x); (on_goal 2 => intro hx; clear_value x)) | clear_value x))
    | with_reducible refine kept_ite ?_ ?_
    | with_reducible refine keptOut_ite ?_ ?_
    | split
    | dsimp only

theorem endForDebug_kept {s0 : State} {s : State} (hk : Kept s0 s) :
    Kept s0 (endForDebug s) := by
  unfold endForDebug
  repeat' first
    | with_reducible assumption
    | fail_if_no_progress (with_reducible refine kept_mk ?_)
    | fail_if_no_progress (with_reducible refine kept_all ?_ (by omega) (by first | exact id | exact fun w => wf_filter w _ | exact fun w => wf_foldl_memWrite w _ _ _) (by exact id) (by omega))
    | with_reducible refine kept_next ?_
    | with_reducible refine jobless_kept ?_
    | with_reducible refine draw_kept ?_
    | with_reducible refine zeroise_kept ?_
    | with_reducible refine zeroFast_kept ?_
    | with_reducible refine raise_kept ?_
    | (extract_lets +onlyGivenNames x; (first | (refine kept_cut (a := s0) (x := x) ?_ ?_; (on_goal 1 => unfold x); (on_goal 2 => intro hx; clear_value x)) | (refine kept_cut (a := s0) (x := x.1) ?_ ?_; (on_goal 1 => unfold x); (on_goal 2 => intro hx; clear_value x)) | clear_value x))
    | dsimp only

theorem ingest_kept {s0 : State} {key : Nat} {p : CopyP} {n : Nat} {s : State} {i : Nat} {bs : List Byte}
    (hk : Kept s0 s) : Kept s0 (ingest s key p n i bs).1 := by
  induction n generalizing s i bs with
  | zero => exact hk
  | succ n ih =>
    unfold ingest
    extract_lets oo a t
    clear_value oo
    have ht : Kept s0 t := by
      unfold t
      split
      · exact writeMem_kept hk
      · exact raise_kept (setBit_kept (bump_kept hk))
    clear_value t
    exact ih ht

theorem egress_kept {s0 : State} {n : Nat} {s : State} {host i : Nat} {bs : List Byte} (hk : Kept s0 s) :
    Kept s0 (egress s host n i bs) := by
  induction n generalizing s i bs with
  | zero => exact hk
  | succ n ih => exact ih (hostWrite_kept (egressRecord_kept hk))

theorem copyDone_kept {s0 : State} {s : State} {src : Src} {p : CopyP} (hk : Kept s0 s) :
    Kept s0 (copyDone s src p) := by
  unfold copyDone
  repeat' first
    | with_reducible assumption
    | fail_if_no_progress (with_reducible refine kept_mk ?_)
    | fail_if_no_progress (with_reducible refine kept_all ?_ (by omega) (by first | exact id | exact fun w => wf_filter w _ | exact fun w => wf_foldl_memWrite w _ _ _) (by exact id) (by omega))
    | with_reducible refine kept_next ?_
    | with_reducible refine complete_kept ?_
    | with_reducible refine signalTo_kept ?_
    | with_reducible refine kept_ite ?_ ?_
    | with_reducible refine keptOut_ite ?_ ?_
    | split
    | dsimp only

theorem copyEnd_kept {s0 : State} {src : Src} {p : CopyP} {r : State × Bool} (hk : Kept s0 r.1) :
    Kept s0 (copyEnd src p r) := by
  unfold copyEnd
  split
  · exact copyDone_kept hk
  · exact complete_kept hk

theorem copyIn_kept {s0 : State} {s : State} {src : Src} {key : Nat} {p : CopyP} {inp : CopyIn} (hk : Kept s0 s) :
    Kept s0 (copyIn s src key p inp) := by
  unfold copyIn
  repeat' first
    | with_reducible assumption
    | fail_if_no_progress (with_reducible refine kept_mk ?_)
    | fail_if_no_progress (with_reducible refine kept_all ?_ (by omega) (by first | exact id | exact fun w => wf_filter w _ | exact fun w => wf_foldl_memWrite w _ _ _) (by exact id) (by omega))
    | with_reducible refine kept_next ?_
    | with_reducible refine dmaFault_kept ?_
    | with_reducible refine undefMem_kept ?_
    | with_reducible refine wakeRange_kept ?_
    | with_reducible refine copyEnd_kept ?_
    | with_reducible refine ingest_kept ?_
    | with_reducible refine copyDone_kept ?_
    | with_reducible refine writeMem_kept ?_
    | (extract_lets +onlyGivenNames x; (first | (refine kept_cut (a := s0) (x := x) ?_ ?_; (on_goal 1 => unfold x); (on_goal 2 => intro hx; clear_value x)) | (refine kept_cut (a := s0) (x := x.1) ?_ ?_; (on_goal 1 => unfold x); (on_goal 2 => intro hx; clear_value x)) | clear_value x))
    | with_reducible refine kept_ite ?_ ?_
    | with_reducible refine keptOut_ite ?_ ?_
    | split
    | dsimp only

theorem copyOut_kept {s0 : State} {s : State} {src : Src} {p : CopyP} (hk : Kept s0 s) :
    Kept s0 (copyOut s src p) := by
  unfold copyOut
  repeat' first
    | with_reducible assumption
    | fail_if_no_progress (with_reducible refine kept_mk ?_)
    | fail_if_no_progress (with_reducible refine kept_all ?_ (by omega) (by first | exact id | exact fun w => wf_filter w _ | exact fun w => wf_foldl_memWrite w _ _ _) (by exact id) (by omega))
    | with_reducible refine kept_next ?_
    | with_reducible refine readMem_kept ?_
    | with_reducible refine wakeRange_kept ?_
    | with_reducible refine complete_kept ?_
    | with_reducible refine writeFault_kept ?_
    | with_reducible refine copyDone_kept ?_
    | with_reducible refine egress_kept ?_
    | with_reducible refine hostWrite_kept ?_
    | (extract_lets +onlyGivenNames x; (first | (refine kept_cut (a := s0) (x := x) ?_ ?_; (on_goal 1 => unfold x); (on_goal 2 => intro hx; clear_value x)) | (refine kept_cut (a := s0) (x := x.1) ?_ ?_; (on_goal 1 => unfold x); (on_goal 2 => intro hx; clear_value x)) | clear_value x))
    | with_reducible refine kept_ite ?_ ?_
    | with_reducible refine keptOut_ite ?_ ?_
    | split
    | dsimp only

theorem copyMove_kept {s0 : State} {s : State} {c : HeldCopy} (hk : Kept s0 s) :
    Kept s0 (copyMove s c) := by
  unfold copyMove
  repeat' first
    | with_reducible assumption
    | fail_if_no_progress (with_reducible refine kept_mk ?_)
    | fail_if_no_progress (with_reducible refine kept_all ?_ (by omega) (by first | exact id | exact fun w => wf_filter w _ | exact fun w => wf_foldl_memWrite w _ _ _) (by exact id) (by omega))
    | with_reducible refine kept_next ?_
    | with_reducible refine copyIn_kept ?_
    | with_reducible refine copyOut_kept ?_
    | with_reducible refine kept_ite ?_ ?_
    | with_reducible refine keptOut_ite ?_ ?_
    | split
    | dsimp only

theorem goCopies_kept {s0 : State} {s : State} (hk : Kept s0 s) :
    Kept s0 (goCopies s) := by
  unfold goCopies
  repeat' first
    | with_reducible assumption
    | fail_if_no_progress (with_reducible refine kept_mk ?_)
    | fail_if_no_progress (with_reducible refine kept_all ?_ (by omega) (by first | exact id | exact fun w => wf_filter w _ | exact fun w => wf_foldl_memWrite w _ _ _) (by exact id) (by omega))
    | with_reducible refine kept_next ?_
    | with_reducible refine copyMove_kept ?_
    | with_reducible refine kept_foldl (fun t x ht => ?_) ?_
    | with_reducible refine kept_foldl_pair (fun t x ht => ?_) ?_
    | dsimp only

theorem clearRc_kept {s0 : State} {s : State} {w o size : Nat} (hk : Kept s0 s) :
    Kept s0 (clearRc s w o size) := by
  unfold clearRc
  repeat' first
    | with_reducible assumption
    | fail_if_no_progress (with_reducible refine kept_mk ?_)
    | fail_if_no_progress (with_reducible refine kept_all ?_ (by omega) (by first | exact id | exact fun w => wf_filter w _ | exact fun w => wf_foldl_memWrite w _ _ _) (by exact id) (by omega))
    | with_reducible refine kept_next ?_
    | with_reducible refine setReg_kept ?_
    | (extract_lets +onlyGivenNames x; (first | (refine kept_cut (a := s0) (x := x) ?_ ?_; (on_goal 1 => unfold x); (on_goal 2 => intro hx; clear_value x)) | (refine kept_cut (a := s0) (x := x.1) ?_ ?_; (on_goal 1 => unfold x); (on_goal 2 => intro hx; clear_value x)) | clear_value x))
    | with_reducible refine kept_ite ?_ ?_
    | with_reducible refine keptOut_ite ?_ ?_
    | split
    | dsimp only

theorem readReg_kept {s0 : State} {s : State} {o size : Nat} (hk : Kept s0 s) :
    Kept s0 (readReg s o size).1 := by
  unfold readReg
  repeat' first
    | with_reducible assumption
    | fail_if_no_progress (with_reducible refine kept_mk ?_)
    | fail_if_no_progress (with_reducible refine kept_all ?_ (by omega) (by first | exact id | exact fun w => wf_filter w _ | exact fun w => wf_foldl_memWrite w _ _ _) (by exact id) (by omega))
    | with_reducible refine kept_next ?_
    | with_reducible refine clearRc_kept ?_
    | (extract_lets +onlyGivenNames x; (first | (refine kept_cut (a := s0) (x := x) ?_ ?_; (on_goal 1 => unfold x); (on_goal 2 => intro hx; clear_value x)) | (refine kept_cut (a := s0) (x := x.1) ?_ ?_; (on_goal 1 => unfold x); (on_goal 2 => intro hx; clear_value x)) | clear_value x))
    | with_reducible refine kept_ite ?_ ?_
    | with_reducible refine keptOut_ite ?_ ?_
    | split
    | dsimp only

theorem writeMsix_kept {s0 : State} {s : State} {o v : Nat} (hk : Kept s0 s) :
    Kept s0 (writeMsix s o v) := by
  unfold writeMsix
  repeat' first
    | with_reducible assumption
    | fail_if_no_progress (with_reducible refine kept_mk ?_)
    | fail_if_no_progress (with_reducible refine kept_all ?_ (by omega) (by first | exact id | exact fun w => wf_filter w _ | exact fun w => wf_foldl_memWrite w _ _ _) (by exact id) (by omega))
    | with_reducible refine kept_next ?_
    | with_reducible refine post_kept ?_
    | (extract_lets +onlyGivenNames x; (first | (refine kept_cut (a := s0) (x := x) ?_ ?_; (on_goal 1 => unfold x); (on_goal 2 => intro hx; clear_value x)) | (refine kept_cut (a := s0) (x := x.1) ?_ ?_; (on_goal 1 => unfold x); (on_goal 2 => intro hx; clear_value x)) | clear_value x))
    | with_reducible refine kept_ite ?_ ?_
    | with_reducible refine keptOut_ite ?_ ?_
    | split
    | dsimp only

theorem afterOut_kept {s0 : State} {s : State} {o : Out} (hk : KeptOut s0 o) : Kept s0 (afterOut s o) := by
  obtain ⟨t, rfl, ht⟩ := hk
  exact ht

theorem writeMod_kept {s0 : State} {s : State} {o v : Nat} {lo hi : Bool} (hk : Kept s0 s) :
    Kept s0 (writeMod s o v lo hi) := by
  unfold writeMod
  repeat' first
    | with_reducible assumption
    | fail_if_no_progress (with_reducible refine kept_mk ?_)
    | fail_if_no_progress (with_reducible refine kept_all ?_ (by omega) (by first | exact id | exact fun w => wf_filter w _ | exact fun w => wf_foldl_memWrite w _ _ _) (by exact id) (by omega))
    | with_reducible refine kept_next ?_
    | with_reducible refine updPower_kept ?_
    | with_reducible refine warmReset_kept ?_
    | with_reducible refine afterOut_kept ?_
    | with_reducible refine execCmdEvtHead_kept ?_
    | with_reducible refine updQp_kept ?_
    | with_reducible refine execCmdSqTail_kept ?_
    | with_reducible refine execCmdCqHead_kept ?_
    | with_reducible refine writeMsix_kept ?_
    | (extract_lets +onlyGivenNames x; (first | (refine kept_cut (a := s0) (x := x) ?_ ?_; (on_goal 1 => unfold x); (on_goal 2 => intro hx; clear_value x)) | (refine kept_cut (a := s0) (x := x.1) ?_ ?_; (on_goal 1 => unfold x); (on_goal 2 => intro hx; clear_value x)) | clear_value x))
    | with_reducible refine kept_ite ?_ ?_
    | with_reducible refine keptOut_ite ?_ ?_
    | split
    | dsimp only

theorem writeReg_kept {s0 : State} {s : State} {o size v : Nat} (hk : Kept s0 s) :
    Kept s0 (writeReg s o size v) := by
  unfold writeReg
  repeat' first
    | with_reducible assumption
    | fail_if_no_progress (with_reducible refine kept_mk ?_)
    | fail_if_no_progress (with_reducible refine kept_all ?_ (by omega) (by first | exact id | exact fun w => wf_filter w _ | exact fun w => wf_foldl_memWrite w _ _ _) (by exact id) (by omega))
    | with_reducible refine kept_next ?_
    | with_reducible refine setReg_kept ?_
    | with_reducible refine writeMod_kept ?_
    | (extract_lets +onlyGivenNames x; (first | (refine kept_cut (a := s0) (x := x) ?_ ?_; (on_goal 1 => unfold x); (on_goal 2 => intro hx; clear_value x)) | (refine kept_cut (a := s0) (x := x.1) ?_ ?_; (on_goal 1 => unfold x); (on_goal 2 => intro hx; clear_value x)) | clear_value x))
    | with_reducible refine kept_ite ?_ ?_
    | with_reducible refine keptOut_ite ?_ ?_
    | split
    | dsimp only

theorem poisonedWrite_kept {s0 : State} {s : State} (hk : Kept s0 s) :
    Kept s0 (poisonedWrite s) := by
  unfold poisonedWrite
  repeat' first
    | with_reducible assumption
    | fail_if_no_progress (with_reducible refine kept_mk ?_)
    | fail_if_no_progress (with_reducible refine kept_all ?_ (by omega) (by first | exact id | exact fun w => wf_filter w _ | exact fun w => wf_foldl_memWrite w _ _ _) (by exact id) (by omega))
    | with_reducible refine kept_next ?_
    | with_reducible refine raise_kept ?_
    | with_reducible refine setBit_kept ?_
    | dsimp only

theorem bar2Denied_kept {s0 : State} {s : State} (hk : Kept s0 s) :
    Kept s0 (bar2Denied s) := by
  unfold bar2Denied
  repeat' first
    | with_reducible assumption
    | fail_if_no_progress (with_reducible refine kept_mk ?_)
    | fail_if_no_progress (with_reducible refine kept_all ?_ (by omega) (by first | exact id | exact fun w => wf_filter w _ | exact fun w => wf_foldl_memWrite w _ _ _) (by exact id) (by omega))
    | with_reducible refine kept_next ?_
    | with_reducible refine raise_kept ?_
    | with_reducible refine setBit_kept ?_
    | dsimp only

theorem putGx_kept {s0 : State} {s : State} {g r : Nat} {v : W64} (hk : Kept s0 s) :
    Kept s0 (putGx s g r v) := by
  unfold putGx
  repeat' first
    | with_reducible assumption
    | fail_if_no_progress (with_reducible refine kept_mk ?_)
    | fail_if_no_progress (with_reducible refine kept_all ?_ (by omega) (by first | exact id | exact fun w => wf_filter w _ | exact fun w => wf_foldl_memWrite w _ _ _) (by exact id) (by omega))
    | with_reducible refine kept_next ?_
    | with_reducible refine updGc_kept ?_
    | with_reducible refine kept_ite ?_ ?_
    | with_reducible refine keptOut_ite ?_ ?_
    | split
    | dsimp only

theorem gcPass_kept {s0 : State} {s : State} {g len : Nat} (hk : Kept s0 s) :
    Kept s0 (gcPass s g len) := by
  unfold gcPass
  repeat' first
    | with_reducible assumption
    | fail_if_no_progress (with_reducible refine kept_mk ?_)
    | fail_if_no_progress (with_reducible refine kept_all ?_ (by omega) (by first | exact id | exact fun w => wf_filter w _ | exact fun w => wf_foldl_memWrite w _ _ _) (by exact id) (by omega))
    | with_reducible refine kept_next ?_
    | with_reducible refine updGc_kept ?_
    | dsimp only

theorem gcNext_kept {s0 : State} {s : State} {g : Nat} (hk : Kept s0 s) :
    Kept s0 (gcNext s g) := by
  unfold gcNext
  repeat' first
    | with_reducible assumption
    | fail_if_no_progress (with_reducible refine kept_mk ?_)
    | fail_if_no_progress (with_reducible refine kept_all ?_ (by omega) (by first | exact id | exact fun w => wf_filter w _ | exact fun w => wf_foldl_memWrite w _ _ _) (by exact id) (by omega))
    | with_reducible refine kept_next ?_
    | with_reducible refine gcPass_kept ?_
    | dsimp only

theorem gcTrap_kept {s0 : State} {s : State} {g cause : Nat} (hk : Kept s0 s) :
    Kept s0 (gcTrap s g cause) := by
  unfold gcTrap
  repeat' first
    | with_reducible assumption
    | fail_if_no_progress (with_reducible refine kept_mk ?_)
    | fail_if_no_progress (with_reducible refine kept_all ?_ (by omega) (by first | exact id | exact fun w => wf_filter w _ | exact fun w => wf_foldl_memWrite w _ _ _) (by exact id) (by omega))
    | with_reducible refine kept_next ?_
    | with_reducible refine wantStop_kept ?_
    | with_reducible refine updGc_kept ?_
    | dsimp only

theorem gcHurdle_kept {s0 : State} {g a : Nat} {s : State} {f : State → Out} (hk : Kept s0 s) (k : ∀ t, Kept s0 t → KeptOut s0 (f t)) :
    KeptOut s0 (gcHurdle g a s f) := by
  unfold gcHurdle
  repeat' first
    | with_reducible assumption
    | fail_if_no_progress (with_reducible refine kept_mk ?_)
    | fail_if_no_progress (with_reducible refine kept_all ?_ (by omega) (by first | exact id | exact fun w => wf_filter w _ | exact fun w => wf_foldl_memWrite w _ _ _) (by exact id) (by omega))
    | with_reducible refine kept_next ?_
    | with_reducible refine gcTrap_kept ?_
    | with_reducible refine raise_kept ?_
    | with_reducible refine hurErr_kept ?_
    | with_reducible refine k _ ?_
    | with_reducible refine k _ _ ?_
    | with_reducible refine kept_ite ?_ ?_
    | with_reducible refine keptOut_ite ?_ ?_
    | split
    | dsimp only

theorem gcNotBound_kept {s0 : State} {s : State} {g : Nat} (hk : Kept s0 s) :
    Kept s0 (gcNotBound s g) := by
  unfold gcNotBound
  repeat' first
    | with_reducible assumption
    | fail_if_no_progress (with_reducible refine kept_mk ?_)
    | fail_if_no_progress (with_reducible refine kept_all ?_ (by omega) (by first | exact id | exact fun w => wf_filter w _ | exact fun w => wf_foldl_memWrite w _ _ _) (by exact id) (by omega))
    | with_reducible refine kept_next ?_
    | with_reducible refine raise_kept ?_
    | dsimp only

theorem putV_kept {s0 : State} {s : State} {g v : Nat} {bs : List Byte} (hk : Kept s0 s) :
    Kept s0 (putV s g v bs) := by
  unfold putV
  repeat' first
    | with_reducible assumption
    | fail_if_no_progress (with_reducible refine kept_mk ?_)
    | fail_if_no_progress (with_reducible refine kept_all ?_ (by omega) (by first | exact id | exact fun w => wf_filter w _ | exact fun w => wf_foldl_memWrite w _ _ _) (by exact id) (by omega))
    | with_reducible refine kept_next ?_
    | with_reducible refine updGc_kept ?_
    | with_reducible refine kept_foldl (fun t x ht => ?_) ?_
    | with_reducible refine kept_foldl_pair (fun t x ht => ?_) ?_
    | dsimp only

theorem gcLoaded_kept {s0 : State} {s : State} {g : Nat} {op : GcOp} {bs : List Byte} (hk : Kept s0 s) :
    Kept s0 (gcLoaded s g op bs) := by
  unfold gcLoaded
  repeat' first
    | with_reducible assumption
    | fail_if_no_progress (with_reducible refine kept_mk ?_)
    | fail_if_no_progress (with_reducible refine kept_all ?_ (by omega) (by first | exact id | exact fun w => wf_filter w _ | exact fun w => wf_foldl_memWrite w _ _ _) (by exact id) (by omega))
    | with_reducible refine kept_next ?_
    | with_reducible refine putGx_kept ?_
    | with_reducible refine updGc_kept ?_
    | with_reducible refine putV_kept ?_
    | (extract_lets +onlyGivenNames x; (first | (refine kept_cut (a := s0) (x := x) ?_ ?_; (on_goal 1 => unfold x); (on_goal 2 => intro hx; clear_value x)) | (refine kept_cut (a := s0) (x := x.1) ?_ ?_; (on_goal 1 => unfold x); (on_goal 2 => intro hx; clear_value x)) | clear_value x))
    | with_reducible refine kept_ite ?_ ?_
    | with_reducible refine keptOut_ite ?_ ?_
    | split
    | dsimp only

/-- An access that keeps what `Kept` says, whatever it meets. -/
def KeptAcc (s0 : State) : GcAcc → Prop
  | .done s _ => Kept s0 s
  | .trap s _ => Kept s0 s
  | .wait => True

theorem gcBytes_kept {s0 s : State} {g a size cause : Nat} (hk : Kept s0 s) : KeptAcc s0 (gcBytes s g a size cause) := by
  unfold gcBytes
  split
  · trivial
  · have h : Kept s0 (readMem (murk s a size).1 a size).s := readMem_kept (murk_kept hk)
    dsimp only
    split <;> exact h

theorem gcLoad_kept {s0 s : State} {g a size : Nat} (hk : Kept s0 s) : KeptAcc s0 (gcLoad s g a size) := by
  unfold gcLoad
  split
  · exact readReg_kept hk
  · split
    · exact hk
    · exact gcBytes_kept hk

theorem gcStore_kept {s0 s : State} {g a : Nat} {bs : List Byte} (hk : Kept s0 s) : KeptAcc s0 (gcStore s g a bs) := by
  unfold gcStore
  split
  · exact writeReg_kept hk
  · split
    · exact hk
    · split
      · trivial
      · have h : Kept s0 (writeMem s a bs).1 := writeMem_kept hk
        dsimp only
        split <;> exact h

theorem gcAfter_kept {s0 s : State} {g : Nat} {o : GcAcc} {f : State → List Byte → State} (hk : Kept s0 s)
    (ho : KeptAcc s0 o) (k : ∀ t bs, Kept s0 t → Kept s0 (f t bs)) : Kept s0 (gcAfter s g o f) := by
  unfold gcAfter
  split
  · exact k _ _ ho
  · exact gcTrap_kept ho
  · exact hk

theorem gcLoadStore_kept {s0 s : State} {g : Nat} {op : GcOp} {a size len : Nat} (hk : Kept s0 s) :
    Kept s0 (gcLoadStore s g op a size len) := by
  unfold gcLoadStore
  split
  · exact gcAfter_kept hk (gcLoad_kept hk) (fun _ _ h => gcPass_kept (gcLoaded_kept h))
  · exact gcAfter_kept hk (gcStore_kept hk) (fun _ _ h => gcPass_kept h)

theorem gcParcel_kept {s0 s : State} {g a : Nat} (hk : Kept s0 s) : KeptAcc s0 (gcParcel s g a) := by
  unfold gcParcel
  split
  · exact gcBytes_kept hk
  · exact hk

theorem gcIllegal_kept {s0 : State} {s : State} {g : Nat} (hk : Kept s0 s) :
    Kept s0 (gcIllegal s g) := by
  unfold gcIllegal
  repeat' first
    | with_reducible assumption
    | fail_if_no_progress (with_reducible refine kept_mk ?_)
    | fail_if_no_progress (with_reducible refine kept_all ?_ (by omega) (by first | exact id | exact fun w => wf_filter w _ | exact fun w => wf_foldl_memWrite w _ _ _) (by exact id) (by omega))
    | with_reducible refine kept_next ?_
    | with_reducible refine gcTrap_kept ?_
    | dsimp only

theorem gcSet_kept {s0 : State} {s : State} {g : Nat} {c : Option Gc} (hk : Kept s0 s) :
    Kept s0 (gcSet s g c) := by
  unfold gcSet
  repeat' first
    | with_reducible assumption
    | fail_if_no_progress (with_reducible refine kept_mk ?_)
    | fail_if_no_progress (with_reducible refine kept_all ?_ (by omega) (by first | exact id | exact fun w => wf_filter w _ | exact fun w => wf_foldl_memWrite w _ _ _) (by exact id) (by omega))
    | with_reducible refine kept_next ?_
    | with_reducible refine updGc_kept ?_
    | with_reducible refine gcIllegal_kept ?_
    | split
    | dsimp only

theorem setResv_kept {s0 : State} {s : State} {g : Nat} {r : Option (Nat × Nat × List Byte)} (hk : Kept s0 s) :
    Kept s0 (setResv s g r) := by
  unfold setResv
  repeat' first
    | with_reducible assumption
    | fail_if_no_progress (with_reducible refine kept_mk ?_)
    | fail_if_no_progress (with_reducible refine kept_all ?_ (by omega) (by first | exact id | exact fun w => wf_filter w _ | exact fun w => wf_foldl_memWrite w _ _ _) (by exact id) (by omega))
    | with_reducible refine kept_next ?_
    | with_reducible refine updGc_kept ?_
    | dsimp only

theorem gcSc_kept {s0 s : State} {g a n len w : Nat} (hk : Kept s0 s) : Kept s0 (gcSc s g a n len w) := by
  have hd : Kept s0 (draw s).1 := draw_kept hk
  have ho : ∀ t v, Kept s0 t → Kept s0 (gcPass (putGx (setResv t g none) g (rvRd w) v) g len) :=
    fun t v h => gcPass_kept (putGx_kept (setResv_kept h))
  refine gcAfter_kept hk (gcLoad_kept hd) (fun t bs h => ?_)
  exact kept_ite (gcAfter_kept hk (gcStore_kept h) (fun t _ h => ho t 0 h)) (ho t 1 h)

theorem gcAmo_kept {s0 s : State} {g len w : Nat} (hk : Kept s0 s) : Kept s0 (gcAmo s g len w) := by
  unfold gcAmo
  extract_lets n a f5
  refine kept_ite (gcIllegal_kept hk) (kept_ite (kept_ite (gcIllegal_kept hk) (kept_ite (gcTrap_kept hk) ?_)) ?_)
  · exact gcAfter_kept hk (gcLoad_kept hk) (fun _ _ h => gcPass_kept (putGx_kept (setResv_kept h)))
  · split
    · exact gcIllegal_kept hk
    · refine kept_ite (gcTrap_kept hk) (kept_ite (gcTrap_kept hk) (kept_ite (gcSc_kept hk) ?_))
      exact gcAfter_kept hk (gcLoad_kept hk) (fun _ _ h =>
        gcAfter_kept hk (gcStore_kept h) (fun _ _ h => gcPass_kept (putGx_kept h)))

theorem vMem_kept {s0 : State} {g n : Nat} {load ff : Bool} {l : List VAcc} {s : State} (hk : Kept s0 s) :
    KeptAcc s0 (vMem g n load ff l s) := by
  induction l generalizing s with
  | nil => exact hk
  | cons e t ih =>
    have h : KeptAcc s0 (if load then gcLoad s g e.addr (n / 8)
        else gcStore s g e.addr (leBytes (n / 8) (vGet (gcOf s g) e.reg n e.idx))) := by
      split
      · exact gcLoad_kept hk
      · exact gcStore_kept hk
    unfold vMem
    split
    · next heq => rw [heq] at h; exact ih (kept_ite (updGc_kept h) h)
    · next heq =>
      rw [heq] at h
      split
      · exact updGc_kept h
      · exact updGc_kept h
    · trivial

theorem gcVMem_kept {s0 s : State} {g len w : Nat} {load : Bool} (hk : Kept s0 s) : Kept s0 (gcVMem s g len w load) := by
  unfold gcVMem
  extract_lets d ag
  split
  · exact gcIllegal_kept hk
  · exact gcAfter_kept hk (vMem_kept (draw_kept hk)) (fun _ _ h => gcPass_kept (updGc_kept h))

theorem nextModule_kept {s0 : State} {s : State} (hk : Kept s0 s) :
    Kept s0 (nextModule s) := by
  unfold nextModule
  repeat' first
    | with_reducible assumption
    | fail_if_no_progress (with_reducible refine kept_mk ?_)
    | fail_if_no_progress (with_reducible refine kept_all ?_ (by omega) (by first | exact id | exact fun w => wf_filter w _ | exact fun w => wf_foldl_memWrite w _ _ _) (by exact id) (by omega))
    | with_reducible refine kept_next ?_
    | with_reducible refine applyNew_kept ?_
    | with_reducible refine applyAssignment_kept ?_
    | dsimp only

theorem loadMemory_kept {s0 : State} {s : State} {c : Image} (hk : Kept s0 s) :
    Kept s0 (loadMemory s c) := by
  unfold loadMemory
  repeat' first
    | with_reducible assumption
    | fail_if_no_progress (with_reducible refine kept_mk ?_)
    | fail_if_no_progress (with_reducible refine kept_all ?_ (by omega) (by first | exact id | exact fun w => wf_filter w _ | exact fun w => wf_foldl_memWrite w _ _ _) (by exact id) (by omega))
    | with_reducible refine kept_next ?_
    | with_reducible refine zeroBank_kept ?_
    | with_reducible refine writeMem_kept ?_
    | with_reducible refine kept_foldl (fun t x ht => ?_) ?_
    | with_reducible refine kept_foldl_pair (fun t x ht => ?_) ?_
    | (extract_lets +onlyGivenNames x; (first | (refine kept_cut (a := s0) (x := x) ?_ ?_; (on_goal 1 => unfold x); (on_goal 2 => intro hx; clear_value x)) | (refine kept_cut (a := s0) (x := x.1) ?_ ?_; (on_goal 1 => unfold x); (on_goal 2 => intro hx; clear_value x)) | clear_value x))
    | split
    | dsimp only

theorem holdFields_kept {s0 : State} {s : State} {c : Image} (hk : Kept s0 s) :
    Kept s0 (holdFields s c) := by
  unfold holdFields
  repeat' first
    | with_reducible assumption
    | fail_if_no_progress (with_reducible refine kept_mk ?_)
    | fail_if_no_progress (with_reducible refine kept_all ?_ (by omega) (by first | exact id | exact fun w => wf_filter w _ | exact fun w => wf_foldl_memWrite w _ _ _) (by exact id) (by omega))
    | with_reducible refine kept_next ?_
    | with_reducible refine kept_foldl (fun t x ht => ?_) ?_
    | with_reducible refine kept_foldl_pair (fun t x ht => ?_) ?_
    | (extract_lets +onlyGivenNames x; (first | (refine kept_cut (a := s0) (x := x) ?_ ?_; (on_goal 1 => unfold x); (on_goal 2 => intro hx; clear_value x)) | (refine kept_cut (a := s0) (x := x.1) ?_ ?_; (on_goal 1 => unfold x); (on_goal 2 => intro hx; clear_value x)) | clear_value x))
    | with_reducible refine kept_ite ?_ ?_
    | with_reducible refine keptOut_ite ?_ ?_
    | split
    | dsimp only

theorem applyCourse_kept {s0 : State} {s : State} {c : Image} (hk : Kept s0 s) :
    Kept s0 (applyCourse s c) := by
  unfold applyCourse
  repeat' first
    | with_reducible assumption
    | fail_if_no_progress (with_reducible refine kept_mk ?_)
    | fail_if_no_progress (with_reducible refine kept_all ?_ (by omega) (by first | exact id | exact fun w => wf_filter w _ | exact fun w => wf_foldl_memWrite w _ _ _) (by exact id) (by omega))
    | with_reducible refine kept_next ?_
    | with_reducible refine holdFields_kept ?_
    | with_reducible refine nextModule_kept ?_
    | with_reducible refine restBanks_kept ?_
    | with_reducible refine loadMemory_kept ?_
    | with_reducible refine openWin_kept ?_
    | with_reducible refine setReg_kept ?_
    | with_reducible refine kept_foldl (fun t x ht => ?_) ?_
    | with_reducible refine kept_foldl_pair (fun t x ht => ?_) ?_
    | (extract_lets +onlyGivenNames x; (first | (refine kept_cut (a := s0) (x := x) ?_ ?_; (on_goal 1 => unfold x); (on_goal 2 => intro hx; clear_value x)) | (refine kept_cut (a := s0) (x := x.1) ?_ ?_; (on_goal 1 => unfold x); (on_goal 2 => intro hx; clear_value x)) | clear_value x))
    | dsimp only

theorem commitCourse_kept {s0 : State} {s : State} {c : Image} (hk : Kept s0 s) :
    Kept s0 (commitCourse s c) := by
  unfold commitCourse
  repeat' first
    | with_reducible assumption
    | fail_if_no_progress (with_reducible refine kept_mk ?_)
    | fail_if_no_progress (with_reducible refine kept_all ?_ (by omega) (by first | exact id | exact fun w => wf_filter w _ | exact fun w => wf_foldl_memWrite w _ _ _) (by exact id) (by omega))
    | with_reducible refine kept_next ?_
    | with_reducible refine commitNow_kept ?_
    | with_reducible refine kept_ite ?_ ?_
    | with_reducible refine keptOut_ite ?_ ?_
    | split
    | dsimp only

theorem courseDenied_kept {s0 : State} {s : State} {src : Src} {event st : Nat} (hk : Kept s0 s) :
    Kept s0 (courseDenied s src event st) := by
  unfold courseDenied
  repeat' first
    | with_reducible assumption
    | fail_if_no_progress (with_reducible refine kept_mk ?_)
    | fail_if_no_progress (with_reducible refine kept_all ?_ (by omega) (by first | exact id | exact fun w => wf_filter w _ | exact fun w => wf_foldl_memWrite w _ _ _) (by exact id) (by omega))
    | with_reducible refine kept_next ?_
    | with_reducible refine complete_kept ?_
    | with_reducible refine raise_kept ?_
    | with_reducible refine setBit_kept ?_
    | dsimp only

theorem banksTo_kept {s0 : State} {s : State} {st : Nat} (hk : Kept s0 s) :
    Kept s0 (banksTo s st) := by
  unfold banksTo
  repeat' first
    | with_reducible assumption
    | fail_if_no_progress (with_reducible refine kept_mk ?_)
    | fail_if_no_progress (with_reducible refine kept_all ?_ (by omega) (by first | exact id | exact fun w => wf_filter w _ | exact fun w => wf_foldl_memWrite w _ _ _) (by exact id) (by omega))
    | with_reducible refine kept_next ?_
    | with_reducible refine kept_ite ?_ ?_
    | with_reducible refine keptOut_ite ?_ ?_
    | split
    | dsimp only

theorem clearPeak_kept {s0 : State} {s : State} {g : Nat} (hk : Kept s0 s) :
    Kept s0 (clearPeak s g) := by
  unfold clearPeak
  repeat' first
    | with_reducible assumption
    | fail_if_no_progress (with_reducible refine kept_mk ?_)
    | fail_if_no_progress (with_reducible refine kept_all ?_ (by omega) (by first | exact id | exact fun w => wf_filter w _ | exact fun w => wf_foldl_memWrite w _ _ _) (by exact id) (by omega))
    | with_reducible refine kept_next ?_
    | with_reducible refine setReg_kept ?_
    | (extract_lets +onlyGivenNames x; (first | (refine kept_cut (a := s0) (x := x) ?_ ?_; (on_goal 1 => unfold x); (on_goal 2 => intro hx; clear_value x)) | (refine kept_cut (a := s0) (x := x.1) ?_ ?_; (on_goal 1 => unfold x); (on_goal 2 => intro hx; clear_value x)) | clear_value x))
    | dsimp only

theorem startRunAll_kept {s0 : State} {s : State} {c : Image} (hk : Kept s0 s) :
    Kept s0 (startRunAll s c) := by
  unfold startRunAll
  repeat' first
    | with_reducible assumption
    | fail_if_no_progress (with_reducible refine kept_mk ?_)
    | fail_if_no_progress (with_reducible refine kept_all ?_ (by omega) (by first | exact id | exact fun w => wf_filter w _ | exact fun w => wf_foldl_memWrite w _ _ _) (by exact id) (by omega))
    | with_reducible refine kept_next ?_
    | with_reducible refine banksTo_kept ?_
    | with_reducible refine zeroBank_kept ?_
    | with_reducible refine goCopies_kept ?_
    | with_reducible refine retarget_kept ?_
    | with_reducible refine clearPeak_kept ?_
    | with_reducible refine kept_foldl (fun t x ht => ?_) ?_
    | with_reducible refine kept_foldl_pair (fun t x ht => ?_) ?_
    | (extract_lets +onlyGivenNames x; (first | (refine kept_cut (a := s0) (x := x) ?_ ?_; (on_goal 1 => unfold x); (on_goal 2 => intro hx; clear_value x)) | (refine kept_cut (a := s0) (x := x.1) ?_ ?_; (on_goal 1 => unfold x); (on_goal 2 => intro hx; clear_value x)) | clear_value x))
    | with_reducible refine kept_ite ?_ ?_
    | with_reducible refine keptOut_ite ?_ ?_
    | split
    | dsimp only

theorem runOn_kept {s0 : State} {s : State} {f : State → Out} (k : ∀ t, Kept s0 t → KeptOut s0 (f t)) (hk : Kept s0 s) :
    Kept s0 (runOn s f) := afterOut_kept (k s hk)

theorem runEach_kept {α : Type} {s0 : State} {s : State} {l : List α} {f : α → State → Out}
    (k : ∀ x t, Kept s0 t → KeptOut s0 (f x t)) (hk : Kept s0 s) : Kept s0 (runEach s l f) :=
  kept_foldl (fun _ x ht => runOn_kept (k x) ht) hk

theorem tokenOver_kept {s0 : State} {s : State} {g : Nat} (hk : Kept s0 s) :
    Kept s0 (tokenOver s g) := by
  unfold tokenOver
  repeat' first
    | with_reducible assumption
    | fail_if_no_progress (with_reducible refine kept_mk ?_)
    | fail_if_no_progress (with_reducible refine kept_all ?_ (by omega) (by first | exact id | exact fun w => wf_filter w _ | exact fun w => wf_foldl_memWrite w _ _ _) (by exact id) (by omega))
    | with_reducible refine kept_next ?_
    | with_reducible refine updClu_kept ?_
    | with_reducible refine raise_kept ?_
    | with_reducible refine bump_kept ?_
    | with_reducible refine fsFailAt_kept ?_
    | (extract_lets +onlyGivenNames x; (first | (refine kept_cut (a := s0) (x := x) ?_ ?_; (on_goal 1 => unfold x); (on_goal 2 => intro hx; clear_value x)) | (refine kept_cut (a := s0) (x := x.1) ?_ ?_; (on_goal 1 => unfold x); (on_goal 2 => intro hx; clear_value x)) | clear_value x))
    | with_reducible refine kept_ite ?_ ?_
    | with_reducible refine keptOut_ite ?_ ?_
    | split
    | dsimp only

theorem listArr_kept {s0 : State} {s : State} {n a : Nat} (hk : Kept s0 s) :
    Kept s0 (listArr s n a) := by
  unfold listArr
  repeat' first
    | with_reducible assumption
    | fail_if_no_progress (with_reducible refine kept_mk ?_)
    | fail_if_no_progress (with_reducible refine kept_all ?_ (by omega) (by first | exact id | exact fun w => wf_filter w _ | exact fun w => wf_foldl_memWrite w _ _ _) (by exact id) (by omega))
    | with_reducible refine kept_next ?_
    | (extract_lets +onlyGivenNames x; (first | (refine kept_cut (a := s0) (x := x) ?_ ?_; (on_goal 1 => unfold x); (on_goal 2 => intro hx; clear_value x)) | (refine kept_cut (a := s0) (x := x.1) ?_ ?_; (on_goal 1 => unfold x); (on_goal 2 => intro hx; clear_value x)) | clear_value x))
    | with_reducible refine kept_ite ?_ ?_
    | with_reducible refine keptOut_ite ?_ ?_
    | split
    | dsimp only

theorem drainCycle_kept {s0 : State} {s : State} {n a : Nat} (hk : Kept s0 s) :
    Kept s0 (drainCycle s n a) := by
  unfold drainCycle
  repeat' first
    | with_reducible assumption
    | fail_if_no_progress (with_reducible refine kept_mk ?_)
    | fail_if_no_progress (with_reducible refine kept_all ?_ (by omega) (by first | exact id | exact fun w => wf_filter w _ | exact fun w => wf_foldl_memWrite w _ _ _) (by exact id) (by omega))
    | with_reducible refine kept_next ?_
    | with_reducible refine drainRow_kept ?_
    | with_reducible refine updArr_kept ?_
    | with_reducible refine kept_foldl (fun t x ht => ?_) ?_
    | with_reducible refine kept_foldl_pair (fun t x ht => ?_) ?_
    | (extract_lets +onlyGivenNames x; (first | (refine kept_cut (a := s0) (x := x) ?_ ?_; (on_goal 1 => unfold x); (on_goal 2 => intro hx; clear_value x)) | (refine kept_cut (a := s0) (x := x.1) ?_ ?_; (on_goal 1 => unfold x); (on_goal 2 => intro hx; clear_value x)) | clear_value x))
    | with_reducible refine kept_ite ?_ ?_
    | with_reducible refine keptOut_ite ?_ ?_
    | split
    | dsimp only

theorem arrayCycle_kept {s0 : State} {s : State} {n a : Nat} (hk : Kept s0 s) :
    Kept s0 (arrayCycle s n a) := by
  unfold arrayCycle
  repeat' first
    | with_reducible assumption
    | fail_if_no_progress (with_reducible refine kept_mk ?_)
    | fail_if_no_progress (with_reducible refine kept_all ?_ (by omega) (by first | exact id | exact fun w => wf_filter w _ | exact fun w => wf_foldl_memWrite w _ _ _) (by exact id) (by omega))
    | with_reducible refine kept_next ?_
    | with_reducible refine drainCycle_kept ?_
    | with_reducible refine addTok_kept ?_
    | with_reducible refine sweepAcc_kept ?_
    | (extract_lets +onlyGivenNames x; (first | (refine kept_cut (a := s0) (x := x) ?_ ?_; (on_goal 1 => unfold x); (on_goal 2 => intro hx; clear_value x)) | (refine kept_cut (a := s0) (x := x.1) ?_ ?_; (on_goal 1 => unfold x); (on_goal 2 => intro hx; clear_value x)) | clear_value x))
    | with_reducible refine kept_ite ?_ ?_
    | with_reducible refine keptOut_ite ?_ ?_
    | split
    | dsimp only

theorem endCycle_kept {s0 : State} {s : State} {g : Nat} (hk : Kept s0 s) :
    Kept s0 (endCycle s g) := by
  unfold endCycle
  repeat' first
    | with_reducible assumption
    | fail_if_no_progress (with_reducible refine kept_mk ?_)
    | fail_if_no_progress (with_reducible refine kept_all ?_ (by omega) (by first | exact id | exact fun w => wf_filter w _ | exact fun w => wf_foldl_memWrite w _ _ _) (by exact id) (by omega))
    | with_reducible refine kept_next ?_
    | with_reducible refine moveTick_kept ?_
    | with_reducible refine arrayCycle_kept ?_
    | with_reducible refine tokenOver_kept ?_
    | with_reducible refine updClu_kept ?_
    | with_reducible refine kept_foldl (fun t x ht => ?_) ?_
    | with_reducible refine kept_foldl_pair (fun t x ht => ?_) ?_
    | (extract_lets +onlyGivenNames x; (first | (refine kept_cut (a := s0) (x := x) ?_ ?_; (on_goal 1 => unfold x); (on_goal 2 => intro hx; clear_value x)) | (refine kept_cut (a := s0) (x := x.1) ?_ ?_; (on_goal 1 => unfold x); (on_goal 2 => intro hx; clear_value x)) | clear_value x))
    | with_reducible refine kept_ite ?_ ?_
    | with_reducible refine keptOut_ite ?_ ?_
    | split
    | dsimp only

theorem watchCycle_kept {s0 : State} {s : State} {g : Nat} (hk : Kept s0 s) :
    Kept s0 (watchCycle s g) := by
  unfold watchCycle
  repeat' first
    | with_reducible assumption
    | fail_if_no_progress (with_reducible refine kept_mk ?_)
    | fail_if_no_progress (with_reducible refine kept_all ?_ (by omega) (by first | exact id | exact fun w => wf_filter w _ | exact fun w => wf_foldl_memWrite w _ _ _) (by exact id) (by omega))
    | with_reducible refine kept_next ?_
    | with_reducible refine updStn_kept ?_
    | with_reducible refine updGc_kept ?_
    | with_reducible refine kept_foldl (fun t x ht => ?_) ?_
    | with_reducible refine kept_foldl_pair (fun t x ht => ?_) ?_
    | (extract_lets +onlyGivenNames x; (first | (refine kept_cut (a := s0) (x := x) ?_ ?_; (on_goal 1 => unfold x); (on_goal 2 => intro hx; clear_value x)) | (refine kept_cut (a := s0) (x := x.1) ?_ ?_; (on_goal 1 => unfold x); (on_goal 2 => intro hx; clear_value x)) | clear_value x))
    | with_reducible refine kept_ite ?_ ?_
    | with_reducible refine keptOut_ite ?_ ?_
    | split
    | dsimp only

theorem landPocket_kept {s0 : State} {s : State} {n addr : Nat} {bs : List (Nat × Byte)} (hk : Kept s0 s) :
    Kept s0 (landPocket s n addr bs) := by
  unfold landPocket
  repeat' first
    | with_reducible assumption
    | fail_if_no_progress (with_reducible refine kept_mk ?_)
    | fail_if_no_progress (with_reducible refine kept_all ?_ (by omega) (by first | exact id | exact fun w => wf_filter w _ | exact fun w => wf_foldl_memWrite w _ _ _) (by exact id) (by omega))
    | with_reducible refine kept_next ?_
    | with_reducible refine putMem_kept ?_
    | with_reducible refine errHalt_kept ?_
    | (extract_lets +onlyGivenNames x; (first | (refine kept_cut (a := s0) (x := x) ?_ ?_; (on_goal 1 => unfold x); (on_goal 2 => intro hx; clear_value x)) | (refine kept_cut (a := s0) (x := x.1) ?_ ?_; (on_goal 1 => unfold x); (on_goal 2 => intro hx; clear_value x)) | clear_value x))
    | with_reducible refine kept_ite ?_ ?_
    | with_reducible refine keptOut_ite ?_ ?_
    | split
    | dsimp only

theorem landEff_kept {s0 : State} {s : State} {e : Eff} (hk : Kept s0 s) :
    Kept s0 (landEff s e) := by
  unfold landEff
  repeat' first
    | with_reducible assumption
    | fail_if_no_progress (with_reducible refine kept_mk ?_)
    | fail_if_no_progress (with_reducible refine kept_all ?_ (by omega) (by first | exact id | exact fun w => wf_filter w _ | exact fun w => wf_foldl_memWrite w _ _ _) (by exact id) (by omega))
    | with_reducible refine kept_next ?_
    | with_reducible refine updStn_kept ?_
    | with_reducible refine landPocket_kept ?_
    | with_reducible refine updLb_kept ?_
    | with_reducible refine updArr_kept ?_
    | with_reducible refine kept_foldl (fun t x ht => ?_) ?_
    | with_reducible refine kept_foldl_pair (fun t x ht => ?_) ?_
    | split
    | dsimp only

theorem landDue_kept {s0 : State} {s : State} {g : Nat} (hk : Kept s0 s) :
    Kept s0 (landDue s g) := by
  unfold landDue
  repeat' first
    | with_reducible assumption
    | fail_if_no_progress (with_reducible refine kept_mk ?_)
    | fail_if_no_progress (with_reducible refine kept_all ?_ (by omega) (by first | exact id | exact fun w => wf_filter w _ | exact fun w => wf_foldl_memWrite w _ _ _) (by exact id) (by omega))
    | with_reducible refine kept_next ?_
    | with_reducible refine landEff_kept ?_
    | with_reducible refine updClu_kept ?_
    | with_reducible refine kept_foldl (fun t x ht => ?_) ?_
    | with_reducible refine kept_foldl_pair (fun t x ht => ?_) ?_
    | (extract_lets +onlyGivenNames x; (first | (refine kept_cut (a := s0) (x := x) ?_ ?_; (on_goal 1 => unfold x); (on_goal 2 => intro hx; clear_value x)) | (refine kept_cut (a := s0) (x := x.1) ?_ ?_; (on_goal 1 => unfold x); (on_goal 2 => intro hx; clear_value x)) | clear_value x))
    | dsimp only

theorem landAdds_kept {s0 : State} {s : State} {g : Nat} (hk : Kept s0 s) :
    Kept s0 (landAdds s g) := by
  unfold landAdds
  repeat' first
    | with_reducible assumption
    | fail_if_no_progress (with_reducible refine kept_mk ?_)
    | fail_if_no_progress (with_reducible refine kept_all ?_ (by omega) (by first | exact id | exact fun w => wf_filter w _ | exact fun w => wf_foldl_memWrite w _ _ _) (by exact id) (by omega))
    | with_reducible refine kept_next ?_
    | with_reducible refine applyAdd_kept ?_
    | with_reducible refine kept_foldl (fun t x ht => ?_) ?_
    | with_reducible refine kept_foldl_pair (fun t x ht => ?_) ?_
    | (extract_lets +onlyGivenNames x; (first | (refine kept_cut (a := s0) (x := x) ?_ ?_; (on_goal 1 => unfold x); (on_goal 2 => intro hx; clear_value x)) | (refine kept_cut (a := s0) (x := x.1) ?_ ?_; (on_goal 1 => unfold x); (on_goal 2 => intro hx; clear_value x)) | clear_value x))
    | split
    | dsimp only

theorem strideOf_kept {s0 : State} {n pc a : Nat} {r : ReadOut} (hk : Kept s0 r.s) : Kept s0 (strideOf n pc a r).1 := hk

theorem fetchStride_kept {s0 : State} {s : State} {n : Nat} (hk : Kept s0 s) :
    Kept s0 (fetchStride s n).1 := by
  unfold fetchStride
  repeat' first
    | with_reducible assumption
    | fail_if_no_progress (with_reducible refine kept_mk ?_)
    | fail_if_no_progress (with_reducible refine kept_all ?_ (by omega) (by first | exact id | exact fun w => wf_filter w _ | exact fun w => wf_foldl_memWrite w _ _ _) (by exact id) (by omega))
    | with_reducible refine kept_next ?_
    | with_reducible refine strideOf_kept ?_
    | with_reducible refine readMem_kept ?_
    | (extract_lets +onlyGivenNames x; (first | (refine kept_cut (a := s0) (x := x) ?_ ?_; (on_goal 1 => unfold x); (on_goal 2 => intro hx; clear_value x)) | (refine kept_cut (a := s0) (x := x.1) ?_ ?_; (on_goal 1 => unfold x); (on_goal 2 => intro hx; clear_value x)) | clear_value x))
    | dsimp only

theorem offTokens_kept {s0 : State} {s : State} {n a : Nat} {i : Option Instr} (hk : Kept s0 s) :
    Kept s0 (offTokens s n a i) := by
  unfold offTokens
  repeat' first
    | with_reducible assumption
    | fail_if_no_progress (with_reducible refine kept_mk ?_)
    | fail_if_no_progress (with_reducible refine kept_all ?_ (by omega) (by first | exact id | exact fun w => wf_filter w _ | exact fun w => wf_foldl_memWrite w _ _ _) (by exact id) (by omega))
    | with_reducible refine kept_next ?_
    | with_reducible refine updArr_kept ?_
    | with_reducible refine addTok_kept ?_
    | split
    | dsimp only

end Sys2Proof.Machine
end

