-- ==== Sys2Proof/Laws/Table.lean ====
section
/-! SUPPORT. Laws of the sparse table: a read after a write. -/
namespace Sys2Proof

/-- The part set is the part read. -/
@[simp] theorem Table.get_set_same {α : Type} (d : α) (t : Table α) (k : Nat) (v : α) :
    Table.get d (t.set k v) k = v := by
  induction t with
  | nil => simp [Table.set, Table.get]
  | cons e t ih =>
    obtain ⟨j, a⟩ := e
    simp only [Table.set]
    split
    · simp [Table.get]
    · split
      · simp [Table.get]
      · rename_i h1 h2
        simp only [Table.get]
        rw [if_neg (fun h => h2 h.symm)]
        exact ih

/-- Other parts read as before. -/
theorem Table.get_set_other {α : Type} (d : α) (t : Table α) (k j : Nat) (v : α) (h : j ≠ k) :
    Table.get d (t.set k v) j = Table.get d t j := by
  induction t with
  | nil => simp [Table.set, Table.get, Ne.symm h]
  | cons e t ih =>
    obtain ⟨i, a⟩ := e
    simp only [Table.set]
    split
    · simp [Table.get, Ne.symm h]
    · split
      · rename_i h1 h2
        subst h2
        simp [Table.get, Ne.symm h]
      · simp only [Table.get, ih]

/-- A read after a write, by cases. -/
theorem Table.get_set {α : Type} (d : α) (t : Table α) (k j : Nat) (v : α) :
    Table.get d (t.set k v) j = if j = k then v else Table.get d t j := by
  split
  · subst j; exact Table.get_set_same d t k v
  · exact Table.get_set_other d t k j v ‹_›

/-- The part changed is the change of the part before. -/
@[simp] theorem Table.get_upd_same {α : Type} (d : α) (t : Table α) (k : Nat) (f : α → α) :
    Table.get d (t.upd d k f) k = f (Table.get d t k) := by simp [Table.upd]

/-- Other parts are as before. -/
theorem Table.get_upd_other {α : Type} (d : α) (t : Table α) (k j : Nat) (f : α → α) (h : j ≠ k) :
    Table.get d (t.upd d k f) j = Table.get d t j := by
  simp [Table.upd, Table.get_set_other d t k j _ h]

/-- A part dropped reads as the default. -/
@[simp] theorem Table.get_drop_same {α : Type} (d : α) (t : Table α) (k : Nat) :
    Table.get d (t.drop k) k = d := by
  induction t with
  | nil => rfl
  | cons e t ih =>
    obtain ⟨j, a⟩ := e
    by_cases h : j = k
    · subst h; simpa [Table.drop] using ih
    · simp only [Table.drop, List.filter_cons, ne_eq, h, not_false_eq_true, decide_true, ↓reduceIte,
        Table.get]
      exact ih

/-- Parts other than the one dropped read as before. -/
theorem Table.get_drop_other {α : Type} (d : α) (t : Table α) (k j : Nat) (h : j ≠ k) :
    Table.get d (t.drop k) j = Table.get d t j := by
  induction t with
  | nil => rfl
  | cons e t ih =>
    obtain ⟨i, a⟩ := e
    by_cases hi : i = k
    · subst hi
      have : i ≠ j := Ne.symm h
      simpa [Table.drop, Table.get, this] using ih
    · simp only [Table.drop, List.filter_cons, ne_eq, hi, not_false_eq_true, decide_true, ↓reduceIte,
        Table.get]
      split
      · rfl
      · exact ih

end Sys2Proof
end

