-- ==== Sys2Proof/Laws/State.lean ====
section
/-! SUPPORT. Laws of the state: what every update of one part leaves of every other part, and what a part reads
as after its own update. -/
namespace Sys2Proof.Machine
open Sys2Proof

section
variable (s : State) (n : Nat) (f : Station → Station)
@[simp] theorem updStn_pending : (updStn s n f).pending = s.pending := rfl
@[simp] theorem updStn_freeCtr : (updStn s n f).freeCtr = s.freeCtr := rfl
@[simp] theorem updStn_timeNs : (updStn s n f).timeNs = s.timeNs := rfl
@[simp] theorem updStn_hostMem : (updStn s n f).hostMem = s.hostMem := rfl
@[simp] theorem updStn_barReply : (updStn s n f).barReply = s.barReply := rfl
@[simp] theorem updStn_evs : (updStn s n f).evs = s.evs := rfl
@[simp] theorem updStn_regs : (updStn s n f).regs = s.regs := rfl
@[simp] theorem updStn_mem : (updStn s n f).mem = s.mem := rfl
@[simp] theorem updStn_cwErr : (updStn s n f).cwErr = s.cwErr := rfl
@[simp] theorem updStn_wireFault : (updStn s n f).wireFault = s.wireFault := rfl
@[simp] theorem updStn_defects : (updStn s n f).defects = s.defects := rfl
@[simp] theorem updStn_writeBack : (updStn s n f).writeBack = s.writeBack := rfl
@[simp] theorem updStn_lastCe : (updStn s n f).lastCe = s.lastCe := rfl
@[simp] theorem updStn_dram : (updStn s n f).dram = s.dram := rfl
@[simp] theorem updStn_scrubAt : (updStn s n f).scrubAt = s.scrubAt := rfl
@[simp] theorem updStn_arrs : (updStn s n f).arrs = s.arrs := rfl
@[simp] theorem updStn_clus : (updStn s n f).clus = s.clus := rfl
@[simp] theorem updStn_coreCtr : (updStn s n f).coreCtr = s.coreCtr := rfl
@[simp] theorem updStn_cluCtr : (updStn s n f).cluCtr = s.cluCtr := rfl
@[simp] theorem updStn_dieCtr : (updStn s n f).dieCtr = s.dieCtr := rfl
@[simp] theorem updStn_modCtr : (updStn s n f).modCtr = s.modCtr := rfl
@[simp] theorem updStn_adds : (updStn s n f).adds = s.adds := rfl
@[simp] theorem updStn_waiters : (updStn s n f).waiters = s.waiters := rfl
@[simp] theorem updStn_valMsgs : (updStn s n f).valMsgs = s.valMsgs := rfl
@[simp] theorem updStn_seen : (updStn s n f).seen = s.seen := rfl
@[simp] theorem updStn_jobUp : (updStn s n f).jobUp = s.jobUp := rfl
@[simp] theorem updStn_jobSum : (updStn s n f).jobSum = s.jobSum := rfl
@[simp] theorem updStn_jobDown : (updStn s n f).jobDown = s.jobDown := rfl
@[simp] theorem updStn_hopFails : (updStn s n f).hopFails = s.hopFails := rfl
@[simp] theorem updStn_netStopped : (updStn s n f).netStopped = s.netStopped := rfl
@[simp] theorem updStn_fabFails : (updStn s n f).fabFails = s.fabFails := rfl
@[simp] theorem updStn_fabStopped : (updStn s n f).fabStopped = s.fabStopped := rfl
@[simp] theorem updStn_engines : (updStn s n f).engines = s.engines := rfl
@[simp] theorem updStn_wins : (updStn s n f).wins = s.wins := rfl
@[simp] theorem updStn_bankMode : (updStn s n f).bankMode = s.bankMode := rfl
@[simp] theorem updStn_bankState : (updStn s n f).bankState = s.bankState := rfl
@[simp] theorem updStn_coresEff : (updStn s n f).coresEff = s.coresEff := rfl
@[simp] theorem updStn_coresNext : (updStn s n f).coresNext = s.coresNext := rfl
@[simp] theorem updStn_dump : (updStn s n f).dump = s.dump := rfl
@[simp] theorem updStn_course : (updStn s n f).course = s.course := rfl
@[simp] theorem updStn_runNo : (updStn s n f).runNo = s.runNo := rfl
@[simp] theorem updStn_stop : (updStn s n f).stop = s.stop := rfl
@[simp] theorem updStn_stepErr : (updStn s n f).stepErr = s.stepErr := rfl
@[simp] theorem updStn_tests : (updStn s n f).tests = s.tests := rfl
@[simp] theorem updStn_rates : (updStn s n f).rates = s.rates := rfl
@[simp] theorem updStn_moduleId : (updStn s n f).moduleId = s.moduleId := rfl
@[simp] theorem updStn_ports : (updStn s n f).ports = s.ports := rfl
@[simp] theorem updStn_inbox : (updStn s n f).inbox = s.inbox := rfl
@[simp] theorem updStn_inHur : (updStn s n f).inHur = s.inHur := rfl
@[simp] theorem updStn_nfCnt : (updStn s n f).nfCnt = s.nfCnt := rfl
@[simp] theorem updStn_reached : (updStn s n f).reached = s.reached := rfl
@[simp] theorem updStn_ofls : (updStn s n f).ofls = s.ofls := rfl
@[simp] theorem updStn_keys : (updStn s n f).keys = s.keys := rfl
@[simp] theorem updStn_reqTag : (updStn s n f).reqTag = s.reqTag := rfl
@[simp] theorem updStn_gwIn : (updStn s n f).gwIn = s.gwIn := rfl
@[simp] theorem updStn_steps : (updStn s n f).steps = s.steps := rfl
@[simp] theorem updStn_jobState : (updStn s n f).jobState = s.jobState := rfl
@[simp] theorem updStn_qps : (updStn s n f).qps = s.qps := rfl
@[simp] theorem updStn_rot : (updStn s n f).rot = s.rot := rfl
@[simp] theorem updStn_ring : (updStn s n f).ring = s.ring := rfl
@[simp] theorem updStn_posts : (updStn s n f).posts = s.posts := rfl
@[simp] theorem updStn_vecDue : (updStn s n f).vecDue = s.vecDue := rfl
@[simp] theorem updStn_msix : (updStn s n f).msix = s.msix := rfl
@[simp] theorem updStn_pba : (updStn s n f).pba = s.pba := rfl
@[simp] theorem updStn_hostErr : (updStn s n f).hostErr = s.hostErr := rfl
@[simp] theorem updStn_evTotal : (updStn s n f).evTotal = s.evTotal := rfl
@[simp] theorem updStn_cmdTotal : (updStn s n f).cmdTotal = s.cmdTotal := rfl
@[simp] theorem updStn_capGen : (updStn s n f).capGen = s.capGen := rfl
@[simp] theorem updStn_gws : (updStn s n f).gws = s.gws := rfl
@[simp] theorem updStn_groups : (updStn s n f).groups = s.groups := rfl
@[simp] theorem updStn_coord : (updStn s n f).coord = s.coord := rfl
@[simp] theorem updStn_snap : (updStn s n f).snap = s.snap := rfl
@[simp] theorem updStn_run : (updStn s n f).run = s.run := rfl
@[simp] theorem updStn_power : (updStn s n f).power = s.power := rfl
@[simp] theorem updStn_ctl : (updStn s n f).ctl = s.ctl := rfl
@[simp] theorem updStn_vault : (updStn s n f).vault = s.vault := rfl
@[simp] theorem updStn_mgt : (updStn s n f).mgt = s.mgt := rfl
@[simp] theorem updStn_edgesBad : (updStn s n f).edgesBad = s.edgesBad := rfl
@[simp] theorem updStn_banksBad : (updStn s n f).banksBad = s.banksBad := rfl
@[simp] theorem updStn_assign : (updStn s n f).assign = s.assign := rfl
@[simp] theorem updStn_assignNext : (updStn s n f).assignNext = s.assignNext := rfl
@[simp] theorem updStn_gated : (updStn s n f).gated = s.gated := rfl
@[simp] theorem updStn_debugOpen : (updStn s n f).debugOpen = s.debugOpen := rfl
@[simp] theorem updStn_zeroDraw : (updStn s n f).zeroDraw = s.zeroDraw := rfl
@[simp] theorem updStn_fltLast : (updStn s n f).fltLast = s.fltLast := rfl
@[simp] theorem updStn_suppsEff : (updStn s n f).suppsEff = s.suppsEff := rfl
@[simp] theorem updStn_held : (updStn s n f).held = s.held := rfl
@[simp] theorem updStn_copies : (updStn s n f).copies = s.copies := rfl
end

section
variable (s : State) (n a : Nat) (f : Arr → Arr)
@[simp] theorem updArr_pending : (updArr s n a f).pending = s.pending := rfl
@[simp] theorem updArr_freeCtr : (updArr s n a f).freeCtr = s.freeCtr := rfl
@[simp] theorem updArr_timeNs : (updArr s n a f).timeNs = s.timeNs := rfl
@[simp] theorem updArr_hostMem : (updArr s n a f).hostMem = s.hostMem := rfl
@[simp] theorem updArr_barReply : (updArr s n a f).barReply = s.barReply := rfl
@[simp] theorem updArr_evs : (updArr s n a f).evs = s.evs := rfl
@[simp] theorem updArr_regs : (updArr s n a f).regs = s.regs := rfl
@[simp] theorem updArr_mem : (updArr s n a f).mem = s.mem := rfl
@[simp] theorem updArr_cwErr : (updArr s n a f).cwErr = s.cwErr := rfl
@[simp] theorem updArr_wireFault : (updArr s n a f).wireFault = s.wireFault := rfl
@[simp] theorem updArr_defects : (updArr s n a f).defects = s.defects := rfl
@[simp] theorem updArr_writeBack : (updArr s n a f).writeBack = s.writeBack := rfl
@[simp] theorem updArr_lastCe : (updArr s n a f).lastCe = s.lastCe := rfl
@[simp] theorem updArr_dram : (updArr s n a f).dram = s.dram := rfl
@[simp] theorem updArr_scrubAt : (updArr s n a f).scrubAt = s.scrubAt := rfl
@[simp] theorem updArr_stns : (updArr s n a f).stns = s.stns := rfl
@[simp] theorem updArr_clus : (updArr s n a f).clus = s.clus := rfl
@[simp] theorem updArr_coreCtr : (updArr s n a f).coreCtr = s.coreCtr := rfl
@[simp] theorem updArr_cluCtr : (updArr s n a f).cluCtr = s.cluCtr := rfl
@[simp] theorem updArr_dieCtr : (updArr s n a f).dieCtr = s.dieCtr := rfl
@[simp] theorem updArr_modCtr : (updArr s n a f).modCtr = s.modCtr := rfl
@[simp] theorem updArr_adds : (updArr s n a f).adds = s.adds := rfl
@[simp] theorem updArr_waiters : (updArr s n a f).waiters = s.waiters := rfl
@[simp] theorem updArr_valMsgs : (updArr s n a f).valMsgs = s.valMsgs := rfl
@[simp] theorem updArr_seen : (updArr s n a f).seen = s.seen := rfl
@[simp] theorem updArr_jobUp : (updArr s n a f).jobUp = s.jobUp := rfl
@[simp] theorem updArr_jobSum : (updArr s n a f).jobSum = s.jobSum := rfl
@[simp] theorem updArr_jobDown : (updArr s n a f).jobDown = s.jobDown := rfl
@[simp] theorem updArr_hopFails : (updArr s n a f).hopFails = s.hopFails := rfl
@[simp] theorem updArr_netStopped : (updArr s n a f).netStopped = s.netStopped := rfl
@[simp] theorem updArr_fabFails : (updArr s n a f).fabFails = s.fabFails := rfl
@[simp] theorem updArr_fabStopped : (updArr s n a f).fabStopped = s.fabStopped := rfl
@[simp] theorem updArr_engines : (updArr s n a f).engines = s.engines := rfl
@[simp] theorem updArr_wins : (updArr s n a f).wins = s.wins := rfl
@[simp] theorem updArr_bankMode : (updArr s n a f).bankMode = s.bankMode := rfl
@[simp] theorem updArr_bankState : (updArr s n a f).bankState = s.bankState := rfl
@[simp] theorem updArr_coresEff : (updArr s n a f).coresEff = s.coresEff := rfl
@[simp] theorem updArr_coresNext : (updArr s n a f).coresNext = s.coresNext := rfl
@[simp] theorem updArr_dump : (updArr s n a f).dump = s.dump := rfl
@[simp] theorem updArr_course : (updArr s n a f).course = s.course := rfl
@[simp] theorem updArr_runNo : (updArr s n a f).runNo = s.runNo := rfl
@[simp] theorem updArr_stop : (updArr s n a f).stop = s.stop := rfl
@[simp] theorem updArr_stepErr : (updArr s n a f).stepErr = s.stepErr := rfl
@[simp] theorem updArr_tests : (updArr s n a f).tests = s.tests := rfl
@[simp] theorem updArr_rates : (updArr s n a f).rates = s.rates := rfl
@[simp] theorem updArr_moduleId : (updArr s n a f).moduleId = s.moduleId := rfl
@[simp] theorem updArr_ports : (updArr s n a f).ports = s.ports := rfl
@[simp] theorem updArr_inbox : (updArr s n a f).inbox = s.inbox := rfl
@[simp] theorem updArr_inHur : (updArr s n a f).inHur = s.inHur := rfl
@[simp] theorem updArr_nfCnt : (updArr s n a f).nfCnt = s.nfCnt := rfl
@[simp] theorem updArr_reached : (updArr s n a f).reached = s.reached := rfl
@[simp] theorem updArr_ofls : (updArr s n a f).ofls = s.ofls := rfl
@[simp] theorem updArr_keys : (updArr s n a f).keys = s.keys := rfl
@[simp] theorem updArr_reqTag : (updArr s n a f).reqTag = s.reqTag := rfl
@[simp] theorem updArr_gwIn : (updArr s n a f).gwIn = s.gwIn := rfl
@[simp] theorem updArr_steps : (updArr s n a f).steps = s.steps := rfl
@[simp] theorem updArr_jobState : (updArr s n a f).jobState = s.jobState := rfl
@[simp] theorem updArr_qps : (updArr s n a f).qps = s.qps := rfl
@[simp] theorem updArr_rot : (updArr s n a f).rot = s.rot := rfl
@[simp] theorem updArr_ring : (updArr s n a f).ring = s.ring := rfl
@[simp] theorem updArr_posts : (updArr s n a f).posts = s.posts := rfl
@[simp] theorem updArr_vecDue : (updArr s n a f).vecDue = s.vecDue := rfl
@[simp] theorem updArr_msix : (updArr s n a f).msix = s.msix := rfl
@[simp] theorem updArr_pba : (updArr s n a f).pba = s.pba := rfl
@[simp] theorem updArr_hostErr : (updArr s n a f).hostErr = s.hostErr := rfl
@[simp] theorem updArr_evTotal : (updArr s n a f).evTotal = s.evTotal := rfl
@[simp] theorem updArr_cmdTotal : (updArr s n a f).cmdTotal = s.cmdTotal := rfl
@[simp] theorem updArr_capGen : (updArr s n a f).capGen = s.capGen := rfl
@[simp] theorem updArr_gws : (updArr s n a f).gws = s.gws := rfl
@[simp] theorem updArr_groups : (updArr s n a f).groups = s.groups := rfl
@[simp] theorem updArr_coord : (updArr s n a f).coord = s.coord := rfl
@[simp] theorem updArr_snap : (updArr s n a f).snap = s.snap := rfl
@[simp] theorem updArr_run : (updArr s n a f).run = s.run := rfl
@[simp] theorem updArr_power : (updArr s n a f).power = s.power := rfl
@[simp] theorem updArr_ctl : (updArr s n a f).ctl = s.ctl := rfl
@[simp] theorem updArr_vault : (updArr s n a f).vault = s.vault := rfl
@[simp] theorem updArr_mgt : (updArr s n a f).mgt = s.mgt := rfl
@[simp] theorem updArr_edgesBad : (updArr s n a f).edgesBad = s.edgesBad := rfl
@[simp] theorem updArr_banksBad : (updArr s n a f).banksBad = s.banksBad := rfl
@[simp] theorem updArr_assign : (updArr s n a f).assign = s.assign := rfl
@[simp] theorem updArr_assignNext : (updArr s n a f).assignNext = s.assignNext := rfl
@[simp] theorem updArr_gated : (updArr s n a f).gated = s.gated := rfl
@[simp] theorem updArr_debugOpen : (updArr s n a f).debugOpen = s.debugOpen := rfl
@[simp] theorem updArr_zeroDraw : (updArr s n a f).zeroDraw = s.zeroDraw := rfl
@[simp] theorem updArr_fltLast : (updArr s n a f).fltLast = s.fltLast := rfl
@[simp] theorem updArr_suppsEff : (updArr s n a f).suppsEff = s.suppsEff := rfl
@[simp] theorem updArr_held : (updArr s n a f).held = s.held := rfl
@[simp] theorem updArr_copies : (updArr s n a f).copies = s.copies := rfl
end

section
variable (s : State) (g : Nat) (f : Cluster → Cluster)
@[simp] theorem updClu_pending : (updClu s g f).pending = s.pending := rfl
@[simp] theorem updClu_freeCtr : (updClu s g f).freeCtr = s.freeCtr := rfl
@[simp] theorem updClu_timeNs : (updClu s g f).timeNs = s.timeNs := rfl
@[simp] theorem updClu_hostMem : (updClu s g f).hostMem = s.hostMem := rfl
@[simp] theorem updClu_barReply : (updClu s g f).barReply = s.barReply := rfl
@[simp] theorem updClu_evs : (updClu s g f).evs = s.evs := rfl
@[simp] theorem updClu_regs : (updClu s g f).regs = s.regs := rfl
@[simp] theorem updClu_mem : (updClu s g f).mem = s.mem := rfl
@[simp] theorem updClu_cwErr : (updClu s g f).cwErr = s.cwErr := rfl
@[simp] theorem updClu_wireFault : (updClu s g f).wireFault = s.wireFault := rfl
@[simp] theorem updClu_defects : (updClu s g f).defects = s.defects := rfl
@[simp] theorem updClu_writeBack : (updClu s g f).writeBack = s.writeBack := rfl
@[simp] theorem updClu_lastCe : (updClu s g f).lastCe = s.lastCe := rfl
@[simp] theorem updClu_dram : (updClu s g f).dram = s.dram := rfl
@[simp] theorem updClu_scrubAt : (updClu s g f).scrubAt = s.scrubAt := rfl
@[simp] theorem updClu_stns : (updClu s g f).stns = s.stns := rfl
@[simp] theorem updClu_arrs : (updClu s g f).arrs = s.arrs := rfl
@[simp] theorem updClu_coreCtr : (updClu s g f).coreCtr = s.coreCtr := rfl
@[simp] theorem updClu_cluCtr : (updClu s g f).cluCtr = s.cluCtr := rfl
@[simp] theorem updClu_dieCtr : (updClu s g f).dieCtr = s.dieCtr := rfl
@[simp] theorem updClu_modCtr : (updClu s g f).modCtr = s.modCtr := rfl
@[simp] theorem updClu_adds : (updClu s g f).adds = s.adds := rfl
@[simp] theorem updClu_waiters : (updClu s g f).waiters = s.waiters := rfl
@[simp] theorem updClu_valMsgs : (updClu s g f).valMsgs = s.valMsgs := rfl
@[simp] theorem updClu_seen : (updClu s g f).seen = s.seen := rfl
@[simp] theorem updClu_jobUp : (updClu s g f).jobUp = s.jobUp := rfl
@[simp] theorem updClu_jobSum : (updClu s g f).jobSum = s.jobSum := rfl
@[simp] theorem updClu_jobDown : (updClu s g f).jobDown = s.jobDown := rfl
@[simp] theorem updClu_hopFails : (updClu s g f).hopFails = s.hopFails := rfl
@[simp] theorem updClu_netStopped : (updClu s g f).netStopped = s.netStopped := rfl
@[simp] theorem updClu_fabFails : (updClu s g f).fabFails = s.fabFails := rfl
@[simp] theorem updClu_fabStopped : (updClu s g f).fabStopped = s.fabStopped := rfl
@[simp] theorem updClu_engines : (updClu s g f).engines = s.engines := rfl
@[simp] theorem updClu_wins : (updClu s g f).wins = s.wins := rfl
@[simp] theorem updClu_bankMode : (updClu s g f).bankMode = s.bankMode := rfl
@[simp] theorem updClu_bankState : (updClu s g f).bankState = s.bankState := rfl
@[simp] theorem updClu_coresEff : (updClu s g f).coresEff = s.coresEff := rfl
@[simp] theorem updClu_coresNext : (updClu s g f).coresNext = s.coresNext := rfl
@[simp] theorem updClu_dump : (updClu s g f).dump = s.dump := rfl
@[simp] theorem updClu_course : (updClu s g f).course = s.course := rfl
@[simp] theorem updClu_runNo : (updClu s g f).runNo = s.runNo := rfl
@[simp] theorem updClu_stop : (updClu s g f).stop = s.stop := rfl
@[simp] theorem updClu_stepErr : (updClu s g f).stepErr = s.stepErr := rfl
@[simp] theorem updClu_tests : (updClu s g f).tests = s.tests := rfl
@[simp] theorem updClu_rates : (updClu s g f).rates = s.rates := rfl
@[simp] theorem updClu_moduleId : (updClu s g f).moduleId = s.moduleId := rfl
@[simp] theorem updClu_ports : (updClu s g f).ports = s.ports := rfl
@[simp] theorem updClu_inbox : (updClu s g f).inbox = s.inbox := rfl
@[simp] theorem updClu_inHur : (updClu s g f).inHur = s.inHur := rfl
@[simp] theorem updClu_nfCnt : (updClu s g f).nfCnt = s.nfCnt := rfl
@[simp] theorem updClu_reached : (updClu s g f).reached = s.reached := rfl
@[simp] theorem updClu_ofls : (updClu s g f).ofls = s.ofls := rfl
@[simp] theorem updClu_keys : (updClu s g f).keys = s.keys := rfl
@[simp] theorem updClu_reqTag : (updClu s g f).reqTag = s.reqTag := rfl
@[simp] theorem updClu_gwIn : (updClu s g f).gwIn = s.gwIn := rfl
@[simp] theorem updClu_steps : (updClu s g f).steps = s.steps := rfl
@[simp] theorem updClu_jobState : (updClu s g f).jobState = s.jobState := rfl
@[simp] theorem updClu_qps : (updClu s g f).qps = s.qps := rfl
@[simp] theorem updClu_rot : (updClu s g f).rot = s.rot := rfl
@[simp] theorem updClu_ring : (updClu s g f).ring = s.ring := rfl
@[simp] theorem updClu_posts : (updClu s g f).posts = s.posts := rfl
@[simp] theorem updClu_vecDue : (updClu s g f).vecDue = s.vecDue := rfl
@[simp] theorem updClu_msix : (updClu s g f).msix = s.msix := rfl
@[simp] theorem updClu_pba : (updClu s g f).pba = s.pba := rfl
@[simp] theorem updClu_hostErr : (updClu s g f).hostErr = s.hostErr := rfl
@[simp] theorem updClu_evTotal : (updClu s g f).evTotal = s.evTotal := rfl
@[simp] theorem updClu_cmdTotal : (updClu s g f).cmdTotal = s.cmdTotal := rfl
@[simp] theorem updClu_capGen : (updClu s g f).capGen = s.capGen := rfl
@[simp] theorem updClu_gws : (updClu s g f).gws = s.gws := rfl
@[simp] theorem updClu_groups : (updClu s g f).groups = s.groups := rfl
@[simp] theorem updClu_coord : (updClu s g f).coord = s.coord := rfl
@[simp] theorem updClu_snap : (updClu s g f).snap = s.snap := rfl
@[simp] theorem updClu_run : (updClu s g f).run = s.run := rfl
@[simp] theorem updClu_power : (updClu s g f).power = s.power := rfl
@[simp] theorem updClu_ctl : (updClu s g f).ctl = s.ctl := rfl
@[simp] theorem updClu_vault : (updClu s g f).vault = s.vault := rfl
@[simp] theorem updClu_mgt : (updClu s g f).mgt = s.mgt := rfl
@[simp] theorem updClu_edgesBad : (updClu s g f).edgesBad = s.edgesBad := rfl
@[simp] theorem updClu_banksBad : (updClu s g f).banksBad = s.banksBad := rfl
@[simp] theorem updClu_assign : (updClu s g f).assign = s.assign := rfl
@[simp] theorem updClu_assignNext : (updClu s g f).assignNext = s.assignNext := rfl
@[simp] theorem updClu_gated : (updClu s g f).gated = s.gated := rfl
@[simp] theorem updClu_debugOpen : (updClu s g f).debugOpen = s.debugOpen := rfl
@[simp] theorem updClu_zeroDraw : (updClu s g f).zeroDraw = s.zeroDraw := rfl
@[simp] theorem updClu_fltLast : (updClu s g f).fltLast = s.fltLast := rfl
@[simp] theorem updClu_suppsEff : (updClu s g f).suppsEff = s.suppsEff := rfl
@[simp] theorem updClu_held : (updClu s g f).held = s.held := rfl
@[simp] theorem updClu_copies : (updClu s g f).copies = s.copies := rfl
end

section
variable (s : State) (g e : Nat) (f : Engine → Engine)
@[simp] theorem updEng_pending : (updEng s g e f).pending = s.pending := rfl
@[simp] theorem updEng_freeCtr : (updEng s g e f).freeCtr = s.freeCtr := rfl
@[simp] theorem updEng_timeNs : (updEng s g e f).timeNs = s.timeNs := rfl
@[simp] theorem updEng_hostMem : (updEng s g e f).hostMem = s.hostMem := rfl
@[simp] theorem updEng_barReply : (updEng s g e f).barReply = s.barReply := rfl
@[simp] theorem updEng_evs : (updEng s g e f).evs = s.evs := rfl
@[simp] theorem updEng_regs : (updEng s g e f).regs = s.regs := rfl
@[simp] theorem updEng_mem : (updEng s g e f).mem = s.mem := rfl
@[simp] theorem updEng_cwErr : (updEng s g e f).cwErr = s.cwErr := rfl
@[simp] theorem updEng_wireFault : (updEng s g e f).wireFault = s.wireFault := rfl
@[simp] theorem updEng_defects : (updEng s g e f).defects = s.defects := rfl
@[simp] theorem updEng_writeBack : (updEng s g e f).writeBack = s.writeBack := rfl
@[simp] theorem updEng_lastCe : (updEng s g e f).lastCe = s.lastCe := rfl
@[simp] theorem updEng_dram : (updEng s g e f).dram = s.dram := rfl
@[simp] theorem updEng_scrubAt : (updEng s g e f).scrubAt = s.scrubAt := rfl
@[simp] theorem updEng_stns : (updEng s g e f).stns = s.stns := rfl
@[simp] theorem updEng_arrs : (updEng s g e f).arrs = s.arrs := rfl
@[simp] theorem updEng_clus : (updEng s g e f).clus = s.clus := rfl
@[simp] theorem updEng_coreCtr : (updEng s g e f).coreCtr = s.coreCtr := rfl
@[simp] theorem updEng_cluCtr : (updEng s g e f).cluCtr = s.cluCtr := rfl
@[simp] theorem updEng_dieCtr : (updEng s g e f).dieCtr = s.dieCtr := rfl
@[simp] theorem updEng_modCtr : (updEng s g e f).modCtr = s.modCtr := rfl
@[simp] theorem updEng_adds : (updEng s g e f).adds = s.adds := rfl
@[simp] theorem updEng_waiters : (updEng s g e f).waiters = s.waiters := rfl
@[simp] theorem updEng_valMsgs : (updEng s g e f).valMsgs = s.valMsgs := rfl
@[simp] theorem updEng_seen : (updEng s g e f).seen = s.seen := rfl
@[simp] theorem updEng_jobUp : (updEng s g e f).jobUp = s.jobUp := rfl
@[simp] theorem updEng_jobSum : (updEng s g e f).jobSum = s.jobSum := rfl
@[simp] theorem updEng_jobDown : (updEng s g e f).jobDown = s.jobDown := rfl
@[simp] theorem updEng_hopFails : (updEng s g e f).hopFails = s.hopFails := rfl
@[simp] theorem updEng_netStopped : (updEng s g e f).netStopped = s.netStopped := rfl
@[simp] theorem updEng_fabFails : (updEng s g e f).fabFails = s.fabFails := rfl
@[simp] theorem updEng_fabStopped : (updEng s g e f).fabStopped = s.fabStopped := rfl
@[simp] theorem updEng_wins : (updEng s g e f).wins = s.wins := rfl
@[simp] theorem updEng_bankMode : (updEng s g e f).bankMode = s.bankMode := rfl
@[simp] theorem updEng_bankState : (updEng s g e f).bankState = s.bankState := rfl
@[simp] theorem updEng_coresEff : (updEng s g e f).coresEff = s.coresEff := rfl
@[simp] theorem updEng_coresNext : (updEng s g e f).coresNext = s.coresNext := rfl
@[simp] theorem updEng_dump : (updEng s g e f).dump = s.dump := rfl
@[simp] theorem updEng_course : (updEng s g e f).course = s.course := rfl
@[simp] theorem updEng_runNo : (updEng s g e f).runNo = s.runNo := rfl
@[simp] theorem updEng_stop : (updEng s g e f).stop = s.stop := rfl
@[simp] theorem updEng_stepErr : (updEng s g e f).stepErr = s.stepErr := rfl
@[simp] theorem updEng_tests : (updEng s g e f).tests = s.tests := rfl
@[simp] theorem updEng_rates : (updEng s g e f).rates = s.rates := rfl
@[simp] theorem updEng_moduleId : (updEng s g e f).moduleId = s.moduleId := rfl
@[simp] theorem updEng_ports : (updEng s g e f).ports = s.ports := rfl
@[simp] theorem updEng_inbox : (updEng s g e f).inbox = s.inbox := rfl
@[simp] theorem updEng_inHur : (updEng s g e f).inHur = s.inHur := rfl
@[simp] theorem updEng_nfCnt : (updEng s g e f).nfCnt = s.nfCnt := rfl
@[simp] theorem updEng_reached : (updEng s g e f).reached = s.reached := rfl
@[simp] theorem updEng_ofls : (updEng s g e f).ofls = s.ofls := rfl
@[simp] theorem updEng_keys : (updEng s g e f).keys = s.keys := rfl
@[simp] theorem updEng_reqTag : (updEng s g e f).reqTag = s.reqTag := rfl
@[simp] theorem updEng_gwIn : (updEng s g e f).gwIn = s.gwIn := rfl
@[simp] theorem updEng_steps : (updEng s g e f).steps = s.steps := rfl
@[simp] theorem updEng_jobState : (updEng s g e f).jobState = s.jobState := rfl
@[simp] theorem updEng_qps : (updEng s g e f).qps = s.qps := rfl
@[simp] theorem updEng_rot : (updEng s g e f).rot = s.rot := rfl
@[simp] theorem updEng_ring : (updEng s g e f).ring = s.ring := rfl
@[simp] theorem updEng_posts : (updEng s g e f).posts = s.posts := rfl
@[simp] theorem updEng_vecDue : (updEng s g e f).vecDue = s.vecDue := rfl
@[simp] theorem updEng_msix : (updEng s g e f).msix = s.msix := rfl
@[simp] theorem updEng_pba : (updEng s g e f).pba = s.pba := rfl
@[simp] theorem updEng_hostErr : (updEng s g e f).hostErr = s.hostErr := rfl
@[simp] theorem updEng_evTotal : (updEng s g e f).evTotal = s.evTotal := rfl
@[simp] theorem updEng_cmdTotal : (updEng s g e f).cmdTotal = s.cmdTotal := rfl
@[simp] theorem updEng_capGen : (updEng s g e f).capGen = s.capGen := rfl
@[simp] theorem updEng_gws : (updEng s g e f).gws = s.gws := rfl
@[simp] theorem updEng_groups : (updEng s g e f).groups = s.groups := rfl
@[simp] theorem updEng_coord : (updEng s g e f).coord = s.coord := rfl
@[simp] theorem updEng_snap : (updEng s g e f).snap = s.snap := rfl
@[simp] theorem updEng_run : (updEng s g e f).run = s.run := rfl
@[simp] theorem updEng_power : (updEng s g e f).power = s.power := rfl
@[simp] theorem updEng_ctl : (updEng s g e f).ctl = s.ctl := rfl
@[simp] theorem updEng_vault : (updEng s g e f).vault = s.vault := rfl
@[simp] theorem updEng_mgt : (updEng s g e f).mgt = s.mgt := rfl
@[simp] theorem updEng_edgesBad : (updEng s g e f).edgesBad = s.edgesBad := rfl
@[simp] theorem updEng_banksBad : (updEng s g e f).banksBad = s.banksBad := rfl
@[simp] theorem updEng_assign : (updEng s g e f).assign = s.assign := rfl
@[simp] theorem updEng_assignNext : (updEng s g e f).assignNext = s.assignNext := rfl
@[simp] theorem updEng_gated : (updEng s g e f).gated = s.gated := rfl
@[simp] theorem updEng_debugOpen : (updEng s g e f).debugOpen = s.debugOpen := rfl
@[simp] theorem updEng_zeroDraw : (updEng s g e f).zeroDraw = s.zeroDraw := rfl
@[simp] theorem updEng_fltLast : (updEng s g e f).fltLast = s.fltLast := rfl
@[simp] theorem updEng_suppsEff : (updEng s g e f).suppsEff = s.suppsEff := rfl
@[simp] theorem updEng_held : (updEng s g e f).held = s.held := rfl
@[simp] theorem updEng_copies : (updEng s g e f).copies = s.copies := rfl
end

section
variable (s : State) (q : Nat) (f : Qp → Qp)
@[simp] theorem updQp_pending : (updQp s q f).pending = s.pending := rfl
@[simp] theorem updQp_freeCtr : (updQp s q f).freeCtr = s.freeCtr := rfl
@[simp] theorem updQp_timeNs : (updQp s q f).timeNs = s.timeNs := rfl
@[simp] theorem updQp_hostMem : (updQp s q f).hostMem = s.hostMem := rfl
@[simp] theorem updQp_barReply : (updQp s q f).barReply = s.barReply := rfl
@[simp] theorem updQp_evs : (updQp s q f).evs = s.evs := rfl
@[simp] theorem updQp_regs : (updQp s q f).regs = s.regs := rfl
@[simp] theorem updQp_mem : (updQp s q f).mem = s.mem := rfl
@[simp] theorem updQp_cwErr : (updQp s q f).cwErr = s.cwErr := rfl
@[simp] theorem updQp_wireFault : (updQp s q f).wireFault = s.wireFault := rfl
@[simp] theorem updQp_defects : (updQp s q f).defects = s.defects := rfl
@[simp] theorem updQp_writeBack : (updQp s q f).writeBack = s.writeBack := rfl
@[simp] theorem updQp_lastCe : (updQp s q f).lastCe = s.lastCe := rfl
@[simp] theorem updQp_dram : (updQp s q f).dram = s.dram := rfl
@[simp] theorem updQp_scrubAt : (updQp s q f).scrubAt = s.scrubAt := rfl
@[simp] theorem updQp_stns : (updQp s q f).stns = s.stns := rfl
@[simp] theorem updQp_arrs : (updQp s q f).arrs = s.arrs := rfl
@[simp] theorem updQp_clus : (updQp s q f).clus = s.clus := rfl
@[simp] theorem updQp_coreCtr : (updQp s q f).coreCtr = s.coreCtr := rfl
@[simp] theorem updQp_cluCtr : (updQp s q f).cluCtr = s.cluCtr := rfl
@[simp] theorem updQp_dieCtr : (updQp s q f).dieCtr = s.dieCtr := rfl
@[simp] theorem updQp_modCtr : (updQp s q f).modCtr = s.modCtr := rfl
@[simp] theorem updQp_adds : (updQp s q f).adds = s.adds := rfl
@[simp] theorem updQp_waiters : (updQp s q f).waiters = s.waiters := rfl
@[simp] theorem updQp_valMsgs : (updQp s q f).valMsgs = s.valMsgs := rfl
@[simp] theorem updQp_seen : (updQp s q f).seen = s.seen := rfl
@[simp] theorem updQp_jobUp : (updQp s q f).jobUp = s.jobUp := rfl
@[simp] theorem updQp_jobSum : (updQp s q f).jobSum = s.jobSum := rfl
@[simp] theorem updQp_jobDown : (updQp s q f).jobDown = s.jobDown := rfl
@[simp] theorem updQp_hopFails : (updQp s q f).hopFails = s.hopFails := rfl
@[simp] theorem updQp_netStopped : (updQp s q f).netStopped = s.netStopped := rfl
@[simp] theorem updQp_fabFails : (updQp s q f).fabFails = s.fabFails := rfl
@[simp] theorem updQp_fabStopped : (updQp s q f).fabStopped = s.fabStopped := rfl
@[simp] theorem updQp_engines : (updQp s q f).engines = s.engines := rfl
@[simp] theorem updQp_wins : (updQp s q f).wins = s.wins := rfl
@[simp] theorem updQp_bankMode : (updQp s q f).bankMode = s.bankMode := rfl
@[simp] theorem updQp_bankState : (updQp s q f).bankState = s.bankState := rfl
@[simp] theorem updQp_coresEff : (updQp s q f).coresEff = s.coresEff := rfl
@[simp] theorem updQp_coresNext : (updQp s q f).coresNext = s.coresNext := rfl
@[simp] theorem updQp_dump : (updQp s q f).dump = s.dump := rfl
@[simp] theorem updQp_course : (updQp s q f).course = s.course := rfl
@[simp] theorem updQp_runNo : (updQp s q f).runNo = s.runNo := rfl
@[simp] theorem updQp_stop : (updQp s q f).stop = s.stop := rfl
@[simp] theorem updQp_stepErr : (updQp s q f).stepErr = s.stepErr := rfl
@[simp] theorem updQp_tests : (updQp s q f).tests = s.tests := rfl
@[simp] theorem updQp_rates : (updQp s q f).rates = s.rates := rfl
@[simp] theorem updQp_moduleId : (updQp s q f).moduleId = s.moduleId := rfl
@[simp] theorem updQp_ports : (updQp s q f).ports = s.ports := rfl
@[simp] theorem updQp_inbox : (updQp s q f).inbox = s.inbox := rfl
@[simp] theorem updQp_inHur : (updQp s q f).inHur = s.inHur := rfl
@[simp] theorem updQp_nfCnt : (updQp s q f).nfCnt = s.nfCnt := rfl
@[simp] theorem updQp_reached : (updQp s q f).reached = s.reached := rfl
@[simp] theorem updQp_ofls : (updQp s q f).ofls = s.ofls := rfl
@[simp] theorem updQp_keys : (updQp s q f).keys = s.keys := rfl
@[simp] theorem updQp_reqTag : (updQp s q f).reqTag = s.reqTag := rfl
@[simp] theorem updQp_gwIn : (updQp s q f).gwIn = s.gwIn := rfl
@[simp] theorem updQp_steps : (updQp s q f).steps = s.steps := rfl
@[simp] theorem updQp_jobState : (updQp s q f).jobState = s.jobState := rfl
@[simp] theorem updQp_rot : (updQp s q f).rot = s.rot := rfl
@[simp] theorem updQp_ring : (updQp s q f).ring = s.ring := rfl
@[simp] theorem updQp_posts : (updQp s q f).posts = s.posts := rfl
@[simp] theorem updQp_vecDue : (updQp s q f).vecDue = s.vecDue := rfl
@[simp] theorem updQp_msix : (updQp s q f).msix = s.msix := rfl
@[simp] theorem updQp_pba : (updQp s q f).pba = s.pba := rfl
@[simp] theorem updQp_hostErr : (updQp s q f).hostErr = s.hostErr := rfl
@[simp] theorem updQp_evTotal : (updQp s q f).evTotal = s.evTotal := rfl
@[simp] theorem updQp_cmdTotal : (updQp s q f).cmdTotal = s.cmdTotal := rfl
@[simp] theorem updQp_capGen : (updQp s q f).capGen = s.capGen := rfl
@[simp] theorem updQp_gws : (updQp s q f).gws = s.gws := rfl
@[simp] theorem updQp_groups : (updQp s q f).groups = s.groups := rfl
@[simp] theorem updQp_coord : (updQp s q f).coord = s.coord := rfl
@[simp] theorem updQp_snap : (updQp s q f).snap = s.snap := rfl
@[simp] theorem updQp_run : (updQp s q f).run = s.run := rfl
@[simp] theorem updQp_power : (updQp s q f).power = s.power := rfl
@[simp] theorem updQp_ctl : (updQp s q f).ctl = s.ctl := rfl
@[simp] theorem updQp_vault : (updQp s q f).vault = s.vault := rfl
@[simp] theorem updQp_mgt : (updQp s q f).mgt = s.mgt := rfl
@[simp] theorem updQp_edgesBad : (updQp s q f).edgesBad = s.edgesBad := rfl
@[simp] theorem updQp_banksBad : (updQp s q f).banksBad = s.banksBad := rfl
@[simp] theorem updQp_assign : (updQp s q f).assign = s.assign := rfl
@[simp] theorem updQp_assignNext : (updQp s q f).assignNext = s.assignNext := rfl
@[simp] theorem updQp_gated : (updQp s q f).gated = s.gated := rfl
@[simp] theorem updQp_debugOpen : (updQp s q f).debugOpen = s.debugOpen := rfl
@[simp] theorem updQp_zeroDraw : (updQp s q f).zeroDraw = s.zeroDraw := rfl
@[simp] theorem updQp_fltLast : (updQp s q f).fltLast = s.fltLast := rfl
@[simp] theorem updQp_suppsEff : (updQp s q f).suppsEff = s.suppsEff := rfl
@[simp] theorem updQp_held : (updQp s q f).held = s.held := rfl
@[simp] theorem updQp_copies : (updQp s q f).copies = s.copies := rfl
end

section
variable (s : State) (g w : Nat) (f : Win → Win)
@[simp] theorem updWin_pending : (updWin s g w f).pending = s.pending := rfl
@[simp] theorem updWin_freeCtr : (updWin s g w f).freeCtr = s.freeCtr := rfl
@[simp] theorem updWin_timeNs : (updWin s g w f).timeNs = s.timeNs := rfl
@[simp] theorem updWin_hostMem : (updWin s g w f).hostMem = s.hostMem := rfl
@[simp] theorem updWin_barReply : (updWin s g w f).barReply = s.barReply := rfl
@[simp] theorem updWin_evs : (updWin s g w f).evs = s.evs := rfl
@[simp] theorem updWin_regs : (updWin s g w f).regs = s.regs := rfl
@[simp] theorem updWin_mem : (updWin s g w f).mem = s.mem := rfl
@[simp] theorem updWin_cwErr : (updWin s g w f).cwErr = s.cwErr := rfl
@[simp] theorem updWin_wireFault : (updWin s g w f).wireFault = s.wireFault := rfl
@[simp] theorem updWin_defects : (updWin s g w f).defects = s.defects := rfl
@[simp] theorem updWin_writeBack : (updWin s g w f).writeBack = s.writeBack := rfl
@[simp] theorem updWin_lastCe : (updWin s g w f).lastCe = s.lastCe := rfl
@[simp] theorem updWin_dram : (updWin s g w f).dram = s.dram := rfl
@[simp] theorem updWin_scrubAt : (updWin s g w f).scrubAt = s.scrubAt := rfl
@[simp] theorem updWin_stns : (updWin s g w f).stns = s.stns := rfl
@[simp] theorem updWin_arrs : (updWin s g w f).arrs = s.arrs := rfl
@[simp] theorem updWin_clus : (updWin s g w f).clus = s.clus := rfl
@[simp] theorem updWin_coreCtr : (updWin s g w f).coreCtr = s.coreCtr := rfl
@[simp] theorem updWin_cluCtr : (updWin s g w f).cluCtr = s.cluCtr := rfl
@[simp] theorem updWin_dieCtr : (updWin s g w f).dieCtr = s.dieCtr := rfl
@[simp] theorem updWin_modCtr : (updWin s g w f).modCtr = s.modCtr := rfl
@[simp] theorem updWin_adds : (updWin s g w f).adds = s.adds := rfl
@[simp] theorem updWin_waiters : (updWin s g w f).waiters = s.waiters := rfl
@[simp] theorem updWin_valMsgs : (updWin s g w f).valMsgs = s.valMsgs := rfl
@[simp] theorem updWin_seen : (updWin s g w f).seen = s.seen := rfl
@[simp] theorem updWin_jobUp : (updWin s g w f).jobUp = s.jobUp := rfl
@[simp] theorem updWin_jobSum : (updWin s g w f).jobSum = s.jobSum := rfl
@[simp] theorem updWin_jobDown : (updWin s g w f).jobDown = s.jobDown := rfl
@[simp] theorem updWin_hopFails : (updWin s g w f).hopFails = s.hopFails := rfl
@[simp] theorem updWin_netStopped : (updWin s g w f).netStopped = s.netStopped := rfl
@[simp] theorem updWin_fabFails : (updWin s g w f).fabFails = s.fabFails := rfl
@[simp] theorem updWin_fabStopped : (updWin s g w f).fabStopped = s.fabStopped := rfl
@[simp] theorem updWin_engines : (updWin s g w f).engines = s.engines := rfl
@[simp] theorem updWin_bankMode : (updWin s g w f).bankMode = s.bankMode := rfl
@[simp] theorem updWin_bankState : (updWin s g w f).bankState = s.bankState := rfl
@[simp] theorem updWin_coresEff : (updWin s g w f).coresEff = s.coresEff := rfl
@[simp] theorem updWin_coresNext : (updWin s g w f).coresNext = s.coresNext := rfl
@[simp] theorem updWin_dump : (updWin s g w f).dump = s.dump := rfl
@[simp] theorem updWin_course : (updWin s g w f).course = s.course := rfl
@[simp] theorem updWin_runNo : (updWin s g w f).runNo = s.runNo := rfl
@[simp] theorem updWin_stop : (updWin s g w f).stop = s.stop := rfl
@[simp] theorem updWin_stepErr : (updWin s g w f).stepErr = s.stepErr := rfl
@[simp] theorem updWin_tests : (updWin s g w f).tests = s.tests := rfl
@[simp] theorem updWin_rates : (updWin s g w f).rates = s.rates := rfl
@[simp] theorem updWin_moduleId : (updWin s g w f).moduleId = s.moduleId := rfl
@[simp] theorem updWin_ports : (updWin s g w f).ports = s.ports := rfl
@[simp] theorem updWin_inbox : (updWin s g w f).inbox = s.inbox := rfl
@[simp] theorem updWin_inHur : (updWin s g w f).inHur = s.inHur := rfl
@[simp] theorem updWin_nfCnt : (updWin s g w f).nfCnt = s.nfCnt := rfl
@[simp] theorem updWin_reached : (updWin s g w f).reached = s.reached := rfl
@[simp] theorem updWin_ofls : (updWin s g w f).ofls = s.ofls := rfl
@[simp] theorem updWin_keys : (updWin s g w f).keys = s.keys := rfl
@[simp] theorem updWin_reqTag : (updWin s g w f).reqTag = s.reqTag := rfl
@[simp] theorem updWin_gwIn : (updWin s g w f).gwIn = s.gwIn := rfl
@[simp] theorem updWin_steps : (updWin s g w f).steps = s.steps := rfl
@[simp] theorem updWin_jobState : (updWin s g w f).jobState = s.jobState := rfl
@[simp] theorem updWin_qps : (updWin s g w f).qps = s.qps := rfl
@[simp] theorem updWin_rot : (updWin s g w f).rot = s.rot := rfl
@[simp] theorem updWin_ring : (updWin s g w f).ring = s.ring := rfl
@[simp] theorem updWin_posts : (updWin s g w f).posts = s.posts := rfl
@[simp] theorem updWin_vecDue : (updWin s g w f).vecDue = s.vecDue := rfl
@[simp] theorem updWin_msix : (updWin s g w f).msix = s.msix := rfl
@[simp] theorem updWin_pba : (updWin s g w f).pba = s.pba := rfl
@[simp] theorem updWin_hostErr : (updWin s g w f).hostErr = s.hostErr := rfl
@[simp] theorem updWin_evTotal : (updWin s g w f).evTotal = s.evTotal := rfl
@[simp] theorem updWin_cmdTotal : (updWin s g w f).cmdTotal = s.cmdTotal := rfl
@[simp] theorem updWin_capGen : (updWin s g w f).capGen = s.capGen := rfl
@[simp] theorem updWin_gws : (updWin s g w f).gws = s.gws := rfl
@[simp] theorem updWin_groups : (updWin s g w f).groups = s.groups := rfl
@[simp] theorem updWin_coord : (updWin s g w f).coord = s.coord := rfl
@[simp] theorem updWin_snap : (updWin s g w f).snap = s.snap := rfl
@[simp] theorem updWin_run : (updWin s g w f).run = s.run := rfl
@[simp] theorem updWin_power : (updWin s g w f).power = s.power := rfl
@[simp] theorem updWin_ctl : (updWin s g w f).ctl = s.ctl := rfl
@[simp] theorem updWin_vault : (updWin s g w f).vault = s.vault := rfl
@[simp] theorem updWin_mgt : (updWin s g w f).mgt = s.mgt := rfl
@[simp] theorem updWin_edgesBad : (updWin s g w f).edgesBad = s.edgesBad := rfl
@[simp] theorem updWin_banksBad : (updWin s g w f).banksBad = s.banksBad := rfl
@[simp] theorem updWin_assign : (updWin s g w f).assign = s.assign := rfl
@[simp] theorem updWin_assignNext : (updWin s g w f).assignNext = s.assignNext := rfl
@[simp] theorem updWin_gated : (updWin s g w f).gated = s.gated := rfl
@[simp] theorem updWin_debugOpen : (updWin s g w f).debugOpen = s.debugOpen := rfl
@[simp] theorem updWin_zeroDraw : (updWin s g w f).zeroDraw = s.zeroDraw := rfl
@[simp] theorem updWin_fltLast : (updWin s g w f).fltLast = s.fltLast := rfl
@[simp] theorem updWin_suppsEff : (updWin s g w f).suppsEff = s.suppsEff := rfl
@[simp] theorem updWin_held : (updWin s g w f).held = s.held := rfl
@[simp] theorem updWin_copies : (updWin s g w f).copies = s.copies := rfl
end

section
variable (s : State) (k : Nat) (f : Gw → Gw)
@[simp] theorem updGw_pending : (updGw s k f).pending = s.pending := rfl
@[simp] theorem updGw_freeCtr : (updGw s k f).freeCtr = s.freeCtr := rfl
@[simp] theorem updGw_timeNs : (updGw s k f).timeNs = s.timeNs := rfl
@[simp] theorem updGw_hostMem : (updGw s k f).hostMem = s.hostMem := rfl
@[simp] theorem updGw_barReply : (updGw s k f).barReply = s.barReply := rfl
@[simp] theorem updGw_evs : (updGw s k f).evs = s.evs := rfl
@[simp] theorem updGw_regs : (updGw s k f).regs = s.regs := rfl
@[simp] theorem updGw_mem : (updGw s k f).mem = s.mem := rfl
@[simp] theorem updGw_cwErr : (updGw s k f).cwErr = s.cwErr := rfl
@[simp] theorem updGw_wireFault : (updGw s k f).wireFault = s.wireFault := rfl
@[simp] theorem updGw_defects : (updGw s k f).defects = s.defects := rfl
@[simp] theorem updGw_writeBack : (updGw s k f).writeBack = s.writeBack := rfl
@[simp] theorem updGw_lastCe : (updGw s k f).lastCe = s.lastCe := rfl
@[simp] theorem updGw_dram : (updGw s k f).dram = s.dram := rfl
@[simp] theorem updGw_scrubAt : (updGw s k f).scrubAt = s.scrubAt := rfl
@[simp] theorem updGw_stns : (updGw s k f).stns = s.stns := rfl
@[simp] theorem updGw_arrs : (updGw s k f).arrs = s.arrs := rfl
@[simp] theorem updGw_clus : (updGw s k f).clus = s.clus := rfl
@[simp] theorem updGw_coreCtr : (updGw s k f).coreCtr = s.coreCtr := rfl
@[simp] theorem updGw_cluCtr : (updGw s k f).cluCtr = s.cluCtr := rfl
@[simp] theorem updGw_dieCtr : (updGw s k f).dieCtr = s.dieCtr := rfl
@[simp] theorem updGw_modCtr : (updGw s k f).modCtr = s.modCtr := rfl
@[simp] theorem updGw_adds : (updGw s k f).adds = s.adds := rfl
@[simp] theorem updGw_waiters : (updGw s k f).waiters = s.waiters := rfl
@[simp] theorem updGw_valMsgs : (updGw s k f).valMsgs = s.valMsgs := rfl
@[simp] theorem updGw_seen : (updGw s k f).seen = s.seen := rfl
@[simp] theorem updGw_jobUp : (updGw s k f).jobUp = s.jobUp := rfl
@[simp] theorem updGw_jobSum : (updGw s k f).jobSum = s.jobSum := rfl
@[simp] theorem updGw_jobDown : (updGw s k f).jobDown = s.jobDown := rfl
@[simp] theorem updGw_hopFails : (updGw s k f).hopFails = s.hopFails := rfl
@[simp] theorem updGw_netStopped : (updGw s k f).netStopped = s.netStopped := rfl
@[simp] theorem updGw_fabFails : (updGw s k f).fabFails = s.fabFails := rfl
@[simp] theorem updGw_fabStopped : (updGw s k f).fabStopped = s.fabStopped := rfl
@[simp] theorem updGw_engines : (updGw s k f).engines = s.engines := rfl
@[simp] theorem updGw_wins : (updGw s k f).wins = s.wins := rfl
@[simp] theorem updGw_bankMode : (updGw s k f).bankMode = s.bankMode := rfl
@[simp] theorem updGw_bankState : (updGw s k f).bankState = s.bankState := rfl
@[simp] theorem updGw_coresEff : (updGw s k f).coresEff = s.coresEff := rfl
@[simp] theorem updGw_coresNext : (updGw s k f).coresNext = s.coresNext := rfl
@[simp] theorem updGw_dump : (updGw s k f).dump = s.dump := rfl
@[simp] theorem updGw_course : (updGw s k f).course = s.course := rfl
@[simp] theorem updGw_runNo : (updGw s k f).runNo = s.runNo := rfl
@[simp] theorem updGw_stop : (updGw s k f).stop = s.stop := rfl
@[simp] theorem updGw_stepErr : (updGw s k f).stepErr = s.stepErr := rfl
@[simp] theorem updGw_tests : (updGw s k f).tests = s.tests := rfl
@[simp] theorem updGw_rates : (updGw s k f).rates = s.rates := rfl
@[simp] theorem updGw_moduleId : (updGw s k f).moduleId = s.moduleId := rfl
@[simp] theorem updGw_ports : (updGw s k f).ports = s.ports := rfl
@[simp] theorem updGw_inbox : (updGw s k f).inbox = s.inbox := rfl
@[simp] theorem updGw_inHur : (updGw s k f).inHur = s.inHur := rfl
@[simp] theorem updGw_nfCnt : (updGw s k f).nfCnt = s.nfCnt := rfl
@[simp] theorem updGw_reached : (updGw s k f).reached = s.reached := rfl
@[simp] theorem updGw_ofls : (updGw s k f).ofls = s.ofls := rfl
@[simp] theorem updGw_keys : (updGw s k f).keys = s.keys := rfl
@[simp] theorem updGw_reqTag : (updGw s k f).reqTag = s.reqTag := rfl
@[simp] theorem updGw_gwIn : (updGw s k f).gwIn = s.gwIn := rfl
@[simp] theorem updGw_steps : (updGw s k f).steps = s.steps := rfl
@[simp] theorem updGw_jobState : (updGw s k f).jobState = s.jobState := rfl
@[simp] theorem updGw_qps : (updGw s k f).qps = s.qps := rfl
@[simp] theorem updGw_rot : (updGw s k f).rot = s.rot := rfl
@[simp] theorem updGw_ring : (updGw s k f).ring = s.ring := rfl
@[simp] theorem updGw_posts : (updGw s k f).posts = s.posts := rfl
@[simp] theorem updGw_vecDue : (updGw s k f).vecDue = s.vecDue := rfl
@[simp] theorem updGw_msix : (updGw s k f).msix = s.msix := rfl
@[simp] theorem updGw_pba : (updGw s k f).pba = s.pba := rfl
@[simp] theorem updGw_hostErr : (updGw s k f).hostErr = s.hostErr := rfl
@[simp] theorem updGw_evTotal : (updGw s k f).evTotal = s.evTotal := rfl
@[simp] theorem updGw_cmdTotal : (updGw s k f).cmdTotal = s.cmdTotal := rfl
@[simp] theorem updGw_capGen : (updGw s k f).capGen = s.capGen := rfl
@[simp] theorem updGw_groups : (updGw s k f).groups = s.groups := rfl
@[simp] theorem updGw_coord : (updGw s k f).coord = s.coord := rfl
@[simp] theorem updGw_snap : (updGw s k f).snap = s.snap := rfl
@[simp] theorem updGw_run : (updGw s k f).run = s.run := rfl
@[simp] theorem updGw_power : (updGw s k f).power = s.power := rfl
@[simp] theorem updGw_ctl : (updGw s k f).ctl = s.ctl := rfl
@[simp] theorem updGw_vault : (updGw s k f).vault = s.vault := rfl
@[simp] theorem updGw_mgt : (updGw s k f).mgt = s.mgt := rfl
@[simp] theorem updGw_edgesBad : (updGw s k f).edgesBad = s.edgesBad := rfl
@[simp] theorem updGw_banksBad : (updGw s k f).banksBad = s.banksBad := rfl
@[simp] theorem updGw_assign : (updGw s k f).assign = s.assign := rfl
@[simp] theorem updGw_assignNext : (updGw s k f).assignNext = s.assignNext := rfl
@[simp] theorem updGw_gated : (updGw s k f).gated = s.gated := rfl
@[simp] theorem updGw_debugOpen : (updGw s k f).debugOpen = s.debugOpen := rfl
@[simp] theorem updGw_zeroDraw : (updGw s k f).zeroDraw = s.zeroDraw := rfl
@[simp] theorem updGw_fltLast : (updGw s k f).fltLast = s.fltLast := rfl
@[simp] theorem updGw_suppsEff : (updGw s k f).suppsEff = s.suppsEff := rfl
@[simp] theorem updGw_held : (updGw s k f).held = s.held := rfl
@[simp] theorem updGw_copies : (updGw s k f).copies = s.copies := rfl
end

section
variable (s : State) (u : Nat) (f : Dram → Dram)
@[simp] theorem updDram_pending : (updDram s u f).pending = s.pending := rfl
@[simp] theorem updDram_freeCtr : (updDram s u f).freeCtr = s.freeCtr := rfl
@[simp] theorem updDram_timeNs : (updDram s u f).timeNs = s.timeNs := rfl
@[simp] theorem updDram_hostMem : (updDram s u f).hostMem = s.hostMem := rfl
@[simp] theorem updDram_barReply : (updDram s u f).barReply = s.barReply := rfl
@[simp] theorem updDram_evs : (updDram s u f).evs = s.evs := rfl
@[simp] theorem updDram_regs : (updDram s u f).regs = s.regs := rfl
@[simp] theorem updDram_mem : (updDram s u f).mem = s.mem := rfl
@[simp] theorem updDram_cwErr : (updDram s u f).cwErr = s.cwErr := rfl
@[simp] theorem updDram_wireFault : (updDram s u f).wireFault = s.wireFault := rfl
@[simp] theorem updDram_defects : (updDram s u f).defects = s.defects := rfl
@[simp] theorem updDram_writeBack : (updDram s u f).writeBack = s.writeBack := rfl
@[simp] theorem updDram_lastCe : (updDram s u f).lastCe = s.lastCe := rfl
@[simp] theorem updDram_scrubAt : (updDram s u f).scrubAt = s.scrubAt := rfl
@[simp] theorem updDram_stns : (updDram s u f).stns = s.stns := rfl
@[simp] theorem updDram_arrs : (updDram s u f).arrs = s.arrs := rfl
@[simp] theorem updDram_clus : (updDram s u f).clus = s.clus := rfl
@[simp] theorem updDram_coreCtr : (updDram s u f).coreCtr = s.coreCtr := rfl
@[simp] theorem updDram_cluCtr : (updDram s u f).cluCtr = s.cluCtr := rfl
@[simp] theorem updDram_dieCtr : (updDram s u f).dieCtr = s.dieCtr := rfl
@[simp] theorem updDram_modCtr : (updDram s u f).modCtr = s.modCtr := rfl
@[simp] theorem updDram_adds : (updDram s u f).adds = s.adds := rfl
@[simp] theorem updDram_waiters : (updDram s u f).waiters = s.waiters := rfl
@[simp] theorem updDram_valMsgs : (updDram s u f).valMsgs = s.valMsgs := rfl
@[simp] theorem updDram_seen : (updDram s u f).seen = s.seen := rfl
@[simp] theorem updDram_jobUp : (updDram s u f).jobUp = s.jobUp := rfl
@[simp] theorem updDram_jobSum : (updDram s u f).jobSum = s.jobSum := rfl
@[simp] theorem updDram_jobDown : (updDram s u f).jobDown = s.jobDown := rfl
@[simp] theorem updDram_hopFails : (updDram s u f).hopFails = s.hopFails := rfl
@[simp] theorem updDram_netStopped : (updDram s u f).netStopped = s.netStopped := rfl
@[simp] theorem updDram_fabFails : (updDram s u f).fabFails = s.fabFails := rfl
@[simp] theorem updDram_fabStopped : (updDram s u f).fabStopped = s.fabStopped := rfl
@[simp] theorem updDram_engines : (updDram s u f).engines = s.engines := rfl
@[simp] theorem updDram_wins : (updDram s u f).wins = s.wins := rfl
@[simp] theorem updDram_bankMode : (updDram s u f).bankMode = s.bankMode := rfl
@[simp] theorem updDram_bankState : (updDram s u f).bankState = s.bankState := rfl
@[simp] theorem updDram_coresEff : (updDram s u f).coresEff = s.coresEff := rfl
@[simp] theorem updDram_coresNext : (updDram s u f).coresNext = s.coresNext := rfl
@[simp] theorem updDram_dump : (updDram s u f).dump = s.dump := rfl
@[simp] theorem updDram_course : (updDram s u f).course = s.course := rfl
@[simp] theorem updDram_runNo : (updDram s u f).runNo = s.runNo := rfl
@[simp] theorem updDram_stop : (updDram s u f).stop = s.stop := rfl
@[simp] theorem updDram_stepErr : (updDram s u f).stepErr = s.stepErr := rfl
@[simp] theorem updDram_tests : (updDram s u f).tests = s.tests := rfl
@[simp] theorem updDram_rates : (updDram s u f).rates = s.rates := rfl
@[simp] theorem updDram_moduleId : (updDram s u f).moduleId = s.moduleId := rfl
@[simp] theorem updDram_ports : (updDram s u f).ports = s.ports := rfl
@[simp] theorem updDram_inbox : (updDram s u f).inbox = s.inbox := rfl
@[simp] theorem updDram_inHur : (updDram s u f).inHur = s.inHur := rfl
@[simp] theorem updDram_nfCnt : (updDram s u f).nfCnt = s.nfCnt := rfl
@[simp] theorem updDram_reached : (updDram s u f).reached = s.reached := rfl
@[simp] theorem updDram_ofls : (updDram s u f).ofls = s.ofls := rfl
@[simp] theorem updDram_keys : (updDram s u f).keys = s.keys := rfl
@[simp] theorem updDram_reqTag : (updDram s u f).reqTag = s.reqTag := rfl
@[simp] theorem updDram_gwIn : (updDram s u f).gwIn = s.gwIn := rfl
@[simp] theorem updDram_steps : (updDram s u f).steps = s.steps := rfl
@[simp] theorem updDram_jobState : (updDram s u f).jobState = s.jobState := rfl
@[simp] theorem updDram_qps : (updDram s u f).qps = s.qps := rfl
@[simp] theorem updDram_rot : (updDram s u f).rot = s.rot := rfl
@[simp] theorem updDram_ring : (updDram s u f).ring = s.ring := rfl
@[simp] theorem updDram_posts : (updDram s u f).posts = s.posts := rfl
@[simp] theorem updDram_vecDue : (updDram s u f).vecDue = s.vecDue := rfl
@[simp] theorem updDram_msix : (updDram s u f).msix = s.msix := rfl
@[simp] theorem updDram_pba : (updDram s u f).pba = s.pba := rfl
@[simp] theorem updDram_hostErr : (updDram s u f).hostErr = s.hostErr := rfl
@[simp] theorem updDram_evTotal : (updDram s u f).evTotal = s.evTotal := rfl
@[simp] theorem updDram_cmdTotal : (updDram s u f).cmdTotal = s.cmdTotal := rfl
@[simp] theorem updDram_capGen : (updDram s u f).capGen = s.capGen := rfl
@[simp] theorem updDram_gws : (updDram s u f).gws = s.gws := rfl
@[simp] theorem updDram_groups : (updDram s u f).groups = s.groups := rfl
@[simp] theorem updDram_coord : (updDram s u f).coord = s.coord := rfl
@[simp] theorem updDram_snap : (updDram s u f).snap = s.snap := rfl
@[simp] theorem updDram_run : (updDram s u f).run = s.run := rfl
@[simp] theorem updDram_power : (updDram s u f).power = s.power := rfl
@[simp] theorem updDram_ctl : (updDram s u f).ctl = s.ctl := rfl
@[simp] theorem updDram_vault : (updDram s u f).vault = s.vault := rfl
@[simp] theorem updDram_mgt : (updDram s u f).mgt = s.mgt := rfl
@[simp] theorem updDram_edgesBad : (updDram s u f).edgesBad = s.edgesBad := rfl
@[simp] theorem updDram_banksBad : (updDram s u f).banksBad = s.banksBad := rfl
@[simp] theorem updDram_assign : (updDram s u f).assign = s.assign := rfl
@[simp] theorem updDram_assignNext : (updDram s u f).assignNext = s.assignNext := rfl
@[simp] theorem updDram_gated : (updDram s u f).gated = s.gated := rfl
@[simp] theorem updDram_debugOpen : (updDram s u f).debugOpen = s.debugOpen := rfl
@[simp] theorem updDram_zeroDraw : (updDram s u f).zeroDraw = s.zeroDraw := rfl
@[simp] theorem updDram_fltLast : (updDram s u f).fltLast = s.fltLast := rfl
@[simp] theorem updDram_suppsEff : (updDram s u f).suppsEff = s.suppsEff := rfl
@[simp] theorem updDram_held : (updDram s u f).held = s.held := rfl
@[simp] theorem updDram_copies : (updDram s u f).copies = s.copies := rfl
end

section
variable (s : State) (p : Nat) (f : HPort → HPort)
@[simp] theorem updHPort_pending : (updHPort s p f).pending = s.pending := rfl
@[simp] theorem updHPort_freeCtr : (updHPort s p f).freeCtr = s.freeCtr := rfl
@[simp] theorem updHPort_timeNs : (updHPort s p f).timeNs = s.timeNs := rfl
@[simp] theorem updHPort_hostMem : (updHPort s p f).hostMem = s.hostMem := rfl
@[simp] theorem updHPort_barReply : (updHPort s p f).barReply = s.barReply := rfl
@[simp] theorem updHPort_evs : (updHPort s p f).evs = s.evs := rfl
@[simp] theorem updHPort_regs : (updHPort s p f).regs = s.regs := rfl
@[simp] theorem updHPort_mem : (updHPort s p f).mem = s.mem := rfl
@[simp] theorem updHPort_cwErr : (updHPort s p f).cwErr = s.cwErr := rfl
@[simp] theorem updHPort_wireFault : (updHPort s p f).wireFault = s.wireFault := rfl
@[simp] theorem updHPort_defects : (updHPort s p f).defects = s.defects := rfl
@[simp] theorem updHPort_writeBack : (updHPort s p f).writeBack = s.writeBack := rfl
@[simp] theorem updHPort_lastCe : (updHPort s p f).lastCe = s.lastCe := rfl
@[simp] theorem updHPort_dram : (updHPort s p f).dram = s.dram := rfl
@[simp] theorem updHPort_scrubAt : (updHPort s p f).scrubAt = s.scrubAt := rfl
@[simp] theorem updHPort_stns : (updHPort s p f).stns = s.stns := rfl
@[simp] theorem updHPort_arrs : (updHPort s p f).arrs = s.arrs := rfl
@[simp] theorem updHPort_clus : (updHPort s p f).clus = s.clus := rfl
@[simp] theorem updHPort_coreCtr : (updHPort s p f).coreCtr = s.coreCtr := rfl
@[simp] theorem updHPort_cluCtr : (updHPort s p f).cluCtr = s.cluCtr := rfl
@[simp] theorem updHPort_dieCtr : (updHPort s p f).dieCtr = s.dieCtr := rfl
@[simp] theorem updHPort_modCtr : (updHPort s p f).modCtr = s.modCtr := rfl
@[simp] theorem updHPort_adds : (updHPort s p f).adds = s.adds := rfl
@[simp] theorem updHPort_waiters : (updHPort s p f).waiters = s.waiters := rfl
@[simp] theorem updHPort_valMsgs : (updHPort s p f).valMsgs = s.valMsgs := rfl
@[simp] theorem updHPort_seen : (updHPort s p f).seen = s.seen := rfl
@[simp] theorem updHPort_jobUp : (updHPort s p f).jobUp = s.jobUp := rfl
@[simp] theorem updHPort_jobSum : (updHPort s p f).jobSum = s.jobSum := rfl
@[simp] theorem updHPort_jobDown : (updHPort s p f).jobDown = s.jobDown := rfl
@[simp] theorem updHPort_hopFails : (updHPort s p f).hopFails = s.hopFails := rfl
@[simp] theorem updHPort_netStopped : (updHPort s p f).netStopped = s.netStopped := rfl
@[simp] theorem updHPort_fabFails : (updHPort s p f).fabFails = s.fabFails := rfl
@[simp] theorem updHPort_fabStopped : (updHPort s p f).fabStopped = s.fabStopped := rfl
@[simp] theorem updHPort_engines : (updHPort s p f).engines = s.engines := rfl
@[simp] theorem updHPort_wins : (updHPort s p f).wins = s.wins := rfl
@[simp] theorem updHPort_bankMode : (updHPort s p f).bankMode = s.bankMode := rfl
@[simp] theorem updHPort_bankState : (updHPort s p f).bankState = s.bankState := rfl
@[simp] theorem updHPort_coresEff : (updHPort s p f).coresEff = s.coresEff := rfl
@[simp] theorem updHPort_coresNext : (updHPort s p f).coresNext = s.coresNext := rfl
@[simp] theorem updHPort_dump : (updHPort s p f).dump = s.dump := rfl
@[simp] theorem updHPort_course : (updHPort s p f).course = s.course := rfl
@[simp] theorem updHPort_runNo : (updHPort s p f).runNo = s.runNo := rfl
@[simp] theorem updHPort_stop : (updHPort s p f).stop = s.stop := rfl
@[simp] theorem updHPort_stepErr : (updHPort s p f).stepErr = s.stepErr := rfl
@[simp] theorem updHPort_tests : (updHPort s p f).tests = s.tests := rfl
@[simp] theorem updHPort_rates : (updHPort s p f).rates = s.rates := rfl
@[simp] theorem updHPort_moduleId : (updHPort s p f).moduleId = s.moduleId := rfl
@[simp] theorem updHPort_inbox : (updHPort s p f).inbox = s.inbox := rfl
@[simp] theorem updHPort_inHur : (updHPort s p f).inHur = s.inHur := rfl
@[simp] theorem updHPort_nfCnt : (updHPort s p f).nfCnt = s.nfCnt := rfl
@[simp] theorem updHPort_reached : (updHPort s p f).reached = s.reached := rfl
@[simp] theorem updHPort_ofls : (updHPort s p f).ofls = s.ofls := rfl
@[simp] theorem updHPort_keys : (updHPort s p f).keys = s.keys := rfl
@[simp] theorem updHPort_reqTag : (updHPort s p f).reqTag = s.reqTag := rfl
@[simp] theorem updHPort_gwIn : (updHPort s p f).gwIn = s.gwIn := rfl
@[simp] theorem updHPort_steps : (updHPort s p f).steps = s.steps := rfl
@[simp] theorem updHPort_jobState : (updHPort s p f).jobState = s.jobState := rfl
@[simp] theorem updHPort_qps : (updHPort s p f).qps = s.qps := rfl
@[simp] theorem updHPort_rot : (updHPort s p f).rot = s.rot := rfl
@[simp] theorem updHPort_ring : (updHPort s p f).ring = s.ring := rfl
@[simp] theorem updHPort_posts : (updHPort s p f).posts = s.posts := rfl
@[simp] theorem updHPort_vecDue : (updHPort s p f).vecDue = s.vecDue := rfl
@[simp] theorem updHPort_msix : (updHPort s p f).msix = s.msix := rfl
@[simp] theorem updHPort_pba : (updHPort s p f).pba = s.pba := rfl
@[simp] theorem updHPort_hostErr : (updHPort s p f).hostErr = s.hostErr := rfl
@[simp] theorem updHPort_evTotal : (updHPort s p f).evTotal = s.evTotal := rfl
@[simp] theorem updHPort_cmdTotal : (updHPort s p f).cmdTotal = s.cmdTotal := rfl
@[simp] theorem updHPort_capGen : (updHPort s p f).capGen = s.capGen := rfl
@[simp] theorem updHPort_gws : (updHPort s p f).gws = s.gws := rfl
@[simp] theorem updHPort_groups : (updHPort s p f).groups = s.groups := rfl
@[simp] theorem updHPort_coord : (updHPort s p f).coord = s.coord := rfl
@[simp] theorem updHPort_snap : (updHPort s p f).snap = s.snap := rfl
@[simp] theorem updHPort_run : (updHPort s p f).run = s.run := rfl
@[simp] theorem updHPort_power : (updHPort s p f).power = s.power := rfl
@[simp] theorem updHPort_ctl : (updHPort s p f).ctl = s.ctl := rfl
@[simp] theorem updHPort_vault : (updHPort s p f).vault = s.vault := rfl
@[simp] theorem updHPort_mgt : (updHPort s p f).mgt = s.mgt := rfl
@[simp] theorem updHPort_edgesBad : (updHPort s p f).edgesBad = s.edgesBad := rfl
@[simp] theorem updHPort_banksBad : (updHPort s p f).banksBad = s.banksBad := rfl
@[simp] theorem updHPort_assign : (updHPort s p f).assign = s.assign := rfl
@[simp] theorem updHPort_assignNext : (updHPort s p f).assignNext = s.assignNext := rfl
@[simp] theorem updHPort_gated : (updHPort s p f).gated = s.gated := rfl
@[simp] theorem updHPort_debugOpen : (updHPort s p f).debugOpen = s.debugOpen := rfl
@[simp] theorem updHPort_zeroDraw : (updHPort s p f).zeroDraw = s.zeroDraw := rfl
@[simp] theorem updHPort_fltLast : (updHPort s p f).fltLast = s.fltLast := rfl
@[simp] theorem updHPort_suppsEff : (updHPort s p f).suppsEff = s.suppsEff := rfl
@[simp] theorem updHPort_held : (updHPort s p f).held = s.held := rfl
@[simp] theorem updHPort_copies : (updHPort s p f).copies = s.copies := rfl
end

section
variable (s : State) (f : Power → Power)
@[simp] theorem updPower_pending : (updPower s f).pending = s.pending := rfl
@[simp] theorem updPower_freeCtr : (updPower s f).freeCtr = s.freeCtr := rfl
@[simp] theorem updPower_timeNs : (updPower s f).timeNs = s.timeNs := rfl
@[simp] theorem updPower_hostMem : (updPower s f).hostMem = s.hostMem := rfl
@[simp] theorem updPower_barReply : (updPower s f).barReply = s.barReply := rfl
@[simp] theorem updPower_evs : (updPower s f).evs = s.evs := rfl
@[simp] theorem updPower_regs : (updPower s f).regs = s.regs := rfl
@[simp] theorem updPower_mem : (updPower s f).mem = s.mem := rfl
@[simp] theorem updPower_cwErr : (updPower s f).cwErr = s.cwErr := rfl
@[simp] theorem updPower_wireFault : (updPower s f).wireFault = s.wireFault := rfl
@[simp] theorem updPower_defects : (updPower s f).defects = s.defects := rfl
@[simp] theorem updPower_writeBack : (updPower s f).writeBack = s.writeBack := rfl
@[simp] theorem updPower_lastCe : (updPower s f).lastCe = s.lastCe := rfl
@[simp] theorem updPower_dram : (updPower s f).dram = s.dram := rfl
@[simp] theorem updPower_scrubAt : (updPower s f).scrubAt = s.scrubAt := rfl
@[simp] theorem updPower_stns : (updPower s f).stns = s.stns := rfl
@[simp] theorem updPower_arrs : (updPower s f).arrs = s.arrs := rfl
@[simp] theorem updPower_clus : (updPower s f).clus = s.clus := rfl
@[simp] theorem updPower_coreCtr : (updPower s f).coreCtr = s.coreCtr := rfl
@[simp] theorem updPower_cluCtr : (updPower s f).cluCtr = s.cluCtr := rfl
@[simp] theorem updPower_dieCtr : (updPower s f).dieCtr = s.dieCtr := rfl
@[simp] theorem updPower_modCtr : (updPower s f).modCtr = s.modCtr := rfl
@[simp] theorem updPower_adds : (updPower s f).adds = s.adds := rfl
@[simp] theorem updPower_waiters : (updPower s f).waiters = s.waiters := rfl
@[simp] theorem updPower_valMsgs : (updPower s f).valMsgs = s.valMsgs := rfl
@[simp] theorem updPower_seen : (updPower s f).seen = s.seen := rfl
@[simp] theorem updPower_jobUp : (updPower s f).jobUp = s.jobUp := rfl
@[simp] theorem updPower_jobSum : (updPower s f).jobSum = s.jobSum := rfl
@[simp] theorem updPower_jobDown : (updPower s f).jobDown = s.jobDown := rfl
@[simp] theorem updPower_hopFails : (updPower s f).hopFails = s.hopFails := rfl
@[simp] theorem updPower_netStopped : (updPower s f).netStopped = s.netStopped := rfl
@[simp] theorem updPower_fabFails : (updPower s f).fabFails = s.fabFails := rfl
@[simp] theorem updPower_fabStopped : (updPower s f).fabStopped = s.fabStopped := rfl
@[simp] theorem updPower_engines : (updPower s f).engines = s.engines := rfl
@[simp] theorem updPower_wins : (updPower s f).wins = s.wins := rfl
@[simp] theorem updPower_bankMode : (updPower s f).bankMode = s.bankMode := rfl
@[simp] theorem updPower_bankState : (updPower s f).bankState = s.bankState := rfl
@[simp] theorem updPower_coresEff : (updPower s f).coresEff = s.coresEff := rfl
@[simp] theorem updPower_coresNext : (updPower s f).coresNext = s.coresNext := rfl
@[simp] theorem updPower_dump : (updPower s f).dump = s.dump := rfl
@[simp] theorem updPower_course : (updPower s f).course = s.course := rfl
@[simp] theorem updPower_runNo : (updPower s f).runNo = s.runNo := rfl
@[simp] theorem updPower_stop : (updPower s f).stop = s.stop := rfl
@[simp] theorem updPower_stepErr : (updPower s f).stepErr = s.stepErr := rfl
@[simp] theorem updPower_tests : (updPower s f).tests = s.tests := rfl
@[simp] theorem updPower_rates : (updPower s f).rates = s.rates := rfl
@[simp] theorem updPower_moduleId : (updPower s f).moduleId = s.moduleId := rfl
@[simp] theorem updPower_ports : (updPower s f).ports = s.ports := rfl
@[simp] theorem updPower_inbox : (updPower s f).inbox = s.inbox := rfl
@[simp] theorem updPower_inHur : (updPower s f).inHur = s.inHur := rfl
@[simp] theorem updPower_nfCnt : (updPower s f).nfCnt = s.nfCnt := rfl
@[simp] theorem updPower_reached : (updPower s f).reached = s.reached := rfl
@[simp] theorem updPower_ofls : (updPower s f).ofls = s.ofls := rfl
@[simp] theorem updPower_keys : (updPower s f).keys = s.keys := rfl
@[simp] theorem updPower_reqTag : (updPower s f).reqTag = s.reqTag := rfl
@[simp] theorem updPower_gwIn : (updPower s f).gwIn = s.gwIn := rfl
@[simp] theorem updPower_steps : (updPower s f).steps = s.steps := rfl
@[simp] theorem updPower_jobState : (updPower s f).jobState = s.jobState := rfl
@[simp] theorem updPower_qps : (updPower s f).qps = s.qps := rfl
@[simp] theorem updPower_rot : (updPower s f).rot = s.rot := rfl
@[simp] theorem updPower_ring : (updPower s f).ring = s.ring := rfl
@[simp] theorem updPower_posts : (updPower s f).posts = s.posts := rfl
@[simp] theorem updPower_vecDue : (updPower s f).vecDue = s.vecDue := rfl
@[simp] theorem updPower_msix : (updPower s f).msix = s.msix := rfl
@[simp] theorem updPower_pba : (updPower s f).pba = s.pba := rfl
@[simp] theorem updPower_hostErr : (updPower s f).hostErr = s.hostErr := rfl
@[simp] theorem updPower_evTotal : (updPower s f).evTotal = s.evTotal := rfl
@[simp] theorem updPower_cmdTotal : (updPower s f).cmdTotal = s.cmdTotal := rfl
@[simp] theorem updPower_capGen : (updPower s f).capGen = s.capGen := rfl
@[simp] theorem updPower_gws : (updPower s f).gws = s.gws := rfl
@[simp] theorem updPower_groups : (updPower s f).groups = s.groups := rfl
@[simp] theorem updPower_coord : (updPower s f).coord = s.coord := rfl
@[simp] theorem updPower_snap : (updPower s f).snap = s.snap := rfl
@[simp] theorem updPower_run : (updPower s f).run = s.run := rfl
@[simp] theorem updPower_ctl : (updPower s f).ctl = s.ctl := rfl
@[simp] theorem updPower_vault : (updPower s f).vault = s.vault := rfl
@[simp] theorem updPower_mgt : (updPower s f).mgt = s.mgt := rfl
@[simp] theorem updPower_edgesBad : (updPower s f).edgesBad = s.edgesBad := rfl
@[simp] theorem updPower_banksBad : (updPower s f).banksBad = s.banksBad := rfl
@[simp] theorem updPower_assign : (updPower s f).assign = s.assign := rfl
@[simp] theorem updPower_assignNext : (updPower s f).assignNext = s.assignNext := rfl
@[simp] theorem updPower_gated : (updPower s f).gated = s.gated := rfl
@[simp] theorem updPower_debugOpen : (updPower s f).debugOpen = s.debugOpen := rfl
@[simp] theorem updPower_zeroDraw : (updPower s f).zeroDraw = s.zeroDraw := rfl
@[simp] theorem updPower_fltLast : (updPower s f).fltLast = s.fltLast := rfl
@[simp] theorem updPower_suppsEff : (updPower s f).suppsEff = s.suppsEff := rfl
@[simp] theorem updPower_held : (updPower s f).held = s.held := rfl
@[simp] theorem updPower_copies : (updPower s f).copies = s.copies := rfl
end

section
variable (s : State) (k v : Nat)
@[simp] theorem setReg_pending : (setReg s k v).pending = s.pending := rfl
@[simp] theorem setReg_freeCtr : (setReg s k v).freeCtr = s.freeCtr := rfl
@[simp] theorem setReg_timeNs : (setReg s k v).timeNs = s.timeNs := rfl
@[simp] theorem setReg_hostMem : (setReg s k v).hostMem = s.hostMem := rfl
@[simp] theorem setReg_barReply : (setReg s k v).barReply = s.barReply := rfl
@[simp] theorem setReg_evs : (setReg s k v).evs = s.evs := rfl
@[simp] theorem setReg_mem : (setReg s k v).mem = s.mem := rfl
@[simp] theorem setReg_cwErr : (setReg s k v).cwErr = s.cwErr := rfl
@[simp] theorem setReg_wireFault : (setReg s k v).wireFault = s.wireFault := rfl
@[simp] theorem setReg_defects : (setReg s k v).defects = s.defects := rfl
@[simp] theorem setReg_writeBack : (setReg s k v).writeBack = s.writeBack := rfl
@[simp] theorem setReg_lastCe : (setReg s k v).lastCe = s.lastCe := rfl
@[simp] theorem setReg_dram : (setReg s k v).dram = s.dram := rfl
@[simp] theorem setReg_scrubAt : (setReg s k v).scrubAt = s.scrubAt := rfl
@[simp] theorem setReg_stns : (setReg s k v).stns = s.stns := rfl
@[simp] theorem setReg_arrs : (setReg s k v).arrs = s.arrs := rfl
@[simp] theorem setReg_clus : (setReg s k v).clus = s.clus := rfl
@[simp] theorem setReg_coreCtr : (setReg s k v).coreCtr = s.coreCtr := rfl
@[simp] theorem setReg_cluCtr : (setReg s k v).cluCtr = s.cluCtr := rfl
@[simp] theorem setReg_dieCtr : (setReg s k v).dieCtr = s.dieCtr := rfl
@[simp] theorem setReg_modCtr : (setReg s k v).modCtr = s.modCtr := rfl
@[simp] theorem setReg_adds : (setReg s k v).adds = s.adds := rfl
@[simp] theorem setReg_waiters : (setReg s k v).waiters = s.waiters := rfl
@[simp] theorem setReg_valMsgs : (setReg s k v).valMsgs = s.valMsgs := rfl
@[simp] theorem setReg_seen : (setReg s k v).seen = s.seen := rfl
@[simp] theorem setReg_jobUp : (setReg s k v).jobUp = s.jobUp := rfl
@[simp] theorem setReg_jobSum : (setReg s k v).jobSum = s.jobSum := rfl
@[simp] theorem setReg_jobDown : (setReg s k v).jobDown = s.jobDown := rfl
@[simp] theorem setReg_hopFails : (setReg s k v).hopFails = s.hopFails := rfl
@[simp] theorem setReg_netStopped : (setReg s k v).netStopped = s.netStopped := rfl
@[simp] theorem setReg_fabFails : (setReg s k v).fabFails = s.fabFails := rfl
@[simp] theorem setReg_fabStopped : (setReg s k v).fabStopped = s.fabStopped := rfl
@[simp] theorem setReg_engines : (setReg s k v).engines = s.engines := rfl
@[simp] theorem setReg_wins : (setReg s k v).wins = s.wins := rfl
@[simp] theorem setReg_bankMode : (setReg s k v).bankMode = s.bankMode := rfl
@[simp] theorem setReg_bankState : (setReg s k v).bankState = s.bankState := rfl
@[simp] theorem setReg_coresEff : (setReg s k v).coresEff = s.coresEff := rfl
@[simp] theorem setReg_coresNext : (setReg s k v).coresNext = s.coresNext := rfl
@[simp] theorem setReg_dump : (setReg s k v).dump = s.dump := rfl
@[simp] theorem setReg_course : (setReg s k v).course = s.course := rfl
@[simp] theorem setReg_runNo : (setReg s k v).runNo = s.runNo := rfl
@[simp] theorem setReg_stop : (setReg s k v).stop = s.stop := rfl
@[simp] theorem setReg_stepErr : (setReg s k v).stepErr = s.stepErr := rfl
@[simp] theorem setReg_tests : (setReg s k v).tests = s.tests := rfl
@[simp] theorem setReg_rates : (setReg s k v).rates = s.rates := rfl
@[simp] theorem setReg_moduleId : (setReg s k v).moduleId = s.moduleId := rfl
@[simp] theorem setReg_ports : (setReg s k v).ports = s.ports := rfl
@[simp] theorem setReg_inbox : (setReg s k v).inbox = s.inbox := rfl
@[simp] theorem setReg_inHur : (setReg s k v).inHur = s.inHur := rfl
@[simp] theorem setReg_nfCnt : (setReg s k v).nfCnt = s.nfCnt := rfl
@[simp] theorem setReg_reached : (setReg s k v).reached = s.reached := rfl
@[simp] theorem setReg_ofls : (setReg s k v).ofls = s.ofls := rfl
@[simp] theorem setReg_keys : (setReg s k v).keys = s.keys := rfl
@[simp] theorem setReg_reqTag : (setReg s k v).reqTag = s.reqTag := rfl
@[simp] theorem setReg_gwIn : (setReg s k v).gwIn = s.gwIn := rfl
@[simp] theorem setReg_steps : (setReg s k v).steps = s.steps := rfl
@[simp] theorem setReg_jobState : (setReg s k v).jobState = s.jobState := rfl
@[simp] theorem setReg_qps : (setReg s k v).qps = s.qps := rfl
@[simp] theorem setReg_rot : (setReg s k v).rot = s.rot := rfl
@[simp] theorem setReg_ring : (setReg s k v).ring = s.ring := rfl
@[simp] theorem setReg_posts : (setReg s k v).posts = s.posts := rfl
@[simp] theorem setReg_vecDue : (setReg s k v).vecDue = s.vecDue := rfl
@[simp] theorem setReg_msix : (setReg s k v).msix = s.msix := rfl
@[simp] theorem setReg_pba : (setReg s k v).pba = s.pba := rfl
@[simp] theorem setReg_hostErr : (setReg s k v).hostErr = s.hostErr := rfl
@[simp] theorem setReg_evTotal : (setReg s k v).evTotal = s.evTotal := rfl
@[simp] theorem setReg_cmdTotal : (setReg s k v).cmdTotal = s.cmdTotal := rfl
@[simp] theorem setReg_capGen : (setReg s k v).capGen = s.capGen := rfl
@[simp] theorem setReg_gws : (setReg s k v).gws = s.gws := rfl
@[simp] theorem setReg_groups : (setReg s k v).groups = s.groups := rfl
@[simp] theorem setReg_coord : (setReg s k v).coord = s.coord := rfl
@[simp] theorem setReg_snap : (setReg s k v).snap = s.snap := rfl
@[simp] theorem setReg_run : (setReg s k v).run = s.run := rfl
@[simp] theorem setReg_power : (setReg s k v).power = s.power := rfl
@[simp] theorem setReg_ctl : (setReg s k v).ctl = s.ctl := rfl
@[simp] theorem setReg_vault : (setReg s k v).vault = s.vault := rfl
@[simp] theorem setReg_mgt : (setReg s k v).mgt = s.mgt := rfl
@[simp] theorem setReg_edgesBad : (setReg s k v).edgesBad = s.edgesBad := rfl
@[simp] theorem setReg_banksBad : (setReg s k v).banksBad = s.banksBad := rfl
@[simp] theorem setReg_assign : (setReg s k v).assign = s.assign := rfl
@[simp] theorem setReg_assignNext : (setReg s k v).assignNext = s.assignNext := rfl
@[simp] theorem setReg_gated : (setReg s k v).gated = s.gated := rfl
@[simp] theorem setReg_debugOpen : (setReg s k v).debugOpen = s.debugOpen := rfl
@[simp] theorem setReg_zeroDraw : (setReg s k v).zeroDraw = s.zeroDraw := rfl
@[simp] theorem setReg_fltLast : (setReg s k v).fltLast = s.fltLast := rfl
@[simp] theorem setReg_suppsEff : (setReg s k v).suppsEff = s.suppsEff := rfl
@[simp] theorem setReg_held : (setReg s k v).held = s.held := rfl
@[simp] theorem setReg_copies : (setReg s k v).copies = s.copies := rfl
end

section
variable (s : State) (c d u : Nat) (x : Option Nat)
@[simp] theorem raise_pending : (raise s c d u x).pending = s.pending := rfl
@[simp] theorem raise_freeCtr : (raise s c d u x).freeCtr = s.freeCtr := rfl
@[simp] theorem raise_timeNs : (raise s c d u x).timeNs = s.timeNs := rfl
@[simp] theorem raise_hostMem : (raise s c d u x).hostMem = s.hostMem := rfl
@[simp] theorem raise_barReply : (raise s c d u x).barReply = s.barReply := rfl
@[simp] theorem raise_regs : (raise s c d u x).regs = s.regs := rfl
@[simp] theorem raise_mem : (raise s c d u x).mem = s.mem := rfl
@[simp] theorem raise_cwErr : (raise s c d u x).cwErr = s.cwErr := rfl
@[simp] theorem raise_wireFault : (raise s c d u x).wireFault = s.wireFault := rfl
@[simp] theorem raise_defects : (raise s c d u x).defects = s.defects := rfl
@[simp] theorem raise_writeBack : (raise s c d u x).writeBack = s.writeBack := rfl
@[simp] theorem raise_lastCe : (raise s c d u x).lastCe = s.lastCe := rfl
@[simp] theorem raise_dram : (raise s c d u x).dram = s.dram := rfl
@[simp] theorem raise_scrubAt : (raise s c d u x).scrubAt = s.scrubAt := rfl
@[simp] theorem raise_stns : (raise s c d u x).stns = s.stns := rfl
@[simp] theorem raise_arrs : (raise s c d u x).arrs = s.arrs := rfl
@[simp] theorem raise_clus : (raise s c d u x).clus = s.clus := rfl
@[simp] theorem raise_coreCtr : (raise s c d u x).coreCtr = s.coreCtr := rfl
@[simp] theorem raise_cluCtr : (raise s c d u x).cluCtr = s.cluCtr := rfl
@[simp] theorem raise_dieCtr : (raise s c d u x).dieCtr = s.dieCtr := rfl
@[simp] theorem raise_modCtr : (raise s c d u x).modCtr = s.modCtr := rfl
@[simp] theorem raise_adds : (raise s c d u x).adds = s.adds := rfl
@[simp] theorem raise_waiters : (raise s c d u x).waiters = s.waiters := rfl
@[simp] theorem raise_valMsgs : (raise s c d u x).valMsgs = s.valMsgs := rfl
@[simp] theorem raise_seen : (raise s c d u x).seen = s.seen := rfl
@[simp] theorem raise_jobUp : (raise s c d u x).jobUp = s.jobUp := rfl
@[simp] theorem raise_jobSum : (raise s c d u x).jobSum = s.jobSum := rfl
@[simp] theorem raise_jobDown : (raise s c d u x).jobDown = s.jobDown := rfl
@[simp] theorem raise_hopFails : (raise s c d u x).hopFails = s.hopFails := rfl
@[simp] theorem raise_netStopped : (raise s c d u x).netStopped = s.netStopped := rfl
@[simp] theorem raise_fabFails : (raise s c d u x).fabFails = s.fabFails := rfl
@[simp] theorem raise_fabStopped : (raise s c d u x).fabStopped = s.fabStopped := rfl
@[simp] theorem raise_engines : (raise s c d u x).engines = s.engines := rfl
@[simp] theorem raise_wins : (raise s c d u x).wins = s.wins := rfl
@[simp] theorem raise_bankMode : (raise s c d u x).bankMode = s.bankMode := rfl
@[simp] theorem raise_bankState : (raise s c d u x).bankState = s.bankState := rfl
@[simp] theorem raise_coresEff : (raise s c d u x).coresEff = s.coresEff := rfl
@[simp] theorem raise_coresNext : (raise s c d u x).coresNext = s.coresNext := rfl
@[simp] theorem raise_dump : (raise s c d u x).dump = s.dump := rfl
@[simp] theorem raise_course : (raise s c d u x).course = s.course := rfl
@[simp] theorem raise_runNo : (raise s c d u x).runNo = s.runNo := rfl
@[simp] theorem raise_stop : (raise s c d u x).stop = s.stop := rfl
@[simp] theorem raise_stepErr : (raise s c d u x).stepErr = s.stepErr := rfl
@[simp] theorem raise_tests : (raise s c d u x).tests = s.tests := rfl
@[simp] theorem raise_rates : (raise s c d u x).rates = s.rates := rfl
@[simp] theorem raise_moduleId : (raise s c d u x).moduleId = s.moduleId := rfl
@[simp] theorem raise_ports : (raise s c d u x).ports = s.ports := rfl
@[simp] theorem raise_inbox : (raise s c d u x).inbox = s.inbox := rfl
@[simp] theorem raise_inHur : (raise s c d u x).inHur = s.inHur := rfl
@[simp] theorem raise_nfCnt : (raise s c d u x).nfCnt = s.nfCnt := rfl
@[simp] theorem raise_reached : (raise s c d u x).reached = s.reached := rfl
@[simp] theorem raise_ofls : (raise s c d u x).ofls = s.ofls := rfl
@[simp] theorem raise_keys : (raise s c d u x).keys = s.keys := rfl
@[simp] theorem raise_reqTag : (raise s c d u x).reqTag = s.reqTag := rfl
@[simp] theorem raise_gwIn : (raise s c d u x).gwIn = s.gwIn := rfl
@[simp] theorem raise_steps : (raise s c d u x).steps = s.steps := rfl
@[simp] theorem raise_jobState : (raise s c d u x).jobState = s.jobState := rfl
@[simp] theorem raise_qps : (raise s c d u x).qps = s.qps := rfl
@[simp] theorem raise_rot : (raise s c d u x).rot = s.rot := rfl
@[simp] theorem raise_ring : (raise s c d u x).ring = s.ring := rfl
@[simp] theorem raise_posts : (raise s c d u x).posts = s.posts := rfl
@[simp] theorem raise_vecDue : (raise s c d u x).vecDue = s.vecDue := rfl
@[simp] theorem raise_msix : (raise s c d u x).msix = s.msix := rfl
@[simp] theorem raise_pba : (raise s c d u x).pba = s.pba := rfl
@[simp] theorem raise_hostErr : (raise s c d u x).hostErr = s.hostErr := rfl
@[simp] theorem raise_cmdTotal : (raise s c d u x).cmdTotal = s.cmdTotal := rfl
@[simp] theorem raise_capGen : (raise s c d u x).capGen = s.capGen := rfl
@[simp] theorem raise_gws : (raise s c d u x).gws = s.gws := rfl
@[simp] theorem raise_groups : (raise s c d u x).groups = s.groups := rfl
@[simp] theorem raise_coord : (raise s c d u x).coord = s.coord := rfl
@[simp] theorem raise_snap : (raise s c d u x).snap = s.snap := rfl
@[simp] theorem raise_run : (raise s c d u x).run = s.run := rfl
@[simp] theorem raise_power : (raise s c d u x).power = s.power := rfl
@[simp] theorem raise_ctl : (raise s c d u x).ctl = s.ctl := rfl
@[simp] theorem raise_vault : (raise s c d u x).vault = s.vault := rfl
@[simp] theorem raise_mgt : (raise s c d u x).mgt = s.mgt := rfl
@[simp] theorem raise_edgesBad : (raise s c d u x).edgesBad = s.edgesBad := rfl
@[simp] theorem raise_banksBad : (raise s c d u x).banksBad = s.banksBad := rfl
@[simp] theorem raise_assign : (raise s c d u x).assign = s.assign := rfl
@[simp] theorem raise_assignNext : (raise s c d u x).assignNext = s.assignNext := rfl
@[simp] theorem raise_gated : (raise s c d u x).gated = s.gated := rfl
@[simp] theorem raise_debugOpen : (raise s c d u x).debugOpen = s.debugOpen := rfl
@[simp] theorem raise_zeroDraw : (raise s c d u x).zeroDraw = s.zeroDraw := rfl
@[simp] theorem raise_fltLast : (raise s c d u x).fltLast = s.fltLast := rfl
@[simp] theorem raise_suppsEff : (raise s c d u x).suppsEff = s.suppsEff := rfl
@[simp] theorem raise_held : (raise s c d u x).held = s.held := rfl
@[simp] theorem raise_copies : (raise s c d u x).copies = s.copies := rfl
end

section
variable (s : State) (m : Nat)
@[simp] theorem stn_updArr (n a : Nat) (f : Arr → Arr) : stn (updArr s n a f) m = stn s m := rfl
@[simp] theorem stn_updClu (g : Nat) (f : Cluster → Cluster) : stn (updClu s g f) m = stn s m := rfl
@[simp] theorem stn_updEng (g e : Nat) (f : Engine → Engine) : stn (updEng s g e f) m = stn s m := rfl
@[simp] theorem stn_updQp (q : Nat) (f : Qp → Qp) : stn (updQp s q f) m = stn s m := rfl
@[simp] theorem stn_updWin (g w : Nat) (f : Win → Win) : stn (updWin s g w f) m = stn s m := rfl
@[simp] theorem stn_updGw (k : Nat) (f : Gw → Gw) : stn (updGw s k f) m = stn s m := rfl
@[simp] theorem stn_updDram (u : Nat) (f : Dram → Dram) : stn (updDram s u f) m = stn s m := rfl
@[simp] theorem stn_updHPort (p : Nat) (f : HPort → HPort) : stn (updHPort s p f) m = stn s m := rfl
@[simp] theorem stn_updPower (f : Power → Power) : stn (updPower s f) m = stn s m := rfl
@[simp] theorem stn_setReg (k v : Nat) : stn (setReg s k v) m = stn s m := rfl
@[simp] theorem stn_raise (c d u : Nat) (x : Option Nat) : stn (raise s c d u x) m = stn s m := rfl
end

section
variable (s : State) (m c : Nat)
@[simp] theorem arr_updStn (n : Nat) (f : Station → Station) : arr (updStn s n f) m c = arr s m c := rfl
@[simp] theorem arr_updClu (g : Nat) (f : Cluster → Cluster) : arr (updClu s g f) m c = arr s m c := rfl
@[simp] theorem arr_updEng (g e : Nat) (f : Engine → Engine) : arr (updEng s g e f) m c = arr s m c := rfl
@[simp] theorem arr_updQp (q : Nat) (f : Qp → Qp) : arr (updQp s q f) m c = arr s m c := rfl
@[simp] theorem arr_updWin (g w : Nat) (f : Win → Win) : arr (updWin s g w f) m c = arr s m c := rfl
@[simp] theorem arr_updGw (k : Nat) (f : Gw → Gw) : arr (updGw s k f) m c = arr s m c := rfl
@[simp] theorem arr_updDram (u : Nat) (f : Dram → Dram) : arr (updDram s u f) m c = arr s m c := rfl
@[simp] theorem arr_updHPort (p : Nat) (f : HPort → HPort) : arr (updHPort s p f) m c = arr s m c := rfl
@[simp] theorem arr_updPower (f : Power → Power) : arr (updPower s f) m c = arr s m c := rfl
@[simp] theorem arr_setReg (k v : Nat) : arr (setReg s k v) m c = arr s m c := rfl
@[simp] theorem arr_raise (c d u : Nat) (x : Option Nat) : arr (raise s c d u x) m c = arr s m c := rfl
end

section
variable (s : State) (h : Nat)
@[simp] theorem clu_updStn (n : Nat) (f : Station → Station) : clu (updStn s n f) h = clu s h := rfl
@[simp] theorem clu_updArr (n a : Nat) (f : Arr → Arr) : clu (updArr s n a f) h = clu s h := rfl
@[simp] theorem clu_updEng (g e : Nat) (f : Engine → Engine) : clu (updEng s g e f) h = clu s h := rfl
@[simp] theorem clu_updQp (q : Nat) (f : Qp → Qp) : clu (updQp s q f) h = clu s h := rfl
@[simp] theorem clu_updWin (g w : Nat) (f : Win → Win) : clu (updWin s g w f) h = clu s h := rfl
@[simp] theorem clu_updGw (k : Nat) (f : Gw → Gw) : clu (updGw s k f) h = clu s h := rfl
@[simp] theorem clu_updDram (u : Nat) (f : Dram → Dram) : clu (updDram s u f) h = clu s h := rfl
@[simp] theorem clu_updHPort (p : Nat) (f : HPort → HPort) : clu (updHPort s p f) h = clu s h := rfl
@[simp] theorem clu_updPower (f : Power → Power) : clu (updPower s f) h = clu s h := rfl
@[simp] theorem clu_setReg (k v : Nat) : clu (setReg s k v) h = clu s h := rfl
@[simp] theorem clu_raise (c d u : Nat) (x : Option Nat) : clu (raise s c d u x) h = clu s h := rfl
end

section
variable (s : State) (h d : Nat)
@[simp] theorem eng_updStn (n : Nat) (f : Station → Station) : eng (updStn s n f) h d = eng s h d := rfl
@[simp] theorem eng_updArr (n a : Nat) (f : Arr → Arr) : eng (updArr s n a f) h d = eng s h d := rfl
@[simp] theorem eng_updClu (g : Nat) (f : Cluster → Cluster) : eng (updClu s g f) h d = eng s h d := rfl
@[simp] theorem eng_updQp (q : Nat) (f : Qp → Qp) : eng (updQp s q f) h d = eng s h d := rfl
@[simp] theorem eng_updWin (g w : Nat) (f : Win → Win) : eng (updWin s g w f) h d = eng s h d := rfl
@[simp] theorem eng_updGw (k : Nat) (f : Gw → Gw) : eng (updGw s k f) h d = eng s h d := rfl
@[simp] theorem eng_updDram (u : Nat) (f : Dram → Dram) : eng (updDram s u f) h d = eng s h d := rfl
@[simp] theorem eng_updHPort (p : Nat) (f : HPort → HPort) : eng (updHPort s p f) h d = eng s h d := rfl
@[simp] theorem eng_updPower (f : Power → Power) : eng (updPower s f) h d = eng s h d := rfl
@[simp] theorem eng_setReg (k v : Nat) : eng (setReg s k v) h d = eng s h d := rfl
@[simp] theorem eng_raise (c d u : Nat) (x : Option Nat) : eng (raise s c d u x) h d = eng s h d := rfl
end

section
variable (s : State) (j : Nat)
@[simp] theorem reg_updStn (n : Nat) (f : Station → Station) : reg (updStn s n f) j = reg s j := rfl
@[simp] theorem reg_updArr (n a : Nat) (f : Arr → Arr) : reg (updArr s n a f) j = reg s j := rfl
@[simp] theorem reg_updClu (g : Nat) (f : Cluster → Cluster) : reg (updClu s g f) j = reg s j := rfl
@[simp] theorem reg_updEng (g e : Nat) (f : Engine → Engine) : reg (updEng s g e f) j = reg s j := rfl
@[simp] theorem reg_updQp (q : Nat) (f : Qp → Qp) : reg (updQp s q f) j = reg s j := rfl
@[simp] theorem reg_updWin (g w : Nat) (f : Win → Win) : reg (updWin s g w f) j = reg s j := rfl
@[simp] theorem reg_updGw (k : Nat) (f : Gw → Gw) : reg (updGw s k f) j = reg s j := rfl
@[simp] theorem reg_updDram (u : Nat) (f : Dram → Dram) : reg (updDram s u f) j = reg s j := rfl
@[simp] theorem reg_updHPort (p : Nat) (f : HPort → HPort) : reg (updHPort s p f) j = reg s j := rfl
@[simp] theorem reg_updPower (f : Power → Power) : reg (updPower s f) j = reg s j := rfl
@[simp] theorem reg_raise (c d u : Nat) (x : Option Nat) : reg (raise s c d u x) j = reg s j := rfl
end

section
variable (s : State) (h : Nat)
@[simp] theorem gcOf_updStn (n : Nat) (f : Station → Station) : gcOf (updStn s n f) h = gcOf s h := rfl
@[simp] theorem gcOf_updArr (n a : Nat) (f : Arr → Arr) : gcOf (updArr s n a f) h = gcOf s h := rfl
@[simp] theorem gcOf_updEng (g e : Nat) (f : Engine → Engine) : gcOf (updEng s g e f) h = gcOf s h := rfl
@[simp] theorem gcOf_updQp (q : Nat) (f : Qp → Qp) : gcOf (updQp s q f) h = gcOf s h := rfl
@[simp] theorem gcOf_updWin (g w : Nat) (f : Win → Win) : gcOf (updWin s g w f) h = gcOf s h := rfl
@[simp] theorem gcOf_updGw (k : Nat) (f : Gw → Gw) : gcOf (updGw s k f) h = gcOf s h := rfl
@[simp] theorem gcOf_updDram (u : Nat) (f : Dram → Dram) : gcOf (updDram s u f) h = gcOf s h := rfl
@[simp] theorem gcOf_updHPort (p : Nat) (f : HPort → HPort) : gcOf (updHPort s p f) h = gcOf s h := rfl
@[simp] theorem gcOf_updPower (f : Power → Power) : gcOf (updPower s f) h = gcOf s h := rfl
@[simp] theorem gcOf_setReg (k v : Nat) : gcOf (setReg s k v) h = gcOf s h := rfl
@[simp] theorem gcOf_raise (c d u : Nat) (x : Option Nat) : gcOf (raise s c d u x) h = gcOf s h := rfl
end

section
variable (s : State) (h : Nat)
@[simp] theorem cores_updStn (n : Nat) (f : Station → Station) : cores (updStn s n f) h = cores s h := rfl
@[simp] theorem cores_updArr (n a : Nat) (f : Arr → Arr) : cores (updArr s n a f) h = cores s h := rfl
@[simp] theorem cores_updClu (g : Nat) (f : Cluster → Cluster) : cores (updClu s g f) h = cores s h := rfl
@[simp] theorem cores_updEng (g e : Nat) (f : Engine → Engine) : cores (updEng s g e f) h = cores s h := rfl
@[simp] theorem cores_updQp (q : Nat) (f : Qp → Qp) : cores (updQp s q f) h = cores s h := rfl
@[simp] theorem cores_updWin (g w : Nat) (f : Win → Win) : cores (updWin s g w f) h = cores s h := rfl
@[simp] theorem cores_updGw (k : Nat) (f : Gw → Gw) : cores (updGw s k f) h = cores s h := rfl
@[simp] theorem cores_updDram (u : Nat) (f : Dram → Dram) : cores (updDram s u f) h = cores s h := rfl
@[simp] theorem cores_updHPort (p : Nat) (f : HPort → HPort) : cores (updHPort s p f) h = cores s h := rfl
@[simp] theorem cores_updPower (f : Power → Power) : cores (updPower s f) h = cores s h := rfl
@[simp] theorem cores_setReg (k v : Nat) : cores (setReg s k v) h = cores s h := rfl
@[simp] theorem cores_raise (c d u : Nat) (x : Option Nat) : cores (raise s c d u x) h = cores s h := rfl
end

section
variable (s : State) (h : Nat)
@[simp] theorem live_updStn (n : Nat) (f : Station → Station) : live (updStn s n f) h = live s h := rfl
@[simp] theorem live_updArr (n a : Nat) (f : Arr → Arr) : live (updArr s n a f) h = live s h := rfl
@[simp] theorem live_updClu (g : Nat) (f : Cluster → Cluster) : live (updClu s g f) h = live s h := rfl
@[simp] theorem live_updEng (g e : Nat) (f : Engine → Engine) : live (updEng s g e f) h = live s h := rfl
@[simp] theorem live_updQp (q : Nat) (f : Qp → Qp) : live (updQp s q f) h = live s h := rfl
@[simp] theorem live_updWin (g w : Nat) (f : Win → Win) : live (updWin s g w f) h = live s h := rfl
@[simp] theorem live_updGw (k : Nat) (f : Gw → Gw) : live (updGw s k f) h = live s h := rfl
@[simp] theorem live_updDram (u : Nat) (f : Dram → Dram) : live (updDram s u f) h = live s h := rfl
@[simp] theorem live_updHPort (p : Nat) (f : HPort → HPort) : live (updHPort s p f) h = live s h := rfl
@[simp] theorem live_updPower (f : Power → Power) : live (updPower s f) h = live s h := rfl
@[simp] theorem live_setReg (k v : Nat) : live (setReg s k v) h = live s h := rfl
@[simp] theorem live_raise (c d u : Nat) (x : Option Nat) : live (raise s c d u x) h = live s h := rfl
end

section
variable (s : State) (m : Nat)
@[simp] theorem present_updStn (n : Nat) (f : Station → Station) : present (updStn s n f) m = present s m := rfl
@[simp] theorem present_updArr (n a : Nat) (f : Arr → Arr) : present (updArr s n a f) m = present s m := rfl
@[simp] theorem present_updClu (g : Nat) (f : Cluster → Cluster) : present (updClu s g f) m = present s m := rfl
@[simp] theorem present_updEng (g e : Nat) (f : Engine → Engine) : present (updEng s g e f) m = present s m := rfl
@[simp] theorem present_updQp (q : Nat) (f : Qp → Qp) : present (updQp s q f) m = present s m := rfl
@[simp] theorem present_updWin (g w : Nat) (f : Win → Win) : present (updWin s g w f) m = present s m := rfl
@[simp] theorem present_updGw (k : Nat) (f : Gw → Gw) : present (updGw s k f) m = present s m := rfl
@[simp] theorem present_updDram (u : Nat) (f : Dram → Dram) : present (updDram s u f) m = present s m := rfl
@[simp] theorem present_updHPort (p : Nat) (f : HPort → HPort) : present (updHPort s p f) m = present s m := rfl
@[simp] theorem present_updPower (f : Power → Power) : present (updPower s f) m = present s m := rfl
@[simp] theorem present_setReg (k v : Nat) : present (setReg s k v) m = present s m := rfl
@[simp] theorem present_raise (c d u : Nat) (x : Option Nat) : present (raise s c d u x) m = present s m := rfl
end

section
variable (s : State) (m : Nat)
@[simp] theorem cycOf_updStn (n : Nat) (f : Station → Station) : cycOf (updStn s n f) m = cycOf s m := rfl
@[simp] theorem cycOf_updArr (n a : Nat) (f : Arr → Arr) : cycOf (updArr s n a f) m = cycOf s m := rfl
@[simp] theorem cycOf_updEng (g e : Nat) (f : Engine → Engine) : cycOf (updEng s g e f) m = cycOf s m := rfl
@[simp] theorem cycOf_updQp (q : Nat) (f : Qp → Qp) : cycOf (updQp s q f) m = cycOf s m := rfl
@[simp] theorem cycOf_updWin (g w : Nat) (f : Win → Win) : cycOf (updWin s g w f) m = cycOf s m := rfl
@[simp] theorem cycOf_updGw (k : Nat) (f : Gw → Gw) : cycOf (updGw s k f) m = cycOf s m := rfl
@[simp] theorem cycOf_updDram (u : Nat) (f : Dram → Dram) : cycOf (updDram s u f) m = cycOf s m := rfl
@[simp] theorem cycOf_updHPort (p : Nat) (f : HPort → HPort) : cycOf (updHPort s p f) m = cycOf s m := rfl
@[simp] theorem cycOf_updPower (f : Power → Power) : cycOf (updPower s f) m = cycOf s m := rfl
@[simp] theorem cycOf_setReg (k v : Nat) : cycOf (setReg s k v) m = cycOf s m := rfl
@[simp] theorem cycOf_raise (c d u : Nat) (x : Option Nat) : cycOf (raise s c d u x) m = cycOf s m := rfl
end

section
variable (s : State) (j : Nat)
@[simp] theorem qp_updStn (n : Nat) (f : Station → Station) : qp (updStn s n f) j = qp s j := rfl
@[simp] theorem qp_updArr (n a : Nat) (f : Arr → Arr) : qp (updArr s n a f) j = qp s j := rfl
@[simp] theorem qp_updClu (g : Nat) (f : Cluster → Cluster) : qp (updClu s g f) j = qp s j := rfl
@[simp] theorem qp_updEng (g e : Nat) (f : Engine → Engine) : qp (updEng s g e f) j = qp s j := rfl
@[simp] theorem qp_updWin (g w : Nat) (f : Win → Win) : qp (updWin s g w f) j = qp s j := rfl
@[simp] theorem qp_updGw (k : Nat) (f : Gw → Gw) : qp (updGw s k f) j = qp s j := rfl
@[simp] theorem qp_updDram (u : Nat) (f : Dram → Dram) : qp (updDram s u f) j = qp s j := rfl
@[simp] theorem qp_updHPort (p : Nat) (f : HPort → HPort) : qp (updHPort s p f) j = qp s j := rfl
@[simp] theorem qp_updPower (f : Power → Power) : qp (updPower s f) j = qp s j := rfl
@[simp] theorem qp_setReg (k v : Nat) : qp (setReg s k v) j = qp s j := rfl
@[simp] theorem qp_raise (c d u : Nat) (x : Option Nat) : qp (raise s c d u x) j = qp s j := rfl
end

section
variable (s : State) (h d : Nat)
@[simp] theorem win_updStn (n : Nat) (f : Station → Station) : win (updStn s n f) h d = win s h d := rfl
@[simp] theorem win_updArr (n a : Nat) (f : Arr → Arr) : win (updArr s n a f) h d = win s h d := rfl
@[simp] theorem win_updClu (g : Nat) (f : Cluster → Cluster) : win (updClu s g f) h d = win s h d := rfl
@[simp] theorem win_updEng (g e : Nat) (f : Engine → Engine) : win (updEng s g e f) h d = win s h d := rfl
@[simp] theorem win_updQp (q : Nat) (f : Qp → Qp) : win (updQp s q f) h d = win s h d := rfl
@[simp] theorem win_updGw (k : Nat) (f : Gw → Gw) : win (updGw s k f) h d = win s h d := rfl
@[simp] theorem win_updDram (u : Nat) (f : Dram → Dram) : win (updDram s u f) h d = win s h d := rfl
@[simp] theorem win_updHPort (p : Nat) (f : HPort → HPort) : win (updHPort s p f) h d = win s h d := rfl
@[simp] theorem win_updPower (f : Power → Power) : win (updPower s f) h d = win s h d := rfl
@[simp] theorem win_setReg (k v : Nat) : win (setReg s k v) h d = win s h d := rfl
@[simp] theorem win_raise (c d u : Nat) (x : Option Nat) : win (raise s c d u x) h d = win s h d := rfl
end

section
variable (s : State) (j : Nat)
@[simp] theorem hport_updStn (n : Nat) (f : Station → Station) : hport (updStn s n f) j = hport s j := rfl
@[simp] theorem hport_updArr (n a : Nat) (f : Arr → Arr) : hport (updArr s n a f) j = hport s j := rfl
@[simp] theorem hport_updClu (g : Nat) (f : Cluster → Cluster) : hport (updClu s g f) j = hport s j := rfl
@[simp] theorem hport_updEng (g e : Nat) (f : Engine → Engine) : hport (updEng s g e f) j = hport s j := rfl
@[simp] theorem hport_updQp (q : Nat) (f : Qp → Qp) : hport (updQp s q f) j = hport s j := rfl
@[simp] theorem hport_updWin (g w : Nat) (f : Win → Win) : hport (updWin s g w f) j = hport s j := rfl
@[simp] theorem hport_updGw (k : Nat) (f : Gw → Gw) : hport (updGw s k f) j = hport s j := rfl
@[simp] theorem hport_updDram (u : Nat) (f : Dram → Dram) : hport (updDram s u f) j = hport s j := rfl
@[simp] theorem hport_updPower (f : Power → Power) : hport (updPower s f) j = hport s j := rfl
@[simp] theorem hport_setReg (k v : Nat) : hport (setReg s k v) j = hport s j := rfl
@[simp] theorem hport_raise (c d u : Nat) (x : Option Nat) : hport (raise s c d u x) j = hport s j := rfl
end

section
variable (s : State)
@[simp] theorem sealedJob_updStn (n : Nat) (f : Station → Station) : sealedJob (updStn s n f) = sealedJob s := rfl
@[simp] theorem sealedJob_updArr (n a : Nat) (f : Arr → Arr) : sealedJob (updArr s n a f) = sealedJob s := rfl
@[simp] theorem sealedJob_updClu (g : Nat) (f : Cluster → Cluster) : sealedJob (updClu s g f) = sealedJob s := rfl
@[simp] theorem sealedJob_updEng (g e : Nat) (f : Engine → Engine) : sealedJob (updEng s g e f) = sealedJob s := rfl
@[simp] theorem sealedJob_updQp (q : Nat) (f : Qp → Qp) : sealedJob (updQp s q f) = sealedJob s := rfl
@[simp] theorem sealedJob_updWin (g w : Nat) (f : Win → Win) : sealedJob (updWin s g w f) = sealedJob s := rfl
@[simp] theorem sealedJob_updGw (k : Nat) (f : Gw → Gw) : sealedJob (updGw s k f) = sealedJob s := rfl
@[simp] theorem sealedJob_updDram (u : Nat) (f : Dram → Dram) : sealedJob (updDram s u f) = sealedJob s := rfl
@[simp] theorem sealedJob_updHPort (p : Nat) (f : HPort → HPort) : sealedJob (updHPort s p f) = sealedJob s := rfl
@[simp] theorem sealedJob_updPower (f : Power → Power) : sealedJob (updPower s f) = sealedJob s := rfl
@[simp] theorem sealedJob_setReg (k v : Nat) : sealedJob (setReg s k v) = sealedJob s := rfl
@[simp] theorem sealedJob_raise (c d u : Nat) (x : Option Nat) : sealedJob (raise s c d u x) = sealedJob s := rfl
end

section
variable (s : State)
@[simp] theorem debugCourse_updStn (n : Nat) (f : Station → Station) : debugCourse (updStn s n f) = debugCourse s := rfl
@[simp] theorem debugCourse_updArr (n a : Nat) (f : Arr → Arr) : debugCourse (updArr s n a f) = debugCourse s := rfl
@[simp] theorem debugCourse_updClu (g : Nat) (f : Cluster → Cluster) : debugCourse (updClu s g f) = debugCourse s := rfl
@[simp] theorem debugCourse_updEng (g e : Nat) (f : Engine → Engine) : debugCourse (updEng s g e f) = debugCourse s := rfl
@[simp] theorem debugCourse_updQp (q : Nat) (f : Qp → Qp) : debugCourse (updQp s q f) = debugCourse s := rfl
@[simp] theorem debugCourse_updWin (g w : Nat) (f : Win → Win) : debugCourse (updWin s g w f) = debugCourse s := rfl
@[simp] theorem debugCourse_updGw (k : Nat) (f : Gw → Gw) : debugCourse (updGw s k f) = debugCourse s := rfl
@[simp] theorem debugCourse_updDram (u : Nat) (f : Dram → Dram) : debugCourse (updDram s u f) = debugCourse s := rfl
@[simp] theorem debugCourse_updHPort (p : Nat) (f : HPort → HPort) : debugCourse (updHPort s p f) = debugCourse s := rfl
@[simp] theorem debugCourse_updPower (f : Power → Power) : debugCourse (updPower s f) = debugCourse s := rfl
@[simp] theorem debugCourse_setReg (k v : Nat) : debugCourse (setReg s k v) = debugCourse s := rfl
@[simp] theorem debugCourse_raise (c d u : Nat) (x : Option Nat) : debugCourse (raise s c d u x) = debugCourse s := rfl
end

section
variable (s : State)
@[simp] theorem jobNo_updStn (n : Nat) (f : Station → Station) : jobNo (updStn s n f) = jobNo s := rfl
@[simp] theorem jobNo_updArr (n a : Nat) (f : Arr → Arr) : jobNo (updArr s n a f) = jobNo s := rfl
@[simp] theorem jobNo_updClu (g : Nat) (f : Cluster → Cluster) : jobNo (updClu s g f) = jobNo s := rfl
@[simp] theorem jobNo_updEng (g e : Nat) (f : Engine → Engine) : jobNo (updEng s g e f) = jobNo s := rfl
@[simp] theorem jobNo_updQp (q : Nat) (f : Qp → Qp) : jobNo (updQp s q f) = jobNo s := rfl
@[simp] theorem jobNo_updWin (g w : Nat) (f : Win → Win) : jobNo (updWin s g w f) = jobNo s := rfl
@[simp] theorem jobNo_updGw (k : Nat) (f : Gw → Gw) : jobNo (updGw s k f) = jobNo s := rfl
@[simp] theorem jobNo_updDram (u : Nat) (f : Dram → Dram) : jobNo (updDram s u f) = jobNo s := rfl
@[simp] theorem jobNo_updHPort (p : Nat) (f : HPort → HPort) : jobNo (updHPort s p f) = jobNo s := rfl
@[simp] theorem jobNo_updPower (f : Power → Power) : jobNo (updPower s f) = jobNo s := rfl
@[simp] theorem jobNo_setReg (k v : Nat) : jobNo (setReg s k v) = jobNo s := rfl
@[simp] theorem jobNo_raise (c d u : Nat) (x : Option Nat) : jobNo (raise s c d u x) = jobNo s := rfl
end

/-- A station after its own update. -/
@[simp] theorem stn_updStn_same (s : State) (n : Nat) (f : Station → Station) : stn (updStn s n f) n = f (stn s n) :=
  Table.get_upd_same _ _ _ _

/-- The other stations are as before. -/
theorem stn_updStn_other (s : State) (n m : Nat) (f : Station → Station) (h : m ≠ n) :
    stn (updStn s n f) m = stn s m := Table.get_upd_other _ _ _ _ _ h

/-- An array after its own update. -/
@[simp] theorem arr_updArr_same (s : State) (n a : Nat) (f : Arr → Arr) : arr (updArr s n a f) n a = f (arr s n a) :=
  Table.get_upd_same _ _ _ _

/-- The other arrays are as before. -/
theorem arr_updArr_other (s : State) (n a m b : Nat) (f : Arr → Arr) (h : 2 * m + b ≠ 2 * n + a) :
    arr (updArr s n a f) m b = arr s m b := Table.get_upd_other _ _ _ _ _ h

/-- A cluster after its own update. -/
@[simp] theorem clu_updClu_same (s : State) (g : Nat) (f : Cluster → Cluster) : clu (updClu s g f) g = f (clu s g) :=
  Table.get_upd_same _ _ _ _

/-- The other clusters are as before. -/
theorem clu_updClu_other (s : State) (g h : Nat) (f : Cluster → Cluster) (e : h ≠ g) :
    clu (updClu s g f) h = clu s h := Table.get_upd_other _ _ _ _ _ e

/-- An engine after its own update. -/
@[simp] theorem eng_updEng_same (s : State) (g e : Nat) (f : Engine → Engine) : eng (updEng s g e f) g e = f (eng s g e) :=
  Table.get_upd_same _ _ _ _

/-- A queue pair after its own update. -/
@[simp] theorem qp_updQp_same (s : State) (q : Nat) (f : Qp → Qp) : qp (updQp s q f) q = f (qp s q) :=
  Table.get_upd_same _ _ _ _

/-- The other queue pairs are as before. -/
theorem qp_updQp_other (s : State) (q r : Nat) (f : Qp → Qp) (h : r ≠ q) : qp (updQp s q f) r = qp s r :=
  Table.get_upd_other _ _ _ _ _ h

/-- A window after its own update. -/
@[simp] theorem win_updWin_same (s : State) (g w : Nat) (f : Win → Win) : win (updWin s g w f) g w = f (win s g w) :=
  Table.get_upd_same _ _ _ _

/-- A handoff port after its own update. -/
@[simp] theorem hport_updHPort_same (s : State) (p : Nat) (f : HPort → HPort) :
    hport (updHPort s p f) p = f (hport s p) := Table.get_upd_same _ _ _ _

/-- The other ports are as before. -/
theorem hport_updHPort_other (s : State) (p q : Nat) (f : HPort → HPort) (h : q ≠ p) :
    hport (updHPort s p f) q = hport s q := Table.get_upd_other _ _ _ _ _ h

/-- The power part after its own update. -/
@[simp] theorem updPower_power (s : State) (f : Power → Power) : (updPower s f).power = f s.power := rfl

/-- A register after it is set. -/
@[simp] theorem reg_setReg_same (s : State) (k v : Nat) : reg (setReg s k v) k = v % 2 ^ 64 := by
  simp [reg, setReg]

/-- The other registers are as before. -/
theorem reg_setReg_other (s : State) (k j v : Nat) (h : j ≠ k) : reg (setReg s k v) j = reg s j := by
  simp [reg, setReg, Table.get_set_other _ _ _ _ _ h]

/-- An event raised stands last among those that wait to be recorded. -/
@[simp] theorem raise_evs (s : State) (c d u : Nat) (x : Option Nat) : (raise s c d u x).evs = s.evs ++
    [{ code := c, die := d, unit := u, detail := x, time := s.timeNs, isSealed := sealedJob s }] := rfl

/-- Events raised are counted. -/
@[simp] theorem raise_evTotal (s : State) (c d u : Nat) (x : Option Nat) : (raise s c d u x).evTotal = s.evTotal + 1 := rfl

end Sys2Proof.Machine
end

