-- ==== Sys2Proof/Laws/Ops.lean ====
section
/-! SUPPORT. What the shared operations can change: registers only, a station only, events only. -/
namespace Sys2Proof.Machine
open Sys2Proof

/-- A counter of the register region: only the registers. -/
theorem bump_regs (s : State) (k lo w n : Nat) : bump s k lo w n = { s with regs := (bump s k lo w n).regs } := rfl

/-- An error bit with its first_* fields: only the registers. -/
theorem latch_regs (s : State) (k top bit : Nat) (l : List (Nat × Nat × Nat)) :
    latch s k top bit l = { s with regs := (latch s k top bit l).regs } := rfl

/-- The false-start detector writes only registers. -/
theorem fsFailAt_regs (s : State) (n pc bit : Nat) :
    fsFailAt s n pc bit = { s with regs := (fsFailAt s n pc bit).regs } := by
  unfold fsFailAt
  split
  · dsimp only
    split <;> rfl
  · rfl

/-- Outside a debug course the detector records nothing. -/
theorem fsFailAt_off (s : State) (n pc bit : Nat) (h : debugCourse s = false) : fsFailAt s n pc bit = s := by
  simp [fsFailAt, h]

/-- A condition of the detector: only registers. -/
theorem fsIf_regs (s : State) (c : Bool) (n bit : Nat) : fsIf s c n bit = { s with regs := (fsIf s c n bit).regs } := by
  unfold fsIf
  split
  · exact fsFailAt_regs s n _ bit
  · rfl

/-- Outside a debug course a condition of the detector records nothing. -/
theorem fsIf_off (s : State) (c : Bool) (n bit : Nat) (h : debugCourse s = false) : fsIf s c n bit = s := by
  unfold fsIf
  split
  · exact fsFailAt_off s n _ bit h
  · rfl

/-- The detector's check of registers read: only registers. -/
theorem seeX_regs (s : State) (n : Nat) (l : List Nat) : seeX s n l = { s with regs := (seeX s n l).regs } :=
  fsIf_regs s _ n 3

/-- Outside a debug course it records nothing. -/
theorem seeX_off (s : State) (n : Nat) (l : List Nat) (h : debugCourse s = false) : seeX s n l = s :=
  fsIf_off s _ n 3 h

/-- A timed effect: only its cluster. -/
theorem schedule_clus (s : State) (n after : Nat) (sc : Bool) (e : Eff) :
    schedule s n after sc e = { s with clus := (schedule s n after sc e).clus } := rfl

/-- The effects of the cluster after one is scheduled. -/
@[simp] theorem clu_schedule (s : State) (n after : Nat) (sc : Bool) (e : Eff) :
    clu (schedule s n after sc e) (cluOf n) =
      { clu s (cluOf n) with timed := addTimed ⟨cycOf s n + after, cycOf s n, sc, e⟩ (clu s (cluOf n)).timed } := by
  unfold schedule
  rw [clu_updClu_same]
  rfl

/-- Other clusters are as before. -/
theorem clu_schedule_other (s : State) (n after : Nat) (sc : Bool) (e : Eff) (g : Nat) (h : g ≠ cluOf n) :
    clu (schedule s n after sc e) g = clu s g := clu_updClu_other _ _ _ _ h

/-- A fault stop is wanted: only `stepErr` and `stop`. -/
theorem wantStop_parts (s : State) (ev : Nat) :
    wantStop s ev = { s with stepErr := (wantStop s ev).stepErr, stop := (wantStop s ev).stop } := by
  unfold wantStop
  split <;> rfl

/-- A station that halts at its next hurdle: only it, `stepErr` and `stop`. -/
theorem errHalt_parts (s : State) (n ev : Nat) :
    errHalt s n ev = { s with stns := s.stns.upd {} n haltAtHurdle, stepErr := (errHalt s n ev).stepErr
                              stop := (errHalt s n ev).stop } := by
  unfold errHalt
  rw [wantStop_parts]
  rfl

/-- A request of a self-test: only the tests that wait, events and registers. -/
theorem requestTest_parts (s : State) (k i ev : Nat) :
    requestTest s k i ev = { s with tests := (requestTest s k i ev).tests, evs := (requestTest s k i ev).evs
                                    evTotal := (requestTest s k i ev).evTotal, regs := (requestTest s k i ev).regs } := by
  unfold requestTest
  split
  · rfl
  · split
    · rfl
    · rfl

/-- Tokens of a cycle: only the cluster's count and its peak register. -/
theorem addTok_parts (s : State) (g n : Nat) :
    addTok s g n = { s with clus := s.clus.upd {} g (fun c => { c with tok := c.tok + n }), regs := (addTok s g n).regs } :=
  rfl

/-- The loops of a stride that ends none stay as they are. -/
theorem loopEnd_none (pc : Nat) (l : List (Nat × Nat × Nat)) (lc : Table W32) (h : ∀ x ∈ l, x.2.2 ≠ pc) :
    loopEnd pc l lc = (none, l, lc) := by
  induction l with
  | nil => rfl
  | cons e t ih =>
    obtain ⟨k, f, last⟩ := e
    have he : last ≠ pc := h (k, f, last) (by simp)
    simp only [loopEnd, he, ↓reduceIte, ih (fun x hx => h x (by simp [hx]))]

end Sys2Proof.Machine
end

