-- ==== Sys2Proof/WellFormed.lean ====
section
/-! DEFINITION. Commands whose operands lie in the ranges that the spec's fields hold. -/
namespace Sys2Proof

/-- A field of `w` bits. -/
def fits (w v : Nat) : Bool := decide (v < 2 ^ w)

/-- A station of the module (00 R9). -/
def wfStation (n : Nat) : Bool := decide (n < 768)

/-- A cluster of the module (00 R9). -/
def wfCluster (g : Nat) : Bool := decide (g < 96)

/-- A queue pair and a command identifier of 32 bits (13 R436, R442). -/
def wfSrc (c : Src) : Bool := decide (c.qp < 64) && fits 32 c.cid

/-- Registers of a station or of a general core. -/
def wfRegs (l : List Nat) : Bool := l.all (fun r => decide (r < 32))

/-- A signed field of `w` bits. -/
def wfSigned (w : Nat) (v : Int) : Bool := decide (-(2 ^ (w - 1) : Int) ≤ v) && decide (v < 2 ^ (w - 1))

/-- Counters of a scope (08 R300). -/
def wfCounter (sc : Scope) (i : Nat) : Bool :=
  match sc with
  | .core => decide (i < 64)
  | .cluster => decide (i < 256)
  | .die => decide (i < 1024)
  | .module => decide (i < 4096)

/-- A waiting unit of the module. -/
def wfWaiter : Waiter → Bool
  | .station n => wfStation n
  | .gc g => wfCluster g

/-- An MSET's fields (06 R229). -/
def wfMset (f : MsetF) : Bool :=
  fits 4 f.fmtCol && fits 4 f.fmtRow && wfRegs [f.baseCol, f.baseRow, f.strideCol, f.strideRow] && fits 4 f.blkQ

/-- A DRAIN's fields (06 R229). -/
def wfDrain (f : DrainF) : Bool :=
  fits 1 f.acc && fits 2 f.dest && wfRegs [f.addr, f.scale] && fits 2 f.buf && fits 4 f.fmtOut && fits 6 f.group

/-- A window's fields (07 R298). -/
def wfWin (c : WinCfg) : Bool :=
  wfCluster c.cluster && fits 6 c.window && fits 2 c.dir && fits 11 c.base && fits 11 c.sizeM1 && fits 10 c.srcModule
    && fits 32 c.srcJob

/-- A host address and a length, of 64 and 32 bits (13 R449). -/
def wfBuffer (addr len : Nat) : Bool := fits 64 addr && fits 32 len

/-- A message's header fields (10 R372). -/
def wfMsg (m : Msg) : Bool :=
  fits 4 m.mtype && fits 10 m.dst && fits 10 m.src && fits 4 m.fmt && fits 16 m.tag && fits 32 m.job && fits 16 m.run
    && fits 16 m.step && fits 32 m.length && fits 64 m.target

/-- A link hurdle message's fields (10 R375). -/
def wfHur (m : HurMsg) : Bool := fits 32 m.address && fits 32 m.value && fits 32 m.job && fits 16 m.run && fits 8 m.kind

/-- A station's array. -/
def wfArray (n a : Nat) : Bool := wfStation n && decide (a < 2)

/-- An engine of a cluster. -/
def wfEngine (g e : Nat) : Bool := wfCluster g && decide (e < 4)

/-- A handoff port. -/
def wfPort (p : Nat) : Bool := decide (p < 16)

/-- A stack or device. -/
def wfDram (u : Nat) : Bool := decide (u < 48)

/-- The operands of a command lie in their ranges. -/
def wf (i : Instr) : Bool :=
  match i with
  | .identify c a => wfSrc c && fits 64 a
  | .loadCourse c a l i _ => wfSrc c && fits 64 a && fits 64 l && decide (i.head.length = 128)
  | .openWindow c w => wfSrc c && wfWin w
  | .closeWindow c g w | .closeWindowDone c g w => wfSrc c && wfCluster g && fits 6 w
  | .run c | .halt c | .endJob c | .selftestModule c => wfSrc c
  | .copy c p _ => wfSrc c && fits 64 p.host && fits 64 p.addr && fits 64 p.length && fits 8 p.dir && fits 8 p.crypto
      && fits 8 p.slot && fits 128 p.iv && fits 32 p.hurdle
  | .provisionKey c a l slot kind _ => wfSrc c && wfBuffer a l && fits 8 slot && fits 8 kind
  | .attest c n a l => wfSrc c && decide (n.length = 32) && wfBuffer a l
  | .snapshot c d l k f _ m => wfSrc c && fits 64 d && fits 64 l && fits 8 k && fits 8 f && fits 16 m
  | .snapshotChunkRead gw ch => decide (gw < 16) && fits 16 ch
  | .dumpTake c a | .dumpCopyLast c a => wfSrc c && fits 64 a
  | .selftestUnit c k i => wfSrc c && fits 8 k && fits 16 i
  | .setBudget c w => wfSrc c && fits 32 w
  | .readTelemetry c a p => wfSrc c && fits 64 a && fits 8 p
  | .vaultRead c a o l k => wfSrc c && fits 64 a && fits 64 o && fits 32 l && fits 8 k
  | .setWatch c g cfg b => wfSrc c && fits 8 g && fits 8 cfg.nfAction && fits 8 cfg.spikeAction && fits 8 cfg.k
      && fits 8 cfg.a && fits 8 cfg.warmup && fits 8 b
  | .setClockPolicy c sc m f => wfSrc c && fits 8 sc && fits 8 m && fits 16 f
  | .armOffload c k a z => wfSrc c && fits 8 k && fits 64 a && fits 64 z
  | .readFaultMap c a l => wfSrc c && wfBuffer a l
  | .loadSupplement c a l p _ => wfSrc c && wfBuffer a l && decide (p.head.length = 64)
  | .linkDisable c p | .linkEnable c p | .linkRetrain c p | .linkStatus c p | .linkLoopback c p => wfSrc c && fits 8 p
  | .sqEntryTake q e => decide (q < 64) && decide (e.length = 64)
  | .cmdSqTail q v | .cmdCqHead q v => decide (q < 64) && fits 32 v
  | .cmdEvtHead v | .warmReset v => fits 32 v
  | .qpEnable q | .qpDisable q => decide (q < 64)
  | .registerWrite o z v _ => fits 26 o && (z = 4 || z = 8) && decide (o % z = 0) && fits (8 * z) v
  | .rcRead o z => fits 26 o && (z = 4 || z = 8) && decide (o % z = 0)
  | .bar2Read o l => fits 38 o && decide (o + l ≤ 2 ^ 38)
  | .bar2Write o d _ => fits 38 o && decide (o + d.length ≤ 2 ^ 38)
  | .msiXSend v => fits 11 v
  | .evtRingEnable | .eventRecordWrite | .hostLinkDown | .runStart | .runComplete => true
  | .pcieLinkUp sp w _ => fits 3 sp && fits 5 w
  | .send n _ b _ d => wfStation n && fits 2 b && fits 2 d
  | .sendQueuedStart n _ | .headerTransferArrive n _ | .batonWaitEnd n _ | .ringReplayFail n _ => wfStation n
  | .free n a b => wfStation n && fits 4 a && fits 4 b
  | .mset n a f => wfArray n a && wfMset f
  | .mac n a f => wfArray n a && fits 1 f.acc && fits 2 f.bufCol && fits 2 f.bufRow
  | .drain n a f => wfArray n a && wfDrain f
  | .drainComplete n a | .rowSweep n a => wfArray n a
  | .mask n a t r => wfArray n a && decide (t < 3) && wfRegs [r]
  | .hdrld n rd _ b sel => wfStation n && wfRegs [rd] && fits 2 b && fits 3 sel
  | .ld n rd b o => wfStation n && wfRegs [rd, b] && wfSigned 18 o
  | .st n rs b o => wfStation n && wfRegs [rs, b] && wfSigned 18 o
  | .move n f => wfStation n && wfRegs [f.dst, f.src, f.count] && (match f.buf with | some e => fits 2 e.2 | none => true)
  | .cvt n f => wfStation n && wfRegs [f.dst, f.src, f.count] && fits 4 f.fmtIn && fits 4 f.fmtOut
  | .moveUnitStart n | .nop n | .stationHalt n | .eclipseEnter n => wfStation n
  | .strm n e a c => wfStation n && fits 2 e && wfRegs [a, c]
  | .rearm n e b => wfStation n && fits 2 e && wfRegs [b]
  | .seed n r => wfStation n && wfRegs [r]
  | .add n d a b | .sub n d a b | .and n d a b | .or n d a b | .xor n d a b | .sll n d a b | .srl n d a b
  | .sra n d a b | .mul n d a b => wfStation n && wfRegs [d, a, b]
  | .addi n d a v => wfStation n && wfRegs [d, a] && wfSigned 27 v
  | .li n d v => wfStation n && wfRegs [d] && wfSigned 32 v
  | .lih n d v => wfStation n && wfRegs [d] && fits 32 v
  | .cmp n p a b c => wfStation n && fits 3 p && wfRegs [a, b] && decide (c ≤ 5)
  | .plog n p a b f => wfStation n && fits 3 p && fits 3 a && fits 3 b && fits 2 f
  | .br n t => wfStation n && fits 14 t
  | .loop n l r t => wfStation n && fits 2 l && wfRegs [r] && fits 14 t
  | .arrive n sc i r _ | .wait n sc i r _ => wfStation n && wfCounter sc i && wfRegs [r]
  | .signal n a r _ => wfStation n && wfRegs [a, r]
  | .borrow n k l => wfStation n && decide (1 ≤ k) && decide (k ≤ 64) && decide (1 ≤ l) && decide (l ≤ 1024)
  | .borrowGrant g | .hurEclipseHeadroom g | .pwrTokenOver g | .gcRunEndEcall g | .rampStep g
  | .pacerTargetUpdate g | .pacTimingFloor g => wfCluster g
  | .borrowWindowEnd g n => wfCluster g && wfStation n
  | .xharrive g a b | .xhsignal g a b | .xrearm g a b => wfCluster g && wfRegs [a, b]
  | .xhwait g d a b _ | .xstrm g d a b => wfCluster g && wfRegs [d, a, b]
  | .xpld g d a b f _ _ | .xpst g d a b f _ _ _ => wfCluster g && wfRegs [d, a, b] && fits 4 f
  | .xhread g d a => wfCluster g && wfRegs [d, a]
  | .invspd g k => wfCluster g && decide (k ≤ 4)
  | .gcException g c => wfCluster g && fits 63 c
  | .batonLanded n _ b => wfStation n && fits 2 b
  | .transferRetransmit n _ i k got crc =>
    wfStation n && decide (i < 257) && decide (1 ≤ k) && decide (k ≤ 8) && got.length = 256 && fits 16 crc
  | .fabricRetransmit w e c _ got crc =>
    decide (w < 10) && decide (e ≤ 15) && decide (c < 12) && got.length = 256 && fits 16 crc
  | .ringFabReplayFail w e c => decide (w < 10) && decide (e ≤ 15) && decide (c < 12)
  | .descriptorBurstFetch g e | .descriptorStart g e | .lbInject g e | .descriptorComplete g e | .strTimeout g e
  | .strmPendingStart g e | .oflHostError g e => wfEngine g e
  | .offloadPrefetchVerify g e d => wfEngine g e && decide (d.length ≤ 65552)
  | .winRequestCheck q => wfCluster q.cluster && fits 6 q.window && fits 10 q.srcModule && fits 32 q.srcJob
      && decide (q.length ≤ 256) && decide (q.data.length ≤ 256)
  | .bankWake b | .bankRetainTimeout b => decide (b < 9216)
  | .hurdleAddApply _ | .hurdleValueUpdate _ | .correctedWriteBack _ => true
  | .hurdleNodeForward k | .hurNetFail k => decide (k < 105)
  | .signalNetResend k got crc => decide (k < 105) && decide (got.length = 8) && decide (crc < 256)
  | .waitRelease w | .hurWatchdog w => wfWaiter w
  | .jobHurdleRootApply i | .jobHurdleValueArrive i => decide (3840 ≤ i) && decide (i < 4096)
  | .hurDumpDone | .coordinatorVote | .stepDecision | .stepAckDone => true
  | .patrolScrubRead w => decide (w < 10)
  | .dramRefresh u => wfDram u
  | .memRefreshRaised u t | .refreshRateLowered u t => wfDram u && fits 8 t
  | .portUp p m q => wfPort p && fits 10 m && fits 4 q
  | .hofTrainFail p | .portTrainRetry p | .hofPortDown p | .flitSlot p => wfPort p
  | .flitReceive p k c bs => wfPort p && decide (k < 2) && fits 64 c && bs.length = 256
  | .flitResend p k q => wfPort p && decide (k < 2) && fits 12 q
  | .ackTimeout p k | .hofRetryExhausted p k => wfPort p && decide (k < 2)
  | .controlFlit p bs => wfPort p && bs.length = 256
  | .signalFlit p ms => wfPort p && decide (ms.length ≤ 14) && ms.all wfHur
  | .winWrite p m | .winRead p m | .readData p m | .winReply p m | .chunkReply p m => wfPort p && wfMsg m
  | .chunkGrad k m | .chunkGather k m | .lossReport k m => decide (k < 16) && wfMsg m
  | .chunkTake k | .updateGroup k | .chunkApplied k | .engineFinished k => decide (k < 16)
  | .clockSourceStable _ | .missingEdge _ | .clkRefLoss | .clkRefRestored | .clkXtalLoss | .clockLossRestart => true
  | .droopStretch g d => wfCluster g && decide (1 ≤ d) && decide (d ≤ 3)
  | .pacThermal g t => wfCluster g && fits 8 t
  | .pwrSupplyWarn v | .supplyRiseHoldStart v | .supplyReset v | .pwrOvervoltage v | .overvoltageShutdown v
  | .regulatorStart v | .supplyFallDuringHold v => fits 16 v
  | .pwrSupplyClear | .budgetGrantRaise | .budgetGrantLower | .pwrAlert | .alertRelease => true
  | .budgetSample mv ca a b c d e f => fits 16 mv && [ca, a, b, c, d, e, f].all (fits 32)
  | .thermalTrip k t => fits 16 k && fits 8 t
  | .railGroupGood | .railFailure | .railRetry | .powerUp | .fixedDomainStart | .romBoot _ _ | .vaultRecovery => true
  | .memoryTraining l => l.all wfDram
  | .powerupZeroiseDone _ | .powerupSelftest | .commandProcessorOpen | .ready | .perstNAssert | .perstNDeassert => true
  | .faultStop | .selftestRun | .ctlSupervisorLockstep | .ctlFailoverDone => true
  | .ctlMoonLockstep d k => decide (d < 8) && decide (k < 2)
  | .vaultTransaction | .eventLogCommit | .lifetimeTelemetryCommit => true
  | .pldmSensorUpdate l => l.all (fun e => fits 16 e.1)
  | .entdaa a | .setdasa a => fits 7 a
  | .rstdaa | .getEndpointId | .getMessageTypeSupport | .getTid | .getPldmTypes | .getPdrRepositoryInfo => true
  | .setEndpointId o e => fits 8 o && fits 8 e
  | .getMctpVersionSupport t => fits 8 t
  | .setTid t => fits 8 t
  | .getPldmVersion h f t => fits 32 h && fits 8 f && fits 8 t
  | .getPldmCommands t v => fits 8 t && fits 32 v
  | .getPdr r h f c => fits 32 r && fits 32 h && fits 8 f && fits 16 c
  | .getSensorReading k _ | .getStateSensorReadings k | .getSensorThresholds k => fits 16 k
  | .enroll r => decide (r.bytes.length = 96)
  | .unlock t => decide (t.bytes.length = 32)
  | .mgtVaultRead o l k => fits 32 o && fits 32 l && fits 8 k
  | .generalCoreLoadStore g _ a z => wfCluster g && fits 64 a && decide (1 ≤ z)

end Sys2Proof
end

