-- ==== Sys2Proof/Tests/Slice0.lean ====
section
/-! SUPPORT. Tests: ill-formed commands that the check refuses, values that the spec states, and, for every
statement with hypotheses, states and operands that meet them. -/
namespace Sys2Proof.Tests
open Sys2Proof Sys2Proof.Machine

/-! ## Ill-formed commands -/

/-- A queue pair and command identifier. -/
def c0 : Src := ⟨0, 1⟩

/-- Every term of a list is refused by the check, and the term before it is not. -/
def refuses (good : Instr) (l : List Instr) : Bool := wf good && l.all (fun i => !wf i)

theorem test_wf_queries :
    refuses (.identify ⟨63, 1⟩ 0) [.identify ⟨64, 1⟩ 0, .identify ⟨0, 2 ^ 32⟩ 0, .identify c0 (2 ^ 64)] ∧
    refuses (.attest c0 (List.replicate 32 0) 0 0) [.attest c0 [] 0 0, .attest c0 (List.replicate 32 0) 0 (2 ^ 32)] ∧
    refuses (.setBudget c0 0) [.setBudget c0 (2 ^ 32)] ∧ refuses (.readTelemetry c0 0 0) [.readTelemetry c0 0 256] ∧
    refuses (.vaultRead c0 0 0 0 0) [.vaultRead c0 0 (2 ^ 64) 0 0, .vaultRead c0 0 0 (2 ^ 32) 0, .vaultRead c0 0 0 0 256] ∧
    refuses (.setClockPolicy c0 0 0 0) [.setClockPolicy c0 256 0 0, .setClockPolicy c0 0 256 0,
      .setClockPolicy c0 0 0 65536] ∧
    refuses (.readFaultMap c0 0 0) [.readFaultMap c0 (2 ^ 64) 0] := by decide

theorem test_wf_jobs :
    refuses (.loadCourse c0 0 0 { head := List.replicate 128 0 } false) [.loadCourse c0 0 0 {} false,
      .loadCourse c0 (2 ^ 64) 0 { head := List.replicate 128 0 } false,
      .loadCourse c0 0 (2 ^ 64) { head := List.replicate 128 0 } false] ∧
    refuses (.loadSupplement c0 0 0 { head := List.replicate 64 0 } false) [.loadSupplement c0 0 0 {} false,
      .loadSupplement c0 0 (2 ^ 32) { head := List.replicate 64 0 } false] ∧
    refuses (.openWindow c0 ⟨95, 63, 3, 2047, 2047, 1023, 0⟩) [.openWindow c0 ⟨96, 0, 0, 0, 0, 0, 0⟩,
      .openWindow c0 ⟨0, 64, 0, 0, 0, 0, 0⟩, .openWindow c0 ⟨0, 0, 4, 0, 0, 0, 0⟩, .openWindow c0 ⟨0, 0, 0, 2048, 0, 0, 0⟩,
      .openWindow c0 ⟨0, 0, 0, 0, 2048, 0, 0⟩, .openWindow c0 ⟨0, 0, 0, 0, 0, 1024, 0⟩,
      .openWindow c0 ⟨0, 0, 0, 0, 0, 0, 2 ^ 32⟩] ∧
    refuses (.closeWindow c0 0 63) [.closeWindow c0 96 0, .closeWindow c0 0 64, .closeWindowDone c0 0 64] ∧
    refuses (.run c0) [.run ⟨64, 0⟩, .halt ⟨64, 0⟩, .endJob ⟨64, 0⟩, .selftestModule ⟨64, 0⟩] ∧
    refuses (.copy c0 ⟨0, 0, 0, 0, 0, 0, 0, 0⟩ {}) [.copy c0 ⟨2 ^ 64, 0, 0, 0, 0, 0, 0, 0⟩ {},
      .copy c0 ⟨0, 2 ^ 64, 0, 0, 0, 0, 0, 0⟩ {}, .copy c0 ⟨0, 0, 2 ^ 64, 0, 0, 0, 0, 0⟩ {},
      .copy c0 ⟨0, 0, 0, 256, 0, 0, 0, 0⟩ {}, .copy c0 ⟨0, 0, 0, 0, 256, 0, 0, 0⟩ {},
      .copy c0 ⟨0, 0, 0, 0, 0, 256, 0, 0⟩ {}, .copy c0 ⟨0, 0, 0, 0, 0, 0, 2 ^ 128, 0⟩ {},
      .copy c0 ⟨0, 0, 0, 0, 0, 0, 0, 2 ^ 32⟩ {}] ∧
    refuses (.provisionKey c0 0 0 0 0 {}) [.provisionKey c0 0 (2 ^ 32) 0 0 {}, .provisionKey c0 0 0 256 0 {},
      .provisionKey c0 0 0 0 256 {}] ∧
    refuses (.snapshot c0 0 0 0 0 false 0) [.snapshot c0 (2 ^ 64) 0 0 0 false 0, .snapshot c0 0 (2 ^ 64) 0 0 false 0,
      .snapshot c0 0 0 256 0 false 0, .snapshot c0 0 0 0 256 false 0, .snapshot c0 0 0 0 0 false 65536] ∧
    refuses (.snapshotChunkRead 15 65535) [.snapshotChunkRead 16 0, .snapshotChunkRead 0 65536] ∧
    refuses (.dumpTake c0 0) [.dumpTake c0 (2 ^ 64), .dumpCopyLast c0 (2 ^ 64)] ∧
    refuses (.selftestUnit c0 1 0) [.selftestUnit c0 256 0, .selftestUnit c0 1 65536] ∧
    refuses (.setWatch c0 0 {} 1) [.setWatch c0 256 {} 1, .setWatch c0 0 { nfAction := 256 } 1,
      .setWatch c0 0 { spikeAction := 256 } 1, .setWatch c0 0 { k := 256 } 1, .setWatch c0 0 { a := 256 } 1,
      .setWatch c0 0 { warmup := 256 } 1, .setWatch c0 0 {} 256] ∧
    refuses (.armOffload c0 0 0 0) [.armOffload c0 256 0 0, .armOffload c0 0 (2 ^ 64) 0, .armOffload c0 0 0 (2 ^ 64)] ∧
    refuses (.linkDisable c0 0) [.linkDisable c0 256, .linkEnable c0 256, .linkRetrain c0 256, .linkStatus c0 256,
      .linkLoopback c0 256] := by decide +kernel

theorem test_wf_host_port :
    refuses (.sqEntryTake 63 (List.replicate 64 0)) [.sqEntryTake 64 (List.replicate 64 0), .sqEntryTake 0 []] ∧
    refuses (.cmdSqTail 63 0) [.cmdSqTail 64 0, .cmdSqTail 0 (2 ^ 32), .cmdCqHead 64 0, .cmdCqHead 0 (2 ^ 32),
      .cmdEvtHead (2 ^ 32), .warmReset (2 ^ 32), .qpEnable 64, .qpDisable 64] ∧
    refuses (.registerWrite 4 4 0 false) [.registerWrite 0 2 0 false, .registerWrite 2 4 0 false,
      .registerWrite (2 ^ 26) 4 0 false, .registerWrite 0 4 (2 ^ 32) false] ∧
    refuses (.rcRead 8 8) [.rcRead 4 8, .rcRead 0 1, .rcRead (2 ^ 26) 4] ∧
    refuses (.bar2Read (2 ^ 38 - 1) 1) [.bar2Read (2 ^ 38 - 1) 2, .bar2Read (2 ^ 38) 0,
      .bar2Write (2 ^ 38 - 1) [0, 0] false, .bar2Write (2 ^ 38) [] false] ∧
    refuses (.msiXSend 2047) [.msiXSend 2048] ∧ refuses (.pcieLinkUp 6 16 true) [.pcieLinkUp 8 16 true, .pcieLinkUp 6 32 true] := by
  decide

theorem test_wf_stations :
    refuses (.send 767 .inner 3 .outer 3) [.send 768 .inner 0 .outer 0, .send 0 .inner 4 .outer 0, .send 0 .inner 0 .outer 4] ∧
    refuses (.free 0 15 15) [.free 768 0 0, .free 0 16 0, .free 0 0 16] ∧
    refuses (.nop 0) [.nop 768, .moveUnitStart 768, .stationHalt 768, .eclipseEnter 768, .sendQueuedStart 768 .inner] ∧
    refuses (.mset 0 1 { pass := .single, srcCol := .inner, srcRow := .outer }) [
      .mset 0 2 { pass := .single, srcCol := .inner, srcRow := .outer },
      .mset 0 0 { pass := .single, srcCol := .inner, srcRow := .outer, fmtCol := 16 },
      .mset 0 0 { pass := .single, srcCol := .inner, srcRow := .outer, fmtRow := 16 },
      .mset 0 0 { pass := .single, srcCol := .inner, srcRow := .outer, strideRow := 32 },
      .mset 0 0 { pass := .single, srcCol := .inner, srcRow := .outer, blkQ := 16 }] ∧
    refuses (.mac 0 0 { acc := 1, bufCol := 3, bufRow := 3 }) [.mac 0 2 {}, .mac 0 0 { acc := 2 }, .mac 0 0 { bufCol := 4 },
      .mac 0 0 { bufRow := 4 }] ∧
    refuses (.drain 0 0 { dest := 3 }) [.drain 0 2 {}, .drain 0 0 { acc := 2 }, .drain 0 0 { dest := 4 },
      .drain 0 0 { addr := 32 }, .drain 0 0 { buf := 4 }, .drain 0 0 { fmtOut := 16 }, .drain 0 0 { group := 64 },
      .drainComplete 0 2, .rowSweep 768 0] ∧
    refuses (.mask 0 0 2 31) [.mask 0 0 3 0, .mask 0 0 0 32] ∧
    refuses (.hdrld 0 31 .inner 3 7) [.hdrld 0 32 .inner 0 0, .hdrld 0 0 .inner 4 0, .hdrld 0 0 .inner 0 8] ∧
    refuses (.ld 0 0 0 (-131072)) [.ld 0 32 0 0, .ld 0 0 0 131072, .ld 0 0 0 (-131073), .st 0 0 0 131072, .st 0 0 32 0] ∧
    refuses (.move 0 ⟨some (.inner, 3), 1, 2, 3⟩) [.move 0 ⟨some (.inner, 4), 1, 2, 3⟩, .move 0 ⟨none, 32, 2, 3⟩] ∧
    refuses (.cvt 0 ⟨1, 2, 3, 0, false, 1, false, false, false⟩) [.cvt 0 ⟨1, 2, 32, 0, false, 1, false, false, false⟩,
      .cvt 0 ⟨1, 2, 3, 16, false, 1, false, false, false⟩, .cvt 0 ⟨1, 2, 3, 0, false, 16, false, false, false⟩] ∧
    refuses (.strm 0 3 1 2) [.strm 0 4 1 2, .strm 0 0 32 2, .rearm 0 4 1, .rearm 0 0 32, .seed 0 32, .seed 768 0] := by
  decide

theorem test_wf_scalar :
    refuses (.add 0 31 31 31) [.add 768 0 0 0, .add 0 32 0 0, .sub 0 0 32 0, .and 0 0 0 32, .or 0 32 0 0, .xor 0 32 0 0,
      .sll 0 32 0 0, .srl 0 32 0 0, .sra 0 32 0 0, .mul 0 32 0 0] ∧
    refuses (.addi 0 1 1 (-67108864)) [.addi 0 1 1 67108864, .addi 0 1 1 (-67108865), .addi 0 32 1 0] ∧
    refuses (.li 0 1 (-2147483648)) [.li 0 1 2147483648, .li 0 32 0] ∧ refuses (.lih 0 1 4294967295) [.lih 0 1 4294967296] ∧
    refuses (.cmp 0 7 31 31 5) [.cmp 0 8 0 0 0, .cmp 0 0 32 0 0, .cmp 0 0 0 0 6] ∧
    refuses (.plog 0 7 7 7 3) [.plog 0 8 0 0 0, .plog 0 0 8 0 0, .plog 0 0 0 8 0, .plog 0 0 0 0 4] ∧
    refuses (.br 0 16383) [.br 0 16384] ∧ refuses (.loop 0 3 31 16383) [.loop 0 4 0 0, .loop 0 0 32 0, .loop 0 0 0 16384] ∧
    refuses (.arrive 0 .core 63 1 false) [.arrive 0 .core 64 0 false, .arrive 0 .cluster 256 0 false,
      .arrive 0 .die 1024 0 false, .arrive 0 .module 4096 0 false, .wait 0 .core 0 32 false] ∧
    refuses (.signal 0 31 31 true) [.signal 0 32 0 true, .signal 0 0 32 true] ∧
    refuses (.borrow 0 64 1024) [.borrow 0 0 1, .borrow 0 65 1, .borrow 0 1 0, .borrow 0 1 1025] := by decide

/-- The 256 bytes of a transfer. -/
def row256 : List Byte := List.replicate 256 0

theorem test_wf_ring_and_streams :
    refuses (.batonLanded 0 .inner 3) [.batonLanded 0 .inner 4, .headerTransferArrive 768 .inner, .batonWaitEnd 768 .inner,
      .ringReplayFail 768 .inner] ∧
    refuses (.transferRetransmit 0 .inner 256 8 row256 65535) [.transferRetransmit 0 .inner 257 8 row256 0,
      .transferRetransmit 0 .inner 0 0 row256 0, .transferRetransmit 0 .inner 0 9 row256 0,
      .transferRetransmit 0 .inner 0 1 [] 0, .transferRetransmit 0 .inner 0 1 row256 65536] ∧
    refuses (.fabricRetransmit 9 15 11 true row256 65535) [.fabricRetransmit 10 0 0 true row256 0,
      .fabricRetransmit 0 16 0 true row256 0, .fabricRetransmit 0 0 12 true row256 0, .fabricRetransmit 0 0 0 true [] 0,
      .fabricRetransmit 0 0 0 true row256 65536] ∧
    refuses (.ringFabReplayFail 9 15 11) [.ringFabReplayFail 10 0 0, .ringFabReplayFail 0 16 0, .ringFabReplayFail 0 0 12] ∧
    refuses (.descriptorStart 95 3) [.descriptorStart 96 0, .descriptorStart 0 4, .descriptorBurstFetch 0 4, .lbInject 0 4,
      .descriptorComplete 0 4, .strTimeout 0 4, .strmPendingStart 0 4, .oflHostError 0 4,
      .offloadPrefetchVerify 0 4 []] ∧
    refuses (.winRequestCheck ⟨95, 63, true, 1023, 0, 0, 256, []⟩) [.winRequestCheck ⟨96, 0, true, 0, 0, 0, 0, []⟩,
      .winRequestCheck ⟨0, 64, true, 0, 0, 0, 0, []⟩, .winRequestCheck ⟨0, 0, true, 1024, 0, 0, 0, []⟩,
      .winRequestCheck ⟨0, 0, true, 0, 2 ^ 32, 0, 0, []⟩, .winRequestCheck ⟨0, 0, true, 0, 0, 0, 257, []⟩] ∧
    refuses (.bankWake 9215) [.bankWake 9216, .bankRetainTimeout 9216] := by decide +kernel

theorem test_wf_hurdles_and_cores :
    refuses (.borrowGrant 95) [.borrowGrant 96, .hurEclipseHeadroom 96, .pwrTokenOver 96, .gcRunEndEcall 96,
      .borrowWindowEnd 96 0, .borrowWindowEnd 0 768] ∧
    refuses (.xharrive 0 31 31) [.xharrive 96 0 0, .xharrive 0 32 0, .xhsignal 0 0 32, .xrearm 0 32 0] ∧
    refuses (.xhwait 0 31 31 31 true) [.xhwait 0 32 0 0 true, .xstrm 0 0 32 0, .xhread 0 32 0, .xhread 0 0 32] ∧
    refuses (.xpld 0 0 0 0 15 false false) [.xpld 0 0 0 0 16 false false, .xpst 0 32 0 0 0 false false false] ∧
    refuses (.invspd 0 4) [.invspd 0 5, .invspd 96 0] ∧ refuses (.gcException 0 2) [.gcException 0 (2 ^ 63)] ∧
    refuses (.hurdleNodeForward 104) [.hurdleNodeForward 105, .hurNetFail 105] ∧
    refuses (.signalNetResend 104 (List.replicate 8 0) 255) [.signalNetResend 105 (List.replicate 8 0) 0,
      .signalNetResend 0 [] 0, .signalNetResend 0 (List.replicate 8 0) 256] ∧
    refuses (.waitRelease (.gc 95)) [.waitRelease (.gc 96), .waitRelease (.station 768), .hurWatchdog (.station 768)] ∧
    refuses (.jobHurdleRootApply 3840) [.jobHurdleRootApply 3839, .jobHurdleRootApply 4096, .jobHurdleValueArrive 3839] ∧
    refuses (.generalCoreLoadStore 0 (.store 1) 0 1) [.generalCoreLoadStore 96 (.store 1) 0 1,
      .generalCoreLoadStore 0 (.store 1) (2 ^ 64) 1, .generalCoreLoadStore 0 (.store 1) 0 0] := by decide

theorem test_wf_memory_and_links :
    refuses (.patrolScrubRead 9) [.patrolScrubRead 10] ∧ refuses (.dramRefresh 47) [.dramRefresh 48] ∧
    refuses (.memRefreshRaised 47 255) [.memRefreshRaised 48 0, .memRefreshRaised 0 256, .refreshRateLowered 0 256] ∧
    refuses (.portUp 15 1023 15) [.portUp 16 0 0, .portUp 0 1024 0, .portUp 0 0 16, .hofTrainFail 16, .portTrainRetry 16,
      .hofPortDown 16, .flitSlot 16] ∧
    refuses (.flitReceive 15 1 0 row256) [.flitReceive 16 0 0 row256, .flitReceive 0 2 0 row256,
      .flitReceive 0 0 (2 ^ 64) row256, .flitReceive 0 0 0 []] ∧
    refuses (.flitResend 0 0 4095) [.flitResend 0 0 4096, .flitResend 0 2 0, .ackTimeout 0 2, .hofRetryExhausted 0 2,
      .controlFlit 16 row256, .controlFlit 0 []] ∧
    refuses (.signalFlit 0 [{}]) [.signalFlit 0 (List.replicate 15 {}), .signalFlit 0 [{ kind := 256 }]] ∧
    refuses (.winWrite 0 {}) [.winWrite 16 {}, .winWrite 0 { mtype := 16 }, .winRead 0 { dst := 1024 },
      .readData 0 { tag := 65536 }, .winReply 0 { target := 2 ^ 64 }, .chunkReply 0 { run := 65536 }] ∧
    refuses (.chunkGrad 15 {}) [.chunkGrad 16 {}, .chunkGather 16 {}, .lossReport 16 {}, .chunkTake 16, .updateGroup 16,
      .chunkApplied 16, .engineFinished 16] := by decide +kernel

theorem test_wf_power_and_management :
    refuses (.rampStep 95) [.rampStep 96, .pacerTargetUpdate 96, .pacTimingFloor 96] ∧
    refuses (.droopStretch 0 3) [.droopStretch 0 0, .droopStretch 0 4] ∧ refuses (.pacThermal 0 255) [.pacThermal 0 256] ∧
    refuses (.pwrSupplyWarn 65535) [.pwrSupplyWarn 65536, .supplyRiseHoldStart 65536, .supplyReset 65536,
      .pwrOvervoltage 65536, .overvoltageShutdown 65536, .regulatorStart 65536, .supplyFallDuringHold 65536] ∧
    refuses (.budgetSample 0 0 0 0 0 0 0 0) [.budgetSample 65536 0 0 0 0 0 0 0, .budgetSample 0 (2 ^ 32) 0 0 0 0 0 0] ∧
    refuses (.thermalTrip 1 255) [.thermalTrip 1 256] ∧ refuses (.memoryTraining [47]) [.memoryTraining [48]] ∧
    refuses (.ctlMoonLockstep 7 1) [.ctlMoonLockstep 8 0, .ctlMoonLockstep 0 2] ∧
    refuses (.pldmSensorUpdate [(1, -5)]) [.pldmSensorUpdate [(65536, 0)]] ∧
    refuses (.entdaa 127) [.entdaa 128, .setdasa 128] ∧ refuses (.setEndpointId 0 255) [.setEndpointId 0 256] ∧
    refuses (.getMctpVersionSupport 255) [.getMctpVersionSupport 256, .setTid 256, .getPldmVersion 0 0 256,
      .getPldmCommands 256 0, .getPdr (2 ^ 32) 0 0 0, .getSensorReading 65536 false, .getStateSensorReadings 65536,
      .getSensorThresholds 65536] ∧
    refuses (.enroll { bytes := List.replicate 96 0 }) [.enroll {}] ∧ refuses (.unlock { bytes := List.replicate 32 0 }) [.unlock {}] ∧
    refuses (.mgtVaultRead 0 0 0) [.mgtVaultRead 0 0 256] := by decide

/-! ## States and operands that meet the hypotheses of the statements -/

/-- The station 0 of cluster 0, issuing, with its pocket's banks ACTIVE. -/
def st0 (t : Station) : State :=
  { stns := [(0, { t with run := .issuing })], bankState := (List.range 8).map (fun b => (b, 1)) }

/-- The same with a cluster 0 of the caller's. -/
def st0c (t : Station) (c : Cluster) : State := { st0 t with clus := [(0, c)] }

theorem wit_EveryStep : Good State.reset ∧ step State.reset = .next State.reset ∧ State.reset.pending = [] ∧
    State.reset.power.fixedOn = false ∧
    ({ State.reset with pending := [.run c0] } : State).pending = Instr.run c0 :: [] := by
  refine ⟨⟨⟨rfl, rfl⟩, by decide⟩, rfl, rfl, rfl, rfl⟩

/-- A module whose fixed domain runs and whose clusters are all retired. -/
def retired : State := { power := { fixedOn := true }, coresEff := (List.range 96).map (fun g => (g, 0)) }

theorem wit_IdleStepTicks : retired.pending = [] ∧ retired.power.fixedOn = true ∧ retired.power.stopped = false ∧
    ∀ g, live retired g = false := by
  refine ⟨rfl, rfl, rfl, fun g => ?_⟩
  by_cases h : g < 96
  · have : ∀ g : Fin 96, live retired g = false := by decide
    exact this ⟨g, h⟩
  · simp [live, h]

theorem wit_ScalarResults : acts (st0 {}) 0 = true ∧ 4294967295 < 2 ^ 32 := by decide

/-- What v is for a condition code, as the statement says it. -/
def condIs (s : State) (a b cond : Nat) (v : Bool) : Prop :=
  (cond = 0 → (v = true ↔ xreg s 0 a = xreg s 0 b)) ∧ (cond = 1 → (v = true ↔ xreg s 0 a ≠ xreg s 0 b)) ∧
  (cond = 2 → (v = true ↔ (xreg s 0 a).toInt < (xreg s 0 b).toInt)) ∧
  (cond = 3 → (v = true ↔ (xreg s 0 b).toInt ≤ (xreg s 0 a).toInt)) ∧
  (cond = 4 → (v = true ↔ (xreg s 0 a).toNat < (xreg s 0 b).toNat)) ∧
  (cond = 5 → (v = true ↔ (xreg s 0 b).toNat ≤ (xreg s 0 a).toNat)) ∧ cond < 6

/-- Registers of −1 and 1: below as signed numbers, above as unsigned ones. -/
def minusOne : State := st0 { x := [(1, -1), (2, 1)] }

theorem wit_PredicateResults : acts minusOne 0 = true ∧ condIs minusOne 1 1 0 true ∧ condIs minusOne 1 2 1 true ∧
    condIs minusOne 1 2 2 true ∧ condIs minusOne 1 2 3 false ∧ condIs minusOne 1 2 4 false ∧
    condIs minusOne 1 2 5 true := by
  refine ⟨by decide, ?_, ?_, ?_, ?_, ?_, ?_⟩ <;> unfold condIs <;> decide

/-- Stride 3 ends the loops of the list. -/
def looping (l : List (Nat × Nat × Nat)) : State := st0 { pc := 3, loops := l, lc := [(0, 1), (1, 5)], x := [(1, 2)] }

theorem wit_BranchesAndLoops : acts (looping []) 0 = true ∧ NoLoopEnds (looping [(0, 1, 4)]) 0 ∧
    (stn (looping [(0, 1, 3), (1, 0, 9)]) 0).loops = (0, 1, (stn (looping [(0, 1, 3), (1, 0, 9)]) 0).pc) :: [(1, 0, 9)] ∧
    (∀ l ∈ [(1, 0, 9)], l.2.2 ≠ (stn (looping [(0, 1, 3), (1, 0, 9)]) 0).pc) ∧
    ((stn (looping [(0, 1, 3), (1, 0, 9)]) 0).lc.get 0 0 - 1 = 0) ∧
    ((stn (looping [(1, 1, 3)]) 0).lc.get 0 1 - 1 ≠ 0) ∧ (xreg (looping []) 0 1).setWidth 32 ≠ (0 : W32) ∧
    (xreg (looping []) 0 0).setWidth 32 = (0 : W32) := by decide

/-- Two results that are due in cycle 5, of registers 3 and 4. -/
def twoDue : List Timed := [⟨5, 4, true, .reg 0 3 7⟩, ⟨5, 4, true, .reg 0 4 9⟩]

theorem wit_ScalarEffectsLand :
    (clu (st0c {} { cyc := 5, timed := twoDue }) (cluOf 0)).timed.filter
      (fun t => decide (t.due ≤ cycOf (st0c {} { cyc := 5, timed := twoDue }) 0)) =
        [] ++ (⟨5, 4, true, .reg 0 3 7⟩ : Timed) :: [⟨5, 4, true, .reg 0 4 9⟩] ∧
    (∀ x ∈ twoDue, ∃ r' v', x.eff = .reg 0 r' v') ∧
    (∀ x ∈ [(⟨5, 4, true, .reg 0 4 9⟩ : Timed)], ∀ v', x.eff ≠ .reg 0 3 v') ∧ (3 : Nat) ≠ 0 ∧
    (∀ x ∈ twoDue, ∀ v', x.eff ≠ .reg 0 6 v') := by
  refine ⟨by decide, ?_, ?_, by decide, ?_⟩ <;> simp [twoDue]

/-- Registers at the edges of the pocket: its first byte, its last whole word and its end; x4 is 1 tile, x6 is 2 tiles in
group 5, x7 the second tile. -/
def edges : State := st0 { x := [(1, 0x80000), (2, 0x3FFFF8), (3, 0x400000), (4, 1), (5, 0x100), (6, 2 + 2 ^ 32 + 5 * 2 ^ 33),
  (7, 0x90000)] }

theorem wit_LoadsAndStores : acts edges 0 = true ∧ edges.cwErr = [] ∧
    ((xreg edges 0 1).toNat < 0x400000 ∧ 0x80000 % 8 = 0 ∧ 0x80000 ≤ 0x80000 ∧ 0x80000 + 8 ≤ 0x400000 ∧
      ((0x80000 : Nat) : Int) ≤ (xreg edges 0 1).toNat + (7 : Int) ∧
      ((xreg edges 0 1).toNat : Int) + 7 < ((0x80000 : Nat) : Int) + 8 ∧ pocketOk edges 0 0x80000 8 = true) ∧
    ((xreg edges 0 2).toNat < 0x400000 ∧ 0x3FFFF8 % 8 = 0 ∧ 0x3FFFF8 + 8 ≤ 0x400000 ∧
      ((0x3FFFF8 : Nat) : Int) ≤ (xreg edges 0 2).toNat + (0 : Int) ∧
      ((xreg edges 0 2).toNat : Int) + 0 < ((0x3FFFF8 : Nat) : Int) + 8 ∧ pocketOk edges 0 0x3FFFF8 8 = true) ∧
    0x400000 ≤ (xreg edges 0 3).toNat ∧ ((xreg edges 0 1).toNat : Int) + (-1) < 0x80000 ∧
    (0x400000 : Int) ≤ ((xreg edges 0 2).toNat : Int) + 8 := by decide

/-- An operation of the move unit that has written its last unit, and one that waits. -/
def moving : State := st0c { mv := some { op := .move none 0x80000 0x90000 1, start := 2, done := 1 }
                             mvWait := some (.move none 0x80000 0x90000 2) } { cyc := 5 }

theorem wit_MovesStart : (stn edges 0).mv = none ∧ (stn edges 0).mvWait = none ∧
    0x80000 = (xreg edges 0 1).toNat / 256 * 256 ∧ 0x90000 = (xreg edges 0 7).toNat / 256 * 256 ∧
    1 = (xreg edges 0 5).toNat % 2 ^ 32 / 256 ∧ pocketOk edges 0 0x80000 (256 * 1) = true ∧
    pocketOk edges 0 0x90000 (256 * 1) = true ∧ 0x400000 ≤ (xreg edges 0 3).toNat ∧
    (stn moving 0).mvWait = some (.move none 0x80000 0x90000 2) ∧
    (stn moving 0).mv = some { op := .move none 0x80000 0x90000 1, start := 2, done := 1 } ∧
    1 = unitsOf (.move none 0x80000 0x90000 1) ∧ 2 + unitsOf (.move none 0x80000 0x90000 1) + 2 ≤ cycOf moving 0 + 0 := by
  decide

/-- A CVT of 2 tiles from BF16 to E4M3 at the start of the pocket. -/
def cvt2 : CvtF := { dst := 1, src := 7, count := 6, fmtIn := 1, fmtOut := 3 }

theorem wit_ConversionsStart : tileOk cvt2.fmtIn cvt2.scaledIn = true ∧ tileOk cvt2.fmtOut cvt2.scaledOut = true ∧
    0x80000 = (xreg edges 0 cvt2.dst).toNat / 256 * 256 ∧ 0x90000 = (xreg edges 0 cvt2.src).toNat / 256 * 256 ∧
    2 = (xreg edges 0 cvt2.count).toNat % 2 ^ 32 ∧ 0x80000 + 2 * storedBytes cvt2.fmtOut cvt2.scaledOut ≤ 0x400000 ∧
    0x90000 + 2 * storedBytes cvt2.fmtIn cvt2.scaledIn ≤ 0x400000 ∧
    pocketOk edges 0 0x80000 (2 * storedBytes cvt2.fmtOut cvt2.scaledOut) = true ∧
    pocketOk edges 0 0x90000 (2 * storedBytes cvt2.fmtIn cvt2.scaledIn) = true ∧
    bitOf (xreg edges 0 cvt2.count).toNat 32 = true ∧ bits (xreg edges 0 cvt2.count).toNat 38 33 = 5 := by decide

/-- Inner landing buffer 0 of station 0 in a state, with a baton of so many hops; the ring is cluster 0 of die 0. -/
def sending (st : LbState) (hops idle : Nat) : State :=
  { (st0 { lbs := [(0, { state := st, baton := { hdr := { hops := hops } } })], ports := [(1, { idleAt := idle })] }) with
    coresEff := (List.range 96).map (fun g => (g, if g = 0 then 8 else 0)) }

theorem wit_SendBySource : acts (sending .held 3 0) 0 = true ∧ (lb (sending .held 3 0) 0 .inner 0).state = .held ∧
    (lb (sending .held 3 0) 0 .inner 0).baton.hdr.hops ≠ 0 ∧ (port (sending .held 3 0) 0 .outer).wait = none ∧
    portBusy (sending .held 3 0) 0 .outer = false ∧ neighbour (sending .held 3 0) 0 .outer = some 1 := by decide +kernel

theorem wit_SendsThatStay : (lb (sending .held 0 0) 0 .inner 0).baton.hdr.hops = 0 ∧
    portBusy (sending .held 0 0) 0 .outer = false ∧ (lb (sending .heldBad 1 0) 0 .inner 0).state = .heldBad ∧
    (lb (sending .landing 1 0) 0 .inner 0).state = .landing ∧ (port (sending .landing 1 0) 0 .outer).wait = none ∧
    portBusy (sending .held 1 1) 0 .outer = true ∧ (lb (sending .free 1 0) 0 .inner 0).state = .free := by decide +kernel

/-- A SEND that waits at the outer port of station 0. -/
def queued : State := updPort (sending .held 1 0) 0 .outer (fun p => { p with wait := some ⟨.inner, 0, 3⟩ })

theorem wit_SendsWait : (port queued 0 .outer).wait = some ⟨.inner, 0, 3⟩ ∧ portBusy queued 0 .outer = false ∧
    lbState (stn queued 0) .inner 0 = .held ∧ (lb queued 0 .inner 0).state = .held ∧
    (lb queued 0 .inner 0).baton.hdr.hops ≠ 0 ∧ neighbour queued 0 .outer = some 1 := by decide +kernel

/-- A baton on the inner hop into station 0, bound for buffer 3. -/
def fly (w l : Bool) (fails : Nat) : Flight := { baton := {}, dst := 3, sender := 1, waiting := w, landing := l, fails := fails }

/-- That baton, with the landing buffer 3 in a state. -/
def arriving (f : Flight) (st : LbState) : State := st0 { hops := [(0, [f])], lbs := [(3, { state := st })] }

theorem wit_BatonsArrive : hop (arriving (fly false false 0) .free) 0 .inner = fly false false 0 :: [] ∧
    (stn (arriving (fly false false 0) .free) 0).stopped.get false Lane.inner.code = false ∧
    (fly false false 0).due ≤ cycOf (arriving (fly false false 0) .free) 0 ∧
    allFree (arriving (fly false false 0) .free) 0 .inner 3 1 = true ∧
    (lb (arriving (fly false false 0) .free) 0 .inner 3).readUntil ≤ cycOf (arriving (fly false false 0) .free) 0 ∧
    allFree (arriving (fly false false 0) .held) 0 .inner 3 1 = false ∧
    hop (arriving (fly true false 0) .free) 0 .inner = fly true false 0 :: [] ∧
    allFree (arriving (fly true false 0) .free) 0 .inner 3 1 = true := by decide

theorem wit_BatonsHaveLanded : 3 < 4 ∧ (lb (arriving (fly false true 0) .landing) 0 .inner 3).state = .landing ∧
    (lb (arriving (fly false true 0) .landing) 0 .inner 3).doneAt = none ∧
    hop (arriving (fly false true 0) .landing) 0 .inner = fly false true 0 :: [] ∧ (fly false true 0).landing = true := by
  decide

/-- A header sealed with its own CRC. -/
def sealedHdr (h : Header) : Baton := { hdr := { h with hdrCrc := hdrCrcOf h }, transfers := 129, buffers := 2 }

theorem wit_LandingChecks : hdrCrcOf ({ hdrCrc := 1 } : Header) ≠ 1 ∧
    hdrCrcOf (sealedHdr { job := 2 }).hdr = (sealedHdr { job := 2 }).hdr.hdrCrc ∧ (sealedHdr { job := 2 }).hdr.job ≠ 1 ∧
    hdrCrcOf (sealedHdr { fmt := 9 }).hdr = (sealedHdr { fmt := 9 }).hdr.hdrCrc ∧ tileOk 9 false = false ∧
    hdrCrcOf (sealedHdr { fmt := 1, kind := 1 }).hdr = (sealedHdr { fmt := 1, kind := 1 }).hdr.hdrCrc ∧
    tileOk 1 false = true ∧ lengthOk (sealedHdr { fmt := 1, kind := 1 }) = true := by decide +kernel

theorem wit_RetransmissionsAndStoppedHops : hop (arriving (fly false false 8) .free) 0 .inner = fly false false 8 :: [] ∧
    0 < 1 ∧ 8 ≤ 8 ∧ (stn (arriving (fly false false 8) .free) 0).stopped.get false Lane.inner.code = false ∧
    8 ≤ (fly false false 8).fails ∧ (fly false false 8).dst < 4 ∧ 9 < 10 ∧
    8 ≤ ({ fabFails := [(9, 8)], jobState := 3 } : State).fabFails.get 0 9 ∧
    ({ fabFails := [(9, 8)], jobState := 3 } : State).fabStopped.get false 9 = false := by decide

/-- Array 0 of station 0, with landing buffers by key and a list of drains. -/
def arrs0 (x : Arr) (lbs : Table LBuf) : State := { (st0 { lbs := lbs, x := [(1, 0x80000), (2, 0x3FFF00)] }) with arrs := [(0, x)] }

/-- A product of both lanes. -/
def lanes : MsetF := { pass := .single, srcCol := .inner, srcRow := .outer }

/-- A product of the pocket, of formats by code. -/
def pockets (f g : Nat) : MsetF := { pass := .single, srcCol := .pocket, srcRow := .pocket, fmtCol := f, fmtRow := g, baseCol := 1, baseRow := 1 }

/-- The configuration of an MSET, all addresses 0. -/
def cfgOf (f : MsetF) (bad : Bool) : ArrCfg := { f := f, colAddr := 0, rowAddr := 0, strideCol := 0, strideRow := 0, bad := bad }

theorem wit_SetupAndMasks : acts (arrs0 {} []) 0 = true ∧ 1 < 2 ∧ 2 ≤ 2 ∧
    (true = true ↔ ((pockets 9 1).srcCol = .pocket ∧ tileOk (pockets 9 1).fmtCol (pockets 9 1).scaledCol = false) ∨
      ((pockets 9 1).srcRow = .pocket ∧ tileOk (pockets 9 1).fmtRow (pockets 9 1).scaledRow = false)) ∧
    (false = true ↔ ((pockets 1 1).srcCol = .pocket ∧ tileOk (pockets 1 1).fmtCol (pockets 1 1).scaledCol = false) ∨
      ((pockets 1 1).srcRow = .pocket ∧ tileOk (pockets 1 1).fmtRow (pockets 1 1).scaledRow = false)) ∧
    baseOk (arrs0 {} []) 0 .pocket 1 false 1 false = true ∧ baseOk (arrs0 {} []) 0 .pocket 1 false 2 false = false ∧
    baseOk (arrs0 {} []) 0 .pocket 1 false 0 false = false := by decide

/-- An accumulator 0 that drains to the pocket since cycle 0. -/
def drainer : DrainRun := { f := { fmtOut := 1 }, start := 0 }

theorem wit_MacRefused : (arr (arrs0 {} []) 0 0).cfg = none ∧
    (arr (arrs0 { cfg := some (cfgOf lanes true) } []) 0 0).cfg = some (cfgOf lanes true) ∧ (cfgOf lanes true).bad = true ∧
    (arr (arrs0 { cfg := some (cfgOf lanes false), drains := [drainer] } []) 0 0).cfg = some (cfgOf lanes false) ∧
    (0 ∈ targets lanes {}) ∧
    drainingAcc (arr (arrs0 { cfg := some (cfgOf lanes false), drains := [drainer] } []) 0 0) 0
      (cycOf (arrs0 { cfg := some (cfgOf lanes false), drains := [drainer] } []) 0) = true ∧
    (∀ i ∈ targets lanes {}, drainingAcc (arr (arrs0 { cfg := some (cfgOf lanes false) } []) 0 0) i 0 = false) ∧
    lanes.srcCol = .inner ∧ lbState (stn (arrs0 { cfg := some (cfgOf lanes false) } []) 0) .inner 0 = .free := by decide

/-- Both lanes hold an INT8 tile of ones. -/
def tiles : Table LBuf := [(0, { state := .held, baton := { hdr := { fmt := 8 }, body := [(0, 3)] } }),
  (4, { state := .held, baton := { hdr := { fmt := 8 }, body := [(0, 2)] } })]

/-- A MAC that performs. -/
def product : State := arrs0 { cfg := some (cfgOf lanes false) } tiles

theorem wit_MacPerforms : acts product 0 = true ∧ (arr product 0 0).cfg = some (cfgOf lanes false) ∧
    (∀ i ∈ targets lanes {}, drainingAcc (arr product 0 0) i (cycOf product 0) = false) ∧
    feedFmt product 0 lanes.srcCol 0 0 false = some (.int8, false) ∧
    feedFmt product 0 lanes.srcRow 0 0 false = some (.int8, false) ∧
    productCls .single .int8 false .int8 false = some .int ∧ (arr product 0 0).k = 0 ∧ (arr product 0 0).sub = 0 ∧
    (lb product 0 .inner 0).state ≠ .heldBad ∧ (lb product 0 .outer 0).state ≠ .heldBad ∧
    product.wireFault.get false (arrLoc product 0 0) = false ∧
    (arr (macCost product 0 0 {}) 0 0).cfg = some (cfgOf lanes false) := by decide

theorem wit_MacFeeds : ∃ o q, feed (macCost product 0 0 {}) 0 .single .inner 0 .int8 false false 0 true
      ((List.range (kWidth .int)).map ((arr product 0 0).k + ·)) = (macCost product 0 0 {}, .ok o) ∧
    feed (macCost product 0 0 {}) 0 .single .outer 0 .int8 false false 0 false
      ((List.range (kWidth .int)).map ((arr product 0 0).k + ·)) = (macCost product 0 0 {}, .ok q) := by
  exact ⟨_, _, rfl, rfl⟩

/-- The outer buffer 3 holds a partial sum. -/
def partialSum : Table LBuf := [(7, { state := .held, baton := { hdr := { kind := 1, fmt := 1 } } })]

/-- An accumulator whose last MAC was in cycle 4, in cycle 10. -/
def settledArr : State := { (arrs0 { accs := [(0, { lastMac := some 4 })] } partialSum) with clus := [(0, { cyc := 10 })] }

/-- The same with the pocket full of the registers' addresses. -/
def settledAt : State := { settledArr with
  stns := [(0, { run := .issuing, lbs := partialSum, x := [(1, 0x80000), (2, 0x3F8000), (3, 0x400000)] })] }

theorem wit_DrainStarts : acts settledAt 0 = true ∧ drainingArr (arr settledAt 0 0) (cycOf settledAt 0) = false ∧
    (accOf (arr settledAt 0 0) 0).lastMac = some 4 ∧ 4 + 6 ≤ cycOf settledAt 0 ∧ tileOk 1 false = true ∧
    tileOk 9 false = false ∧
    pocketOperand (xreg settledAt 0 2) 256 (1 * storedBytes 1 false) = some 0x3F8000 ∧
    pocketOk settledAt 0 0x3F8000 (1 * storedBytes 1 false) = true ∧ drainBuf settledAt 0 .outer 3 = true ∧
    drainBuf settledAt 0 .outer 2 = false ∧ 0x400000 ≤ (xreg settledAt 0 3).toNat := by decide

/-- A complex product whose drain goes to the outer buffers 0 and 2. -/
def complexDrain : State := { (arrs0 { cfg := some (cfgOf { lanes with pass := .cplx4 } false) }
  [(4, { state := .held, baton := { hdr := { kind := 1, fmt := 1 } } }), (6, { state := .held, baton := { hdr := { kind := 1, fmt := 1 } } })]) with
  freeCtr := 0 }

theorem wit_ComplexDrainStarts : drainingArr (arr complexDrain 0 0) (cycOf complexDrain 0) = false ∧
    isComplex Pass.cplx4 = true ∧ (accOf (arr complexDrain 0 0) 0).lastMac = none ∧
    (accOf (arr complexDrain 0 0) 1).lastMac = none ∧ drainBuf complexDrain 0 .outer 0 = true ∧
    (lb complexDrain 0 .outer 0).baton.hdr.fmt = 1 ∧ drainBuf complexDrain 0 .outer 2 = true := by decide

/-- A drain whose 128 rows are written, in cycle 130. -/
def drained : State := { (arrs0 { drains := [{ drainer with row := 128 }] } []) with clus := [(0, { cyc := 130 })] }

theorem wit_DrainsEnd : (arr drained 0 0).drains = { drainer with row := 128 } :: [] ∧
    drainLen { drainer with row := 128 } ≤ 128 ∧ 0 + drainLen { drainer with row := 128 } + 2 ≤ cycOf drained 0 ∧
    (∀ x ∈ ({ drainer with row := 128 } : DrainRun).snap, (128 : Nat) < 0) ∧
    drainingArr (arr { drained with clus := [] } 0 0) (cycOf { drained with clus := [] } 0) = true ∧
    acts { drained with clus := [] } 0 = true := by decide

/-- Integer accumulators: 0 drains, 1 has a row 0 whose sum does not agree with its checksum. -/
def sweeping (xi : Int) (ds : List DrainRun) : State :=
  arrs0 { accs := [(0, { isInt := true }), (1, { isInt := true, cells := [(0, 5)], xiCol := [(0, xi)] })], drains := ds } []

theorem wit_SweepsCheck : present (sweeping 5 []) 0 = true ∧ chkEnable (sweeping 5 []) = true ∧
    (∀ i, i < 2 → drainingAcc (arr (sweeping 5 []) 0 0) i (cycOf (sweeping 5 []) 0) = false ∧
      compare (accOf (arr (sweeping 5 []) 0 0) i) (rowCells (accOf (arr (sweeping 5 []) 0 0) i).sweep)
        ((accOf (arr (sweeping 5 []) 0 0) i).xiCol.get 0 (accOf (arr (sweeping 5 []) 0 0) i).sweep)
        ((accOf (arr (sweeping 5 []) 0 0) i).alCol.get 0 (accOf (arr (sweeping 5 []) 0 0) i).sweep) = .ok) ∧
    drainingAcc (arr (sweeping 6 [drainer]) 0 0) 0 (cycOf (sweeping 6 [drainer]) 0) = true ∧
    drainingAcc (arr (sweeping 6 [drainer]) 0 0) 1 (cycOf (sweeping 6 [drainer]) 0) = false ∧
    (accOf (arr (sweeping 6 [drainer]) 0 0) 1).rowRaised = false ∧
    compare (accOf (arr (sweeping 6 [drainer]) 0 0) 1) (rowCells 0) 6 0 = .bad ∧
    (∀ i, i < 2 → drainingAcc (arr (sweeping 6 [drainer, { drainer with f := { acc := 1 } }]) 0 0) i
      (cycOf (sweeping 6 [drainer]) 0) = true) := by decide +kernel

/-- Engine 0 of cluster 0, bound to core 0 of it, with registers for a list of 2 at the pocket's data banks. -/
def engine0 (x : Engine) : State :=
  { (st0 { x := [(1, 0x40800080000), (2, 2), (3, 0x100000)] }) with engines := [(0, { x with bound := some (.core 0) })] }

/-- The parked descriptor. -/
def parkedD : Desc := { addr := 0x40800080000, w0 := 0x100, w1 := 0, w2 := 0, w3 := 0 }

theorem wit_StreamRequests : acts (engine0 {}) 0 = true ∧ boundStation (engine0 {}) (cluOf 0) 0 = some 0 ∧
    boundStation (engine0 {}) (cluOf 0) 1 ≠ some 0 ∧ 0x40800080000 = (xreg (engine0 {}) 0 1).toNat % 2 ^ 48 ∧
    2 = (xreg (engine0 {}) 0 2).toNat % 2 ^ 32 ∧ 0 = (xreg (engine0 {}) 0 0).toNat % 2 ^ 32 ∧
    listOk (engine0 {}) (cluOf 0) 0 0x40800080000 = true ∧ listOk (engine0 {}) (cluOf 0) 0 0 = false ∧
    (eng (engine0 {}) 0 0).request = none ∧ (eng (engine0 {}) 0 0).state = .idle ∧
    (eng (engine0 { state := .running, request := some (.rearm 0) }) 0 0).request.isSome = true ∧
    (eng (engine0 { state := .drainWait }) 0 0).state = .drainWait ∧
    (eng (engine0 { state := .running }) 0 0).state = .running ∧
    (eng (engine0 { state := .parked, parked := some parkedD }) 0 0).state = .parked ∧
    (eng (engine0 { state := .parked, parked := some parkedD }) 0 0).parked = some parkedD := by decide

theorem wit_WaitingRequestsStart :
    (eng (engine0 { request := some (.list 0x40800080000 2) }) 0 0).request = some (.list 0x40800080000 2) ∧
    listOk (engine0 { request := some (.list 0x40800080000 2) }) 0 0 0x40800080000 = true ∧
    (eng (engine0 { state := .parked, parked := some parkedD, request := some (.rearm 7) }) 0 0).request = some (.rearm 7) ∧
    (eng (engine0 { request := some (.rearm 7) }) 0 0).state = .idle ∧ (eng (engine0 {}) 0 0).request = none := by decide

/-- A list of 17 descriptors in HBM3E, none fetched. -/
def list17 : Engine := { state := .running, addr := 0, count := 17 }

theorem wit_BurstsFetch : (eng (engine0 list17) 0 0).state = .running ∧
    (eng (engine0 list17) 0 0).nFetched < (eng (engine0 list17) 0 0).count ∧
    16 = min 16 ((eng (engine0 list17) 0 0).count - (eng (engine0 list17) 0 0).nFetched) ∧
    (readMem { engine0 list17 with cwErr := [(0, { pat := [(0, 1), (1, 1), (2, 1), (3, 1)] })] } 0 (32 * 16)).fail.isSome = true := by decide +kernel

/-- A descriptor of 256 bytes from HBM3E address 0 to 256. -/
def copy256 : Desc := { addr := 0x40800080000, w0 := 256 * 65536, w1 := 0, w2 := 256, w3 := 0 }

/-- A descriptor that is a drain point. -/
def drainD : Desc := { copy256 with w0 := 256 * 65536 + 1024 }

/-- An engine that has fetched a descriptor, behind others in flight. -/
def fetched (d : Desc) (l : List DescRun) : State := engine0 { state := .running, count := 1, nFetched := 1, fetched := [d], flight := l }

theorem wit_DescriptorsStart : (eng (fetched copy256 []) 0 0).fetched = copy256 :: [] ∧
    (eng (fetched copy256 []) 0 0).flight.length < 4 ∧ waitsChannel (fetched copy256 []) copy256 = false ∧
    isDrain drainD = true ∧ (eng (fetched drainD [{ d := copy256 }]) 0 0).flight ≠ [] ∧
    (∀ r ∈ (eng (fetched drainD [{ d := copy256 }]) 0 0).flight, isDrain r.d = false ∧ r.status = 0) ∧
    isDrain copy256 = false ∧ descBad (fetched copy256 []) 0 0 copy256 true = none ∧
    descBad (fetched parkedD []) 0 0 parkedD true = some (stInvalid, 0x0401) ∧
    (eng (fetched copy256 (List.replicate 3 { d := copy256 })) 0 0).flight.length < 4 := by decide +kernel

theorem wit_MemoryToMemoryCopies : srcKind copy256 = 0 ∧ dstKind copy256 = 0 ∧ (fetched copy256 []).cwErr = [] ∧
    exchMapped (fetched copy256 []) copy256.w1 (lenOf copy256) = false ∧
    exchMapped (fetched copy256 []) copy256.w2 (lenOf copy256) = false ∧ 255 < lenOf copy256 := by decide

/-- A baton of the pocket into landing buffer 0 of the inner lane. -/
def injectD : Desc := { copy256 with w0 := 256 * 65536 + 16, w2 := 0 }

/-- A descriptor that waits to inject. -/
def injected0 : State := fetched copy256 [{ d := injectD, inject := some {} }]

/-- One whose bytes have arrived, of a status. -/
def atEnd (st : Nat) : State := fetched copy256 [{ d := copy256, status := st }]

theorem wit_InjectionsAndCompletions : (eng injected0 0 0).flight = { d := injectD, inject := some {} } :: [] ∧
    boundStation injected0 0 0 = some 0 ∧ hop injected0 0 .inner = [] ∧ allFree injected0 0 .inner 0 1 = true ∧
    runOverDesc (atEnd 0) 0 0 { d := copy256 } = true ∧ doneOf copy256 = 0 ∧ (atEnd 0).cwErr = [] ∧
    runOverDesc (atEnd 8) 0 0 { d := copy256, status := 8 } = true ∧ dstKind copy256 = 0 ∧
    runOverDesc (atEnd stDead) 0 0 { d := copy256, status := stDead } = true ∧ dstKind { copy256 with w0 := 32 } = 2 ∧ isPersist copy256 = false ∧ isPersist parkedD = true ∧
    0 = ([{ d := copy256, reqs := [(0, 0, 0)] }] : List DescRun).findIdx (fun r => !(r.units.isEmpty && r.reqs.isEmpty)) ∧
    0 = ([{ d := { copy256 with w0 := 2 } }] : List DescRun).findIdx
      (fun r => (srcKind r.d = 2 || dstKind r.d = 2) && r.status = 0) ∧
    verifying [{ d := { copy256 with w0 := 2 }, records := [0] }] = some (0, { copy256 with w0 := 2 }, 0) := by decide

/-- A job of 2 modules, this one and module 5, which port 3 reaches; job hurdle 3840 with its root here or at module 5. -/
def jobOf (root : Nat) : Image :=
  { head := headBytes { job := 7 }, moduleSet := [5], routes := [(5, some 3)], jobHurdles := [3840], root := root
    parents := [⟨5, 0, 2⟩], ceilings := [(0, 10)], shares := [(0, 4)] }

/-- Station 0 of module 9 in a RUN of that job: x1 a cluster counter of this module, x2 a counter of module 5, x3 a bad
address, x4 the value 1. -/
def inRun (t : Station) : State :=
  { (st0 { t with x := [(1, 0x80010001), (2, 0x00170001), (3, 0x80018000), (4, 1)] }) with
    moduleId := 9, course := some (jobOf 9), jobState := 3, runNo := 2, modCtr := [(7, 0)] }

theorem wit_HurdleOperations : acts (inRun {}) 0 = true ∧ (stn (inRun {}) 0).haltNext = false ∧ (1 : W32) ≠ 0 ∧
    (xreg (inRun {}) 0 4).setWidth 32 ≠ (0 : W32) ∧
    satisfied (ctrVal (inRun {}) (ctrOf 0 .module 7)) ((xreg (inRun {}) 0 0).setWidth 32) = true ∧
    satisfied (ctrVal (inRun {}) (ctrOf 0 .module 7)) ((xreg (inRun {}) 0 4).setWidth 32) = false ∧
    registers (ctrOf 0 .module 7) = true ∧ registers (ctrOf 0 .core 7) = false ∧
    satisfied (ctrVal (inRun {}) (ctrOf 0 .core 63)) ((xreg (inRun {}) 0 4).setWidth 32) = false ∧
    0x80010001 = (xreg (inRun {}) 0 1).toNat % 2 ^ 32 ∧ addrBad (inRun {}) 0x80010001 = false ∧
    addrModule (inRun {}) 0x80010001 = (inRun {}).moduleId ∧ addrBad (inRun {}) 0x00170001 = false ∧
    addrModule (inRun {}) 0x00170001 ≠ (inRun {}).moduleId ∧
    routeOf (inRun {}) (addrModule (inRun {}) 0x00170001) = some 3 ∧ addrBad (inRun {}) 0x80018000 = true ∧
    acts (inRun { haltNext := true }) 0 = true ∧ (stn (inRun { haltNext := true }) 0).haltNext = true := by decide

theorem wit_WaitWraps : 2 ^ 31 - 1 < 2 ^ 31 ∧ 0 < 2 ^ 31 := by decide

/-- Station 0 waits to borrow 3 tokens; station 1 has lent some, with a loan whose window ends in a cycle. -/
def borrowing (lent fin : Nat) : State :=
  { stns := [(0, { run := .waiting, pend := some (.borrow 3 2) }), (1, { run := .waiting, eclipse := true, lent := lent })]
    clus := [(0, { cyc := 4, borrowQ := [(1, 0, 3, 2)], loans := [⟨2, 1, fin, [(1, 1)]⟩] })] }

theorem wit_BorrowsAndLoans :
    (clu (borrowing 4 9) 0).borrowQ.filter (fun e => borrows (borrowing 4 9) e.2.1) = (1, 0, 3, 2) :: [] ∧
    3 ≤ poolLeft (borrowing 4 9) 0 ∧ poolLeft (borrowing 3 9) 0 < 3 ∧
    (⟨2, 1, 4, [(1, 1)]⟩ : Loan) ∈ (clu (borrowing 4 4) 0).loans ∧ (4 : Nat) ≤ (clu (borrowing 4 4) 0).cyc ∧
    (stationsOf (borrowing 4 4) 0).all (fun m => !((stn (borrowing 4 4) m).run = .waiting && (stn (borrowing 4 4) m).released))
      = true := by decide

/-- A station at a long-hint WAIT; a cluster of one core in eclipse; a cluster at its ceiling of 10 tokens or above it. -/
def atWait : State := { stns := [(0, { run := .waiting, pend := some (.wait (.core 0 1) 1 true) })], course := some (jobOf 9) }

/-- Cluster 0 has one station, which is in eclipse. -/
def eclipsed (low : Bool) : State :=
  { stns := [(0, { run := .waiting, eclipse := true })], coresEff := [(0, 1)], clus := [(0, { lowered := low })] }

/-- Cluster 0 has spent tokens in the cycle. -/
def spent (tok : Nat) : State := { clus := [(0, { tok := tok })], course := some (jobOf 9) }

theorem wit_EclipseAndCeiling : (stn atWait 0).run = .waiting ∧ (stn atWait 0).pend = some (.wait (.core 0 1) 1 true) ∧
    (stn atWait 0).released = false ∧ (stn atWait 0).eclipse = false ∧ arraysIdle atWait 0 = true ∧
    inEclipse (eclipsed false) 0 = true ∧ (clu (eclipsed false) 0).lowered = false ∧ inEclipse (eclipsed true) 0 = true ∧
    (clu (eclipsed true) 0).lowered = true ∧ live (spent 11) 0 = true ∧ ceiling (spent 11) 0 < (clu (spent 11) 0).tok ∧
    (clu (spent 10) 0).tok ≤ ceiling (spent 10) 0 := by decide

/-- Adds of 2 that have reached its counter, and a value on its way to a station. -/
def addsHere : State :=
  { adds := [{ c := .cluster 0 1, n := 2, node := 0, top := 0, due := some (0, 0) }, { c := .module 7, n := 2, node := 104, top := 104 }]
    waiters := [(.station 0, .module 7)], valMsgs := [(.station 0, .module 7, 5)]
    seen := [], stns := [(0, { run := .waiting, pend := some (.wait (.core 0 1) 0 false) })]
    clus := [(0, { gc := { state := .xhwait, waitCtr := some (.cluster 0 1), target := 0, rd := 31 } })] }

theorem wit_AddsAndReleases : addsHere.adds[1]? = some { c := .module 7, n := 2, node := 104, top := 104 } ∧
    addReady addsHere { c := .module 7, n := 2, node := 104, top := 104 } = true ∧ isJobHurdle addsHere (.module 7) = false ∧
    addReady addsHere { c := .cluster 0 1, n := 2, node := 0, top := 0, due := some (0, 0) } = true ∧
    registers (.module 7) = true ∧ addsHere.netStopped.get false 104 = false ∧
    addsHere.valMsgs[0]? = some (.station 0, .module 7, 5) ∧ (stn addsHere 0).run = .waiting ∧
    satisfied (seenVal addsHere (.station 0) (.core 0 1)) 0 = true ∧ lentOut (clu addsHere (cluOf 0)) 0 = 0 ∧
    (gcOf addsHere 0).state = .xhwait ∧ (gcOf addsHere 0).waitCtr = some (.cluster 0 1) ∧
    satisfied (seenVal addsHere (.gc 0) (.cluster 0 1)) (gcOf addsHere 0).target = true ∧ (gcOf addsHere 0).rd ≠ 0 := by
  decide

/-- The module of that job, root or not, with an add and a value of job hurdle 3840. -/
def jobNet (root : Nat) : State :=
  { moduleId := 9, course := some { jobOf root with parents := [⟨9, 5, 2⟩, ⟨5, 9, 4⟩], ports := [⟨4, 5, 1⟩] }, jobState := 3
    jobUp := [(3840, 3)], jobDown := [(3840, 8)], hopFails := [(103, 8)] }

theorem wit_JobHurdlesAndTheNet : (jobNet 9).jobUp.get 0 3840 ≠ 0 ∧ isRoot (jobNet 9) = true ∧ isRoot (jobNet 5) = false ∧
    parentPort (jobNet 5) = some 2 ∧ (jobNet 9).jobDown.find? (fun e => e.1 = 3840) = some (3840, 8) ∧ 103 < 104 ∧
    (jobNet 9).netStopped.get false 103 = false ∧ 8 ≤ (jobNet 9).hopFails.get 0 103 ∧ (jobNet 9).tests.length < 256 ∧
    (jobNet 9).tests.any (fun x => x.kind = 7 ∧ x.index = 103) = false ∧ (jobNet 9).jobState = 3 ∧
    (jobNet 9).stop.wanted = false ∧ (jobNet 9).stop.stage = 0 := by decide

/-- General core 0 of module 9 in that job, with registers by number, and PMP entries that allow everything below 2^50. -/
def core0 (x : Table W64) : State :=
  { moduleId := 9, course := some (jobOf 9), jobState := 3
    clus := [(0, { gc := { state := .running, x := x, pmp := [2 ^ 56 + 0x0F] } })]
    engines := [(0, { bound := some .gc })], cluCtr := [(1, 6)] }

/-- Its registers hold hurdle addresses: a cluster counter and a module counter here, one of module 5, a bad one. -/
def hurdles : State := core0 [(1, 0x80010001), (2, 0x00170001), (3, 0x80018000), (4, 7), (5, 0x80030007), (6, 4)]

theorem wit_GeneralCoreInstructions : gcActs hurdles 0 = true ∧ 0x80010001 = (gx hurdles 0 1).toNat % 2 ^ 32 ∧
    addrBad hurdles 0x80010001 = false ∧ addrModule hurdles 0x80010001 = hurdles.moduleId ∧
    satisfied (ctrVal hurdles (addrCtr 0x80010001)) ((gx hurdles 0 6).setWidth 32) = true ∧
    satisfied (ctrVal hurdles (addrCtr 0x80010001)) ((gx hurdles 0 4).setWidth 32) = false ∧
    addrBad hurdles 0x80030007 = false ∧ registers (addrCtr 0x80030007) = true ∧
    satisfied (ctrVal hurdles (addrCtr 0x80030007)) ((gx hurdles 0 4).setWidth 32) = false ∧
    addrBad hurdles 0x00170001 = false ∧ addrModule hurdles 0x00170001 ≠ hurdles.moduleId ∧
    addrBad hurdles 0x80018000 = true ∧ gcEngine hurdles 0 0 = true ∧ gcEngine hurdles 0 1 = false ∧
    (31 : Nat) ≠ 0 ∧ hurdles.jobState = 3 := by decide

/-- A general core whose x1 is a tile in HBM3E, x2 names row 127, block 3, group 63, x3 a reserved address. -/
def blocks : State := { core0 [(1, 0x10000), (2, 0xFFFF), (3, 0x018000000000), (4, 0xFDFF)] with mem := [(0x13FFF, 0x80)] }

theorem wit_BlocksOfTiles : gcActs blocks 0 = true ∧ tileOk 9 false = false ∧ Fmt.ofCode 1 = some .bf16 ∧
    tileOk 1 false = true ∧ blocks.cwErr = [] ∧ bitOf (gx blocks 0 2).toNat 9 = true ∧ bitOf (gx blocks 0 4).toNat 9 = false ∧
    (∃ o ∈ blockBytes .bf16 false (blockElems (gx blocks 0 2).toNat false),
      gcReach blocks 0 ((gx blocks 0 3).toNat + o) 1 false = false) ∧
    (∀ o ∈ blockBytes .int8 false (blockElems (gx blocks 0 2).toNat false),
      gcReach blocks 0 ((gx blocks 0 1).toNat + o) 1 false = true) ∧
    (∀ e ∈ (xpstBytes .int8 false (blockElems (gx blocks 0 2).toNat true)
        (convert .int8 false false false 1 0 ((List.range 32).map (fun i => ofInt (vElem blocks 0 0 i).toInt)))).map
          (fun e => ((gx blocks 0 1).toNat + e.1, e.2)), gcReach blocks 0 e.1 1 true = true) := by decide +kernel

/-- A general core with a7 and a0, a1 as an INVSPD or an ECALL wants them. -/
def calls (a7 n : W64) : State := core0 [(10, 0x10000), (11, n), (17, a7)]

theorem wit_GeneralCoreAccesses : gcActs blocks 0 = true ∧ gcSizeOk (.load 31 true) 8 = true ∧
    gcStored blocks 0 (.load 31 true) 8 = none ∧ gcRegOk blocks 0 0x13FF8 8 false = false ∧
    gcReach blocks 0 0x13FF8 8 false = true ∧ gcStored blocks 0 (.store 1) 8 = some (leBytes 8 0x10000) ∧
    gcRegOk blocks 0 0x13FF8 8 true = false ∧ gcReach blocks 0 0x13FF8 8 true = true ∧
    gcRegOk blocks 0 (regSpan + 0x10) 8 false = true ∧ gcRegOk blocks 0 (regSpan + 0x10) 8 true = true ∧
    gcReach blocks 0 0x018000000000 8 false = false ∧ gcRegOk blocks 0 0x018000000000 8 false = false ∧
    gcReach blocks 0 0x018000000000 8 true = false ∧ gcRegOk blocks 0 0x018000000000 8 true = false ∧
    gx (calls 0 0) 0 17 = 0 ∧ gx (calls 1 0) 0 17 ≠ 0 ∧ gx (calls 1 0) 0 17 ≠ 0x100 := by decide +kernel

theorem wit_InverseRoutine : gcActs (calls 0x100 0) 0 = true ∧ gx (calls 0x100 0) 0 17 = 0x100 ∧ 4 ≤ 4 ∧
    (gx (calls 0x100 0) 0 11).toNat = 0 ∧ 512 < (gx (calls 0x100 513) 0 11).toNat ∧
    (gx (calls 0x100 512) 0 11).toNat = 512 ∧ gcReach (calls 0x100 512) 0 0x10000 (4 * 512 * 512) false = true ∧
    gcReach (calls 0x100 512) 0 0x10000 (4 * 512 * 512) true = true ∧ (calls 0x100 512).cwErr = [] := by decide +kernel

/-- Window 63 of cluster 95, of 64 KiB at the second half of the first bank, for module 5 and job 7; the bank's state. -/
def window (st dir bank : Nat) : State :=
  { wins := [(64 * 95 + 63, { state := st, dir := dir, base := 63, sizeM1 := 0, srcModule := 5, srcJob := 7 })]
    bankState := [(6144 + 32 * 95, bank)] }

/-- A request for the last 256 bytes of the window, or past them. -/
def ask (write : Bool) (m job off : Nat) : WinReq :=
  { cluster := 95, window := 63, write := write, srcModule := m, srcJob := job, offset := off, length := 256
    data := if write then List.replicate 256 3 else [] }

theorem wit_WindowChecks : (win (window 2 1 1) 95 63).state ≠ 1 ∧ (win (window 1 1 1) 95 63).state = 1 ∧
    (ask true 4 7 0).srcModule ≠ (win (window 1 1 1) 95 63).srcModule ∧
    bitOf (win (window 1 1 1) 95 63).dir 1 = false ∧ bitOf (win (window 1 1 1) 95 63).dir 0 = true ∧
    65536 * (0 + 1) < (ask true 5 7 65281).offset + 256 ∧ (ask true 5 7 65280).offset + 256 ≤ 65536 * (0 + 1) ∧
    (window 1 1 0).bankState.get 0 (6144 + 32 * 95 + (65536 * 63 + 65280) / 0x400000) = 0 ∧
    winFails (window 1 1 1) (ask true 5 7 65280) = none ∧ (ask true 5 7 65280).data.length = 256 ∧
    winFails (window 1 2 2) (ask false 5 7 0) = none ∧ waitingUnit (window 1 1 1) (ask true 5 7 65280) = none ∧
    winFails (window 1 1 0) (ask true 5 7 65280) = some 4 := by decide +kernel

/-- A descriptor of this module that waits for a request, and for the answer to message 9 at offset 65,536. -/
def asking (q : WinReq) (st bank : Nat) : State :=
  { window st 3 bank with engines := [(5, { state := .running, flight := [
      { d := { copy256 with w0 := 256 * 65536 + 3 }, units := [q], reqs := [(9, 65536, 256)] }] })] }

theorem wit_OwnWindowRequests : ∃ d, waitingUnit (asking (ask true 5 7 0) 1 1) (ask true 5 7 0) = some (5, 0, d) ∧
    winFails (asking (ask true 5 7 0) 1 1) (ask true 5 7 0) = none ∧
    (winUnit (asking (ask true 5 7 0) 1 1) (ask true 5 7 0)).2.1 = stOK ∧
    waitingUnit (asking (ask true 5 7 0) 2 1) (ask true 5 7 0) = some (5, 0, d) ∧
    winFails (asking (ask true 5 7 0) 2 1) (ask true 5 7 0) = some 0 := by
  refine ⟨{ d := { copy256 with w0 := 256 * 65536 + 3 }, units := [ask true 5 7 0], reqs := [(9, 65536, 256)] }, ?_⟩
  decide +kernel

theorem wit_OwnWindowReads : ∃ d, waitingUnit (asking (ask false 5 7 0) 1 1) (ask false 5 7 0) = some (5, 0, d) ∧
    winFails (asking (ask false 5 7 0) 1 1) (ask false 5 7 0) = none ∧
    (winUnit (asking (ask false 5 7 0) 1 1) (ask false 5 7 0)).2.1 = stOK := by
  refine ⟨{ d := { copy256 with w0 := 256 * 65536 + 3 }, units := [ask false 5 7 0], reqs := [(9, 65536, 256)] }, ?_⟩
  decide +kernel

/-- Cluster 95, window 63 in a message's target, and messages of each type from module 5. -/
def target95 : Nat := 7 * 1024 + 11 * 8192 + 63 * 131072

/-- A message of a type. -/
def msgOf (ty status : Nat) (d : List Byte) (want : Nat) : Msg :=
  { mtype := ty, src := 5, job := 7, tag := 9, target := if ty < 3 then target95 else status, data := d, want := want }

/-- That message has arrived at port 2. -/
def inbox (ty status : Nat) (d : List Byte) (want st : Nat) : State :=
  { asking (ask true 5 7 0) st 1 with inbox := [(2, msgOf ty status d want)] }

theorem wit_WindowMessages : (2, msgOf 1 0 (List.replicate 256 3) 0) ∈ (inbox 1 0 (List.replicate 256 3) 0 1).inbox ∧
    (winUnits (inbox 1 0 [3] 0 1) (msgUnits (msgOf 1 0 (List.replicate 256 3) 0) true 256)).2.1 ≠ stDead ∧
    (winUnits (inbox 1 0 [3] 0 2) (msgUnits (msgOf 1 0 (List.replicate 256 3) 0) true 256)).2.1 = stDead ∧
    (winUnits (inbox 2 0 [] 512 1) (msgUnits (msgOf 2 0 [] 512) false 512)).2.1 = stOK ∧
    (winUnits (inbox 2 0 [] 512 2) (msgUnits (msgOf 2 0 [] 512) false 512)).2.1 ≠ stOK ∧
    (∃ d, waitingTag (inbox 3 0 [1, 2] 0 1) 9 = some (5, 0, d, 65536) ∧
      exchMapped (inbox 3 0 [1, 2] 0 1) (d.d.w2 + 65536) 2 = false) ∧ (inbox 3 0 [1, 2] 0 1).cwErr = [] ∧
    0 % 256 = stOK ∧ 5 % 256 = stDead ∧ 6 % 256 ≠ stOK ∧ 6 % 256 ≠ stDead := by
  refine ⟨by decide +kernel, by decide +kernel, by decide +kernel, by decide +kernel, by decide +kernel,
    ⟨{ d := { copy256 with w0 := 256 * 65536 + 3 }, units := [ask true 5 7 0], reqs := [(9, 65536, 256)] }, by decide +kernel⟩,
    by decide, by decide⟩

/-- The first `n` symbols of a codeword in error. -/
def wrongAt (n : Nat) : Table Byte := (List.range n).map (fun i => (i, 1))

/-- A trained module with symbol errors in the first codeword of HBM3E, and a stack that refreshes at a rate. -/
def tier (syms rate : Nat) : State :=
  { power := { stage := 6, fixedOn := true }, cwErr := [(0, { pat := wrongAt syms })], writeBack := [(0, none)]
    dram := [(47, { trained := true, refresh := rate })] }

theorem wit_TiersKeepTheirContents : (tier 3 0).writeBack[0]? = some (0, none) ∧ 6 ≤ (tier 3 0).power.stage ∧
    ({ tier 3 0 with cwErr := [] } : State).cwErr = [] ∧
    scrubCw (tier 3 0) 0 ((tier 3 0).scrubAt.get 0 0 % scrubSpan (tier 3 0) 0) = some 0 ∧
    ((tier 3 0).cwErr.get {} 0).virt = false ∧ 1 ≤ ((tier 3 0).cwErr.get {} 0).syms ∧ ((tier 3 0).cwErr.get {} 0).syms ≤ 3 ∧
    4 ≤ ((tier 5 0).cwErr.get {} 0).syms ∧ ((tier 5 0).cwErr.get {} 0).syms ≤ 5 ∧ refreshes (tier 3 0) 47 = true ∧
    (dramOf (tier 3 0) 47).refresh < refreshRate 86 ∧ (dramOf (tier 3 1) 47).refresh < refreshRate 96 ∧
    refreshRate 85 < (dramOf (tier 3 1) 47).refresh := by decide +kernel

theorem wit_BanksWakeAndRetain : ({ jobState := 2, bankMode := [(3, 2)], bankState := [(3, 2)] } : State).jobState = 2 ∧
    ({ jobState := 2, bankMode := [(3, 2)], bankState := [(3, 2)] } : State).bankMode.get 0 3 = 2 ∧
    ({ jobState := 2, bankMode := [(3, 2)], bankState := [(3, 1)] } : State).bankState.get 0 3 = 1 ∧
    State.reset.jobState ≠ 2 := by decide

theorem wit_MemoryKeepsWhatIsWritten : (∀ i, i < [1, 2].length → (tier 4 0).cwErr.get {} ((64 + i) / 64) = {}) ∧
    ((tier 4 0).cwErr.get {} (63 / 64)).virt = false ∧ 4 ≤ ((tier 4 0).cwErr.get {} (63 / 64)).syms ∧
    ((tier 5 0).cwErr.get {} (63 / 64)).syms ≤ 5 := by decide

/-- Port 15 of module 9, in a state, with the job of module 5. -/
def ported (h : HPort) (used : Bool) : State :=
  { moduleId := 9, power := { linksOn := true, linkUp := true }, ports := [(15, h)], jobState := 3, capGen := 2 ^ 32 - 1
    course := some { jobOf 9 with routes := if used then [(5, some 15)] else [(5, some 3)] } }

theorem wit_PortsComeUpAndGoDown : 15 < 16 ∧ (hport (ported { state := 1, seen := some (1023, 15) } false) 15).state = 1 ∧
    (hport (ported { state := 1, seen := some (1023, 15) } false) 15).enabled = true ∧
    (hport (ported { state := 1, seen := some (1023, 15) } false) 15).seen = some (1023, 15) ∧
    (hport (ported { state := 1 } false) 15).seen ≠ some (1023, 15) ∧ laneFailed (ported {} false) 15 = false ∧
    laneFailed { ported {} false with defects := [(12 * 65536 + 15, 1)] } 15 = true ∧
    linksOpen (ported { state := 1 } false) = true ∧ 1023 < 1024 ∧
    (hport (ported { state := 1 } false) 15).before = none ∧
    (hport (ported { state := 1, before := some (3, 2) } false) 15).before = some (3, 2) ∧ (3, 2) ≠ (1023, 15) ∧
    (hport (ported { state := 1, attempts := 2 } false) 15).attempts ≠ 3 ∧
    (hport (ported { state := 1, attempts := 3 } false) 15).attempts = 3 ∧
    (hport (ported { state := 3, attempts := 3 } false) 15).state = 3 ∧
    portHeld (ported { state := 3, attempts := 3 } false) 15 = false ∧
    (hport (ported { state := 2 } false) 15).state = 2 ∧ usedPort (ported { state := 2 } false) 15 = false ∧
    usedPort (ported { state := 2 } true) 15 = true ∧ (ported { state := 2 } true).jobState = 3 ∧
    (ported { state := 2 } true).stop.wanted = false ∧ (ported { state := 2 } true).stop.stage = 0 := by decide +kernel

/-- A flit of a read of module 5. -/
def bulk : Flit := { type := 1, dst := 5, src := 9, job := 7, body := msgHead (msgOf 2 0 [] 256) }

/-- Port 15 UP in a job that holds its link key. -/
def keyed (h : HPort) : State := { ported { h with state := 2 } true with keys := { link := some 5 } }

theorem wit_FlitsOfSlots : (hport (keyed { slot := 31 }) 15).state = 2 ∧ (hport (keyed { slot := 31 }) 15).slot % 32 = 31 ∧
    (hport (keyed { slot := 31 }) 15).hurQ = [] ∧ (hport (keyed { slot := 31, hurQ := [{}] }) 15).hurQ ≠ [] ∧
    (keyed {}).keys.link.isSome = true ∧ (ported { slot := 31, hurQ := [{}] } true).keys.link = none ∧
    toResend (hport (keyed { slot := 31, hurQ := [{}] }) 15) 1 = [] ∧
    (space (hport (keyed { slot := 31, hurQ := [{}] }) 15) 1).unacked.length < 2048 ∧
    toResend (hport (keyed { slot := 30, spaces := [(0, { unacked := [(4094, []), (4095, [1])], again := [4095] })] }) 15) 0 =
      (4095, [1]) :: [] ∧
    (hport (keyed { slot := 30, ctlQ := [[2]] }) 15).slot % 32 ≠ 31 ∧ (hport (keyed { slot := 30, ctlQ := [[2]] }) 15).ctlQ = [2] :: [] ∧
    (∀ f ∈ (hport (keyed { txQ := [bulk], credit0 := 0 }) 15).txQ, (if f.cls = 0
      then (hport (keyed { txQ := [bulk], credit0 := 0 }) 15).credit0 else 1024) = 0) ∧
    (hport (keyed { txQ := [bulk], credit0 := 1 }) 15).txQ = bulk :: [] ∧
    0 < (if bulk.cls = 0 then (hport (keyed { txQ := [bulk], credit0 := 1 }) 15).credit0 else 0) := by decide +kernel

/-- A link word at the edges of its fields. -/
def edgeWord : LinkWord := { seq := 4095, ack := 4095, nak := true, type := 7, cls := 1, dst := 1023, src := 1023, cr0 := 127, cr1 := 127
                             job := 2 ^ 32 - 1 }

theorem wit_FlitBytes : edgeWord.seq < 4096 ∧ edgeWord.ack < 4096 ∧ edgeWord.type < 8 ∧ edgeWord.cls < 2 ∧ edgeWord.dst < 1024 ∧
    edgeWord.src < 1024 ∧ edgeWord.cr0 < 128 ∧ edgeWord.cr1 < 128 ∧ edgeWord.reserved = 0 ∧ edgeWord.job < 2 ^ 32 ∧
    (List.replicate 240 (7 : Byte)).length = 240 := by decide +kernel

/-- A space about to wrap, with a flit that has failed 16 resends. -/
def wrapping : Space := { expect := 4095, unacked := [(4094, [0]), (4095, [1])], failSeq := 4094, fails := 16 }

/-- Port 15 UP with its link key, and with both spaces about to wrap. -/
def upPort : State := keyed { peerModule := 5, peerPort := 2, spaces := [(0, wrapping), (1, { expect := 4095 })] }

/-- A link word of the loaded job that comes next in its space. -/
def nextWord (ty : Nat) : LinkWord := { seq := 4095, type := ty, dst := 9, src := 5, job := 7 }

/-- A flit that port 2 of module 5 sends under counter 3. -/
def sentFlit (l : LinkWord) (body : List Byte) : List Byte :=
  flitBytes l (gcmSeal 5 (flitIv 5 2 3) (flitAad l) body)

/-- Its body as this module opens it. -/
def openedBody (l : LinkWord) (bytes : List Byte) : Option (List Byte) :=
  gcmOpen (linkKey upPort) (flitIv (hport upPort 15).peerModule (hport upPort 15).peerPort 3) (flitAad l) ((bytes.drop 12).take 240)

theorem opened_sent (l : LinkWord) (body : List Byte) (h : body.length = 224) : openedBody l (sentFlit l body) = some body := by
  rw [openedBody, sentFlit, flitBytes_rest _ _ (by simp [gcmSeal, h])]
  exact gcmOpen_gcmSeal 5 (flitIv 5 2 3) (flitAad l) body

/-- The body of a barrier message for module 9. -/
def messageBody : List Byte := sized 224 (msgHead { mtype := 7, dst := 9, src := 5, job := 7 })

theorem wit_FlitsReceived (l : LinkWord) : flitGood (sentFlit l messageBody) = true ∧
    openedBody l (sentFlit l messageBody) = some messageBody ∧ (readMsg 9 5 messageBody).mtype = 7 ∧
    flitsFor (readMsg 9 5 messageBody).length = 1 ∧ upPort.moduleId = 9 :=
  ⟨flitBytes_good _ _, opened_sent _ _ (sized_length _ _), by decide +kernel, by decide +kernel, rfl⟩

theorem wit_FlitWords : readLink (ofLe ((sentFlit (nextWord 1) messageBody).take 12)) = nextWord 1 ∧
    readLink (ofLe ((sentFlit (nextWord 3) []).take 12)) = nextWord 3 ∧
    readLink (ofLe ((sentFlit {} []).take 12)) = {} := by decide +kernel

theorem wit_FlitsRefused : gcmOpen 5 (flitIv 5 2 3) [] [] = none ∧ flitGood [1] = false ∧ (hport upPort 15).state = 2 ∧
    jobMatches upPort (nextWord 3) = true ∧ jobMatches upPort { nextWord 1 with job := 8 } = false ∧
    (nextWord 3).seq = (space (hport upPort 15) 1).expect ∧ (nextWord 1).seq = (space (hport upPort 15) 0).expect ∧
    ({ nextWord 1 with seq := 0 } : LinkWord).seq ≠ (space (hport upPort 15) 0).expect := by decide +kernel

/-- Port 15 in bring-up, or UP with a request of module 9 or 5 that began with flit 4095. -/
def asked (st src : Nat) : State := ported { state := st, starts := [(4095, src, 9, 5)] } true

theorem wit_ResendsAndControl : (space (hport upPort 15) 0).unacked = (4094, [0]) :: [(4095, [1])] ∧
    (space (hport upPort 15) 0).failSeq = 4094 ∧
    16 ≤ (space (hport upPort 15) 0).fails ∧ (space (hport upPort 15) 1).fails < 16 ∧ (hport (asked 1 9) 15).state = 1 ∧
    (readLink (ofLe ((controlFlit upPort 0 (identityBody upPort 2) {}).take 12))).type = 4 ∧
    ((controlFlit upPort 0 (identityBody upPort 2) {}).drop 12).take 1 = [1] ∧
    ((controlFlit upPort 0 (clearBody 4095) {}).drop 12).take 1 = [2] ∧
    ofLe (((controlFlit upPort 0 (clearBody 4095) {}).drop 13).take 2) = 4095 ∧
    (hport (asked 2 9) 15).starts.find? (fun e => e.1 = 4095) = some (4095, 9, 9, 5) ∧ (asked 2 9).moduleId = 9 ∧
    (hport (asked 2 5) 15).starts.find? (fun e => e.1 = 4095) = some (4095, 5, 9, 5) := by decide +kernel

theorem wit_ControlFlitsGood : flitGood (controlFlit upPort 0 (identityBody upPort 2) {}) = true ∧
    flitGood (controlFlit upPort 0 (clearBody 4095) {}) = true := ⟨flitBytes_good _ _, flitBytes_good _ _⟩

/-- A hurdle message that has arrived at port 2 of module 9, or of module 5 of the job. -/
def hurIn (m : HurMsg) : State := { inRun {} with inHur := [(2, [m])] }

/-- A message of the job and of its RUN. -/
def hurOf (kind a : Nat) : HurMsg := { address := a, value := 3, job := 7, run := 2, kind := kind }

theorem wit_LinkHurdleMessages : (2, [hurOf 1 0x00170001]) ∈ (hurIn (hurOf 1 0x00170001)).inHur ∧
    (hurOf 1 0x00170001).reserved = 0 ∧ bits 0x00170001 27 18 ≠ (hurIn (hurOf 1 0x00170001)).moduleId ∧
    routeOf (hurIn (hurOf 1 0x00170001)) (bits 0x00170001 27 18) = some 3 ∧
    bits 0x00250001 27 18 = (hurIn (hurOf 1 0x00250001)).moduleId ∧
    (hurOf 1 0x00250001).job = jobNo (hurIn (hurOf 1 0x00250001)) ∧
    (hurOf 1 0x00250001).run = (hurIn (hurOf 1 0x00250001)).runNo % 65536 ∧
    ({ hurOf 1 0x00250001 with job := 8 } : HurMsg).job ≠ jobNo (hurIn (hurOf 1 0x00250001)) ∧
    ({ hurOf 1 0x00250001 with run := 3 } : HurMsg).run ≠ (hurIn (hurOf 1 0x00250001)).runNo % 65536 ∧
    addrReserved 0x00258000 = true ∧ bits 0x00258000 27 18 = 9 ∧ addrReserved 0x00250001 = false ∧
    addrAbsent (hurIn (hurOf 1 0x00250001)) 0x00250001 = false ∧ BitVec.ofNat 32 (hurOf 1 0x00250001).value ≠ 0 ∧
    addrReserved 0x00270F00 = false ∧ childPorts (hurIn (hurOf 3 0x00270F00)) = [] := by decide


/-! ### Parameter update -/

/-- A course with an UPDATE, a REPLICA and a VECTOR shard at gateway 0, which the loss report goes to. -/
def updateCourse : Image :=
  { jobOf 9 with
    shards := [(0, [{ kind := .update, firstChunk := 10, nChunks := 1, bank0 := 0x100000, bank1 := 0x200000, group := 3 },
      { kind := .replica, firstChunk := 20, nChunks := 1, bank0 := 0x3000300000, bank1 := 0x3000400000 },
      { kind := .vector, firstChunk := 30, nChunks := 1, stage := 0x500000, doneCtr := 100 }])]
    rules := [(0, [{ ops := [] }])], steps := { step := some 3800, ack := some 3801, decision := some 3802, epoch := some 0x600000 }
    lossGw := some 0 }

/-- A RUN of that course, with gateway 0 in a state. -/
def updating (x : Gw) : State :=
  { moduleId := 9, course := some updateCourse, jobState := 3, groups := [(3, { used := true })], gws := [(0, x)] }

/-- A gradient image: a header, and a payload of which the CRC register holds 0 after 4 bytes and stays there. -/
def gradHeader : Header := hdrSealed { fmt := 1, kind := 1, job := 7, payloadCrc := 0xFFFFFFFF }

/-- Its 256 header bytes. -/
def gradHead : List Byte := leBytes 32 (hdrWord gradHeader) ++ List.replicate 224 0

/-- The image. -/
def gradImage : List Byte := gradHead ++ ([255, 255, 255, 255] ++ List.replicate 32764 0)

/-- A gradient chunk of the UPDATE shard, from module 5. -/
def gradMsg : Msg := { mtype := 5, dst := 9, src := 5, job := 7, tag := 4, target := 10 * 2 ^ 32, data := gradImage }

/-- The chunk of a message. -/
def chunkOf (m : Msg) : Chunk := { id := chunkId m, data := m.data, src := .messages [m] }

theorem crc_zeros (n : Nat) : (List.replicate n (0 : Byte)).foldl crcByte 0 = 0 := by
  induction n with
  | zero => rfl
  | succ n ih =>
    have h : crcByte 0 0 = 0 := by decide
    rw [List.replicate_succ, List.foldl_cons, h, ih]

theorem crc_payload : crc32 ([255, 255, 255, 255] ++ List.replicate 32764 0) = 0xFFFFFFFF := by
  have h : [255, 255, 255, 255].foldl crcByte 0xFFFFFFFF#32 = 0 := by decide +kernel
  unfold crc32
  rw [List.foldl_append, h, crc_zeros]
  rfl

theorem gradImage_length : gradImage.length = 33024 := by
  have h : gradHead.length = 256 := by decide +kernel
  unfold gradImage
  rw [List.length_append, List.length_append, List.length_replicate, h]
  rfl

theorem gradImage_drop : gradImage.drop 256 = [255, 255, 255, 255] ++ List.replicate 32764 0 := by
  have h : gradHead.length = 256 := by decide +kernel
  unfold gradImage
  rw [← h, List.drop_left]

theorem gradImage_header : hdrOfBytes gradImage = gradHeader := by decide +kernel

theorem wit_GradientsWait (x : Gw) (hs : x.state = 1) (hb : x.bitmap = []) :
    judge (updating x) 0 (chunkOf gradMsg) = .grad 0 0 0 1 := by
  have hid : (chunkOf gradMsg).id = 10 := by decide +kernel
  have hc : (chunkOf gradMsg).data = gradImage := rfl
  have hw : hdrCrcOf gradHeader = gradHeader.hdrCrc ∧ gradHeader.payloadCrc = 0xFFFFFFFF ∧ gradHeader.job = 7 ∧
    gradHeader.kind = 1 ∧ gradHeader.fmt = 1 ∧ gradHeader.scaled = false ∧ imageLen gradHeader = some 33024 := by decide +kernel
  obtain ⟨h1, h2, h3, h4, h5, h6, h7⟩ := hw
  have hsh : shardOf 10 0 0 (shardsOf (updating x) 0) = some (0, 0, 0,
      { kind := .update, firstChunk := 10, nChunks := 1, bank0 := 0x100000, bank1 := 0x200000, group := 3 }) := rfl
  have hj : jobNo (updating x) = 7 := rfl
  have hg : gw (updating x) 0 = x := rfl
  have hi : (stepItems (updating x)).isNone = false := rfl
  have hp : (chunkOf gradMsg).gather = none := rfl
  unfold judge
  rw [hp]
  simp only [hi, hg, hs, hid, lossId, Bool.false_eq_true, if_false]
  rw [if_neg (by decide), if_neg (by decide)]
  unfold judgeGrad
  simp only [hid, hc, gradImage_header, gradImage_length, gradImage_drop, crc_payload, h1, h2, h3, h4, h5, h6, h7, hj, hsh, hg, hb]
  simp [Table.get]

theorem wit_GathersThatWait : engineWaits (updating { state := 1 }) 0 0x3000400000 32768 = false ∧
    engineWaits { updating { state := 1 } with fabStopped := [(fabKey 1 0 0, true)] } 0 (gatherAddr (updating { state := 1 })
      { kind := .replica, firstChunk := 20, nChunks := 1, bank0 := 0x3000300000, bank1 := 0x3000400000 } 0) 32768 = true := by
  decide +kernel

/-- Gateway 0 applies. -/
def applying : Gw := { state := 1 }

theorem wit_ChunksArrive :
    (∃ p, ({ updating applying with inbox := [(2, gradMsg)] } : State).inbox.find? (fun e => e.2 = gradMsg) = some (p, gradMsg)) ∧
    (updating applying).gwIn.get [] 0 = [] ∧ chunkGw gradMsg = 0 ∧ gradMsg.mtype = 5 ∧
    judge (updating applying) 0 (chunkOf { gradMsg with target := 40 * 2 ^ 32, data := [1] }) = .bad stInvalid ∧
    judge (updating { applying with loss := some (3, 0, false) }) 0 (chunkOf { gradMsg with
      target := 0xFFFFFFFF * 2 ^ 32, data := [0, 0, 0, 0, 3] ++ List.replicate 251 0 }) = .dup ∧
    judge (updating applying) 0 (chunkOf { gradMsg with
      target := 0xFFFFFFFF * 2 ^ 32, data := [0, 0, 0, 0, 3] ++ List.replicate 251 0 }) = .loss ∧
    judge (updating { state := 2 }) 0 { chunkOf { gradMsg with data := [] } with gather := none } = .hold := by
  refine ⟨⟨2, by simp⟩, rfl, by decide, rfl, ?_, ?_, ?_, ?_⟩ <;> decide +kernel

/-- A gather of the REPLICA shard's chunk for a step. -/
def gatherChunk (step : Nat) : Chunk :=
  { id := 20, data := List.replicate 16384 0, src := .messages [{ gradMsg with mtype := 6 }], gather := some (3, false, step) }

theorem wit_Gathers (step : Nat) : judge (updating applying) 0 (gatherChunk step) =
    (if step = 0 then .gather 0 { kind := .replica, firstChunk := 20, nChunks := 1, bank0 := 0x3000300000, bank1 := 0x3000400000 }
     else if step = 1 then .hold else .bad stInvalid) := by
  have hd : (gatherChunk step).data.length = 16384 := List.length_replicate
  have ht : tileOk 3 false = true ∧ storedBytes 3 false = 16384 := by decide +kernel
  have hsh : shardOf 20 0 0 (shardsOf (updating applying) 0) = some (1, 0, 1,
      { kind := .replica, firstChunk := 20, nChunks := 1, bank0 := 0x3000300000, bank1 := 0x3000400000 }) := rfl
  unfold judge
  have hg : (gatherChunk step).gather = some (3, false, step) := rfl
  have hid : (gatherChunk step).id = 20 := rfl
  have hc : (updating applying).course.isNone = false := rfl
  have hst : (updating applying).steps = 0 := rfl
  simp only [hg, hc, Bool.false_eq_true, if_false]
  unfold judgeGather
  simp only [hid, hsh, hd, ht.1, ht.2, hst]
  rfl

/-- A chunk in a buffer of gateway 0, of a shard, with its next group. -/
def buffered (shard next : Nat) : ChunkBuf := { shard := shard, fmt := 1, data := [0x80, 0x3F], next := next }

/-- Gateway 0 has that chunk and another; the first record of the live bank holds 1.0; codeword errors; and a snapshot. -/
def grouping (shard next syms : Nat) (snap : Option Snap) : State :=
  { updating { applying with bufs := [buffered shard next, buffered 0 0] } with
    mem := [(0x100003, 0x3F)], cwErr := if syms = 0 then [] else [(0x4000, { pat := wrongAt syms })], snap := snap }

/-- A snapshot that has still to read the chunk of slot 0 in the bank that the step writes. -/
def unread : Snap := { src := c0, dest := 0, window := false, fmt := 0, scaled := false, bank := true, step := 0, todo := [(0, 0)] }

theorem wit_UpdateGroups : (gw (grouping 0 0 0 none) 0).bufs = buffered 0 0 :: [buffered 0 0] ∧ (buffered 0 511).next < 512 ∧
    ((shardsOf (grouping 0 0 0 none) 0)[0]?).isSome = true ∧ ((shardsOf (grouping 2 0 0 none) 0)[2]?).isSome = true ∧
    snapHolds (grouping 0 0 0 none) 0 0 = false ∧ snapHolds (grouping 0 0 0 (some unread)) 0 0 = true ∧
    engineMay (grouping 0 0 0 none) 0 0x100000 256 = true ∧ engineMay (grouping 0 0 0 none) 0 0x200000 256 = true ∧
    engineWaits (grouping 0 0 0 none) 0 0x100000 256 = false ∧ engineWaits (grouping 0 0 0 none) 0 0x200000 256 = false ∧
    engineMay (grouping 0 0 4 none) 0 0x100000 256 = true ∧ engineMay (grouping 0 0 4 none) 0 0x200000 256 = true ∧
    engineWaits (grouping 0 0 4 none) 0 0x100000 256 = false ∧ engineWaits (grouping 0 0 4 none) 0 0x200000 256 = false ∧
    (grouping 0 0 0 none).cwErr = [] ∧ (readMem (wakeRange (wakeRange (grouping 0 0 4 none) 0x100000 256) 0x200000 256)
      0x100000 256).fail.isSome = true := by decide +kernel

/-- The same with a stopped hop into compute die 1, where the banks of the REPLICA shard lie, or with both HBM3E
stacks of compute die 0 failed. -/
def isolated (stopped : Bool) (s : State) : State :=
  if stopped then { s with fabStopped := [(fabKey 1 0 0, true), (fabKey 0 10 0, true)] } else { s with defects := [(8 * 65536, 2)] }

theorem wit_GroupsThatWait : engineWaits (isolated true (grouping 1 0 0 none)) 0 (bankBase
      { kind := .replica, firstChunk := 20, nChunks := 1, bank0 := 0x3000300000, bank1 := 0x3000400000 } false) 64 = true ∧
    engineMay (isolated false (grouping 0 0 0 none)) 0 0x100000 256 = false ∧
    engineWaits (isolated false (grouping 0 0 0 none)) 0 0x200000 256 = false := by decide +kernel

theorem wit_ChunksAppliedAndEnginesFinish : (gw (grouping 0 512 0 none) 0).bufs = buffered 0 512 :: [buffered 0 0] ∧
    512 ≤ (buffered 0 512).next ∧ (buffered 0 512).failed = false ∧ ({ buffered 0 512 with failed := true } : ChunkBuf).failed = true ∧
    engineWaits (grouping 0 512 0 none) 0 (chunkWrites (grouping 0 512 0 none)
      { kind := .update, firstChunk := 10, nChunks := 1, bank0 := 0x100000, bank1 := 0x200000, group := 3 } 0).1 (chunkWrites
      (grouping 0 512 0 none) { kind := .update, firstChunk := 10, nChunks := 1, bank0 := 0x100000, bank1 := 0x200000, group := 3 } 0).2 = false ∧
    engineWaits (isolated true (grouping 1 512 0 none)) 0 (chunkWrites (grouping 1 512 0 none)
      { kind := .update, firstChunk := 10, nChunks := 1, bank0 := 0x100000, bank1 := 0x200000, out0 := 0x3000300000, out1 := 0x3000400000 } 0).1
      32768 = true ∧
    (let s := { updating { applying with bitmap := [(0, true), (2, true)], loss := some (3, 0, false) } with modCtr := [(100, 1)] }
     0 < 16 ∧ s.jobState = 3 ∧ (gw s 0).state = 1 ∧ (gw s 0).bufs = [] ∧ (gw s 0).gathers = [] ∧ lossHere s 0 = true ∧
     (gw s 0).loss.isSome = true ∧ shardsDone s (gw s 0) 0 (shardsOf s 0) = true) ∧
    shardsDone (updating applying) (gw (updating applying) 0) 0 (shardsOf (updating applying) 0) = false := by decide +kernel

/-- The step is open, with group 3's count and action, the step and ack hurdles, and the coordinator's state. -/
def voting (gs act : Nat) (c : Coord) (h a : W32) : State :=
  { updating { state := gs, loss := some (3, 0, true) } with
    groups := [(3, { used := true, cfg := { spikeAction := act } })], coord := c, modCtr := [(3800, h), (3801, a)] }

theorem wit_Votes : stepItems (voting 2 3 {} 0 0) = some (3800, 3801, 3802, 0x600000) ∧ stepOpen (voting 2 3 {} 0 0) = true ∧
    (∀ e ∈ (voting 2 3 {} 0 0).gws, e.2.state ≠ 1) ∧ (∃ e ∈ (voting 1 3 {} 0 0).gws, e.2.state = 1) ∧
    strongest (voting 2 3 {} 0 0) = 3 ∧ strongest (voting 2 1 {} 0 0) = 1 := by decide +kernel

theorem wit_Decisions :
    (0x20000 : W32) = ctrVal (voting 2 0 { voted := true } 0x20000 0) (.module 3800) ∧ jobModules (voting 2 0 {} 0 0) = 2 ∧
    satisfied (0x20000 : W32) (0 + BitVec.ofNat 32 (2 * 0x10000)) = true ∧ ((0x20000 : W32) - 0).toNat = 2 * 0x10000 ∧
    satisfied (0x20001 : W32) (0 + BitVec.ofNat 32 (2 * 0x10000)) = true ∧ ((0x20001 : W32) - 0).toNat ≠ 2 * 0x10000 ∧
    satisfied (0x10001 : W32) (0 + BitVec.ofNat 32 (2 * 0x10000)) = false ∧
    (0x20001 : W32) = ctrVal (voting 2 0 { acking := true } 0 0x20001) (.module 3801) ∧
    2 * 0x10000 < ((0x20001 : W32) - 0).toNat ∧ (voting 2 0 { voted := true } 0x20000 0).cwErr = [] ∧
    engineWaits (voting 2 0 { voted := true } 0x20000 0) 8 0x600000 64 = false ∧
    engineMay (voting 2 0 { voted := true } 0x20000 0) 8 0x600000 64 = true ∧
    exchMapped (voting 2 0 { voted := true } 0x20000 0) 0x600000 64 = false ∧
    engineWaits (isolated true (voting 2 0 { voted := true } 0x20000 0)) 8 0x600000 64 = true ∧
    engineMay (isolated false (voting 2 0 { voted := true } 0x20000 0)) 8 0x600000 64 = false ∧
    engineWaits (isolated false (voting 2 0 { voted := true } 0x20000 0)) 8 0x600000 64 = false := by decide +kernel

/-! ### Commands of the host -/

/-- The command processor serves commands; queue pair 0 has 4 entries, and its next completion wraps. -/
def open0 (x : Qp) : State :=
  { power := { stage := 8, linkUp := true, ready := true }, moduleId := 9
    qps := [(0, { x with enable := true, sqM1 := 3, cqM1 := 3, cqBase := 0x1000, cqTail := 3, vector := 5 })] }

/-- Two commands are outstanding, the first with a token. -/
def twoOut : Qp := { outs := [⟨1, 7, 0x0F⟩, ⟨2, 0, 1⟩], toks := [⟨7, 0x0F, none⟩], replays := [] }

theorem wit_CommandsAndCompletions : hostCmd (.run c0) = some (c0, .run, false) ∧ cmdOpen State.reset = false ∧
    cmdOpen (open0 twoOut) = true ∧ stateStatus .run (open0 twoOut).jobState = some 0x03 ∧
    hostCmd (.loadCourse c0 0 0 {} false) = some (c0, .load, true) ∧ stateStatus .load (open0 twoOut).jobState = none ∧
    ({ open0 twoOut with power := { (open0 twoOut).power with warn := true } } : State).power.warn = true ∧
    (∀ p ∈ (qp (open0 twoOut) 0).replays, (7 : Nat) = 0 ∨ p.2 ≠ 7) ∧ (open0 twoOut).power.linkUp = true ∧
    (qp (open0 { twoOut with replays := [(3, 7)] }) 0).replays = [(3, 7)] := by decide

/-- A course with offload channel 3 is LOADED, with what a test adds. -/
def loaded (k : Keys) : State := { open0 twoOut with jobState := 2, course := some { jobOf 9 with channels := [3] }, keys := k }

/-- A wrapped key for slot 3 of that job. -/
def wrap3 : Wrapped :=
  { bytes := leBytes 4 0x574B4559 ++ leBytes 2 1 ++ [0, 3] ++ leBytes 4 7 ++ leBytes 4 0 ++ leBytes 64 (jobOf 9).measure }

/-- Its KEM ciphertext. -/
def kemCt3 : List Byte := List.replicate 1568 0

theorem kemCt3_length : kemCt3.length = 1568 := List.length_replicate ..

/-- The key that wraps it for this module. -/
def wrapKey3 : Nat := ofLe (shake256 (ascii "IXG816/WRAP" ++ sized 32 (Config.kemSecret kemSeed kemCt3) ++ wrapHead wrap3) 32)

/-- That wrapped key with the 48 bytes of its last field. -/
def wrapping3 (bs : List Byte) : Wrapped := { bytes := wrap3.bytes ++ (kemCt3 ++ bs) }

theorem unwrap_wrapping3 (bs : List Byte) : unwrapKey (wrapping3 bs) = gcmOpen wrapKey3 0 (wrapHead wrap3) (sized 48 bs) := by
  have h : wrap3.bytes.length = 80 := by simp [wrap3]
  have hh : wrapHead (wrapping3 bs) = wrapHead wrap3 := by
    rw [wrapHead, wrapHead, sized, sized, wrapping3, List.append_assoc, List.append_assoc, List.take_left' h]
    exact (List.take_left' h).symm
  have hw : (wrapping3 bs).wrapped = bs := by
    rw [Wrapped.wrapped, wrapping3, ← List.append_assoc]
    exact List.drop_left' (by rw [List.length_append, h, kemCt3_length])
  have hk : (wrapping3 bs).kemCt = kemCt3 := by
    rw [Wrapped.kemCt, wrapping3, List.drop_left' h, List.take_left' kemCt3_length]
  have hd : ¬ (wrapping3 bs).kind = 1 := by
    rw [show (wrapping3 bs).kind = 0 from rfl]
    simp
  rw [unwrapKey, hh, hw, hk, if_neg hd, wrapKey3]

/-- A key that opens, and a tag that fails. -/
theorem wit_UnwrapKey (k : List Byte) (h : k.length = 32) :
    unwrapKey (wrapping3 (gcmSeal wrapKey3 0 (wrapHead wrap3) k)) = some k ∧
    ∃ b, unwrapKey (wrapping3 (List.replicate 32 0 ++ List.replicate 16 b)) = none := by
  constructor
  · rw [unwrap_wrapping3, show sized 48 _ = _ from (by simp [h] : (gcmSeal wrapKey3 0 (wrapHead wrap3) k).length = 48) ▸
      sized_self _, gcmOpen_gcmSeal]
  · by_contra hn
    have hall : ∀ b : Byte, List.replicate 16 b = gcmTag wrapKey3 0 (wrapHead wrap3) (List.replicate 32 0) := by
      intro b
      by_contra hb
      refine hn ⟨b, ?_⟩
      rw [unwrap_wrapping3, show sized 48 _ = _ from (by simp : (List.replicate 32 (0 : Byte) ++ List.replicate 16 b).length = 48) ▸
        sized_self _]
      exact gcmOpen_wrong _ _ _ _ _ (by simp) hb
    have e := (hall 0).trans (hall 1).symm
    simp at e

theorem wit_Queries : Taken (open0 twoOut) .any false ∧ (open0 twoOut).power.ready = true ∧
    hostFails (open0 twoOut) 0x1000 4096 = false ∧
    hostFails { open0 twoOut with hostErr := [(0x1FFF, 1)] } 0x1000 4096 = true ∧ 63424 ≤ 63424 ∧
    hostFails (open0 twoOut) 0x1000 (33632 + 29792) = false ∧ (open0 twoOut).suppsEff = [] ∧
    Taken (open0 twoOut) .any true ∧ areaEnd (open0 twoOut) 4 = none ∧ areaEnd (open0 twoOut) 2 = some 512 ∧
    512 < 8 + 505 ∧ 8 + 504 ≤ 512 ∧ (open0 twoOut).vault.badMap = 0 ∧ 64 ≤ 64 + 16 * (open0 twoOut).vault.fmap.length := by
  decide

theorem wit_Settings : Taken (loaded {}) .run false ∧ (loaded {}).course = some { jobOf 9 with channels := [3] } ∧
    3 ∈ ({ jobOf 9 with channels := [3] } : Image).channels ∧ 0x2000 % 4096 = 0 ∧ 65600 ≤ 65600 ∧
    Taken (loaded {}) .job false ∧ (loaded {}).debugOpen = false ∧ keyHeld (loaded { output := some 1 }) 2 = true ∧
    keyHeld (loaded {}) 0 = false ∧ wrap3.dmaError = false ∧ wrappedOk (loaded {}) 1696 3 0 wrap3 = true ∧
    (wrapping3 []).dmaError = false ∧ wrappedOk (loaded {}) 1696 3 0 (wrapping3 []) = true ∧
    wrappedOk (loaded {}) 1695 3 0 wrap3 = false ∧
    (List.replicate 64 (1 : Byte)).take 32 = (List.replicate 64 (1 : Byte)).drop 32 ∧
    Taken { loaded {} with debugOpen := true } .job false ∧
    (({ loaded {} with groups := [(3, { used := true })] } : State).groups.get {} 3).used = true ∧
    watchOk { nfAction := 3, spikeAction := 3, k := 16, a := 15, warmup := 255 } = true ∧
    watchOk { k := 17 } = false ∧ ((loaded {}).groups.get {} 4).used = false ∧ (loaded {}).jobState ≠ 3 ∧
    ({ loaded {} with jobState := 3 } : State).jobState = 3 := by decide +kernel

/-- COPY of 65,792 bytes to HBM3E, or from it. -/
def copyOf (dir crypto : Nat) : CopyP := { host := 0x1000, addr := 0x100000, length := 65792, dir := dir, crypto := crypto, slot := 0 }

/-- Keys for the ways of COPY. -/
def copyKeys : Keys := { data := [(0, (0, 5))], output := some 6 }

/-- The same course, sealed. -/
def sealedCopy : State := { loaded copyKeys with
  course := some { jobOf 9 with head := headBytes { job := 7, flags := 1 }, exchange := [(0x018000000000, 0x1000)] } }

theorem wit_Copies : Taken (loaded copyKeys) .job true ∧ copyOk (loaded copyKeys) { copyOf 0 0 with length := 255 } = false ∧
    copyKeyOk (loaded {}) (copyOf 0 1) = false ∧ copyOk (loaded copyKeys) (copyOf 0 0) = true ∧
    copyKeyOk (loaded copyKeys) (copyOf 0 0) = true ∧ copyOk (loaded copyKeys) (copyOf 0 1) = true ∧
    copyKeyOk (loaded copyKeys) (copyOf 0 1) = true ∧ copyKeyOk (loaded copyKeys) (copyOf 1 3) = true ∧
    exchMapped (loaded copyKeys) 0x100000 65792 = false ∧ (loaded copyKeys).cwErr = [] ∧
    reachesReserved (wakeRange (loaded copyKeys) 0x100000 65792) 0x100000 65792 = false ∧
    sealedJob sealedCopy = true ∧ copyOk sealedCopy (copyOf 1 0) = true ∧ copyKeyOk sealedCopy (copyOf 1 0) = true ∧
    sealedJob (loaded copyKeys) = false ∧ hostFails (loaded copyKeys) 0x1000 (65600 * 2) = false ∧
    ([true, false].getD 1 false = false) := by decide +kernel

theorem wit_CopiesToReservedMemory :
    (let s := { loaded copyKeys with defects := [(8 * 65536, 2)] }
     copyOk s (copyOf 0 0) = true ∧ copyKeyOk s (copyOf 0 0) = true ∧ sealedJob s = false ∧
     reachesReserved (wakeRange s 0x100000 65792) 0x100000 65792 = true) := by decide +kernel

/-! ### Queue pairs, registers, events, links and windows -/

/-- BAR0 answers; queue pair 63 in a state, and the event ring. -/
def bar (x : Qp) (r : EvtRing) : State :=
  { power := { stage := 8, linkUp := true, ready := true }, qps := [(63, x)], ring := r }

/-- An entry of an IDENTIFY with a fence, an identifier and a token. -/
def sqe (fence tok : Nat) : List Byte :=
  leBytes 1 1 ++ leBytes 1 fence ++ leBytes 2 0 ++ leBytes 4 9 ++ leBytes 8 tok ++ List.replicate 48 0

/-- Pair 63 has an entry at its end, with commands outstanding and tokens kept. -/
def ready63 (x : Qp) : State := bar { x with enable := true, sqM1 := 3, cqM1 := 3, sqHead := 3, sqTail := 1 } {}

theorem wit_QueuesAndDoorbells : barOpen (bar {} {}) = true ∧ (qp (bar {} {}) 63).enable = false ∧
    (qp (bar { sqM1 := 1, cqM1 := 4095 } {}) 63).sqM1 ≠ 0 ∧ (qp (bar { sqM1 := 1, cqM1 := 4095 } {}) 63).cqM1 ≠ 0 ∧
    (qp (bar { enable := true } {}) 63).enable = true ∧ 4095 % 4096 ≤ (qp (bar { enable := true, sqM1 := 4095, cqM1 := 4095 } {}) 63).sqM1 ∧
    4095 % 4096 ≤ (qp (bar { enable := true, sqM1 := 4095, cqM1 := 4095 } {}) 63).cqM1 ∧
    (bar {} { enable := true, m1 := 65535 }).ring.enable = true ∧ 65535 % 65536 ≤ (bar {} { enable := true, m1 := 65535 }).ring.m1 ∧
    (bar {} { enable := true, m1 := 9 }).ring.m1 < 10 % 65536 ∧ (bar {} { m1 := 9 }).ring.enable = false ∧
    (bar {} { m1 := 9 }).ring.m1 ≠ 0 := by decide

theorem wit_EntriesTaken : cmdOpen (ready63 {}) = true ∧ (ready63 {}).power.linkUp = true ∧ (sqe 1 7).length = 64 ∧
    turn (ready63 {}) ≠ some 62 ∧ turn (ready63 {}) = some 63 ∧ (sqe 1 7).getD 1 0 = 1 ∧
    turn (ready63 { outs := [⟨1, 0, 1⟩] }) = some 63 ∧ (qp (ready63 { outs := [⟨1, 0, 1⟩] }) 63).outs ≠ [] ∧
    (qp (ready63 {}) 63).outs = [] ∧ badEntry (sqe 2 7) = true ∧ (sqe 2 7).getD 1 0 ≠ 1 ∧ badEntry (sqe 0 7) = false ∧
    ofLe (((sqe 0 0).drop 8).take 8) = 0 ∧ ofLe (((sqe 0 7).drop 8).take 8) = 7 ∧
    (∀ y ∈ (qp (ready63 {}) 63).toks, y.token ≠ 7) ∧
    (qp (ready63 { toks := [⟨7, 2, none⟩] }) 63).toks.find? (fun t => t.token = 7) = some ⟨7, 2, none⟩ ∧
    (qp (ready63 { toks := [⟨7, 1, some (0, 5)⟩] }) 63).toks.find? (fun t => t.token = 7) = some ⟨7, 1, some (0, 5)⟩ ∧
    (qp (ready63 { toks := [⟨7, 1, none⟩] }) 63).toks.find? (fun t => t.token = 7) = some ⟨7, 1, none⟩ := by decide

theorem wit_BadDoorbells : barOpen (bar {} {}) = true ∧ (qp (bar {} {}) 63).enable = false ∧
    (qp (bar { enable := true, sqM1 := 3, cqM1 := 3 } {}) 63).sqM1 + 1 ≤ 4 % 4096 ∧
    (qp (bar { enable := true, sqM1 := 3, cqM1 := 3 } {}) 63).cqM1 + 1 ≤ 4 % 4096 := by decide

/-- Registers that hold bits, at the counter of R44 and at CMD_ERR. -/
def held : State := { bar {} {} with regs := [(regKey 0 0x120, 7), (regKey 0 0x300, 0xFF)], course := some (jobOf 9) }

theorem wit_RegisterAccesses : barOpen held = true ∧ goodAccess 0x120 8 = true ∧ rcField 0 0x120 = some (63, 0) ∧
    hiddenField held 0 0x120 = false ∧ 8 * (0x120 % 8) ≤ 0 ∧ 63 < 8 * (0x120 % 8 + 8) ∧ 8 * (0x120 % 8 + 4) ≤ 63 ∧
    hiddenField { held with course := some { jobOf 9 with head := headBytes { flags := 1 } } } 0 0x120 = true ∧ rcField 0 0 = none ∧
    goodAccess 0x122 4 = false ∧ w1cMask 0 0x300 ≠ 0 ∧ hiddenField held 0 0x300 = false ∧ w1cMask 0 0 = 0 ∧
    (qp held 63).enable = false ∧ 4000 ≤ bits (4000 * 65536) 31 16 ∧ held.power.ready = true ∧
    bar2Mapped { held with jobState := 2 } 0 64 = true ∧ bar2Mapped { held with jobState := 1 } 0 64 = false ∧
    held.cwErr = [] ∧ { held.power with ready := false }.ready = false := by decide +kernel

/-- An event of a code, and the ring with a room of `free` records, with the log buffer empty. -/
def ringed (e : Ev) (r : EvtRing) : State := { bar {} r with evs := [e, e] }

/-- An event of a sealed job in a class that R466 hides. -/
def hiddenEv : Ev := { code := 0x0411, die := 7, unit := 95, detail := some 3, time := 5, isSealed := true }

theorem wit_EventsAndInterrupts : (ringed hiddenEv {}).evs = hiddenEv :: [hiddenEv] ∧ (ringed hiddenEv {}).vault.state < 2 ∧
    (ringed hiddenEv {}).vault.buf.length < 4095 ∧ hiddenEv.detail = some 3 ∧ hiddenClass 0x0411 = true ∧ hiddenClass 0x0501 = false ∧
    (ringed hiddenEv { enable := true, m1 := 3, count := 4 }).ring.m1 < 4 ∧
    (ringed hiddenEv { enable := true, m1 := 3, count := 3, tail := 3 }).ring.count ≤ 3 ∧
    (ringed hiddenEv { enable := true, m1 := 3, count := 2, lost := true }).ring.count + 1 ≤ 3 ∧
    ({ hiddenEv with detail := none } : Ev).detail = none := by decide

/-- A vector that is due, masked or not, with the link up or down. -/
def vectored (masked up : Bool) : State :=
  { vecDue := [4, 5], msix := [(5, { addr := 0x100, data := 9, masked := masked })], power := { linkUp := up } }

theorem wit_Interrupts : 5 ∈ (vectored true true).vecDue ∧ (msixOf (vectored true true) 5).masked = true ∧
    (msixOf (vectored false true) 5).masked = false ∧ (vectored false true).power.linkUp = true ∧
    (vectored false false).power.linkUp = false ∧
    (let s : State := { power := { rails := 3, refOk := true, stage := 8 }, posts := [.write 0x40 [1], .vector 5], ports := [(15, {})] }
     s.power.linkUp = false ∧ s.power.perst = false ∧ s.power.noSup = false ∧ s.power.rails = 3 ∧ s.power.refOk = true ∧
     s.power.trip = false ∧ s.power.linksOn = false ∧ 8 ≤ s.power.stage ∧ (hport s 15).state = 0 ∧
     (hport s 15).enabled = true ∧ portHeld s 15 = false) ∧ (7 : Nat) < 8 ∧ 16 ≤ 31 ∧ 31 < 32 := by decide

/-- Commands are served, with port 15 in a state, used or not by the loaded course. -/
def porting (h : HPort) (used : Bool) : State := { ported h used with power := { stage := 8, linkUp := true, ready := true, linksOn := true } }

theorem wit_LinkCommands : Taken (porting { state := 2 } true) .any false ∧ usedPort (porting { state := 2 } true) 15 = true ∧
    usedPort (porting { state := 1 } false) 15 = false ∧ (hport (porting { state := 1 } false) 15).state ≠ 2 ∧
    (hport (porting { state := 1 } false) 15).enabled = true ∧ (hport (porting { state := 3, enabled := false } false) 15).enabled = false ∧
    (hport (porting { state := 2 } false) 15).state = 2 ∧ portHeld (porting { state := 2 } false) 15 = false ∧
    (porting { state := 2 } false).gated.get false 15 = false ∧
    ({ porting { state := 2 } false with gated := [(15, true)] } : State).gated.get false 15 = true := by decide

/-- A window of a loaded job by command. -/
def winCfg : WinCfg := { cluster := 95, window := 63, dir := 3, base := 63, sizeM1 := 0, srcModule := 5, srcJob := 7 }

/-- The job is LOADED and the window in a state. -/
def opening (w : Win) : State := { loaded {} with wins := [(64 * 95 + 63, w)], bankMode := [(6144 + 32 * 95, 2)] }

theorem wit_WindowCommands : Taken (opening {}) .job false ∧ (win (opening {}) 95 63).state = 0 ∧ winCfgOk (opening {}) winCfg = true ∧
    winCfgOk (opening {}) { winCfg with dir := 0 } = false ∧ (win (opening { state := 1 }) 95 63).state ≠ 0 ∧
    (win (opening { state := 2, closers := [c0] }) 95 63).state = 2 ∧
    (win (opening { state := 2, closers := [c0] }) 95 63).closers = [c0] := by decide

/-! ### Jobs, stops, tests, clocks, power, the vault and management -/

/-- A module of one station, with the command processor open. -/
def oneStation (js : Nat) (c : Option Image) : State :=
  { power := { stage := 8, linkUp := true, ready := true }, moduleId := 9, jobState := js, course := c
    coresNext := (List.range 96).map (fun g => (g, if g = 95 then 1 else 0))
    coresEff := (List.range 96).map (fun g => (g, if g = 95 then 1 else 0))
    qps := [(0, { enable := true, sqM1 := 3, cqM1 := 3 })] }

/-- A course that this module takes: one store bank of mode KEEP, with 16 bytes of data, one of mode RUN, and a seed. -/
def small : Image :=
  { head := headBytes { job := 7, version := 1, moduleId := 9, bodyLength := 32, sectionCount := 1 }
    body := leBytes 2 3 ++ leBytes 2 0 ++ leBytes 4 16 ++ leBytes 8 (storeAddr 95) ++ leBytes 16 0x1234, signedBy := 1, moduleSet := [9], stations := [760]
    ceilings := [(95, 10)], shares := [(760, 4)], entries := [(760, 5)], seeds := [(760, 11)]
    storeModes := [(9184, 2), (9185, 1)], groups := [(3, some {})] }

theorem wit_LoadCourse : Taken (oneStation 0 none) .load true ∧ (oneStation 0 none).vault.badEssential = 0 ∧
    (oneStation 0 none).vault.courseKeys.get 0 0 = 1 ∧ headOk (oneStation 0 none) 29952 small.hdr = true ∧
    headOk (oneStation 0 none) 29953 small.hdr = false ∧ (0 : Nat) ≠ 1 ∧ small.signedBy = 1 ∧
    (let s := { oneStation 0 none with vault := { counters := [(5, 2)] } }; small.hdr.version < s.vault.counters.get 0 5) ∧
    (oneStation 0 none).vault.counters.get 0 5 ≤ small.hdr.version ∧ (oneStation 0 none).vault.state = 0 ∧
    contentOk (oneStation 0 none) small = true ∧ contentOk (oneStation 0 none) { small with splice := 4 } = false := by
  decide +kernel

/-- The job is LOADED or in a RUN, with the banks' modes; what stopped the RUN. -/
def jobIn (js : Nat) (r : RunCtl) (t : Station) : State :=
  { oneStation js (some small) with run := r, stns := [(760, t)], bankMode := [(6080, 2), (9184, 2), (9185, 1)] }

theorem wit_Runs : Taken (jobIn 2 {} {}) .run false ∧
    keysMissing { oneStation 2 (some { small with channels := [1] }) with keys := {} } = true ∧ keysMissing (jobIn 2 {} {}) = false ∧
    (jobIn 2 {} {}).coord.frozen = false ∧ (jobIn 2 {} {}).run.portLost = false ∧ (jobIn 2 { portLost := true } {}).run.portLost = true ∧
    (jobIn 3 {} {}).course = some small ∧ (jobIn 3 {} {}).jobState = 3 ∧ (jobIn 3 {} {}).run.started = false ∧
    present (jobIn 3 {} {}) 760 = true ∧ live (jobIn 3 {} {}) 95 = true ∧
    (let s := jobIn 3 { started := true, src := some c0 } { run := .halted }
     s.run.started = true ∧ s.run.src = some c0 ∧ s.run.halts = [] ∧ Quiet s ∧
     (∀ n, n < 768 → present s n = true → (stn s n).run = .halted) ∧ gcsEnded s = true ∧ enginesDone s = true ∧
     settled s = true) ∧
    (stn (jobIn 3 {} { run := .issuing }) 760).run ≠ .halted ∧ Taken (jobIn 2 {} {}) .job false ∧ (jobIn 2 {} {}).jobState = 2 ∧
    Quiet (jobIn 3 {} {}) ∧ Quiet (jobIn 2 {} {}) ∧ (∀ e ∈ (jobIn 2 {} {}).wins, e.2.closers = []) ∧ (jobIn 2 {} {}).snap = none := by
  decide +kernel

/-- A RUN of the update course in which a step is open, with a fault stop that is wanted at a stage. -/
def stopping (opened : Bool) (stage : Nat) (r : RunCtl) (t : Station) : State :=
  { updating { state := 1, loss := if opened then some (3, 0, false) else none } with
    power := { stage := 8, linkUp := true, ready := true }
    stop := { wanted := true, stage := stage, event := 0x0501 }, run := r, stns := [(0, t)], timeNs := 100000 }

theorem wit_Stops : (stopping false 0 {} {}).stop.wanted = true ∧ (stopping false 0 {} {}).jobState = 3 ∧
    allHalted (stopping false 0 {} {}) = true ∧ stepOpen (stopping false 0 {} {}) = false ∧ (stopping false 0 {} {}).dump.state ≠ 1 ∧
    (stopping false 0 {} {}).stop.since + 100000 ≤ (stopping false 0 {} {}).timeNs ∧
    stepOpen (stopping true 0 {} {}) = true ∧ (stepItems (stopping true 0 {} {})).isSome = true ∧
    (stopping true 0 {} {}).coord.voted = false ∧ (stopping true 0 {} {}).run.portLost = false ∧
    (let s := { stopping true 0 {} { run := .issuing, haltNext := true } with timeNs := 99999 }
     allHalted s = false ∧ s.timeNs < s.stop.since + 100000) ∧ (stopping false 1 {} {}).stop.stage = 1 ∧
    (let s := { stopping true 0 {} {} with stop := {} }
     Taken s .job false ∧ s.stop.wanted = false ∧ s.stop.stage = 0 ∧ stepOpen s = true) := by decide +kernel

/-- A watchdog at its end or before it. -/
def waited (n : Nat) : State :=
  { jobIn 3 {} { wdog := n } with clus := [(95, { gc := { wdog := n } })] }

theorem wit_Watchdogs : (waited (2 ^ 24)).jobState = 3 ∧ (waited (2 ^ 24)).run.timeout = false ∧
    expired (waited (2 ^ 24)) (.station 760) = true ∧ expired (waited (2 ^ 24)) (.gc 95) = true ∧
    (waited (2 ^ 24)).dump.state ≠ 1 ∧ expired (waited (2 ^ 24 - 1)) (.station 760) = false := by decide +kernel

/-- A dump in a state, by a trigger. -/
def dumping (st trigger : Nat) (src : Option (Src × Nat)) : State :=
  { jobIn 2 {} {} with dump := { state := st, trigger := trigger, src := src, seq := 4 }, modCtr := [(0, 5)] }

theorem wit_Dumps : (dumping 1 3 none).dump.state = 1 ∧ placeMap (dumping 1 3 none) dumpBase ≠ .reserved ∧
    (∀ e ∈ dumpImage (dumping 1 3 none), e.1 + e.2.length ≤ 0xB2000) ∧
    (dumping 1 3 none).dump.isSealed = false ∧ (dumping 1 3 none).dump.src = none ∧ (dumping 1 1 none).dump.trigger = 1 ∧
    (dumping 1 2 (some (c0, 0))).dump.src = some (c0, 0) ∧ (dumping 1 2 (some (c0, 64))).dump.later = 0 ∧
    hostFails (dumping 1 2 (some (c0, 64))) 64 0xB2000 = false ∧ Taken (dumping 0 0 none) .job false ∧
    (dumping 0 0 none).dump.state = 0 ∧ (dumping 2 0 none).dump.state = 2 ∧ Taken (dumping 1 2 none) .job false := by decide +kernel

/-- A snapshot of gateway 0, whose only chunk is read from the bank at 0x100000. -/
def snapping (todo : List (Nat × Nat)) (bad : Bool) : State :=
  { updating {} with
    power := { stage := 8, linkUp := true, ready := true }, jobState := 2, defects := if bad then [(8 * 65536, 2)] else []
    snap := if todo = [] then none else some { src := c0, dest := 0x1000, window := false, fmt := 1, scaled := false, bank := false, step := 4, todo := todo } }

theorem wit_Snapshots : Taken (snapping [] false) .job false ∧ (snapping [(0, 0)] false).snap.isSome = true ∧
    (snapping [] false).snap = none ∧ tileOk 1 false = true ∧ snapChunks (snapping [] false) 1 = [(0, 0), (0, 2)] ∧
    snapChunks (snapping [] false) 2 = [] ∧ 65535 < snapBytes (snapping [] false) 0 (2 * storedBytes 1 false) ∧
    snapBytes (snapping [] false) 0 (2 * storedBytes 1 false) ≤ 65536 ∧ snapBytes (snapping [] false) 0 0 ≤ 0 ∧
    slotChunk 0 (shardsOf (snapping [(0, 0)] false) 0) = some ({ kind := .update, firstChunk := 10, nChunks := 1, bank0 := 0x100000, bank1 := 0x200000, group := 3 }, 0) ∧
    Fmt.ofCode 1 = some .bf16 ∧ engineMay (snapping [(0, 0)] false) 0 0x100000 (16384 * 8) = true ∧
    engineMay (snapping [(0, 0)] true) 0 0x100000 (16384 * 8) = false ∧ (snapping [(0, 0)] false).cwErr = [] ∧
    sealedJob (snapping [(0, 0)] false) = false ∧ hostFails (snapping [(0, 0)] false) 0x1000 65600 = false := by decide +kernel

/-- Bank 95.0 of a free module with a physical fault or none, its test queued, and earlier outcomes of it. -/
def testing (defect n : Nat) : State :=
  { oneStation 0 none with
    defects := if defect = 0 then [] else [(unitKey 5 3040, defect)], tests := [⟨5, 3040, 0x0501⟩]
    evs := List.replicate n { code := kindClass 5 * 256 + 0xF0, die := 7, unit := 5, detail := some 3040 } }

theorem wit_SelfTests : Taken (testing 0 0) .test false ∧ unitCount 5 ≤ 3072 ∧ unitAbsent (testing 0 0) 5 0 = true ∧
    unitAbsent (testing 0 0) 5 3040 = false ∧ unitInUse (testing 0 0) 5 3040 = false ∧ unitInUse (jobIn 2 {} {}) 5 3040 = true ∧
    unitAbsent (jobIn 2 {} {}) 5 3040 = false ∧ Taken (jobIn 2 {} {}) .test false ∧
    reproduces (testing 0 0) 5 (locOf (testing 0 0) 5 3040) = false ∧ reproduces (testing 1 0) 5 (locOf (testing 1 0) 5 3040) = true ∧
    foundUnits (testing 0 0) = [] ∧ foundUnits { testing 0 0 with defects := [(unitKey 4 95, 1)] } ≠ [] ∧
    mapped (testing 0 0) 5 3040 = false ∧ mapLoad (testing 0 0) < 32768 ∧ (testing 0 0).vault.state < 2 ∧
    (testing 0 0).tests.find? (testMayRun (testing 0 0)) = some ⟨5, 3040, 0x0501⟩ ∧ 8 ≤ (testing 0 0).power.stage ∧
    3 ≤ transients (testing 0 3) 5 3040 ∧ transients (testing 0 2) 5 3040 < 3 ∧
    (jobIn 3 {} {}).tests.find? (testMayRun (jobIn 3 {} {})) = none := by decide +kernel

/-- Control cores in a state. -/
def controlled (c : Ctl) (js : Nat) : State := { jobIn js {} {} with ctl := c }

theorem wit_ControlCores : 3 ≤ (controlled {} 3).power.stage ∧ moonServes (controlled {} 3) 7 1 = true ∧
    (controlled {} 3).tests.length < 256 ∧ (controlled {} 3).stop.wanted = false ∧ (controlled {} 3).ctl.hd1 = false ∧
    (controlled {} 3).ctl.hd1Ok = true ∧ (controlled { hd1 := true } 3).ctl.hd0Ok = true ∧
    (controlled { hd1Ok := false } 3).ctl.hd1Ok = false ∧ (controlled { hd1 := true, hd0Ok := false, failing := true } 3).ctl.failing = true ∧
    reproduces (controlled {} 3) 14 0 = false ∧ transients (controlled {} 3) 14 0 < 3 ∧
    reproduces { controlled {} 3 with defects := [(unitKey 14 0, 1)] } 14 0 = true := by decide +kernel

/-- A fixed domain that runs, from a source. -/
def clocked (p : Power) : State := { power := { p with stage := 9, fixedOn := true, linkUp := true } }

theorem wit_Clocks : (clocked {}).power.stage ≠ 0 ∧ (clocked { xtalSrc := true }).power.xtalSrc = true ∧ (clocked {}).power.fixedOn = true ∧
    (clocked {}).power.refLost = false ∧ (clocked { refLost := true }).power.refLost = true ∧
    (clocked { xtalOk := true }).power.xtalOk = true ∧ (clocked {}).power.refOk = false ∧ (clocked {}).power.xtalOk = false ∧
    (clocked {}).power.linkUp = true := by decide

/-- Cluster 95 in a state. -/
def paced (c : Cluster) (hot : Bool) : State := { oneStation 0 none with clus := [(95, c)], power := { stage := 8, thermal := [(95, hot)] } }

theorem wit_Pacers : (clu (paced { ramping := true, onBoot := false, ratio := 0x60000, target := 2100 } false) 95).ramping = true ∧
    (paced {} false).power.clockWait = [] ∧ (clu (paced { ramping := false } false) 95).ramping = false ∧ live (paced {} false) 95 = true ∧
    7 ≤ (paced {} false).power.stage ∧ (paced {} true).power.thermal.get false 95 = true ∧
    (paced {} false).power.thermal.get false 95 = false ∧ (paced {} false).tests.length < 256 ∧
    Taken (paced {} false) .any false ∧ inScope 2 95 = true ∧ inScope 1 95 = false := by decide +kernel

/-- The supply watched, with the power part in a state. -/
def supply (p : Power) : State := { power := { p with rails := 3, stage := 8 } }

theorem wit_SupplyAndBudget : (supply {}).power.rails = 3 ∧ (supply {}).power.warn = false ∧ 34999 < 35000 ∧
    (supply { warn := true }).power.warn = true ∧ (supply { warn := true }).power.hold = false ∧ 36000 < 36001 ∧
    (supply { warn := true, hold := true }).power.hold = true ∧ 44500 < 44501 ∧ budgetOn (supply {}) = true ∧
    (min (12 * (supply {}).power.cap) 160000 < 10 * 14401) ∧ (supply { backstop := true }).power.backstop = true ∧
    (supply {}).power.cap < 12001 ∧ (supply {}).power.overRaised = false ∧ 7000 < 7001 ∧ (supply {}).power.halfWest = false ∧
    (supply { alertStretch := true }).power.alertStretch = true ∧ 100 * (supply {}).power.watts < 95 * effCap (supply {}) ∧
    95 * effCap (supply { watts := 11400 }) ≤ 100 * (supply { watts := 11400 }).power.watts ∧ (supply {}).power.alert = false ∧
    (supply { alert := true }).power.alert = true := by decide

theorem wit_PowerUp : State.reset.power.regulators = false ∧ State.reset.power.rails = 0 ∧ State.reset.power.trip = false ∧
    State.reset.power.railFails = 0 ∧ ({ regulators := true, rails := 2 } : Power).rails < 3 ∧
    ({ railFails := 2 } : Power).railFails ≤ 2 ∧ 3 ≤ ({ railFails := 3 } : Power).railFails ∧
    ({ rails := 3 } : Power).stage = 0 ∧ ({ stage := 1, refOk := true } : Power).refOk = true ∧
    (({ power := { stage := 2 } } : State).power.noSup = false ∧ pairOut { power := { stage := 2 } } 14 0 = false ∧
      pairOut { power := { stage := 2 } } 14 1 = false) ∧
    (let v := State.reset.vault
     v.torn = false ∧ v.badEssential = 0 ∧ v.badMap = 0 ∧ v.state ≠ 3 ∧ v.poolSpent = false ∧ v.blockFails = false ∧
     v.badSupps = [] ∧ v.fmap = []) ∧ State.reset.defects = [] ∧ State.reset.wireFault = [] ∧ State.reset.ctl.moonOut = [] ∧
    ({ stage := 5 } : Power).resetting = false ∧ ({ stage := 7 } : Power).lpZero = false ∧
    ({ stage := 7, lpZero := true } : Power).netFault = false ∧ ({ stage := 8 } : Power).perst = false := by decide

theorem wit_Resets : barOpen (jobIn 3 {} {}) = true ∧ (0x100005752 : Nat) % 2 ^ 32 = 0x5752 ∧ (jobIn 3 {} {}).power.ready = true ∧
    (jobIn 3 {} {}).power.perst = false ∧ State.reset.power.ready = false ∧ ({ perst := true, cause := 2, stage := 5 } : Power).ready = false ∧
    fatalTemp 14 = some 115 ∧ 115 ≤ 115 ∧ (supply {}).power.rails ≠ 0 ∧ 31999 < 32000 ∧ 46000 < 46001 ∧ 114 < 115 := by decide +kernel

/-- The vault in a state, with the management endpoint up. -/
def vaulted (v : Vault) (warn : Bool) : State := { oneStation 0 none with vault := v, power := { stage := 8, warn := warn } }

/-- A fault-map entry, a log entry, and a supplement under its key. -/
def entry5 : FEntry := { kind := 5, action := 3, location := 3040, event := 0x0501, hours := 2 }

/-- Supplement of type 2. -/
def supp2 : Supplement :=
  { head := leBytes 4 0x53555050 ++ leBytes 4 2 ++ leBytes 8 3 ++ leBytes 4 64 ++ leBytes 44 0, signedBy := 2 }

/-- An enrollment record under the owner's key. -/
def enrollIn (slot : Byte) : EnrollRec :=
  { bytes := leBytes 4 0x454E524C ++ [1, 0, slot, 0] ++ leBytes 8 4 ++ leBytes 16 Config.serial ++ leBytes 64 12, signedBy := 1 }
def enroll3 : EnrollRec := enrollIn 3

/-- An unlock token under the debug key. -/
def tokenAt (boot : Byte) : Token :=
  { bytes := leBytes 4 0x44424755 ++ [1, 0, 0, 0] ++ leBytes 16 Config.serial ++ boot :: leBytes 7 0, signedBy := debugKey }
def token3 : Token := tokenAt 0

theorem enrollIn_serial (slot : Byte) : (enrollIn slot).serial = Config.serial % 2 ^ 128 := ofLe_leBytes 16 Config.serial
theorem tokenAt_serial (boot : Byte) : (tokenAt boot).serial = Config.serial % 2 ^ 128 := ofLe_leBytes 16 Config.serial

theorem wit_VaultCommands : (vaulted { queue := [.fault entry5, .life] } false).vault.queue = .fault entry5 :: [.life] ∧
    (vaulted { queue := [.life], state := 2 } true).power.warn = true ∧ (vaulted { state := 2 } false).vault.state ≠ 0 ∧
    (vaulted {} false).vault.blockFails = false ∧ (vaulted {} false).vault.log.length + 2 ≤ logMax ∧
    (vaulted { buf := [{ ev := hiddenEv }] } false).vault.buf ≠ [] ∧ 4 ≤ (vaulted {} false).power.stage ∧
    Taken (vaulted {} false) .load true ∧ suppHeadOk supp2 = true ∧ 29920 = 64 + supp2.bodyLength + 29792 ∧
    (vaulted { suppKey := 3 } false).vault.suppKey ≠ supp2.signedBy ∧ (vaulted {} false).vault.suppKey = supp2.signedBy ∧
    supp2.version < (vaulted { counters := [(3, 4)] } false).vault.counters.get 0 (1 + supp2.type) ∧
    (vaulted {} false).vault.counters.get 0 3 ≤ supp2.version ∧ Taken (vaulted {} false) .any true ∧
    mgtUp (vaulted {} false) = true ∧ (vaulted {} false).vault.courseKeys.get 0 0 = 1 ∧ enroll3.signedBy = 1 ∧
    (vaulted {} false).vault.counters.get 0 1 < enroll3.version ∧
    enroll3.version ≤ (vaulted { counters := [(1, 4)] } false).vault.counters.get 0 1 ∧ areaEnd (vaulted {} false) 1 = some 4096 := by
  decide +kernel

theorem wit_EnrollAndUnlock : enrollOk enroll3 = true ∧ enrollOk (enrollIn 16) = false ∧
    tokenOk (vaulted {} false) token3 = true ∧ tokenOk (vaulted {} false) (tokenAt 1) = false ∧
    token3.signedBy = debugKey ∧ debugKey ≠ 1 := by
  refine ⟨?_, ?_, ?_, ?_, rfl, by decide⟩
  · simp only [enrollOk, enroll3, enrollIn_serial, decide_true, Bool.and_true]
    decide +kernel
  · simp only [enrollOk, enrollIn_serial, decide_true, Bool.and_true]
    decide +kernel
  · simp only [tokenOk, token3, tokenAt_serial, decide_true, Bool.and_true]
    decide +kernel
  · simp only [tokenOk, tokenAt_serial, decide_true, Bool.and_true]
    decide +kernel

theorem wit_Management : mgtUp (vaulted {} false) = true ∧ (vaulted {} false).mgt.i3c = false ∧ mgtUp State.reset = false ∧
    (let s := { vaulted {} false with mgt := { sensors := [(33, 40), (41, 2)] } }
     sensorUp s 33 = true ∧ s.mgt.sensors.find? (fun e => e.1 = 33) = some (33, 40) ∧
     s.mgt.sensors.find? (fun e => e.1 = 41) = some (41, 2)) ∧ sensorUp { power := { stage := 4 } } 33 = false ∧
    healthCodes (vaulted {} false) = [] ∧ healthCodes (vaulted {} true) = [2] := by decide +kernel

theorem wit_CoresByFailedPositions : State.reset.assignNext.get [] 95 = [] ∧ State.reset.coresNext.get 8 95 = 8 ∧
    (∀ p, some p ∈ [some 8, some 0, some 8] → p ≤ 8) ∧ (none : Option Nat) ∉ [some 8, some 0, some 8] ∧
    ([some 8, some 0, some 8] : List (Option Nat)).dedup.length = 2 ∧ ([some 8, some 0, some 4] : List (Option Nat)).dedup.length = 3 ∧
    none ∈ [none, some 4] := by
  refine ⟨by decide, by decide, fun p hp => ?_, by decide, by decide, by decide, by decide⟩
  simp at hp
  omega

theorem wit_SealedNormsReadZero : sealedJob sealedCopy = true ∧ sealedJob { sealedCopy with course := none } = false := by decide

/-! ## The examples of the spec -/

/-- The first draw of an LFSR at state 1 (04, the example after R176). -/
theorem test_lfsr : lfsrDraw 16 1 = (0xB6F6B6C3, 0xB6DB) := by decide +kernel

/-- Stride s2 of station 9 in the counted-timing example of 06, which the text gives as 4 words. -/
theorem test_stride : (decodeStride 9 2 (0x0022000000000100 + 0x0000002200000000 * 2 ^ 64 + 0x1200000000000000 * 2 ^ 128 +
    0x0000000000006028 * 2 ^ 192)).map (fun x => (x.pred, x.sendOp, x.a, x.b, x.sc)) =
    some (0, some (.send 9 .inner 0 .inner 0), some (.mac 9 0 { acc := 0, clear := true, bufCol := 0, bufRow := 0 }),
      some (.mac 9 1 { acc := 0, clear := true, bufCol := 0, bufRow := 0 }), .loop 9 0 5 3) := by decide +kernel

/-! ## What stopped hops, changing banks and bytes still on their way keep from the statements -/

/-- The hop of the signal net from cluster 0 to the node of its die, and the one into cluster 0 on the main fabric, have
stopped. -/
def cutHops (s : State) : State := { s with netStopped := [(0, true)], fabStopped := [(fabKey 0 15 0, true)] }

theorem wit_LoadsOfSettledBytes : (∀ r ∈ openRanges edges, pocketAddr 0 0x80000 + 8 ≤ r.1 ∨ r.1 + r.2 ≤ pocketAddr 0 0x80000) ∧
    (∀ r ∈ openRanges blocks, 0x18000000000 + storedBytes 8 false ≤ r.1 ∨ r.1 + r.2 ≤ 0x18000000000) := by decide +kernel

theorem wit_LandingsThatAreRead : NotRead (arriving (fly false false 0) .free) 0 .inner 3 1 ∧
    allFree (arriving (fly false false 0) .free) 0 .inner 3 1 = true := by
  unfold NotRead
  decide +kernel

/-- A transfer of 256 bytes 0, whose CRC-16 is not 1. -/
theorem wit_Transfers : crc16 [] = 0xFFFF ∧ crc16 [] ≠ 1 ∧ 0 + 8 ≤ (fly false false 7).baton.transfers ∧
    (fly false false 7).waiting = false ∧ (fly false false 7).failAt = 0 ∧ (fly false false 7).fails < 8 ∧
    (fly false false 8).landing = false ∧ allFree (arriving (fly false false 8) .held) 0 .inner 3 1 = false ∧
    allFree (arriving (fly false false 8) .free) 0 .inner 3 1 = true := by decide +kernel

theorem wit_FabricHops : fabHop 9 13 0 = true ∧ fabHop 0 15 11 = true ∧ fabHop 0 13 0 = false ∧
    State.reset.fabStopped.get false (fabKey 9 13 0) = false ∧
    8 ≤ ({ fabFails := [(fabKey 9 13 0, 8)] } : State).fabFails.get 0 (fabKey 9 13 0) ∧
    ({ fabFails := [(fabKey 9 13 0, 7)] } : State).fabFails.get 0 (fabKey 9 13 0) < 8 ∧ edgeEnds[13]? = some (9, 7) ∧
    route 0 7 = [1, 2, 3, 7] ∧ route 7 8 = [6, 5, 4, 8] := by decide +kernel

theorem wit_MacsThatChangeBuffers : (arr (arrs0 { k := 1, lastCol := 1 } []) 0 0).k ≠ 0 ∧ lanes.srcCol ≠ .pocket ∧
    0 ≠ (arr (arrs0 { k := 1, lastCol := 1 } []) 0 0).lastCol ∧ (arr (arrs0 {} []) 0 0).k = 0 ∧ (arr (arrs0 {} []) 0 0).sub = 0 ∧
    lanes.srcCol = (if Lane.inner = Lane.inner then Feed.inner else .outer) ∧
    lbState (stn (arrs0 {} []) 0) .inner 0 = .free ∧ imagOk product 0 .single .inner 0 .int8 = true ∧
    imagOk product 0 .single .outer 0 .int8 = true ∧ feedBufs .single .inner 0 .int8 = [(.inner, 0)] ∧
    (lb product 0 .inner 0).state ≠ .heldBad ∧ (arr settledAt 0 1).drains = [] := by
  decide +kernel

theorem wit_DescriptorsBehindStoppedHops :
    (probes ((eng (engine0 list17) 0 0).addr + 32 * (eng (engine0 list17) 0 0).nFetched) 512).all
      (fun p => reach (engine0 list17) 0 0 p false) = true ∧
    (probes (0x40800080000 + 0x400000) 512).all (fun p => reach (engine0 list17) 0 0 p false) = false ∧
    (fetched copy256 []).dump.state ≠ 1 ∧ descOpen (fetched copy256 []) 0 copy256 = true ∧
    descOpen (cutHops (fetched copy256 [])) 0 copy256 = false ∧
    (∀ q ∈ openRanges (fetched copy256 [{ d := copy256 }]), copy256.w1 + lenOf copy256 ≤ q.1 ∨ q.1 + q.2 ≤ copy256.w1) ∧
    (eng (fetched copy256 [{ d := copy256 }]) 0 0).flight[0]? = some { d := copy256 } ∧
    NotRead injected0 0 .inner 0 1 := by
  unfold NotRead
  decide +kernel

theorem wit_HurdlesBehindStoppedHops : cutOff (inRun {}) (.station 0) (.module 7) = false ∧
    cutOff (cutHops (inRun {})) (.station 0) (.module 7) = true ∧ registers (.module 7) = true ∧
    addrCtr (0x00240000 + 63) = .core 0 63 ∧ (56 : Nat) ≤ 63 ∧ cutOff (cutHops (inRun {})) (.station 0) (.core 0 1) = false ∧
    cutOff hurdles (.gc 0) (addrCtr 0x80010001) = false ∧ isJobHurdle hurdles (addrCtr 0x00170F00) = true ∧
    cutOff (cutHops hurdles) (.gc 0) (.module 7) = true := by decide +kernel

/-- A station and a general core that wait on the same counter, the station released or lent a share. -/
def waitingOn (c : Ctr) (rel : Bool) (l : List Loan) : State :=
  { stns := [(0, { run := .waiting, pend := some (.wait c 1 false), released := rel })]
    clus := [(0, { gc := { state := .xhwait, waitCtr := some c, target := 1, released := if rel then some 1 else none }, loans := l })]
    adds := [{ c := c, n := 1, node := 0, top := 0 }], valMsgs := [(.station 0, c, 1), (.gc 0, c, 1)], course := some (jobOf 9) }

theorem wit_WaitsReleased : (stn (waitingOn (.core 0 1) false []) 0).run = .waiting ∧ registers (.core 0 1) = false ∧
    satisfied (ctrVal (waitingOn (.core 0 1) false []) (.core 0 1) + 1) 1 = true ∧
    (gcOf (waitingOn (.core 0 1) false []) 0).released = none ∧ (gcOf (waitingOn (.core 0 1) true []) 0).released = some 1 ∧
    (waitingOn (.module 7) false []).valMsgs[1]? = some (.gc 0, .module 7, 1) ∧
    (∀ e ∈ (waitingOn (.module 7) false []).valMsgs.take 1, e.1 ≠ .gc 0) ∧
    cutOff (waitingOn (.module 7) false []) (.gc 0) (.module 7) = false ∧
    cutOff (cutHops (waitingOn (.module 7) false [])) (.gc 0) (.module 7) = true ∧
    (stn (waitingOn (.core 0 1) true []) 0).released = true ∧ (waitingOn (.core 0 1) true []).dump.state ≠ 1 ∧
    lentOut (clu (waitingOn (.core 0 1) true [⟨1, 0, 9, [(0, 2)]⟩]) 0) 0 ≠ 0 ∧
    lentOut (clu (waitingOn (.core 0 1) true []) 0) 0 = 0 := by decide +kernel

theorem wit_SignalNet : crc8 [] = 0 ∧ crc8 [1] ≠ 0 ∧ ({ hopFails := [(104, 7)] } : State).hopFails.get 0 104 < 8 ∧
    8 ≤ ({ hopFails := [(104, 8)] } : State).hopFails.get 0 104 ∧ State.reset.netStopped.get false 104 = false := by decide +kernel

theorem wit_CoresBehindStoppedHops : gcBlocked blocks 0 0x10000 = false ∧ gcBlocked (cutHops blocks) 0 0x10000 = true ∧
    gcReach (cutHops blocks) 0 0x10000 8 false = true ∧ gcRegOk (cutHops blocks) 0 0x10000 8 false = false := by
  decide +kernel

theorem wit_WindowsThatWait : winPlace (ask true 5 7 0) = (7, 11) ∧ winPlace { ask true 5 7 0 with cluster := 99 } = (0, 15) ∧
    winFails (window 1 1 1) (ask true 5 7 0) = none ∧
    changing (window 1 1 1) (winAddr (window 1 1 1) (ask true 5 7 0)) 256 = false ∧
    changing (window 1 1 3) (winAddr (window 1 1 3) (ask true 5 7 0)) 256 = true ∧
    (∀ r ∈ openRanges (window 1 2 1), winAddr (window 1 2 1) (ask false 5 7 0) + 256 ≤ r.1 ∨
      r.1 + r.2 ≤ winAddr (window 1 2 1) (ask false 5 7 0)) := by decide +kernel

theorem wit_Readouts : refreshRate 86 = (dramOf (tier 3 (refreshRate 86)) 47).refresh := by decide +kernel

/-! ## Conditions of commands that complete -/

theorem wit_CommandsComplete : hostFails (open0 twoOut) 0x1000 63424 = false ∧ (open0 twoOut).vault.badMap = 0 ∧
    64 + 16 * (open0 twoOut).vault.fmap.length ≤ 64 ∧ badEntry (sqe 0 0) = false ∧ outOfRange (sqe 0 0) = none ∧
    turn (ready63 {}) = some 63 ∧ (qp (ready63 {}) 63).outs = [] ∧ (ringed hiddenEv {}).ring.enable = false ∧
    outOfRange (leBytes 1 0x0C ++ List.replicate 15 0 ++ [2]) = some .test := by decide +kernel

/-- A COPY of 256 bytes that wait, or whose one record verifies, or not. -/
def copy1 : CopyP := { host := 0x1000, addr := 0x100000, length := 256, crypto := 1 }

theorem wit_CopiesThatWait : copyWaits (loaded copyKeys) copy1 = false ∧
    copyWaits { loaded copyKeys with fabStopped := [(fabKey 0 10 0, true)] } copy1 = true ∧
    copyOk { loaded copyKeys with fabStopped := [(fabKey 0 10 0, true)] } copy1 = true ∧
    reachesReserved (wakeRange (loaded copyKeys) 0x100000 256) 0x100000 256 = false := by decide +kernel

theorem wit_RecordsOfCopies (plain : List Byte) (h : plain.length = 256) :
    openCopy 5 copy1 0 ((gcmSeal 5 (copyIv copy1 0) [] plain).take 65552) = some plain ∧
    ∃ b, openCopy 5 copy1 0 (List.replicate 256 0 ++ List.replicate 16 b) = none := by
  have hs : ∀ l : List Byte, l.length = 272 → sized (min 65536 (copy1.length - 65536 * 0) + 16) l = l := fun l hl => by
    rw [show min 65536 (copy1.length - 65536 * 0) + 16 = l.length from hl.symm ▸ rfl]
    exact sized_self l
  constructor
  · have hl := (gcmSeal_length 5 (copyIv copy1 0) [] plain).trans (congrArg (· + 16) h)
    rw [List.take_of_length_le (hl.trans_le (by omega)), openCopy, hs _ hl, gcmOpen_gcmSeal]
  · by_contra hn
    have hall : ∀ b : Byte, List.replicate 16 b = gcmTag 5 (copyIv copy1 0) [] (List.replicate 256 0) := by
      intro b
      by_contra hb
      refine hn ⟨b, ?_⟩
      rw [openCopy, hs _ (by rw [List.length_append, List.length_replicate, List.length_replicate])]
      exact gcmOpen_wrong _ _ _ _ _ (by simp) hb
    have e := (hall 0).trans (hall 1).symm
    simp at e

/-- A prefetched record of 65,536 bytes opens to what was enciphered. -/
theorem wit_OffloadRecords (s : State) (d : Desc) (plain : List Byte) (h : plain.length = 65536) :
    openOfl s d 0 (gcmSeal (oflKey s) (oflIv s (bits d.w1 2 0) (bits d.w1 31 4 + 0)) [] plain) = some plain := by
  have hs : ∀ (n : Nat) (l : List Byte), l.length = n → sized n l = l := fun n l e => e ▸ sized_self l
  rw [openOfl, hs _ _ ((gcmSeal_length ..).trans (congrArg (· + 16) h)), gcmOpen_gcmSeal]

theorem wit_HeldAndBlockedReads : held.held = [] ∧ sealedJob held = false ∧ (8 : Nat) % 8 = 0 ∧
    bar2Blocked { held with jobState := 2 } 0 64 = false := by decide +kernel

/-- Every hop into hub die 1 has stopped. -/
def noHub1 : State := { held with jobState := 2, fabStopped := [(fabKey 9 12 0, true), (fabKey 9 13 0, true)] }

theorem route_hubs : route 8 9 = if Config.hubRow 8 then [4, 5, 6, 7, 9] else [0, 1, 2, 3, 9] := by
  unfold route rowFrom
  cases Config.hubRow 8 <;> decide +kernel

theorem noHub1_stopped : routeStopped noHub1 8 9 = true := by
  unfold routeStopped
  rw [route_hubs]
  cases Config.hubRow 8 <;> decide +kernel

/-- An access to LPDDR5X of hub die 1, whichever row traffic between the hub dies takes. -/
theorem wit_BlockedBar2 : bar2Blocked noHub1 4096 64 = true ∧ bar2Mapped noHub1 4096 64 = true := by
  refine ⟨?_, by decide +kernel⟩
  have h : hostOpen noHub1 (lpBase + 4096) = false := by
    have ht : fabNode noHub1 (lpBase + 4096) = (9, none) := by decide +kernel
    simp [hostOpen, ht, noHub1_stopped]
  have hm : lpBase + 4096 ∈ diePoints (lpBase + 4096) 64 := by decide +kernel
  simp only [bar2Blocked, Bool.not_eq_true', List.all_eq_false]
  exact ⟨_, hm, by simp [h]⟩

theorem wit_CopiesAtRunStart : (jobIn 3 {} {}).copies = [] ∧ (jobIn 2 {} {}).vault.state = 0 ∧
    ({ oneStation 0 none with vault := { state := 1 } } : State).vault.state ≠ 0 ∧
    ({ oneStation 0 none with vault := { state := 1 } } : State).vault.counters.get 0 5 < small.hdr.version := by decide +kernel

theorem wit_DumpsThatEnd : dumpEnds (dumping 1 1 none) = true ∧ (dumping 1 1 none).dump.second = false ∧
    dumpEnds { dumping 1 1 none with dump := { state := 1, trigger := 1, second := true } } = true ∧
    (∀ e ∈ (dumping 1 3 none).dump.held, 0x1000 ≤ e.1) ∧
    (let s := { stopping false 1 {} {} with dump := { state := 1, trigger := 1 } }
     s.stop.stage = 1 ∧ stepOpen s = false ∧ dumpEnds s = true) ∧ (dumping 2 0 none).cwErr = [] ∧
    expired { waited (2 ^ 24) with dump := { state := 1, trigger := 3 } } (.station 760) = true := by decide +kernel

theorem wit_SnapshotsThatWait : engineWaits (snapping [(0, 0)] false) 0 0x100000 (16384 * 8) = false ∧
    engineWaits (isolated true { snapping [(0, 1)] false with gws := [] }) 0 0x3000300000 32768 = true := by decide +kernel

theorem wit_LastingFaults : mapLoad (testing 1 0) + 1 < 32768 ∧ mapped (testing 1 0) 5 3040 = false ∧ (5 : Nat) ≠ 6 ∧
    edgeActions (testing 1 0) 3 = [0] ∧ edgeActions { testing 1 0 with defects := [(unitKey 6 3, 1), (unitKey 6 67, 1)] } 3 = [4, 0] := by
  decide +kernel

theorem wit_PacersAndClocksComplete : live (paced {} false) 95 = true ∧ 7 ≤ (paced {} false).power.stage ∧
    (clocked {}).power.fixedOn = true ∧ (clocked { refLost := true }).power.refLost = true ∧ (clocked {}).power.stage ≠ 0 ∧
    ({ perst := true, cause := 2, stage := 8 } : Power).stage = 8 ∧ ({ perst := true, cause := 2, stage := 8 } : Power).perst = true ∧
    ({ perst := true, cause := 1, stage := 8 } : Power).cause ≠ 2 := by decide +kernel

theorem wit_VaultEntries : (vaulted { queue := [] } false).vault.queue = [] ∧ entry5.kind = 5 ∧
    ({ kind := 6, action := 4, location := 3, event := 0x0109, hours := 0 } : FEntry).action = 4 ∧
    (vaulted { state := 1 } false).vault.state ≠ 0 ∧ (vaulted {} false).vault.counters.get 0 1 < enroll3.version := by decide +kernel

/-! ## Vectors of the standards that the spec names -/

/-- FIPS 197, appendix C.3. -/
theorem test_aes : ofBe (aesEnc (roundKeys (List.range 32)) ((List.range 16).map (17 * ·))) = 0x8EA2B7CA516745BFEAFC49904B496089 := by
  decide +kernel

/-- Test case 14 of the GCM specification: a key, an IV and a block of zeros. -/
theorem test_gcm : gcmSeal 0 0 [] (List.replicate 16 0) =
    bytesOf (beNats 16 0xCEA7403D4D606B6E074EC5D3BAF39D18 ++ beNats 16 0xD0D1C8A799996BF0265B98B5D48AB919) := by decide +kernel

/-- SHAKE256 of the empty string. -/
theorem test_shake : ofBe (natsOf (shake256 [] 16)) = 0x46B9DD2B0BA88D13233B3FEB743EEB24 := by decide +kernel

/-- The check values of CRC-32, of the CRC-16 of polynomial 0x1021 and initial value 0xFFFF, and of the CRC-8 of
polynomial 0x07, for the ASCII bytes of "123456789". -/
theorem test_crcs : crc32 (ascii "123456789") = 0xCBF43926 ∧ crc16 (ascii "123456789") = 0x29B1 ∧ crc8 (ascii "123456789") = 0xF4 := by
  decide +kernel

/-! ## Programs of general cores -/

/-- Core 0 in U-mode at 0x12000, where memory holds ADDI x2, x0, 5 and the compressed ADDI x2, −16; x1 is 7. -/
def program0 : State :=
  { core0 [(1, 7)] with
      clus := [(0, { gc := { state := .running, x := [(1, 7)], pmp := [2 ^ 56 + 0x0F], pc := 0x12000 } })]
      mem := [(0x12000, 0x13), (0x12001, 0x01), (0x12002, 0x50), (0x12004, 0x41), (0x12005, 0x11)] }

theorem wit_ProgramsOfCores : gcActs program0 0 = true ∧ (gcOf program0 0).pc % 2 = 0 ∧ 0x0113 % 4 = 3 ∧
    gcParcel program0 0 (gcOf program0 0).pc = .done program0 (leBytes 2 0x0113) ∧
    gcParcel program0 0 (((gcOf program0 0).pc + 2) % 2 ^ 64) = .done program0 (leBytes 2 0x0050) := by decide +kernel

/-- An XHREAD word and one with an unused bit of funct7 set. -/
theorem wit_CustomWords : 0x0000F10B % 128 = 0x0B ∧ bits 0x0000F10B 14 12 = 7 ∧ bits 0x0000F10B 31 25 = 0 ∧
    0x0200F10B % 128 = 0x0B ∧ bits 0x0200F10B 31 25 ≠ 0 ∧ bits 0x8000E10B 14 12 = 6 ∧ bits 0x0000D10B 14 12 = 5 ∧
    bits 0x0000910B 14 12 = 1 := by decide +kernel

theorem wit_OwnInstructions : (0x00500113 : Nat) % 128 ∉ [0x03, 0x07, 0x0B, 0x23, 0x27, 0x2F, 0x73] ∧
    (rvStep 0 0 (gcOf program0 0) 4 0x00500113).isSome = true ∧ rvStep 0 0 (gcOf program0 0) 4 0xFFFFFFFF = none := by
  decide +kernel

theorem test_addi : gx (gcStep program0 0) 0 2 = 5 ∧ (gcOf (gcStep program0 0) 0).pc = 0x12004 := by decide +kernel

/-- The second step runs a compressed instruction. -/
theorem test_two_steps : gx (gcRun 0 2 program0) 0 2 = BitVec.ofInt 64 (-11) ∧ (gcOf (gcRun 0 2 program0) 0).pc = 0x12006 := by
  decide +kernel

/-- ADDI sp, −16; SD x9, 8(sp); RET; EBREAK: the compressed words and the words that they stand for. -/
theorem test_compressed : expandC 0x1141 = some 0xFF010113 ∧ expandC 0xE406 = some 0x00113423 ∧
    expandC 0x8082 = some 0x00008067 ∧ expandC 0x9002 = some 0x00100073 ∧ expandC 0 = none := by decide +kernel

/-- A word with an unused bit of funct7 set is an illegal instruction, fault 2. -/
theorem test_custom_illegal : (gcOf (gcInstr program0 0 4 0x0200F10B) 0).mcause = 2 ∧
    (gcOf (gcInstr program0 0 4 0x0200F10B) 0).state = .halted := by decide +kernel

/-- Division by 0 and the most negative number over −1, as the specification of M says. -/
theorem test_div : aluOp 1 4 7 0 = some (BitVec.ofInt 64 (-1)) ∧ aluOp 1 6 7 0 = some 7 ∧
    aluOp 1 4 (1 <<< 63) (BitVec.ofInt 64 (-1)) = some (1 <<< 63) ∧ aluOp 1 6 (1 <<< 63) (BitVec.ofInt 64 (-1)) = some 0 := by
  decide +kernel

/-- 1 / 3 and √2 in binary64, inexact; 1 / 0, which divides by zero. -/
theorem test_fp : fpDiv 64 0 0x3FF0000000000000 0x4008000000000000 = (0x3FD5555555555555, 1) ∧
    fpSqrt 64 0 0x4000000000000000 = (0x3FF6A09E667F3BCD, 1) ∧ fpDiv 32 0 0x3F800000 0 = (0x7F800000, 8) := by decide +kernel

/-- The 7-bit estimates of 1 / 1 and 1 / √1 in binary32. -/
theorem test_estimates : fpRec7 32 0 0x3F800000 = (0x3F7F0000, 0) ∧ fpRsqrt7 32 0x3F800000 = (0x3F7F0000, 0) := by decide +kernel

/-- VADD.VV v3, v1, v2 over 2 elements of 8 bits, undisturbed beyond vl. -/
theorem test_vadd :
    (vecOp { v := [(256, 250), (257, 1), (512, 7), (513, 2), (770, 9)], vtype := 0, vl := 2 } 0 0x022081D7).map
      (fun c => (c.v.get 0 768, c.v.get 0 769, c.v.get 0 770, c.vl)) = some (1, 3, 9, 2) := by decide +kernel

/-- VSETVLI x5, x1, e32, m1: 64 elements of 32 bits stand in 2,048. -/
theorem test_vsetvli : (vecSet { x := [(1, 7)] } 0x0100F2D7).map (fun c => (c.vl, c.vtype, xOf c 5)) = some (7, 0x10, 7) := by
  decide +kernel

/-- Right after a RUN starts, no vector type is set, so that a vector operation is illegal. -/
theorem test_vill : vill {} = true ∧ vecOp {} 0 0x022081D7 = none := by decide +kernel

/-- A header as its bytes, and a body whose one section has a type that is not listed, or a wrong length. -/
theorem test_image : small.hdr = { job := 7, version := 1, moduleId := 9, bodyLength := 32, sectionCount := 1 } ∧
    small.keepData = [(storeAddr 95, leBytes 16 0x1234)] ∧ small.programs = [] ∧
    ({ small with body := leBytes 2 14 ++ small.body.drop 2 } : Image).sections = none ∧
    ({ small with body := small.body ++ [0] } : Image).sections = none ∧
    ({ small with body := small.body.take 31 } : Image).sections = none := by decide +kernel
end Sys2Proof.Tests
end

/-! ## The logical cores of a cluster by its failed positions (01 R27) -/
section
namespace Sys2Proof.Machine
open Sys2Proof

/-- The table of R27: logical cores of a cluster with a working general core and `k` failed positions. -/
def offeredCores (k : Nat) : Nat := if k ≤ 1 then 8 else if k = 2 then 7 else 0

theorem offeredCores_of_le_one {k : Nat} (h : k ≤ 1) : offeredCores k = 8 := if_pos h

theorem offeredCores_two : offeredCores 2 = 7 := rfl

theorem offeredCores_eq_zero_iff {k : Nat} : offeredCores k = 0 ↔ 3 ≤ k := by
  unfold offeredCores
  split
  · omega
  · split <;> omega

/-- Failed positions of a cluster under the next assignment. -/
def nextFailed (s : State) (g : Nat) : List Nat := s.assignNext.get [] g

theorem nextFailed_failPosition_none (s : State) (g : Nat) :
    nextFailed (failPosition s g none) g = nextFailed s g := by
  simp [nextFailed, failPosition]

theorem nextFailed_failPosition_some (s : State) (g p : Nat) :
    nextFailed (failPosition s g (some p)) g =
      if p ∈ nextFailed s g then nextFailed s g else nextFailed s g ++ [p] := by
  unfold nextFailed
  split
  · rename_i hp
    simp [failPosition, hp]
  · rename_i hp
    simp [failPosition, hp]

theorem coresAfter_failPosition_none (s : State) (g : Nat) :
    coresAfter (failPosition s g none) g = 0 := by
  simp [coresAfter, failPosition]

theorem coresAfter_failPosition_some (s : State) (g p : Nat) :
    coresAfter (failPosition s g (some p)) g =
      if coresAfter s g = 0 then 0 else offeredCores (nextFailed (failPosition s g (some p)) g).length := by
  simp [coresAfter, failPosition, nextFailed, offeredCores]

theorem mem_nextFailed_failPosition_some {s : State} {g p q : Nat} :
    q ∈ nextFailed (failPosition s g (some p)) g ↔ q ∈ nextFailed s g ∨ q = p := by
  rw [nextFailed_failPosition_some]
  split
  · rename_i hp
    exact ⟨.inl, fun h => h.elim id (fun e => e ▸ hp)⟩
  · simp

theorem nodup_nextFailed_failPosition_some {s : State} {g p : Nat} (h : (nextFailed s g).Nodup) :
    (nextFailed (failPosition s g (some p)) g).Nodup := by
  rw [nextFailed_failPosition_some]
  split
  · exact h
  · rename_i hp
    exact List.nodup_append'.2 ⟨h, List.nodup_singleton p, List.disjoint_singleton.2 hp⟩

theorem length_nextFailed_le_failPosition_some (s : State) (g p : Nat) :
    (nextFailed s g).length ≤ (nextFailed (failPosition s g (some p)) g).length := by
  rw [nextFailed_failPosition_some]
  split <;> simp

/-- The next assignment of cluster `g` accounts for the failures `l`, where `none` is the general core: each
failed position stands in it once, and its cores are those of R27. -/
structure FailuresNoted (s : State) (g : Nat) (l : List (Option Nat)) : Prop where
  nodup : (nextFailed s g).Nodup
  mem_iff : ∀ p, p ∈ nextFailed s g ↔ some p ∈ l
  cores_eq : coresAfter s g = if none ∈ l then 0 else offeredCores (nextFailed s g).length

theorem failuresNoted_nil {s : State} {g : Nat} (hf : nextFailed s g = []) (hc : coresAfter s g = 8) :
    FailuresNoted s g [] where
  nodup := by simp [hf]
  mem_iff := by simp [hf]
  cores_eq := by simp [hf, hc, offeredCores]

namespace FailuresNoted
variable {s : State} {g : Nat} {l : List (Option Nat)}

theorem failPosition_none (h : FailuresNoted s g l) : FailuresNoted (failPosition s g none) g (l ++ [none]) where
  nodup := by simpa only [nextFailed_failPosition_none] using h.nodup
  mem_iff := by simp [nextFailed_failPosition_none, h.mem_iff]
  cores_eq := by simp [coresAfter_failPosition_none]

/-- A retired cluster stays retired: with its general core failed by `none ∈ l`, and else because the count of
its failed positions never falls back below 3. -/
theorem failPosition_some (h : FailuresNoted s g l) (p : Nat) :
    FailuresNoted (failPosition s g (some p)) g (l ++ [some p]) where
  nodup := nodup_nextFailed_failPosition_some h.nodup
  mem_iff q := by simp [mem_nextFailed_failPosition_some, h.mem_iff]
  cores_eq := by
    have hmem : none ∈ l ++ [some p] ↔ none ∈ l := by simp
    simp only [coresAfter_failPosition_some, h.cores_eq, hmem]
    by_cases hn : none ∈ l
    · simp [hn]
    · simp only [hn, if_false]
      split
      · rename_i h0
        have hlen := length_nextFailed_le_failPosition_some s g p
        exact (offeredCores_eq_zero_iff.2 ((offeredCores_eq_zero_iff.1 h0).trans hlen)).symm
      · rfl

theorem foldl_failPosition (l' : List (Option Nat)) (h : FailuresNoted s g l) :
    FailuresNoted (l'.foldl (fun s p => failPosition s g p) s) g (l ++ l') := by
  induction l' generalizing s l with
  | nil => simpa using h
  | cons p l' ih =>
    have hp : FailuresNoted (failPosition s g p) g (l ++ [p]) := by
      cases p with
      | none => exact h.failPosition_none
      | some p => exact h.failPosition_some p
    simpa using ih hp

/-- With the general core working, the failed positions are the distinct entries of `l`. -/
theorem length_nextFailed (h : FailuresNoted s g l) (hn : none ∉ l) :
    (nextFailed s g).length = l.dedup.length := by
  have hperm : ((nextFailed s g).map some).Perm l.dedup := by
    refine (List.perm_ext_iff_of_nodup (h.nodup.map (Option.some_injective _)) l.nodup_dedup).2 fun o => ?_
    cases o with
    | none => simp [hn]
    | some p => simp [h.mem_iff]
  simpa using hperm.length_eq

theorem coresAfter_of_none_mem (h : FailuresNoted s g l) (hn : none ∈ l) : coresAfter s g = 0 := by
  rw [h.cores_eq, if_pos hn]

theorem coresAfter_of_none_notMem (h : FailuresNoted s g l) (hn : none ∉ l) :
    coresAfter s g = offeredCores l.dedup.length := by
  rw [h.cores_eq, if_neg hn, h.length_nextFailed hn]

end FailuresNoted

theorem cores_applyAssignment (s : State) (g : Nat) : cores (applyAssignment s) g = coresAfter s g := rfl

theorem present_station_iff (t : State) {g k : Nat} (hg : g < 96) (hk : k < 8) :
    present t (8 * g + k) = true ↔ k < cores t g := by
  have hrange : 8 * g + k < 768 := by omega
  have hclu : cluOf (8 * g + k) = g := by unfold cluOf; omega
  have hcore : (8 * g + k) % 8 = k := by omega
  simp [present, hrange, hclu, hcore]

theorem live_iff (t : State) {g : Nat} (hg : g < 96) : live t g = true ↔ 0 < cores t g := by
  simp [live, hg]

/-- Settles O59: the next assignment accounts for the whole list of failures, by induction on it, and its cores
are those in effect once it is applied. -/
theorem coresByFailedPositions : Obligations.CoresByFailedPositions := by
  unfold Obligations.CoresByFailedPositions
  rintro s t g l hg hfailed hcores - rfl
  have noted : FailuresNoted (l.foldl (fun s p => failPosition s g p) s) g l :=
    (failuresNoted_nil hfailed hcores).foldl_failPosition l
  refine ⟨fun hn h => ?_, fun hn h => ?_, fun hn h => ?_, fun hn => ?_, fun k hk => present_station_iff _ hg hk,
    live_iff _ hg⟩
  · rw [cores_applyAssignment, noted.coresAfter_of_none_notMem hn, offeredCores_of_le_one h]
  · rw [cores_applyAssignment, noted.coresAfter_of_none_notMem hn, h, offeredCores_two]
  · rw [cores_applyAssignment, noted.coresAfter_of_none_notMem hn, offeredCores_eq_zero_iff.2 h]
  · rw [cores_applyAssignment, noted.coresAfter_of_none_mem hn]

end Sys2Proof.Machine
end

/-! ## The Comet Watch registers in a sealed job (11 R403) -/
section
namespace Sys2Proof.Machine
open Sys2Proof

/-- The Comet Watch registers of a group stand 32 bytes apart in the module-wide window, apart from every range that
`modReg` asks for before them (11 R412). -/
theorem modReg_cmw (s : State) {g o : Nat} (hg : g < 64) (ho : o < 32) :
    modReg s (0x40000 + 32 * g + o) = cmwReg s g o := by
  have hgroup : (0x40000 + 32 * g + o - 0x40000) / 32 = g := by omega
  have hoff : (0x40000 + 32 * g + o) % 32 = o := by omega
  simp (disch := omega) only [modReg, Bool.and_eq_true, decide_eq_true_eq, if_neg, if_pos, hgroup, hoff]

theorem word64_cmw (s : State) {g o : Nat} (hg : g < 64) (ho : o < 32) :
    word64 s 10 (0x40000 + 32 * g + o) = cmwReg s g o % 2 ^ 64 := by
  simp [word64, modReg_cmw s hg ho]

theorem cmwReg_norm_of_sealed {s : State} (h : sealedJob s = true) (g : Nat) : cmwReg s g 0x08 = 0 := by
  simp [cmwReg, h]

theorem cmwReg_loss_of_sealed {s : State} (h : sealedJob s = true) (g : Nat) : cmwReg s g 0x10 = 0 := by
  simp [cmwReg, h]

/-- The counts of values that are not finite are read from the group and the vote alone, whatever job is loaded. -/
theorem cmwReg_counts_course (s : State) (c : Option Image) (g : Nat) :
    cmwReg { s with course := c } g 0x00 = cmwReg s g 0x00 := rfl

/-- The settings, report counts and flags are read from the group alone, whatever job is loaded. -/
theorem cmwReg_flags_course (s : State) (c : Option Image) (g : Nat) :
    cmwReg { s with course := c } g 0x18 = cmwReg s g 0x18 := rfl

/-- Settles O60: of the four words of a group only the norm and the loss look at the loaded job. -/
theorem sealedNormsReadZero : Obligations.SealedNormsReadZero := by
  unfold Obligations.SealedNormsReadZero
  intro s g hg hsealed
  refine ⟨?_, ?_, fun c _ => ⟨?_, ?_⟩⟩
  · rw [word64_cmw s hg (by omega), cmwReg_norm_of_sealed hsealed, Nat.zero_mod]
  · rw [word64_cmw s hg (by omega), cmwReg_loss_of_sealed hsealed, Nat.zero_mod]
  · rw [← Nat.add_zero (0x40000 + 32 * g), word64_cmw s hg (by omega), word64_cmw _ hg (by omega),
      cmwReg_counts_course s c g]
  · rw [word64_cmw s hg (by omega), word64_cmw _ hg (by omega), cmwReg_flags_course s c g]

end Sys2Proof.Machine
end

/-! ## Doorbells that are ignored (13 R441) -/
section
namespace Sys2Proof
open Nat (div_add_mod testBit_two_pow_mul_add testBit_mod_two_pow testBit_div_two_pow)

theorem bitOf_eq_testBit (v i : Nat) : bitOf v i = v.testBit i := by
  rw [bitOf, Nat.testBit_eq_decide_div_mod_eq, beq_eq_decide]

/-- A number with the field of `w + 1` bits at bit `lo` replaced: the bits above it, the field, and the bits below it. -/
theorem setBits_eq (v lo w x : Nat) :
    setBits v (lo + w) lo x = 2 ^ lo * (2 ^ (w + 1) * (v / 2 ^ lo / 2 ^ (w + 1)) + x % 2 ^ (w + 1)) + v % 2 ^ lo := by
  have hw : lo + w + 1 - lo = w + 1 := by omega
  have low := div_add_mod v (2 ^ lo)
  have high := div_add_mod (v / 2 ^ lo) (2 ^ (w + 1))
  have hv : v = 2 ^ lo * (2 ^ (w + 1) * (v / 2 ^ lo / 2 ^ (w + 1))) + v % 2 ^ lo
      + v / 2 ^ lo % 2 ^ (w + 1) * 2 ^ lo := by
    calc v = 2 ^ lo * (2 ^ (w + 1) * (v / 2 ^ lo / 2 ^ (w + 1)) + v / 2 ^ lo % 2 ^ (w + 1)) + v % 2 ^ lo := by
          rw [high, low]
      _ = _ := by ring
  unfold setBits bits
  rw [hw, Nat.sub_eq_of_eq_add hv]
  ring

theorem bitOf_setBits (v lo w x i : Nat) :
    bitOf (setBits v (lo + w) lo x) i = if lo ≤ i ∧ i ≤ lo + w then bitOf x (i - lo) else bitOf v i := by
  have hlow := Nat.mod_lt v (Nat.two_pow_pos lo)
  have hfield := Nat.mod_lt x (Nat.two_pow_pos (w + 1))
  simp only [bitOf_eq_testBit, setBits_eq, testBit_two_pow_mul_add _ hlow, testBit_two_pow_mul_add _ hfield]
  by_cases below : i < lo
  · have out : ¬(lo ≤ i ∧ i ≤ lo + w) := by omega
    simp [below, out, testBit_mod_two_pow]
  by_cases above : lo + w < i
  · have out : ¬(lo ≤ i ∧ i ≤ lo + w) := by omega
    have past : ¬i - lo < w + 1 := by omega
    have back : i - lo - (w + 1) + (w + 1) + lo = i := by omega
    simp only [below, out, past, if_false, testBit_div_two_pow, back]
  · have within : lo ≤ i ∧ i ≤ lo + w := by omega
    have inField : i - lo < w + 1 := by omega
    simp [below, within, inField, testBit_mod_two_pow]

theorem bitOf_setBits_one (v b i : Nat) : bitOf (setBits v b b 1) i = if i = b then true else bitOf v i := by
  have field : bitOf (setBits v b b 1) i = if b ≤ i ∧ i ≤ b then bitOf 1 (i - b) else bitOf v i :=
    bitOf_setBits v b 0 1 i
  rw [field]
  by_cases hi : i = b
  · simp [hi, bitOf]
  · rw [if_neg hi, if_neg (by omega)]

theorem bitOf_mod_two_pow (v n i : Nat) : bitOf (v % 2 ^ n) i = (decide (i < n) && bitOf v i) := by
  simp only [bitOf_eq_testBit, testBit_mod_two_pow]

end Sys2Proof

namespace Sys2Proof.Machine
open Sys2Proof

theorem reg_setBit_other (s : State) {k j : Nat} (b : Nat) (h : j ≠ k) : reg (setBit s k b) j = reg s j :=
  reg_setReg_other s k j _ h

theorem bitOf_reg_of_ge (s : State) (k : Nat) {i : Nat} (h : 64 ≤ i) : bitOf (reg s k) i = false := by
  rw [bitOf_eq_testBit]
  exact Nat.testBit_lt_two_pow ((s.regs.get 0 k).isLt.trans_le (Nat.pow_le_pow_right (by omega) h))

theorem bitOf_reg_setBit (s : State) (k : Nat) {b : Nat} (i : Nat) (hb : b < 64) :
    bitOf (reg (setBit s k b) k) i = if i = b then true else bitOf (reg s k) i := by
  rcases lt_or_ge i 64 with hi | hi
  · rw [setBit, reg_setReg_same, bitOf_mod_two_pow, decide_eq_true hi, Bool.true_and, bitOf_setBits_one]
  · rw [bitOf_reg_of_ge _ k hi, bitOf_reg_of_ge s k hi, if_neg (by omega)]

/-- A bad access sets CMD_ERR and raises its event: only the registers and the events. -/
theorem badAccess_parts (s : State) :
    badAccess s = { s with regs := (badAccess s).regs, evs := s.evs ++ [evNow s 0x0C01 15 0 none]
                           evTotal := s.evTotal + 1 } := rfl

theorem bitOf_cmdErr_badAccess (s : State) (i : Nat) :
    bitOf (reg (badAccess s) cmdErrKey) i = if i = 0 then true else bitOf (reg s cmdErrKey) i :=
  bitOf_reg_setBit s cmdErrKey i (by omega)

theorem reg_badAccess_other (s : State) {k : Nat} (h : k ≠ cmdErrKey) : reg (badAccess s) k = reg s k :=
  reg_setBit_other s 0 h

theorem exec_cmdSqTail (q v : Nat) (s : State) : exec (.cmdSqTail q v) s = execCmdSqTail q v s := rfl

theorem exec_cmdCqHead (q v : Nat) (s : State) : exec (.cmdCqHead q v) s = execCmdCqHead q v s := rfl

/-- What lets a doorbell pass unseen, that BAR0 does not answer or there is no such pair, does not hold. -/
theorem doorbell_reaches {s : State} {q : Nat} (hbar : barOpen s = true) (hq : q < 64) :
    (!barOpen s || decide (64 ≤ q)) = false := by
  simp [hbar, hq]

/-- What makes a doorbell bad holds; a queue's size is its `sizeM1` plus 1 (13 R441). -/
theorem doorbell_bad {enable : Bool} {sizeM1 index : Nat} (h : enable = false ∨ sizeM1 + 1 ≤ index) :
    (!enable || decide (sizeM1 < index)) = true := by
  simpa [Nat.succ_le_iff] using h

section
variable {s : State} {q v : Nat} (hbar : barOpen s = true) (hq : q < 64)
include hbar hq

theorem cmdSqTail_of_bad (h : (qp s q).enable = false ∨ (qp s q).sqM1 + 1 ≤ v % 4096) :
    exec (.cmdSqTail q v) s = .next (badAccess s) := by
  rw [exec_cmdSqTail, execCmdSqTail, doorbell_reaches hbar hq, doorbell_bad h]
  rfl

theorem cmdCqHead_of_bad (h : (qp s q).enable = false ∨ (qp s q).cqM1 + 1 ≤ v % 4096) :
    exec (.cmdCqHead q v) s = .next (badAccess s) := by
  rw [exec_cmdCqHead, execCmdCqHead, doorbell_reaches hbar hq, doorbell_bad h]
  rfl

end

/-- Settles O46: either doorbell ends in the one state of a bad access. -/
theorem badDoorbells : Obligations.BadDoorbells := by
  unfold Obligations.BadDoorbells
  intro s q v hbar hq
  have flag := bitOf_cmdErr_badAccess s
  have kept : ∀ i, 0 < i → bitOf (reg (badAccess s) cmdErrKey) i = bitOf (reg s cmdErrKey) i :=
    fun i hi => (flag i).trans (if_neg (by omega))
  have others : ∀ k, k ≠ cmdErrKey → reg (badAccess s) k = reg s k := fun _ => reg_badAccess_other s
  exact ⟨fun h => ⟨badAccess s, cmdSqTail_of_bad hbar hq h, badAccess_parts s, flag 0, kept, others⟩,
    fun h => ⟨badAccess s, cmdCqHead_of_bad hbar hq h, badAccess_parts s, flag 0, kept, others⟩⟩

end Sys2Proof.Machine
end

/-! ## What every command and every tick keeps -/
section
set_option Elab.async false
namespace Sys2Proof.Machine
open Sys2Proof

section
variable {s0 s : State}

/-! ### The commands, in the order of their table -/

theorem execIdentify_kept {src : Src} {addr : Nat} (hk : Kept s0 s) :
    KeptOut s0 (execIdentify src addr s) :=
  keptOut_ite (kept_next hk) (command_kept hk (fun _ h => toHost_kept h (fun _ h1 => complete_kept h1)))

theorem execLoadCourse_kept {src : Src} {addr len : Nat} {img : Image} {dmaError : Bool} (hk : Kept s0 s) :
    KeptOut s0 (execLoadCourse src addr len img dmaError s) := by
  unfold execLoadCourse
  refine command_kept hk (fun _ h => ?_)
  refine keptOut_ite (kept_next (dmaFault_kept h)) ?_
  refine keptOut_ite (kept_next (complete_kept h)) ?_
  extract_lets +onlyGivenNames s1
  have hs1 : Kept s0 s1 := readDual_kept h
  extract_lets +onlyGivenNames key
  refine keptOut_ite (kept_next (courseDenied_kept hs1)) ?_
  refine keptOut_ite ?_ ?_
  · exact kept_next (courseDenied_kept hs1)
  · exact keptOut_ite (kept_next (complete_kept hs1)) (keptOut_ite (kept_next (complete_kept hs1)) (kept_next
      (complete_kept (commitCourse_kept (applyCourse_kept hs1)))))

theorem execOpenWindow_kept {src : Src} {c : WinCfg} (hk : Kept s0 s) :
    KeptOut s0 (execOpenWindow src c s) := by
  unfold execOpenWindow
  refine command_kept hk (fun _ h => ?_)
  refine keptOut_ite ?_ ?_
  · exact kept_next (complete_kept h)
  · exact keptOut_ite (kept_next (complete_kept h)) (keptOut_ite (kept_next (complete_kept h)) (kept_next
      (complete_kept (openWin_kept h))))

theorem execCloseWindow_kept {src : Src} {g w : Nat} (hk : Kept s0 s) :
    KeptOut s0 (execCloseWindow src g w s) :=
  command_kept hk (fun _ h => keptOut_ite (kept_next (complete_kept h)) (keptOut_ite (kept_next (complete_kept h))
    (kept_next (updWin_kept h))))

theorem execCloseWindowDone_kept {src : Src} {g w : Nat} (hk : Kept s0 s) :
    KeptOut s0 (execCloseWindowDone src g w s) :=
  keptOut_ite (kept_next (kept_foldl (fun _ _ h => complete_kept h) (updWin_kept hk))) (kept_next hk)

theorem execRun_kept {src : Src} (hk : Kept s0 s) :
    KeptOut s0 (execRun src s) := by
  unfold execRun
  refine command_kept hk (fun _ h => ?_)
  refine keptOut_ite ?_ ?_
  · exact kept_next (complete_kept h)
  · exact keptOut_ite (kept_next (complete_kept h)) (kept_next (banksTo_kept (kept_all h (Nat.le_refl _) id id
      (fun _ => by decide))))

theorem execRunStart_kept (hk : Kept s0 s) :
    KeptOut s0 (execRunStart s) := by
  unfold execRunStart
  split
  · exact keptOut_ite (kept_next hk) (kept_next (startRunAll_kept hk))
  · exact kept_next hk

theorem execRunComplete_kept (hk : Kept s0 s) :
    KeptOut s0 (execRunComplete s) :=
  keptOut_ite (kept_next hk) (kept_next (completeRun_kept hk))

theorem execHalt_kept {src : Src} (hk : Kept s0 s) :
    KeptOut s0 (execHalt src s) :=
  command_kept hk (fun _ h => keptOut_ite (kept_next (haltRun_kept (kept_mk h))) (kept_next (complete_kept h)))

theorem execCopy_kept {src : Src} {p : CopyP} {inp : CopyIn} (hk : Kept s0 s) :
    KeptOut s0 (execCopy src p inp s) := by
  unfold execCopy
  refine command_kept hk (fun _ h => ?_)
  refine keptOut_ite (kept_next (complete_kept h)) ?_
  refine keptOut_ite ?_ ?_
  · exact kept_next (complete_kept h)
  · exact keptOut_ite (kept_next (complete_kept (reservedAccess_kept h))) (keptOut_ite (kept_next (kept_mk h))
      (kept_next (copyMove_kept h)))

theorem execProvisionKey_kept {src : Src} {addr len slot kind : Nat} {w : Wrapped} (hk : Kept s0 s) :
    KeptOut s0 (execProvisionKey src addr len slot kind w s) := by
  unfold execProvisionKey
  refine command_kept hk (fun _ h => ?_)
  refine keptOut_ite (kept_next (complete_kept h)) ?_
  refine keptOut_ite (kept_next (complete_kept h)) ?_
  refine keptOut_ite (kept_next (complete_kept h)) ?_
  refine keptOut_ite (kept_next (dmaFault_kept h)) ?_
  refine keptOut_ite (kept_next (complete_kept h)) ?_
  split
  · exact kept_next (complete_kept (raise_kept (setBit_kept h)))
  · exact keptOut_ite (kept_next (complete_kept h)) (kept_next (complete_kept (kept_mk h)))

theorem execAttest_kept {src : Src} {nonce : List Byte} {addr len : Nat} (hk : Kept s0 s) :
    KeptOut s0 (execAttest src nonce addr len s) :=
  command_kept hk (fun _ h => keptOut_ite (kept_next (complete_kept h)) (toHost_kept h
    (fun _ h1 => complete_kept h1)))

theorem execSnapshot_kept {src : Src} {dest limit kind fmt : Nat} {sc : Bool} {mask : Nat} (hk : Kept s0 s) :
    KeptOut s0 (execSnapshot src dest limit kind fmt sc mask s) :=
  command_kept hk (fun _ h => keptOut_ite (kept_next (complete_kept h)) (keptOut_ite (kept_next (complete_kept h))
    (kept_next (finishSnap_kept (kept_mk h)))))

theorem execSnapshotChunkRead_kept {k slot : Nat} (hk : Kept s0 s) :
    KeptOut s0 (execSnapshotChunkRead k slot s) := by
  unfold execSnapshotChunkRead
  split
  · exact kept_next hk
  · refine keptOut_ite (kept_next (snapFail_kept hk)) ?_
    refine keptOut_ite (kept_next hk) ?_
    split
    · exact kept_next hk
    · extract_lets +onlyGivenNames n
      extract_lets +onlyGivenNames a x
      refine keptOut_ite (kept_next hk) ?_
      refine keptOut_ite (kept_next (snapFail_kept (reservedAccess_kept (kept_mk hk)))) ?_
      extract_lets +onlyGivenNames r
      have hr : Kept s0 r.s := readMem_kept (wakeRange_kept hk)
      exact keptOut_ite (kept_next (snapFail_kept (kept_mk hr))) (keptOut_ite (kept_next (writeFault_kept
        (kept_mk hr))) (kept_next (finishSnap_kept (snapPut_kept hr))))

theorem execDumpTake_kept {src : Src} {a : Nat} (hk : Kept s0 s) :
    KeptOut s0 (execDumpTake src a s) :=
  command_kept hk (fun _ h => keptOut_ite (kept_next (complete_kept h)) (kept_next (startDump_kept h)))

theorem execDumpCopyLast_kept {src : Src} {a : Nat} (hk : Kept s0 s) :
    KeptOut s0 (execDumpCopyLast src a s) := by
  unfold execDumpCopyLast
  refine command_kept hk (fun _ h => ?_)
  refine keptOut_ite (kept_next (complete_kept h)) ?_
  refine keptOut_ite (kept_next (complete_kept h)) ?_
  refine keptOut_ite (kept_next (complete_kept h)) ?_
  extract_lets +onlyGivenNames r
  have hr : Kept s0 r.s := readMem_kept h
  exact keptOut_ite (kept_next (complete_kept hr)) (toHost_kept hr (fun _ h1 => complete_kept h1))

theorem execSelftestUnit_kept {src : Src} {kind i : Nat} (hk : Kept s0 s) :
    KeptOut s0 (execSelftestUnit src kind i s) := by
  unfold execSelftestUnit
  refine command_kept hk (fun _ h => ?_)
  refine keptOut_ite (kept_next (complete_kept h)) ?_
  refine keptOut_ite (kept_next (complete_kept h)) ?_
  refine keptOut_ite (kept_next (complete_kept h)) ?_
  extract_lets +onlyGivenNames loc s1
  have hs1 : Kept s0 s1 := wipeUnit_kept h
  exact keptOut_ite (kept_next (complete_kept (lastingOutcome_kept hs1))) (kept_next (complete_kept
    (setLast_kept hs1)))

theorem execSelftestModule_kept {src : Src} (hk : Kept s0 s) :
    KeptOut s0 (execSelftestModule src s) :=
  command_kept hk (fun _ h => kept_next (complete_kept (kept_foldl (fun _ _ h1 => lastingOutcome_kept h1)
    (kept_foldl (fun _ _ h1 => offBoot_kept h1) h))))

theorem execSetBudget_kept {src : Src} {cap : Nat} (hk : Kept s0 s) :
    KeptOut s0 (execSetBudget src cap s) := by
  unfold execSetBudget
  refine command_kept hk (fun _ h => ?_)
  refine keptOut_ite (kept_next (complete_kept h)) ?_
  extract_lets +onlyGivenNames s1
  have hs1 : Kept s0 s1 := rewriteCap_kept (updPower_kept h)
  exact kept_next (complete_kept hs1)

theorem execEndJob_kept {src : Src} (hk : Kept s0 s) :
    KeptOut s0 (execEndJob src s) := by
  unfold execEndJob
  refine command_kept ?_ (fun _ h => ?_)
  · exact hk
  · exact kept_next (complete_kept (clearJob_kept (dropSnap_kept (dropCopies_kept (closeAll_kept (kept_ite
      (completeRun_kept (haltRun_kept h)) (endStop_kept h)))))))

theorem execReadTelemetry_kept {src : Src} {addr page : Nat} (hk : Kept s0 s) :
    KeptOut s0 (execReadTelemetry src addr page s) := by
  unfold execReadTelemetry
  refine command_kept hk (fun _ h => ?_)
  refine keptOut_ite (kept_next (complete_kept h)) ?_
  extract_lets +onlyGivenNames d
  have hd : Kept s0 d.1 := draw_kept h
  extract_lets +onlyGivenNames s1
  have hs1 : Kept s0 s1 := kept_ite h hd
  exact toHost_kept hs1 (fun _ h1 => complete_kept h1)

theorem execVaultRead_kept {src : Src} {addr off len area : Nat} (hk : Kept s0 s) :
    KeptOut s0 (execVaultRead src addr off len area s) := by
  unfold execVaultRead
  refine command_kept hk (fun _ h => ?_)
  split
  · exact kept_next (complete_kept h)
  · refine keptOut_ite (kept_next (complete_kept h)) ?_
    extract_lets +onlyGivenNames r
    have hr : Kept s0 r.1 := readArea_kept h
    exact toHost_kept hr (fun _ h1 => complete_kept h1)

theorem execSetWatch_kept {src : Src} {g : Nat} {cfg : GroupCfg} {b22 : Nat} (hk : Kept s0 s) :
    KeptOut s0 (execSetWatch src g cfg b22 s) := by
  unfold execSetWatch
  refine command_kept hk (fun _ h => ?_)
  extract_lets +onlyGivenNames apply bad
  refine keptOut_ite (kept_next (complete_kept h)) ?_
  refine keptOut_ite (kept_next (complete_kept h)) ?_
  extract_lets +onlyGivenNames s1
  have hs1 : Kept s0 s1 := kept_ite (kept_mk h) h
  exact kept_next (complete_kept (kept_ite (kept_mk hs1) hs1))

theorem execSetClockPolicy_kept {src : Src} {scope mode mhz : Nat} (hk : Kept s0 s) :
    KeptOut s0 (execSetClockPolicy src scope mode mhz s) := by
  unfold execSetClockPolicy
  refine command_kept hk (fun _ h => ?_)
  refine keptOut_ite (kept_next (complete_kept h)) ?_
  extract_lets +onlyGivenNames s1
  have hs1 : Kept s0 s1 := updPower_kept h
  exact kept_next (policyDone_kept (updPower_kept (kept_foldl (fun _ _ h1 => retarget_kept h1) hs1)))

theorem execArmOffload_kept {src : Src} {channel addr size : Nat} (hk : Kept s0 s) :
    KeptOut s0 (execArmOffload src channel addr size s) :=
  command_kept hk (fun _ h => keptOut_ite (kept_next (complete_kept h)) (kept_next (complete_kept (kept_mk h))))

theorem execReadFaultMap_kept {src : Src} {addr len : Nat} (hk : Kept s0 s) :
    KeptOut s0 (execReadFaultMap src addr len s) := by
  unfold execReadFaultMap
  refine command_kept hk (fun _ h => ?_)
  extract_lets +onlyGivenNames s1
  have hs1 : Kept s0 s1 := readDual_kept h
  exact keptOut_ite (kept_next (complete_kept hs1)) (toHost_kept hs1 (fun _ h1 => complete_kept h1))

theorem execLinkDisable_kept {src : Src} {p : Nat} (hk : Kept s0 s) :
    KeptOut s0 (execLinkDisable src p s) := by
  unfold execLinkDisable
  refine linkCommand_kept hk (fun _ h => ?_)
  extract_lets +onlyGivenNames s1
  have hs1 : Kept s0 s1 := updHPort_kept (leaveUp_kept h)
  exact kept_mk hs1

theorem execLinkEnable_kept {src : Src} {p : Nat} (hk : Kept s0 s) :
    KeptOut s0 (execLinkEnable src p s) :=
  linkCommand_kept hk (fun _ h => bringUp_kept (kept_mk (updHPort_kept h)))

theorem execLinkRetrain_kept {src : Src} {p : Nat} (hk : Kept s0 s) :
    KeptOut s0 (execLinkRetrain src p s) :=
  linkCommand_kept hk (fun _ h => bringUp_kept h)

theorem execLinkStatus_kept {src : Src} {p : Nat} (hk : Kept s0 s) :
    KeptOut s0 (execLinkStatus src p s) :=
  command_kept hk (fun _ h => keptOut_ite (kept_next (complete_kept h)) (kept_next (complete_kept h)))

theorem execLinkLoopback_kept {src : Src} {p : Nat} (hk : Kept s0 s) :
    KeptOut s0 (execLinkLoopback src p s) :=
  linkCommand_kept hk (fun _ h => bringUp_kept (updHPort_kept (leaveUp_kept h)))

theorem execLoadSupplement_kept {src : Src} {addr len : Nat} {p : Supplement} {dmaError : Bool} (hk : Kept s0 s) :
    KeptOut s0 (execLoadSupplement src addr len p dmaError s) := by
  unfold execLoadSupplement
  refine command_kept hk (fun _ h => ?_)
  refine keptOut_ite (kept_next (dmaFault_kept h)) ?_
  refine keptOut_ite (kept_next (complete_kept h)) ?_
  extract_lets +onlyGivenNames s1
  have hs1 : Kept s0 s1 := readDual_kept h
  refine keptOut_ite (kept_next (complete_kept (raise_kept (setBit_kept hs1)))) ?_
  extract_lets +onlyGivenNames c
  refine keptOut_ite ?_ ?_
  · exact kept_next (complete_kept (raise_kept (setBit_kept hs1)))
  · exact keptOut_ite (kept_next (complete_kept hs1)) (kept_next (complete_kept (commitNow_kept hs1)))

theorem execSqEntryTake_kept {q : Nat} {entry : List Byte} (hk : Kept s0 s) :
    KeptOut s0 (execSqEntryTake q entry s) := by
  unfold execSqEntryTake
  extract_lets +onlyGivenNames x b
  refine keptOut_ite (kept_next hk) ?_
  refine keptOut_ite (kept_next hk) ?_
  extract_lets +onlyGivenNames cid tok op s1
  have hs1 : Kept s0 s1 := updQp_kept (kept_mk hk)
  refine keptOut_ite (kept_next (postCq_kept hs1)) ?_
  split
  · refine keptOut_ite (kept_next (postCq_kept hs1)) ?_
    split
    · exact kept_next (postCq_kept hs1)
    · exact kept_next (updQp_kept hs1)
  · extract_lets +onlyGivenNames s2
    have hs2 : Kept s0 s2 := updQp_kept hs1
    split
    · exact kept_next (complete_kept hs2)
    · exact kept_next hs2

theorem execQpEnable_kept {q : Nat} (hk : Kept s0 s) :
    KeptOut s0 (execQpEnable q s) :=
  keptOut_ite (kept_next hk) (kept_next (updQp_kept hk))

theorem execQpDisable_kept {q : Nat} (hk : Kept s0 s) :
    KeptOut s0 (execQpDisable q s) :=
  keptOut_ite (kept_next hk) (kept_next (updQp_kept hk))

theorem execEvtRingEnable_kept (hk : Kept s0 s) :
    KeptOut s0 (execEvtRingEnable s) :=
  keptOut_ite (kept_next hk) (kept_next (kept_mk hk))

theorem execWarmReset_kept {v : Nat} (hk : Kept s0 s) :
    KeptOut s0 (execWarmReset v s) :=
  keptOut_ite (kept_next hk) (kept_next (warmReset_kept hk))

theorem execRegisterWrite_kept {o size v : Nat} {poisoned : Bool} (hk : Kept s0 s) :
    KeptOut s0 (execRegisterWrite o size v poisoned s) :=
  keptOut_ite (kept_next hk) (keptOut_ite (kept_next (poisonedWrite_kept hk)) (keptOut_ite (kept_next
    (badAccess_kept hk)) (kept_next (writeReg_kept hk))))

theorem execRcRead_kept {o size : Nat} (hk : Kept s0 s) :
    KeptOut s0 (execRcRead o size s) := by
  unfold execRcRead
  refine keptOut_ite (kept_next hk) ?_
  refine keptOut_ite (kept_next (kept_mk (badAccess_kept hk))) ?_
  extract_lets +onlyGivenNames r
  have hr : Kept s0 r.1 := readReg_kept hk
  exact kept_next (kept_mk hr)

theorem execBar2Read_kept {o len : Nat} (hk : Kept s0 s) :
    KeptOut s0 (execBar2Read o len s) := by
  unfold execBar2Read
  refine keptOut_ite (kept_next hk) ?_
  refine keptOut_ite (kept_next (kept_mk hk)) ?_
  refine keptOut_ite (kept_next (kept_mk (bar2Denied_kept hk))) ?_
  refine keptOut_ite (kept_next (kept_mk hk)) ?_
  extract_lets +onlyGivenNames r
  have hr : Kept s0 r.s := readMem_kept hk
  exact kept_next (kept_mk hr)

theorem execBar2Write_kept {o : Nat} {data : List Byte} {poisoned : Bool} (hk : Kept s0 s) :
    KeptOut s0 (execBar2Write o data poisoned s) := by
  unfold execBar2Write
  refine keptOut_ite ?_ ?_
  · exact kept_next hk
  · exact keptOut_ite (kept_next (poisonedWrite_kept hk)) (keptOut_ite (kept_next (bar2Denied_kept hk))
      (keptOut_ite (kept_next hk) (kept_next (writeMem_kept hk))))

theorem execEventRecordWrite_kept (hk : Kept s0 s) :
    KeptOut s0 (execEventRecordWrite s) := by
  unfold execEventRecordWrite
  split
  · exact kept_next hk
  · extract_lets +onlyGivenNames r
    have hr : Kept s0 r.1 := settleEv_kept (kept_mk hk)
    extract_lets +onlyGivenNames s1
    have hs1 : Kept s0 s1 := logPut_kept hr
    refine keptOut_ite (kept_next hs1) ?_
    refine keptOut_ite (kept_next (ringDrop_kept hs1)) ?_
    refine keptOut_ite ?_ (kept_next (ringPut_kept hs1))
    extract_lets +onlyGivenNames l
    have hl : Kept s0 l.1 := settleEv_kept hs1
    extract_lets +onlyGivenNames y0 s2
    have hs2 : Kept s0 s2 := logPut_kept (kept_mk hl)
    extract_lets +onlyGivenNames y0 s3
    have hs3 : Kept s0 s3 := ringPut_kept (kept_mk hs2)
    exact keptOut_ite (kept_next (ringDrop_kept hs3)) (kept_next (ringPut_kept hs3))

theorem execMsiXSend_kept {v : Nat} (hk : Kept s0 s) :
    KeptOut s0 (execMsiXSend v s) := by
  unfold execMsiXSend
  refine keptOut_ite (kept_next hk) ?_
  extract_lets +onlyGivenNames s1
  have hs1 : Kept s0 s1 := kept_mk hk
  exact keptOut_ite (kept_next (kept_mk hs1)) (kept_next (post_kept hs1))

theorem execHostLinkDown_kept (hk : Kept s0 s) :
    KeptOut s0 (execHostLinkDown s) :=
  keptOut_ite (kept_next hk) (kept_next (raise_kept (setBit_kept (kept_mk hk))))

theorem execPcieLinkUp_kept {speed width : Nat} {flit : Bool} (hk : Kept s0 s) :
    KeptOut s0 (execPcieLinkUp speed width flit s) := by
  unfold execPcieLinkUp
  extract_lets +onlyGivenNames p
  refine keptOut_ite (kept_next hk) ?_
  extract_lets +onlyGivenNames s1
  have hs1 : Kept s0 s1 := updPower_kept hk
  extract_lets +onlyGivenNames s2
  have hs2 : Kept s0 s2 := kept_foldl (fun _ _ h => deliver_kept h) (kept_mk hs1)
  exact kept_next (startPorts_kept (kept_ite (raise_kept hs2) hs2))

theorem execSend_kept {n : Nat} {srcLane : Lane} {srcBuf : Nat} {outLane : Lane} {dst : Nat} (hk : Kept s0 s) :
    KeptOut s0 (execSend n srcLane srcBuf outLane dst s) := by
  unfold execSend
  refine keptOut_ite (kept_next hk) ?_
  extract_lets +onlyGivenNames x r s1
  have hs1 : Kept s0 s1 := fsIf_kept hk
  extract_lets +onlyGivenNames p
  refine keptOut_ite (kept_next hs1) ?_
  refine keptOut_ite ?_ ?_
  · exact kept_next (errHalt_kept hs1)
  · exact keptOut_ite (kept_next (updPort_kept (fsFail_kept hs1))) (keptOut_ite (kept_next (updPort_kept
      (fsIf_kept hs1))) (kept_next (launch_kept hs1)))

theorem execSendQueuedStart_kept {n : Nat} {outLane : Lane} (hk : Kept s0 s) :
    KeptOut s0 (execSendQueuedStart n outLane s) := by
  unfold execSendQueuedStart
  split
  · exact kept_next hk
  · exact keptOut_ite (kept_next hk) (kept_next (launch_kept (updPort_kept hk)))

theorem execFree_kept {n inner outer : Nat} (hk : Kept s0 s) :
    KeptOut s0 (execFree n inner outer s) :=
  keptOut_ite (kept_next hk) (kept_next (schedule_kept (fsIf_kept hk)))

theorem execMset_kept {n a : Nat} {f : MsetF} (hk : Kept s0 s) :
    KeptOut s0 (execMset n a f s) := by
  unfold execMset
  refine keptOut_ite (kept_next hk) ?_
  extract_lets +onlyGivenNames s1
  have hs1 : Kept s0 s1 := seeX_kept hk
  extract_lets +onlyGivenNames bases s2
  have hs2 : Kept s0 s2 := fsIf_kept hs1
  exact keptOut_ite (kept_next (badAddr_kept hs2)) (kept_next (schedule_kept hs2))

theorem execMac_kept {n a : Nat} {m : MacF} (hk : Kept s0 s) :
    KeptOut s0 (execMac n a m s) := by
  unfold execMac
  refine keptOut_ite (kept_next hk) ?_
  extract_lets +onlyGivenNames s1
  have hs1 : Kept s0 s1 := updArr_kept (addTok_kept hk)
  extract_lets +onlyGivenNames s2
  have hs2 : Kept s0 s2 := arrCount_kept hs1
  extract_lets +onlyGivenNames x
  split
  · exact kept_next (badSetup_kept hs2)
  · refine keptOut_ite (kept_next (badSetup_kept hs2)) ?_
    refine keptOut_ite (kept_next (accConflict_kept hs2)) ?_
    extract_lets +onlyGivenNames lanes isFree mid moved
    refine keptOut_ite (kept_next (badSetup_kept hs2)) ?_
    refine keptOut_ite (kept_next (macFree_kept hs2)) ?_
    split
    · exact keptOut_ite (kept_next (badSetup_kept hs2)) (kept_next (macRun_kept hs2))
    · exact kept_next (badSetup_kept hs2)

theorem execDrain_kept {n a : Nat} {f : DrainF} (hk : Kept s0 s) :
    KeptOut s0 (execDrain n a f s) := by
  unfold execDrain
  refine keptOut_ite (kept_next hk) ?_
  extract_lets +onlyGivenNames x cx
  refine keptOut_ite (kept_next (accConflict_kept hk)) ?_
  refine keptOut_ite ?_ ?_
  · extract_lets +onlyGivenNames s1
    have hs1 : Kept s0 s1 := seeX_kept hk
    extract_lets +onlyGivenNames s2
    have hs2 : Kept s0 s2 := fsIf_kept hs1
    refine keptOut_ite (kept_next (badSetup_kept hs2)) ?_
    extract_lets +onlyGivenNames size len
    split
    · exact kept_next (badAddr_kept hs2)
    · exact keptOut_ite (kept_next (badAddr_kept hs2)) (kept_next (drainStart_kept hs2))
  · extract_lets +onlyGivenNames s1
    have hs1 : Kept s0 s1 := seeX_kept hk
    extract_lets +onlyGivenNames s2
    have hs2 : Kept s0 s2 := fsIf_kept hs1
    exact keptOut_ite (kept_next (drainStart_kept hs2)) (kept_next (badSetup_kept hs2))

theorem execDrainComplete_kept {n a : Nat} (hk : Kept s0 s) :
    KeptOut s0 (execDrainComplete n a s) := by
  unfold execDrainComplete
  split
  · exact keptOut_ite (kept_next hk) (kept_next (columnChecks_kept (updArr_kept hk)))
  · exact kept_next hk

theorem execRowSweep_kept {n a : Nat} (hk : Kept s0 s) :
    KeptOut s0 (execRowSweep n a s) :=
  keptOut_ite (kept_next hk) (kept_next (sweepAcc_kept (sweepAcc_kept hk)))

theorem execMask_kept {n a target rs : Nat} (hk : Kept s0 s) :
    KeptOut s0 (execMask n a target rs s) :=
  keptOut_ite (kept_next hk) (kept_next (schedule_kept (seeX_kept hk)))

theorem execHdrld_kept {n rd : Nat} {lane : Lane} {buf sel : Nat} (hk : Kept s0 s) :
    KeptOut s0 (execHdrld n rd lane buf sel s) :=
  keptOut_ite (kept_next hk) (kept_next (putX_kept hk))

theorem execLd_kept {n rd base : Nat} {off : Int} (hk : Kept s0 s) :
    KeptOut s0 (execLd n rd base off s) := by
  unfold execLd
  refine keptOut_ite (kept_next hk) ?_
  extract_lets +onlyGivenNames v s1
  have hs1 : Kept s0 s1 := fsIf_kept (seeX_kept hk)
  split
  · exact kept_next (badAddr_kept hs1)
  · extract_lets +onlyGivenNames s2
    have hs2 : Kept s0 s2 := fsIf_kept hs1
    extract_lets +onlyGivenNames c
    have hc : Kept s0 c.1 := cloud_kept hs2
    exact kept_next (loaded_kept (readMem_kept hc))

theorem execSt_kept {n rs base : Nat} {off : Int} (hk : Kept s0 s) :
    KeptOut s0 (execSt n rs base off s) := by
  unfold execSt
  refine keptOut_ite (kept_next hk) ?_
  extract_lets +onlyGivenNames v s1
  have hs1 : Kept s0 s1 := fsIf_kept (seeX_kept hk)
  split
  · exact kept_next (badAddr_kept hs1)
  · exact kept_next (schedule_kept hs1)

theorem execMove_kept {n : Nat} {f : MoveF} (hk : Kept s0 s) :
    KeptOut s0 (execMove n f s) := by
  unfold execMove
  refine keptOut_ite (kept_next hk) ?_
  extract_lets +onlyGivenNames s1
  have hs1 : Kept s0 s1 := seeX_kept hk
  extract_lets +onlyGivenNames s2
  have hs2 : Kept s0 s2 := fsIf_kept hs1
  extract_lets +onlyGivenNames units len
  split
  · exact keptOut_ite (kept_next (badAddr_kept hs2)) (kept_next (queueMove_kept hs2))
  · split
    · exact keptOut_ite (kept_next (badAddr_kept hs2)) (kept_next (queueMove_kept hs2))
    · exact kept_next (badAddr_kept hs2)
  · exact kept_next (badAddr_kept hs2)

theorem execCvt_kept {n : Nat} {f : CvtF} (hk : Kept s0 s) :
    KeptOut s0 (execCvt n f s) := by
  unfold execCvt
  refine keptOut_ite (kept_next hk) ?_
  extract_lets +onlyGivenNames s1
  have hs1 : Kept s0 s1 := seeX_kept hk
  extract_lets +onlyGivenNames s2
  have hs2 : Kept s0 s2 := fsIf_kept hs1
  extract_lets +onlyGivenNames c tiles lin lout
  split
  · exact keptOut_ite (kept_next (badAddr_kept hs2)) (kept_next (queueMove_kept hs2))
  · exact kept_next (badAddr_kept hs2)

theorem execMoveUnitStart_kept {n : Nat} (hk : Kept s0 s) :
    KeptOut s0 (execMoveUnitStart n s) := by
  unfold execMoveUnitStart
  split
  · exact keptOut_ite (kept_next (updStn_kept hk)) (kept_next hk)
  · exact kept_next hk

theorem execStrm_kept {n e raddr rcount : Nat} (hk : Kept s0 s) :
    KeptOut s0 (execStrm n e raddr rcount s) := by
  unfold execStrm
  refine keptOut_ite (kept_next hk) ?_
  extract_lets +onlyGivenNames s1
  have hs1 : Kept s0 s1 := seeX_kept hk
  exact keptOut_ite (kept_next (notBound_kept hs1)) (kept_next (strmOn_kept hs1))

theorem execRearm_kept {n e rbase : Nat} (hk : Kept s0 s) :
    KeptOut s0 (execRearm n e rbase s) := by
  unfold execRearm
  refine keptOut_ite (kept_next hk) ?_
  extract_lets +onlyGivenNames s1
  have hs1 : Kept s0 s1 := seeX_kept hk
  exact keptOut_ite (kept_next (notBound_kept hs1)) (kept_next (rearmOn_kept hs1))

theorem execSeed_kept {n rs : Nat} (hk : Kept s0 s) :
    KeptOut s0 (execSeed n rs s) :=
  keptOut_ite (kept_next hk) (kept_next (schedule_kept (seeX_kept hk)))

theorem execNop_kept {n : Nat} (hk : Kept s0 s) :
    KeptOut s0 (execNop n s) :=
  keptOut_ite (kept_next hk) (kept_next (advance_kept hk))

theorem execAdd_kept {n rd a b : Nat} (hk : Kept s0 s) :
    KeptOut s0 (execAdd n rd a b s) :=
  scalarOp_kept hk

theorem execSub_kept {n rd a b : Nat} (hk : Kept s0 s) :
    KeptOut s0 (execSub n rd a b s) :=
  scalarOp_kept hk

theorem execAnd_kept {n rd a b : Nat} (hk : Kept s0 s) :
    KeptOut s0 (execAnd n rd a b s) :=
  scalarOp_kept hk

theorem execOr_kept {n rd a b : Nat} (hk : Kept s0 s) :
    KeptOut s0 (execOr n rd a b s) :=
  scalarOp_kept hk

theorem execXor_kept {n rd a b : Nat} (hk : Kept s0 s) :
    KeptOut s0 (execXor n rd a b s) :=
  scalarOp_kept hk

theorem execSll_kept {n rd a b : Nat} (hk : Kept s0 s) :
    KeptOut s0 (execSll n rd a b s) :=
  scalarOp_kept hk

theorem execSrl_kept {n rd a b : Nat} (hk : Kept s0 s) :
    KeptOut s0 (execSrl n rd a b s) :=
  scalarOp_kept hk

theorem execSra_kept {n rd a b : Nat} (hk : Kept s0 s) :
    KeptOut s0 (execSra n rd a b s) :=
  scalarOp_kept hk

theorem execAddi_kept {n rd a : Nat} {imm : Int} (hk : Kept s0 s) :
    KeptOut s0 (execAddi n rd a imm s) :=
  scalarOp_kept hk

theorem execLi_kept {n rd : Nat} {imm : Int} (hk : Kept s0 s) :
    KeptOut s0 (execLi n rd imm s) :=
  scalarOp_kept hk

theorem execLih_kept {n rd imm : Nat} (hk : Kept s0 s) :
    KeptOut s0 (execLih n rd imm s) :=
  scalarOp_kept hk

theorem execMul_kept {n rd a b : Nat} (hk : Kept s0 s) :
    KeptOut s0 (execMul n rd a b s) :=
  scalarOp_kept hk

theorem execCmp_kept {n pd a b cond : Nat} (hk : Kept s0 s) :
    KeptOut s0 (execCmp n pd a b cond s) := by
  unfold execCmp
  refine keptOut_ite (kept_next hk) ?_
  split
  · exact kept_next (advance_kept (putP_kept (seeX_kept hk)))
  · exact kept_next hk

theorem execPlog_kept {n pd a b fn : Nat} (hk : Kept s0 s) :
    KeptOut s0 (execPlog n pd a b fn s) := by
  unfold execPlog
  refine keptOut_ite (kept_next hk) ?_
  split
  · exact kept_next (advance_kept (putP_kept (fsIf_kept hk)))
  · exact kept_next hk

theorem execBr_kept {n target : Nat} (hk : Kept s0 s) :
    KeptOut s0 (execBr n target s) :=
  keptOut_ite (kept_next hk) (kept_next (updStn_kept (advance_kept hk)))

theorem execLoop_kept {n lc rs1 last : Nat} (hk : Kept s0 s) :
    KeptOut s0 (execLoop n lc rs1 last s) :=
  keptOut_ite (kept_next hk) (kept_next (updStn_kept (advance_kept (seeX_kept hk))))

theorem execStationHalt_kept {n : Nat} (hk : Kept s0 s) :
    KeptOut s0 (execStationHalt n s) :=
  keptOut_ite (kept_next hk) (kept_next (updStn_kept (advance_kept hk)))

theorem execArrive_kept {n : Nat} {scope : Scope} {i rs : Nat} {one : Bool} (hk : Kept s0 s) :
    KeptOut s0 (execArrive n scope i rs one s) := by
  unfold execArrive
  refine hurdleGate_kept hk (fun _ h => ?_)
  extract_lets +onlyGivenNames v s1
  have hs1 : Kept s0 s1 := kept_ite h (seeX_kept h)
  extract_lets +onlyGivenNames land s2
  have hs2 : Kept s0 s2 := kept_ite (updStn_kept (fsFail_kept hs1)) hs1
  exact kept_next (sendAdd_kept hs2)

theorem execWait_kept {n : Nat} {scope : Scope} {i rs : Nat} {long : Bool} (hk : Kept s0 s) :
    KeptOut s0 (execWait n scope i rs long s) := by
  unfold execWait
  refine hurdleGate_kept hk (fun _ h => ?_)
  extract_lets +onlyGivenNames s1
  have hs1 : Kept s0 s1 := seeX_kept h
  extract_lets +onlyGivenNames s2
  have hs2 : Kept s0 s2 := fsIf_kept hs1
  exact keptOut_ite (kept_next hs2) (kept_next (register_kept (updStn_kept hs2)))

theorem execSignal_kept {n raddr rs : Nat} {one : Bool} (hk : Kept s0 s) :
    KeptOut s0 (execSignal n raddr rs one s) := by
  unfold execSignal
  refine hurdleGate_kept hk (fun _ h => ?_)
  extract_lets +onlyGivenNames a v s1
  have hs1 : Kept s0 s1 := seeX_kept h
  refine keptOut_ite (kept_next (errHalt_kept (raise_kept (hurErr_kept hs1)))) ?_
  extract_lets +onlyGivenNames land s2
  have hs2 : Kept s0 s2 := fsIf_kept hs1
  exact kept_next (signalTo_kept (kept_ite (markLanding_kept hs2) hs2))

theorem execBorrow_kept {n tokens len : Nat} (hk : Kept s0 s) :
    KeptOut s0 (execBorrow n tokens len s) :=
  hurdleGate_kept hk (fun _ h => kept_next (updClu_kept (updStn_kept h)))

theorem execBorrowGrant_kept {g : Nat} (hk : Kept s0 s) :
    KeptOut s0 (execBorrowGrant g s) := by
  unfold execBorrowGrant
  extract_lets +onlyGivenNames c
  split
  · exact keptOut_ite (kept_next hk) (kept_next (updStn_kept (updClu_kept hk)))
  · exact kept_next hk

theorem execBorrowWindowEnd_kept {g n : Nat} (hk : Kept s0 s) :
    KeptOut s0 (execBorrowWindowEnd g n s) := by
  unfold execBorrowWindowEnd
  extract_lets +onlyGivenNames c
  refine keptOut_ite ?_ (kept_next hk)
  extract_lets +onlyGivenNames s1
  have hs1 : Kept s0 s1 := updClu_kept hk
  exact kept_next (kept_foldl (fun _ _ h => kept_ite (resume_kept h) h) hs1)

theorem execEclipseEnter_kept {n : Nat} (hk : Kept s0 s) :
    KeptOut s0 (execEclipseEnter n s) := by
  unfold execEclipseEnter
  split
  · exact keptOut_ite (kept_next hk) (kept_next (updStn_kept hk))
  · exact kept_next hk

theorem execHurEclipseHeadroom_kept {g : Nat} (hk : Kept s0 s) :
    KeptOut s0 (execHurEclipseHeadroom g s) :=
  keptOut_ite (kept_next (retarget_kept (updClu_kept (raise_kept (giveHeadroom_kept hk))))) (kept_next hk)

theorem execPwrTokenOver_kept {g : Nat} (hk : Kept s0 s) :
    KeptOut s0 (execPwrTokenOver g s) :=
  keptOut_ite (kept_next hk) (kept_next (updClu_kept (tokenOver_kept hk)))

theorem execXharrive_kept {g rs1 rs2 : Nat} (hk : Kept s0 s) :
    KeptOut s0 (execXharrive g rs1 rs2 s) :=
  gcHurdle_kept hk (fun _ h => kept_next (gcNext_kept (signalTo_kept h)))

theorem execXhwait_kept {g rd rs1 rs2 : Nat} {long : Bool} (hk : Kept s0 s) :
    KeptOut s0 (execXhwait g rd rs1 rs2 long s) := by
  unfold execXhwait
  refine gcHurdle_kept hk (fun _ h => ?_)
  extract_lets +onlyGivenNames a t1 c here
  refine keptOut_ite (kept_next (gcNext_kept (putGx_kept h))) ?_
  extract_lets +onlyGivenNames s1
  have hs1 : Kept s0 s1 := updGc_kept h
  exact kept_next (kept_ite (register_kept hs1) hs1)

theorem execXhsignal_kept {g rs1 rs2 : Nat} (hk : Kept s0 s) :
    KeptOut s0 (execXhsignal g rs1 rs2 s) :=
  gcHurdle_kept hk (fun _ h => kept_next (gcNext_kept (signalTo_kept h)))

theorem execXstrm_kept {g rd rs1 rs2 : Nat} (hk : Kept s0 s) :
    KeptOut s0 (execXstrm g rd rs1 rs2 s) := by
  unfold execXstrm
  refine keptOut_ite (kept_next hk) ?_
  extract_lets +onlyGivenNames e
  refine keptOut_ite (kept_next (gcNext_kept (putGx_kept (gcNotBound_kept hk)))) ?_
  extract_lets +onlyGivenNames d
  have hd : Kept s0 d.1 := draw_kept hk
  exact kept_next (gcNext_kept (putGx_kept (strmOn_kept hd)))

theorem execXrearm_kept {g rs1 rs2 : Nat} (hk : Kept s0 s) :
    KeptOut s0 (execXrearm g rs1 rs2 s) :=
  keptOut_ite (kept_next hk) (keptOut_ite (kept_next (gcNext_kept (gcNotBound_kept hk))) (kept_next (gcNext_kept
    (rearmOn_kept hk))))

theorem execXpld_kept {g vd rs1 rs2 fmt : Nat} {sc trans : Bool} (hk : Kept s0 s) :
    KeptOut s0 (execXpld g vd rs1 rs2 fmt sc trans s) := by
  unfold execXpld
  refine keptOut_ite (kept_next hk) ?_
  split
  · exact kept_next (gcTrap_kept hk)
  · refine keptOut_ite (kept_next (gcTrap_kept hk)) ?_
    extract_lets +onlyGivenNames a v es bs
    refine keptOut_ite (kept_next (gcTrap_kept hk)) ?_
    extract_lets +onlyGivenNames m
    have hm : Kept s0 m.1 := murk_kept hk
    extract_lets +onlyGivenNames r
    have hr : Kept s0 r.s := readList_kept hm
    refine keptOut_ite (kept_next hk) ?_
    split
    · exact kept_next (gcTrap_kept hr)
    · exact kept_next (gcNext_kept (putV_kept (countNonFin_kept hr)))

theorem execXpst_kept {g vs rs1 rs2 fmt : Nat} {sc trans prop : Bool} (hk : Kept s0 s) :
    KeptOut s0 (execXpst g vs rs1 rs2 fmt sc trans prop s) := by
  unfold execXpst
  refine keptOut_ite (kept_next hk) ?_
  split
  · exact kept_next (gcTrap_kept hk)
  · refine keptOut_ite (kept_next (gcTrap_kept hk)) ?_
    extract_lets +onlyGivenNames a v es int vals c bs
    refine keptOut_ite (kept_next (gcTrap_kept hk)) ?_
    refine keptOut_ite (kept_next hk) ?_
    extract_lets +onlyGivenNames r
    have hr : Kept s0 r.1 := putMem_kept (touch_kept hk)
    extract_lets +onlyGivenNames s1
    have hs1 : Kept s0 s1 := countNonFin_kept hr
    exact keptOut_ite (kept_next (gcNext_kept hs1)) (kept_next (gcTrap_kept hs1))

theorem execXhread_kept {g rd rs1 : Nat} (hk : Kept s0 s) :
    KeptOut s0 (execXhread g rd rs1 s) := by
  unfold execXhread
  refine gcHurdle_kept hk (fun _ h => ?_)
  extract_lets +onlyGivenNames a
  refine keptOut_ite (kept_next (gcNext_kept (putGx_kept h))) ?_
  extract_lets +onlyGivenNames d
  have hd : Kept s0 d.1 := draw_kept h
  exact kept_next (gcNext_kept (putGx_kept hd))

theorem execGcRunEndEcall_kept {g : Nat} (hk : Kept s0 s) :
    KeptOut s0 (execGcRunEndEcall g s) :=
  keptOut_ite (kept_next hk) (kept_next (updGc_kept (kept_mk hk)))

theorem execInvspd_kept {g retries : Nat} (hk : Kept s0 s) :
    KeptOut s0 (execInvspd g retries s) := by
  unfold execInvspd
  refine keptOut_ite (kept_next hk) ?_
  extract_lets +onlyGivenNames a n len
  refine keptOut_ite (kept_next (gcNext_kept (putGx_kept hk))) ?_
  refine keptOut_ite (kept_next (gcTrap_kept hk)) ?_
  refine keptOut_ite (kept_next (gcTrap_kept hk)) ?_
  extract_lets +onlyGivenNames r
  have hr : Kept s0 r.s := readMem_kept hk
  refine keptOut_ite (kept_next (gcTrap_kept hr)) ?_
  extract_lets +onlyGivenNames d
  have hd : Kept s0 d.1 := draw_kept hr
  extract_lets +onlyGivenNames w
  have hw : Kept s0 w.1 := writeMem_kept hd
  exact keptOut_ite (kept_next (gcTrap_kept hw)) (kept_next (gcNext_kept (putGx_kept (kept_ite (raise_kept
    (setBit_kept (bump_kept hw))) hw))))

theorem execGcException_kept {g cause : Nat} (hk : Kept s0 s) :
    KeptOut s0 (execGcException g cause s) :=
  keptOut_ite (kept_next hk) (kept_next (gcTrap_kept hk))

theorem execHeaderTransferArrive_kept {n : Nat} {lane : Lane} (hk : Kept s0 s) :
    KeptOut s0 (execHeaderTransferArrive n lane s) := by
  unfold execHeaderTransferArrive
  split
  · refine keptOut_ite (kept_next hk) ?_
    refine keptOut_ite (kept_next (updHop_kept (land_kept hk))) ?_
    extract_lets +onlyGivenNames s1
    have hs1 : Kept s0 s1 := updHop_kept hk
    extract_lets +onlyGivenNames s2
    have hs2 : Kept s0 s2 := fsFail_kept hs1
    exact keptOut_ite (kept_next (updClu_kept (raise_kept (bump_kept (ringErr_kept hs2))))) (kept_next hs2)
  · exact kept_next hk

theorem execBatonWaitEnd_kept {n : Nat} {lane : Lane} (hk : Kept s0 s) :
    KeptOut s0 (execBatonWaitEnd n lane s) := by
  unfold execBatonWaitEnd
  split
  · refine keptOut_ite ?_ (kept_next hk)
    extract_lets +onlyGivenNames c s1
    have hs1 : Kept s0 s1 := updHop_kept (land_kept hk)
    extract_lets +onlyGivenNames idle s2
    have hs2 : Kept s0 s2 := updPort_kept hs1
    exact kept_next (updClu_kept hs2)
  · exact kept_next hk

theorem execBatonLanded_kept {n : Nat} {lane : Lane} {b : Nat} (hk : Kept s0 s) :
    KeptOut s0 (execBatonLanded n lane b s) := by
  unfold execBatonLanded
  extract_lets +onlyGivenNames x
  refine keptOut_ite ?_ (kept_next hk)
  extract_lets +onlyGivenNames s1
  have hs1 : Kept s0 s1 := settle_kept hk
  exact kept_next (updHop_kept hs1)

theorem execTransferRetransmit_kept {n : Nat} {lane : Lane} {i k : Nat} {got : List Byte} {crc : Nat}
  (hk : Kept s0 s) :
    KeptOut s0 (execTransferRetransmit n lane i k got crc s) := by
  unfold execTransferRetransmit
  split
  · refine keptOut_ite (kept_next hk) ?_
    extract_lets +onlyGivenNames s1
    have hs1 : Kept s0 s1 := updHop_kept hk
    extract_lets +onlyGivenNames s2
    have hs2 : Kept s0 s2 := bump_kept hs1
    extract_lets +onlyGivenNames s3
    have hs3 : Kept s0 s3 := kept_ite (updClu_kept hs2) hs2
    extract_lets +onlyGivenNames r
    have hr : Kept s0 r.1 := rate_kept hs3
    exact kept_next (kept_ite (requestTest_kept hr) hr)
  · exact kept_next hk

theorem execRingReplayFail_kept {n : Nat} {lane : Lane} (hk : Kept s0 s) :
    KeptOut s0 (execRingReplayFail n lane s) := by
  unfold execRingReplayFail
  split
  · refine keptOut_ite (kept_next hk) ?_
    extract_lets +onlyGivenNames s1
    have hs1 : Kept s0 s1 := updHop_kept hk
    extract_lets +onlyGivenNames s2
    have hs2 : Kept s0 s2 := updStn_kept hs1
    exact kept_next (errHalt_kept (requestTest_kept (raise_kept (ringErr_kept (kept_ite (countLanding_kept
      (updLb_kept hs2)) hs2)))))
  · exact kept_next hk

theorem execFabricRetransmit_kept {window edge cluster : Nat} {again : Bool} {got : List Byte} {crc : Nat}
  (hk : Kept s0 s) :
    KeptOut s0 (execFabricRetransmit window edge cluster again got crc s) :=
  keptOut_ite (kept_next hk) (kept_next (bump_kept (kept_mk hk)))

theorem execRingFabReplayFail_kept {window edge cluster : Nat} (hk : Kept s0 s) :
    KeptOut s0 (execRingFabReplayFail window edge cluster s) := by
  unfold execRingFabReplayFail
  extract_lets +onlyGivenNames k
  refine keptOut_ite (kept_next hk) ?_
  extract_lets +onlyGivenNames s1
  have hs1 : Kept s0 s1 := kept_mk hk
  extract_lets +onlyGivenNames s2
  have hs2 : Kept s0 s2 := latch_kept hs1
  extract_lets +onlyGivenNames s3
  have hs3 : Kept s0 s3 := raise_kept hs2
  exact kept_next (wantStop_kept (kept_ite (requestTest_kept hs3) (kept_ite (requestTest_kept hs3) hs3)))

theorem execDescriptorBurstFetch_kept {g e : Nat} (hk : Kept s0 s) :
    KeptOut s0 (execDescriptorBurstFetch g e s) := by
  unfold execDescriptorBurstFetch
  extract_lets +onlyGivenNames x
  refine keptOut_ite (kept_next hk) ?_
  extract_lets +onlyGivenNames k a r
  have hr : Kept s0 r.s := readMem_kept hk
  refine keptOut_ite (kept_next (endList_kept hk)) ?_
  split
  · exact kept_next (endList_kept hr)
  · exact kept_next (updEng_kept hr)

theorem execDescriptorStart_kept {g e : Nat} (hk : Kept s0 s) :
    KeptOut s0 (execDescriptorStart g e s) := by
  unfold execDescriptorStart
  extract_lets +onlyGivenNames x
  split
  · exact kept_next hk
  · refine keptOut_ite (kept_next hk) ?_
    refine keptOut_ite (kept_next (updEng_kept hk)) ?_
    extract_lets +onlyGivenNames i last bad s1
    have hs1 : Kept s0 s1 := updEng_kept hk
    clear_value bad
    split
    · exact kept_next (endRun_kept hs1)
    · exact keptOut_ite (kept_next (moveDesc_kept hs1)) (kept_next (updRun_kept hs1))

theorem execLbInject_kept {g e : Nat} (hk : Kept s0 s) :
    KeptOut s0 (execLbInject g e s) := by
  unfold execLbInject
  extract_lets +onlyGivenNames x
  split
  · exact keptOut_ite (kept_next hk) (kept_next (updRun_kept (land_kept hk)))
  · exact kept_next hk

theorem execDescriptorComplete_kept {g e : Nat} (hk : Kept s0 s) :
    KeptOut s0 (execDescriptorComplete g e s) := by
  unfold execDescriptorComplete
  extract_lets +onlyGivenNames x
  split
  · exact kept_next hk
  · refine keptOut_ite (kept_next hk) ?_
    extract_lets +onlyGivenNames s1
    have hs1 : Kept s0 s1 := kept_ite (deadDest_kept hk) (landLate_kept hk)
    extract_lets +onlyGivenNames w
    have hw : Kept s0 w.1 := writeMem_kept hs1
    extract_lets +onlyGivenNames st ev s2
    have hs2 : Kept s0 s2 := updEng_kept hw
    refine keptOut_ite (kept_next (doneAction_kept (updEng_kept hs2))) ?_
    extract_lets +onlyGivenNames s3
    have hs3 : Kept s0 s3 := engReport_kept (markEvent_kept (strErr_kept hs2))
    extract_lets +onlyGivenNames s4
    have hs4 : Kept s0 s4 := doneAction_kept hs3
    extract_lets +onlyGivenNames q
    have hq : Kept s0 q.1 := notStarted_kept hs4
    exact kept_next (abandon_kept hq)

theorem execStrTimeout_kept {g e : Nat} (hk : Kept s0 s) :
    KeptOut s0 (execStrTimeout g e s) :=
  keptOut_ite (kept_next (endRun_kept (updRun_kept hk))) (kept_next hk)

theorem execStrmPendingStart_kept {g e : Nat} (hk : Kept s0 s) :
    KeptOut s0 (execStrmPendingStart g e s) := by
  unfold execStrmPendingStart
  extract_lets +onlyGivenNames x
  split
  · exact kept_next (startList_kept hk)
  · exact kept_next (startList_kept hk)
  · exact kept_next (startRun_kept hk)
  · exact kept_next (refuse_kept (updEng_kept hk))
  · exact kept_next hk

theorem execWinRequestCheck_kept {q : WinReq} (hk : Kept s0 s) :
    KeptOut s0 (execWinRequestCheck q s) := by
  unfold execWinRequestCheck
  refine keptOut_ite (kept_next hk) ?_
  extract_lets +onlyGivenNames r
  have hr : Kept s0 r.1 := winUnit_kept hk
  split
  · extract_lets +onlyGivenNames g
    extract_lets +onlyGivenNames e ok s1
    have hs1 : Kept s0 s1 := updRun_kept hr
    extract_lets +onlyGivenNames s2
    have hs2 : Kept s0 s2 := kept_ite (endRun_kept hs1) (kept_ite (endRun_kept hs1) hs1)
    exact keptOut_ite (kept_next hs2) (kept_next (updRun_kept hs2))
  · exact kept_next hr

theorem execOffloadPrefetchVerify_kept {g e : Nat} {data : List Byte} (hk : Kept s0 s) :
    KeptOut s0 (execOffloadPrefetchVerify g e data s) := by
  unfold execOffloadPrefetchVerify
  split
  · split
    · exact kept_next (updRun_kept (bump_kept (writeLate_kept hk)))
    · exact kept_next (endRun_kept hk)
  · exact kept_next hk

theorem execOflHostError_kept {g e : Nat} (hk : Kept s0 s) :
    KeptOut s0 (execOflHostError g e s) := by
  unfold execOflHostError
  extract_lets +onlyGivenNames x i
  split
  · exact kept_next (endRun_kept (kept_ite (undefHost_kept hk) hk))
  · exact kept_next hk

theorem execBankWake_kept {b : Nat} (hk : Kept s0 s) :
    KeptOut s0 (execBankWake b s) :=
  keptOut_ite (kept_next (wakeBank_kept hk)) (kept_next hk)

theorem execBankRetainTimeout_kept {b : Nat} (hk : Kept s0 s) :
    KeptOut s0 (execBankRetainTimeout b s) :=
  keptOut_ite (kept_next (kept_mk hk)) (kept_next hk)

theorem execHurdleAddApply_kept {i : Nat} (hk : Kept s0 s) :
    KeptOut s0 (execHurdleAddApply i s) := by
  unfold execHurdleAddApply
  split
  · exact keptOut_ite (kept_next (applyAdd_kept (kept_mk hk))) (kept_next hk)
  · exact kept_next hk

theorem execHurdleNodeForward_kept {node : Nat} (hk : Kept s0 s) :
    KeptOut s0 (execHurdleNodeForward node s) :=
  keptOut_ite (kept_next hk) (kept_next (kept_mk hk))

theorem execHurdleValueUpdate_kept {i : Nat} (hk : Kept s0 s) :
    KeptOut s0 (execHurdleValueUpdate i s) := by
  unfold execHurdleValueUpdate
  split
  · exact keptOut_ite (kept_next hk) (kept_next (testWaiter_kept (kept_mk hk)))
  · exact kept_next hk

theorem execWaitRelease_kept {w : Waiter} (hk : Kept s0 s) :
    KeptOut s0 (execWaitRelease w s) := by
  unfold execWaitRelease
  split
  · split
    · exact keptOut_ite (kept_next (resume_kept hk)) (kept_next hk)
    · exact kept_next hk
  · split
    · split
      · exact keptOut_ite (kept_next hk) (kept_next (resumeGc_kept hk))
      · exact kept_next hk
    · extract_lets +onlyGivenNames d
      have hd : Kept s0 d.1 := draw_kept hk
      exact keptOut_ite (kept_next (resumeGc_kept hd)) (kept_next hd)
    · exact kept_next hk

theorem execJobHurdleRootApply_kept {i : Nat} (hk : Kept s0 s) :
    KeptOut s0 (execJobHurdleRootApply i s) := by
  unfold execJobHurdleRootApply
  extract_lets +onlyGivenNames n
  refine keptOut_ite (kept_next hk) ?_
  extract_lets +onlyGivenNames s1
  have hs1 : Kept s0 s1 := kept_mk hk
  refine keptOut_ite ?_ ?_
  · extract_lets +onlyGivenNames v
    extract_lets +onlyGivenNames s2
    have hs2 : Kept s0 s2 := kept_mk hs1
    exact kept_next (kept_foldl (fun _ _ h => queueHur_kept h) hs2)
  · split
    · exact kept_next (queueHur_kept hs1)
    · exact kept_next hs1

theorem execJobHurdleValueArrive_kept {i : Nat} (hk : Kept s0 s) :
    KeptOut s0 (execJobHurdleValueArrive i s) := by
  unfold execJobHurdleValueArrive
  split
  · exact kept_next (tellWaiters_kept (setCtr_kept (kept_mk hk)))
  · exact kept_next hk

theorem execSignalNetResend_kept {node : Nat} {got : List Byte} {crc : Nat} (hk : Kept s0 s) :
    KeptOut s0 (execSignalNetResend node got crc s) :=
  keptOut_ite (kept_next hk) (kept_next (kept_mk hk))

theorem execHurNetFail_kept {node : Nat} (hk : Kept s0 s) :
    KeptOut s0 (execHurNetFail node s) :=
  keptOut_ite (kept_next hk) (kept_next (wantStop_kept (requestTest_kept (raise_kept (hurErr_kept (kept_mk hk))))))

theorem execHurWatchdog_kept {w : Waiter} (hk : Kept s0 s) :
    KeptOut s0 (execHurWatchdog w s) := by
  unfold execHurWatchdog
  refine keptOut_ite (kept_next hk) ?_
  extract_lets +onlyGivenNames s1
  have hs1 : Kept s0 s1 := by
    unfold s1
    split
    · exact raise_kept (hurErr_kept hk)
    · exact raise_kept (hurErr_kept hk)
  exact kept_next (startDump_kept (kept_ite hs1 (kept_mk hs1)))

theorem execHurDumpDone_kept (hk : Kept s0 s) :
    KeptOut s0 (execHurDumpDone s) :=
  keptOut_ite (kept_next hk) (kept_next (finishDump_kept hk))

theorem execCorrectedWriteBack_kept {i : Nat} (hk : Kept s0 s) :
    KeptOut s0 (execCorrectedWriteBack i s) := by
  unfold execCorrectedWriteBack
  split
  · exact kept_next (storeCorrected_kept hk)
  · exact kept_next hk

theorem execPatrolScrubRead_kept {w : Nat} (hk : Kept s0 s) :
    KeptOut s0 (execPatrolScrubRead w s) := by
  unfold execPatrolScrubRead
  refine keptOut_ite (kept_next hk) ?_
  extract_lets +onlyGivenNames pos t
  have ht : Kept s0 t := by
    unfold t
    split
    · exact scrubRead_kept hk
    · exact hk
  exact kept_next (kept_mk ht)

theorem execDramRefresh_kept {u : Nat} (hk : Kept s0 s) :
    KeptOut s0 (execDramRefresh u s) :=
  keptOut_ite (kept_next hk) (kept_next (updDram_kept hk))

theorem execMemRefreshRaised_kept {u temp : Nat} (hk : Kept s0 s) :
    KeptOut s0 (execMemRefreshRaised u temp s) :=
  keptOut_ite (kept_next hk) (keptOut_ite (kept_next (readout_kept hk)) (kept_next (raise_kept (updDram_kept
    (readout_kept hk)))))

theorem execPortUp_kept {p peerModule peerPort : Nat} (hk : Kept s0 s) :
    KeptOut s0 (execPortUp p peerModule peerPort s) := by
  unfold execPortUp
  extract_lets +onlyGivenNames h
  refine keptOut_ite (kept_next hk) ?_
  extract_lets +onlyGivenNames changed s1
  have hs1 : Kept s0 s1 := updHPort_kept hk
  extract_lets +onlyGivenNames s2
  have hs2 : Kept s0 s2 := rewriteCap_kept (raise_kept hs1)
  exact keptOut_ite (kept_next (raise_kept (setBit_kept hs2))) (kept_next hs2)

theorem execHofTrainFail_kept {p : Nat} (hk : Kept s0 s) :
    KeptOut s0 (execHofTrainFail p s) := by
  unfold execHofTrainFail
  extract_lets +onlyGivenNames h
  refine keptOut_ite (kept_next hk) ?_
  extract_lets +onlyGivenNames s1
  have hs1 : Kept s0 s1 := updHPort_kept hk
  exact keptOut_ite (kept_next (raise_kept (setBit_kept hs1))) (kept_next hs1)

theorem execPortTrainRetry_kept {p : Nat} (hk : Kept s0 s) :
    KeptOut s0 (execPortTrainRetry p s) :=
  keptOut_ite (kept_next hk) (kept_next (trainPort_kept (updHPort_kept hk)))

theorem execHofPortDown_kept {p : Nat} (hk : Kept s0 s) :
    KeptOut s0 (execHofPortDown p s) :=
  keptOut_ite (kept_next hk) (keptOut_ite (kept_next (leaveUp_kept hk)) (kept_next (trainPort_kept
    (leaveUp_kept hk))))

theorem execFlitSlot_kept {p : Nat} (hk : Kept s0 s) :
    KeptOut s0 (execFlitSlot p s) := by
  unfold execFlitSlot
  extract_lets +onlyGivenNames h
  refine keptOut_ite (kept_next hk) ?_
  refine keptOut_ite ?_ ?_
  · split
    · exact kept_next (sendAgain_kept hk)
    · exact keptOut_ite (kept_next (sendPlain_kept hk)) (kept_next (sendNew_kept hk))
  · split
    · exact kept_next (sendPlain_kept hk)
    · exact kept_next (sendAgain_kept hk)
    · split
      · exact keptOut_ite (kept_next (sendPlain_kept hk)) (kept_next (sendNew_kept hk))
      · exact kept_next (sendPlain_kept hk)

theorem execFlitReceive_kept {p k counter : Nat} {bytes : List Byte} (hk : Kept s0 s) :
    KeptOut s0 (execFlitReceive p k counter bytes s) := by
  unfold execFlitReceive
  extract_lets +onlyGivenNames h l rest
  refine keptOut_ite (kept_next hk) ?_
  refine keptOut_ite (kept_next (updHPort_kept hk)) ?_
  refine keptOut_ite ?_ (keptOut_ite (kept_next hk) (kept_next (takeNak_kept (acceptFlit_kept (updHPort_kept hk)))))
  extract_lets +onlyGivenNames s1
  have hs1 : Kept s0 s1 := takeNak_kept (updHPort_kept hk)
  exact kept_next (kept_ite (controlBody_kept hs1) hs1)

theorem execFlitResend_kept {p k seq : Nat} (hk : Kept s0 s) :
    KeptOut s0 (execFlitResend p k seq s) :=
  keptOut_ite (kept_next hk) (kept_next (resend_kept hk))

theorem execAckTimeout_kept {p k : Nat} (hk : Kept s0 s) :
    KeptOut s0 (execAckTimeout p k s) := by
  unfold execAckTimeout
  refine keptOut_ite (kept_next hk) ?_
  split
  · exact kept_next (resend_kept hk)
  · exact kept_next hk

theorem execHofRetryExhausted_kept {p k : Nat} (hk : Kept s0 s) :
    KeptOut s0 (execHofRetryExhausted p k s) :=
  keptOut_ite (kept_next hk) (kept_next (portFail_kept hk))

theorem execControlFlit_kept {p : Nat} {bytes : List Byte} (hk : Kept s0 s) :
    KeptOut s0 (execControlFlit p bytes s) :=
  keptOut_ite (kept_next hk) (kept_next (controlBody_kept hk))

theorem execSignalFlit_kept {p : Nat} {ms : List HurMsg} (hk : Kept s0 s) :
    KeptOut s0 (execSignalFlit p ms s) :=
  keptOut_ite (kept_next hk) (kept_next (kept_foldl (fun _ _ h => takeHur_kept h) (kept_mk hk)))

theorem execWinWrite_kept {p : Nat} {m : Msg} (hk : Kept s0 s) :
    KeptOut s0 (execWinWrite p m s) := by
  unfold execWinWrite
  refine keptOut_ite (kept_next hk) ?_
  extract_lets +onlyGivenNames l
  refine keptOut_ite (kept_next hk) ?_
  extract_lets +onlyGivenNames s1
  have hs1 : Kept s0 s1 := takeInbox_kept hk
  extract_lets +onlyGivenNames r
  have hr : Kept s0 r.1 := winUnits_kept hs1
  exact kept_next (replyTo_kept (kept_ite (deadUnits_kept hr) hr))

theorem execWinRead_kept {p : Nat} {m : Msg} (hk : Kept s0 s) :
    KeptOut s0 (execWinRead p m s) := by
  unfold execWinRead
  refine keptOut_ite (kept_next hk) ?_
  extract_lets +onlyGivenNames l
  refine keptOut_ite (kept_next hk) ?_
  extract_lets +onlyGivenNames r
  have hr : Kept s0 r.1 := winUnits_kept (takeInbox_kept hk)
  exact keptOut_ite (kept_next (replyTo_kept hr)) (kept_next (replyTo_kept hr))

theorem execReadData_kept {p : Nat} {m : Msg} (hk : Kept s0 s) :
    KeptOut s0 (execReadData p m s) := by
  unfold execReadData
  refine keptOut_ite (kept_next hk) ?_
  extract_lets +onlyGivenNames s1
  have hs1 : Kept s0 s1 := takeInbox_kept hk
  split
  · exact kept_next (answered_kept (updRun_kept hs1))
  · exact kept_next hs1

theorem execWinReply_kept {p : Nat} {m : Msg} (hk : Kept s0 s) :
    KeptOut s0 (execWinReply p m s) := by
  unfold execWinReply
  refine keptOut_ite (kept_next hk) ?_
  extract_lets +onlyGivenNames s1
  have hs1 : Kept s0 s1 := takeInbox_kept hk
  extract_lets +onlyGivenNames st
  split
  · extract_lets +onlyGivenNames s2
    have hs2 : Kept s0 s2 := answered_kept hs1
    exact keptOut_ite (kept_next (endRun_kept hs2)) (keptOut_ite (kept_next (endRun_kept hs2)) (kept_next hs2))
  · exact keptOut_ite (kept_next (snapAnswer_kept hs1)) (kept_next hs1)

theorem execChunkGrad_kept {k : Nat} {m : Msg} (hk : Kept s0 s) :
    KeptOut s0 (execChunkGrad k m s) := by
  unfold execChunkGrad
  extract_lets +onlyGivenNames s1
  have hs1 : Kept s0 s1 := by
    unfold s1
    split
    · exact intake_kept hk
    · exact hk
  exact kept_next (serve_kept hs1)

theorem execChunkReply_kept {p : Nat} {m : Msg} (hk : Kept s0 s) :
    KeptOut s0 (execChunkReply p m s) :=
  keptOut_ite (kept_next hk) (kept_next (kept_mk (takeInbox_kept hk)))

/-- The gather that arrives waits at its gateway, and the gateway then serves the first that it can. -/
theorem execChunkGather_kept {k : Nat} {m : Msg} (hk : Kept s0 s) : KeptOut s0 (execChunkGather k m s) := by
  refine kept_next (serve_kept ?_)
  split
  · exact kept_mk (takeInbox_kept hk)
  · exact hk

theorem execChunkTake_kept {k : Nat} (hk : Kept s0 s) :
    KeptOut s0 (execChunkTake k s) :=
  kept_next (serve_kept hk)

theorem execUpdateGroup_kept {k : Nat} (hk : Kept s0 s) :
    KeptOut s0 (execUpdateGroup k s) := by
  unfold execUpdateGroup
  split
  · exact kept_next hk
  · extract_lets +onlyGivenNames e
    extract_lets +onlyGivenNames x
    clear_value x
    split
    · exact kept_next hk
    · refine keptOut_ite (kept_next hk) ?_
      refine keptOut_ite (kept_next (updBuf_kept (watch_kept hk))) ?_
      refine keptOut_ite (kept_next (snapWait_kept hk)) ?_
      extract_lets +onlyGivenNames n off a b
      refine keptOut_ite (kept_next hk) ?_
      refine keptOut_ite (kept_next (updBuf_kept (reservedAccess_kept hk))) ?_
      extract_lets +onlyGivenNames r
      have hr : Kept s0 r.s := readMem_kept (wakeRange_kept (wakeRange_kept hk))
      split
      · exact kept_next (updBuf_kept (readFaultAt_kept hr))
      · extract_lets +onlyGivenNames d
        have hd : Kept s0 d.1 := draw_kept hr
        exact kept_next (updBuf_kept (watch_kept (writeMem_kept hd)))

theorem execChunkApplied_kept {k : Nat} (hk : Kept s0 s) :
    KeptOut s0 (execChunkApplied k s) := by
  unfold execChunkApplied
  split
  · exact kept_next hk
  · refine keptOut_ite (kept_next hk) ?_
    refine keptOut_ite (kept_next hk) ?_
    extract_lets +onlyGivenNames s1
    have hs1 : Kept s0 s1 := updGw_kept hk
    split
    · exact kept_next hs1
    · exact keptOut_ite (kept_next (sendAdd_kept (engineWrite_kept hs1))) (keptOut_ite (kept_next hs1) (kept_next
        (publish_kept hs1)))

theorem execLossReport_kept {k : Nat} {m : Msg} (hk : Kept s0 s) :
    KeptOut s0 (execLossReport k m s) := by
  unfold execLossReport
  extract_lets +onlyGivenNames s1
  have hs1 : Kept s0 s1 := by
    unfold s1
    split
    · exact kept_ite (intake_kept hk) hk
    · exact hk
  exact kept_next (serve_kept hs1)

theorem execEngineFinished_kept {k : Nat} (hk : Kept s0 s) :
    KeptOut s0 (execEngineFinished k s) :=
  keptOut_ite (kept_next hk) (kept_next (updGw_kept hk))

theorem execCoordinatorVote_kept (hk : Kept s0 s) :
    KeptOut s0 (execCoordinatorVote s) := by
  unfold execCoordinatorVote
  split
  · exact keptOut_ite (kept_next hk) (kept_next (castVote_kept hk))
  · exact kept_next hk

theorem execStepDecision_kept (hk : Kept s0 s) :
    KeptOut s0 (execStepDecision s) := by
  unfold execStepDecision
  split
  · exact keptOut_ite (kept_next hk) (kept_next (decideStep_kept hk))
  · exact kept_next hk

theorem execStepAckDone_kept (hk : Kept s0 s) :
    KeptOut s0 (execStepAckDone s) := by
  unfold execStepAckDone
  split
  · extract_lets +onlyGivenNames w
    extract_lets +onlyGivenNames m
    refine keptOut_ite (kept_next hk) ?_
    extract_lets +onlyGivenNames frozen y0 s1
    have hs1 : Kept s0 s1 := kept_mk hk
    refine keptOut_ite ?_ (kept_next hs1)
    extract_lets +onlyGivenNames s2
    have hs2 : Kept s0 s2 := raise_kept (setBit_kept hs1)
    exact kept_next (haltAll_kept (kept_mk hs2))
  · exact kept_next hk

theorem execClockSourceStable_kept {src : ClockSrc} (hk : Kept s0 s) :
    KeptOut s0 (execClockSourceStable src s) := by
  unfold execClockSourceStable
  refine keptOut_ite (kept_next hk) ?_
  split
  · exact keptOut_ite (kept_next (useRef_kept hk)) (kept_next (updPower_kept hk))
  · exact kept_next (updPower_kept hk)

theorem execMissingEdge_kept {src : ClockSrc} (hk : Kept s0 s) :
    KeptOut s0 (execMissingEdge src s) := by
  unfold execMissingEdge
  split
  · exact kept_next (updPower_kept hk)
  · exact kept_next (updPower_kept hk)

theorem execClkRefLoss_kept (hk : Kept s0 s) :
    KeptOut s0 (execClkRefLoss s) :=
  keptOut_ite (kept_next hk) (execHostLinkDown_kept (raise_kept (setBit_kept (updPower_kept hk))))

theorem execClkRefRestored_kept (hk : Kept s0 s) :
    KeptOut s0 (execClkRefRestored s) :=
  keptOut_ite (kept_next hk) (kept_next (raise_kept (updPower_kept (useRef_kept hk))))

theorem execClkXtalLoss_kept (hk : Kept s0 s) :
    KeptOut s0 (execClkXtalLoss s) := by
  unfold execClkXtalLoss
  refine keptOut_ite (kept_next hk) ?_
  extract_lets +onlyGivenNames s'
  have hs' : Kept s0 s' := updPower_kept hk
  exact keptOut_ite (kept_next hs') (kept_next (raise_kept (setBit_kept hs')))

theorem execClockLossRestart_kept (hk : Kept s0 s) :
    KeptOut s0 (execClockLossRestart s) :=
  keptOut_ite (kept_next hk) (kept_next (updPower_kept (cleared_kept hk)))

theorem execRampStep_kept {g : Nat} (hk : Kept s0 s) :
    KeptOut s0 (execRampStep g s) :=
  keptOut_ite (kept_next hk) (kept_next (policyDone_kept (updClu_kept hk)))

theorem execPacerTargetUpdate_kept {g : Nat} (hk : Kept s0 s) :
    KeptOut s0 (execPacerTargetUpdate g s) := by
  unfold execPacerTargetUpdate
  refine keptOut_ite (kept_next hk) ?_
  extract_lets +onlyGivenNames d
  have hd : Kept s0 d.1 := draw_kept hk
  exact kept_next (retarget_kept (updClu_kept hd))

theorem execDroopStretch_kept {g depth : Nat} (hk : Kept s0 s) :
    KeptOut s0 (execDroopStretch g depth s) :=
  keptOut_ite (kept_next hk) (kept_next (askStretch_kept hk))

theorem execPacThermal_kept {g temp : Nat} (hk : Kept s0 s) :
    KeptOut s0 (execPacThermal g temp s) := by
  unfold execPacThermal
  refine keptOut_ite ?_ ?_
  · exact kept_next hk
  · exact keptOut_ite (kept_next (updClu_kept (updPower_kept (kept_ite hk (raise_kept hk))))) (keptOut_ite
      (kept_next (updPower_kept (updClu_kept hk))) (kept_next hk))

theorem execPacTimingFloor_kept {g : Nat} (hk : Kept s0 s) :
    KeptOut s0 (execPacTimingFloor g s) :=
  keptOut_ite (kept_next hk) (kept_next (wantStop_kept (requestTest_kept (raise_kept hk))))

theorem execPwrSupplyWarn_kept {mv : Nat} (hk : Kept s0 s) :
    KeptOut s0 (execPwrSupplyWarn mv s) := by
  unfold execPwrSupplyWarn
  refine keptOut_ite (kept_next hk) ?_
  extract_lets +onlyGivenNames s1
  have hs1 : Kept s0 s1 := updPower_kept hk
  exact kept_next (raise_kept (setBit_kept (kept_mk hs1)))

theorem execSupplyRiseHoldStart_kept {mv : Nat} (hk : Kept s0 s) :
    KeptOut s0 (execSupplyRiseHoldStart mv s) :=
  keptOut_ite (kept_next hk) (kept_next (updPower_kept hk))

theorem execPwrSupplyClear_kept (hk : Kept s0 s) :
    KeptOut s0 (execPwrSupplyClear s) :=
  keptOut_ite (kept_next hk) (kept_next (raise_kept (updPower_kept hk)))

theorem execSupplyReset_kept {mv : Nat} (hk : Kept s0 s) :
    KeptOut s0 (execSupplyReset mv s) :=
  keptOut_ite (kept_next hk) (kept_next (releasePins_kept (updPower_kept (dark_kept hk))))

theorem execPwrOvervoltage_kept {mv : Nat} (hk : Kept s0 s) :
    KeptOut s0 (execPwrOvervoltage mv s) :=
  keptOut_ite (kept_next hk) (kept_next (raise_kept (setBit_kept (updPower_kept hk))))

theorem execOvervoltageShutdown_kept {mv : Nat} (hk : Kept s0 s) :
    KeptOut s0 (execOvervoltageShutdown mv s) :=
  keptOut_ite (kept_next hk) (kept_next (updPower_kept (dark_kept hk)))

theorem execBudgetSample_kept {mv ca p10 p1000 west10 west1000 east10 east1000 : Nat} (hk : Kept s0 s) :
    KeptOut s0 (execBudgetSample mv ca p10 p1000 west10 west1000 east10 east1000 s) := by
  unfold execBudgetSample
  refine keptOut_ite (kept_next hk) ?_
  extract_lets +onlyGivenNames cap excess back w e began p s1
  have hs1 : Kept s0 s1 := updPower_kept hk
  extract_lets +onlyGivenNames s2
  have hs2 : Kept s0 s2 := kept_ite (bump_kept hs1) hs1
  exact kept_next (halfRow_kept (halfRow_kept (kept_ite (raise_kept (setBit_kept hs2)) hs2)))

theorem execBudgetGrantRaise_kept (hk : Kept s0 s) :
    KeptOut s0 (execBudgetGrantRaise s) :=
  keptOut_ite (kept_next hk) (kept_next (kept_foldl (fun _ _ h => updClu_kept h) hk))

theorem execBudgetGrantLower_kept (hk : Kept s0 s) :
    KeptOut s0 (execBudgetGrantLower s) :=
  keptOut_ite (kept_next hk) (kept_next (kept_foldl (fun _ _ h => updClu_kept h) hk))

theorem execPwrAlert_kept (hk : Kept s0 s) :
    KeptOut s0 (execPwrAlert s) :=
  keptOut_ite (kept_next hk) (kept_next (raise_kept (setBit_kept (updPower_kept hk))))

theorem execAlertRelease_kept (hk : Kept s0 s) :
    KeptOut s0 (execAlertRelease s) :=
  keptOut_ite (kept_next hk) (kept_next (updPower_kept hk))

theorem execThermalTrip_kept {sensor temp : Nat} (hk : Kept s0 s) :
    KeptOut s0 (execThermalTrip sensor temp s) := by
  unfold execThermalTrip
  split
  · exact keptOut_ite (kept_next hk) (kept_next (updPower_kept (dark_kept (kept_mk hk))))
  · exact kept_next hk

theorem execRegulatorStart_kept {mv : Nat} (hk : Kept s0 s) :
    KeptOut s0 (execRegulatorStart mv s) :=
  keptOut_ite (kept_next hk) (kept_next (updPower_kept hk))

theorem execRailGroupGood_kept (hk : Kept s0 s) :
    KeptOut s0 (execRailGroupGood s) :=
  keptOut_ite (kept_next hk) (kept_next (updPower_kept hk))

theorem execRailFailure_kept (hk : Kept s0 s) :
    KeptOut s0 (execRailFailure s) :=
  keptOut_ite (kept_next hk) (kept_next (updPower_kept hk))

theorem execRailRetry_kept (hk : Kept s0 s) :
    KeptOut s0 (execRailRetry s) :=
  keptOut_ite (kept_next hk) (kept_next (updPower_kept hk))

theorem execPowerUp_kept (hk : Kept s0 s) :
    KeptOut s0 (execPowerUp s) :=
  keptOut_ite (kept_next hk) (kept_next (updPower_kept (releasePorts_kept (cleared_kept hk))))

theorem execFixedDomainStart_kept (hk : Kept s0 s) :
    KeptOut s0 (execFixedDomainStart s) :=
  keptOut_ite (kept_next hk) (kept_next (updPower_kept hk))

theorem execRomBoot_kept {hd0 hd1 : Bool} (hk : Kept s0 s) :
    KeptOut s0 (execRomBoot hd0 hd1 s) := by
  unfold execRomBoot
  refine keptOut_ite (kept_next hk) ?_
  extract_lets +onlyGivenNames a b out s1
  have hs1 : Kept s0 s1 := kept_mk hk
  exact keptOut_ite (kept_next (updPower_kept hs1)) (kept_next (updPower_kept hs1))

theorem execVaultRecovery_kept (hk : Kept s0 s) :
    KeptOut s0 (execVaultRecovery s) :=
  keptOut_ite (kept_next hk) (kept_next (updPower_kept (loadSupps_kept (raiseBoot_kept (readDual_kept
    (readDual_kept (kept_ite (raise_kept (kept_mk hk)) hk)))))))

theorem execMemoryTraining_kept {failed : List Nat} (hk : Kept s0 s) :
    KeptOut s0 (execMemoryTraining failed s) := by
  unfold execMemoryTraining
  refine keptOut_ite (kept_next hk) ?_
  extract_lets +onlyGivenNames s1
  have hs1 : Kept s0 s1 := kept_foldl (fun _ _ h => kept_ite (trainFail_kept h) h) hk
  extract_lets +onlyGivenNames s2
  have hs2 : Kept s0 s2 := dropFull_kept hs1
  extract_lets +onlyGivenNames s3
  have hs3 : Kept s0 s3 := kept_foldl (fun _ _ h => applyRepair_kept h) hs2
  extract_lets +onlyGivenNames s4
  have hs4 : Kept s0 s4 := countSpares_kept (mapInEffect_kept hs3)
  exact kept_next (updPower_kept (kept_mk hs4))

theorem execPowerupZeroiseDone_kept {lpddr : Bool} (hk : Kept s0 s) :
    KeptOut s0 (execPowerupZeroiseDone lpddr s) := by
  unfold execPowerupZeroiseDone
  refine keptOut_ite (keptOut_ite (kept_next hk) (kept_next (updPower_kept (kept_all (zeroJob_kept hk)
    (Nat.le_refl _) id id (fun _ => by decide))))) ?_
  refine keptOut_ite ?_ (keptOut_ite (kept_next hk) (kept_next (updPower_kept (zeroFast_kept hk))))
  refine keptOut_ite (kept_next hk) ?_
  extract_lets +onlyGivenNames d
  have hd : Kept s0 d.1 := draw_kept (zeroise_kept hk)
  exact kept_next (raise_kept (updPower_kept (kept_mk hd)))

theorem execPowerupSelftest_kept (hk : Kept s0 s) :
    KeptOut s0 (execPowerupSelftest s) := by
  unfold execPowerupSelftest
  refine keptOut_ite (kept_next hk) ?_
  extract_lets +onlyGivenNames found n s1
  have hs1 : Kept s0 s1 := kept_foldl (fun _ _ h => bootFault_kept h) hk
  extract_lets +onlyGivenNames s2
  have hs2 : Kept s0 s2 := kept_ite hs1 (commitTxn_kept hs1)
  extract_lets +onlyGivenNames s3
  have hs3 : Kept s0 s3 := applyNew_kept (applyAssignment_kept (applyMap_kept hs2))
  exact kept_next (updPower_kept (kept_mk hs3))

theorem execCommandProcessorOpen_kept (hk : Kept s0 s) :
    KeptOut s0 (execCommandProcessorOpen s) :=
  keptOut_ite (kept_next hk) (keptOut_ite (kept_next (startPorts_kept (updPower_kept hk))) (kept_next hk))

theorem execReady_kept (hk : Kept s0 s) :
    KeptOut s0 (execReady s) :=
  keptOut_ite (kept_next hk) (kept_next (updPower_kept (kept_mk hk)))

theorem execPerstNAssert_kept (hk : Kept s0 s) :
    KeptOut s0 (execPerstNAssert s) := by
  unfold execPerstNAssert
  refine keptOut_ite (kept_next hk) ?_
  extract_lets +onlyGivenNames t
  have ht : Kept s0 t := updPower_kept hk
  exact keptOut_ite (kept_next ht) (kept_next (kept_mk (beginReset_kept ht)))

theorem execPerstNDeassert_kept (hk : Kept s0 s) :
    KeptOut s0 (execPerstNDeassert s) :=
  keptOut_ite (kept_next hk) (kept_next (updPower_kept hk))

theorem execFaultStop_kept (hk : Kept s0 s) :
    KeptOut s0 (execFaultStop s) := by
  unfold execFaultStop
  refine keptOut_ite (kept_next hk) ?_
  refine keptOut_ite ?_ (keptOut_ite (keptOut_ite (kept_next hk) (kept_next (stopStep3_kept
    (discardStep_kept hk)))) (kept_next hk))
  refine keptOut_ite (kept_next hk) ?_
  extract_lets +onlyGivenNames s1
  have hs1 : Kept s0 s1 := stopStep1_kept hk
  exact keptOut_ite (kept_next hs1) (kept_next (stopStep3_kept (discardStep_kept hs1)))

theorem execSelftestRun_kept (hk : Kept s0 s) :
    KeptOut s0 (execSelftestRun s) := by
  unfold execSelftestRun
  refine keptOut_ite (kept_next hk) ?_
  split
  · exact kept_next (testUnit_kept (kept_mk hk))
  · exact kept_next hk

theorem execCtlMoonLockstep_kept {die pair : Nat} (hk : Kept s0 s) :
    KeptOut s0 (execCtlMoonLockstep die pair s) :=
  keptOut_ite (kept_next hk) (kept_next (wantStop_kept (requestTest_kept (raise_kept (kept_mk hk)))))

theorem execCtlSupervisorLockstep_kept (hk : Kept s0 s) :
    KeptOut s0 (execCtlSupervisorLockstep s) := by
  unfold execCtlSupervisorLockstep
  refine keptOut_ite ?_ ?_
  · exact kept_next hk
  · exact keptOut_ite (kept_next (updPower_kept (haltAll_kept (kept_mk hk)))) (kept_next (failCommands_kept
      (wantStop_kept (raise_kept (setBit_kept (kept_mk hk))))))

theorem execCtlFailoverDone_kept (hk : Kept s0 s) :
    KeptOut s0 (execCtlFailoverDone s) := by
  unfold execCtlFailoverDone
  refine keptOut_ite (kept_next hk) ?_
  extract_lets +onlyGivenNames i y0 r
  have hr : Kept s0 r.1 := testUnit_kept (kept_mk hk)
  extract_lets +onlyGivenNames s1
  have hs1 : Kept s0 s1 := hr
  exact kept_next (raise_kept (kept_ite hr (kept_mk hr)))

theorem execVaultTransaction_kept (hk : Kept s0 s) :
    KeptOut s0 (execVaultTransaction s) := by
  unfold execVaultTransaction
  split
  · exact kept_next hk
  · exact keptOut_ite (kept_next hk) (kept_next (runTxn_kept (kept_mk hk)))

theorem execEventLogCommit_kept (hk : Kept s0 s) :
    KeptOut s0 (execEventLogCommit s) :=
  keptOut_ite (kept_next hk) (kept_next (kept_mk hk))

theorem execLifetimeTelemetryCommit_kept (hk : Kept s0 s) :
    KeptOut s0 (execLifetimeTelemetryCommit s) :=
  keptOut_ite (kept_next hk) (kept_next (kept_mk hk))

theorem execPldmSensorUpdate_kept {readings : List (Nat × Int)} (hk : Kept s0 s) :
    KeptOut s0 (execPldmSensorUpdate readings s) := by
  unfold execPldmSensorUpdate
  refine keptOut_ite (kept_next hk) ?_
  extract_lets +onlyGivenNames d
  have hd : Kept s0 d.1 := draw_kept hk
  extract_lets +onlyGivenNames s1
  have hs1 : Kept s0 s1 := hd
  extract_lets +onlyGivenNames l t t1 s2
  have hs2 : Kept s0 s2 := kept_foldl (fun _ _ h => readout_kept h) hd
  exact kept_next (thermalCycle_kept (kept_mk hs2))

theorem execEntdaa_kept {addr : Nat} (hk : Kept s0 s) :
    KeptOut s0 (execEntdaa addr s) :=
  assignAddress_kept hk

theorem execSetdasa_kept {addr : Nat} (hk : Kept s0 s) :
    KeptOut s0 (execSetdasa addr s) :=
  assignAddress_kept hk

theorem execRstdaa_kept (hk : Kept s0 s) :
    KeptOut s0 (execRstdaa s) :=
  keptOut_ite (kept_next hk) (kept_next (kept_mk hk))

theorem execSetEndpointId_kept {op eid : Nat} (hk : Kept s0 s) :
    KeptOut s0 (execSetEndpointId op eid s) :=
  request_kept hk (fun _ h => kept_ite (answer_kept h) (answer_kept (kept_mk h)))

theorem execGetEndpointId_kept (hk : Kept s0 s) :
    KeptOut s0 (execGetEndpointId s) :=
  request_kept hk (fun _ h => answer_kept h)

theorem execGetMctpVersionSupport_kept {msgType : Nat} (hk : Kept s0 s) :
    KeptOut s0 (execGetMctpVersionSupport msgType s) :=
  request_kept hk (fun _ h => kept_ite (openAnswer_kept h) (answer_kept h))

theorem execGetMessageTypeSupport_kept (hk : Kept s0 s) :
    KeptOut s0 (execGetMessageTypeSupport s) :=
  request_kept hk (fun _ h => answer_kept h)

theorem execGetTid_kept (hk : Kept s0 s) :
    KeptOut s0 (execGetTid s) :=
  request_kept hk (fun _ h => answer_kept h)

theorem execSetTid_kept {tid : Nat} (hk : Kept s0 s) :
    KeptOut s0 (execSetTid tid s) :=
  request_kept hk (fun _ h => kept_ite (answer_kept h) (answer_kept (kept_mk h)))

theorem execGetPldmVersion_kept {handle flag type : Nat} (hk : Kept s0 s) :
    KeptOut s0 (execGetPldmVersion handle flag type s) :=
  request_kept hk (fun _ h => kept_ite (answer_kept h) (openAnswer_kept h))

theorem execGetPldmTypes_kept (hk : Kept s0 s) :
    KeptOut s0 (execGetPldmTypes s) :=
  request_kept hk (fun _ h => answer_kept h)

theorem execGetPldmCommands_kept {type version : Nat} (hk : Kept s0 s) :
    KeptOut s0 (execGetPldmCommands type version s) :=
  request_kept hk (fun _ h => kept_ite (answer_kept h) (answer_kept h))

theorem execGetPdrRepositoryInfo_kept (hk : Kept s0 s) :
    KeptOut s0 (execGetPdrRepositoryInfo s) :=
  request_kept hk (fun _ h => openAnswer_kept h)

theorem execGetPdr_kept (record handle flag count : Nat) (hk : Kept s0 s) :
    KeptOut s0 (execGetPdr record handle flag count s) :=
  request_kept hk (fun _ h => openAnswer_kept h)

theorem execGetSensorReading_kept (i : Nat) (rearm : Bool) (hk : Kept s0 s) :
    KeptOut s0 (execGetSensorReading i rearm s) :=
  request_kept hk (fun _ h => kept_ite (answer_kept h) (answer_kept h))

theorem execGetStateSensorReadings_kept {i : Nat} (hk : Kept s0 s) :
    KeptOut s0 (execGetStateSensorReadings i s) :=
  request_kept hk (fun _ h => kept_ite (answer_kept h) (answer_kept h))

theorem execGetSensorThresholds_kept {i : Nat} (hk : Kept s0 s) :
    KeptOut s0 (execGetSensorThresholds i s) :=
  request_kept hk (fun _ h => kept_ite (answer_kept h) (answer_kept h))

theorem execEnroll_kept {r : EnrollRec} (hk : Kept s0 s) :
    KeptOut s0 (execEnroll r s) := by
  unfold execEnroll
  refine request_kept hk (fun _ h => ?_)
  extract_lets +onlyGivenNames out
  refine kept_ite (answer_kept h) ?_
  refine kept_ite (answer_kept h) ?_
  extract_lets +onlyGivenNames s1
  have hs1 : Kept s0 s1 := readDual_kept h
  exact kept_ite (answer_kept hs1) (kept_ite (answer_kept hs1) (kept_ite (answer_kept hs1) (answer_kept
    (raise_kept (commitNow_kept hs1)))))

theorem execUnlock_kept {t : Token} (hk : Kept s0 s) :
    KeptOut s0 (execUnlock t s) := by
  unfold execUnlock
  refine request_kept ?_ (fun _ h => ?_)
  · exact hk
  · exact kept_ite (answer_kept h) (kept_ite (answer_kept h) (kept_ite (answer_kept h) (answer_kept (kept_mk
      (raise_kept (endForDebug_kept h))))))

theorem execMgtVaultRead_kept {off len area : Nat} (hk : Kept s0 s) :
    KeptOut s0 (execMgtVaultRead off len area s) := by
  unfold execMgtVaultRead
  refine request_kept hk (fun _ h => ?_)
  split
  · exact answer_kept h
  · refine kept_ite (answer_kept h) ?_
    refine kept_ite (answer_kept h) ?_
    extract_lets +onlyGivenNames r
    have hr : Kept s0 r.1 := readArea_kept h
    exact answer_kept hr

theorem execSupplyFallDuringHold_kept {mv : Nat} (hk : Kept s0 s) :
    KeptOut s0 (execSupplyFallDuringHold mv s) :=
  keptOut_ite (kept_next hk) (kept_next (updPower_kept hk))

theorem execRefreshRateLowered_kept {u temp : Nat} (hk : Kept s0 s) :
    KeptOut s0 (execRefreshRateLowered u temp s) :=
  keptOut_ite (kept_next hk) (kept_next (updDram_kept (readout_kept hk)))

theorem execGeneralCoreLoadStore_kept {g : Nat} {op : GcOp} {a size : Nat} (hk : Kept s0 s) :
    KeptOut s0 (execGeneralCoreLoadStore g op a size s) :=
  keptOut_ite (kept_next hk) (kept_next (gcLoadStore_kept hk))

/-- No command stops the module: each goes on in a state that keeps what `Kept` says. -/
theorem exec_kept (c : Instr) (hk : Kept s0 s) : KeptOut s0 (exec c s) := by
  cases c with
  | identify => exact execIdentify_kept hk
  | loadCourse _ addr => exact execLoadCourse_kept (addr := addr) hk
  | openWindow => exact execOpenWindow_kept hk
  | closeWindow => exact execCloseWindow_kept hk
  | closeWindowDone => exact execCloseWindowDone_kept hk
  | run => exact execRun_kept hk
  | runStart => exact execRunStart_kept hk
  | runComplete => exact execRunComplete_kept hk
  | halt => exact execHalt_kept hk
  | copy => exact execCopy_kept hk
  | provisionKey _ addr => exact execProvisionKey_kept (addr := addr) hk
  | attest => exact execAttest_kept hk
  | snapshot => exact execSnapshot_kept hk
  | snapshotChunkRead => exact execSnapshotChunkRead_kept hk
  | dumpTake => exact execDumpTake_kept hk
  | dumpCopyLast => exact execDumpCopyLast_kept hk
  | selftestUnit => exact execSelftestUnit_kept hk
  | selftestModule => exact execSelftestModule_kept hk
  | setBudget => exact execSetBudget_kept hk
  | endJob => exact execEndJob_kept hk
  | readTelemetry => exact execReadTelemetry_kept hk
  | vaultRead => exact execVaultRead_kept hk
  | setWatch => exact execSetWatch_kept hk
  | setClockPolicy => exact execSetClockPolicy_kept hk
  | armOffload => exact execArmOffload_kept hk
  | readFaultMap => exact execReadFaultMap_kept hk
  | linkDisable => exact execLinkDisable_kept hk
  | linkEnable => exact execLinkEnable_kept hk
  | linkRetrain => exact execLinkRetrain_kept hk
  | linkStatus => exact execLinkStatus_kept hk
  | linkLoopback => exact execLinkLoopback_kept hk
  | loadSupplement _ addr => exact execLoadSupplement_kept (addr := addr) hk
  | sqEntryTake => exact execSqEntryTake_kept hk
  | cmdSqTail => exact execCmdSqTail_kept hk
  | cmdCqHead => exact execCmdCqHead_kept hk
  | cmdEvtHead => exact execCmdEvtHead_kept hk
  | qpEnable => exact execQpEnable_kept hk
  | qpDisable => exact execQpDisable_kept hk
  | evtRingEnable => exact execEvtRingEnable_kept hk
  | warmReset => exact execWarmReset_kept hk
  | registerWrite => exact execRegisterWrite_kept hk
  | rcRead => exact execRcRead_kept hk
  | bar2Read => exact execBar2Read_kept hk
  | bar2Write => exact execBar2Write_kept hk
  | eventRecordWrite => exact execEventRecordWrite_kept hk
  | msiXSend => exact execMsiXSend_kept hk
  | hostLinkDown => exact execHostLinkDown_kept hk
  | pcieLinkUp => exact execPcieLinkUp_kept hk
  | send => exact execSend_kept hk
  | sendQueuedStart => exact execSendQueuedStart_kept hk
  | free => exact execFree_kept hk
  | mset => exact execMset_kept hk
  | mac => exact execMac_kept hk
  | drain => exact execDrain_kept hk
  | drainComplete => exact execDrainComplete_kept hk
  | rowSweep => exact execRowSweep_kept hk
  | mask => exact execMask_kept hk
  | hdrld => exact execHdrld_kept hk
  | ld => exact execLd_kept hk
  | st => exact execSt_kept hk
  | move => exact execMove_kept hk
  | cvt => exact execCvt_kept hk
  | moveUnitStart => exact execMoveUnitStart_kept hk
  | strm => exact execStrm_kept hk
  | rearm => exact execRearm_kept hk
  | seed => exact execSeed_kept hk
  | nop => exact execNop_kept hk
  | add => exact execAdd_kept hk
  | sub => exact execSub_kept hk
  | and => exact execAnd_kept hk
  | or => exact execOr_kept hk
  | xor => exact execXor_kept hk
  | sll => exact execSll_kept hk
  | srl => exact execSrl_kept hk
  | sra => exact execSra_kept hk
  | addi => exact execAddi_kept hk
  | li => exact execLi_kept hk
  | lih => exact execLih_kept hk
  | mul => exact execMul_kept hk
  | cmp => exact execCmp_kept hk
  | plog => exact execPlog_kept hk
  | br => exact execBr_kept hk
  | loop => exact execLoop_kept hk
  | stationHalt => exact execStationHalt_kept hk
  | arrive => exact execArrive_kept hk
  | wait => exact execWait_kept hk
  | signal => exact execSignal_kept hk
  | borrow => exact execBorrow_kept hk
  | borrowGrant => exact execBorrowGrant_kept hk
  | borrowWindowEnd => exact execBorrowWindowEnd_kept hk
  | eclipseEnter => exact execEclipseEnter_kept hk
  | hurEclipseHeadroom => exact execHurEclipseHeadroom_kept hk
  | pwrTokenOver => exact execPwrTokenOver_kept hk
  | xharrive => exact execXharrive_kept hk
  | xhwait => exact execXhwait_kept hk
  | xhsignal => exact execXhsignal_kept hk
  | xstrm => exact execXstrm_kept hk
  | xrearm => exact execXrearm_kept hk
  | xpld => exact execXpld_kept hk
  | xpst => exact execXpst_kept hk
  | xhread => exact execXhread_kept hk
  | gcRunEndEcall => exact execGcRunEndEcall_kept hk
  | invspd => exact execInvspd_kept hk
  | gcException => exact execGcException_kept hk
  | headerTransferArrive => exact execHeaderTransferArrive_kept hk
  | batonWaitEnd => exact execBatonWaitEnd_kept hk
  | batonLanded => exact execBatonLanded_kept hk
  | transferRetransmit => exact execTransferRetransmit_kept hk
  | ringReplayFail => exact execRingReplayFail_kept hk
  | fabricRetransmit => exact execFabricRetransmit_kept hk
  | ringFabReplayFail => exact execRingFabReplayFail_kept hk
  | descriptorBurstFetch => exact execDescriptorBurstFetch_kept hk
  | descriptorStart => exact execDescriptorStart_kept hk
  | lbInject => exact execLbInject_kept hk
  | descriptorComplete => exact execDescriptorComplete_kept hk
  | strTimeout => exact execStrTimeout_kept hk
  | strmPendingStart => exact execStrmPendingStart_kept hk
  | winRequestCheck => exact execWinRequestCheck_kept hk
  | offloadPrefetchVerify => exact execOffloadPrefetchVerify_kept hk
  | oflHostError => exact execOflHostError_kept hk
  | bankWake => exact execBankWake_kept hk
  | bankRetainTimeout => exact execBankRetainTimeout_kept hk
  | hurdleAddApply => exact execHurdleAddApply_kept hk
  | hurdleNodeForward => exact execHurdleNodeForward_kept hk
  | hurdleValueUpdate => exact execHurdleValueUpdate_kept hk
  | waitRelease => exact execWaitRelease_kept hk
  | jobHurdleRootApply => exact execJobHurdleRootApply_kept hk
  | jobHurdleValueArrive => exact execJobHurdleValueArrive_kept hk
  | signalNetResend => exact execSignalNetResend_kept hk
  | hurNetFail => exact execHurNetFail_kept hk
  | hurWatchdog => exact execHurWatchdog_kept hk
  | hurDumpDone => exact execHurDumpDone_kept hk
  | correctedWriteBack => exact execCorrectedWriteBack_kept hk
  | patrolScrubRead => exact execPatrolScrubRead_kept hk
  | dramRefresh => exact execDramRefresh_kept hk
  | memRefreshRaised => exact execMemRefreshRaised_kept hk
  | portUp => exact execPortUp_kept hk
  | hofTrainFail => exact execHofTrainFail_kept hk
  | portTrainRetry => exact execPortTrainRetry_kept hk
  | hofPortDown => exact execHofPortDown_kept hk
  | flitSlot => exact execFlitSlot_kept hk
  | flitReceive => exact execFlitReceive_kept hk
  | flitResend => exact execFlitResend_kept hk
  | ackTimeout => exact execAckTimeout_kept hk
  | hofRetryExhausted => exact execHofRetryExhausted_kept hk
  | controlFlit => exact execControlFlit_kept hk
  | signalFlit => exact execSignalFlit_kept hk
  | winWrite => exact execWinWrite_kept hk
  | winRead => exact execWinRead_kept hk
  | readData => exact execReadData_kept hk
  | winReply => exact execWinReply_kept hk
  | chunkGrad => exact execChunkGrad_kept hk
  | chunkGather => exact execChunkGather_kept hk
  | chunkReply => exact execChunkReply_kept hk
  | chunkTake => exact execChunkTake_kept hk
  | updateGroup => exact execUpdateGroup_kept hk
  | chunkApplied => exact execChunkApplied_kept hk
  | lossReport => exact execLossReport_kept hk
  | engineFinished => exact execEngineFinished_kept hk
  | coordinatorVote => exact execCoordinatorVote_kept hk
  | stepDecision => exact execStepDecision_kept hk
  | stepAckDone => exact execStepAckDone_kept hk
  | clockSourceStable => exact execClockSourceStable_kept hk
  | missingEdge => exact execMissingEdge_kept hk
  | clkRefLoss => exact execClkRefLoss_kept hk
  | clkRefRestored => exact execClkRefRestored_kept hk
  | clkXtalLoss => exact execClkXtalLoss_kept hk
  | clockLossRestart => exact execClockLossRestart_kept hk
  | rampStep => exact execRampStep_kept hk
  | pacerTargetUpdate => exact execPacerTargetUpdate_kept hk
  | droopStretch => exact execDroopStretch_kept hk
  | pacThermal => exact execPacThermal_kept hk
  | pacTimingFloor => exact execPacTimingFloor_kept hk
  | pwrSupplyWarn => exact execPwrSupplyWarn_kept hk
  | supplyRiseHoldStart => exact execSupplyRiseHoldStart_kept hk
  | pwrSupplyClear => exact execPwrSupplyClear_kept hk
  | supplyReset => exact execSupplyReset_kept hk
  | pwrOvervoltage => exact execPwrOvervoltage_kept hk
  | overvoltageShutdown => exact execOvervoltageShutdown_kept hk
  | budgetSample => exact execBudgetSample_kept hk
  | budgetGrantRaise => exact execBudgetGrantRaise_kept hk
  | budgetGrantLower => exact execBudgetGrantLower_kept hk
  | pwrAlert => exact execPwrAlert_kept hk
  | alertRelease => exact execAlertRelease_kept hk
  | thermalTrip => exact execThermalTrip_kept hk
  | regulatorStart => exact execRegulatorStart_kept hk
  | railGroupGood => exact execRailGroupGood_kept hk
  | railFailure => exact execRailFailure_kept hk
  | railRetry => exact execRailRetry_kept hk
  | powerUp => exact execPowerUp_kept hk
  | fixedDomainStart => exact execFixedDomainStart_kept hk
  | romBoot => exact execRomBoot_kept hk
  | vaultRecovery => exact execVaultRecovery_kept hk
  | memoryTraining => exact execMemoryTraining_kept hk
  | powerupZeroiseDone => exact execPowerupZeroiseDone_kept hk
  | powerupSelftest => exact execPowerupSelftest_kept hk
  | commandProcessorOpen => exact execCommandProcessorOpen_kept hk
  | ready => exact execReady_kept hk
  | perstNAssert => exact execPerstNAssert_kept hk
  | perstNDeassert => exact execPerstNDeassert_kept hk
  | faultStop => exact execFaultStop_kept hk
  | selftestRun => exact execSelftestRun_kept hk
  | ctlMoonLockstep => exact execCtlMoonLockstep_kept hk
  | ctlSupervisorLockstep => exact execCtlSupervisorLockstep_kept hk
  | ctlFailoverDone => exact execCtlFailoverDone_kept hk
  | vaultTransaction => exact execVaultTransaction_kept hk
  | eventLogCommit => exact execEventLogCommit_kept hk
  | lifetimeTelemetryCommit => exact execLifetimeTelemetryCommit_kept hk
  | pldmSensorUpdate => exact execPldmSensorUpdate_kept hk
  | entdaa => exact execEntdaa_kept hk
  | setdasa => exact execSetdasa_kept hk
  | rstdaa => exact execRstdaa_kept hk
  | setEndpointId => exact execSetEndpointId_kept hk
  | getEndpointId => exact execGetEndpointId_kept hk
  | getMctpVersionSupport => exact execGetMctpVersionSupport_kept hk
  | getMessageTypeSupport => exact execGetMessageTypeSupport_kept hk
  | getTid => exact execGetTid_kept hk
  | setTid => exact execSetTid_kept hk
  | getPldmVersion handle flag => exact execGetPldmVersion_kept (handle := handle) (flag := flag) hk
  | getPldmTypes => exact execGetPldmTypes_kept hk
  | getPldmCommands _ version => exact execGetPldmCommands_kept (version := version) hk
  | getPdrRepositoryInfo => exact execGetPdrRepositoryInfo_kept hk
  | getPdr record handle flag count => exact execGetPdr_kept record handle flag count hk
  | getSensorReading i rearm => exact execGetSensorReading_kept i rearm hk
  | getStateSensorReadings => exact execGetStateSensorReadings_kept hk
  | getSensorThresholds => exact execGetSensorThresholds_kept hk
  | enroll => exact execEnroll_kept hk
  | unlock => exact execUnlock_kept hk
  | mgtVaultRead => exact execMgtVaultRead_kept hk
  | supplyFallDuringHold => exact execSupplyFallDuringHold_kept hk
  | refreshRateLowered => exact execRefreshRateLowered_kept hk
  | generalCoreLoadStore => exact execGeneralCoreLoadStore_kept hk

/-! ### The general cores and the cycles of a cluster -/

theorem gcIcxel_kept {g w : Nat} (hk : Kept s0 s) :
    Kept s0 (gcIcxel s g w) := by
  unfold gcIcxel
  extract_lets +onlyGivenNames rd a b f7 run
  split
  · exact kept_ite (afterOut_kept (execXharrive_kept hk)) (gcIllegal_kept hk)
  · exact kept_ite (afterOut_kept (execXhwait_kept hk)) (gcIllegal_kept hk)
  · exact kept_ite (afterOut_kept (execXhsignal_kept hk)) (gcIllegal_kept hk)
  · exact kept_ite (afterOut_kept (execXstrm_kept hk)) (gcIllegal_kept hk)
  · exact kept_ite (afterOut_kept (execXrearm_kept hk)) (gcIllegal_kept hk)
  · exact kept_ite (afterOut_kept (execXpld_kept hk)) (gcIllegal_kept hk)
  · exact kept_ite (afterOut_kept (execXpst_kept hk)) (gcIllegal_kept hk)
  · exact kept_ite (afterOut_kept (execXhread_kept hk)) (gcIllegal_kept hk)

theorem gcEcall_kept {g : Nat} (hk : Kept s0 s) :
    Kept s0 (gcEcall s g) := by
  unfold gcEcall
  refine kept_ite (afterOut_kept (execGcRunEndEcall_kept hk)) ?_
  refine kept_ite ?_ (gcTrap_kept hk)
  extract_lets +onlyGivenNames d
  have hd : Kept s0 d.1 := draw_kept hk
  exact afterOut_kept (execInvspd_kept hd)

theorem gcSystem_kept {g len w : Nat} (hk : Kept s0 s) :
    Kept s0 (gcSystem s g len w) :=
  kept_ite (gcEcall_kept hk) (kept_ite (gcTrap_kept hk) (kept_ite (gcPass_kept hk) (gcIllegal_kept hk)))

theorem gcInstr_kept {g len w : Nat} (hk : Kept s0 s) :
    Kept s0 (gcInstr s g len w) := by
  unfold gcInstr
  extract_lets +onlyGivenNames f3
  split
  · exact kept_ite (gcIllegal_kept hk) (gcLoadStore_kept hk)
  · exact kept_ite (gcIllegal_kept hk) (gcLoadStore_kept hk)
  · exact kept_ite (gcLoadStore_kept hk) (kept_ite (gcVMem_kept hk) (gcIllegal_kept hk))
  · exact kept_ite (gcLoadStore_kept hk) (kept_ite (gcVMem_kept hk) (gcIllegal_kept hk))
  · exact gcAmo_kept hk
  · exact gcIcxel_kept hk
  · refine kept_ite (gcSystem_kept hk) ?_
    extract_lets +onlyGivenNames d
    have hd : Kept s0 d.1 := draw_kept hk
    exact gcSet_kept hd

theorem gcDecode_kept {g lo : Nat} (hk : Kept s0 s) : Kept s0 (gcDecode s g lo) := by
  unfold gcDecode
  split
  · exact gcAfter_kept hk (gcParcel_kept hk) fun _ _ h => gcInstr_kept h
  · split
    · exact gcInstr_kept hk
    · exact gcIllegal_kept hk

theorem gcStep_kept {g : Nat} (hk : Kept s0 s) : Kept s0 (gcStep s g) :=
  kept_ite hk (kept_ite (gcTrap_kept hk) (gcAfter_kept hk (gcParcel_kept hk) fun _ _ h => gcDecode_kept h))

theorem gcRun_kept {g n : Nat} (hk : Kept s0 s) : Kept s0 (gcRun g n s) := by
  induction n generalizing s with
  | zero => exact hk
  | succ n ih => exact ih (gcStep_kept hk)

theorem gcEdge_kept {g : Nat} (hk : Kept s0 s) : Kept s0 (gcEdge s g) :=
  kept_ite (gcRun_kept (draw_kept hk)) hk

theorem stretchTick_kept {g : Nat} (hk : Kept s0 s) :
    Kept s0 (stretchTick s g) := by
  unfold stretchTick
  refine kept_ite hk ?_
  extract_lets +onlyGivenNames s1
  have hs1 : Kept s0 s1 := updClu_kept hk
  exact kept_ite hs1 (bump_kept hs1)

theorem moveHeld_kept {n : Nat} (hk : Kept s0 s) :
    Kept s0 (moveHeld s n) := by
  unfold moveHeld
  refine kept_ite hk ?_
  extract_lets +onlyGivenNames own s1
  have hs1 : Kept s0 s1 := updStn_kept hk
  extract_lets +onlyGivenNames s2
  have hs2 : Kept s0 s2 := updClu_kept hs1
  exact runOn_kept (fun _ h => execMoveUnitStart_kept h) (moveTick_kept (kept_foldl (fun _ _ h => landEff_kept h)
    (updClu_kept hs2)))

theorem hopCycle_kept {n : Nat} {l : Lane} (hk : Kept s0 s) :
    Kept s0 (hopCycle s n l) := by
  unfold hopCycle
  extract_lets +onlyGivenNames s1
  have hs1 : Kept s0 s1 := runEach_kept (fun _ _ h => keptOut_ite (execBatonLanded_kept h) (kept_next h)) hk
  split
  · exact kept_ite hs1 (kept_ite (runOn_kept (fun _ h => execBatonWaitEnd_kept h) hs1) (runOn_kept
      (fun _ h => execHeaderTransferArrive_kept h) hs1))
  · exact hs1

theorem portHeld'_kept {n : Nat} {l : Lane} (hk : Kept s0 s) : Kept s0 (portHeld' s n l) := by
  refine kept_ite hk (runOn_kept (fun _ h => execSendQueuedStart_kept h) ?_)
  split
  · exact hopCycle_kept (kept_foldl (fun _ _ h => updLb_kept h) (updHop_kept (updPort_kept hk)))
  · exact updPort_kept hk

theorem heldCycle_kept {g : Nat} (hk : Kept s0 s) : Kept s0 (heldCycle s g) :=
  kept_foldl (fun _ _ h => moveHeld_kept (portHeld'_kept (portHeld'_kept h))) (watchCycle_kept (updClu_kept hk))

theorem releaseCycle_kept {g : Nat} (hk : Kept s0 s) :
    Kept s0 (releaseCycle s g) := by
  unfold releaseCycle
  extract_lets +onlyGivenNames counted s1
  have hs1 : Kept s0 s1 := by
    unfold s1
    refine runEach_kept (fun _ _ h => ?_) hk
    split
    · exact keptOut_ite (execWaitRelease_kept h) (kept_next h)
    · exact kept_next h
  split
  · exact kept_ite (runOn_kept (fun _ h => execWaitRelease_kept h) hs1) hs1
  · exact hs1

theorem dueCycle_kept {g : Nat} (hk : Kept s0 s) :
    Kept s0 (dueCycle s g) := by
  unfold dueCycle
  extract_lets +onlyGivenNames s1
  have hs1 : Kept s0 s1 := landDue_kept hk
  extract_lets +onlyGivenNames ns s2
  have hs2 : Kept s0 s2 := kept_foldl (fun _ _ h => kept_foldl (fun _ _ h1 => hopCycle_kept h1) h) hs1
  extract_lets +onlyGivenNames s3
  have hs3 : Kept s0 s3 := landAdds_kept hs2
  extract_lets +onlyGivenNames s4
  have hs4 : Kept s0 s4 := runEach_kept (fun _ _ h => execDrainComplete_kept h) hs3
  extract_lets +onlyGivenNames s5
  have hs5 : Kept s0 s5 := runEach_kept (fun _ _ h => execSendQueuedStart_kept h) hs4
  extract_lets +onlyGivenNames s6
  have hs6 : Kept s0 s6 := runEach_kept (fun _ _ h => execMoveUnitStart_kept h) hs5
  exact releaseCycle_kept (runEach_kept (fun _ _ h => execBorrowWindowEnd_kept h) hs6)

/-- The pair stays an equation, and `issueStn` is unfolded as a function: the kernel would else run the read of
the stride to compare two matches over it. -/
theorem issueStn_kept {n : Nat} (hk : Kept s0 s) : Kept s0 (issueStn s n).1 := by
  have hr : Kept s0 (fetchStride s n).1 := fetchStride_kept hk
  suffices h : ∀ f, f = issueStn → ∀ p, p = f s n → Kept s0 p.1 from h _ rfl _ rfl
  intro f hf p hp
  delta issueStn at hf
  subst hf
  beta_reduce at hp
  generalize fetchStride s n = r at hr hp
  obtain ⟨t, o⟩ := r
  cases o with
  | none =>
    subst hp
    exact errHalt_kept (updStn_kept hr)
  | some d =>
    dsimp only at hr hp
    have h1 : Kept s0 (fsIf t (staleP t n d.pred) n 3) := fsIf_kept hr
    generalize fsIf t (staleP t n d.pred) n 3 = s1 at h1 hp
    have h2 : Kept s0 (if d.a.isSome then listArr s1 n 0 else s1) := kept_ite (listArr_kept h1) h1
    generalize (if d.a.isSome then listArr s1 n 0 else s1) = s2 at h2 hp
    have h3 : Kept s0 (if d.b.isSome then listArr s2 n 1 else s2) := kept_ite (listArr_kept h2) h2
    generalize (if d.b.isSome then listArr s2 n 1 else s2) = s3 at h3 hp
    split at hp
    · subst hp
      exact offTokens_kept (offTokens_kept h3)
    · repeat' split at hp
      all_goals
        subst hp
        exact h3

end

/-! ### A tick -/

/-- What a tick keeps: all that `Kept` says but the queue, which the strides of a program cycle join. -/
structure KeptInTick (s t : State) : Prop where
  draws : s.freeCtr ≤ t.freeCtr
  mem : Memory.wf s.mem = true → Memory.wf t.mem = true
  hostMem : Memory.wf s.hostMem = true → Memory.wf t.hostMem = true
  jobState : s.jobState ≤ 4 → t.jobState ≤ 4

namespace KeptInTick

theorem of_kept {s t : State} (h : Kept s t) : KeptInTick s t := ⟨h.draws, h.mem, h.hostMem, h.jobState⟩

theorem refl (s : State) : KeptInTick s s := of_kept (.refl s)

theorem trans {s t u : State} (h : KeptInTick s t) (k : KeptInTick t u) : KeptInTick s u :=
  ⟨h.draws.trans k.draws, k.mem ∘ h.mem, k.hostMem ∘ h.hostMem, k.jobState ∘ h.jobState⟩

theorem foldl {α : Type} {f : State → α → State} (k : ∀ t x, KeptInTick t (f t x)) (l : List α) (s : State) :
    KeptInTick s (l.foldl f s) := by
  induction l generalizing s with
  | nil => exact refl s
  | cons x l ih => exact (k s x).trans (ih (f s x))

/-- Whatever commands join the queue. -/
theorem queue {s t : State} (h : KeptInTick s t) (q : List Instr) : KeptInTick s { t with pending := q } :=
  ⟨h.draws, h.mem, h.hostMem, h.jobState⟩

end KeptInTick

theorem issueCycle_keptInTick (s : State) (g : Nat) : KeptInTick s (issueCycle s g) := by
  refine KeptInTick.foldl (fun t n => ?_) _ s
  dsimp only
  split
  · exact (KeptInTick.of_kept (issueStn_kept (.refl t))).queue _
  · exact .refl t

theorem startCycle_keptInTick (s : State) (g : Nat) : KeptInTick s (startCycle s g) :=
  (KeptInTick.of_kept (watchCycle_kept (dueCycle_kept (updClu_kept (.refl s))))).trans (issueCycle_keptInTick _ g)

theorem clusterTick_keptInTick (s : State) (g : Nat) : KeptInTick s (clusterTick s g) := by
  unfold clusterTick
  extract_lets t
  have ht : KeptInTick s t := .of_kept (kept_ite (.refl s) (endCycle_kept (.refl s)))
  split
  · exact ht.trans (.of_kept (heldCycle_kept (.refl t)))
  · exact ht.trans (startCycle_keptInTick t g)

theorem clusterEdge_keptInTick (s : State) (g : Nat) : KeptInTick s (clusterEdge s g) := by
  unfold clusterEdge
  extract_lets t
  have ht : KeptInTick s t := .of_kept (stretchTick_kept (.refl s))
  split
  · exact (ht.trans (clusterTick_keptInTick t g)).trans (.of_kept (gcEdge_kept (.refl _)))
  · exact ht

theorem tick_keptInTick (s : State) : KeptInTick s (tick s) := by
  unfold tick
  split
  · exact .refl s
  · refine (KeptInTick.of_kept (kept_mk (draw_kept (.refl s)))).trans (KeptInTick.foldl (fun t g => ?_) _ _)
    split
    · exact clusterEdge_keptInTick t g
    · exact .refl t

theorem step_of_cons {s : State} {c : Instr} {rest : List Instr} (h : s.pending = c :: rest) :
    step s = exec c { s with pending := rest } := by rw [step, h]

theorem step_of_nil {s : State} (h : s.pending = []) : step s = .next (tick s) := by rw [step, h]

/-- What a step keeps: a tick's share where no command waits, and else the front command's. -/
theorem step_keptInTick {s t : State} (h : step s = .next t) : KeptInTick s t := by
  cases hq : s.pending with
  | nil =>
    rw [step_of_nil hq] at h
    cases h
    exact tick_keptInTick s
  | cons c rest =>
    rw [step_of_cons hq] at h
    obtain ⟨u, hu, hk⟩ := exec_kept c (.refl { s with pending := rest })
    cases hu.symm.trans h
    exact ⟨hk.draws, hk.mem, hk.hostMem, hk.jobState⟩

/-- Settles O4: what a step keeps holds of both memories and of the job state. -/
theorem goodStep : Obligations.GoodStep := by
  unfold Obligations.GoodStep
  rintro s t ⟨⟨hmem, hhost⟩, hjob⟩ h
  have hk := step_keptInTick h
  exact ⟨⟨hk.mem hmem, hk.hostMem hhost⟩, hk.jobState hjob⟩

/-- Settles O3: what every command keeps holds the queue, and a step never takes back a draw. -/
theorem everyCommandGoes : Obligations.EveryCommandGoes := by
  unfold Obligations.EveryCommandGoes
  refine ⟨fun c s => ?_, fun s t h => (step_keptInTick h).draws⟩
  obtain ⟨t, ht, hk⟩ := exec_kept c (.refl s)
  exact ⟨t, ht, hk.pending⟩

/-- Settles O5: both memories are empty, and no job is loaded. -/
theorem goodReset : Obligations.GoodReset := by
  unfold Obligations.GoodReset
  exact ⟨⟨rfl, rfl⟩, Nat.zero_le 4⟩

/-- Settles O1. -/
theorem stepRunsFront : Obligations.StepRunsFront := by
  unfold Obligations.StepRunsFront
  exact fun _ _ _ => step_of_cons

theorem tick_of_stopped {s : State} (h : s.power.fixedOn = false ∨ s.power.stopped = true) : tick s = s := by
  unfold tick
  rw [if_pos (by simpa using h)]

/-- The edges of clusters that are not live change nothing. -/
theorem foldl_edge_of_not_live {s : State} (h : ∀ g, live s g = false) (l : List Nat) :
    l.foldl (fun t g => if live t g && decide (7 ≤ t.power.stage) then clusterEdge t g else t) s = s := by
  induction l with
  | nil => rfl
  | cons g l ih => simpa [h g] using ih

theorem tick_of_not_live {s : State} (hon : s.power.fixedOn = true) (hrun : s.power.stopped = false)
    (h : ∀ g, live s g = false) :
    tick s = { s with freeCtr := s.freeCtr + 1, timeNs := s.timeNs + Config.nsPerTick s.freeCtr } := by
  unfold tick
  rw [if_neg (by simp [hon, hrun])]
  exact foldl_edge_of_not_live
    (s := { s with freeCtr := s.freeCtr + 1, timeNs := s.timeNs + Config.nsPerTick s.freeCtr }) h _

/-- Settles O2. -/
theorem idleStepTicks : Obligations.IdleStepTicks := by
  unfold Obligations.IdleStepTicks
  exact fun s hq => ⟨step_of_nil hq, tick_of_stopped, tick_of_not_live⟩

end Sys2Proof.Machine
end

/-! ## The scalar sequencer of a station (06 R220 to R224, R239) -/
section
set_option Elab.async false
namespace Sys2Proof.Machine
open Sys2Proof

/-! ### What an operation of the scalar slot leaves as it is -/

namespace OnlyStation
variable {n : Nat} {s t u : State}

theorem refl (n : Nat) (s : State) : OnlyStation n s s := ⟨rfl, fun _ _ => rfl, fun _ _ => rfl, fun _ => rfl⟩

theorem trans (h : OnlyStation n s t) (k : OnlyStation n t u) : OnlyStation n s u := by
  obtain ⟨ht, hstn, hclu, hregs⟩ := h
  obtain ⟨hu, kstn, kclu, kregs⟩ := k
  have hcourse : debugCourse t = debugCourse s := by rw [ht]; rfl
  refine ⟨?_, fun m hm => (kstn m hm).trans (hstn m hm), fun g hg => (kclu g hg).trans (hclu g hg),
    fun hd => (kregs (hcourse.trans hd)).trans (hregs hd)⟩
  calc u = { t with stns := u.stns, clus := u.clus, regs := u.regs } := hu
    _ = { s with stns := u.stns, clus := u.clus, regs := u.regs } := by rw [ht]

theorem updStn (s : State) (n : Nat) (f : Station → Station) : OnlyStation n s (updStn s n f) :=
  ⟨rfl, fun m hm => stn_updStn_other s n m f hm, fun _ _ => rfl, fun _ => rfl⟩

theorem schedule (s : State) (n after : Nat) (sc : Bool) (e : Eff) : OnlyStation n s (schedule s n after sc e) :=
  ⟨rfl, fun _ _ => rfl, fun g hg => clu_schedule_other s n after sc e g hg, fun _ => rfl⟩

/-- The detector touches registers only, and none outside a debug course. -/
theorem fsIf (s : State) (c : Bool) (n bit : Nat) : OnlyStation n s (fsIf s c n bit) := by
  have h := fsIf_regs s c n bit
  exact ⟨by rw [h], fun m _ => by rw [h]; rfl, fun g _ => by rw [h]; rfl, fun hd => by rw [fsIf_off s c n bit hd]⟩

theorem seeX (s : State) (n : Nat) (l : List Nat) : OnlyStation n s (seeX s n l) := fsIf s _ n 3

theorem advance (s : State) (n : Nat) : OnlyStation n s (advance s n) := updStn s n _

theorem putX (s : State) (n r after : Nat) (sc : Bool) (v : W64) : OnlyStation n s (putX s n r after sc v) := by
  unfold Machine.putX
  split
  · exact refl n s
  · exact schedule s n after sc _

theorem putP (s : State) (n p : Nat) (v : Bool) : OnlyStation n s (putP s n p v) := by
  unfold Machine.putP
  split
  · exact refl n s
  · exact schedule s n 1 true _

end OnlyStation

/-! ### What the detector does not touch -/

@[simp] theorem fsIf_stns (s : State) (c : Bool) (n bit : Nat) : (fsIf s c n bit).stns = s.stns := by rw [fsIf_regs]
@[simp] theorem fsIf_clus (s : State) (c : Bool) (n bit : Nat) : (fsIf s c n bit).clus = s.clus := by rw [fsIf_regs]
@[simp] theorem stn_fsIf (s : State) (c : Bool) (n bit m : Nat) : stn (fsIf s c n bit) m = stn s m := by
  simp [stn]
@[simp] theorem clu_fsIf (s : State) (c : Bool) (n bit g : Nat) : clu (fsIf s c n bit) g = clu s g := by
  simp [clu]
@[simp] theorem cycOf_fsIf (s : State) (c : Bool) (n bit m : Nat) : cycOf (fsIf s c n bit) m = cycOf s m := by
  simp [cycOf]
@[simp] theorem seeX_stns (s : State) (n : Nat) (l : List Nat) : (seeX s n l).stns = s.stns := fsIf_stns s _ n 3
@[simp] theorem seeX_clus (s : State) (n : Nat) (l : List Nat) : (seeX s n l).clus = s.clus := fsIf_clus s _ n 3
@[simp] theorem stn_seeX (s : State) (n : Nat) (l : List Nat) (m : Nat) : stn (seeX s n l) m = stn s m :=
  stn_fsIf s _ n 3 m
@[simp] theorem clu_seeX (s : State) (n : Nat) (l : List Nat) (g : Nat) : clu (seeX s n l) g = clu s g :=
  clu_fsIf s _ n 3 g
@[simp] theorem cycOf_seeX (s : State) (n : Nat) (l : List Nat) (m : Nat) : cycOf (seeX s n l) m = cycOf s m :=
  cycOf_fsIf s _ n 3 m

@[simp] theorem stn_schedule (s : State) (n after : Nat) (sc : Bool) (e : Eff) (m : Nat) :
    stn (schedule s n after sc e) m = stn s m := rfl

/-- Effects on their way do not turn the clock of a cluster. -/
@[simp] theorem cycOf_schedule (s : State) (n after : Nat) (sc : Bool) (e : Eff) :
    cycOf (schedule s n after sc e) n = cycOf s n := by simp [cycOf]

/-! ### Results, and the stride passed -/

/-- The stride passed, of a station and a program cycle that earlier changes have left as they were. -/
theorem passed_advance {s u : State} {n : Nat} (hs : stn u n = stn s n) (hc : cycOf u n = cycOf s n) :
    Passed n s (advance u n) := by
  unfold advance
  refine ⟨_, _, _, by rw [stn_updStn_same, hs, hc]; rfl, fun h => ?_⟩
  rw [loopEnd_none _ _ _ h]
  exact ⟨rfl, rfl, rfl⟩

theorem clu_putX (s : State) (n r after : Nat) (sc : Bool) (v : W64) :
    clu (putX s n r after sc v) (cluOf n) = { clu s (cluOf n) with
      timed := if r = 0 then (clu s (cluOf n)).timed
        else addTimed ⟨cycOf s n + after, cycOf s n, sc, .reg n r v⟩ (clu s (cluOf n)).timed } := by
  unfold putX
  split
  · rfl
  · rw [clu_schedule]

theorem clu_putP (s : State) (n p : Nat) (v : Bool) :
    clu (putP s n p v) (cluOf n) = { clu s (cluOf n) with
      timed := if p = 0 then (clu s (cluOf n)).timed
        else addTimed ⟨cycOf s n + 1, cycOf s n, true, .pred n p v⟩ (clu s (cluOf n)).timed } := by
  unfold putP
  split
  · rfl
  · rw [clu_schedule]

@[simp] theorem stn_putX (s : State) (n r after : Nat) (sc : Bool) (v : W64) (m : Nat) :
    stn (putX s n r after sc v) m = stn s m := by unfold putX; split <;> rfl

@[simp] theorem stn_putP (s : State) (n p : Nat) (v : Bool) (m : Nat) : stn (putP s n p v) m = stn s m := by
  unfold putP; split <;> rfl

@[simp] theorem cycOf_putX (s : State) (n r after : Nat) (sc : Bool) (v : W64) :
    cycOf (putX s n r after sc v) n = cycOf s n := by simp [cycOf, clu_putX]

@[simp] theorem cycOf_putP (s : State) (n p : Nat) (v : Bool) : cycOf (putP s n p v) n = cycOf s n := by
  simp [cycOf, clu_putP]

/-- Every register operation of the scalar slot (06 R223, R239). -/
theorem scalarOp_result {s : State} {n : Nat} (h : acts s n = true) (rd after : Nat) (reads : List Nat) (v : W64) :
    ∃ t, scalarOp n rd after reads v s = .next t ∧ ScalarResult n rd after v s t := by
  refine ⟨advance (putX (seeX s n reads) n rd after true v) n, by rw [scalarOp, h]; rfl,
    ((OnlyStation.seeX s n reads).trans (.putX _ n rd after true v)).trans (.advance _ n),
    passed_advance (by simp) (by simp), ?_⟩
  have hc := clu_putX (seeX s n reads) n rd after true v
  rw [clu_seeX, cycOf_seeX] at hc
  exact hc

/-- A predicate result of CMP or PLOG, after a check of the detector. -/
theorem predicate_result {s : State} {n : Nat} (c : Bool) (pd : Nat) (v : Bool) :
    PredicateResult n pd v s (advance (putP (fsIf s c n 3) n pd v) n) := by
  refine ⟨((OnlyStation.fsIf s c n 3).trans (.putP _ n pd v)).trans (.advance _ n),
    passed_advance (by simp) (by simp), ?_⟩
  have hc := clu_putP (fsIf s c n 3) n pd v
  rw [clu_fsIf, cycOf_fsIf] at hc
  exact hc

/-- The low 6 bits of a register, as a shift distance. -/
theorem shift_distance (v : W64) : (v.extractLsb' 0 6).toNat = v.toNat % 64 := by
  simp [BitVec.extractLsb'_toNat]

/-- LIH as a concatenation: the immediate above the low half of the register. -/
theorem ofNat_high_low (imm : Nat) (x : W64) :
    BitVec.ofNat 64 (imm % 2 ^ 32 * 2 ^ 32 + x.toNat % 2 ^ 32) = BitVec.ofNat 32 imm ++ x.extractLsb' 0 32 := by
  apply BitVec.eq_of_toNat_eq
  have hx := Nat.mod_lt x.toNat (Nat.two_pow_pos 32)
  have hi := Nat.mod_lt imm (Nat.two_pow_pos 32)
  rw [BitVec.toNat_append, BitVec.extractLsb'_toNat, BitVec.toNat_ofNat, BitVec.toNat_ofNat, Nat.shiftRight_zero,
    ← Nat.shiftLeft_add_eq_or_of_lt hx, Nat.shiftLeft_eq, Nat.mod_eq_of_lt]
  omega

/-- Settles O6: each operation is `scalarOp` with its registers read, its latency and its result. -/
theorem scalarResults : Obligations.ScalarResults := by
  unfold Obligations.ScalarResults
  intro s n rd a b h
  have op := fun after reads v => scalarOp_result h rd after reads v
  refine ⟨op _ _ _, op _ _ _, op _ _ _, op _ _ _, op _ _ _, ?_, ?_, ?_, op _ _ _, fun _ => op _ _ _, fun _ => op _ _ _,
    fun imm _ => ?_, advance s n, ?_, .advance s n, passed_advance rfl rfl, rfl⟩
  · rw [shift_distance]; exact op _ _ _
  · rw [shift_distance]; exact op _ _ _
  · rw [shift_distance]; exact op _ _ _
  · rw [← ofNat_high_low]; exact op _ _ _
  · show execNop n s = _
    rw [execNop, h]; rfl

/-- What the conditions of CMP ask, by the table of R223. -/
theorem cmpCond_eq_some {cond : Nat} {a b : W64} {v : Bool}
    (heq : cond = 0 → (v = true ↔ a = b)) (hne : cond = 1 → (v = true ↔ a ≠ b))
    (hlt : cond = 2 → (v = true ↔ a.toInt < b.toInt)) (hge : cond = 3 → (v = true ↔ b.toInt ≤ a.toInt))
    (hltu : cond = 4 → (v = true ↔ a.toNat < b.toNat)) (hgeu : cond = 5 → (v = true ↔ b.toNat ≤ a.toNat))
    (hc : cond < 6) : cmpCond cond a b = some v := by
  have hcases : cond = 0 ∨ cond = 1 ∨ cond = 2 ∨ cond = 3 ∨ cond = 4 ∨ cond = 5 := by omega
  rcases hcases with rfl | rfl | rfl | rfl | rfl | rfl <;>
    refine congrArg some (Bool.eq_iff_iff.2 ?_)
  · simp [heq rfl]
  · simp [hne rfl]
  · rw [hlt rfl, BitVec.slt_iff_toInt_lt]
  · rw [hge rfl, Bool.not_eq_true', ← Bool.not_eq_true, BitVec.slt_iff_toInt_lt, not_lt]
  · rw [hltu rfl, BitVec.ult_iff_toNat_lt]
  · rw [hgeu rfl, Bool.not_eq_true', ← Bool.not_eq_true, BitVec.ult_iff_toNat_lt, not_lt]

theorem execPlog_of_acts {s : State} {n fn a b : Nat} {v : Bool} (h : acts s n = true)
    (hv : plogFn fn (preg s n a) (preg s n b) = some v) (pd : Nat) :
    ∃ t, exec (.plog n pd a b fn) s = .next t ∧ PredicateResult n pd v s t := by
  refine ⟨_, ?_, predicate_result (staleP s n a || staleP s n b) pd v⟩
  show execPlog n pd a b fn s = _
  rw [execPlog, h, hv]; rfl

theorem execCmp_of_acts {s : State} {n cond a b : Nat} {v : Bool} (h : acts s n = true)
    (hv : cmpCond cond (xreg s n a) (xreg s n b) = some v) (pd : Nat) :
    ∃ t, exec (.cmp n pd a b cond) s = .next t ∧ PredicateResult n pd v s t := by
  refine ⟨_, ?_, predicate_result ([a, b].any (staleX s n)) pd v⟩
  show execCmp n pd a b cond s = _
  rw [execCmp, h, hv]; rfl

/-- Settles O7. -/
theorem predicateResults : Obligations.PredicateResults := by
  unfold Obligations.PredicateResults
  intro s n pd a b h
  refine ⟨fun cond v heq hne hlt hge hltu hgeu hc => ?_, execPlog_of_acts h rfl pd, execPlog_of_acts h rfl pd, ?_,
    execPlog_of_acts h rfl pd⟩
  · exact execCmp_of_acts h (cmpCond_eq_some heq hne hlt hge hltu hgeu hc) pd
  · have hx : plogFn 2 (preg s n a) (preg s n b) = some (xor (preg s n a) (preg s n b)) := by
      simp [plogFn]
    exact execPlog_of_acts h hx pd

/-! ### Branches, loops and HALT (06 R224) -/

theorem run_of_acts {s : State} {n : Nat} (h : acts s n = true) : (stn s n).run = .issuing := by
  simpa using (Bool.and_eq_true_iff.1 h).2

theorem acts_of_halted {s : State} {n : Nat} (h : (stn s n).run = .halted) : acts s n = false := by
  simp [acts, h]

@[simp] theorem stn_advance (s : State) (n : Nat) : stn (advance s n) n = passStride (stn s n) (cycOf s n) :=
  stn_updStn_same s n _

section
variable (t : Station) (cyc : Nat)

@[simp] theorem passStride_run : (passStride t cyc).run = t.run := rfl
@[simp] theorem passStride_x : (passStride t cyc).x = t.x := rfl
@[simp] theorem passStride_p : (passStride t cyc).p = t.p := rfl
@[simp] theorem passStride_nextCyc : (passStride t cyc).nextCyc = cyc + 1 := rfl

end

/-- A stride that ends no loop: the next one follows, and the loops stay. -/
theorem passStride_of_noLoopEnds {t : Station} (cyc : Nat) (h : ∀ l ∈ t.loops, l.2.2 ≠ t.pc) :
    (passStride t cyc).lc = t.lc ∧ (passStride t cyc).loops = t.loops ∧
      (passStride t cyc).pc = (t.pc + 1) % 16384 := by
  unfold passStride
  rw [loopEnd_none _ _ _ h]
  exact ⟨rfl, rfl, rfl⟩

/-- The end stride of the most recent loop alone: its counter falls by 1, and the body runs again until it is 0. -/
theorem loopEnd_front {k first pc : Nat} {rest : List (Nat × Nat × Nat)} (lc : Table W32)
    (h : ∀ l ∈ rest, l.2.2 ≠ pc) :
    loopEnd pc ((k, first, pc) :: rest) lc =
      if lc.get 0 k - 1 ≠ 0 then (some first, (k, first, pc) :: rest, lc.set k (lc.get 0 k - 1))
      else (none, rest, lc.set k (lc.get 0 k - 1)) := by
  simp only [loopEnd, if_true]
  split
  · rfl
  · exact loopEnd_none _ _ _ h

theorem exec_br {s : State} {n : Nat} (h : acts s n = true) (target : Nat) :
    exec (.br n target) s = .next (updStn (advance s n) n (fun t =>
      { t with pc := target % 16384, nextCyc := cycOf s n + 3
               loops := t.loops.filter (fun l => decide (l.2.1 ≤ target) && decide (target ≤ l.2.2)) })) := by
  show execBr n target s = _
  rw [execBr, h]; rfl

/-- A station whose LOOP has passed: the loop is active from the next stride, or its body is skipped. -/
def loopEntered (lc last cyc pc : Nat) (count : W32) (t : Station) : Station :=
  let ls := t.loops.filter (fun l => l.1 ≠ lc)
  if count = 0 then { t with lc := t.lc.set lc count, loops := ls, pc := (last + 1) % 16384, nextCyc := cyc + 3 }
  else { t with lc := t.lc.set lc count, loops := (lc, (pc + 1) % 16384, last) :: ls }

theorem exec_loop {s : State} {n : Nat} (h : acts s n = true) (lc rs last : Nat) :
    exec (.loop n lc rs last) s = .next (updStn (advance (seeX s n [rs]) n) n
      (loopEntered lc last (cycOf s n) (stn s n).pc ((xreg s n rs).setWidth 32))) := by
  show execLoop n lc rs last s = _
  rw [execLoop, h]; rfl

section
variable (lc last cyc pc : Nat) (count : W32) (t : Station)

@[simp] theorem loopEntered_x : (loopEntered lc last cyc pc count t).x = t.x := by
  unfold loopEntered; dsimp only; split <;> rfl
@[simp] theorem loopEntered_p : (loopEntered lc last cyc pc count t).p = t.p := by
  unfold loopEntered; dsimp only; split <;> rfl
@[simp] theorem loopEntered_run : (loopEntered lc last cyc pc count t).run = t.run := by
  unfold loopEntered; dsimp only; split <;> rfl
@[simp] theorem loopEntered_lc : (loopEntered lc last cyc pc count t).lc = t.lc.set lc count := by
  unfold loopEntered; dsimp only; split <;> rfl

theorem loopEntered_of_ne_zero (h : count ≠ 0) : loopEntered lc last cyc pc count t = { t with
    lc := t.lc.set lc count, loops := (lc, (pc + 1) % 16384, last) :: t.loops.filter (fun l => l.1 ≠ lc) } := if_neg h

theorem loopEntered_of_zero : loopEntered lc last cyc pc 0 t = { t with
    lc := t.lc.set lc 0, loops := t.loops.filter (fun l => l.1 ≠ lc), pc := (last + 1) % 16384
    nextCyc := cyc + 3 } := by simp [loopEntered]

end

theorem exec_nop {s : State} {n : Nat} (h : acts s n = true) : exec (.nop n) s = .next (advance s n) := by
  show execNop n s = _
  rw [execNop, h]; rfl

theorem exec_stationHalt {s : State} {n : Nat} (h : acts s n = true) :
    exec (.stationHalt n) s = .next (updStn (advance s n) n halted) := by
  show execStationHalt n s = _
  rw [execStationHalt, h]; rfl

/-- Settles O8: the four operations, each by the station that it leaves. -/
theorem branchesAndLoops : Obligations.BranchesAndLoops := by
  unfold Obligations.BranchesAndLoops
  intro s n h
  have hrun := run_of_acts h
  refine ⟨fun target ht => ⟨_, exec_br h target, (OnlyStation.advance s n).trans (.updStn _ n _), rfl, ?_⟩,
    fun lc rs last hlast hend => ⟨_, exec_loop h lc rs last,
      ((OnlyStation.seeX s n [rs]).trans (.advance _ n)).trans (.updStn _ n _), seeX_clus s n [rs], ?_⟩,
    fun k first rest hl hrest => ⟨_, exec_nop h, .advance s n, ?_⟩,
    ⟨_, exec_stationHalt h, (OnlyStation.advance s n).trans (.updStn _ n _), rfl, ?_⟩⟩
  · rw [stn_updStn_same, stn_advance]
    refine ⟨Nat.mod_eq_of_lt ht, rfl, hrun, rfl, rfl, fun hend => ?_⟩
    obtain ⟨hlc, hloops, -⟩ := passStride_of_noLoopEnds (cycOf s n) hend
    exact ⟨hlc, fun l => by simp [hloops]⟩
  · obtain ⟨hlc, hloops, hpc⟩ := passStride_of_noLoopEnds (cycOf s n) hend
    rw [stn_updStn_same, stn_advance, stn_seeX, cycOf_seeX]
    refine ⟨by simp, by simp, by simp [hrun], by simp [hlc], fun hc => ?_, fun hc => ?_⟩
    · rw [loopEntered_of_ne_zero _ _ _ _ _ _ hc]
      exact ⟨hpc, rfl, by rw [hloops]⟩
    · rw [hc, loopEntered_of_zero]
      exact ⟨rfl, rfl, by rw [hloops]⟩
  · rw [stn_advance, passStride, hl, loopEnd_front _ hrest]
    split
    · exact ⟨rfl, rfl, fun _ => ⟨rfl, rfl⟩, fun hc => absurd hc ‹_›⟩
    · exact ⟨rfl, rfl, fun hc => absurd hc ‹_›, fun _ => ⟨rfl, rfl⟩⟩
  · have hs : (stn (updStn (advance s n) n halted) n).run = .halted := by rw [stn_updStn_same]; rfl
    refine ⟨hs, ?_, ?_, acts_of_halted hs⟩ <;> rw [stn_updStn_same, stn_advance] <;> rfl

/-! ### Effects that land (06 R221, R239) -/

/-- A list of register results lands one by one. -/
theorem xreg_foldl_landEff_of_not_named {n q : Nat} (hq : q ≠ 0) {l : List Timed} (s : State)
    (hl : ∀ x ∈ l, ∃ r v, x.eff = .reg n r v) (hn : ∀ x ∈ l, ∀ v, x.eff ≠ .reg n q v) :
    xreg (l.foldl (fun s t => landEff s t.eff) s) n q = xreg s n q := by
  induction l generalizing s with
  | nil => rfl
  | cons x l ih =>
    obtain ⟨r, v, hx⟩ := hl x (by simp)
    have hne : q ≠ r := fun e => hn x (by simp) v (e ▸ hx)
    rw [List.foldl_cons, ih _ (fun y hy => hl y (by simp [hy])) (fun y hy => hn y (by simp [hy])), hx]
    simp [xreg, hq, landEff, Table.get_set_other _ _ _ _ _ hne]

theorem xreg_landEff_reg (s : State) (n : Nat) {r : Nat} (hr : r ≠ 0) (v : W64) :
    xreg (landEff s (.reg n r v)) n r = v := by
  simp [xreg, hr, landEff]

/-- What is due is taken from the effects on their way, which no scalar register shows. -/
theorem landDue_eq (s : State) (g : Nat) : ∃ f, landDue s g =
    ((clu s g).timed.filter (fun t => decide (t.due ≤ (clu s g).cyc))).foldl (fun s t => landEff s t.eff)
      (updClu s g f) := ⟨_, rfl⟩

/-- Settles O9: the effects before the last one that names the register, that one, and those after it. -/
theorem scalarEffectsLand : Obligations.ScalarEffectsLand := by
  unfold Obligations.ScalarEffectsLand
  intro s n r v l m e hdue he hall hlast hr
  obtain ⟨f, hland⟩ := landDue_eq s (cluOf n)
  have hdue' : (clu s (cluOf n)).timed.filter (fun t => decide (t.due ≤ (clu s (cluOf n)).cyc)) = l ++ e :: m := hdue
  rw [hland, hdue']
  refine ⟨?_, fun q hq hn => xreg_foldl_landEff_of_not_named hq _ hall hn⟩
  rw [List.foldl_append, List.foldl_cons,
    xreg_foldl_landEff_of_not_named hr _ (fun x hx => hall x (by simp [hx])) hlast, he]
  exact xreg_landEff_reg _ n hr v

end Sys2Proof.Machine
end

/-! ## Hurdles (06 R235 to R238; 08) -/
section
set_option Elab.async false
namespace Sys2Proof.Machine
open Sys2Proof

/-! ### The false-start detector -/

namespace OnlyDetector
variable {s t u : State}

theorem refl (s : State) : OnlyDetector s s := ⟨rfl, fun _ => rfl⟩

theorem trans (h : OnlyDetector s t) (k : OnlyDetector t u) : OnlyDetector s u := by
  obtain ⟨ht, hregs⟩ := h
  obtain ⟨hu, kregs⟩ := k
  have hcourse : debugCourse t = debugCourse s := by rw [ht]; rfl
  refine ⟨?_, fun hd => (kregs (hcourse.trans hd)).trans (hregs hd)⟩
  calc u = { t with regs := u.regs } := hu
    _ = { s with regs := u.regs } := by rw [ht]

theorem fsIf (s : State) (c : Bool) (n bit : Nat) : OnlyDetector s (fsIf s c n bit) :=
  ⟨fsIf_regs s c n bit, fun h => by rw [fsIf_off s c n bit h]⟩

theorem seeX (s : State) (n : Nat) (l : List Nat) : OnlyDetector s (seeX s n l) := fsIf s _ n 3

/-- The state differs in its registers alone. -/
theorem exists_regs (h : OnlyDetector s t) : ∃ r, t = { s with regs := r } := ⟨_, h.1⟩

/-- The detector looks at some of the registers that an operation reads, or at none. -/
theorem ite (c : Prop) [Decidable c] (h : OnlyDetector s t) (k : OnlyDetector s u) :
    OnlyDetector s (if c then t else u) := by
  split
  · exact h
  · exact k

end OnlyDetector

/-! ### WAIT and its comparison (08 R306) -/

theorem satisfied_iff (v t : W32) : satisfied v t = true ↔ (v.toNat + 2 ^ 32 - t.toNat) % 2 ^ 32 < 2 ^ 31 := by
  have ht := t.isLt
  have h : (v - t).toNat = (v.toNat + 2 ^ 32 - t.toNat) % 2 ^ 32 := by
    rw [BitVec.toNat_sub]
    congr 1
    omega
  simp [satisfied, h]

/-- Settles O22, on the numbers that the words stand for. -/
theorem waitWraps : Obligations.WaitWraps := by
  unfold Obligations.WaitWraps
  intro v t k hk
  have hv := v.isLt
  have ht := t.isLt
  refine ⟨?_, ?_, ?_⟩
  · rw [satisfied_iff, BitVec.toNat_add, BitVec.toNat_ofNat]
    omega
  · rw [← Bool.not_eq_true, satisfied_iff, BitVec.toNat_sub, BitVec.toNat_ofNat]
    omega
  · by_cases h : v = t + BitVec.ofNat 32 (2 ^ 31)
    · exact .inr (.inr h)
    · have hne : v.toNat ≠ (t.toNat + 2 ^ 31) % 2 ^ 32 := by
        refine fun e => h (BitVec.eq_of_toNat_eq ?_)
        rw [BitVec.toNat_add]
        exact e
      rw [satisfied_iff, satisfied_iff]
      omega

/-! ### The eclipse pool (08 R319 to R321) -/

theorem exec_borrowGrant (g : Nat) (s : State) : exec (.borrowGrant g) s = execBorrowGrant g s := rfl

theorem exec_borrowWindowEnd (g n : Nat) (s : State) : exec (.borrowWindowEnd g n) s = execBorrowWindowEnd g n s := rfl

/-- What a lender of `l` can still give is at most what the pool has left of `l`. -/
theorem sum_drawTokens (s : State) (c : Cluster) (l : List Nat) (k : Nat)
    (h : k ≤ (l.map fun n => (stn s n).lent - lentOut c n).sum) : ((drawTokens s c k l).map (·.2)).sum = k := by
  induction l generalizing k with
  | nil => simpa [drawTokens, eq_comm] using h
  | cons n l ih =>
    simp only [List.map_cons, List.sum_cons] at h
    unfold drawTokens
    dsimp only
    split
    · rename_i ha
      exact ih k (by omega)
    · rw [List.map_cons, List.sum_cons, ih _ (by omega)]
      omega

theorem drawTokens_le_lent (s : State) (c : Cluster) (l : List Nat) (k : Nat) :
    ∀ d ∈ drawTokens s c k l, d.2 + lentOut c d.1 ≤ (stn s d.1).lent := by
  induction l generalizing k with
  | nil => simp [drawTokens]
  | cons n l ih =>
    unfold drawTokens
    dsimp only
    split
    · exact ih k
    · rename_i ha
      rintro d (_ | ⟨_, hd⟩)
      · dsimp only
        omega
      · exact ih _ d hd

theorem poolLeft_eq_sum (s : State) (g : Nat) :
    poolLeft s g = ((stationsOf s g).map fun n => (stn s n).lent - lentOut (clu s g) n).sum := by
  rw [poolLeft, List.sum_eq_foldl, List.foldl_map]

theorem updClu_loans (s : State) (g h : Nat) {f : Cluster → Cluster} (hf : ∀ c, (f c).loans = c.loans) :
    (clu (updClu s g f) h).loans = (clu s h).loans := by
  by_cases e : h = g
  · rw [e, clu_updClu_same, hf]
  · rw [clu_updClu_other _ _ _ _ e]

theorem leaveEclipse_loans (s : State) (g h : Nat) : (clu (leaveEclipse s g) h).loans = (clu s h).loans := by
  have hlow := updClu_loans s g h (f := fun c => { c with eclipsed := false, lowered := false }) fun _ => rfl
  unfold leaveEclipse
  dsimp only
  split
  · rw [retarget, updClu_loans, hlow]
    exact fun _ => rfl
  · exact hlow

theorem resume_loans (s : State) (m h : Nat) : (clu (resume s m) h).loans = (clu s h).loans := by
  unfold resume
  split
  · rw [leaveEclipse_loans]; rfl
  · rfl

theorem foldl_resume_loans (l : List Nat) (s : State) (h : Nat) :
    (clu (l.foldl (fun s m => if (stn s m).run = .waiting && (stn s m).released then resume s m else s) s) h).loans =
      (clu s h).loans := by
  induction l generalizing s with
  | nil => rfl
  | cons m l ih =>
    rw [List.foldl_cons, ih]
    split
    · exact resume_loans s m h
    · rfl

theorem foldl_resume_of_none {l : List Nat} {s : State}
    (h : l.all (fun m => !((stn s m).run = .waiting && (stn s m).released)) = true) :
    l.foldl (fun s m => if (stn s m).run = .waiting && (stn s m).released then resume s m else s) s = s := by
  induction l with
  | nil => rfl
  | cons m l ih =>
    rw [List.all_cons, Bool.and_eq_true, Bool.not_eq_true'] at h
    rw [List.foldl_cons, h.1]
    exact ih h.2

/-- Settles O23: the first waiting BORROW, a window that ends, and what is drawn on the lenders. -/
theorem borrowsAndLoans : Obligations.BorrowsAndLoans := by
  unfold Obligations.BorrowsAndLoans
  refine ⟨fun s g => ⟨fun at' n k len rest hq => ⟨fun hk => ?_, fun hk => ?_⟩, fun n l hl hn hend => ?_⟩,
    fun s g k hk => ⟨sum_drawTokens s _ _ k (poolLeft_eq_sum s g ▸ hk), drawTokens_le_lent s _ _ k⟩⟩
  · have hstep : exec (.borrowGrant g) s = .next (updStn (updClu s g (fun c => { c with
        borrowQ := rest
        loans := c.loans ++ [⟨n, k, (clu s g).cyc + 1 + len, drawTokens s (clu s g) k (stationsOf s g)⟩] })) n
        (fun st => { st with run := .issuing, released := true, pend := none })) := by
      rw [exec_borrowGrant, execBorrowGrant]
      simp only [hq]
      rw [if_neg (Nat.not_lt.2 hk)]
    refine ⟨_, hstep, rfl, by rw [stn_updStn_same]; rfl, fun m hm => by rw [stn_updStn_other _ _ _ _ hm]; rfl,
      fun h hh => ?_, ?_⟩
    · rw [clu_updStn, clu_updClu_other _ _ _ _ hh]
    · rw [clu_updStn, clu_updClu_same]
  · rw [exec_borrowGrant, execBorrowGrant]
    simp only [hq]
    rw [if_pos hk]
  · have hany : (clu s g).loans.any (fun l => l.station = n && decide (l.endCyc ≤ (clu s g).cyc)) = true :=
      List.any_eq_true.2 ⟨l, hl, by simp [hn, hend]⟩
    refine ⟨_, by rw [exec_borrowWindowEnd, execBorrowWindowEnd]; exact if_pos hany, fun x hx => ?_, fun hall => ?_⟩
    · rw [foldl_resume_loans, clu_updClu_same] at hx
      have hx' := (List.mem_filter.1 hx).2
      simp only [Bool.not_eq_true', Bool.and_eq_false_iff, decide_eq_false_iff_not, not_le] at hx'
      exact hx'
    · exact foldl_resume_of_none hall

/-! ### The operations of the hurdle slot -/

theorem hurdleGate_of_acts {n : Nat} {s : State} (h : acts s n = true) (hh : (stn s n).haltNext = false)
    (f : State → Out) : hurdleGate n s f = f s := by
  rw [hurdleGate, h, hh]; rfl

theorem hurdleGate_of_haltNext {n : Nat} {s : State} (h : acts s n = true) (hh : (stn s n).haltNext = true)
    (f : State → Out) : hurdleGate n s f = .next (updStn s n halted) := by
  rw [hurdleGate, h, hh]; rfl

theorem exec_arrive (n : Nat) (scope : Scope) (i rs : Nat) (one : Bool) (s : State) :
    exec (.arrive n scope i rs one) s = execArrive n scope i rs one s := rfl

theorem exec_wait (n : Nat) (scope : Scope) (i rs : Nat) (long : Bool) (s : State) :
    exec (.wait n scope i rs long) s = execWait n scope i rs long s := rfl

theorem exec_signal (n ra rs : Nat) (one : Bool) (s : State) :
    exec (.signal n ra rs one) s = execSignal n ra rs one s := rfl

theorem exec_borrow (n tokens len : Nat) (s : State) : exec (.borrow n tokens len) s = execBorrow n tokens len s := rfl

theorem sendAdd_of_ne_zero (s : State) (node : Nat) (c : Ctr) {v : W32} (h : v ≠ 0) (due : Option (Nat × Nat)) :
    sendAdd s node c v due = { s with
      adds := s.adds ++ [{ c := c, n := v, node := node, top := meet node c, due := due }] } := if_neg h

/-- The cycle from which a counted ARRIVE counts (06 R237). -/
def arriveDue (s : State) (n : Nat) : Scope → Option (Nat × Nat)
  | .core => some (cluOf n, cycOf s n + 3)
  | .cluster => some (cluOf n, cycOf s n + 12)
  | _ => none

/-- An ARRIVE that adds something: the detector, the mark of a landing counter, and the add. -/
theorem arrive_of_acts {s : State} {n : Nat} (h : acts s n = true) (hh : (stn s n).haltNext = false)
    (scope : Scope) (i rs : Nat) (one : Bool) {v : W32} (hv : v = if one then 1 else (xreg s n rs).setWidth 32)
    (h0 : v ≠ 0) : ∃ u, OnlyDetector s u ∧ exec (.arrive n scope i rs one) s = .next
      { (if scope = .core ∧ 56 ≤ i then updStn u n (fun t => { t with misused := t.misused.set i true }) else u) with
        adds := s.adds ++ [{ c := ctrOf n scope i, n := v, node := cluOf n, top := meet (cluOf n) (ctrOf n scope i)
                             due := arriveDue s n scope }] } := by
  have hread : OnlyDetector s (if one then s else seeX s n [rs]) := .ite _ (.refl s) (.seeX s n [rs])
  rw [exec_arrive, execArrive, hurdleGate_of_acts h hh]
  dsimp only
  rw [← hv, sendAdd_of_ne_zero _ _ _ h0]
  generalize (if one then s else seeX s n [rs]) = u at hread
  by_cases hl : scope = .core ∧ 56 ≤ i
  · have hu := hread.trans (.fsIf u true n 4)
    refine ⟨_, hu, ?_⟩
    have hadds : (fsFail u n 4).adds = s.adds := by
      have := congrArg State.adds hu.1
      exact this
    have hcyc : cycOf (fsFail u n 4) n = cycOf s n := by
      rw [show fsFail u n 4 = _ from hu.1]; rfl
    rw [if_pos hl, if_pos (by simpa using hl)]
    obtain ⟨rfl, -⟩ := hl
    simp only [updStn_adds, cycOf_updStn, hadds, hcyc]
    rfl
  · refine ⟨u, hread, ?_⟩
    rw [if_neg hl, if_neg (by simpa using hl)]
    rw [hread.1]
    cases scope <;> rfl

/-- What a WAIT makes of a state whose counter does not let it pass. -/
def waiting (s : State) (n : Nat) (c : Ctr) (t : W32) (long : Bool) : State :=
  register (updStn s n (fun st => { st with run := .waiting, released := false, pend := some (.wait c t long) }))
    (.station n) c

/-- A WAIT looks at its register and at the misuse of its counter, and then passes or waits. -/
theorem wait_of_acts {s : State} {n : Nat} (h : acts s n = true) (hh : (stn s n).haltNext = false)
    (scope : Scope) (i rs : Nat) (long : Bool) : ∃ u, OnlyDetector s u ∧ exec (.wait n scope i rs long) s = .next
      (if satisfied (ctrVal s (ctrOf n scope i)) ((xreg s n rs).setWidth 32) &&
          !cutOff s (.station n) (ctrOf n scope i) then u
        else waiting u n (ctrOf n scope i) ((xreg s n rs).setWidth 32) long) := by
  have hu : OnlyDetector s (fsIf (seeX s n [rs])
      (decide (scope = .core) && (stn (seeX s n [rs]) n).misused.get false i) n 4) :=
    (OnlyDetector.seeX s n [rs]).trans (.fsIf _ _ n 4)
  refine ⟨_, hu, ?_⟩
  rw [exec_wait, execWait, hurdleGate_of_acts h hh]
  dsimp only
  obtain ⟨r, hr⟩ := hu.exists_regs
  have hreg : xreg { s with regs := r } n rs = xreg s n rs := rfl
  have hval : ctrVal { s with regs := r } (ctrOf n scope i) = ctrVal s (ctrOf n scope i) := by
    cases ctrOf n scope i <;> rfl
  rw [hr, hreg, hval]
  exact (apply_ite Host.Outcome.next _ _ _).symm

section
variable (s : State) (n : Nat) (c : Ctr) (t : W32) (long : Bool)

theorem register_parts (w : Waiter) :
    register s w c = { s with waiters := (register s w c).waiters, seen := (register s w c).seen } := by
  unfold register
  split <;> rfl

theorem stn_register (w : Waiter) (m : Nat) : stn (register s w c) m = stn s m := by
  rw [register_parts]; rfl

theorem stn_waiting_same : stn (waiting s n c t long) n =
    { stn s n with run := .waiting, released := false, pend := some (.wait c t long) } := by
  rw [waiting, stn_register, stn_updStn_same]

theorem stn_waiting_other {m : Nat} (h : m ≠ n) : stn (waiting s n c t long) m = stn s m := by
  rw [waiting, stn_register, stn_updStn_other _ _ _ _ h]

theorem waiting_adds : (waiting s n c t long).adds = s.adds := by
  rw [waiting, register_parts]; rfl

theorem waiting_mem : (waiting s n c t long).mem = s.mem := by
  rw [waiting, register_parts]; rfl

/-- The hops between a waiter and its counter look at no station. -/
theorem cutOff_updStn (f : Station → Station) (w : Waiter) : cutOff (updStn s n f) w c = cutOff s w c := rfl

variable {s n c}

/-- A waiter of a die or module counter registers where no stopped hop cuts it off, and sees the counter at once. -/
theorem waiting_registers (h : registers c = true) (hc : cutOff s (.station n) c = false) :
    (waiting s n c t long).waiters = s.waiters ++ [(.station n, c)] ∧
      seenVal (waiting s n c t long) (.station n) c = ctrVal s c := by
  rw [waiting, register, cutOff_updStn, h, hc]
  refine ⟨rfl, ?_⟩
  simp only [seenVal, h, Bool.not_false, Bool.and_self, if_true, List.find?_cons, decide_true]
  cases c <;> rfl

theorem waiting_does_not_register (h : registers c = false ∨ cutOff s (.station n) c = true) :
    (waiting s n c t long).waiters = s.waiters := by
  have hc : (registers c && !cutOff s (.station n) c) = false := by
    rcases h with h | h <;> simp [h]
  rw [waiting, register, cutOff_updStn, hc]
  rfl

end

theorem bits_lt (v hi lo : Nat) : bits v hi lo < 2 ^ (hi + 1 - lo) := Nat.mod_lt _ (Nat.two_pow_pos _)

/-- The index of a core counter that a hurdle address names (08 R303). -/
theorem addrCtr_core_lt {a m i : Nat} (h : addrCtr a = .core m i) : i < 64 := by
  unfold addrCtr at h
  split at h <;> cases h
  exact bits_lt a 5 0

/-- A SIGNAL looks at its registers; an address that is bad halts its station at the next hurdle, and else the add
leaves, after a landing counter of this module has been marked. -/
theorem signal_of_acts {s : State} {n : Nat} (h : acts s n = true) (hh : (stn s n).haltNext = false)
    (ra rs : Nat) (one : Bool) {A : Nat} (hA : A = (xreg s n ra).toNat % 2 ^ 32) {v : W32}
    (hv : v = if one then 1 else (xreg s n rs).setWidth 32) :
    (addrBad s A = true → ∃ u, OnlyDetector s u ∧ exec (.signal n ra rs one) s =
      .next (errHalt (raise (hurErr u (dieOf n) 1 (n % 96) false) 0x0302 (dieOf n) (n % 96) none) n 0x0302)) ∧
    (addrBad s A = false → ∃ u, OnlyDetector s u ∧ exec (.signal n ra rs one) s =
      .next (signalTo (if addrModule s A = s.moduleId then markLanding u (addrCtr A) else u) (cluOf n) A v)) := by
  have hu := OnlyDetector.seeX s n (if one then [ra] else [ra, rs])
  rw [exec_signal, execSignal, hurdleGate_of_acts h hh]
  dsimp only
  rw [← hA, ← hv]
  generalize seeX s n (if one then [ra] else [ra, rs]) = u at hu
  have hbad : addrBad u A = addrBad s A := by
    obtain ⟨r, rfl⟩ := hu.exists_regs; rfl
  rw [hbad]
  constructor
  · intro hb
    exact ⟨u, hu, by rw [hb]; rfl⟩
  · intro hb
    rw [hb]
    have hm : ∀ c, (addrModule (fsIf u c n 4) A = (fsIf u c n 4).moduleId) = (addrModule s A = s.moduleId) := by
      intro c
      obtain ⟨r, hr⟩ := (hu.trans (.fsIf u c n 4)).exists_regs
      rw [hr]; rfl
    simp only [hm]
    exact ⟨_, hu.trans (.fsIf u _ n 4), rfl⟩

theorem stn_markLanding_of_not_landing {s : State} {c : Ctr} {m : Nat} (h : ∀ i, c = .core m i → i < 56) :
    stn (markLanding s c) m = stn s m := by
  unfold markLanding
  split
  · rename_i k i
    split
    · rename_i hi
      refine stn_updStn_other s k m _ fun e => ?_
      have := h i (by rw [e])
      simp at hi
      omega
    · rfl
  · rfl

theorem stn_markLanding_same (s : State) {m i : Nat} (h : 56 ≤ i) (hi : i < 64) :
    stn (markLanding s (.core m i)) m = { stn s m with misused := (stn s m).misused.set i true } := by
  rw [markLanding, if_pos (by simp [h, hi]), stn_updStn_same]

theorem markLanding_parts (s : State) (c : Ctr) : markLanding s c = { s with stns := (markLanding s c).stns } := by
  unfold markLanding
  split
  · split <;> rfl
  · rfl

/-- A SIGNAL to a counter of this module. -/
theorem signalTo_own {s : State} {a : Nat} (hm : addrModule s a = s.moduleId) (node : Nat) (v : W32) :
    signalTo s node a v = sendAdd s node (addrCtr a) v none := if_pos hm

/-- A SIGNAL to another module, along the route table. -/
theorem signalTo_other {s : State} {a p : Nat} (hm : addrModule s a ≠ s.moduleId)
    (hp : routeOf s (addrModule s a) = some p) (node : Nat) {v : W32} (hv : v ≠ 0) :
    signalTo s node a v = queueHur s p { address := a % 2 ^ 28, value := v.toNat, job := jobNo s
                                         run := s.runNo % 65536, kind := 1 } := by
  unfold signalTo
  dsimp only
  rw [if_neg hm, if_neg hv, hp]

theorem mem_addBorrow (e : Nat × Nat × Nat × Nat) (l : List (Nat × Nat × Nat × Nat)) : e ∈ addBorrow e l := by
  induction l with
  | nil => simp [addBorrow]
  | cons x l ih =>
    unfold addBorrow
    split
    · exact List.mem_cons_of_mem _ ih
    · simp

/-- A station that is to halt at its next hurdle halts at any of the four. -/
theorem hurdle_of_haltNext {s : State} {n : Nat} (h : acts s n = true) (hh : (stn s n).haltNext = true) :
    (∀ scope i rs one, exec (.arrive n scope i rs one) s = .next (updStn s n halted)) ∧
    (∀ scope i rs long, exec (.wait n scope i rs long) s = .next (updStn s n halted)) ∧
    (∀ ra rs one, exec (.signal n ra rs one) s = .next (updStn s n halted)) ∧
    (∀ tokens len, exec (.borrow n tokens len) s = .next (updStn s n halted)) := by
  refine ⟨fun _ _ _ _ => ?_, fun _ _ _ _ => ?_, fun _ _ _ => ?_, fun _ _ => ?_⟩
  · rw [exec_arrive, execArrive, hurdleGate_of_haltNext h hh]
  · rw [exec_wait, execWait, hurdleGate_of_haltNext h hh]
  · rw [exec_signal, execSignal, hurdleGate_of_haltNext h hh]
  · rw [exec_borrow, execBorrow, hurdleGate_of_haltNext h hh]

/-- A SIGNAL to a counter of this module leaves an add, and marks a landing counter. -/
theorem signal_own {s : State} {n : Nat} (h : acts s n = true) (hh : (stn s n).haltNext = false) (ra rs : Nat)
    (one : Bool) {A : Nat} (hA : A = (xreg s n ra).toNat % 2 ^ 32) {v : W32}
    (hv : v = if one then 1 else (xreg s n rs).setWidth 32) (h0 : v ≠ 0) (hb : addrBad s A = false)
    (hm : addrModule s A = s.moduleId) :
    ∃ t, exec (.signal n ra rs one) s = .next t ∧ t = { s with stns := t.stns, adds := t.adds, regs := t.regs } ∧
      (∀ m, (∀ i, addrCtr A = .core m i → i < 56) → stn t m = stn s m) ∧
      (∀ m i, addrCtr A = .core m i → 56 ≤ i →
        stn t m = { stn s m with misused := (stn s m).misused.set i true }) ∧
      t.adds = s.adds ++ [{ c := addrCtr A, n := v, node := cluOf n, top := meet (cluOf n) (addrCtr A) }] := by
  obtain ⟨u, hu, hexec⟩ := (signal_of_acts h hh ra rs one hA hv).2 hb
  rw [if_pos hm] at hexec
  obtain ⟨r, rfl⟩ := hu.exists_regs
  have hparts := markLanding_parts { s with regs := r } (addrCtr A)
  have hm' : addrModule (markLanding { s with regs := r } (addrCtr A)) A =
      (markLanding { s with regs := r } (addrCtr A)).moduleId := by
    rw [hparts]; exact hm
  rw [signalTo_own hm', sendAdd_of_ne_zero _ _ _ h0] at hexec
  refine ⟨_, hexec, ?_, fun m hi => ?_, fun m i hc hi => ?_, ?_⟩
  · rw [hparts]
  · exact stn_markLanding_of_not_landing (s := { s with regs := r }) hi
  · rw [hc]
    exact stn_markLanding_same { s with regs := r } hi (addrCtr_core_lt hc)
  · rw [hparts]

/-- Settles O21, one operation after the other. -/
theorem hurdleOperations : Obligations.HurdleOperations := by
  unfold Obligations.HurdleOperations
  refine ⟨fun s n h hh => ⟨fun scope i rs one v hv h0 => ?_, fun scope i rs long hsat hcut => ?_,
    fun scope i rs long hno => ?_, fun ra rs one A v hA hv h0 => ⟨fun hb hm => signal_own h hh ra rs one hA hv h0 hb hm,
      fun p hb hm hp => ?_, (signal_of_acts h hh ra rs one hA hv).1⟩, fun tokens len => ?_⟩,
    fun s n h hh => hurdle_of_haltNext h hh⟩
  · obtain ⟨u, hu, hexec⟩ := arrive_of_acts h hh scope i rs one hv h0
    exact ⟨u, hu, by rw [hexec]; cases scope <;> rfl⟩
  · obtain ⟨u, hu, hexec⟩ := wait_of_acts h hh scope i rs long
    exact ⟨u, hu, by rw [hexec, hsat, hcut]; rfl⟩
  · obtain ⟨u, hu, hexec⟩ := wait_of_acts h hh scope i rs long
    have hpass : (satisfied (ctrVal s (ctrOf n scope i)) ((xreg s n rs).setWidth 32) &&
        !cutOff s (.station n) (ctrOf n scope i)) = false := by
      rcases hno with hno | hno <;> simp [hno]
    rw [hpass, if_neg Bool.false_ne_true] at hexec
    obtain ⟨r, rfl⟩ := hu.exists_regs
    refine ⟨_, hexec, stn_waiting_same _ n _ _ long, fun m hm => stn_waiting_other _ n _ _ long hm,
      fun hr hc => ?_, fun hr => waiting_does_not_register _ long hr, waiting_adds _ n _ _ long, fun a => ?_⟩
    · obtain ⟨hw, hseen⟩ := waiting_registers (s := { s with regs := r }) ((xreg s n rs).setWidth 32) long hr hc
      exact ⟨hw, hseen.trans (by cases ctrOf n scope i <;> rfl)⟩
    · rw [waiting_mem]
  · obtain ⟨u, hu, hexec⟩ := (signal_of_acts h hh ra rs one hA hv).2 hb
    refine ⟨u, hu, ?_⟩
    obtain ⟨r, rfl⟩ := hu.exists_regs
    rw [hexec, if_neg hm, signalTo_other (s := { s with regs := r }) hm hp _ h0]
    rfl
  · refine ⟨_, (exec_borrow n tokens len s).trans (hurdleGate_of_acts h hh _), rfl, ?_, fun m hm => ?_,
      fun g hg => ?_, ?_⟩
    · rw [stn_updClu, stn_updStn_same]
    · rw [stn_updClu, stn_updStn_other _ _ _ _ hm]
    · rw [clu_updClu_other _ _ _ _ hg, clu_updStn]
    · rw [clu_updClu_same]
      exact mem_addBorrow _ _

/-! ### Eclipse headroom and the token ceiling (06 R244; 08 R319, R322) -/

/-- A cluster whose grant may have risen, up to 2,100 MHz, and that is else as before. -/
def GrantRaised (c d : Cluster) : Prop := ∃ k, c.grant ≤ k ∧ k ≤ max c.grant 2100 ∧ d = { c with grant := k }

namespace GrantRaised

theorem refl (c : Cluster) : GrantRaised c c := ⟨c.grant, le_refl _, le_max_left _ _, rfl⟩

theorem trans {c d e : Cluster} (h : GrantRaised c d) (k : GrantRaised d e) : GrantRaised c e := by
  obtain ⟨m, hle, hmax, rfl⟩ := h
  obtain ⟨k, kle, kmax, rfl⟩ := k
  refine ⟨k, hle.trans kle, ?_, rfl⟩
  dsimp only at kle kmax
  omega

theorem raise (c : Cluster) (n : Nat) :
    GrantRaised c { c with grant := max c.grant (min 2100 (c.grant + n)) } :=
  ⟨_, by omega, by omega, rfl⟩

end GrantRaised

/-- The grants of listed clusters rise by free amounts. -/
theorem foldl_raise_grants (d : Nat) (l : List Nat) (s : State) :
    let t := l.foldl (fun s h => updClu s h (fun c =>
      { c with grant := max c.grant (min 2100 (c.grant + (Config.freeCell d h).toNat)) })) s
    t = { s with clus := t.clus } ∧ (∀ h, GrantRaised (clu s h) (clu t h)) ∧ (∀ h, h ∉ l → clu t h = clu s h) := by
  induction l generalizing s with
  | nil => exact ⟨rfl, fun h => .refl _, fun h _ => rfl⟩
  | cons x l ih =>
    obtain ⟨hparts, hgrant, hother⟩ := ih (updClu s x (fun c =>
      { c with grant := max c.grant (min 2100 (c.grant + (Config.freeCell d x).toNat)) }))
    rw [List.foldl_cons]
    refine ⟨hparts, fun h => GrantRaised.trans ?_ (hgrant h), fun h hh => ?_⟩
    · by_cases e : h = x
      · subst e
        rw [clu_updClu_same]
        exact .raise _ _
      · rw [clu_updClu_other _ _ _ _ e]
        exact .refl _
    · rw [List.mem_cons, not_or] at hh
      rw [hother h hh.2, clu_updClu_other _ _ _ _ hh.1]

theorem mem_working {s : State} {h : Nat} (hh : h ∈ working s) : live s h = true := (List.mem_filter.1 hh).2

/-- Headroom: the clusters and a draw, and of the clusters the grants of the die's other working ones. -/
theorem giveHeadroom_parts (s : State) (g : Nat) :
    giveHeadroom s g = { s with clus := (giveHeadroom s g).clus, freeCtr := (giveHeadroom s g).freeCtr } ∧
    (∀ h, GrantRaised (clu s h) (clu (giveHeadroom s g) h)) ∧
    (∀ h, h = g ∨ h / 12 ≠ g / 12 ∨ live s h = false ∨ inEclipse s h = true ∨ effCap s < s.power.watts →
      clu (giveHeadroom s g) h = clu s h) := by
  unfold giveHeadroom
  split
  · exact ⟨rfl, fun h => .refl _, fun h _ => rfl⟩
  · rename_i hcap
    dsimp only
    obtain ⟨hparts, hgrant, hother⟩ := foldl_raise_grants (draw s).2
      ((working s).filter (fun h => h / 12 = g / 12 && h ≠ g && !inEclipse s h)) (draw s).1
    refine ⟨by rw [hparts]; rfl, hgrant, fun h hh => hother h fun hm => ?_⟩
    obtain ⟨hwork, hsel⟩ := List.mem_filter.1 hm
    have hlive := mem_working hwork
    simp only [Bool.and_eq_true, decide_eq_true_eq, Bool.not_eq_true'] at hsel
    obtain ⟨⟨hdie, hne⟩, hecl⟩ := hsel
    rcases hh with hh | hh | hh | hh | hh
    · exact hne hh
    · exact hh hdie
    · rw [hlive] at hh; cases hh
    · rw [hecl] at hh; cases hh
    · exact hcap hh

/-- A region whose clock is lowered has 600 MHz as its limit. -/
theorem pacerLimit_of_lowered {s : State} {g : Nat} (h : (clu s g).lowered = true) : pacerLimit s g = 600 := by
  unfold pacerLimit
  simp only [h, if_true]
  omega

theorem exec_eclipseEnter (n : Nat) (s : State) : exec (.eclipseEnter n) s = execEclipseEnter n s := rfl

theorem exec_hurEclipseHeadroom (g : Nat) (s : State) : exec (.hurEclipseHeadroom g) s = execHurEclipseHeadroom g s :=
  rfl

theorem exec_pwrTokenOver (g : Nat) (s : State) : exec (.pwrTokenOver g) s = execPwrTokenOver g s := rfl

/-- A cluster that has been in eclipse for 100 µs: its clock is lowered, and others on its die get headroom. -/
theorem hurEclipseHeadroom_lowers {s : State} {g : Nat} (he : inEclipse s g = true) (hl : (clu s g).lowered = false) :
    ∃ t, exec (.hurEclipseHeadroom g) s = .next t ∧
      t = { s with clus := t.clus, evs := t.evs, evTotal := t.evTotal, freeCtr := t.freeCtr } ∧
      t.evs = s.evs ++ [evNow s 0x0306 (g / 12) (g % 12) none] ∧ (clu t g).lowered = true ∧
      (clu t g).target = 600 ∧
      (∀ h, h ≠ g → ∃ k, (clu s h).grant ≤ k ∧ k ≤ max (clu s h).grant 2100 ∧ clu t h = { clu s h with grant := k } ∧
        (h / 12 ≠ g / 12 ∨ live s h = false ∨ inEclipse s h = true ∨ effCap s < s.power.watts →
          k = (clu s h).grant)) := by
  obtain ⟨hparts, hgrant, hother⟩ := giveHeadroom_parts s g
  have hstep : exec (.hurEclipseHeadroom g) s = .next (retarget (updClu (raise (giveHeadroom s g) 0x0306 (g / 12)
      (g % 12) none) g (fun c => { c with eclipsed := true, lowered := true })) g) := by
    rw [exec_hurEclipseHeadroom, execHurEclipseHeadroom, he, hl]; rfl
  refine ⟨_, hstep, ?_, ?_, ?_, ?_, fun h hh => ?_⟩
  · rw [hparts]; rfl
  · rw [hparts]; rfl
  · rw [retarget, clu_updClu_same, clu_updClu_same]
  · rw [retarget, clu_updClu_same]
    exact pacerLimit_of_lowered (by rw [clu_updClu_same])
  · obtain ⟨k, hle, hmax, hk⟩ := hgrant h
    refine ⟨k, hle, hmax, ?_, fun hc => ?_⟩
    · rw [retarget, clu_updClu_other _ _ _ _ hh, clu_updClu_other _ _ _ _ hh]
      exact hk
    · have := congrArg Cluster.grant (hk.symm.trans (hother h (.inr hc)))
      exact this

theorem bits_setBits_same (v lo w x : Nat) : bits (setBits v (lo + w) lo x) (lo + w) lo = x % 2 ^ (w + 1) := by
  have hw : lo + w + 1 - lo = w + 1 := by omega
  rw [setBits_eq, bits, hw, Nat.add_comm, Nat.add_mul_div_left _ _ (Nat.two_pow_pos lo),
    Nat.div_eq_of_lt (Nat.mod_lt _ (Nat.two_pow_pos lo)), Nat.zero_add, Nat.mul_add_mod, Nat.mod_mod]

/-- A register of 64 bits holds a field below bit 64 whole. -/
theorem bits_mod_two_pow (v lo : Nat) {n hi : Nat} (h : hi < n) : bits (v % 2 ^ n) hi lo = bits v hi lo := by
  refine Nat.eq_of_testBit_eq fun i => ?_
  simp only [bits, Nat.testBit_mod_two_pow, Nat.testBit_div_two_pow]
  by_cases hi' : i < hi + 1 - lo
  · simp [hi', show i + lo < n by omega]
  · simp [hi']

/-- A counter in the upper half of a register, raised by 1. -/
theorem bits_reg_bump_upper (s : State) (k : Nat) :
    bits (reg (bump s k 32 32 1) k) 63 32 = min (2 ^ 32 - 1) (bits (reg s k) 63 32 + 1) := by
  have hfield := bits_setBits_same (reg s k) 32 31 (min (2 ^ 32 - 1) (bits (reg s k) 63 32 + 1))
  rw [Nat.mod_eq_of_lt (by omega)] at hfield
  rw [bump, reg_setReg_same, bits_mod_two_pow _ _ (by omega)]
  exact hfield

theorem reg_bump_other (s : State) {k j : Nat} (lo w n : Nat) (h : j ≠ k) : reg (bump s k lo w n) j = reg s j :=
  reg_setReg_other s k j _ h

theorem reg_latch_other (s : State) {k j : Nat} (top bit : Nat) (l : List (Nat × Nat × Nat)) (h : j ≠ k) :
    reg (latch s k top bit l) j = reg s j := reg_setReg_other s k j _ h

/-- The detector writes its own three registers of the station's die (06 R253). -/
theorem reg_fsFailAt_other (s : State) (n pc bit : Nat) {j : Nat} (h0 : j ≠ regKey (dieOf n) 0x300)
    (h1 : j ≠ regKey (dieOf n) 0x308) (h2 : j ≠ regKey (dieOf n) 0x310) : reg (fsFailAt s n pc bit) j = reg s j := by
  unfold fsFailAt
  split
  · dsimp only
    rw [reg_bump_other _ _ _ _ h2, reg_latch_other _ _ _ _ h0]
    split
    · exact reg_setReg_other s _ j _ h1
    · rfl
  · rfl

/-- The windows of the register region lie apart (01 R40). -/
theorem regKey_ne {w w' o o' : Nat} (ho : o < 4194304) (ho' : o' < 4194304) (h : o ≠ o') : regKey w o ≠ regKey w' o' := by
  unfold regKey
  omega

/-- A cycle over the ceiling: the hold, the count and the event; the detector's share is its own registers. -/
theorem tokenOver_parts {s : State} {g : Nat} (h : ceiling s g < (clu s g).tok) :
    tokenOver s g = { s with
      clus := s.clus.upd {} g (fun c => { c with hold := max c.hold 1 }), regs := (tokenOver s g).regs
      evs := s.evs ++ [evNow s 0x0920 (g / 12) (g % 12) none], evTotal := s.evTotal + 1 } := by
  unfold tokenOver
  rw [if_neg (Nat.not_le.2 h)]
  dsimp only
  split
  · rw [fsFailAt_regs]; rfl
  · rfl

theorem bits_reg_tokenOver {s : State} {g : Nat} (h : ceiling s g < (clu s g).tok) :
    bits (reg (tokenOver s g) (regKey (g / 12) (0x200 + 8 * (g % 12)))) 63 32 =
      min (2 ^ 32 - 1) (bits (reg s (regKey (g / 12) (0x200 + 8 * (g % 12)))) 63 32 + 1) := by
  have hg := Nat.mod_lt g (show 0 < 12 by omega)
  unfold tokenOver
  rw [if_neg (Nat.not_le.2 h)]
  dsimp only
  split
  · rw [reg_fsFailAt_other, reg_raise, bits_reg_bump_upper, reg_updClu]
    all_goals exact regKey_ne (by omega) (by omega) (by omega)
  · rw [reg_raise, bits_reg_bump_upper, reg_updClu]

/-- Settles O24. -/
theorem eclipseAndCeiling : Obligations.EclipseAndCeiling := by
  unfold Obligations.EclipseAndCeiling
  refine fun s => ⟨fun n c t hrun hpend hrel hecl hidle => ?_, fun g he hl => hurEclipseHeadroom_lowers he hl,
    fun g he hl => ?_, fun g hlive hover => ?_, fun g hle => ?_⟩
  · rw [exec_eclipseEnter, execEclipseEnter, hrun, hpend]
    simp only [hrel, hecl, hidle]
    rfl
  · rw [exec_hurEclipseHeadroom, execHurEclipseHeadroom, he, hl]
    rfl
  · have hstep : exec (.pwrTokenOver g) s = .next (updClu (tokenOver s g) g (fun c => { c with tok := 0 })) := by
      rw [exec_pwrTokenOver, execPwrTokenOver, if_neg (by simp [hlive, hover])]
    have hparts := tokenOver_parts hover
    refine ⟨_, hstep, ?_, ?_, ?_, fun h hh => ?_, bits_reg_tokenOver hover⟩
    · rw [hparts]; rfl
    · rw [hparts]; rfl
    · rw [clu_updClu_same, hparts]
      show { clu (updClu s g fun c => { c with hold := max c.hold 1 }) g with tok := 0 } = _
      rw [clu_updClu_same]
    · rw [clu_updClu_other _ _ _ _ hh, hparts]
      exact clu_updClu_other s g h _ hh
  · rw [exec_pwrTokenOver, execPwrTokenOver, if_pos (by simp [hle])]

/-! ### Job hurdles and the signal net (08 R312 to R315, R332) -/

theorem exec_jobHurdleRootApply (i : Nat) (s : State) : exec (.jobHurdleRootApply i) s = execJobHurdleRootApply i s :=
  rfl

theorem exec_jobHurdleValueArrive (i : Nat) (s : State) :
    exec (.jobHurdleValueArrive i) s = execJobHurdleValueArrive i s := rfl

theorem exec_signalNetResend (node : Nat) (got : List Byte) (crc : Nat) (s : State) :
    exec (.signalNetResend node got crc) s = execSignalNetResend node got crc s := rfl

theorem exec_hurNetFail (node : Nat) (s : State) : exec (.hurNetFail node) s = execHurNetFail node s := rfl

/-- A new value of a job hurdle stands at a port, in place of an older one or behind the others. -/
theorem mem_mergeHur {m : HurMsg} (h : m.kind = 3) (l : List HurMsg) : m ∈ mergeHur m l := by
  induction l with
  | nil => simp [mergeHur]
  | cons x l ih =>
    unfold mergeHur
    split
    · exact List.mem_cons_self
    · exact List.mem_cons_of_mem _ ih

/-- A message sent to listed ports: only the ports differ, it stands at each of these, and the others are as before. -/
theorem foldl_queueHur {m : HurMsg} (hk : m.kind = 3) (l : List Nat) (s : State) :
    let t := l.foldl (fun s p => queueHur s p m) s
    t = { s with ports := t.ports } ∧ (∀ p, p ∈ l ∨ m ∈ (hport s p).hurQ → m ∈ (hport t p).hurQ) ∧
      (∀ p, p ∉ l → hport t p = hport s p) := by
  induction l generalizing s with
  | nil => exact ⟨rfl, fun p h => h.resolve_left List.not_mem_nil, fun p _ => rfl⟩
  | cons x l ih =>
    obtain ⟨hparts, hmem, hother⟩ := ih (queueHur s x m)
    have hx : m ∈ (hport (queueHur s x m) x).hurQ := by
      rw [queueHur, hport_updHPort_same]
      exact mem_mergeHur hk _
    refine ⟨hparts, fun p hp => hmem p ?_, fun p hp => ?_⟩
    · by_cases e : p = x
      · exact .inr (e ▸ hx)
      · rw [queueHur, hport_updHPort_other _ _ _ _ e]
        exact hp.imp_left fun hp => (List.mem_cons.1 hp).resolve_left e
    · rw [List.mem_cons, not_or] at hp
      exact (hother p hp.2).trans (hport_updHPort_other _ _ _ _ hp.1)

theorem hurMsg_queueHur (s : State) (p : Nat) (m : HurMsg) (i : Nat) (v : W32) (kind : Nat) :
    hurMsg (queueHur s p m) i v kind = hurMsg s i v kind := rfl

/-- The message does not change while it is queued at one port after the other. -/
theorem foldl_queueHur_hurMsg {i kind : Nat} {v : W32} {m : HurMsg} (l : List Nat) (s : State)
    (h : hurMsg s i v kind = m) : l.foldl (fun s p => queueHur s p (hurMsg s i v kind)) s =
      l.foldl (fun s p => queueHur s p m) s := by
  induction l generalizing s with
  | nil => rfl
  | cons p l ih =>
    simp only [List.foldl_cons, h]
    exact ih _ ((hurMsg_queueHur s p m i v kind).trans h)

/-- The root applies what has come in, and sends the new value to every child. -/
theorem jobHurdleRootApply_root {s : State} {i : Nat} (h : s.jobUp.get 0 i ≠ 0) (hr : isRoot s = true) :
    exec (.jobHurdleRootApply i) s = .next ((childPorts s).foldl
      (fun t p => queueHur t p (hurMsg s i (s.jobSum.get 0 i + s.jobUp.get 0 i) 3)) { s with
        jobUp := s.jobUp.drop i, jobSum := s.jobSum.set i (s.jobSum.get 0 i + s.jobUp.get 0 i)
        jobDown := s.jobDown ++ [(i, s.jobSum.get 0 i + s.jobUp.get 0 i)] }) := by
  have hr' : isRoot { s with jobUp := s.jobUp.drop i } = true := hr
  rw [exec_jobHurdleRootApply, execJobHurdleRootApply]
  dsimp only
  rw [if_neg h, if_pos hr']
  exact congrArg Host.Outcome.next (foldl_queueHur_hurMsg _ _ rfl)

theorem tellWaiters_valMsgs (s : State) (c : Ctr) (v : W32) : (tellWaiters s c v).valMsgs =
    s.valMsgs ++ (s.waiters.filter (fun w => w.2 = c)).map (fun w => (w.1, c, v)) := rfl

/-- A request of a test that is not waiting, with room for one more. -/
theorem requestTest_tests {s : State} {k i ev : Nat} (hany : s.tests.any (fun t => t.kind = k ∧ t.index = i) = false)
    (hlen : s.tests.length < 256) : (requestTest s k i ev).tests = s.tests ++ [⟨k, i, ev⟩] := by
  rw [requestTest, hany, if_neg Bool.false_ne_true, if_pos hlen]

theorem mem_evs_requestTest {s : State} {e : Ev} (k i ev : Nat) (h : e ∈ s.evs) : e ∈ (requestTest s k i ev).evs := by
  unfold requestTest
  split
  · exact h
  · split
    · exact h
    · exact List.mem_append_left _ h

/-- An error of a RUN that nothing stops yet begins a fault stop. -/
theorem wantStop_wanted {s : State} (hj : s.jobState = 3) (hw : s.stop.wanted = false) (hs : s.stop.stage = 0)
    (ev : Nat) : (wantStop s ev).stop.wanted = true ∧ (wantStop s ev).stop.event = ev ∧ (wantStop s ev).stepErr = true := by
  rw [wantStop, if_neg (by simp [hj])]
  simp [hw, hs]

/-- A hop of the signal net that has failed: it stops, its event is raised, its test is requested, and the RUN stops. -/
theorem hurNetFail_stops {s : State} {node : Nat} (hn : node < 105) (hs : s.netStopped.get false node = false)
    (hf : 8 ≤ s.hopFails.get 0 node) : exec (.hurNetFail node) s = .next (wantStop (requestTest (raise (hurErr
      { s with netStopped := s.netStopped.set node true, hopFails := s.hopFails.drop node } (nodeDie node) 2 0 false)
      0x0305 (nodeDie node) 0 (some node)) 7 node 0x0305) 0x0305) := by
  have hc : (decide (105 ≤ node) || s.netStopped.get false node || decide (s.hopFails.get 0 node < 8)) = false := by
    rw [hs, decide_eq_false (by omega), decide_eq_false (by omega)]
    rfl
  rw [exec_hurNetFail, execHurNetFail, hc, if_neg Bool.false_ne_true]

/-- Settles O26. -/
theorem jobHurdlesAndTheNet : Obligations.JobHurdlesAndTheNet := by
  unfold Obligations.JobHurdlesAndTheNet
  refine fun s => ⟨fun i h hr => ?_, fun i p h hr hp => ?_, fun i v hd => ?_,
    fun node got crc hn hs => ⟨fun hc => ?_, fun hc hf => ?_⟩, fun node hn hs hf => ?_⟩
  · obtain ⟨hparts, hmem, hother⟩ := foldl_queueHur (m := hurMsg s i (s.jobSum.get 0 i + s.jobUp.get 0 i) 3) rfl
      (childPorts s) { s with
        jobUp := s.jobUp.drop i, jobSum := s.jobSum.set i (s.jobSum.get 0 i + s.jobUp.get 0 i)
        jobDown := s.jobDown ++ [(i, s.jobSum.get 0 i + s.jobUp.get 0 i)] }
    refine ⟨_, jobHurdleRootApply_root h hr, ?_, ?_, ?_, fun p hp => hmem p (.inl hp), hother⟩
    · rw [hparts]; exact Table.get_drop_same 0 s.jobUp i
    · rw [hparts]
    · rw [hparts]
  · have hr' : isRoot { s with jobUp := s.jobUp.drop i } = false := hr
    have hp' : parentPort { s with jobUp := s.jobUp.drop i } = some p := hp
    rw [exec_jobHurdleRootApply, execJobHurdleRootApply]
    dsimp only
    rw [if_neg h, hr', if_neg Bool.false_ne_true, hp']
    rfl
  · have hstep : exec (.jobHurdleValueArrive i) s =
        .next (tellWaiters (setCtr { s with jobDown := s.jobDown.erase (i, v) } (.module i) v) (.module i) v) := by
      rw [exec_jobHurdleValueArrive, execJobHurdleValueArrive, hd]
    exact ⟨_, hstep, Table.get_set_same _ _ _ _, rfl, fun j hj => Table.get_set_other _ _ _ _ _ hj,
      tellWaiters_valMsgs _ _ _⟩
  · rw [exec_signalNetResend, execSignalNetResend, if_pos (by simp [hc])]
  · rw [exec_signalNetResend, execSignalNetResend, hs, if_neg (by simp [hc]; omega)]
    rfl
  · refine ⟨_, hurNetFail_stops hn hs hf, ?_, ?_, fun hlen hany => ?_, fun hj hw hst => ?_, ?_, fun a => ?_⟩
    · rw [wantStop_parts, requestTest_parts]; rfl
    · rw [wantStop_parts]
      exact mem_evs_requestTest 7 node 0x0305 (List.mem_append_right _ (List.mem_singleton.2 rfl))
    · rw [wantStop_parts]
      exact requestTest_tests hany hlen
    · refine wantStop_wanted ?_ ?_ ?_ 0x0305 <;> rw [requestTest_parts]
      · exact hj
      · exact hw
      · exact hst
    · rw [wantStop_parts, requestTest_parts]; rfl
    · rw [wantStop_parts, requestTest_parts]; rfl

end Sys2Proof.Machine
end

/-! ## Memory: clean codewords, reads after writes, and copies between memories -/
section
set_option Elab.async false
namespace Sys2Proof.Machine
open Sys2Proof

/-! ### Listed bytes put into a memory -/

/-- The last byte that a list of writes has for an address. -/
def lastAt (l : List (Nat × Byte)) (a : Nat) : Option Byte :=
  ((l.filter (fun e => e.1 = a)).getLast?).map (·.2)

@[simp] theorem lastAt_nil (a : Nat) : lastAt [] a = none := rfl

theorem lastAt_cons (e : Nat × Byte) (l : List (Nat × Byte)) (a : Nat) :
    lastAt (e :: l) a = if e.1 = a then some ((lastAt l a).getD e.2) else lastAt l a := by
  unfold lastAt
  by_cases h : e.1 = a
  · rw [List.filter_cons_of_pos (by simpa using h), List.getLast?_cons, if_pos h]
    cases (l.filter fun e => e.1 = a).getLast? <;> rfl
  · rw [List.filter_cons_of_neg (by simpa using h), if_neg h]

theorem memGet_memPut (m : Memory) (l : List (Nat × Byte)) (a : Nat) :
    memGet (memPut m l) a = (lastAt l a).getD (memGet m a) := by
  induction l generalizing m with
  | nil => rfl
  | cons e l ih =>
    rw [show memPut m (e :: l) = memPut (memSet m e.1 e.2) l from rfl, ih, lastAt_cons, memGet_memSet]
    by_cases h : e.1 = a
    · rw [if_pos h, if_pos h.symm]; cases lastAt l a <;> rfl
    · rw [if_neg h, if_neg (Ne.symm h)]

theorem lastAt_eq_none {l : List (Nat × Byte)} {a : Nat} (h : ∀ e ∈ l, e.1 ≠ a) : lastAt l a = none := by
  unfold lastAt
  rw [List.filter_eq_nil_iff.2 (fun e he => by simpa using h e he)]
  rfl

/-- Writes chosen by their addresses decide the addresses chosen. -/
theorem lastAt_filter (p : Nat → Bool) (l : List (Nat × Byte)) (a : Nat) :
    lastAt (l.filter fun e => p e.1) a = if p a then lastAt l a else none := by
  unfold lastAt
  rw [List.filter_filter]
  split
  · rename_i h
    congr 3
    funext e
    by_cases he : e.1 = a
    · simp [he, h]
    · simp [he]
  · rename_i h
    rw [List.filter_eq_nil_iff.2]
    · rfl
    · rintro e - he
      simp only [Bool.and_eq_true, decide_eq_true_eq] at he
      exact h (he.1 ▸ he.2)

theorem numbered_nil (a : Nat) : numbered a [] = [] := rfl

theorem numbered_cons (a : Nat) (b : Byte) (bs : List Byte) :
    numbered a (b :: bs) = (a, b) :: numbered (a + 1) bs := by
  unfold numbered
  rw [List.length_cons, List.range_succ_eq_map, List.zip_cons_cons, List.map_cons, List.zip_map_left, List.map_map]
  congr 1
  refine List.map_congr_left fun e _ => Prod.ext ?_ rfl
  change a + (e.1 + 1) = a + 1 + e.1
  omega

theorem lastAt_numbered (a : Nat) (bs : List Byte) (b : Nat) :
    lastAt (numbered a bs) b = if a ≤ b then bs[b - a]? else none := by
  induction bs generalizing a with
  | nil => rw [numbered_nil]; simp
  | cons x bs ih =>
    rw [numbered_cons, lastAt_cons, ih]
    rcases lt_trichotomy a b with h | rfl | h
    · rw [if_neg (show ¬a = b by omega), if_pos (show a + 1 ≤ b by omega), if_pos (show a ≤ b by omega),
        show b - a = b - (a + 1) + 1 by omega, List.getElem?_cons_succ]
    · simp
    · rw [if_neg (show ¬a = b by omega), if_neg (show ¬a + 1 ≤ b by omega), if_neg (show ¬a ≤ b by omega)]

theorem mem_numbered {a : Nat} {bs : List Byte} {e : Nat × Byte} (h : e ∈ numbered a bs) :
    a ≤ e.1 ∧ e.1 < a + bs.length := by
  induction bs generalizing a with
  | nil => exact absurd h (List.not_mem_nil)
  | cons x bs ih =>
    rw [numbered_cons, List.mem_cons] at h
    rcases h with rfl | h
    · simp
    · obtain ⟨h1, h2⟩ := ih h
      rw [List.length_cons]
      omega

/-! ### Codewords without an error -/

/-- A codeword without an error. -/
abbrev CleanCw (s : State) (cw : Nat) : Prop := s.cwErr.get {} cw = {}

theorem cwOutcome_clean (m : Memory) (cw : Nat) : cwOutcome m cw {} = .clean := rfl

theorem readCw_clean {s : State} {cw : Nat} (h : CleanCw s cw) : readCw s cw = (s, .clean) := by
  unfold readCw
  rw [h, cwOutcome_clean]

theorem touch_mem (s : State) (a n : Nat) : (touch s a n).mem = s.mem := by
  unfold touch; split <;> rfl

theorem touch_cwErr (s : State) (a n : Nat) : (touch s a n).cwErr = s.cwErr := by
  unfold touch; split <;> rfl

theorem readCws_clean {s : State} {cw n : Nat} (h : ∀ i, i < n → CleanCw s (cw + i)) :
    readCws s cw n = { s := s } := by
  induction n generalizing cw with
  | zero => rfl
  | succ n ih =>
    have h0 : readCw s cw = (s, .clean) := readCw_clean (h 0 (Nat.succ_pos n))
    rw [readCws, h0]
    exact ih fun i hi => by have := h (i + 1) (by omega); rwa [show cw + 1 + i = cw + (i + 1) by omega]

/-- Every codeword that a range touches holds a byte of it. -/
theorem exists_byte_of_cw {a n cw : Nat} (hn : 0 < n) (hlo : a / 64 ≤ cw) (hhi : cw ≤ (a + n - 1) / 64) :
    ∃ i, i < n ∧ (a + i) / 64 = cw := by
  refine ⟨max a (64 * cw) - a, ?_, ?_⟩ <;> omega

/-- A read over codewords without an error delivers what memory holds. -/
theorem readMem_clean {s : State} {a n : Nat} (h : ∀ i, i < n → CleanCw s ((a + i) / 64)) :
    readMem s a n = { s := touch s a n } := by
  refine readCws_clean fun j hj => ?_
  unfold nCws at hj
  split at hj
  · omega
  · rename_i hn
    obtain ⟨i, hi, e⟩ := exists_byte_of_cw (a := a) (n := n) (cw := a / 64 + j) (by omega) (by omega) (by omega)
    have := h i hi
    rw [e] at this
    unfold CleanCw
    rw [touch_cwErr]
    exact this

theorem readByte_of_clean (s : State) (a : Nat) : readByte { s := s } a = memGet s.mem a := rfl

/-! ### Writes over codewords without an error -/

/-- Only memory, the codewords' errors and the pending write-backs differ. -/
def OnlyMemory (s t : State) : Prop := t = { s with mem := t.mem, cwErr := t.cwErr, writeBack := t.writeBack }

theorem OnlyMemory.refl (s : State) : OnlyMemory s s := rfl

theorem OnlyMemory.trans {s t u : State} (h : OnlyMemory s t) (k : OnlyMemory t u) : OnlyMemory s u := by
  unfold OnlyMemory at *
  rw [k, h]

/-- A write to a codeword without an error. -/
theorem writeCw_clean {s : State} {cw : Nat} (h : CleanCw s cw) (bs : List (Nat × Byte)) :
    writeCw s cw bs = ({ s with mem := memPut s.mem bs, cwErr := s.cwErr.drop cw
                                writeBack := s.writeBack.filter (fun e => e.1 ≠ cw) }, true) := by
  unfold writeCw
  rw [readCw_clean h, ite_self]

/-- Writes to codewords without an error: what changes, that none fails, and what an address then reads. -/
theorem writeCws_clean {l : List Nat} {s : State} (bs : List (Nat × Byte)) (h : ∀ cw ∈ l, CleanCw s cw) :
    OnlyMemory s (writeCws s bs l).1 ∧ (writeCws s bs l).2 = true ∧
    (∀ cw, CleanCw s cw → CleanCw (writeCws s bs l).1 cw) ∧
    (∀ a, memGet (writeCws s bs l).1.mem a =
      if a / 64 ∈ l then (lastAt bs a).getD (memGet s.mem a) else memGet s.mem a) := by
  induction l generalizing s with
  | nil => exact ⟨.refl s, rfl, fun _ h => h, fun a => by simp [writeCws]⟩
  | cons cw l ih =>
    let f := bs.filter fun e => e.1 / 64 = cw
    have hw := writeCw_clean (h cw (by simp)) f
    have hc : ∀ c, CleanCw s c → CleanCw (writeCw s cw f).1 c := by
      intro c hc
      rw [hw]
      by_cases e : c = cw
      · subst e; exact Table.get_drop_same _ _ _
      · exact (Table.get_drop_other _ _ _ _ e).trans hc
    have hm : (writeCw s cw f).1.mem = memPut s.mem f := by rw [hw]
    have ho : OnlyMemory s (writeCw s cw f).1 := by rw [hw]; rfl
    obtain ⟨h1, h2, h3, h4⟩ := ih (s := (writeCw s cw f).1) fun c hcl => hc c (h c (by simp [hcl]))
    have e : writeCws s bs (cw :: l) = ((writeCws (writeCw s cw f).1 bs l).1, true) := by
      rw [writeCws]
      refine Prod.ext rfl ?_
      change ((writeCw s cw f).2 && _) = true
      rw [h2, hw]; rfl
    rw [e]
    refine ⟨ho.trans h1, rfl, fun c hcl => h3 c (hc c hcl), fun a => ?_⟩
    rw [h4, hm, memGet_memPut, lastAt_filter fun x => decide (x / 64 = cw)]
    simp only [decide_eq_true_eq]
    by_cases h5 : a / 64 = cw
    · rw [if_pos h5, if_pos (show a / 64 ∈ cw :: l by simp [h5])]
      split
      · cases lastAt bs a <;> rfl
      · rfl
    · rw [if_neg h5]
      simp only [List.mem_cons, h5, false_or, Option.getD_none]

theorem mem_uniq (l : List Nat) (x : Nat) : x ∈ uniq l ↔ x ∈ l := by
  have key : ∀ r : List Nat, x ∈ l.foldl (fun r x => if r.contains x then r else r ++ [x]) r ↔ x ∈ r ∨ x ∈ l := by
    induction l with
    | nil => simp
    | cons y l ih =>
      intro r
      rw [List.foldl_cons, ih, List.mem_cons]
      split
      · rename_i hy
        have hy : y ∈ r := by simpa using hy
        constructor
        · rintro (h | h) <;> simp [h]
        · rintro (h | rfl | h) <;> simp_all
      · simp [or_assoc]
  rw [uniq, key, List.mem_nil_iff, false_or]

/-- A write of listed bytes over codewords without an error. -/
theorem putMem_clean {s : State} {bs : List (Nat × Byte)} (h : ∀ e ∈ bs, CleanCw s (e.1 / 64)) :
    OnlyMemory s (putMem s bs).1 ∧ (putMem s bs).2 = true ∧
    (∀ cw, CleanCw s cw → CleanCw (putMem s bs).1 cw) ∧
    (∀ a, memGet (putMem s bs).1.mem a = (lastAt bs a).getD (memGet s.mem a)) := by
  obtain ⟨h1, h2, h3, h4⟩ := writeCws_clean (l := uniq (bs.map fun e => e.1 / 64)) (s := s) bs (by
    intro cw hcw
    obtain ⟨e, he, rfl⟩ := List.mem_map.1 ((mem_uniq _ _).1 hcw)
    exact h e he)
  refine ⟨h1, h2, h3, fun a => (h4 a).trans ?_⟩
  split
  · rfl
  · rename_i hn
    rw [lastAt_eq_none]
    · rfl
    · rintro e he rfl
      exact hn ((mem_uniq _ _).2 (List.mem_map.2 ⟨e, he, rfl⟩))

theorem writeMem_eq (s : State) (a : Nat) (bs : List Byte) :
    writeMem s a bs = putMem (touch s a bs.length) (numbered a bs) := rfl

theorem CleanCw.touch {s : State} {cw : Nat} (h : CleanCw s cw) (a n : Nat) : CleanCw (touch s a n) cw := by
  unfold CleanCw
  rw [touch_cwErr]
  exact h

/-- A write over codewords without an error puts its bytes, and changes no other. -/
theorem writeMem_clean {s : State} {a : Nat} {bs : List Byte} (h : ∀ i, i < bs.length → CleanCw s ((a + i) / 64)) :
    (writeMem s a bs).2 = true ∧ (∀ cw, CleanCw s cw → CleanCw (writeMem s a bs).1 cw) ∧
    (∀ b, memGet (writeMem s a bs).1.mem b =
      if a ≤ b then (bs[b - a]?).getD (memGet s.mem b) else memGet s.mem b) := by
  obtain ⟨-, h2, h3, h4⟩ := putMem_clean (s := touch s a bs.length) (bs := numbered a bs) (by
    intro e he
    obtain ⟨hlo, hhi⟩ := mem_numbered he
    have := h (e.1 - a) (by omega)
    rw [show a + (e.1 - a) = e.1 by omega] at this
    exact this.touch a _)
  refine ⟨h2, fun cw hcw => h3 cw (hcw.touch a _), fun b => ?_⟩
  rw [writeMem_eq, h4, lastAt_numbered, touch_mem]
  split <;> rfl

/-! ### Reads change no byte -/


theorem requestTest_mem (s : State) (k i ev : Nat) : (requestTest s k i ev).mem = s.mem := by
  rw [requestTest_parts]

theorem memErr_mem (s : State) (a bit : Nat) : (memErr s a bit).mem = s.mem := by
  unfold memErr
  dsimp only
  split <;> rfl

theorem corrected_mem (s : State) (a : Nat) (m : Option (List Byte)) : (corrected s a m).mem = s.mem := by
  unfold corrected
  extract_lets w s1 l s2 s3 s4 u key r
  have h1 : s1.mem = s.mem := memErr_mem s a 0
  have h3 : s3.mem = s1.mem := by unfold s3; split <;> rfl
  have h4 : s4.mem = s3.mem := by unfold s4; split <;> rfl
  have h5 : r.1.mem = s4.mem := rfl
  split
  · rw [requestTest_mem, h5, h4, h3, h1]
  · rw [h5, h4, h3, h1]

theorem uncorrectable_mem (s : State) (a bit code : Nat) : (uncorrectable s a bit code).mem = s.mem := by
  unfold uncorrectable
  dsimp only
  rw [requestTest_mem]
  exact memErr_mem s a bit

theorem readCw_mem (s : State) (cw : Nat) : (readCw s cw).1.mem = s.mem := by
  unfold readCw
  split
  · rfl
  · exact corrected_mem ..
  · dsimp only
    split
    · exact corrected_mem ..
    · rfl
  · exact uncorrectable_mem ..
  · exact uncorrectable_mem ..

theorem readCws_mem (s : State) (cw n : Nat) : (readCws s cw n).s.mem = s.mem := by
  induction n generalizing s cw with
  | zero => rfl
  | succ n ih =>
    rw [readCws]
    dsimp only
    split
    · exact readCw_mem s cw
    · exact readCw_mem s cw
    · exact (ih _ _).trans (readCw_mem s cw)
    · exact (ih _ _).trans (readCw_mem s cw)

theorem readMem_mem (s : State) (a n : Nat) : (readMem s a n).s.mem = s.mem :=
  (readCws_mem ..).trans (touch_mem s a n)

theorem virtualErrors_of_not_virt (cw : Nat) {e : CwErr} (h : e.virt = false) : virtualErrors cw e = 0 := by
  unfold virtualErrors CwErr.virt at *
  split
  · rename_i hs; rw [hs] at h; exact absurd h (by simp)
  · rfl

/-- A codeword of 4 or 5 symbols in error is uncorrectable, and a read of it fails (09 R337, R338). -/
theorem readMem_uncorrectable {s : State} {a n : Nat} (hn : 0 < n) (hv : (s.cwErr.get {} (a / 64)).virt = false)
    (h4 : 4 ≤ (s.cwErr.get {} (a / 64)).syms) (h5 : (s.cwErr.get {} (a / 64)).syms ≤ 5) :
    (readMem s a n).fail = some (a / 64) := by
  obtain ⟨k, hk⟩ : ∃ k, nCws a n = k + 1 := ⟨(a + n - 1) / 64 - a / 64, by rw [nCws, if_neg (by omega)]⟩
  have hv0 := virtualErrors_of_not_virt (a / 64) hv
  have ho : ∀ m, cwOutcome m (a / 64) (s.cwErr.get {} (a / 64)) = .bad := by
    intro m
    unfold cwOutcome
    dsimp only
    rw [hv0, if_neg (by omega), if_neg (by omega), if_pos (by omega)]
  have hr : (readCw (touch s a n) (a / 64)).2 = .bad := by
    unfold readCw
    rw [touch_cwErr, ho]
  unfold readMem
  rw [hk, readCws]
  dsimp only
  rw [hr]

/-- Settles O33: over codewords without an error a write is a put of its bytes, and no read touches memory. -/
theorem memoryKeepsWhatIsWritten : Obligations.MemoryKeepsWhatIsWritten := by
  unfold Obligations.MemoryKeepsWhatIsWritten
  refine ⟨fun s a bs h => ?_, fun s a bs h => ?_⟩
  · obtain ⟨hok, -, hget⟩ := writeMem_clean h
    refine ⟨hok, fun i hi => ?_, fun b hb => ?_⟩
    · rw [hget, if_pos (Nat.le_add_right a i), Nat.add_sub_cancel_left, List.getD_eq_getElem?_getD,
        List.getElem?_eq_getElem hi]
      rfl
    · rw [hget]
      split
      · rw [List.getElem?_eq_none (by omega)]; rfl
      · rfl
  · obtain ⟨-, hclean, hget⟩ := writeMem_clean h
    have hr := readMem_clean (s := (writeMem s a bs).1) (a := a) (n := bs.length) fun i hi => hclean _ (h i hi)
    refine ⟨by rw [hr], ?_, fun n b => by rw [readMem_mem], fun n hn hv h4 h5 => readMem_uncorrectable hn hv h4 h5⟩
    rw [hr]
    unfold readBytes
    refine List.ext_getElem (by simp) fun i h1 h2 => ?_
    rw [List.getElem_map, List.getElem_range, readByte_of_clean, touch_mem, hget, if_pos (Nat.le_add_right a i),
      Nat.add_sub_cancel_left, List.getElem?_eq_getElem h2]
    rfl

/-! ### The exchange cipher outside mapped buffers (17 R555) -/

theorem exchMapped_mono {s : State} {a b n m : Nat} (h : exchMapped s a n = false) (hab : a ≤ b)
    (hmn : b + m ≤ a + n) : exchMapped s b m = false := by
  unfold exchMapped at *
  split at h
  · rename_i c hc
    rw [Bool.and_eq_false_iff] at h ⊢
    refine h.imp id fun h => List.any_eq_false.2 fun x hx hm => List.any_eq_false.1 h x hx ?_
    simp only [Bool.and_eq_true, decide_eq_true_eq] at hm ⊢
    omega
  · rfl

theorem exchBytes_nil (s : State) (dec : Bool) (n a : Nat) : exchBytes s dec n a [] = [] := by
  induction n generalizing a with
  | zero => rfl
  | succ n ih =>
    rw [exchBytes, List.take_nil, List.drop_nil, ih, List.append_nil]
    split <;> rfl

/-- Bytes of units that no sealed job maps pass as they are. -/
theorem exchBytes_unmapped {s : State} {dec : Bool} {n a : Nat} {bs : List Byte}
    (h : exchMapped s a bs.length = false) (hn : a % 4096 + bs.length ≤ 4096 * n) :
    exchBytes s dec n a bs = bs := by
  induction n generalizing a bs with
  | zero => exact (List.eq_nil_of_length_eq_zero (by omega)).symm
  | succ n ih =>
    have hp : (bs.take (4096 - a % 4096)).length ≤ bs.length := List.length_take_le' ..
    rw [exchBytes, if_neg (by rw [exchMapped_mono h (Nat.le_refl a) (by omega)]; decide)]
    by_cases hk : bs.length ≤ 4096 - a % 4096
    · rw [List.take_of_length_le hk, List.drop_eq_nil_of_le hk, exchBytes_nil, List.append_nil]
    · rw [ih, List.take_append_drop]
      · exact exchMapped_mono h (by omega) (by rw [List.length_drop]; omega)
      · rw [List.length_drop]; omega

theorem unitsMet_covers (a n : Nat) : a % 4096 + n ≤ 4096 * unitsMet a n ∨ n = 0 := by
  unfold unitsMet
  split <;> omega

theorem exchIn_unmapped {s : State} {a : Nat} {bs : List Byte} (h : exchMapped s a bs.length = false) :
    exchIn s a bs = bs := by
  obtain hc | h0 := unitsMet_covers a bs.length
  · exact exchBytes_unmapped h hc
  · rw [List.eq_nil_of_length_eq_zero h0]; exact exchBytes_nil ..

theorem exchOut_unmapped {s : State} {a : Nat} {bs : List Byte} (h : exchMapped s a bs.length = false) :
    exchOut s a bs = bs := by
  obtain hc | h0 := unitsMet_covers a bs.length
  · exact exchBytes_unmapped h hc
  · rw [List.eq_nil_of_length_eq_zero h0]; exact exchBytes_nil ..

theorem touch_parts (s : State) (a n : Nat) : touch s a n = { s with reached := (touch s a n).reached } := by
  unfold touch
  split <;> rfl

theorem exchMapped_touch (s : State) (a n b m : Nat) : exchMapped (touch s a n) b m = exchMapped s b m := by
  rw [touch_parts]; rfl

/-! ### Descriptors from memory to memory -/

theorem murk_of_disjoint {s : State} {a n : Nat} (h : ∀ q ∈ openRanges s, a + n ≤ q.1 ∨ q.1 + q.2 ≤ a) :
    murk s a n = (s, [], 0) := by
  unfold murk
  rw [List.filter_eq_nil_iff.2, if_pos rfl]
  intro q hq
  have := h q hq
  simp only [Bool.and_eq_true, decide_eq_true_eq]
  omega

theorem stnByte_of_clean (s t : State) (k a : Nat) : stnByte (s, [], k) { s := t } a = memGet t.mem a := rfl

/-- The bytes that memory holds from `a` on. -/
theorem sourceBytes_mem {s : State} {g e : Nat} {d : Desc} (hk : srcKind d = 0) (hc : s.cwErr = [])
    (hx : exchMapped s d.w1 (lenOf d) = false)
    (hr : ∀ q ∈ openRanges s, d.w1 + lenOf d ≤ q.1 ∨ q.1 + q.2 ≤ d.w1) :
    sourceBytes s g e d = (touch s d.w1 (lenOf d), memRead s.mem d.w1 (lenOf d), false) := by
  have hm : readMem s d.w1 (lenOf d) = { s := touch s d.w1 (lenOf d) } :=
    readMem_clean fun i _ => by unfold CleanCw; rw [hc]; rfl
  have hb : (List.range (lenOf d)).map (fun i => stnByte (s, [], 0) { s := touch s d.w1 (lenOf d) } (d.w1 + i)) =
      memRead s.mem d.w1 (lenOf d) := by
    unfold memRead
    exact List.map_congr_left fun i _ => by rw [stnByte_of_clean, touch_mem]
  unfold sourceBytes
  rw [if_neg (by rw [hk]; decide), murk_of_disjoint hr]
  dsimp only
  rw [hm]
  dsimp only
  rw [hb, exchIn_unmapped]
  rw [exchMapped_touch]
  simpa [memRead] using hx

theorem getElem?_modifyNth {α : Type} (f : α → α) (i j : Nat) (l : List α) :
    (modifyNth f i l)[j]? = if j = i then l[j]?.map f else l[j]? := by
  induction l generalizing i j with
  | nil => simp [modifyNth]
  | cons x l ih =>
    cases i with
    | zero => cases j <;> simp [modifyNth]
    | succ i => cases j <;> simp [modifyNth, ih]

theorem flight_updRun (s : State) (g e i : Nat) (f : DescRun → DescRun) :
    (eng (updRun s g e i f) g e).flight[i]? = ((eng s g e).flight[i]?).map f := by
  unfold updRun
  rw [eng_updEng_same]
  dsimp only
  rw [getElem?_modifyNth, if_pos rfl]

/-- The codewords of which a free value lets the write land at once. -/
def landsNow (k a : Nat) : Bool := bitOf (Config.freeByte k (a / 64)).toNat 0

/-- The bytes that a descriptor writes, by whether they land at once: what `writeLate` does where no codeword has an
error. -/
theorem writeLate_clean {s : State} (g e i a : Nat) (bs : List Byte) (hc : s.cwErr = []) :
    ∃ u, OnlyMemory (touch (draw s).1 a bs.length) u ∧ (∀ cw, CleanCw u cw) ∧
      (∀ b, memGet u.mem b = (lastAt ((numbered a bs).filter fun x => landsNow s.freeCtr x.1) b).getD (memGet s.mem b)) ∧
      writeLate s g e i a bs = updRun u g e i fun r =>
        { r with late := r.late ++ (numbered a bs).filter fun x => !landsNow s.freeCtr x.1 } := by
  obtain ⟨h1, -, h3, h4⟩ := putMem_clean (s := touch (draw s).1 a bs.length)
    (bs := (numbered a bs).filter fun x => landsNow s.freeCtr x.1) (by
      intro x _
      unfold CleanCw
      rw [touch_cwErr]
      change Table.get {} s.cwErr _ = {}
      rw [hc]; rfl)
  refine ⟨_, h1, fun cw => h3 cw ?_, fun b => (h4 b).trans ?_, rfl⟩
  · unfold CleanCw
    rw [touch_cwErr]
    change Table.get {} s.cwErr _ = {}
    rw [hc]; rfl
  · rw [touch_mem]; rfl

theorem moveDesc_of_mem {s : State} {g e i : Nat} {d : Desc} (h : srcKind d = 0) :
    moveDesc s g e i d = deliverDesc (sourceBytes s g e d).1 g e i d (sourceBytes s g e d).2.1
      (sourceBytes s g e d).2.2 := by
  unfold moveDesc
  rw [h]
  rfl

theorem deliverDesc_of_mem {s : State} {g e i : Nat} {d : Desc} (h : dstKind d = 0) (bs : List Byte) :
    deliverDesc s g e i d bs false = openRange (writeLate s g e i d.w2 (exchOut s d.w2 bs)) g e i d := by
  unfold deliverDesc
  rw [h]
  rfl

/-- A descriptor from memory to memory in its flight: what it writes now, and what it still has to write. -/
theorem moveDesc_mem {s : State} {g e i : Nat} {d : Desc} (hs : srcKind d = 0) (hd : dstKind d = 0)
    (hc : s.cwErr = []) (hx1 : exchMapped s d.w1 (lenOf d) = false) (hx2 : exchMapped s d.w2 (lenOf d) = false)
    (hr : ∀ q ∈ openRanges s, d.w1 + lenOf d ≤ q.1 ∨ q.1 + q.2 ≤ d.w1) {r : DescRun}
    (hf : (eng s g e).flight[i]? = some { d := d }) (hr' : (eng (moveDesc s g e i d) g e).flight[i]? = some r) :
    let l := numbered d.w2 (memRead s.mem d.w1 (lenOf d))
    (∀ cw, CleanCw (moveDesc s g e i d) cw) ∧
    (∀ b, memGet (moveDesc s g e i d).mem b =
      if landsNow s.freeCtr b then (lastAt l b).getD (memGet s.mem b) else memGet s.mem b) ∧
    r = { d := d, late := l.filter (fun x => !landsNow s.freeCtr x.1), range := some (d.w2, lenOf d) } := by
  intro l
  let t := touch s d.w1 (lenOf d)
  have hct : t.cwErr = [] := (touch_cwErr ..).trans hc
  have hm : moveDesc s g e i d = openRange (writeLate t g e i d.w2 (memRead s.mem d.w1 (lenOf d))) g e i d := by
    rw [moveDesc_of_mem hs, sourceBytes_mem hs hc hx1 hr, deliverDesc_of_mem hd, exchOut_unmapped]
    rw [exchMapped_touch]
    simpa [memRead] using hx2
  obtain ⟨u, hu, hclean, hget, hw⟩ := writeLate_clean g e i d.w2 (memRead s.mem d.w1 (lenOf d)) hct
  have hfree : t.freeCtr = s.freeCtr := by unfold t; rw [touch_parts]
  have hmem : t.mem = s.mem := touch_mem ..
  rw [hfree] at hget hw
  rw [hmem] at hget
  rw [hw] at hm
  rw [hm] at hr' ⊢
  refine ⟨hclean, fun b => ?_, ?_⟩
  · refine (hget b).trans ?_
    rw [lastAt_filter]
    split <;> rfl
  · have he : eng u g e = eng s g e := by
      rw [hu, touch_parts]
      unfold t draw
      rw [touch_parts]
      rfl
    unfold openRange at hr'
    rw [flight_updRun, flight_updRun, he, hf, if_pos hd] at hr'
    simpa using hr'.symm

/-- Settles O19: each byte lands at once or with its descriptor's completion, and no other byte is written. -/
theorem memoryToMemoryCopies : Obligations.MemoryToMemoryCopies := by
  unfold Obligations.MemoryToMemoryCopies
  intro s g e i d r hs hd hc hx1 hx2 hr hf hr'
  obtain ⟨hclean, hget, rfl⟩ := moveDesc_mem hs hd hc hx1 hx2 hr hf hr'
  set l := numbered d.w2 (memRead s.mem d.w1 (lenOf d)) with hl
  have hlate : ∀ b, memGet (landLate (moveDesc s g e i d)
      { d := d, late := l.filter (fun x => !landsNow s.freeCtr x.1), range := some (d.w2, lenOf d) }).mem b =
      (lastAt l b).getD (memGet s.mem b) := by
    intro b
    unfold landLate
    rw [if_neg (by rw [hs]; decide)]
    obtain ⟨-, -, -, h4⟩ := putMem_clean (s := moveDesc s g e i d)
      (bs := l.filter fun x => !landsNow s.freeCtr x.1) fun _ _ => hclean _
    rw [h4, lastAt_filter fun x => !landsNow s.freeCtr x, hget]
    cases landsNow s.freeCtr b <;> simp
  have hin : ∀ j, j < lenOf d → lastAt l (d.w2 + j) = some (memGet s.mem (d.w1 + j)) := by
    intro j hj
    rw [hl, lastAt_numbered, if_pos (Nat.le_add_right ..), Nat.add_sub_cancel_left]
    simp [memRead, hj]
  have hout : ∀ b, b < d.w2 ∨ d.w2 + lenOf d ≤ b → lastAt l b = none := by
    intro b hb
    rw [hl, lastAt_numbered]
    split
    · exact List.getElem?_eq_none (by simp [memRead]; omega)
    · rfl
  refine ⟨fun j hj => ⟨by rw [hlate, hin j hj]; rfl, ?_⟩, fun a ha => ⟨?_, by rw [hlate, hout a ha]; rfl⟩, rfl⟩
  · rw [hget, hin j hj]
    split
    · exact .inl rfl
    · exact .inr rfl
  · rw [hget, hout a ha]
    split <;> rfl

end Sys2Proof.Machine
end

/-! ## Chunks at a gateway (11 R384 to R398) -/
section
set_option Elab.async false
namespace Sys2Proof.Machine
open Sys2Proof

theorem Table.set_set {α : Type} (t : Table α) (k : Nat) (a b : α) : (t.set k a).set k b = t.set k b := by
  induction t with
  | nil => simp [Table.set]
  | cons e t ih =>
    obtain ⟨j, x⟩ := e
    simp only [Table.set]
    split
    · simp [Table.set]
    · split
      · simp [Table.set]
      · rename_i h1 h2
        simp only [Table.set, h1, h2, ↓reduceIte, ih]

/-- The state with a gateway's input replaced. -/
abbrev withInput (s : State) (k : Nat) (l : List Chunk) : State := { s with gwIn := s.gwIn.set k l }

theorem judge_withInput (s : State) (i : List (Nat × Msg)) (k h : Nat) (l : List Chunk) (c : Chunk) :
    judge (withInput { s with inbox := i } h l) k c = judge s k c := rfl

theorem actable_withInput (s : State) (i : List (Nat × Msg)) (k h : Nat) (l : List Chunk) (all : Bool) (c : Chunk) :
    actable (withInput { s with inbox := i } h l) k all c = actable s k all c := rfl

theorem upd_of_get {α : Type} {d : α} {t : Table α} {k : Nat} {v : α} (h : t.get d k = v) (f : α → α) :
    t.upd d k f = t.set k (f v) := by
  unfold Table.upd
  rw [h]

/-- A gateway with one chunk at its input acts on it where it may. -/
theorem serve_one {s : State} {k : Nat} {c : Chunk} {p : Chunk → Bool} (h : s.gwIn.get [] k = [c]) :
    serve s k p = if p c then actOn (withInput s k []) k c (judge s k c) else s := by
  unfold serve
  rw [h]
  cases hp : p c with
  | true =>
    rw [List.find?_cons_of_pos hp, if_pos rfl]
    dsimp only
    rw [upd_of_get h, List.erase_cons_head]
  | false =>
    rw [List.find?_cons_of_neg (by rw [hp]; decide), if_neg (by decide)]
    rfl

section
variable {s : State} {k p : Nat} {m : Msg}

/-- The state once a message has reached a gateway's input, which was empty. -/
abbrev withArrived (s : State) (k p : Nat) (m : Msg) (c : Chunk) : State :=
  withInput { s with inbox := s.inbox.erase (p, m) } k [c]

theorem chunkArrival_of_find {t : Nat} (hf : s.inbox.find? (fun e => e.2 = m) = some (p, m)) (hk : chunkGw m = k)
    (ht : m.mtype = t) : chunkArrival s k m t = some p := by
  unfold chunkArrival
  simp [hf, hk, ht]

theorem intake_empty (h : s.gwIn.get [] k = []) :
    intake s k p m = withArrived s k p m { id := chunkId m, data := m.data, src := .messages [m] } := by
  unfold intake
  rw [upd_of_get h]
  rfl

/-- What a gateway does with the only chunk at its input, which has just arrived. -/
theorem serve_arrived (c : Chunk) (q : Chunk → Bool) :
    serve (withArrived s k p m c) k q =
      if q c then actOn (withInput { s with inbox := s.inbox.erase (p, m) } k []) k c (judge s k c)
      else withArrived s k p m c := by
  rw [serve_one (c := c) (Table.get_set_same ..)]
  change (if q c then actOn { s with inbox := _, gwIn := (s.gwIn.set k [c]).set k [] } k c (judge s k c) else _) = _
  rw [Table.set_set]

theorem exec_chunkGrad_arrives (h : s.gwIn.get [] k = []) (hf : s.inbox.find? (fun e => e.2 = m) = some (p, m))
    (hk : chunkGw m = k) (ht : m.mtype = 5) {c : Chunk}
    (hc : c = { id := chunkId m, data := m.data, src := .messages [m] }) :
    exec (.chunkGrad k m) s = .next (
      if actable s k false c then actOn (withInput { s with inbox := s.inbox.erase (p, m) } k []) k c (judge s k c)
      else withArrived s k p m c) := by
  have e : exec (.chunkGrad k m) s = execChunkGrad k m s := rfl
  rw [e, execChunkGrad, chunkArrival_of_find hf hk ht]
  dsimp only
  rw [intake_empty h, ← hc, serve_arrived, actable_withInput, show c.gather.isNone = true by rw [hc]; rfl, Bool.true_and]

theorem exec_chunkGather_arrives (h : s.gwIn.get [] k = []) (hf : s.inbox.find? (fun e => e.2 = m) = some (p, m))
    (hk : chunkGw m = k) (ht : m.mtype = 6) {c : Chunk}
    (hc : c = { id := chunkId m, data := m.data, src := .messages [m], gather := some (m.fmt, m.scaled, m.step) }) :
    exec (.chunkGather k m) s = .next (
      if actable s k true c then actOn (withInput { s with inbox := s.inbox.erase (p, m) } k []) k c (judge s k c)
      else withArrived s k p m c) := by
  have e : exec (.chunkGather k m) s = execChunkGather k m s := rfl
  have ha : takeInbox { s with gwIn := s.gwIn.upd [] k (· ++ [c]) } p m = withArrived s k p m c := by
    rw [upd_of_get h]; rfl
  rw [e, execChunkGather, chunkArrival_of_find hf hk ht]
  dsimp only
  rw [← hc]
  change Host.Outcome.next (serve (takeInbox { s with gwIn := s.gwIn.upd [] k (· ++ [c]) } p m) k _) = _
  rw [ha, serve_arrived, show c.gather.isSome = true by rw [hc]; rfl, Bool.true_and]
  rfl

theorem exec_lossReport_arrives (h : s.gwIn.get [] k = []) (hf : s.inbox.find? (fun e => e.2 = m) = some (p, m))
    (hk : chunkGw m = k) (ht : m.mtype = 5) {c : Chunk}
    (hc : c = { id := chunkId m, data := m.data, src := .messages [m] }) (hl : chunkId m = lossId) :
    exec (.lossReport k m) s = .next (
      if actable s k true c then actOn (withInput { s with inbox := s.inbox.erase (p, m) } k []) k c (judge s k c)
      else withArrived s k p m c) := by
  have e : exec (.lossReport k m) s = execLossReport k m s := rfl
  rw [e, execLossReport, chunkArrival_of_find hf hk ht]
  dsimp only
  rw [if_pos hl, intake_empty h, ← hc, serve_arrived, actable_withInput, show c.gather.isNone = true by rw [hc]; rfl,
    show c.id = lossId by rw [hc]; exact hl]
  rfl

section
variable {all : Bool} {c : Chunk}

theorem actable_bad {st : Nat} (h : judge s k c = .bad st) : actable s k all c = true := by
  unfold actable; rw [h]

theorem actable_dup (h : judge s k c = .dup) : actable s k all c = true := by
  unfold actable; rw [h]

theorem actable_hold (h : judge s k c = .hold) : actable s k all c = false := by
  unfold actable; rw [h]

theorem actable_loss (h : judge s k c = .loss) : actable s k all c = all := by
  unfold actable; rw [h]

theorem actable_grad {i j slot fmt : Nat} (h : judge s k c = .grad i j slot fmt) :
    actable s k all c = (all && !buffersFull s k) := by
  unfold actable; rw [h]

theorem actable_gather {j : Nat} {x : Shard} (h : judge s k c = .gather j x) :
    actable s k all c = (all && !buffersFull s k && !engineWaits s (k / 2) (gatherAddr s x j) 32768) := by
  unfold actable; rw [h]

end

theorem buffersFull_iff : buffersFull s k = true ↔ 8 ≤ (gw s k).bufs.length := decide_eq_true_iff

end

theorem judgeGather_ne_grad (s : State) (k : Nat) (c : Chunk) (f : Nat) (b : Bool) (n i j slot fmt : Nat) :
    judgeGather s k c f b n ≠ .grad i j slot fmt := by
  unfold judgeGather
  split
  · simp
  · split
    · simp
    · split
      · simp
      · split <;> simp

theorem judgeLoss_ne_grad (s : State) (k : Nat) (c : Chunk) (i j slot fmt : Nat) :
    judgeLoss s k c ≠ .grad i j slot fmt := by
  unfold judgeLoss
  dsimp only
  split
  · simp
  · split <;> simp

/-- A chunk that is a gradient to take is a gradient, and the gateway's engine has not finished (11 R386, R397). -/
theorem judge_grad {s : State} {k i j slot fmt : Nat} {c : Chunk} (h : judge s k c = .grad i j slot fmt) :
    c.gather = none ∧ (stepItems s).isNone = false ∧ (gw s k).state ≠ 2 ∧ c.id ≠ lossId ∧
      judgeGrad s k c = .grad i j slot fmt := by
  unfold judge at h
  cases hg : c.gather with
  | some x =>
    rw [hg] at h
    dsimp only at h
    split at h
    · exact absurd h (by simp)
    · exact (judgeGather_ne_grad _ _ _ _ _ _ _ _ _ _ h).elim
  | none =>
    rw [hg] at h
    dsimp only at h
    split at h
    · exact absurd h (by simp)
    split at h
    · exact absurd h (by simp)
    split at h
    · exact (judgeLoss_ne_grad _ _ _ _ _ _ _ h).elim
    · exact ⟨rfl, Bool.not_eq_true _ ▸ ‹¬(stepItems s).isNone = true›, ‹_›, ‹_›, h⟩

/-- The same chunk once its bit of the bitmap is set (11 R386, R388). -/
theorem judgeGrad_taken {s t : State} {k i j slot fmt : Nat} {c : Chunk} (h : judgeGrad s k c = .grad i j slot fmt)
    (hsh : shardsOf t k = shardsOf s k) (hjob : jobNo t = jobNo s) (hb : (gw t k).bitmap.get false slot = true) :
    judgeGrad t k c = .dup := by
  unfold judgeGrad at h ⊢
  rw [hsh, hjob]
  dsimp only at h ⊢
  cases hs : shardOf c.id 0 0 (shardsOf s k) with
  | none => rw [hs] at h; exact absurd h (by simp)
  | some x =>
    obtain ⟨i', j', slot', x⟩ := x
    rw [hs] at h
    dsimp only at h ⊢
    split at h
    · exact absurd h (by simp)
    rename_i h1
    rw [if_neg h1]
    split at h
    · split at h
      · split at h <;> exact absurd h (by simp)
      · exact absurd h (by simp)
    rename_i h2
    rw [if_neg h2]
    split at h
    · exact absurd h (by simp)
    rename_i h3
    rw [if_neg h3]
    split at h
    · exact absurd h (by simp)
    rename_i h4
    rw [if_neg h4]
    split at h
    · exact absurd h (by simp)
    · injection h with _ _ hslot _
      subst hslot
      rw [if_pos hb]

/-- A gradient chunk that has been taken is a duplicate from then on (11 R386, R388). -/
theorem judge_taken {s t : State} {k i j slot fmt : Nat} {c : Chunk} (h : judge s k c = .grad i j slot fmt)
    (hstep : stepItems t = stepItems s) (hsh : shardsOf t k = shardsOf s k) (hjob : jobNo t = jobNo s)
    (hst : (gw t k).state = (gw s k).state) (hb : (gw t k).bitmap.get false slot = true) : judge t k c = .dup := by
  obtain ⟨hg, h1, h2, h3, h4⟩ := judge_grad h
  unfold judge
  rw [hg]
  dsimp only
  rw [hstep, h1, hst, if_neg (by decide), if_neg h2, if_neg h3, judgeGrad_taken h4 hsh hjob hb]

/-- A message that leaves changes only the ports. -/
theorem sendMsg_parts (s : State) (m : Msg) : sendMsg s m = { s with ports := (sendMsg s m).ports } := by
  unfold sendMsg
  split <;> rfl

theorem sendMsg_ports_congr {s t : State} (m : Msg) (hc : t.course = s.course) (hp : t.ports = s.ports) :
    (sendMsg t m).ports = (sendMsg s m).ports := by
  unfold sendMsg
  have hr : routeOf t m.dst = routeOf s m.dst := by unfold routeOf; rw [hc]
  rw [hr]
  cases routeOf s m.dst with
  | none => exact hp
  | some p => dsimp only [updHPort]; rw [hp]

/-- A gateway whose next buffer holds a gradient chunk (11 R387, R388). -/
def withGrad (i j slot fmt : Nat) (c : Chunk) (x : Gw) : Gw :=
  { x with bitmap := x.bitmap.set slot true
           bufs := x.bufs ++ [{ slot := slot, shard := i, index := j, fmt := fmt, data := c.data.drop 256 }] }

/-- A gradient chunk of a message of another module enters a buffer, and the message gets its reply. -/
theorem takeGrad_message {s : State} {k i j slot fmt : Nat} {c : Chunk} {m : Msg} (hc : c.src = .messages [m])
    (hm : m.src ≠ s.moduleId) :
    takeGrad s k i j slot fmt c = replyTo (updGw s k (withGrad i j slot fmt c)) m 7 stOK [] := by
  unfold takeGrad answerChunk
  rw [hc]
  exact if_neg hm

/-- Settles O38. -/
theorem chunksArriveOnce : Obligations.ChunksArriveOnce := by
  unfold Obligations.ChunksArriveOnce
  refine ⟨fun s k p m h hf hk => ⟨withInput { s with inbox := s.inbox.erase (p, m) } k [], rfl,
    Table.get_set_same .., fun j hj => Table.get_set_other _ _ _ _ _ hj, fun c hc ht => ⟨?_, ?_, ?_, ?_⟩,
    fun c ht hc => ⟨?_, ?_⟩⟩, ?_⟩
  · intro st hj
    rw [exec_chunkGrad_arrives h hf hk ht hc, actable_bad hj, hj, if_pos rfl]
    rfl
  · intro hj
    rw [exec_chunkGrad_arrives h hf hk ht hc, actable_dup hj, hj, if_pos rfl]
    rfl
  · intro i j slot fmt hj
    rw [exec_chunkGrad_arrives h hf hk ht hc, actable_grad hj, Bool.false_and, if_neg (by decide)]
  · intro hj hl
    rw [exec_lossReport_arrives h hf hk ht hc hl, actable_loss hj, hj, if_pos rfl]
    rfl
  · intro j x hj hroom
    have hb : buffersFull s k = false := by simpa [buffersFull] using hroom
    rw [exec_chunkGather_arrives h hf hk ht hc, actable_gather hj, hb, hj]
    refine ⟨fun hw => ?_, fun hw => ?_⟩
    · rw [hw, if_pos (by rfl), hc]
      rfl
    · rw [hw, if_neg (by simp)]
  · intro hj
    rw [exec_chunkGather_arrives h hf hk ht hc, actable_hold hj, if_neg (by decide)]
  · intro s k c m h hc hg hm i j slot fmt hj
    have e : exec (.chunkTake k) s = .next (serve s k (actable s k true)) := rfl
    rw [e, serve_one h, actable_grad hj, hj, Bool.true_and]
    refine ⟨fun hroom => ?_, fun hfull => ?_⟩
    · have hb : buffersFull s k = false := by simpa [buffersFull] using hroom
      rw [hb, if_pos (by decide)]
      refine ⟨_, congrArg _ (takeGrad_message (s := withInput s k []) hc hm), ?_⟩
      let u := updGw (withInput s k []) k (withGrad i j slot fmt c)
      have hgw : gw u k = withGrad i j slot fmt c (gw s k) := Table.get_upd_same ..
      change gw (replyTo u m 7 stOK []) k = withGrad i j slot fmt c (gw s k) ∧ (replyTo u m 7 stOK []).gwIn.get [] k = [] ∧
        judge (replyTo u m 7 stOK []) k c = .dup ∧ (replyTo u m 7 stOK []).ports = _ ∧ SameBytes s (replyTo u m 7 stOK [])
      have ht : replyTo u m 7 stOK [] = { u with ports := (replyTo u m 7 stOK []).ports } := sendMsg_parts ..
      have hport : (replyTo u m 7 stOK []).ports = (replyTo s m 7 stOK []).ports := sendMsg_ports_congr _ rfl rfl
      refine ⟨?_, ?_, judge_taken hj ?_ ?_ ?_ ?_ ?_, hport, ?_⟩
      · rw [ht]; exact hgw
      · rw [ht]; exact Table.get_set_same ..
      · rw [ht]; rfl
      · rw [ht]; rfl
      · rw [ht]; rfl
      · rw [ht]; exact (congrArg Gw.state hgw).trans rfl
      · rw [ht]; exact (congrArg (fun x => x.bitmap.get false slot) hgw).trans (Table.get_set_same ..)
      · rw [ht]; intro a; rfl
    · rw [buffersFull_iff.2 hfull, if_neg (by decide)]

end Sys2Proof.Machine
end

/-! ## Requests to stream engines (06 R230, R234; 07 R274, R283, R285) -/
section
set_option Elab.async false
namespace Sys2Proof.Machine
open Sys2Proof

namespace OnlyDetector
variable {s u : State} (h : OnlyDetector s u)
include h

theorem eng_eq (g e : Nat) : eng u g e = eng s g e := by
  obtain ⟨r, rfl⟩ := h.exists_regs
  rfl

theorem boundStation_eq (g e : Nat) : boundStation u g e = boundStation s g e := by
  obtain ⟨r, rfl⟩ := h.exists_regs
  rfl

theorem listOk_eq (g e a : Nat) : listOk u g e a = listOk s g e a := by
  obtain ⟨r, rfl⟩ := h.exists_regs
  rfl

theorem xreg_eq (n r : Nat) : xreg u n r = xreg s n r := by
  obtain ⟨r, rfl⟩ := h.exists_regs
  rfl

end OnlyDetector

section
variable {s : State} {n e : Nat} (h : acts s n = true)
include h

theorem exec_strm_of_acts (ra rc : Nat) : ∃ u, OnlyDetector s u ∧ exec (.strm n e ra rc) s = .next (
    if boundStation s (cluOf n) e = some n then
      strmOn u (cluOf n) e ((xreg s n ra).toNat % 2 ^ 48) ((xreg s n rc).toNat % 2 ^ 32)
    else notBound u n) := by
  have hu := OnlyDetector.seeX s n [ra, rc]
  refine ⟨_, hu, ?_⟩
  have e1 : exec (.strm n e ra rc) s = execStrm n e ra rc s := rfl
  rw [e1, execStrm, if_neg (by rw [h]; decide)]
  dsimp only
  rw [hu.boundStation_eq, hu.xreg_eq, hu.xreg_eq]
  split
  · rfl
  · rename_i hb
    rw [if_pos (not_not.1 hb)]

theorem exec_rearm_of_acts (rb : Nat) : ∃ u, OnlyDetector s u ∧ exec (.rearm n e rb) s = .next (
    if boundStation s (cluOf n) e = some n then rearmOn u (cluOf n) e ((xreg s n rb).toNat % 2 ^ 48)
    else notBound u n) := by
  have hu := OnlyDetector.seeX s n [rb]
  refine ⟨_, hu, ?_⟩
  have e1 : exec (.rearm n e rb) s = execRearm n e rb s := rfl
  rw [e1, execRearm, if_neg (by rw [h]; decide)]
  dsimp only
  rw [hu.boundStation_eq, hu.xreg_eq]
  split
  · rfl
  · rename_i hb
    rw [if_pos (not_not.1 hb)]

end

section
variable {s : State} {g e : Nat}

theorem strmOn_zero (s : State) (g e a : Nat) : strmOn s g e a 0 = s := rfl

theorem strmOn_pending {a c : Nat} (hc : c ≠ 0) (h : (eng s g e).request.isSome = true) :
    strmOn s g e a c = refuse s g e := by
  unfold strmOn
  rw [if_neg hc, if_pos h]

theorem strmOn_ready {a c : Nat} (hc : c ≠ 0) (h : (eng s g e).request = none)
    (hs : (eng s g e).state = .idle ∨ (eng s g e).state = .parked) : strmOn s g e a c = startList s g e a c := by
  unfold strmOn
  rw [if_neg hc, if_neg (by rw [h]; decide)]
  obtain hs | hs := hs <;> rw [hs]

theorem strmOn_busy {a c : Nat} (hc : c ≠ 0) (h : (eng s g e).request = none)
    (hs : (eng s g e).state = .running ∨ (eng s g e).state = .drainWait) :
    strmOn s g e a c = updEng s g e (fun x => { x with request := some (.list a c) }) := by
  unfold strmOn
  rw [if_neg hc, if_neg (by rw [h]; decide)]
  obtain hs | hs := hs <;> rw [hs]

theorem startList_ok {a c : Nat} (h : listOk s g e a = true) :
    startList s g e a c = updEng s g e (fun x => { idleEngine x with state := .running, addr := a, count := c }) :=
  if_pos h

theorem startList_bad {a c : Nat} (h : listOk s g e a = false) :
    startList s g e a c = engReport (strErr (updEng s g e (fun x => { idleEngine x with lastStatus := stInvalid }))
      g e 0) g e 0x0401 :=
  if_neg (by rw [h]; decide)

/-- A parked descriptor with a new base on its rebase side (07 R283). -/
def rebased (d : Desc) (base : Nat) : Desc := if bitOf d.w0 9 then { d with w2 := base } else { d with w1 := base }

theorem rebased_addr (d : Desc) (b : Nat) : (rebased d b).addr = d.addr := by
  unfold rebased
  split <;> rfl

theorem startRun_of_parked {d : Desc} {b : Nat} (h : (eng s g e).parked = some d) :
    startRun s g e b = updEng s g e (fun x =>
      { idleEngine x with state := .running, addr := d.addr, count := 1, nFetched := 1, rearmed := true
                          fetched := [rebased d b] }) := by
  have e1 : startRun s g e b = updEng s g e (fun x =>
      { idleEngine x with state := .running, addr := (rebased d b).addr, count := 1, fetched := [rebased d b]
                          nFetched := 1, rearmed := true }) := by
    unfold startRun
    rw [h]
    rfl
  rw [e1, rebased_addr]

theorem rearmOn_refused {b : Nat} (h : (eng s g e).request.isSome = true ∨ (eng s g e).state = .idle) :
    rearmOn s g e b = refuse s g e := by
  unfold rearmOn
  dsimp only
  split
  · rfl
  · obtain h | h := h
    · exact absurd h ‹_›
    · rw [h]

theorem rearmOn_parked {b : Nat} (h : (eng s g e).request = none) (hs : (eng s g e).state = .parked) :
    rearmOn s g e b = startRun s g e b := by
  unfold rearmOn
  rw [if_neg (by rw [h]; decide), hs]

theorem rearmOn_running {b : Nat} (h : (eng s g e).request = none) (hs : (eng s g e).state = .running) :
    rearmOn s g e b = updEng s g e (fun x => { x with request := some (.rearm b) }) := by
  unfold rearmOn
  rw [if_neg (by rw [h]; decide), hs]

theorem exec_strmPendingStart (g e : Nat) (s : State) :
    exec (.strmPendingStart g e) s = execStrmPendingStart g e s := rfl

end

/-- Settles O17, by the engine's state and its request. -/
theorem streamRequests : Obligations.StreamRequests := by
  unfold Obligations.StreamRequests
  refine ⟨fun s n e h => ⟨fun ra rc A C hA hC => ?_, fun rb B hB => ?_⟩, fun s g e => ?_⟩
  · obtain ⟨u, hu, hx⟩ := exec_strm_of_acts (e := e) h ra rc
    rw [← hA, ← hC] at hx
    rw [hx]
    have he := hu.eng_eq (cluOf n) e
    refine ⟨fun hb => ?_, fun hb => ⟨u, hu, by rw [if_neg hb]; rfl⟩⟩
    rw [if_pos hb]
    refine ⟨fun h0 => ⟨u, hu, by rw [h0]; rfl⟩, fun h0 hr => ⟨u, hu, ?_⟩, fun h0 hr hs => ⟨fun hl => ⟨u, hu, ?_⟩,
      fun hl => ⟨u, hu, ?_⟩⟩, fun h0 hr hs => ⟨u, hu, ?_⟩⟩
    · rw [strmOn_pending h0 (he ▸ hr)]
    · rw [strmOn_ready h0 (he ▸ hr) (he ▸ hs), startList_ok (hu.listOk_eq .. ▸ hl)]
    · rw [strmOn_ready h0 (he ▸ hr) (he ▸ hs), startList_bad (hu.listOk_eq .. ▸ hl)]
    · rw [strmOn_busy h0 (he ▸ hr) (he ▸ hs)]
  · obtain ⟨u, hu, hx⟩ := exec_rearm_of_acts (e := e) h rb
    rw [← hB] at hx
    rw [hx]
    have he := hu.eng_eq (cluOf n) e
    refine ⟨fun hb => ?_, fun hb => ⟨u, hu, by rw [if_neg hb]; rfl⟩⟩
    rw [if_pos hb]
    refine ⟨fun d hr hs hd => ⟨u, hu, ?_⟩, fun hr hs => ⟨u, hu, ?_⟩, fun hr => ⟨u, hu, ?_⟩⟩
    · rw [rearmOn_parked (he ▸ hr) (he ▸ hs), startRun_of_parked (he ▸ hd)]
      rfl
    · rw [rearmOn_running (he ▸ hr) (he ▸ hs)]
    · rw [rearmOn_refused (he ▸ hr)]
  · rw [exec_strmPendingStart, execStrmPendingStart]
    refine ⟨fun A C hr hs hl => ?_, fun B d hr hs hd => ?_, fun B hr hs => ?_, fun hr => ?_⟩
    · obtain hs | hs := hs <;> simp only [hr, hs, startList_ok hl]
    · simp only [hr, hs, startRun_of_parked hd]
      refine ⟨_, rfl, rfl, ?_⟩
      rw [eng_updEng_same]
      exact ⟨rfl, rfl, rfl, rfl⟩
    · simp only [hr, hs]
    · rw [hr]
      cases (eng s g e).state <;> rfl

end Sys2Proof.Machine
end

/-! ## Handoff ports: bring-up, failure and loss (10 R357 to R360, R377) -/
section
set_option Elab.async false
namespace Sys2Proof.Machine
open Sys2Proof

theorem exec_portUp (p pm pp : Nat) (s : State) : exec (.portUp p pm pp) s = execPortUp p pm pp s := rfl

theorem exec_hofTrainFail (p : Nat) (s : State) : exec (.hofTrainFail p) s = execHofTrainFail p s := rfl

theorem exec_portTrainRetry (p : Nat) (s : State) : exec (.portTrainRetry p) s = execPortTrainRetry p s := rfl

theorem exec_hofPortDown (p : Nat) (s : State) : exec (.hofPortDown p) s = execHofPortDown p s := rfl

/-- A bit of a register that has been set. -/
theorem bitOf_reg_setBit_same (s : State) (k : Nat) {b : Nat} (hb : b < 64) : bitOf (reg (setBit s k b) k) b = true := by
  rw [bitOf_reg_setBit s k b hb]
  simp

theorem updHPort_updHPort (s : State) (p : Nat) (f g : HPort → HPort) :
    updHPort (updHPort s p f) p g = updHPort s p (fun h => g (f h)) := by
  unfold updHPort Table.upd
  dsimp only
  rw [Table.get_set_same, Table.set_set]

section
variable {s : State} {p : Nat}

/-- A port as it comes UP with a peer (10 R358, R360). -/
def portUp (pm pp : Nat) (h : HPort) : HPort :=
  { h with state := 2, peerModule := pm, peerPort := pp, attempts := 0, slot := 0, before := some (pm, pp), spaces := []
           trained := true, credit0 := 1024, credit1 := 1024, freed0 := 0, freed1 := 0, starts := [], rx := []
           sent := none }

/-- The state once a port has come UP, its change of peer aside. -/
def upState (s : State) (p pm pp : Nat) : State :=
  rewriteCap (raise (updHPort s p (portUp pm pp)) 0x0607 (8 + p / 8) p none)

theorem execPortUp_open {pm pp : Nat} (hp : p < 16) (hs : (hport s p).state = 1) (he : (hport s p).enabled = true)
    (ho : linksOpen s = true) (hm : pm < 1024) (hq : pp < 16) (hseen : (hport s p).seen = some (pm, pp))
    (hl : laneFailed s p = false) :
    execPortUp p pm pp s = .next (
      match (hport s p).before with
      | some b => if b ≠ (pm, pp) then raise (setBit (upState s p pm pp) (hofReg p 8) 3) 0x0605 (8 + p / 8) p none
        else upState s p pm pp
      | none => upState s p pm pp) := by
  unfold execPortUp
  dsimp only
  rw [Nat.mod_eq_of_lt hm, Nat.mod_eq_of_lt hq, hs, he, ho, hl, hseen, if_neg (by simpa using hp)]
  cases (hport s p).before with
  | none => rfl
  | some b =>
    dsimp only
    by_cases hb : b = (pm, pp)
    · rw [if_neg (by simpa using hb), if_neg (by simpa using hb)]; rfl
    · rw [if_pos (by simpa using hb), if_pos (by simpa using hb)]; rfl

theorem execPortUp_closed {pm pp : Nat} (hm : pm < 1024) (hq : pp < 16)
    (h : (hport s p).seen ≠ some (pm, pp) ∨ laneFailed s p = true) : execPortUp p pm pp s = .next s := by
  unfold execPortUp
  dsimp only
  rw [Nat.mod_eq_of_lt hm, Nat.mod_eq_of_lt hq, if_pos]
  simp only [Bool.or_eq_true, decide_eq_true_eq]
  obtain h | h := h
  · exact .inr h
  · exact .inl (.inr h)

theorem hport_upState_same (pm pp : Nat) : hport (upState s p pm pp) p = portUp pm pp (hport s p) := by
  exact hport_updHPort_same s p _

theorem hport_upState_other (pm pp : Nat) {q : Nat} (h : q ≠ p) : hport (upState s p pm pp) q = hport s q := by
  exact hport_updHPort_other s p q _ h

end

section
variable {s : State} {p : Nat}

/-- A port in another state after it was UP. -/
def leftUp (st : Nat) (h : HPort) : HPort := { h with state := st, attempts := 0 }

/-- The state once a port has left UP, the loss of a used port aside. -/
def leftState (s : State) (p st : Nat) : State :=
  rewriteCap (raise (updHPort s p (leftUp st)) 0x0604 (8 + p / 8) p none)

theorem hport_leftState_same (s : State) (p st : Nat) : hport (leftState s p st) p = leftUp st (hport s p) :=
  hport_updHPort_same s p (leftUp st)

/-- A port that leaves UP: what it changes, and that only a used port's loss reaches the RUN (10 R360, R377). -/
theorem leaveUp_of_up (hup : (hport s p).state = 2) (st : Nat) :
    ∃ r f e, leaveUp s p st = { leftState s p st with run := r, stop := f, stepErr := e } ∧
      (usedPort s p = false → f = s.stop ∧ r = s.run) ∧
      (usedPort s p = true → r.portLost = true ∧
        (s.jobState = 3 → s.stop.wanted = false → s.stop.stage = 0 → f.wanted = true ∧ f.event = 0x0604 ∧ e = true)) := by
  have hu : usedPort (leftState s p st) p = usedPort s p := rfl
  unfold leaveUp
  rw [if_neg (by simp [hup])]
  change ∃ r f e, (if !usedPort (leftState s p st) p then leftState s p st else _) = _ ∧ _
  rw [hu]
  cases hused : usedPort s p with
  | false => exact ⟨s.run, s.stop, s.stepErr, rfl, fun _ => ⟨rfl, rfl⟩, fun h => absurd h (by decide)⟩
  | true =>
    rw [if_neg (by decide)]
    dsimp only
    split
    · rename_i h2
      refine ⟨_, _, _, rfl, fun h => absurd h (by decide), fun _ => ⟨rfl, fun h3 => ?_⟩⟩
      have h2 : (decide (s.jobState = 2) && decide (s.stop.stage = 0)) = true := h2
      simp [h3] at h2
    · rw [wantStop_parts]
      refine ⟨_, _, _, rfl, fun h => absurd h (by decide), fun _ => ⟨rfl, fun h3 hw hst => ?_⟩⟩
      exact wantStop_wanted (s := { leftState s p st with run := _ }) h3 hw hst 0x0604

end

/-- Settles O34. -/
theorem portsComeUpAndGoDown : Obligations.PortsComeUpAndGoDown := by
  unfold Obligations.PortsComeUpAndGoDown
  intro s p hp
  refine ⟨fun pm pp hm hq h => ?_, fun pm pp hs he ho hm hq hseen hl => ?_, fun hs ha => ?_, fun hs ha => ?_,
    fun hs he hh h1 h3 => ?_, fun hs => ?_⟩
  · rw [exec_portUp, execPortUp_closed hm hq h]
  · rw [exec_portUp, execPortUp_open hp hs he ho hm hq hseen hl]
    have hmem : evNow s 0x0607 (8 + p / 8) p none ∈ (upState s p pm pp).evs :=
      List.mem_append_right _ (List.mem_singleton.2 rfl)
    cases hb : (hport s p).before with
    | none =>
      exact ⟨_, rfl, fun q hq => hport_upState_other pm pp hq, hport_upState_same pm pp, rfl, hmem, fun _ => ⟨rfl, rfl⟩,
        fun b h => absurd h (by simp)⟩
    | some b =>
      by_cases hbq : b = (pm, pp)
      · refine ⟨_, congrArg _ (if_neg (not_not.2 hbq)), fun q hq => hport_upState_other pm pp hq,
          hport_upState_same pm pp, rfl, hmem, fun _ => ⟨rfl, rfl⟩, fun c hc hne => ?_⟩
        injection hc with hc
        exact absurd (hc ▸ hbq) hne
      · refine ⟨_, congrArg _ (if_pos hbq), fun q hq => hport_upState_other pm pp hq, hport_upState_same pm pp, rfl,
          List.mem_append_left _ hmem, fun h => ?_, fun c hc hne => ⟨List.mem_append_right _ (List.mem_singleton.2 rfl),
            bitOf_reg_setBit_same _ _ (by omega)⟩⟩
        obtain h | h := h
        · exact absurd h (by simp)
        · injection h with h
          exact absurd h hbq
  · rw [exec_hofTrainFail, execHofTrainFail]
    dsimp only
    rw [if_neg (by simp [hs]; omega), if_neg (by omega)]
  · rw [exec_hofTrainFail, execHofTrainFail]
    dsimp only
    rw [if_neg (by simp [hs]; omega), if_pos (by omega)]
    refine ⟨_, rfl, ?_, rfl, bitOf_reg_setBit_same _ _ (by omega)⟩
    change hport (updHPort s p fun h => { h with state := 3, attempts := h.attempts + 1 }) p = _
    rw [hport_updHPort_same, ha]
  · rw [exec_portTrainRetry, execPortTrainRetry, if_neg (by simp [hs, he, hh]; omega), trainPort, updHPort_updHPort]
    rfl
  · rw [exec_hofPortDown, execHofPortDown, if_neg (by simp [hs]; omega)]
    cases hl : laneFailed s p with
    | true =>
      rw [if_pos rfl]
      obtain ⟨r, f, e, ht, hun, hus⟩ := leaveUp_of_up hs 3
      rw [ht]
      exact ⟨_, rfl, fun _ => hport_leftState_same s p 3, fun h => absurd h (by decide), rfl, rfl, fun _ => rfl, hun, hus⟩
    | false =>
      rw [if_neg (by decide)]
      obtain ⟨r, f, e, ht, hun, hus⟩ := leaveUp_of_up hs 1
      rw [ht]
      refine ⟨_, rfl, fun h => absurd h (by decide), fun _ => ?_, rfl, rfl, fun _ => rfl, hun, hus⟩
      exact (hport_updHPort_same (leftState s p 1) p _).trans (by rw [hport_leftState_same]; rfl)

end Sys2Proof.Machine
end

/-! ## Hurdle messages of other modules (08 R315, R317; 10 R375) -/
section
set_option Elab.async false
namespace Sys2Proof.Machine
open Sys2Proof

/-- A signal flit of one message. -/
theorem exec_signalFlit_one {s : State} {p : Nat} {m : HurMsg} (h : (p, [m]) ∈ s.inHur) :
    exec (.signalFlit p [m]) s = .next (takeHur { s with inHur := s.inHur.erase (p, [m]) } m) := by
  have e : exec (.signalFlit p [m]) s = execSignalFlit p [m] s := rfl
  rw [e, execSignalFlit, if_neg (by simpa using h)]
  rfl

section
variable {u : State} {m : HurMsg}

/-- An add for another module goes on by the route table. -/
theorem takeHur_routed (hr : m.reserved = 0) (hk : m.kind = 1) (ht : bits m.address 27 18 ≠ u.moduleId) {q : Nat}
    (hq : routeOf u (bits m.address 27 18) = some q) : takeHur u m = queueHur u q m := by
  unfold takeHur
  dsimp only
  rw [if_neg (by omega), if_pos (by simp [hk, ht, hr]), hq]

variable (hr : m.reserved = 0) (h1 : m.kind = 1 → bits m.address 27 18 = u.moduleId) (hlo : 1 ≤ m.kind)
  (hhi : m.kind ≤ 3)
include hr h1 hlo hhi

/-- A message that stays in this module, by the checks of R317 in order. -/
theorem takeHur_here : takeHur u m =
    if m.job ≠ jobNo u || u.course.isNone then hurDiscard u 1 0x0304
    else if m.run ≠ u.runNo % 65536 then hurDiscard u 0 0x0303
    else if addrReserved m.address || (m.kind = 1 && addrAbsent u m.address) then hurDiscard u 2 0x0302
    else if m.kind = 1 then sendAdd u 104 (addrCtr m.address) (BitVec.ofNat 32 m.value) none
    else if m.kind = 2 then { u with jobUp := u.jobUp.upd 0 (bits m.address 11 0) (· + BitVec.ofNat 32 m.value) }
    else (childPorts u).foldl (fun s q => queueHur s q m)
      { u with jobDown := u.jobDown ++ [(bits m.address 11 0, BitVec.ofNat 32 m.value)] } := by
  have hthere : (decide (m.kind = 1) && decide (bits m.address 27 18 ≠ u.moduleId) && decide (m.reserved = 0)) = false := by
    by_cases hk : m.kind = 1
    · simp [h1 hk]
    · simp [hk]
  unfold takeHur
  dsimp only
  rw [if_neg (by omega), hthere, if_neg (by decide), if_neg (by simp [hr]; omega)]
  obtain hk | hk | hk : m.kind = 1 ∨ m.kind = 2 ∨ m.kind = 3 := by omega
  all_goals rw [hk]; rfl

theorem takeHur_otherJob (hj : m.job ≠ jobNo u ∨ u.course = none) : takeHur u m = hurDiscard u 1 0x0304 := by
  rw [takeHur_here hr h1 hlo hhi, if_pos]
  simpa using hj

variable (hj : m.job = jobNo u) (hc : u.course.isSome = true)
include hj hc

theorem takeHur_otherRun (hn : m.run ≠ u.runNo % 65536) : takeHur u m = hurDiscard u 0 0x0303 := by
  rw [takeHur_here hr h1 hlo hhi, if_neg (by simpa [hj] using Option.isSome_iff_ne_none.1 hc), if_pos hn]

variable (hn : m.run = u.runNo % 65536)
include hn

theorem takeHur_reserved (ha : addrReserved m.address = true) : takeHur u m = hurDiscard u 2 0x0302 := by
  rw [takeHur_here hr h1 hlo hhi, if_neg (by simpa [hj] using Option.isSome_iff_ne_none.1 hc), if_neg (not_not.2 hn),
    if_pos (by simp [ha])]

theorem takeHur_applies (ha : addrReserved m.address = false) (hab : m.kind = 1 → addrAbsent u m.address = false) :
    takeHur u m =
      if m.kind = 1 then sendAdd u 104 (addrCtr m.address) (BitVec.ofNat 32 m.value) none
      else if m.kind = 2 then { u with jobUp := u.jobUp.upd 0 (bits m.address 11 0) (· + BitVec.ofNat 32 m.value) }
      else (childPorts u).foldl (fun s q => queueHur s q m)
        { u with jobDown := u.jobDown ++ [(bits m.address 11 0, BitVec.ofNat 32 m.value)] } := by
  rw [takeHur_here hr h1 hlo hhi, if_neg (by simpa [hj] using Option.isSome_iff_ne_none.1 hc), if_neg (not_not.2 hn),
    if_neg (by simpa [ha] using hab)]

end

/-- Settles O37, by the checks in their order (log 52). -/
theorem linkHurdleMessages : Obligations.LinkHurdleMessages := by
  unfold Obligations.LinkHurdleMessages
  intro s p m u hin hu hr
  have hx : exec (.signalFlit p [m]) s = .next (takeHur u m) := by rw [exec_signalFlit_one hin, ← hu]
  have hmod : u.moduleId = s.moduleId := by rw [hu]
  have hcourse : u.course = s.course := by rw [hu]
  have hjob : jobNo u = jobNo s := by unfold jobNo; rw [hcourse]
  have hrun : u.runNo = s.runNo := by rw [hu]
  have hroute : ∀ a, routeOf u a = routeOf s a := fun a => by unfold routeOf; rw [hcourse]
  have habsent : ∀ a, addrAbsent u a = addrAbsent s a := fun a => by rw [hu]; rfl
  simp only [hx, ← hmod, ← hcourse, ← hjob, ← hrun, ← hroute, ← habsent]
  refine ⟨fun hk ht q hq => ?_, fun h1 hlo hhi => ⟨fun hj => ?_, fun hj hc => ⟨fun hn => ?_, fun hn =>
    ⟨fun ha => ?_, fun ha => ⟨fun hk hab hv => ?_, fun hk => ?_, fun hk hp => ?_⟩⟩⟩⟩⟩
  · rw [takeHur_routed hr hk ht hq]
  · rw [takeHur_otherJob hr h1 hlo hhi hj]
  · rw [takeHur_otherRun hr h1 hlo hhi hj hc hn]
  · rw [takeHur_reserved hr h1 hlo hhi hj hc hn ha]
  · rw [takeHur_applies hr h1 hlo hhi hj hc hn ha fun _ => hab, if_pos hk,
      sendAdd_of_ne_zero _ _ _ hv, hu]
  · rw [takeHur_applies hr h1 hlo hhi hj hc hn ha fun h => by omega, if_neg (by omega),
      if_pos hk, hu]
  · rw [takeHur_applies hr h1 hlo hhi hj hc hn ha fun h => by omega, if_neg (by omega),
      if_neg (by omega)]
    rw [hu]
    change Host.Outcome.next ((childPorts s).foldl _ _) = _
    rw [hp]
    rfl

end Sys2Proof.Machine
end

/-! ## Fields of a number -/
section
set_option Elab.async false
namespace Sys2Proof.Machine
open Sys2Proof

theorem testBit_bits (v hi lo i : Nat) : (bits v hi lo).testBit i = (decide (i < hi + 1 - lo) && v.testBit (i + lo)) := by
  rw [bits, Nat.testBit_mod_two_pow, Nat.testBit_div_two_pow]

theorem testBit_setBits {lo hi : Nat} (h : lo ≤ hi) (v x i : Nat) :
    (setBits v hi lo x).testBit i = if lo ≤ i ∧ i ≤ hi then x.testBit (i - lo) else v.testBit i := by
  obtain ⟨w, rfl⟩ := Nat.exists_eq_add_of_le h
  simpa only [bitOf_eq_testBit] using bitOf_setBits v lo w x i

/-- A field written and read. -/
theorem bits_setBits_self {lo hi : Nat} (h : lo ≤ hi) (v x : Nat) :
    bits (setBits v hi lo x) hi lo = x % 2 ^ (hi + 1 - lo) := by
  refine Nat.eq_of_testBit_eq fun i => ?_
  rw [testBit_bits, testBit_setBits h, Nat.testBit_mod_two_pow]
  by_cases hi' : i < hi + 1 - lo
  · rw [if_pos (by omega), Nat.add_sub_cancel]
  · simp [hi']

/-- A field read that another field's write does not meet. -/
theorem bits_setBits_other {a b lo hi : Nat} (h : lo ≤ hi) (hd : b < lo ∨ hi < a) (v x : Nat) :
    bits (setBits v hi lo x) b a = bits v b a := by
  refine Nat.eq_of_testBit_eq fun i => ?_
  rw [testBit_bits, testBit_bits, testBit_setBits h]
  by_cases hi' : i < b + 1 - a
  · rw [if_neg (by omega)]
  · simp [hi']

theorem bits_mod {a b n : Nat} (h : b < n) (v : Nat) : bits (v % 2 ^ n) b a = bits v b a := by
  refine Nat.eq_of_testBit_eq fun i => ?_
  rw [testBit_bits, testBit_bits, Nat.testBit_mod_two_pow]
  by_cases hi' : i < b + 1 - a
  · simp [show i + a < n by omega]
  · simp [hi']

theorem putFields_nil (v : Nat) : putFields v [] = v := by
  rw [putFields, List.foldl_nil]

theorem putFields_cons (v hi lo x : Nat) (l : List (Nat × Nat × Nat)) :
    putFields v ((hi, lo, x) :: l) = putFields (setBits v hi lo x) l := by
  rw [putFields, List.foldl_cons, putFields]

@[simp] theorem bits_zero (hi lo : Nat) : bits 0 hi lo = 0 := by simp [bits]

theorem bitOf_eq_bits (v i : Nat) : bitOf v i = (bits v i i == 1) := by
  rw [bitOf, bits, Nat.add_sub_cancel_left, pow_one]

@[simp] theorem b2n_mod_two (b : Bool) : b2n b % 2 = b2n b := by cases b <;> rfl

@[simp] theorem b2n_beq_one (b : Bool) : (b2n b == 1) = b := by cases b <;> rfl

end Sys2Proof.Machine
end

/-! ## The flit that a slot carries (10 R361 to R368, R375) -/
section
set_option Elab.async false
namespace Sys2Proof.Machine
open Sys2Proof

/-- Bits of a link word: fields written and read. -/
theorem readLink_linkBits (l : LinkWord) (n : Nat) (h : 95 < n) :
    readLink (linkBits l % 2 ^ n) =
      { seq := l.seq % 4096, ack := l.ack % 4096, nak := l.nak, type := l.type % 8, cls := l.cls % 2, dst := l.dst % 1024
        src := l.src % 1024, cr0 := l.cr0 % 128, cr1 := l.cr1 % 128, reserved := 0, job := l.job % 2 ^ 32 } := by
  unfold readLink
  simp only [bitOf_eq_bits]
  simp (disch := omega) only [bits_mod]
  unfold linkBits
  simp only [putFields_cons, putFields_nil]
  simp (disch := omega) only [bits_setBits_self, bits_setBits_other, bits_zero]
  have hnak : (b2n l.nak % 2 ^ (24 + 1 - 24) == 1) = l.nak := by cases l.nak <;> rfl
  rw [hnak]
  rfl

theorem readLink_flitBytes {l : LinkWord} (rest : List Byte) (h1 : l.seq < 4096) (h2 : l.ack < 4096) (h3 : l.type < 8)
    (h4 : l.cls < 2) (h5 : l.dst < 1024) (h6 : l.src < 1024) (h7 : l.cr0 < 128) (h8 : l.cr1 < 128)
    (h9 : l.reserved = 0) (h10 : l.job < 2 ^ 32) : readLink (ofLe ((flitBytes l rest).take 12)) = l := by
  have e : (flitBytes l rest).take 12 = leBytes 12 (linkBits l) := by
    unfold flitBytes
    dsimp only
    rw [List.append_assoc]
    exact List.take_left' (by simp)
  rw [e, ofLe_leBytes, show (256 : Nat) ^ 12 = 2 ^ 96 by norm_num, readLink_linkBits l 96 (by omega),
    Nat.mod_eq_of_lt h1, Nat.mod_eq_of_lt h2, Nat.mod_eq_of_lt h3, Nat.mod_eq_of_lt h4, Nat.mod_eq_of_lt h5,
    Nat.mod_eq_of_lt h6, Nat.mod_eq_of_lt h7, Nat.mod_eq_of_lt h8, Nat.mod_eq_of_lt h10, ← h9]

theorem exec_flitSlot (p : Nat) (s : State) : exec (.flitSlot p) s = execFlitSlot p s := rfl

theorem space_updSpace_same (h : HPort) (k : Nat) (f : Space → Space) : space (updSpace h k f) k = f (space h k) :=
  Table.get_upd_same _ _ _ _

theorem countResend_parts (s : State) (p : Nat) :
    (countResend s p).ports = s.ports ∧ (countResend s p).mem = s.mem := by
  unfold countResend
  dsimp only
  split
  · rw [requestTest_parts]
    exact ⟨rfl, rfl⟩
  · exact ⟨rfl, rfl⟩

/-- A port that has sent a flit of its replay buffer again (10 R365). -/
def againPort (k : Nat) (f : Nat × List Byte) (h : HPort) : HPort :=
  { updSpace h k (fun x => { x with again := x.again.erase f.1 }) with slot := h.slot + 1, sent := some f.2 }

theorem space_againPort (k : Nat) (f : Nat × List Byte) (h : HPort) :
    space (againPort k f h) k = { space h k with again := (space h k).again.erase f.1 } :=
  space_updSpace_same h k (fun x => { x with again := x.again.erase f.1 })

theorem hport_sendAgain (s : State) (p k : Nat) (f : Nat × List Byte) :
    hport (sendAgain s p k f) p = againPort k f (hport s p) := by
  unfold sendAgain hport
  rw [(countResend_parts ..).1]
  exact hport_updHPort_same s p (againPort k f)

theorem sendAgain_mem (s : State) (p k : Nat) (f : Nat × List Byte) : (sendAgain s p k f).mem = s.mem :=
  (countResend_parts ..).2

/-- The link word of a new flit of a space. -/
def newWord (k : Nat) (f : Flit) (h : HPort) : LinkWord := { stamped h k f with seq := (space h k).next }

/-- The bytes of a new flit, enciphered under the link key (10 R364, R368). -/
def newBytes (s : State) (p k : Nat) (f : Flit) (h : HPort) : List Byte :=
  flitBytes (newWord k f h) (gcmSeal (linkKey s) (flitIv s.moduleId p h.counter) (flitAad (newWord k f h)) (sized 224 f.body))

/-- A new flit of a space takes its place in the replay buffer; everything else of the port but its slot, its
counter, its credits to return and its requests' starts is as before. -/
theorem sendNew_port (s : State) (p k : Nat) (f : Flit) (h : HPort) :
    sendNew s p k f h = { s with ports := (sendNew s p k f h).ports, regs := (sendNew s p k f h).regs } ∧
    (hport (sendNew s p k f h) p).sent = some (newBytes s p k f h) ∧
    (hport (sendNew s p k f h) p).slot = h.slot + 1 ∧ (hport (sendNew s p k f h) p).counter = h.counter + 1 ∧
    (hport (sendNew s p k f h) p).hurQ = h.hurQ ∧ (hport (sendNew s p k f h) p).txQ = h.txQ ∧
    (hport (sendNew s p k f h) p).credit0 = h.credit0 ∧ (hport (sendNew s p k f h) p).credit1 = h.credit1 ∧
    (space (hport (sendNew s p k f h) p) k).unacked = (space h k).unacked ++ [((space h k).next, newBytes s p k f h)] ∧
    (space (hport (sendNew s p k f h) p) k).next = ((space h k).next + 1) % 4096 := by
  let x := updSpace (returned h k) k (fun x =>
    { x with next := (x.next + 1) % 4096, unacked := x.unacked ++ [((space h k).next, newBytes s p k f h)] })
  have hport_eq : hport (sendNew s p k f h) p = { x with
      counter := x.counter + 1, slot := x.slot + 1, sent := some (newBytes s p k f h)
      starts := startOf (space h k).next f ++ (x.starts.filter (fun e => e.1 ≠ (space h k).next)).take 2047 } :=
    hport_updHPort_same s p (fun _ => { x with
      counter := x.counter + 1, slot := x.slot + 1, sent := some (newBytes s p k f h)
      starts := startOf (space h k).next f ++ (x.starts.filter (fun e => e.1 ≠ (space h k).next)).take 2047 })
  have hspace : space x k = { space (returned h k) k with
      next := ((space (returned h k) k).next + 1) % 4096
      unacked := (space (returned h k) k).unacked ++ [((space h k).next, newBytes s p k f h)] } :=
    space_updSpace_same (returned h k) k (fun x =>
      { x with next := (x.next + 1) % 4096, unacked := x.unacked ++ [((space h k).next, newBytes s p k f h)] })
  have hret : space (returned h k) k = { space h k with nakDue := false } :=
    space_updSpace_same h k (fun x => { x with nakDue := false })
  rw [hport_eq]
  refine ⟨rfl, rfl, rfl, rfl, rfl, rfl, rfl, rfl, ?_, ?_⟩
  · change (space x k).unacked = _
    rw [hspace, hret]
  · change (space x k).next = _
    rw [hspace, hret]

section
variable {s : State} {p : Nat} (hp : p < 16) (hs : (hport s p).state = 2)
include hp hs

theorem flitSlot_again {k : Nat} {f : Nat × List Byte} {rest : List (Nat × List Byte)}
    (h : (hport s p).slot % 32 = 31 ∧ k = 1 ∨ (hport s p).slot % 32 ≠ 31 ∧ k = 0 ∧ (hport s p).ctlQ = [])
    (ha : toResend (hport s p) k = f :: rest) : execFlitSlot p s = .next (sendAgain s p k f) := by
  unfold execFlitSlot
  rw [if_neg (by simp [hs]; omega)]
  obtain ⟨h31, rfl⟩ | ⟨h31, rfl, hc⟩ := h
  · rw [if_pos h31, ha]
  · rw [if_neg h31, hc, ha]

theorem flitSlot_signalIdle (h31 : (hport s p).slot % 32 = 31) (ha : toResend (hport s p) 1 = [])
    (h : (hport s p).hurQ = [] ∨ s.keys.link = none ∨ 2048 ≤ (space (hport s p) 1).unacked.length) :
    execFlitSlot p s = .next (sendPlain s p 1 {} (hport s p)) := by
  unfold execFlitSlot
  rw [if_neg (by simp [hs]; omega), if_pos h31, ha]
  exact if_pos (by simpa [or_assoc] using h)

theorem flitSlot_signal (h31 : (hport s p).slot % 32 = 31) (ha : toResend (hport s p) 1 = [])
    (hq : (hport s p).hurQ ≠ []) (hk : s.keys.link.isSome = true) (hr : (space (hport s p) 1).unacked.length < 2048) :
    execFlitSlot p s = .next (sendNew s p 1 { type := 3, src := s.moduleId, dst := (hport s p).peerModule, job := jobNo s
                                              body := ((hport s p).hurQ.take 14).flatMap hurBytes }
      { hport s p with hurQ := (hport s p).hurQ.drop 14 }) := by
  unfold execFlitSlot
  rw [if_neg (by simp [hs]; omega), if_pos h31, ha]
  exact if_neg (by simpa [hq, hr, Option.isSome_iff_ne_none] using hk)

variable (h31 : (hport s p).slot % 32 ≠ 31)
include h31

theorem flitSlot_control {b : List Byte} {rest : List (List Byte)} (hc : (hport s p).ctlQ = b :: rest) :
    execFlitSlot p s = .next (sendPlain s p 0
      { type := 4, dst := (hport s p).peerModule, src := s.moduleId, body := b } { hport s p with ctlQ := rest }) := by
  unfold execFlitSlot
  rw [if_neg (by simp [hs]; omega), if_neg h31, hc]

variable (hc : (hport s p).ctlQ = []) (ha : toResend (hport s p) 0 = [])
include hc ha

theorem flitSlot_idle (h : ∀ f ∈ (hport s p).txQ, (if f.cls = 0 then (hport s p).credit0 else (hport s p).credit1) = 0) :
    execFlitSlot p s = .next (sendPlain s p 0 {} (hport s p)) := by
  have hn : nextFlit (hport s p) (hport s p).txQ = none := by
    unfold nextFlit
    dsimp only
    rw [List.find?_eq_none.2]
    · rfl
    · intro f hf
      simp [h f hf]
  unfold execFlitSlot
  rw [if_neg (by simp [hs]; omega), if_neg h31, hc, ha, hn]

theorem flitSlot_message {f : Flit} {rest : List Flit} (hq : (hport s p).txQ = f :: rest)
    (hk : s.keys.link.isSome = true) (hcr : 0 < (if f.cls = 0 then (hport s p).credit0 else (hport s p).credit1))
    (hr : (space (hport s p) 0).unacked.length < 2048) :
    execFlitSlot p s = .next (sendNew s p 0 f { hport s p with
      txQ := rest, credit0 := (hport s p).credit0 - (if f.cls = 0 then 1 else 0)
      credit1 := (hport s p).credit1 - (if f.cls = 0 then 0 else 1) }) := by
  have hn : nextFlit (hport s p) (hport s p).txQ = some (f, rest) := by
    unfold nextFlit
    dsimp only
    rw [hq, List.find?_cons_of_pos (by simp [hcr, hr])]
    simp
  unfold execFlitSlot
  rw [if_neg (by simp [hs]; omega), if_neg h31, hc, ha, hn]
  dsimp only
  rw [if_neg (by simpa [Option.isSome_iff_ne_none] using hk)]
  by_cases h0 : f.cls = 0
  · rw [if_pos h0, if_pos h0, if_pos h0, hc]
    rfl
  · rw [if_neg h0, if_neg h0, if_neg h0, hc]
    rfl

end

/-- Settles O35: a slot by its number and by what waits at the port (log 66). -/
theorem flitsOfSlots : Obligations.FlitsOfSlots := by
  unfold Obligations.FlitsOfSlots
  refine ⟨fun l rest => ⟨flitBytes_good l rest, flitBytes_length l rest, flitBytes_rest l rest,
    readLink_flitBytes rest⟩, fun s p hp hs => ?_⟩
  rw [exec_flitSlot]
  refine ⟨fun k f rest h ha => ?_, flitSlot_signalIdle hp hs, fun h31 ha hq hk hr => ?_, fun h31 =>
    ⟨fun b rest hc => flitSlot_control hp hs h31 hc, flitSlot_idle hp hs h31, fun f rest hc ha hq hk hcr hr => ?_⟩⟩
  · refine ⟨_, flitSlot_again hp hs h ha, ?_⟩
    rw [hport_sendAgain, space_againPort]
    exact ⟨rfl, rfl, rfl, rfl, rfl, fun a => by rw [sendAgain_mem]⟩
  · refine ⟨_, flitSlot_signal hp hs h31 ha hq hk hr, ?_⟩
    obtain ⟨hframe, hsent, hslot, hcounter, hhur, -, -, -, hun, hnext⟩ := sendNew_port s p 1
      { type := 3, src := s.moduleId, dst := (hport s p).peerModule, job := jobNo s
        body := ((hport s p).hurQ.take 14).flatMap hurBytes } { hport s p with hurQ := (hport s p).hurQ.drop 14 }
    exact ⟨hframe, hhur, hslot, hcounter, _, _, hsent, rfl, rfl, rfl, rfl, hun, hnext⟩
  · obtain ⟨hframe, hsent, -, hcounter, -, htx, hc0, hc1, hun, -⟩ := sendNew_port s p 0 f { hport s p with
      txQ := rest, credit0 := (hport s p).credit0 - (if f.cls = 0 then 1 else 0)
      credit1 := (hport s p).credit1 - (if f.cls = 0 then 0 else 1) }
    exact ⟨_, _, _, flitSlot_message hp hs h31 hc ha hq hk hcr hr, hframe, htx, hsent, rfl, rfl, rfl, rfl, rfl, rfl, rfl,
      hcounter, hun, hc0, hc1⟩

end Sys2Proof.Machine
end

/-! ## The memory tiers and KEEP banks (07 R272; 09 R337 to R347) -/
section
set_option Elab.async false
namespace Sys2Proof.Machine
open Sys2Proof

theorem exec_correctedWriteBack (i : Nat) (s : State) :
    exec (.correctedWriteBack i) s = execCorrectedWriteBack i s := rfl

theorem exec_patrolScrubRead (w : Nat) (s : State) : exec (.patrolScrubRead w) s = execPatrolScrubRead w s := rfl

theorem exec_memRefreshRaised (u temp : Nat) (s : State) :
    exec (.memRefreshRaised u temp) s = execMemRefreshRaised u temp s := rfl

theorem exec_refreshRateLowered (u temp : Nat) (s : State) :
    exec (.refreshRateLowered u temp) s = execRefreshRateLowered u temp s := rfl

theorem exec_bankWake (b : Nat) (s : State) : exec (.bankWake b) s = execBankWake b s := rfl

theorem exec_bankRetainTimeout (b : Nat) (s : State) :
    exec (.bankRetainTimeout b) s = execBankRetainTimeout b s := rfl

/-! ### Patrol scrub -/

/-- A codeword of `n` symbol errors, the virtual ones aside, up to 3: corrected (09 R337). -/
theorem cwOutcome_corrected {m : Memory} {cw : Nat} {e : CwErr} (hv : e.virt = false) (h1 : 1 ≤ e.syms)
    (h3 : e.syms ≤ 3) : cwOutcome m cw e = .corrected := by
  have hv0 := virtualErrors_of_not_virt cw hv
  unfold cwOutcome
  dsimp only
  rw [hv0, if_neg (by omega), if_pos (by omega), if_pos rfl]

theorem cwOutcome_bad {m : Memory} {cw : Nat} {e : CwErr} (hv : e.virt = false) (h4 : 4 ≤ e.syms)
    (h5 : e.syms ≤ 5) : cwOutcome m cw e = .bad := by
  have hv0 := virtualErrors_of_not_virt cw hv
  unfold cwOutcome
  dsimp only
  rw [hv0, if_neg (by omega), if_neg (by omega), if_pos (by omega)]

/-- A scrub step of a die whose memory is zeroised. -/
theorem execPatrolScrubRead_die {s : State} {w : Nat} (hw : w < 8) (hs : 6 ≤ s.power.stage) :
    execPatrolScrubRead w s =
      match scrubCw s w (s.scrubAt.get 0 w % scrubSpan s w) with
      | some cw => .next { scrubRead s cw with scrubAt := (scrubRead s cw).scrubAt.set w (s.scrubAt.get 0 w + 1) }
      | none => .next { s with scrubAt := s.scrubAt.set w (s.scrubAt.get 0 w + 1) } := by
  have hspan : scrubSpan s w ≠ 0 := by
    unfold scrubSpan
    rw [if_pos hw]
    omega
  unfold execPatrolScrubRead
  rw [if_neg (by simp [hspan]; omega)]
  dsimp only
  cases scrubCw s w (s.scrubAt.get 0 w % scrubSpan s w) <;> rfl

theorem scrubRead_clean {s : State} {cw : Nat} (h : CleanCw s cw) : scrubRead s cw = s := by
  unfold scrubRead
  rw [h, cwOutcome_clean]

theorem memErr_cwErr (s : State) (a bit : Nat) : (memErr s a bit).cwErr = s.cwErr := by
  unfold memErr
  dsimp only
  split <;> rfl

theorem corrected_cwErr (s : State) (a : Nat) (m : Option (List Byte)) : (corrected s a m).cwErr = s.cwErr := by
  unfold corrected
  extract_lets w s1 l s2 s3 s4 u key r
  have h1 : s1.cwErr = s.cwErr := memErr_cwErr s a 0
  have h3 : s3.cwErr = s1.cwErr := by unfold s3; split <;> rfl
  have h4 : s4.cwErr = s3.cwErr := by unfold s4; split <;> rfl
  have h5 : r.1.cwErr = s4.cwErr := rfl
  split
  · rw [requestTest_parts]; exact h5.trans (h4.trans (h3.trans h1))
  · rw [h5, h4, h3, h1]

/-- An uncorrectable codeword that the scrubber finds: only registers, events and tests that wait. -/
theorem scrubBad_parts (s : State) (cw : Nat) :
    scrubBad s cw = { s with tests := (scrubBad s cw).tests, evs := (scrubBad s cw).evs
                             evTotal := (scrubBad s cw).evTotal, regs := (scrubBad s cw).regs } := by
  unfold scrubBad
  extract_lets a d first s1 k s2 u
  have h2 : s2 = { s with regs := s2.regs } := by unfold s2; split <;> rfl
  rw [requestTest_parts, h2]
  rfl

theorem mem_evs_scrubBad (s : State) (cw : Nat) :
    evNow s 0x0504 (memDie s (64 * cw)).1 0 none ∈ (scrubBad s cw).evs := by
  unfold scrubBad
  extract_lets a d first s1 k s2 u
  have h2 : s2 = { s with regs := s2.regs } := by unfold s2; split <;> rfl
  rw [h2]
  exact mem_evs_requestTest _ _ _ (List.mem_append_right _ (List.mem_singleton.2 rfl))

/-! ### Refresh -/

theorem updDram_updDram (s : State) (u : Nat) (f g : Dram → Dram) :
    updDram (updDram s u f) u g = updDram s u (fun d => g (f d)) := by
  unfold updDram Table.upd
  dsimp only
  rw [Table.get_set_same, Table.set_set]

theorem updDram_congr {s : State} {u : Nat} {f g : Dram → Dram} (h : f (dramOf s u) = g (dramOf s u)) :
    updDram s u f = updDram s u g := by
  unfold updDram Table.upd
  exact congrArg (fun x => { s with dram := s.dram.set u x }) h

theorem refreshRate_eq (temp : Nat) : refreshRate temp = if temp ≤ 85 then 0 else if temp ≤ 95 then 1 else 2 := by
  unfold refreshRate
  split
  · rw [if_neg (by omega), if_neg (by omega)]
  · split
    · rw [if_neg (by omega), if_pos (by omega)]
    · rw [if_pos (by omega)]

section
variable {s : State} {u temp : Nat} (hu : u < 48) (hs : 5 ≤ s.power.stage)
include hu hs

theorem memRefreshRaised_higher (h : (dramOf s u).refresh < refreshRate temp) : exec (.memRefreshRaised u temp) s =
    .next (raise (updDram s u (fun d => { d with refresh := refreshRate temp, temp := temp % 256 }))
      0x0507 (dramWindow u).1 (dramWindow u).2 none) := by
  rw [exec_memRefreshRaised, execMemRefreshRaised, if_neg (by simp; omega), if_neg (by omega)]
  dsimp only
  rw [readout, updDram_updDram]

theorem memRefreshRaised_same (h : refreshRate temp = (dramOf s u).refresh) : exec (.memRefreshRaised u temp) s =
    .next (updDram s u (fun d => { d with temp := temp % 256 })) := by
  rw [exec_memRefreshRaised, execMemRefreshRaised, if_neg (by simp; omega), if_pos h, readout]

theorem refreshRateLowered_not_higher (h : refreshRate temp ≤ (dramOf s u).refresh) :
    exec (.refreshRateLowered u temp) s =
      .next (updDram s u (fun d => { d with refresh := refreshRate temp, temp := temp % 256 })) := by
  rw [exec_refreshRateLowered, execRefreshRateLowered, if_neg (by simp; omega), readout, updDram_updDram]

end

/-- Settles O32. -/
theorem tiersAndBanks : Obligations.TiersAndBanks := by
  unfold Obligations.TiersAndBanks
  refine ⟨fun s => ⟨fun i cw h => ?_, fun w hw hst hc => ?_, fun w cw hw hst hcw hv h1 => ⟨fun h3 => ?_, fun h4 h5 => ?_⟩,
    fun u h => ?_, fun u temp hu hst => ⟨memRefreshRaised_higher hu hst,
      fun h => refreshRateLowered_not_higher hu hst (by omega), fun h => ⟨memRefreshRaised_same hu hst h, ?_⟩⟩,
    refreshRate_eq⟩, fun s b => ⟨fun hj hm hb => ?_, fun hj hm hb => ⟨?_, ?_⟩, fun hj => ⟨?_, ?_⟩⟩⟩
  · refine ⟨_, ?_, rfl, fun a => rfl⟩
    rw [exec_correctedWriteBack, execCorrectedWriteBack, h]
    rfl
  · rw [exec_patrolScrubRead, execPatrolScrubRead_die hw hst]
    cases scrubCw s w (s.scrubAt.get 0 w % scrubSpan s w) with
    | none => rfl
    | some cw => dsimp only; rw [scrubRead_clean (by unfold CleanCw; rw [hc]; rfl)]
  · have hr : scrubRead s cw = storeCorrected (corrected s (64 * cw) none) cw none := by
      unfold scrubRead
      rw [cwOutcome_corrected hv h1 h3]
    rw [exec_patrolScrubRead, execPatrolScrubRead_die hw hst, hcw]
    dsimp only
    rw [hr]
    refine ⟨_, rfl, fun a => ?_, ?_, fun c hc => ?_⟩
    · change memGet (corrected s (64 * cw) none).mem a = _
      rw [corrected_mem]
    · exact Table.get_drop_same _ _ _
    · exact (Table.get_drop_other _ _ _ _ hc).trans (by rw [corrected_cwErr])
  · have hr : scrubRead s cw = scrubBad s cw := by
      unfold scrubRead
      rw [cwOutcome_bad hv h4 h5]
    rw [exec_patrolScrubRead, execPatrolScrubRead_die hw hst, hcw]
    dsimp only
    rw [hr]
    refine ⟨_, rfl, fun a => ?_, ?_, ?_, mem_evs_scrubBad s cw⟩
    · rw [scrubBad_parts]
    · rw [scrubBad_parts]
    · rw [scrubBad_parts]
  · have e : exec (.dramRefresh u) s = execDramRefresh u s := rfl
    rw [e, execDramRefresh, if_neg (by rw [h]; decide)]
  · rw [refreshRateLowered_not_higher hu hst (by omega), updDram_congr]
    rw [h]
  · rw [exec_bankWake, execBankWake, if_pos (by simp [hj, hm]), wakeBank, if_pos hb]
  · rw [exec_bankRetainTimeout, execBankRetainTimeout, if_pos (by simp [hj, hm, hb])]
  · rw [exec_bankWake, execBankWake, if_pos (by simp [hj, hm]), wakeBank, if_neg (by omega)]
  · rw [exec_bankWake, execBankWake, if_neg (by simp [hj])]
  · rw [exec_bankRetainTimeout, execBankRetainTimeout, if_neg (by simp [hj])]

end Sys2Proof.Machine
end

/-! ## Remote windows (07 R286 to R291; 10 R373) -/
section
set_option Elab.async false
namespace Sys2Proof.Machine
open Sys2Proof

/-- A saturating counter field of a register, raised. -/
theorem bits_reg_bump (s : State) (k n : Nat) {lo w : Nat} (hw : 0 < w) (h : lo + w ≤ 64) :
    bits (reg (bump s k lo w n) k) (lo + w - 1) lo = min (2 ^ w - 1) (bits (reg s k) (lo + w - 1) lo + n) := by
  have hpow := Nat.two_pow_pos w
  rw [bump, reg_setReg_same, bits_mod (by omega), bits_setBits_self (by omega), show lo + w - 1 + 1 - lo = w by omega,
    Nat.mod_eq_of_lt (by omega)]

/-! ### The checks of a request (07 R288) -/

section
variable {s : State} {q : WinReq}

theorem winFails_closed (h : (win s q.cluster q.window).state ≠ 1) : winFails s q = some 0 := by
  unfold winFails
  exact if_pos h

variable (h1 : (win s q.cluster q.window).state = 1)
include h1

theorem winFails_source (h : q.srcModule ≠ (win s q.cluster q.window).srcModule ∨
    q.srcJob ≠ (win s q.cluster q.window).srcJob) : winFails s q = some 1 := by
  unfold winFails
  dsimp only
  rw [if_neg (not_not.2 h1), if_pos (by simpa using h)]

variable (hm : q.srcModule = (win s q.cluster q.window).srcModule) (hj : q.srcJob = (win s q.cluster q.window).srcJob)
include hm hj

theorem winFails_direction (h : bitOf (win s q.cluster q.window).dir (if q.write then 0 else 1) = false) :
    winFails s q = some 2 := by
  unfold winFails
  dsimp only
  rw [if_neg (not_not.2 h1), if_neg (by simp [hm, hj]), if_pos]
  cases hw : q.write <;> simpa [hw] using h

variable (hd : bitOf (win s q.cluster q.window).dir (if q.write then 0 else 1) = true)
include hd

/-- The last checks: the window's end, and its bank. -/
theorem winFails_of_dir : winFails s q =
    if 65536 * ((win s q.cluster q.window).sizeM1 + 1) < q.offset + q.length then some 3
    else if s.bankState.get 0 (6144 + 32 * q.cluster +
      (65536 * (win s q.cluster q.window).base + q.offset) / 0x400000) = 0 then some 4 else none := by
  unfold winFails
  dsimp only
  rw [if_neg (not_not.2 h1), if_neg (by simp [hm, hj]), if_neg]
  cases hw : q.write <;> simpa [hw] using hd

end

/-! ### What a request does -/

theorem exec_winRequestCheck (q : WinReq) (s : State) : exec (.winRequestCheck q) s = execWinRequestCheck q s := rfl

/-- A discarded request: only registers and its event. -/
theorem winDead_parts (s : State) (q : WinReq) (r : Nat) :
    winDead s q r = { s with regs := (winDead s q r).regs, evTotal := s.evTotal + 1
                             evs := s.evs ++ [evNow s 0x0406 (winPlace q).1 (winPlace q).2 none] } := by
  unfold winDead
  extract_lets d first s1 s2 s3
  have h2 : s2 = { s with regs := s2.regs } := by unfold s2; split <;> rfl
  have h3 : s3 = { s with regs := s3.regs } := by
    unfold s3
    rw [h2]
    rfl
  rw [h3]
  rfl

/-- The counter of discarded requests (07 R297). -/
theorem bits_reg_winDead (s : State) (q : WinReq) (r : Nat) :
    bits (reg (winDead s q r) (regKey (winPlace q).1 0xA90)) 31 0 =
      min (2 ^ 32 - 1) (bits (reg s (regKey (winPlace q).1 0xA90)) 31 0 + 1) := by
  unfold winDead
  extract_lets d first s1 s2 s3
  have h1 : bits (reg s1 (regKey d 0xA90)) 31 0 = min (2 ^ 32 - 1) (bits (reg s (regKey d 0xA90)) 31 0 + 1) :=
    bits_reg_bump s (regKey d 0xA90) 1 (lo := 0) (w := 32) (by omega) (by omega)
  have h2 : reg s2 (regKey d 0xA90) = reg s1 (regKey d 0xA90) := by
    unfold s2
    split
    · exact reg_setReg_other _ _ _ _ (regKey_ne (by omega) (by omega) (by omega))
    · rfl
  have h3 : reg s3 (regKey d 0xA90) = reg s2 (regKey d 0xA90) :=
    reg_latch_other _ _ _ _ (regKey_ne (by omega) (by omega) (by omega))
  change bits (reg s3 (regKey d 0xA90)) 31 0 = _
  rw [h3, h2, h1]

theorem wakeBank_parts (s : State) (b : Nat) : wakeBank s b = { s with bankState := (wakeBank s b).bankState } := by
  unfold wakeBank
  split <;> rfl

theorem wakeRange_parts (s : State) (a n : Nat) :
    wakeRange s a n = { s with bankState := (wakeRange s a n).bankState } := by
  unfold wakeRange
  generalize probes a n = l
  induction l generalizing s with
  | nil => rfl
  | cons p l ih =>
    rw [List.foldl_cons]
    cases bankOf (placeMap s p) p with
    | none => exact ih s
    | some b => dsimp only; rw [wakeBank_parts, ih]

theorem touch_stns (s : State) (a n : Nat) : (touch s a n).stns = s.stns := by rw [touch_parts]

theorem wakeRange_mem (s : State) (a n : Nat) : (wakeRange s a n).mem = s.mem := by rw [wakeRange_parts]

theorem wakeRange_cwErr (s : State) (a n : Nat) : (wakeRange s a n).cwErr = s.cwErr := by rw [wakeRange_parts]

theorem wakeRange_stns (s : State) (a n : Nat) : (wakeRange s a n).stns = s.stns := by rw [wakeRange_parts]

theorem openRanges_wakeRange (s : State) (a n : Nat) : openRanges (wakeRange s a n) = openRanges s := by
  rw [wakeRange_parts]; rfl

theorem murk_wakeRange {s : State} {a n : Nat} (h : ∀ r ∈ openRanges s, a + n ≤ r.1 ∨ r.1 + r.2 ≤ a) :
    murk (wakeRange s a n) a n = (wakeRange s a n, [], 0) :=
  murk_of_disjoint (by rw [openRanges_wakeRange]; exact h)

theorem readMem_wakeRange {s : State} (a n : Nat) (h : s.cwErr = []) :
    readMem (wakeRange s a n) a n = { s := touch (wakeRange s a n) a n } :=
  readMem_clean fun i _ => by unfold CleanCw; rw [wakeRange_cwErr, h]; rfl

section
variable {s : State} {q : WinReq}

theorem winUnit_dead {r : Nat} (h : winFails s q = some r) : winUnit s q = (winDead s q r, stDead, []) := by
  unfold winUnit
  rw [h]

theorem winUnit_write (h : winFails s q = none) (hw : q.write = true) :
    winUnit s q = ((writeMem (wakeRange s (winAddr s q) q.length) (winAddr s q) (q.data.take q.length)).1,
      if (writeMem (wakeRange s (winAddr s q) q.length) (winAddr s q) (q.data.take q.length)).2 then stOK else stFault,
      []) := by
  unfold winUnit
  simp only [h]
  exact if_pos hw

theorem winUnit_read (h : winFails s q = none) (hw : q.write = false)
    (hr : ∀ r ∈ openRanges s, winAddr s q + q.length ≤ r.1 ∨ r.1 + r.2 ≤ winAddr s q) (hc : s.cwErr = []) :
    winUnit s q = (touch (wakeRange s (winAddr s q) q.length) (winAddr s q) q.length, stOK,
      memRead s.mem (winAddr s q) q.length) := by
  have hm : murk (wakeRange s (winAddr s q) q.length) (winAddr s q) q.length = _ := murk_wakeRange hr
  have hrd := readMem_wakeRange (winAddr s q) q.length hc
  unfold winUnit
  simp only [h]
  refine (if_neg (by rw [hw]; decide)).trans ?_
  simp only [hm, hrd]
  refine Prod.ext rfl (Prod.ext rfl ?_)
  unfold memRead
  exact List.map_congr_left fun i _ => by rw [stnByte_of_clean, touch_mem, wakeRange_mem]

theorem winWaits_of_fails {r : Nat} (h : winFails s q = some r) : winWaits s q = false := by
  unfold winWaits
  simp [h]

theorem winWaits_of_none (h : winFails s q = none) : winWaits s q = changing s (winAddr s q) q.length := by
  unfold winWaits
  simp [h]

theorem modifyNth_id {α : Type} (i : Nat) (l : List α) : modifyNth (fun x => x) i l = l := by
  induction l generalizing i with
  | nil => cases i <;> rfl
  | cons x l ih =>
    cases i with
    | zero => rfl
    | succ i => exact congrArg _ (ih i)

theorem flight_updRun_id (s : State) (g e i : Nat) :
    (eng (updRun s g e i (fun x => x)) g e).flight = (eng s g e).flight := by
  unfold updRun
  rw [eng_updEng_same]
  exact modifyNth_id ..

theorem stDead_ne_stOK : stDead ≠ stOK := by decide

/-- A request that no descriptor of this module waits for. -/
theorem execWinRequestCheck_none (hw : winWaits s q = false) (hu : waitingUnit s q = none) :
    execWinRequestCheck q s = .next (winUnit s q).1 := by
  unfold execWinRequestCheck
  rw [hw, hu]
  rfl

/-- A request of this module's own descriptor: it is struck from it, with its status. -/
theorem execWinRequestCheck_own {k i : Nat} {d : DescRun} (hw : winWaits s q = false)
    (hu : waitingUnit s q = some (k, i, d)) :
    execWinRequestCheck q s = .next (
      let u := updRun (winUnit s q).1 (k / 4) (k % 4) i (fun x =>
        { x with units := x.units.erase q, taken := if q.write && (winUnit s q).2.1 = stOK then
            x.taken ++ [(winAddr s q, q.length)] else x.taken })
      let v := if (winUnit s q).2.1 = stDead then endRun u (k / 4) (k % 4) i stDead 0x0402
        else if (winUnit s q).2.1 = stFault then endRun u (k / 4) (k % 4) i stFault 0x0403 else u
      if q.write then v
      else updRun v (k / 4) (k % 4) i (fun x => keepRead x (q.offset - bits d.d.w1 58 32) (winUnit s q).2.1
        (d.d.w2 + (q.offset - bits d.d.w1 58 32)) (winUnit s q).2.2)) := by
  unfold execWinRequestCheck
  rw [hw, hu, if_neg (by decide)]
  dsimp only
  cases q.write <;> rfl

/-- One of its own that is discarded ends its descriptor with WINDOW_DEAD. -/
theorem execWinRequestCheck_ownDead {k i r : Nat} {d : DescRun} (hf : winFails s q = some r)
    (hu : waitingUnit s q = some (k, i, d)) :
    execWinRequestCheck q s = .next (
      let u := endRun (updRun (winDead s q r) (k / 4) (k % 4) i
        (fun x => { x with units := x.units.erase q })) (k / 4) (k % 4) i stDead 0x0402
      if q.write then u else updRun u (k / 4) (k % 4) i (fun x => x)) := by
  rw [execWinRequestCheck_own (winWaits_of_fails hf) hu, winUnit_dead hf]
  dsimp only
  rw [decide_eq_false stDead_ne_stOK, Bool.and_false]
  rfl

/-- One of its own that is written is noted with its descriptor. -/
theorem execWinRequestCheck_ownWritten {k i : Nat} {d : DescRun} (hf : winWaits s q = false)
    (hu : waitingUnit s q = some (k, i, d)) (hw : q.write = true) (hok : (winUnit s q).2.1 = stOK) :
    execWinRequestCheck q s = .next (updRun (winUnit s q).1 (k / 4) (k % 4) i
      (fun x => { x with units := x.units.erase q, taken := x.taken ++ [(winAddr s q, q.length)] })) := by
  rw [execWinRequestCheck_own hf hu, hok, hw]
  rfl

/-- One of its own that is read keeps its bytes for the descriptor's completion (log 64). -/
theorem execWinRequestCheck_ownRead {k i : Nat} {d : DescRun} (hf : winWaits s q = false)
    (hu : waitingUnit s q = some (k, i, d)) (hw : q.write = false) (hok : (winUnit s q).2.1 = stOK) :
    execWinRequestCheck q s = .next (updRun (updRun (winUnit s q).1 (k / 4) (k % 4) i
        (fun x => { x with units := x.units.erase q })) (k / 4) (k % 4) i (fun x =>
      { x with late := x.late ++ numbered (d.d.w2 + (q.offset - bits d.d.w1 58 32)) (winUnit s q).2.2 })) := by
  rw [execWinRequestCheck_own hf hu, hok, hw]
  rfl

end

theorem keepRead_dead (x : DescRun) (off a : Nat) (bs : List Byte) : keepRead x off stDead a bs = x := rfl

theorem keepRead_ok (x : DescRun) (off a : Nat) (bs : List Byte) :
    keepRead x off stOK a bs = { x with late := x.late ++ numbered a bs } := rfl

/-- A write changes no station. -/
theorem writeMem_stns {s : State} {a : Nat} {bs : List Byte} (h : s.cwErr = []) : (writeMem s a bs).1.stns = s.stns := by
  obtain ⟨h1, -⟩ := putMem_clean (s := touch s a bs.length) (bs := numbered a bs) fun e _ => by
    unfold CleanCw
    rw [touch_cwErr, h]
    rfl
  rw [writeMem_eq, h1, touch_parts]

/-- A write to banks that it wakes, over codewords without an error. -/
theorem writeMem_woken {s : State} {a n : Nat} {bs : List Byte} (hlen : bs.length = n) (hc : s.cwErr = []) :
    (writeMem (wakeRange s a n) a bs).2 = true ∧
    (∀ k, k < n → memGet (writeMem (wakeRange s a n) a bs).1.mem (a + k) = bs.getD k 0) ∧
    (∀ b, b < a ∨ a + n ≤ b → memGet (writeMem (wakeRange s a n) a bs).1.mem b = memGet s.mem b) ∧
    (writeMem (wakeRange s a n) a bs).1.stns = s.stns := by
  have hcw : (wakeRange s a n).cwErr = [] := (wakeRange_cwErr ..).trans hc
  obtain ⟨hok, -, hget⟩ := writeMem_clean (s := wakeRange s a n) (a := a) (bs := bs)
    fun i _ => by unfold CleanCw; rw [hcw]; rfl
  refine ⟨hok, fun k hk => ?_, fun b hb => ?_, ?_⟩
  · rw [hget, if_pos (Nat.le_add_right ..), Nat.add_sub_cancel_left, List.getD_eq_getElem?_getD,
      List.getElem?_eq_getElem (by omega)]
    rfl
  · rw [hget, wakeRange_mem]
    split
    · rw [List.getElem?_eq_none (by omega)]; rfl
    · rfl
  · rw [writeMem_stns hcw, wakeRange_stns]

/-- A request that writes, over codewords without an error: its bytes and no others. -/
theorem winUnit_write_spec {s : State} {q : WinReq} (hf : winFails s q = none) (hw : q.write = true)
    (hlen : q.data.length = q.length) (hc : s.cwErr = []) :
    (winUnit s q).2.1 = stOK ∧
    (∀ k, k < q.length → memGet (winUnit s q).1.mem (winAddr s q + k) = q.data.getD k 0) ∧
    (∀ a, a < winAddr s q ∨ winAddr s q + q.length ≤ a → memGet (winUnit s q).1.mem a = memGet s.mem a) ∧
    (winUnit s q).1.stns = s.stns := by
  have e := winUnit_write hf hw
  rw [List.take_of_length_le (Nat.le_of_eq hlen)] at e
  obtain ⟨hok, hin, hout, hstn⟩ := writeMem_woken (a := winAddr s q) hlen hc
  have e1 : (winUnit s q).1 = (writeMem (wakeRange s (winAddr s q) q.length) (winAddr s q) q.data).1 :=
    congrArg Prod.fst e
  have e2 := congrArg (fun r => r.2.1) e
  rw [← e1] at hin hout hstn
  exact ⟨e2.trans (if_pos hok), hin, hout, hstn⟩

/-- A request that reads, over codewords without an error and memory that no descriptor is writing. -/
theorem winUnit_read_spec {s : State} {q : WinReq} (hf : winFails s q = none) (hw : q.write = false)
    (hr : ∀ r ∈ openRanges s, winAddr s q + q.length ≤ r.1 ∨ r.1 + r.2 ≤ winAddr s q) (hc : s.cwErr = []) :
    (winUnit s q).2.1 = stOK ∧ (winUnit s q).2.2 = memRead s.mem (winAddr s q) q.length ∧
    SameBytes s (winUnit s q).1 ∧ (winUnit s q).1.stns = s.stns := by
  rw [winUnit_read hf hw hr hc]
  generalize winAddr s q = a
  refine ⟨rfl, rfl, fun b => ?_, ?_⟩
  · rw [touch_mem, wakeRange_mem]
  · rw [touch_stns, wakeRange_stns]

/-- Settles O30, by the checks in their order and by who waits for the answer (logs 16, 64). -/
theorem windowRequests : Obligations.WindowRequests := by
  unfold Obligations.WindowRequests
  refine ⟨?_, fun s q k i d hu => ⟨?_, ?_, ?_⟩⟩
  · rintro s q w bank rfl rfl
    refine ⟨winFails_closed, winFails_source, fun h1 hm hj => winFails_direction h1 hm hj,
      fun h1 hm hj hd => ⟨fun hlen => ?_, fun hlen => ⟨fun hb => ?_, fun hb => ?_⟩⟩, fun r d c hf hn hdc => ?_, fun hf hc => ?_,
      fun hf hc hn hcw hw hlen => ?_, fun hf hc hn hcw hw hr => ?_⟩
    · rw [winFails_of_dir h1 hm hj hd, if_pos hlen]
    · rw [winFails_of_dir h1 hm hj hd, if_neg (by omega), if_pos hb]
    · rw [winFails_of_dir h1 hm hj hd, if_neg (by omega), if_neg hb]
    · obtain ⟨rfl, rfl⟩ : d = (winPlace q).1 ∧ c = (winPlace q).2 := ⟨congrArg Prod.fst hdc, congrArg Prod.snd hdc⟩
      rw [exec_winRequestCheck, execWinRequestCheck_none (winWaits_of_fails hf) hn, winUnit_dead hf]
      have hp := winDead_parts s q r
      refine ⟨_, rfl, rfl, rfl, ?_, ?_, fun hq => ?_, bits_reg_winDead s q r⟩
      · rw [hp]
      · rw [hp]
      · unfold winPlace
        rw [if_pos hq]
        exact ⟨rfl, rfl⟩
    · rw [exec_winRequestCheck, execWinRequestCheck, if_pos (by rw [winWaits_of_none hf, hc])]
    · obtain ⟨hok, hin, hout, hstn⟩ := winUnit_write_spec hf hw hlen hcw
      exact ⟨_, execWinRequestCheck_none ((winWaits_of_none hf).trans hc) hn, hok, hin, hout, hstn⟩
    · obtain ⟨hok, hread, hmem, hstn⟩ := winUnit_read_spec hf hw hr hcw
      exact ⟨_, execWinRequestCheck_none ((winWaits_of_none hf).trans hc) hn, hok, hread, hmem, hstn⟩
  · rintro r u hf rfl
    rw [exec_winRequestCheck, execWinRequestCheck_ownDead hf hu]
    refine ⟨fun hw => by rw [if_pos hw], _, rfl, ?_⟩
    split
    · exact ⟨rfl, rfl⟩
    · exact ⟨rfl, flight_updRun_id ..⟩
  · intro hf hc hw hok
    rw [exec_winRequestCheck, execWinRequestCheck_ownWritten (by rw [winWaits_of_none hf, hc]) hu hw hok]
  · rintro a u hf hc hw hok rfl rfl
    rw [exec_winRequestCheck, execWinRequestCheck_ownRead (by rw [winWaits_of_none hf, hc]) hu hw hok]

end Sys2Proof.Machine
end

/-! ## Window messages of other modules (07 R288; 10 R373) -/
section
set_option Elab.async false
namespace Sys2Proof.Machine
open Sys2Proof

theorem exec_winWrite (p : Nat) (m : Msg) (s : State) : exec (.winWrite p m) s = execWinWrite p m s := rfl

theorem exec_winRead (p : Nat) (m : Msg) (s : State) : exec (.winRead p m) s = execWinRead p m s := rfl

theorem exec_readData (p : Nat) (m : Msg) (s : State) : exec (.readData p m) s = execReadData p m s := rfl

theorem exec_winReply (p : Nat) (m : Msg) (s : State) : exec (.winReply p m) s = execWinReply p m s := rfl

theorem exec_chunkReply (p : Nat) (m : Msg) (s : State) : exec (.chunkReply p m) s = execChunkReply p m s := rfl

theorem arrived_of_mem {s : State} {p : Nat} {m : Msg} {t : Nat} (h : (p, m) ∈ s.inbox) (ht : m.mtype = t) :
    arrived s p m t = true := by
  unfold arrived
  simp [h, ht]

theorem any_winWaits {s : State} {l : List WinReq} (h : ∀ q ∈ l, winWaits s q = false) : l.any (winWaits s) = false := by
  rw [List.any_eq_false]
  exact fun q hq => by rw [h q hq]; decide

/-! ### What the requests of a message leave as it is -/

/-- A state after some requests of a message: its windows and stations as before, its banks in use as before, no
codeword with an error, and memory as before outside of the requests that pass their checks. -/
structure AfterRequests (l : List WinReq) (s t : State) : Prop where
  wins : t.wins = s.wins
  banks : ∀ b, t.bankState.get 0 b = 0 ↔ s.bankState.get 0 b = 0
  stns : t.stns = s.stns
  clean : ∀ cw, CleanCw t cw
  mem : ∀ a, (∀ q ∈ l, winFails s q = none → a < winAddr s q ∨ winAddr s q + q.length ≤ a) →
    memGet t.mem a = memGet s.mem a

/-- A write over codewords without an error: what it changes besides memory. -/
theorem writeMem_frame {s : State} {a : Nat} {bs : List Byte} (h : ∀ cw, CleanCw s cw) :
    (writeMem s a bs).1 = { s with mem := (writeMem s a bs).1.mem, cwErr := (writeMem s a bs).1.cwErr
                                   writeBack := (writeMem s a bs).1.writeBack, reached := (writeMem s a bs).1.reached } := by
  obtain ⟨h1, -⟩ := putMem_clean (s := touch s a bs.length) (bs := numbered a bs) fun e _ => (h _).touch a _
  rw [writeMem_eq, h1, touch_parts]

theorem wakeBank_banks (s : State) (b c : Nat) :
    (wakeBank s b).bankState.get 0 c = 0 ↔ s.bankState.get 0 c = 0 := by
  unfold wakeBank
  split
  · rename_i h
    dsimp only
    rw [Table.get_set]
    split
    · rename_i hc; subst hc; omega
    · rfl
  · rfl

theorem wakeRange_banks (s : State) (a n c : Nat) :
    (wakeRange s a n).bankState.get 0 c = 0 ↔ s.bankState.get 0 c = 0 := by
  unfold wakeRange
  generalize probes a n = l
  induction l generalizing s with
  | nil => rfl
  | cons p l ih =>
    rw [List.foldl_cons]
    cases bankOf (placeMap s p) p with
    | none => exact ih s
    | some b => exact (ih _).trans (wakeBank_banks s b c)

theorem wakeRange_wins (s : State) (a n : Nat) : (wakeRange s a n).wins = s.wins := by rw [wakeRange_parts]

namespace AfterRequests
variable {l : List WinReq} {s t : State}

theorem refl (l : List WinReq) (h : ∀ cw, CleanCw s cw) : AfterRequests l s s where
  wins := rfl
  banks _ := Iff.rfl
  stns := rfl
  clean := h
  mem _ _ := rfl

theorem winAddr_eq (h : AfterRequests l s t) (q : WinReq) : winAddr t q = winAddr s q := by
  unfold winAddr win
  rw [h.wins]

theorem winFails_eq (h : AfterRequests l s t) (q : WinReq) : winFails t q = winFails s q := by
  unfold winFails win
  rw [h.wins]
  simp only [h.banks]

theorem winDead (h : AfterRequests l s t) (q : WinReq) (r : Nat) : AfterRequests l s (winDead t q r) := by
  rw [winDead_parts]
  exact ⟨h.wins, h.banks, h.stns, h.clean, h.mem⟩

theorem draw (h : AfterRequests l s t) : AfterRequests l s (draw t).1 :=
  ⟨h.wins, h.banks, h.stns, h.clean, h.mem⟩

theorem wake (h : AfterRequests l s t) (a n : Nat) : AfterRequests l s (wakeRange t a n) where
  wins := (wakeRange_wins ..).trans h.wins
  banks b := (wakeRange_banks ..).trans (h.banks b)
  stns := (wakeRange_stns ..).trans h.stns
  clean cw := by unfold CleanCw; rw [wakeRange_cwErr]; exact h.clean cw
  mem a ha := by rw [wakeRange_mem]; exact h.mem a ha

/-- A write within a request that passes its checks. -/
theorem write (h : AfterRequests l s t) {q : WinReq} (hq : q ∈ l) (hf : winFails s q = none) {bs : List Byte}
    (hlen : bs.length ≤ q.length) : AfterRequests l s (writeMem t (winAddr s q) bs).1 := by
  obtain ⟨-, hclean, hget⟩ := writeMem_clean (s := t) (a := winAddr s q) (bs := bs) fun i _ => h.clean _
  have hp := writeMem_frame (a := winAddr s q) (bs := bs) h.clean
  refine ⟨?_, fun b => ?_, ?_, fun cw => hclean cw (h.clean cw), fun a ha => ?_⟩
  · rw [hp]; exact h.wins
  · rw [hp]; exact h.banks b
  · rw [hp]; exact h.stns
  · rw [hget]
    have := ha q hq hf
    split
    · rw [List.getElem?_eq_none (by omega)]
      exact h.mem a ha
    · exact h.mem a ha

theorem unit (h : AfterRequests l s t) {q : WinReq} (hq : q ∈ l) (hw : q.write = true) :
    AfterRequests l s (winUnit t q).1 := by
  cases hf : winFails t q with
  | some r => rw [winUnit_dead hf]; exact h.winDead q r
  | none =>
    have e := congrArg Prod.fst (winUnit_write hf hw)
    rw [h.winAddr_eq] at e
    exact e ▸ (h.wake _ _).write hq ((h.winFails_eq q).symm.trans hf) (List.length_take_le ..)

theorem units (h : AfterRequests l s t) {k : List WinReq} (hk : ∀ q ∈ k, q ∈ l ∧ q.write = true) :
    AfterRequests l s (winUnits t k).1 := by
  induction k generalizing t with
  | nil => exact h
  | cons q k ih =>
    obtain ⟨hq, hw⟩ := hk q (List.mem_cons_self ..)
    exact ih (h.unit hq hw) fun r hr => hk r (List.mem_cons_of_mem _ hr)

theorem undef (h : AfterRequests l s t) {q : WinReq} (hq : q ∈ l) (hf : winFails s q = none) :
    AfterRequests l s (undefMem t (winAddr t q) q.length) := by
  rw [h.winAddr_eq]
  exact h.draw.write hq hf (by simp)

theorem dead (h : AfterRequests l s t) : AfterRequests l s (deadUnits s t l) := by
  unfold deadUnits
  have hk : ∀ q ∈ l.filter (fun q => winFails s q = none), q ∈ l ∧ winFails s q = none := fun q hq => by
    simpa using hq
  generalize l.filter (fun q => winFails s q = none) = k at hk
  induction k generalizing t with
  | nil => exact h
  | cons q k ih =>
    obtain ⟨hq, hf⟩ := hk q (List.mem_cons_self ..)
    exact ih (h.undef hq hf) fun r hr => hk r (List.mem_cons_of_mem _ hr)

end AfterRequests

theorem mem_msgUnits {m : Msg} {w : Bool} {n : Nat} {q : WinReq} (h : q ∈ msgUnits m w n) :
    q.write = w ∧ q.length = 256 := by
  unfold msgUnits at h
  obtain ⟨i, -, rfl⟩ := List.mem_map.1 h
  exact ⟨rfl, rfl⟩

section
variable {s : State} {p : Nat} {m : Msg} (hin : (p, m) ∈ s.inbox)
include hin

theorem winWrite_waits (ht : m.mtype = 1) (h : ∃ q ∈ msgUnits m true m.data.length, winWaits s q = true) :
    exec (.winWrite p m) s = .next s := by
  rw [exec_winWrite, execWinWrite, arrived_of_mem hin ht, if_neg (by decide)]
  exact if_pos (List.any_eq_true.2 h)

theorem winRead_waits (ht : m.mtype = 2) (h : ∃ q ∈ msgUnits m false m.want, winWaits s q = true) :
    exec (.winRead p m) s = .next s := by
  rw [exec_winRead, execWinRead, arrived_of_mem hin ht, if_neg (by decide)]
  exact if_pos (List.any_eq_true.2 h)

theorem exec_winWrite_of_open (ht : m.mtype = 1) (h : ∀ q ∈ msgUnits m true m.data.length, winWaits s q = false) :
    exec (.winWrite p m) s = .next (
      let r := winUnits (takeInbox s p m) (msgUnits m true m.data.length)
      replyTo (if r.2.1 = stDead then deadUnits (takeInbox s p m) r.1 (msgUnits m true m.data.length) else r.1)
        m 4 r.2.1 []) := by
  rw [exec_winWrite, execWinWrite, arrived_of_mem hin ht, if_neg (by decide)]
  exact if_neg (by rw [any_winWaits h]; decide)

theorem exec_winRead_of_open (ht : m.mtype = 2) (h : ∀ q ∈ msgUnits m false m.want, winWaits s q = false) :
    exec (.winRead p m) s =
      let r := winUnits (takeInbox s p m) (msgUnits m false m.want)
      if r.2.1 = stOK then .next (replyTo r.1 m 3 0 r.2.2) else .next (replyTo r.1 m 4 stDead []) := by
  rw [exec_winRead, execWinRead, arrived_of_mem hin ht, if_neg (by decide)]
  exact if_neg (by rw [any_winWaits h]; decide)

theorem exec_readData_of_waiting (ht : m.mtype = 3) {k i off : Nat} {d : DescRun}
    (hw : waitingTag s m.tag = some (k, i, d, off)) :
    exec (.readData p m) s = .next (answered (updRun (takeInbox s p m) (k / 4) (k % 4) i
      (fun x => keepRead x off stOK (d.d.w2 + off) m.data)) k i m.tag) := by
  have hw' : waitingTag (takeInbox s p m) m.tag = some (k, i, d, off) := hw
  rw [exec_readData, execReadData, arrived_of_mem hin ht, if_neg (by decide)]
  dsimp only
  rw [hw']

theorem exec_winReply_of_waiting (ht : m.mtype = 4) {k i off : Nat} {d : DescRun}
    (hw : waitingTag s m.tag = some (k, i, d, off)) :
    exec (.winReply p m) s =
      if m.target % 256 = stDead then
        .next (endRun (answered (takeInbox s p m) k i m.tag) (k / 4) (k % 4) i stDead 0x0402)
      else if m.target % 256 ≠ stOK then
        .next (endRun (answered (takeInbox s p m) k i m.tag) (k / 4) (k % 4) i stFault 0x0403)
      else .next (answered (takeInbox s p m) k i m.tag) := by
  have hw' : waitingTag (takeInbox s p m) m.tag = some (k, i, d, off) := hw
  rw [exec_winReply, execWinReply, arrived_of_mem hin ht, if_neg (by decide)]
  dsimp only
  rw [hw']

end

/-- Settles O31, by the type of the message (logs 16, 64). -/
theorem windowMessages : Obligations.WindowMessages := by
  unfold Obligations.WindowMessages
  intro s p m u hin hu
  obtain rfl : u = takeInbox s p m := hu
  refine ⟨⟨winWrite_waits hin, winRead_waits hin⟩, fun ht hw hne => ?_, fun ht hw hd hc => ?_, fun ht hw hok => ?_,
    fun ht hw hok => ?_, fun k i d off ht hw => ?_, fun k i d off ht hw => ⟨fun hst => ?_, fun hst => ?_, fun h1 h2 => ?_⟩,
    fun ht => ?_⟩
  · rw [exec_winWrite_of_open hin ht hw]
    dsimp only
    rw [if_neg hne]
    rfl
  · rw [exec_winWrite_of_open hin ht hw]
    dsimp only
    rw [if_pos hd, hd]
    have hk : ∀ q ∈ msgUnits m true m.data.length, q ∈ msgUnits m true m.data.length ∧ q.write = true :=
      fun q hq => ⟨hq, (mem_msgUnits hq).1⟩
    have h := ((AfterRequests.refl (s := takeInbox s p m) (msgUnits m true m.data.length)
      fun cw => by unfold CleanCw; change s.cwErr.get {} cw = {}; rw [hc]; rfl).units hk).dead
    refine ⟨_, rfl, h.stns, fun a ha => (h.mem a fun q hq hf => ?_).trans rfl⟩
    rw [(mem_msgUnits hq).2]
    exact ha q hq hf
  · rw [exec_winRead_of_open hin ht hw]
    exact if_pos hok
  · rw [exec_winRead_of_open hin ht hw]
    exact if_neg hok
  · rw [exec_readData_of_waiting hin ht hw]
    rfl
  · rw [exec_winReply_of_waiting hin ht hw, hst, if_neg stDead_ne_stOK.symm, if_neg (not_not.2 rfl)]
  · rw [exec_winReply_of_waiting hin ht hw, if_pos hst]
  · rw [exec_winReply_of_waiting hin ht hw, if_neg h2, if_pos h1]
  · rw [exec_chunkReply, execChunkReply, arrived_of_mem hin ht, if_neg (by decide)]
    refine ⟨_, rfl, rfl, fun e he => ?_⟩
    obtain ⟨x, -, rfl⟩ := List.mem_map.1 he
    simp

end Sys2Proof.Machine
end

/-! ## What a completion changes (13 R440, R443) -/
section
set_option Elab.async false
namespace Sys2Proof.Machine
open Sys2Proof

/-- A state that differs in what the host port holds: queue pairs, host memory, what is posted, what is due. -/
def OnlyHost (s t : State) : Prop :=
  t = { s with qps := t.qps, hostMem := t.hostMem, posts := t.posts, vecDue := t.vecDue }

theorem OnlyHost.refl (s : State) : OnlyHost s s := rfl

theorem OnlyHost.trans {s t u : State} (h : OnlyHost s t) (k : OnlyHost t u) : OnlyHost s u := by
  unfold OnlyHost at *
  rw [k, h]

theorem onlyHost_post (s : State) (p : Post) : OnlyHost s (post s p) := by
  unfold post
  split
  · cases p <;> rfl
  · rfl

theorem onlyHost_needVector (s : State) (v : Nat) : OnlyHost s (needVector s v) := by
  unfold needVector
  split <;> rfl

theorem onlyHost_updQp (s : State) (q : Nat) (f : Qp → Qp) : OnlyHost s (updQp s q f) := rfl

theorem onlyHost_postCq (s : State) (q cid st first result : Nat) : OnlyHost s (postCq s q cid st first result) := by
  unfold postCq
  exact ((onlyHost_post ..).trans (onlyHost_updQp ..)).trans (onlyHost_needVector ..)

theorem onlyHost_foldl {α : Type} {f : State → α → State} (h : ∀ s a, OnlyHost s (f s a)) (l : List α) (s : State) :
    OnlyHost s (l.foldl f s) := by
  induction l generalizing s with
  | nil => exact .refl s
  | cons a l ih => exact (h s a).trans (ih _)

/-- A completion changes what the host port holds, and the count of completed commands. -/
theorem onlyHost_complete (s : State) (src : Src) (st result : Nat) :
    OnlyHost { s with cmdTotal := s.cmdTotal + 1 } (complete s src st result) := by
  unfold complete
  exact ((onlyHost_updQp ..).trans (onlyHost_postCq ..)).trans
    (onlyHost_foldl (fun s a => (onlyHost_updQp s ..).trans (onlyHost_postCq ..)) _ _)

theorem complete_parts (s : State) (src : Src) (st result : Nat) :
    complete s src st result = { s with
      cmdTotal := s.cmdTotal + 1, qps := (complete s src st result).qps, hostMem := (complete s src st result).hostMem
      posts := (complete s src st result).posts, vecDue := (complete s src st result).vecDue } :=
  onlyHost_complete s src st result

/-- A host command that is taken runs (13 R447, R448). -/
theorem command_taken {s : State} {src : Src} {c : CmdClass} {supply : Bool} (h : Taken s c supply) (f : State → Out) :
    command src c supply s f = f s := by
  obtain ⟨hopen, hstate, hsupply⟩ := h
  unfold command
  rw [hopen, if_neg (by decide), hstate]
  exact if_neg (by cases supply <;> simp_all)

end Sys2Proof.Machine
end

/-! ## Clock sources, cluster clocks and the clock policy (14) -/
section
set_option Elab.async false
namespace Sys2Proof.Machine
open Sys2Proof

/-! ### Commands of the clock sources -/

theorem exec_clockSourceStable (c : ClockSrc) (s : State) :
    exec (.clockSourceStable c) s = execClockSourceStable c s := rfl

theorem exec_clkRefLoss (s : State) : exec .clkRefLoss s = execClkRefLoss s := rfl

theorem exec_clkRefRestored (s : State) : exec .clkRefRestored s = execClkRefRestored s := rfl

theorem exec_clkXtalLoss (s : State) : exec .clkXtalLoss s = execClkXtalLoss s := rfl

theorem exec_clockLossRestart (s : State) : exec .clockLossRestart s = execClockLossRestart s := rfl

/-- Two events in turn, with their bits, and new power between them. -/
theorem raise_setBit_twice (s : State) (p : Power) (k b k' b' c d u c' d' u' : Nat) (x x' : Option Nat) :
    raise (setBit { raise (setBit s k b) c d u x with power := p } k' b') c' d' u' x' =
      { s with power := p, regs := (raise (setBit { raise (setBit s k b) c d u x with power := p } k' b') c' d' u' x').regs
               evTotal := s.evTotal + 2, evs := s.evs ++ [evNow s c d u x, evNow s c' d' u' x'] } := by
  have h : (raise (setBit { raise (setBit s k b) c d u x with power := p } k' b') c' d' u' x').evs =
    s.evs ++ [evNow s c d u x, evNow s c' d' u' x'] := List.append_assoc ..
  rw [← h]
  rfl

section
variable {s : State}

theorem hostLinkDown_up (hl : s.power.linkUp = true) : execHostLinkDown s =
    .next (raise (setBit { s with power := { s.power with linkUp := false } } cmdErrKey 4) 0x0C05 15 0 none) := by
  rw [execHostLinkDown, if_neg (by simp [hl])]

/-- The fixed domain passes to the crystal, where it is good (14 R474). -/
def toXtal (s : State) : State :=
  updPower s (fun p => { p with refOk := false, refLost := true, xtalSrc := p.xtalSrc || p.xtalOk })

theorem clkRefLoss_runs (hf : s.power.fixedOn = true) (hr : s.power.refLost = false) : exec .clkRefLoss s =
    execHostLinkDown (raise (setBit (toXtal s) (regKey 10 0x700) 3) 0x0801 15 0 none) := by
  rw [exec_clkRefLoss, execClkRefLoss, if_neg (by simp [hf, hr])]
  rfl

theorem clkRefLoss_linked (hf : s.power.fixedOn = true) (hr : s.power.refLost = false) (hl : s.power.linkUp = true) :
    ∃ t, exec .clkRefLoss s = .next t ∧
      t = { s with power := { s.power with refOk := false, refLost := true, linkUp := false
                                           xtalSrc := s.power.xtalSrc || s.power.xtalOk }
                   regs := t.regs, evTotal := s.evTotal + 2
                   evs := s.evs ++ [evNow s 0x0801 15 0 none, evNow s 0x0C05 15 0 none] } ∧
      bitOf (reg t (regKey 10 0x700)) 3 = true ∧ bitOf (reg t cmdErrKey) 4 = true := by
  refine ⟨_, (clkRefLoss_runs hf hr).trans (hostLinkDown_up hl), ?_, ?_, bitOf_reg_setBit_same _ _ (by omega)⟩
  · exact raise_setBit_twice (toXtal s) _ (regKey 10 0x700) 3 cmdErrKey 4 0x0801 15 0 0x0C05 15 0 none none
  · exact (congrArg (bitOf · 3) (reg_setBit_other _ _ (regKey_ne (by omega) (by omega) (by omega)))).trans
      (bitOf_reg_setBit_same _ _ (by omega))

theorem clkXtalLoss_spare (hf : s.power.fixedOn = true) (hx : s.power.xtalOk = true) (hs : s.power.xtalSrc = false) :
    exec .clkXtalLoss s = .next (raise (setBit (updPower s (fun p => { p with xtalOk := false })) (regKey 10 0x700) 4)
      0x0803 15 0 none) := by
  rw [exec_clkXtalLoss, execClkXtalLoss, if_neg (by simp [hf, hx])]
  dsimp only
  rw [if_neg (by simp [hs])]

theorem clockLossRestart_lost (hf : s.power.fixedOn = true) (hr : s.power.refOk = false) (hx : s.power.xtalOk = false) :
    exec .clockLossRestart s = .next (updPower (cleared s) (fun p => { p with stage := 1, stopped := true, cause := 1 })) := by
  rw [exec_clockLossRestart, execClockLossRestart, if_neg (by simp [hf, hr, hx])]

end

/-! ### Pacers -/

theorem exec_pacerTargetUpdate (g : Nat) (s : State) : exec (.pacerTargetUpdate g) s = execPacerTargetUpdate g s := rfl

theorem exec_rampStep (g : Nat) (s : State) : exec (.rampStep g) s = execRampStep g s := rfl

theorem exec_droopStretch (g d : Nat) (s : State) : exec (.droopStretch g d) s = execDroopStretch g d s := rfl

theorem exec_pacThermal (g temp : Nat) (s : State) : exec (.pacThermal g temp) s = execPacThermal g temp s := rfl

theorem exec_pacTimingFloor (g : Nat) (s : State) : exec (.pacTimingFloor g) s = execPacTimingFloor g s := rfl

theorem exec_setClockPolicy (src : Src) (scope mode mhz : Nat) (s : State) :
    exec (.setClockPolicy src scope mode mhz) s = execSetClockPolicy src scope mode mhz s := rfl

/-- The limit on a cluster's clock does not read its target. -/
theorem pacerLimit_retarget (s : State) (g h : Nat) : pacerLimit (retarget s g) h = pacerLimit s h := by
  unfold pacerLimit policyLimit retarget
  by_cases hg : h = g
  · subst hg; rw [clu_updClu_same]; rfl
  · rw [clu_updClu_other _ _ _ _ hg]; rfl

theorem target_retarget (s : State) (g : Nat) : (clu (retarget s g) g).target = pacerLimit s g := by
  rw [retarget, clu_updClu_same]

theorem rampRatio_bounds (r t : Nat) : rampRatio r t ≤ r + 655 ∧ r ≤ rampRatio r t + 655 ∧
    (r < t → r < rampRatio r t ∧ rampRatio r t ≤ t) ∧ (t ≤ r → t ≤ rampRatio r t ∧ rampRatio r t ≤ r) := by
  unfold rampRatio
  split <;> omega

theorem clamp_bounds (a b c d e : Nat) : 600 ≤ max 600 (min a (min b (min c (min d e)))) ∧
    (max 600 (min a (min b (min c (min d e)))) = 600 ∨
      (max 600 (min a (min b (min c (min d e)))) ≤ a ∧ max 600 (min a (min b (min c (min d e)))) ≤ b ∧
        max 600 (min a (min b (min c (min d e)))) ≤ c ∧ max 600 (min a (min b (min c (min d e)))) ≤ d ∧
        max 600 (min a (min b (min c (min d e)))) ≤ e)) := by
  omega

theorem pacerLimit_bounds (s : State) (g : Nat) : 600 ≤ pacerLimit s g ∧
    (pacerLimit s g = 600 ∨ (pacerLimit s g ≤ policyLimit s g ∧ pacerLimit s g ≤ (clu s g).replica ∧
      pacerLimit s g ≤ (clu s g).thermal ∧ pacerLimit s g ≤ (clu s g).grant ∧ (clu s g).lowered = false ∧
      pacerLimit s g ≤ 2100)) := by
  obtain ⟨hlow, hle⟩ := clamp_bounds (policyLimit s g) (clu s g).replica (clu s g).thermal (clu s g).grant
    (if (clu s g).lowered then 600 else 2100)
  refine ⟨hlow, (Nat.eq_or_lt_of_le hlow).elim (fun h => .inl h.symm) fun hgt => .inr ?_⟩
  have hne : pacerLimit s g ≠ 600 := Nat.ne_of_gt hgt
  obtain ⟨hp, hr, ht, hg, hb⟩ := hle.resolve_left hne
  refine ⟨hp, hr, ht, hg, ?_, hb.trans (by split <;> omega)⟩
  cases hl : (clu s g).lowered with
  | true => exact absurd (Nat.le_antisymm (hb.trans_eq (if_pos hl)) hlow) hne
  | false => rfl

/-- No SET_CLOCK_POLICY waits for a ramp. -/
theorem policyDone_idle {s : State} (h : s.power.clockWait = []) : policyDone s = s := by
  unfold policyDone
  dsimp only
  rw [h]
  have hp : { s.power with clockWait := [] } = s.power := by rw [← h]
  exact congrArg (fun p => { s with power := p }) hp

theorem updClu_congr {s : State} {g : Nat} {f f' : Cluster → Cluster} (h : f (clu s g) = f' (clu s g)) :
    updClu s g f = updClu s g f' :=
  congrArg (fun c => { s with clus := s.clus.set g c }) h

section
variable {s : State} {g : Nat}

theorem rampStep_ramping (hr : (clu s g).ramping = true) (hb : (clu s g).onBoot = false)
    (hw : s.power.clockWait = []) : exec (.rampStep g) s = .next (updClu s g (fun c =>
      { c with ratio := rampRatio (clu s g).ratio (ratioOf (clu s g).target)
               ramping := rampRatio (clu s g).ratio (ratioOf (clu s g).target) ≠ ratioOf (clu s g).target })) := by
  rw [exec_rampStep, execRampStep]
  dsimp only
  rw [if_neg (by simp [hr, hb])]
  exact congrArg Host.Outcome.next (policyDone_idle hw)

theorem pacTimingFloor_stops (hl : live s g = true) (hs : 7 ≤ s.power.stage) : exec (.pacTimingFloor g) s =
    .next (wantStop (requestTest (raise s 0x0805 (g / 12) (g % 12) none) 4 g 0x0805) 0x0805) := by
  rw [exec_pacTimingFloor, execPacTimingFloor, if_neg (by simp [hl]; omega)]

theorem pacerTargetUpdate_open (hl : live s g = true) (hs : 7 ≤ s.power.stage) : ∃ r, 600 ≤ r ∧ r ≤ 2100 ∧
    exec (.pacerTargetUpdate g) s =
      .next (retarget (updClu { s with freeCtr := s.freeCtr + 1 } g (fun c => { c with replica := r })) g) := by
  refine ⟨600 + (Config.freeWord s.freeCtr).toNat % 1501, by omega, by omega, ?_⟩
  rw [exec_pacerTargetUpdate, execPacerTargetUpdate, if_neg (by simp [hl]; omega)]
  rfl

theorem droopStretch_open (hl : live s g = true) (hs : 7 ≤ s.power.stage) {depth : Nat} (h1 : 1 ≤ depth)
    (h3 : depth ≤ 3) : exec (.droopStretch g depth) s =
      .next (updClu s g (fun c => { c with stretch := max c.stretch (2 ^ (depth - 1)) })) := by
  rw [exec_droopStretch, execDroopStretch, if_neg (by simp [hl]; omega), askStretch]

theorem pacThermal_hot (hl : live s g = true) (hs : 7 ≤ s.power.stage) {temp : Nat} (h : 100 ≤ temp) :
    exec (.pacThermal g temp) s = .next (updClu (updPower
        (if s.power.thermal.get false g then s else raise s 0x0804 (g / 12) (g % 12) none)
        (fun p => { p with thermal := p.thermal.set g true })) g
      (fun c => { c with thermal := max 600 (c.thermal - 100) })) := by
  rw [exec_pacThermal, execPacThermal, if_neg (by simp [hl]; omega)]
  exact if_pos h

theorem pacThermal_cool (hl : live s g = true) (hs : 7 ≤ s.power.stage) {temp : Nat} (h : temp < 98)
    (hot : s.power.thermal.get false g = true) : exec (.pacThermal g temp) s =
      .next (updPower (updClu s g (fun c => { c with thermal := min 2100 ((clu s g).thermal + 100) }))
        (fun p => { p with thermal := p.thermal.set g (decide (min 2100 ((clu s g).thermal + 100) < 2100)) })) := by
  rw [exec_pacThermal, execPacThermal, if_neg (by simp [hl]; omega)]
  dsimp only
  rw [if_neg (by omega), if_pos (by simp [h, hot])]

theorem pacThermal_between (hl : live s g = true) (hs : 7 ≤ s.power.stage) {temp : Nat} (h1 : 98 ≤ temp)
    (h2 : temp < 100) : exec (.pacThermal g temp) s = .next s := by
  rw [exec_pacThermal, execPacThermal, if_neg (by simp [hl]; omega)]
  dsimp only
  rw [if_neg (by omega), if_neg (by simp; omega)]

/-- What a fatal fault of a cluster's timing leaves (14 R485): its event, its test, and the stop of the RUN. -/
theorem timingStop_spec (s : State) (g : Nat) :
    let t := wantStop (requestTest (raise s 0x0805 (g / 12) (g % 12) none) 4 g 0x0805) 0x0805
    evNow s 0x0805 (g / 12) (g % 12) none ∈ t.evs ∧
    (s.tests.length < 256 → (∀ x ∈ s.tests, x.kind ≠ 4 ∨ x.index ≠ g) → t.tests = s.tests ++ [⟨4, g, 0x0805⟩]) ∧
    (s.jobState = 3 → t.stepErr = true ∧ (s.stop.wanted = false → s.stop.stage = 0 →
      t.stop.wanted = true ∧ t.stop.event = 0x0805)) ∧ t.clus = s.clus ∧ SameBytes s t := by
  dsimp only
  refine ⟨?_, fun hlen hnone => ?_, fun hj => ⟨?_, fun hw hst => ?_⟩, ?_, fun a => ?_⟩
  · rw [wantStop_parts]
    exact mem_evs_requestTest 4 g 0x0805 (List.mem_append_right _ (List.mem_singleton.2 rfl))
  · rw [wantStop_parts]
    exact requestTest_tests (by simpa [raise, imp_iff_not_or] using hnone) hlen
  · rw [wantStop, if_neg (by rw [requestTest_parts]; simp [raise, hj])]
  · obtain ⟨hwant, hevent, _⟩ := wantStop_wanted (s := requestTest (raise s 0x0805 (g / 12) (g % 12) none) 4 g 0x0805)
      (by rw [requestTest_parts]; exact hj) (by rw [requestTest_parts]; exact hw) (by rw [requestTest_parts]; exact hst) 0x0805
    exact ⟨hwant, hevent⟩
  · rw [wantStop_parts, requestTest_parts]
    rfl
  · rw [wantStop_parts, requestTest_parts]
    rfl

end

/-! ### The clock policy (14 R486, R487) -/

theorem working_of_live {s : State} {g : Nat} (h : live s g = true) : g ∈ working s :=
  List.mem_filter.2 ⟨List.mem_range.2 (by unfold live at h; simp at h; omega), h⟩

theorem retarget_parts (s : State) (g : Nat) : retarget s g = { s with clus := (retarget s g).clus } := rfl

theorem clu_retarget_other (s : State) {g h : Nat} (hh : h ≠ g) : clu (retarget s g) h = clu s h :=
  clu_updClu_other s g h _ hh

/-- The regions of a list get their targets, and no other does. -/
theorem foldl_retarget (l : List Nat) (s : State) :
    (l.foldl retarget s = { s with clus := (l.foldl retarget s).clus }) ∧
    (∀ g, pacerLimit (l.foldl retarget s) g = pacerLimit s g) ∧
    (∀ g, g ∉ l → clu (l.foldl retarget s) g = clu s g) ∧
    (∀ g, g ∈ l ∨ (clu s g).target = pacerLimit s g → (clu (l.foldl retarget s) g).target = pacerLimit s g) := by
  induction l generalizing s with
  | nil => exact ⟨rfl, fun _ => rfl, fun _ _ => rfl, fun g h => h.elim (fun h => absurd h List.not_mem_nil) id⟩
  | cons k l ih =>
    obtain ⟨hparts, hlimit, hother, htarget⟩ := ih (retarget s k)
    have hl (g : Nat) : pacerLimit (retarget s k) g = pacerLimit s g := pacerLimit_retarget s k g
    rw [List.foldl_cons]
    refine ⟨hparts.trans (by rw [retarget_parts]), fun g => (hlimit g).trans (hl g), fun g hg => ?_, fun g hg => ?_⟩
    · obtain ⟨hk, hg⟩ := not_or.1 (List.mem_cons.not.1 hg)
      exact (hother g hg).trans (clu_retarget_other s hk)
    · rw [← hl g]
      by_cases hk : g = k
      · subst hk
        exact htarget g (.inr ((target_retarget s g).trans (hl g).symm))
      · refine htarget g (hg.imp (fun h => (List.mem_cons.1 h).resolve_left hk) fun h => ?_)
        rw [clu_retarget_other s hk, hl g, h]

theorem pacerLimit_congr {s t : State} {g : Nat} (hc : clu t g = clu s g) (hw : t.power.westMhz = s.power.westMhz)
    (he : t.power.eastMhz = s.power.eastMhz) : pacerLimit t g = pacerLimit s g := by
  unfold pacerLimit policyLimit
  rw [hc, hw, he]

theorem policyDone_parts (s : State) : policyDone s = { s with
    power := { s.power with clockWait := s.power.clockWait.filter (fun e => !rampsOver s e.2) }
    cmdTotal := (policyDone s).cmdTotal, qps := (policyDone s).qps, hostMem := (policyDone s).hostMem
    posts := (policyDone s).posts, vecDue := (policyDone s).vecDue } := by
  unfold policyDone
  dsimp only
  generalize s.power.clockWait.filter (fun e => rampsOver s e.2) = l
  generalize hv : updPower s _ = v
  have h : ∀ (u : State), l.foldl (fun s e => complete s e.1 stOK 0) u = { u with
      cmdTotal := (l.foldl (fun s e => complete s e.1 stOK 0) u).cmdTotal
      qps := (l.foldl (fun s e => complete s e.1 stOK 0) u).qps
      hostMem := (l.foldl (fun s e => complete s e.1 stOK 0) u).hostMem
      posts := (l.foldl (fun s e => complete s e.1 stOK 0) u).posts
      vecDue := (l.foldl (fun s e => complete s e.1 stOK 0) u).vecDue } := by
    induction l with
    | nil => exact fun _ => rfl
    | cons e l ih =>
      intro u
      rw [List.foldl_cons]
      exact (ih _).trans (by rw [complete_parts u])
  refine (h v).trans ?_
  rw [← hv]
  rfl

theorem policyDone_over {s : State} {src : Src} {k : Nat} (h : s.power.clockWait = [(src, k)])
    (ho : rampsOver s k = true) : policyDone s = complete (updPower s (fun p => { p with clockWait := [] })) src stOK 0 := by
  unfold policyDone
  dsimp only
  rw [h]
  simp [ho]

theorem policyDone_ramping {s : State} {src : Src} {k : Nat} (h : s.power.clockWait = [(src, k)])
    (ho : rampsOver s k = false) : (policyDone s).power.clockWait = [(src, k)] ∧ (policyDone s).cmdTotal = s.cmdTotal := by
  unfold policyDone
  dsimp only
  rw [h]
  simp [ho, updPower]

/-- The state with a scope's policy. -/
def withPolicy (s : State) (scope mode mhz : Nat) : State :=
  updPower s (fun p =>
    let p := if scope = 2 then p else { p with westCapped := mode = 1, westMhz := mhz }
    if scope = 1 then p else { p with eastCapped := mode = 1, eastMhz := mhz })

theorem clockWait_withPolicy (s : State) (scope mode mhz : Nat) :
    (withPolicy s scope mode mhz).power.clockWait = s.power.clockWait := by
  unfold withPolicy updPower
  dsimp only
  split <;> split <;> rfl

/-- A scope's working regions with their new targets. -/
def retargeted (s : State) (scope mode mhz : Nat) : State :=
  ((working s).filter (inScope scope)).foldl retarget (withPolicy s scope mode mhz)

theorem setClockPolicy_runs {s : State} {src : Src} {scope mode mhz : Nat} (ht : Taken s .any false) (hs : scope < 3)
    (hm : mode < 2) (hlo : 600 ≤ mhz) (hhi : mhz ≤ 2100) : exec (.setClockPolicy src scope mode mhz) s =
      .next (policyDone (updPower (retargeted s scope mode mhz)
        (fun p => { p with clockWait := p.clockWait ++ [(src, scope)] }))) := by
  rw [exec_setClockPolicy, execSetClockPolicy, command_taken ht, if_neg (by simp; omega)]
  rfl

theorem setClockPolicy_invalid {s : State} {src : Src} {scope mode mhz : Nat} (ht : Taken s .any false)
    (h : 3 ≤ scope ∨ 2 ≤ mode ∨ mhz < 600 ∨ 2100 < mhz) :
    exec (.setClockPolicy src scope mode mhz) s = .next (complete s src stInvalid 0) := by
  rw [exec_setClockPolicy, execSetClockPolicy, command_taken ht, if_pos (by simp; omega)]

theorem clkRefRestored_lost {s : State} (hf : s.power.fixedOn = true) (hr : s.power.refLost = true) :
    exec .clkRefRestored s = .next (raise
      { s with power := { s.power with refOk := true, refLost := false, xtalSrc := false } } 0x0802 15 0 none) := by
  rw [exec_clkRefRestored, execClkRefRestored, if_neg (by simp [hf, hr]), useRef]
  rfl

theorem clockSourceStable_xtal {s : State} (h : s.power.stage ≠ 0 ∨ s.power.stopped = true) :
    exec (.clockSourceStable .xtal) s = .next { s with power := { s.power with xtalOk := true } } := by
  rw [exec_clockSourceStable]
  exact if_neg (by simp; tauto)

theorem clockSourceStable_refclk {s : State} (h : s.power.stage ≠ 0 ∨ s.power.stopped = true) :
    exec (.clockSourceStable .refclk) s = if s.power.fixedOn && s.power.xtalSrc && !s.power.refLost then .next (useRef s)
      else .next { s with power := { s.power with refOk := true } } := by
  rw [exec_clockSourceStable]
  exact if_neg (by simp; tauto)

theorem pacThermal_hot_spec {s : State} {g : Nat} (hl : live s g = true) (hs : 7 ≤ s.power.stage) {temp : Nat}
    (h : 100 ≤ temp) : ∃ t, exec (.pacThermal g temp) s = .next t ∧
      clu t g = { clu s g with thermal := max 600 ((clu s g).thermal - 100) } ∧ t.power.thermal.get false g = true ∧
      (∀ h, h ≠ g → clu t h = clu s h) ∧
      (s.power.thermal.get false g = false → t.evs = s.evs ++ [evNow s 0x0804 (g / 12) (g % 12) none]) ∧
      (s.power.thermal.get false g = true → t.evs = s.evs) := by
  refine ⟨_, pacThermal_hot hl hs h, ?_⟩
  cases s.power.thermal.get false g with
  | true => exact ⟨clu_updClu_same .., Table.get_set_same .., fun h hh => clu_updClu_other _ _ _ _ hh, nofun, fun _ => rfl⟩
  | false => exact ⟨clu_updClu_same .., Table.get_set_same .., fun h hh => clu_updClu_other _ _ _ _ hh, fun _ => rfl, nofun⟩

theorem pacThermal_cool_spec {s : State} {g : Nat} (hl : live s g = true) (hs : 7 ≤ s.power.stage) {temp : Nat}
    (h : temp < 98) (hot : s.power.thermal.get false g = true) : ∃ t, exec (.pacThermal g temp) s = .next t ∧
      clu t g = { clu s g with thermal := min 2100 ((clu s g).thermal + 100) } ∧
      (t.power.thermal.get false g = true ↔ (clu s g).thermal + 100 < 2100) ∧ t.evs = s.evs := by
  refine ⟨_, pacThermal_cool hl hs h hot,
    clu_updClu_same s g (fun c => { c with thermal := min 2100 ((clu s g).thermal + 100) }), ?_, rfl⟩
  exact (iff_of_eq (congrArg (· = true) (Table.get_set_same ..))).trans (by rw [decide_eq_true_eq]; omega)

/-- A policy in range: the capped halves, the new targets, and the completion with no ramp left (14 R486, R487). -/
theorem setClockPolicy_spec {s : State} {src : Src} {scope mode mhz : Nat} (ht : Taken s .any false) (hs : scope < 3)
    (hm : mode < 2) (hlo : 600 ≤ mhz) (hhi : mhz ≤ 2100) : ∃ t, exec (.setClockPolicy src scope mode mhz) s = .next t ∧
      (scope ≠ 2 → t.power.westCapped = decide (mode = 1) ∧ t.power.westMhz = mhz) ∧
      (scope = 2 → t.power.westCapped = s.power.westCapped ∧ t.power.westMhz = s.power.westMhz) ∧
      (scope ≠ 1 → t.power.eastCapped = decide (mode = 1) ∧ t.power.eastMhz = mhz) ∧
      (scope = 1 → t.power.eastCapped = s.power.eastCapped ∧ t.power.eastMhz = s.power.eastMhz) ∧
      (∀ g, live s g = true → inScope scope g = true → (clu t g).target = pacerLimit t g) ∧
      (∀ g, inScope scope g = false → clu t g = clu s g) ∧ t.evs = s.evs ∧
      (s.power.clockWait = [] → rampsOver t scope = true → t.power.clockWait = [] ∧ t.cmdTotal = s.cmdTotal + 1) ∧
      (s.power.clockWait = [] → rampsOver t scope = false → t.power.clockWait = [(src, scope)] ∧
        t.cmdTotal = s.cmdTotal) := by
  refine ⟨_, setClockPolicy_runs ht hs hm hlo hhi, ?_⟩
  obtain ⟨hparts, hlimit, hother, htarget⟩ :=
    foldl_retarget ((working s).filter (inScope scope)) (withPolicy s scope mode mhz)
  generalize hu : retargeted s scope mode mhz = u
  rw [retargeted] at hu
  rw [hu] at hparts hlimit hother htarget
  generalize hv : updPower u (fun p => { p with clockWait := p.clockWait ++ [(src, scope)] }) = v
  have hclu (g : Nat) : clu (policyDone v) g = clu u g := by
    rw [policyDone_parts, ← hv]; rfl
  have hpol : (policyDone v).power = { (withPolicy s scope mode mhz).power with
      clockWait := (policyDone v).power.clockWait } := by
    rw [policyDone_parts, ← hv, hparts]; rfl
  have hover : rampsOver (policyDone v) scope = rampsOver v scope := by
    rw [policyDone_parts]; rfl
  have hwait : s.power.clockWait = [] → v.power.clockWait = [(src, scope)] := fun h => by
    rw [← hv, hparts]
    exact congrArg (· ++ [(src, scope)]) ((clockWait_withPolicy ..).trans h)
  have hwest : (policyDone v).power.westMhz = (withPolicy s scope mode mhz).power.westMhz := by rw [hpol]
  have heast : (policyDone v).power.eastMhz = (withPolicy s scope mode mhz).power.eastMhz := by rw [hpol]
  have hwcap : (policyDone v).power.westCapped = (withPolicy s scope mode mhz).power.westCapped := by
    rw [hpol]
  have hecap : (policyDone v).power.eastCapped = (withPolicy s scope mode mhz).power.eastCapped := by
    rw [hpol]
  rw [hwest, heast, hwcap, hecap, hover]
  refine ⟨fun h => ?_, fun h => ?_, fun h => ?_, fun h => ?_, fun g hg hin => ?_, fun g hin => ?_, ?_, fun h ho => ?_,
    fun h ho => ?_⟩
  · by_cases h1 : scope = 1 <;> simp [withPolicy, updPower, h, h1]
  · simp [withPolicy, updPower, h]
  · by_cases h2 : scope = 2 <;> simp [withPolicy, updPower, h, h2]
  · simp [withPolicy, updPower, h]
  · have hmem : g ∈ (working s).filter (inScope scope) :=
      List.mem_filter.2 ⟨working_of_live hg, hin⟩
    rw [hclu, htarget g (.inl hmem)]
    refine (hlimit g).symm.trans (pacerLimit_congr (hclu g) ?_ ?_).symm
    · rw [hwest, hparts]
    · rw [heast, hparts]
  · rw [hclu]
    exact hother g fun h => by simp [hin] at h
  · rw [policyDone_parts, ← hv, hparts]
    rfl
  · rw [policyDone_over (hwait h) ho, complete_parts, ← hv, hparts]
    exact ⟨rfl, rfl⟩
  · obtain ⟨hw, hc⟩ := policyDone_ramping (hwait h) ho
    refine ⟨hw, hc.trans ?_⟩
    rw [← hv, hparts]
    rfl

/-- Settles O53: the sources, the loss and the return of each, a region's ramp and limits, and the clock policy. -/
theorem clocksAndPacers : Obligations.ClocksAndPacers := by
  unfold Obligations.ClocksAndPacers
  refine ⟨fun s hs => ⟨?_, fun hf hx hr => ?_, fun h => ?_⟩, fun s => ⟨rfl, rfl, fun hf hr hl => clkRefLoss_linked hf hr hl,
    fun hf hr => clkRefRestored_lost hf hr, fun hf hx hsrc => ⟨_, clkXtalLoss_spare hf hx hsrc, rfl,
      bitOf_reg_setBit_same _ _ (by omega)⟩, fun hf hr hx => ⟨_, clockLossRestart_lost hf hr hx, ?_⟩⟩,
    fun s g => ⟨fun hr hb hw => ?_, fun hr => ?_, fun hl hst => ⟨pacerTargetUpdate_open hl hst,
      fun d h1 h3 => droopStretch_open hl hst h1 h3, fun temp ht => ?_, fun temp ht hot => ?_,
      fun temp h1 h2 => pacThermal_between hl hst h1 h2, ⟨_, pacTimingFloor_stops hl hst, timingStop_spec s g⟩⟩,
      target_retarget s g, pacerLimit_bounds s g⟩,
    fun s src scope mode mhz ht => ⟨fun hs hm hlo hhi => ?_, fun h => setClockPolicy_invalid ht h⟩⟩
  · exact clockSourceStable_xtal hs
  · refine (clockSourceStable_refclk hs).trans (if_pos ?_)
    simp [hf, hx, hr]
  · refine (clockSourceStable_refclk hs).trans (if_neg ?_)
    rcases h with h | h | h <;> simp [h]
  · exact ⟨rfl, rfl, rfl, rfl, rfl, rfl, rfl, rfl, rfl, rfl, rfl, rfl, rfl, rfl, fun n => rfl⟩
  · obtain ⟨hup, hdown, hrise, hfall⟩ := rampRatio_bounds (clu s g).ratio (ratioOf (clu s g).target)
    refine ⟨rampRatio (clu s g).ratio (ratioOf (clu s g).target), (rampStep_ramping hr hb hw).trans ?_, ?_⟩
    · exact congrArg Host.Outcome.next (updClu_congr rfl)
    · exact ⟨hup, hdown, hrise, hfall⟩
  · rw [exec_rampStep, execRampStep]
    exact if_pos (by simp [hr])
  · exact pacThermal_hot_spec hl hst ht
  · exact pacThermal_cool_spec hl hst ht hot
  · exact setClockPolicy_spec ht hs hm hlo hhi

end Sys2Proof.Machine
end

/-! ## The supply thresholds and the budget manager (14 R489 to R496) -/
section
set_option Elab.async false
namespace Sys2Proof.Machine
open Sys2Proof

theorem clu_policyDone (s : State) (g : Nat) : clu (policyDone s) g = clu s g := by
  rw [policyDone_parts]
  rfl

/-- A region in a ramp goes on, whichever policies wait for it. -/
theorem rampStep_ratio {s : State} {g : Nat} (hr : (clu s g).ramping = true) (hb : (clu s g).onBoot = false) :
    ∃ t, exec (.rampStep g) s = .next t ∧ (clu t g).ratio = rampRatio (clu s g).ratio (ratioOf (clu s g).target) := by
  refine ⟨_, (exec_rampStep g s).trans (if_neg (by simp [hr, hb])), ?_⟩
  refine congrArg Cluster.ratio ((clu_policyDone _ g).trans (clu_updClu_same s g _))

/-! ### Supply -/

theorem exec_pwrSupplyWarn (mv : Nat) (s : State) : exec (.pwrSupplyWarn mv) s = execPwrSupplyWarn mv s := rfl

theorem exec_supplyRiseHoldStart (mv : Nat) (s : State) :
    exec (.supplyRiseHoldStart mv) s = execSupplyRiseHoldStart mv s := rfl

theorem exec_supplyFallDuringHold (mv : Nat) (s : State) :
    exec (.supplyFallDuringHold mv) s = execSupplyFallDuringHold mv s := rfl

theorem exec_pwrSupplyClear (s : State) : exec .pwrSupplyClear s = execPwrSupplyClear s := rfl

theorem exec_pwrOvervoltage (mv : Nat) (s : State) : exec (.pwrOvervoltage mv) s = execPwrOvervoltage mv s := rfl

theorem exec_budgetSample (mv ca p10 p1000 w10 w1000 e10 e1000 : Nat) (s : State) :
    exec (.budgetSample mv ca p10 p1000 w10 w1000 e10 e1000) s =
      execBudgetSample mv ca p10 p1000 w10 w1000 e10 e1000 s := rfl

theorem exec_budgetGrantRaise (s : State) : exec .budgetGrantRaise s = execBudgetGrantRaise s := rfl

theorem exec_budgetGrantLower (s : State) : exec .budgetGrantLower s = execBudgetGrantLower s := rfl

theorem exec_pwrAlert (s : State) : exec .pwrAlert s = execPwrAlert s := rfl

theorem exec_alertRelease (s : State) : exec .alertRelease s = execAlertRelease s := rfl

section
variable {s : State} {mv : Nat}

/-- A supply warning begins (14 R491; 18 R576). -/
theorem pwrSupplyWarn_falls (hr : s.power.rails = 3) (hw : s.power.warn = false) (hm : mv < 35000) :
    exec (.pwrSupplyWarn mv) s = .next (raise (setBit
      { s with power := { s.power with mv := mv, warn := true, hold := false }
               vault := { s.vault with life := { s.vault.life with warnings := s.vault.life.warnings + 1 } } }
      pwrStatus 8) 0x0901 15 0 none) := by
  rw [exec_pwrSupplyWarn, execPwrSupplyWarn, if_neg (by simp [supplied, hr, hw, hm])]
  rfl

theorem pwrAlert_begins (hr : s.power.rails = 3) (ha : s.power.alert = false) : exec .pwrAlert s =
    .next (raise (setBit { s with power := { s.power with alert := true, alertStretch := true } } pwrStatus 9)
      0x0904 15 0 none) := by
  rw [exec_pwrAlert, execPwrAlert, if_neg (by simp [supplied, hr, ha])]
  rfl

end

/-! ### Grants -/

/-- One change of the clusters of a list, each once. -/
theorem foldl_updClu (f : Cluster → Cluster) (l : List Nat) (hl : l.Nodup) (s : State) :
    let t := l.foldl (fun s g => updClu s g f) s
    t = { s with clus := t.clus } ∧ ∀ g, clu t g = if g ∈ l then f (clu s g) else clu s g := by
  induction l generalizing s with
  | nil => exact ⟨rfl, fun g => rfl⟩
  | cons k l ih =>
    obtain ⟨hk, hl⟩ := List.nodup_cons.1 hl
    obtain ⟨hparts, hclu⟩ := ih hl (updClu s k f)
    dsimp only at hparts hclu ⊢
    rw [List.foldl_cons]
    refine ⟨hparts, fun g => (hclu g).trans ?_⟩
    by_cases hg : g = k
    · subst hg
      rw [if_neg hk, if_pos List.mem_cons_self, clu_updClu_same]
    · rw [clu_updClu_other _ _ _ _ hg]
      simp [hg]

theorem working_nodup (s : State) : (working s).Nodup := List.nodup_range.filter _

theorem mem_working_iff {s : State} {g : Nat} : g ∈ working s ↔ live s g = true := ⟨mem_working, working_of_live⟩

theorem budgetGrantRaise_below {s : State} (hb : budgetOn s = true) (h : 100 * s.power.watts < 95 * effCap s) :
    exec .budgetGrantRaise s =
      .next ((working s).foldl (fun s g => updClu s g (fun c => { c with grant := min 2100 (c.grant + 25) })) s) := by
  rw [exec_budgetGrantRaise, execBudgetGrantRaise, if_neg (by simp [hb, h])]

theorem budgetGrantLower_on {s : State} (hb : budgetOn s = true) : exec .budgetGrantLower s =
    .next (((working s).filter (lowers s)).foldl
      (fun s g => updClu s g (fun c => { c with grant := max 600 (c.grant - 25) })) s) := by
  rw [exec_budgetGrantLower, execBudgetGrantLower, if_neg (by simp [hb])]

/-! ### A sample of the budget manager (14 R495, R496) -/

/-- The power record that a sample leaves. -/
def sampledPower (s : State) (mv ca p10 p1000 w10 w1000 e10 e1000 : Nat) (back : Bool) : Power :=
  { s.power with
    mv := mv, ca := ca, p10 := p10, watts := p1000, west := w1000, east := e1000, excess := decide (effCap s < p1000)
    backstop := back, halfWest := halfOver w10 w1000, halfEast := halfOver e10 e1000
    overRaised := (s.power.overRaised || decide (effCap s < p1000)) && (decide (effCap s < p1000) || back)
    alertStretch := s.power.alertStretch && decide (s.power.alertCap < p10) }

/-- A row of the enforcement table: its bit of PWR_STATUS and its event, where it is due. -/
def rowIf (b : Bool) (k c : Nat) (s : State) : State := if b then raise (setBit s pwrStatus k) c 15 0 none else s

/-- The count of an excess or a backstop that begins. -/
def countIf (b : Bool) (s : State) : State := if b then bump s (regKey 10 0x730) 0 32 1 else s

theorem budgetSample_on {s : State} (hb : budgetOn s = true) (mv ca p10 p1000 w10 w1000 e10 e1000 : Nat) (back : Bool)
    (hback : back = (p10Over s p10 || (s.power.backstop && decide (effCap s < p10)))) :
    exec (.budgetSample mv ca p10 p1000 w10 w1000 e10 e1000) s = .next
      (rowIf (halfOver e10 e1000 && !s.power.halfEast) 12 0x0906 (rowIf (halfOver w10 w1000 && !s.power.halfWest) 12 0x0906
        (rowIf (decide (effCap s < p1000) && !s.power.overRaised) 10 0x0903
          (countIf (!s.power.excess && !s.power.backstop && (decide (effCap s < p1000) || back))
            { s with power := sampledPower s mv ca p10 p1000 w10 w1000 e10 e1000 back })))) := by
  rw [exec_budgetSample, execBudgetSample, if_neg (by simp [hb]), hback]
  rfl

/-- A state that differs in the register region and in the events raised. -/
def OnlyLogged (s t : State) : Prop := t = { s with regs := t.regs, evs := t.evs, evTotal := t.evTotal }

theorem OnlyLogged.trans {s t u : State} (h : OnlyLogged s t) (k : OnlyLogged t u) : OnlyLogged s u := by
  unfold OnlyLogged at *
  rw [k, h]

theorem rowIf_parts (b : Bool) (k c : Nat) (s : State) : OnlyLogged s (rowIf b k c s) := by
  unfold rowIf
  split <;> rfl

theorem countIf_parts (b : Bool) (s : State) : OnlyLogged s (countIf b s) := by
  unfold countIf
  split <;> rfl

theorem reg_rowIf {b : Bool} {k c : Nat} {s : State} {key : Nat} (h : key ≠ pwrStatus) :
    reg (rowIf b k c s) key = reg s key := by
  unfold rowIf
  split
  · exact reg_setBit_other s k h
  · rfl

theorem rowIf_false (k c : Nat) (s : State) : rowIf false k c s = s := rfl

theorem mem_evs_rowIf {b : Bool} {k c : Nat} {s : State} {e : Ev} (h : e ∈ s.evs) : e ∈ (rowIf b k c s).evs := by
  unfold rowIf
  split
  · exact List.mem_append_left _ h
  · exact h

theorem new_evs_rowIf (k c : Nat) (s : State) : evNow s c 15 0 none ∈ (rowIf true k c s).evs :=
  List.mem_append_right _ (List.mem_singleton.2 rfl)

theorem evNow_rowIf {b : Bool} {k c : Nat} (s : State) (x d u : Nat) (y : Option Nat) :
    evNow (rowIf b k c s) x d u y = evNow s x d u y := by
  unfold rowIf
  split <;> rfl

theorem evNow_countIf {b : Bool} (s : State) (x d u : Nat) (y : Option Nat) :
    evNow (countIf b s) x d u y = evNow s x d u y := by
  unfold countIf
  split <;> rfl

/-- What the rows of a sample leave, on the state with the sample's power record. -/
theorem sampleRows_spec {v : State} {began ex west east : Bool} :
    let t := rowIf east 12 0x0906 (rowIf west 12 0x0906 (rowIf ex 10 0x0903 (countIf began v)))
    OnlyLogged v t ∧ (began = true → bits (reg t (regKey 10 0x730)) 31 0 = min (2 ^ 32 - 1) (bits (reg v (regKey 10 0x730)) 31 0 + 1)) ∧
    (ex = true → evNow v 0x0903 15 0 none ∈ t.evs) ∧ (west = true → evNow v 0x0906 15 0 none ∈ t.evs) ∧
    (began = false → ex = false → west = false → east = false → t = v) := by
  dsimp only
  have hne : regKey 10 0x730 ≠ pwrStatus := regKey_ne (by omega) (by omega) (by omega)
  refine ⟨?_, ?_, ?_, ?_, ?_⟩
  · exact (((countIf_parts ..).trans (rowIf_parts ..)).trans (rowIf_parts ..)).trans (rowIf_parts ..)
  · rintro rfl
    rw [reg_rowIf hne, reg_rowIf hne, reg_rowIf hne]
    exact bits_reg_bump v (regKey 10 0x730) 1 (by omega) (by omega)
  · rintro rfl
    rw [← evNow_countIf (b := began) v]
    exact mem_evs_rowIf (mem_evs_rowIf (new_evs_rowIf 10 0x0903 (countIf began v)))
  · rintro rfl
    rw [← evNow_countIf (b := began) v, ← evNow_rowIf (b := ex) (k := 10) (c := 0x0903)]
    exact mem_evs_rowIf (new_evs_rowIf 12 0x0906 (rowIf ex 10 0x0903 (countIf began v)))
  · rintro rfl rfl rfl rfl
    rfl

theorem halfOver_iff (a b : Nat) : halfOver a b = true ↔ 7000 < b ∨ 8400 < a := by simp [halfOver]

theorem halfOver_false {a b : Nat} (hb : b ≤ 7000) (ha : a ≤ 8400) : halfOver a b = false := by
  simp [halfOver, hb, ha]

theorem budgetSample_spec {s : State} (hb : budgetOn s = true) (mv ca p10 p1000 w10 w1000 e10 e1000 cap : Nat) (back : Bool)
    (hcap : cap = (if s.power.alert then min s.power.cap s.power.alertCap else s.power.cap))
    (hback : back = true ↔ min (12 * cap) 160000 < 10 * p10 ∨ (s.power.backstop = true ∧ cap < p10)) :
    ∃ t, exec (.budgetSample mv ca p10 p1000 w10 w1000 e10 e1000) s = .next t ∧
      t.power.mv = mv ∧ t.power.ca = ca ∧ t.power.p10 = p10 ∧ t.power.watts = p1000 ∧ t.power.west = w1000 ∧
      t.power.east = e1000 ∧ t.power.excess = decide (cap < p1000) ∧ t.power.backstop = back ∧
      (t.power.halfWest = true ↔ 7000 < w1000 ∨ 8400 < w10) ∧ (t.power.halfEast = true ↔ 7000 < e1000 ∨ 8400 < e10) ∧
      (s.power.alertStretch = true → (t.power.alertStretch = true ↔ s.power.alertCap < p10)) ∧
      (s.power.excess = false → s.power.backstop = false → (cap < p1000 ∨ back = true) →
        bits (reg t (regKey 10 0x730)) 31 0 = min (2 ^ 32 - 1) (bits (reg s (regKey 10 0x730)) 31 0 + 1)) ∧
      (cap < p1000 → s.power.overRaised = false → evNow s 0x0903 15 0 none ∈ t.evs) ∧
      ((7000 < w1000 ∨ 8400 < w10) → s.power.halfWest = false → evNow s 0x0906 15 0 none ∈ t.evs) ∧
      (p1000 ≤ cap → back = false → w1000 ≤ 7000 → w10 ≤ 8400 → e1000 ≤ 7000 → e10 ≤ 8400 → t.evs = s.evs ∧
        t.regs = s.regs) ∧ t.clus = s.clus ∧ SameBytes s t := by
  obtain rfl : cap = effCap s := hcap
  have hb' : back = (p10Over s p10 || (s.power.backstop && decide (effCap s < p10))) := by
    rw [Bool.eq_iff_iff, hback]
    simp [p10Over]
  refine ⟨_, budgetSample_on hb mv ca p10 p1000 w10 w1000 e10 e1000 back hb', ?_⟩
  generalize hv : ({ s with power := sampledPower s mv ca p10 p1000 w10 w1000 e10 e1000 back } : State) = v
  obtain ⟨hparts, hcount, hover, hwest, hnone⟩ := sampleRows_spec (v := v)
    (began := !s.power.excess && !s.power.backstop && (decide (effCap s < p1000) || back))
    (ex := decide (effCap s < p1000) && !s.power.overRaised) (west := halfOver w10 w1000 && !s.power.halfWest)
    (east := halfOver e10 e1000 && !s.power.halfEast)
  generalize rowIf (halfOver e10 e1000 && !s.power.halfEast) 12 0x0906 _ = t at *
  have hpower : t.power = sampledPower s mv ca p10 p1000 w10 w1000 e10 e1000 back := by rw [hparts, ← hv]
  have hregs : v.regs = s.regs := by rw [← hv]
  have hev (c : Nat) : evNow v c 15 0 none = evNow s c 15 0 none := by rw [← hv]; rfl
  rw [hpower]
  refine ⟨rfl, rfl, rfl, rfl, rfl, rfl, rfl, rfl, halfOver_iff .., halfOver_iff .., fun ha => ?_, fun hx hbs h => ?_,
    fun h hr => ?_, fun h hw => ?_, fun hp hbk hw1 hw2 he1 he2 => ?_, ?_, fun a => ?_⟩
  · simp [sampledPower, ha]
  · rw [hcount (by simpa [hx, hbs] using h), reg, reg, hregs]
  · rw [← hev]
    exact hover (by simp [h, hr])
  · rw [← hev]
    exact hwest (by simp [(halfOver_iff w10 w1000).2 h, hw])
  · rw [hnone (by simp [hp, hbk]) (by simp [hp]) (by simp [halfOver_false hw1 hw2]) (by simp [halfOver_false he1 he2]), ← hv]
    exact ⟨rfl, rfl⟩
  · rw [hparts, ← hv]
  · rw [hparts, ← hv]

/-- Settles O54: the Pacers' limits and ramps, the supply thresholds, the budget manager's sample and grants, and
PWR_ALERT_N. -/
theorem supplyAndBudget : Obligations.SupplyAndBudget := by
  unfold Obligations.SupplyAndBudget
  refine ⟨fun s g hl hst => ⟨?_, fun d h1 h3 => ⟨_, droopStretch_open hl hst h1 h3, ?_⟩, fun temp ht => ?_,
      ⟨_, pacTimingFloor_stops hl hst, (timingStop_spec s g).1⟩, fun hr hb => ?_⟩,
    fun s mv => ⟨fun hr hw hm => ⟨_, pwrSupplyWarn_falls hr hw hm, rfl, bitOf_reg_setBit_same _ _ (by omega), ?_⟩,
      fun hm => ?_, fun hw hh hm => ?_, fun hm => ?_, fun hw hh hm => ?_, fun hw hh => ?_, fun hh => ?_, fun hr hm => ?_,
      fun hm => ?_⟩,
    fun s mv ca p10 p1000 w10 w1000 e10 e1000 cap back hb hcap hback =>
      budgetSample_spec hb mv ca p10 p1000 w10 w1000 e10 e1000 cap back hcap hback,
    fun s hb => ⟨fun hlow => ⟨_, budgetGrantRaise_below hb hlow, ?_⟩, fun hhigh => ?_, ⟨_, budgetGrantLower_on hb, ?_⟩⟩,
    fun s => ⟨fun hr ha => ⟨_, pwrAlert_begins hr ha, rfl, bitOf_reg_setBit_same _ _ (by omega), if_pos rfl, fun g => ?_⟩,
      fun ha => ?_, fun ha => ?_⟩⟩
  · obtain ⟨r, hlo, hhi, he⟩ := pacerTargetUpdate_open hl hst
    have hreplica : (clu (retarget (updClu { s with freeCtr := s.freeCtr + 1 } g (fun c => { c with replica := r })) g)
        g).replica = r := by rw [retarget, clu_updClu_same, clu_updClu_same]
    exact ⟨_, he, hlo.trans_eq hreplica.symm, hreplica.trans_le hhi,
      (target_retarget _ g).trans (pacerLimit_retarget _ g g).symm⟩
  · rw [clu_updClu_same]
    exact Nat.le_max_right _ _
  · obtain ⟨t, he, hc, -⟩ := pacThermal_hot_spec hl hst ht
    exact ⟨t, he, by rw [hc]⟩
  · exact rampStep_ratio hr hb
  · simp [vaultOpen, raise, setBit, setReg]
  · exact if_pos (by simp [hm])
  · exact if_neg (by simp [hw, hh, hm])
  · exact if_pos (by simp [hm])
  · exact if_neg (by simp [hw, hh, hm])
  · exact if_neg (by simp [hw, hh])
  · exact if_pos (by simp [hh])
  · exact if_neg (by simp [supplied, hr, hm])
  · exact if_pos (by simp [hm])
  · obtain ⟨hparts, hclu⟩ := foldl_updClu (fun c => { c with grant := min 2100 (c.grant + 25) }) (working s)
      (working_nodup s) s
    refine ⟨hparts, fun g => (hclu g).trans ?_⟩
    simp only [mem_working_iff]
  · exact if_pos (by simp [hhigh])
  · obtain ⟨hparts, hclu⟩ := foldl_updClu (fun c => { c with grant := max 600 (c.grant - 25) })
      ((working s).filter (lowers s)) ((working_nodup s).filter _) s
    refine ⟨hparts, fun g => (hclu g).trans ?_⟩
    simp only [List.mem_filter, mem_working_iff, Bool.and_eq_true]
    rfl
  · simp [stretched, raise, setBit, setReg]
  · exact if_neg (by simp [ha])
  · exact if_pos (by simp [ha])

end Sys2Proof.Machine
end

/-! ## LINK_CONTROL, OPEN_WINDOW and CLOSE_WINDOW (10 R378, R379; 07 R286 to R289) -/
section
set_option Elab.async false
namespace Sys2Proof.Machine
open Sys2Proof

theorem exec_linkDisable (src : Src) (p : Nat) (s : State) : exec (.linkDisable src p) s = execLinkDisable src p s := rfl

theorem exec_linkEnable (src : Src) (p : Nat) (s : State) : exec (.linkEnable src p) s = execLinkEnable src p s := rfl

theorem exec_linkRetrain (src : Src) (p : Nat) (s : State) : exec (.linkRetrain src p) s = execLinkRetrain src p s := rfl

theorem exec_linkLoopback (src : Src) (p : Nat) (s : State) :
    exec (.linkLoopback src p) s = execLinkLoopback src p s := rfl

theorem exec_linkStatus (src : Src) (p : Nat) (s : State) : exec (.linkStatus src p) s = execLinkStatus src p s := rfl

theorem exec_openWindow (src : Src) (c : WinCfg) (s : State) : exec (.openWindow src c) s = execOpenWindow src c s := rfl

theorem exec_closeWindow (src : Src) (g w : Nat) (s : State) :
    exec (.closeWindow src g w) s = execCloseWindow src g w s := rfl

theorem exec_closeWindowDone (src : Src) (g w : Nat) (s : State) :
    exec (.closeWindowDone src g w) s = execCloseWindowDone src g w s := rfl

/-! ### Ports -/

section
variable {s : State} {src : Src} {p : Nat}

theorem linkCommand_used (ht : Taken s .any false) (hp : p < 16) (hu : usedPort s p = true) (f : State → State) :
    linkCommand src p s f = .next (complete s src 0x04 0) := by
  rw [linkCommand, command_taken ht, if_neg (by omega), if_pos hu]

theorem linkCommand_free (ht : Taken s .any false) (hp : p < 16) (hu : usedPort s p = false) (f : State → State) :
    linkCommand src p s f = .next (complete (f s) src stOK 0) := by
  rw [linkCommand, command_taken ht, if_neg (by omega), if_neg (by simp [hu])]

theorem leaveUp_of_not_up (hs : (hport s p).state ≠ 2) (st : Nat) : leaveUp s p st = updHPort s p (leftUp st) :=
  if_pos (by simp [hs])

/-- A port as its bring-up starts (10 R358). -/
def training (s : State) (p : Nat) (h : HPort) : HPort :=
  { h with state := 1, attempts := 0, seen := none, sent := some (controlFlit s 0 (identityBody s p) {}) }

theorem bringUp_disabled (he : (hport s p).enabled = false) : bringUp s p = s := if_pos (by simp [he])

theorem bringUp_held (he : (hport s p).enabled = true) (hh : portHeld s p = true) : bringUp s p = leaveUp s p 3 := by
  rw [bringUp, if_neg (by simp [he]), if_pos hh]

theorem bringUp_trains (he : (hport s p).enabled = true) (hh : portHeld s p = false) :
    bringUp s p = trainPort (leaveUp s p 1) p := by
  rw [bringUp, if_neg (by simp [he]), if_neg (by simp [hh])]

theorem trainPort_leftUp (s : State) (p : Nat) : trainPort (updHPort s p (leftUp 1)) p = updHPort s p (training s p) := by
  rw [trainPort, updHPort_updHPort]
  rfl

/-- Bring-up of an enabled port that was not UP: FAILED where it is held, else in TRAINING. -/
theorem bringUp_of_not_up (he : (hport s p).enabled = true) (hs : (hport s p).state ≠ 2) :
    bringUp s p = updHPort s p (if portHeld s p then leftUp 3 else training s p) := by
  cases hh : portHeld s p with
  | true => rw [bringUp_held he hh, leaveUp_of_not_up hs]; rfl
  | false => rw [bringUp_trains he hh, leaveUp_of_not_up hs, trainPort_leftUp]; rfl

end

section
variable {s : State} {src : Src} {p : Nat}

/-- A port that is disabled. -/
def switchedOff (h : HPort) : HPort := { h with state := 0, attempts := 0, enabled := false }

/-- A port that is enabled and whose bring-up starts, or that is held FAILED. -/
def switchedOn (s : State) (p : Nat) (h : HPort) : HPort :=
  (if portHeld s p then leftUp 3 else training s p) { h with enabled := true }

/-- DISABLE of a port that was not UP. -/
theorem linkDisable_not_up (ht : Taken s .any false) (hp : p < 16) (hu : usedPort s p = false)
    (hs : (hport s p).state ≠ 2) : exec (.linkDisable src p) s = .next (complete
      { updHPort s p switchedOff with gated := s.gated.set p true }
      src stOK 0) := by
  rw [exec_linkDisable, execLinkDisable, linkCommand_free ht hp hu, leaveUp_of_not_up hs, updHPort_updHPort]
  rfl

/-- ENABLE of a port that was not UP. -/
theorem linkEnable_not_up (ht : Taken s .any false) (hp : p < 16) (hu : usedPort s p = false)
    (hs : (hport s p).state ≠ 2) : exec (.linkEnable src p) s = .next (complete
      { updHPort s p (switchedOn s p) with
        gated := s.gated.drop p } src stOK 0) := by
  rw [exec_linkEnable, execLinkEnable, linkCommand_free ht hp hu]
  dsimp only
  generalize hv : ({ updHPort s p (fun h => { h with enabled := true }) with gated := s.gated.drop p } : State) = v
  have hport_v : hport v p = { hport s p with enabled := true } := by
    rw [← hv]
    exact hport_updHPort_same s p (fun h => { h with enabled := true })
  have hheld : portHeld v p = portHeld s p := by rw [← hv]; rfl
  rw [bringUp_of_not_up (by rw [hport_v]) (by rw [hport_v]; exact hs), hheld, ← hv]
  exact congrArg (fun u : State => Host.Outcome.next (complete { u with gated := s.gated.drop p } src stOK 0))
    (updHPort_updHPort s p (fun h => { h with enabled := true }) _)

theorem linkRetrain_not_up (ht : Taken s .any false) (hp : p < 16) (hu : usedPort s p = false)
    (hs : (hport s p).state ≠ 2) (he : (hport s p).enabled = true) : exec (.linkRetrain src p) s = .next (complete
      (updHPort s p (if portHeld s p then leftUp 3 else training s p)) src stOK 0) := by
  rw [exec_linkRetrain, execLinkRetrain, linkCommand_free ht hp hu, bringUp_of_not_up he hs]

/-- A port after the loopback test, before its bring-up. -/
def looped (s : State) (p : Nat) (h : HPort) : HPort :=
  { leftUp (b2n (hport s p).enabled) h with loop := if s.defects.get 0 (12 * 65536 + p) = 0 then 1 else 2 }

theorem linkLoopback_not_up (ht : Taken s .any false) (hp : p < 16) (hu : usedPort s p = false)
    (hs : (hport s p).state ≠ 2) (he : (hport s p).enabled = true) : exec (.linkLoopback src p) s = .next (complete
      (updHPort s p (fun h => (if portHeld s p then leftUp 3 else training s p) (looped s p h))) src stOK 0) := by
  rw [exec_linkLoopback, execLinkLoopback, linkCommand_free ht hp hu, leaveUp_of_not_up hs]
  dsimp only
  rw [updHPort_updHPort]
  generalize hv : updHPort s p (looped s p) = v
  have hport_v : hport v p = looped s p (hport s p) := by
    rw [← hv, hport_updHPort_same]
  have hheld : portHeld v p = portHeld s p := by rw [← hv]; rfl
  have hbring : bringUp v p = updHPort v p (if portHeld s p then leftUp 3 else training s p) := by
    rw [bringUp_of_not_up (by rw [hport_v]; exact he) (by rw [hport_v]; change b2n (hport s p).enabled ≠ 2; rw [he]; decide), hheld, ← hv]
    rfl
  rw [← updHPort_updHPort s p (looped s p), hv, ← hbring, ← hv]
  rfl

/-- The state after a port has left UP, its end of the RUN aside, where the course does not use it. -/
theorem leaveUp_unused (hup : (hport s p).state = 2) (hu : usedPort s p = false) (st : Nat) :
    ∃ e, leaveUp s p st = { leftState s p st with stepErr := e } := by
  obtain ⟨r, f, e, h, hun, -⟩ := leaveUp_of_up hup st
  obtain ⟨hf, hr⟩ := hun hu
  exact ⟨e, by rw [h, hf, hr]; rfl⟩

theorem linkDisable_up (ht : Taken s .any false) (hp : p < 16) (hu : usedPort s p = false)
    (hs : (hport s p).state = 2) : ∃ u, exec (.linkDisable src p) s = .next (complete u src stOK 0) ∧
      (hport u p).state = 0 ∧ (hport u p).enabled = false ∧ u.evs = s.evs ++ [evNow s 0x0604 (8 + p / 8) p none] ∧
      u.capGen = (s.capGen + 1) % 2 ^ 32 ∧ u.stop = s.stop := by
  obtain ⟨e, h⟩ := leaveUp_unused hs hu 0
  refine ⟨_, by rw [exec_linkDisable, execLinkDisable, linkCommand_free ht hp hu], ?_⟩
  rw [h]
  have hport_u : hport (updHPort (leftState s p 0) p (fun h => { h with enabled := false })) p =
      { leftUp 0 (hport s p) with enabled := false } := by
    rw [hport_updHPort_same, hport_leftState_same]
  exact ⟨congrArg HPort.state hport_u, congrArg HPort.enabled hport_u, rfl, rfl, rfl⟩

theorem linkRetrain_up (ht : Taken s .any false) (hp : p < 16) (hu : usedPort s p = false)
    (hs : (hport s p).state = 2) (he : (hport s p).enabled = true) (hh : portHeld s p = false) :
    ∃ u, exec (.linkRetrain src p) s = .next (complete u src stOK 0) ∧ (hport u p).state = 1 ∧
      u.evs = s.evs ++ [evNow s 0x0604 (8 + p / 8) p none] ∧ u.capGen = (s.capGen + 1) % 2 ^ 32 ∧ u.stop = s.stop := by
  obtain ⟨e, h⟩ := leaveUp_unused hs hu 1
  refine ⟨_, by rw [exec_linkRetrain, execLinkRetrain, linkCommand_free ht hp hu], ?_⟩
  rw [bringUp_trains he hh, h]
  refine ⟨?_, rfl, rfl, rfl⟩
  rw [trainPort, hport_updHPort_same]
  exact congrArg HPort.state (hport_leftState_same s p 1)

theorem linkStatus_taken (ht : Taken s .any false) (hp : p < 16) :
    exec (.linkStatus src p) s = .next (complete s src stOK (portStatus s p)) := by
  rw [exec_linkStatus, execLinkStatus, command_taken ht, if_neg (by omega)]

/-- The fields of HOF_PORT_STATUS (10 R379). -/
theorem portStatus_fields (hg : s.gated.get false p = false) (hs : (hport s p).state < 4) :
    bits (portStatus s p) 1 0 = (hport s p).state ∧ bitOf (portStatus s p) 2 = (hport s p).enabled ∧
      bitOf (portStatus s p) 3 = usedPort s p ∧ bits (portStatus s p) 13 4 = (hport s p).peerModule % 1024 ∧
      bits (portStatus s p) 17 14 = (hport s p).peerPort % 16 ∧ bits (portStatus s p) 19 18 = (hport s p).loop % 4 := by
  have h : portStatus s p = setBits (setBits (setBits (setBits (setBits (setBits 0 1 0 (hport s p).state) 2 2
      (b2n (hport s p).enabled)) 3 3 (b2n (usedPort s p))) 13 4 (hport s p).peerModule) 17 14 (hport s p).peerPort) 19 18
      (hport s p).loop := by
    rw [portStatus, if_neg (by simp [hg])]
    simp only [putFields_cons, putFields_nil]
  simp (disch := omega) only [h, bitOf_eq_bits, bits_setBits_self, bits_setBits_other]
  simp [Nat.mod_eq_of_lt hs]

end

/-! ### Windows -/

theorem win_updWin_other (s : State) {g w g' w' : Nat} (f : Win → Win) (h : 64 * g' + w' ≠ 64 * g + w) :
    win (updWin s g w f) g' w' = win s g' w' :=
  Table.get_upd_other _ _ _ _ _ h

section
variable {s : State} {src : Src} {c : WinCfg}

theorem openWindow_taken (ht : Taken s .job false) (hc : c.cluster < 96) (hw : c.window < 64) : exec (.openWindow src c) s =
    if (win s c.cluster c.window).state ≠ 0 then .next (complete s src 0x04 0)
    else if !winCfgOk s c then .next (complete s src stInvalid 0)
    else .next (complete (openWin s c true) src stOK 0) := by
  rw [exec_openWindow, execOpenWindow, command_taken ht]
  exact if_neg (by simp; omega)

theorem closeWindow_taken (ht : Taken s .job false) {g w : Nat} (hg : g < 96) (hw : w < 64) :
    exec (.closeWindow src g w) s = if (win s g w).state = 0 then .next (complete s src stOK 0)
      else .next (updWin s g w (fun x => { x with state := 2, closers := x.closers ++ [src] })) := by
  rw [exec_closeWindow, execCloseWindow, command_taken ht]
  exact if_neg (by simp; omega)

end

/-- Settles O49: each action of LINK_CONTROL by the port's state, and the two commands of windows. -/
theorem linkAndWindowCommands : Obligations.LinkAndWindowCommands := by
  unfold Obligations.LinkAndWindowCommands
  refine ⟨fun s src p ht hp => ⟨fun hu => ⟨?_, ?_, ?_, ?_⟩, fun hu hs => ⟨?_, ?_, fun he => ?_, fun he => ?_, fun he => ?_⟩,
      fun hu hs he hh => ⟨linkDisable_up ht hp hu hs, linkRetrain_up ht hp hu hs he hh⟩,
      linkStatus_taken ht hp, fun hg => if_pos hg, fun hg hs => portStatus_fields hg hs⟩,
    fun s src c ht hc hw => ⟨fun h => ?_, fun h hk => ?_, fun h hk => ?_⟩,
    fun s src g w hg hw => ⟨fun ht h => ?_, fun ht h => ?_, fun h hcl => ?_, fun h => ?_⟩⟩
  · rw [exec_linkDisable, execLinkDisable, linkCommand_used ht hp hu]
  · rw [exec_linkEnable, execLinkEnable, linkCommand_used ht hp hu]
  · rw [exec_linkRetrain, execLinkRetrain, linkCommand_used ht hp hu]
  · rw [exec_linkLoopback, execLinkLoopback, linkCommand_used ht hp hu]
  · exact ⟨_, linkDisable_not_up ht hp hu hs, rfl, fun q hq => hport_updHPort_other s p q switchedOff hq,
      hport_updHPort_same s p switchedOff⟩
  · refine ⟨_, linkEnable_not_up ht hp hu hs, rfl, fun q hq => hport_updHPort_other s p q (switchedOn s p) hq,
      fun hh => (hport_updHPort_same s p (switchedOn s p)).trans ?_,
      fun hh => (hport_updHPort_same s p (switchedOn s p)).trans ?_⟩
    · rw [switchedOn, if_pos hh]; rfl
    · rw [switchedOn, if_neg (by simp [hh])]; rfl
  · refine ⟨_, linkRetrain_not_up ht hp hu hs he, rfl, fun q hq => hport_updHPort_other s p q _ hq, fun hh => ?_,
      fun hh => ?_⟩
    · rw [hport_updHPort_same, if_pos hh]; rfl
    · rw [hport_updHPort_same, if_neg (by simp [hh])]; rfl
  · rw [exec_linkRetrain, execLinkRetrain, linkCommand_free ht hp hu, bringUp_disabled he]
  · refine ⟨_, linkLoopback_not_up ht hp hu hs he, rfl, fun q hq => hport_updHPort_other s p q _ hq, ?_⟩
    rw [hport_updHPort_same]
    cases portHeld s p with
    | true => exact ⟨rfl, he, rfl⟩
    | false => exact ⟨rfl, he, rfl⟩
  · rw [openWindow_taken ht hc hw, if_pos h]
  · rw [openWindow_taken ht hc hw, if_neg (not_not.2 h), if_pos (by simp [hk])]
  · refine ⟨openWin s c true, by rw [openWindow_taken ht hc hw, if_neg (not_not.2 h), if_neg (by simp [hk])], rfl,
      win_updWin_same s _ _ _, fun g w _ hw' hne => win_updWin_other s _ ?_⟩
    intro he
    exact hne (by rw [Prod.mk.injEq]; omega)
  · rw [closeWindow_taken ht hg hw, if_pos h]
  · rw [closeWindow_taken ht hg hw, if_neg h]
  · rw [exec_closeWindowDone, execCloseWindowDone]
    refine (if_pos (by simp [h, hcl])).trans ?_
    rw [hcl]
    rfl
  · exact if_neg (by simp [h])

end Sys2Proof.Machine
end

/-! ## Queue pairs, doorbells and submission entries (13 R436 to R445) -/
section
set_option Elab.async false
namespace Sys2Proof.Machine
open Sys2Proof

theorem exec_qpEnable (q : Nat) (s : State) : exec (.qpEnable q) s = execQpEnable q s := rfl

theorem exec_qpDisable (q : Nat) (s : State) : exec (.qpDisable q) s = execQpDisable q s := rfl

theorem exec_cmdEvtHead (v : Nat) (s : State) : exec (.cmdEvtHead v) s = execCmdEvtHead v s := rfl

theorem exec_evtRingEnable (s : State) : exec .evtRingEnable s = execEvtRingEnable s := rfl

theorem exec_sqEntryTake (q : Nat) (entry : List Byte) (s : State) :
    exec (.sqEntryTake q entry) s = execSqEntryTake q entry s := rfl

/-! ### Indices and doorbells -/

section
variable {s : State} {q v : Nat} (hb : barOpen s = true)
include hb

theorem qpEnable_runs (hq : q < 64) : exec (.qpEnable q) s = .next (updQp s q enableQp) := by
  rw [exec_qpEnable, execQpEnable, doorbell_reaches hb hq, if_neg (by decide)]

theorem qpDisable_runs (hq : q < 64) : exec (.qpDisable q) s = .next (updQp s q (fun x => { x with enable := false })) := by
  rw [exec_qpDisable, execQpDisable, doorbell_reaches hb hq, if_neg (by decide)]

theorem cmdSqTail_moves (hq : q < 64) (he : (qp s q).enable = true) (hv : v % 4096 ≤ (qp s q).sqM1) :
    exec (.cmdSqTail q v) s = .next (updQp s q (fun x => { x with sqTail := v % 4096 })) := by
  rw [exec_cmdSqTail, execCmdSqTail, doorbell_reaches hb hq, if_neg (by decide), if_neg (by simp [he, hv])]

theorem cmdCqHead_moves (hq : q < 64) (he : (qp s q).enable = true) (hv : v % 4096 ≤ (qp s q).cqM1) :
    exec (.cmdCqHead q v) s = .next (updQp s q (fun x => { x with
      cqHead := v % 4096, unread := x.unread - (v % 4096 + (x.cqM1 + 1) - x.cqHead) % (x.cqM1 + 1) })) := by
  rw [exec_cmdCqHead, execCmdCqHead, doorbell_reaches hb hq, if_neg (by decide), if_neg (by simp [he, hv])]

theorem cmdEvtHead_moves (he : s.ring.enable = true) (hv : v % 65536 ≤ s.ring.m1) :
    exec (.cmdEvtHead v) s = .next { s with ring := { s.ring with
      head := v % 65536, count := s.ring.count - (v % 65536 + (s.ring.m1 + 1) - s.ring.head) % (s.ring.m1 + 1) } } := by
  rw [exec_cmdEvtHead, execCmdEvtHead, hb]
  exact (if_neg (by decide)).trans (if_neg (by simp [he, hv]))

theorem cmdEvtHead_bad (h : s.ring.enable = false ∨ s.ring.m1 < v % 65536) :
    exec (.cmdEvtHead v) s = .next (badAccess s) := by
  rw [exec_cmdEvtHead, execCmdEvtHead, hb]
  exact (if_neg (by decide)).trans (if_pos (by simpa using h))

theorem evtRingEnable_runs : exec .evtRingEnable s = .next { s with ring := enableRing s.ring } := by
  rw [exec_evtRingEnable, execEvtRingEnable, hb, if_neg (by decide)]

end

theorem enableQp_starts {x : Qp} (he : x.enable = false) (hs : x.sqM1 ≠ 0) (hc : x.cqM1 ≠ 0) : enableQp x =
    { x with enable := true, sqHead := 0, sqTail := 0, cqHead := 0, cqTail := 0, unread := 0, phase := true } :=
  if_neg (by simp [he, hs, hc])

theorem enableQp_stays {x : Qp} (h : x.enable = true ∨ x.sqM1 = 0 ∨ x.cqM1 = 0) : enableQp x = x :=
  if_pos (by simpa [or_assoc] using h)

theorem enableRing_starts {r : EvtRing} (he : r.enable = false) (hm : r.m1 ≠ 0) :
    enableRing r = { r with enable := true, head := 0, tail := 0, count := 0, phase := true } :=
  if_neg (by simp [he, hm])

theorem enableRing_stays {r : EvtRing} (he : r.enable = true) : enableRing r = r := if_pos (by simp [he])

/-! ### Submission entries -/

/-- A number of an entry (13 R442). -/
def entryNum (entry : List Byte) (i n : Nat) : Nat := ofLe ((entry.drop i).take n)

theorem entryNum_byte (entry : List Byte) (i : Nat) : entryNum entry i 1 = (entry.getD i 0).toNat := by
  unfold entryNum
  rcases h : entry.drop i with _ | ⟨b, t⟩
  · rw [List.getD_eq_default _ _ (List.drop_eq_nil_iff.1 h)]
    rfl
  · have hb : entry[i]? = some b := by rw [← List.head?_drop, h]; rfl
    rw [List.getD_eq_getElem?_getD, hb]
    simp [ofLe]

/-- The state with the next entry of a pair taken (13 R438, R439). -/
def entryTaken (s : State) (q : Nat) : State :=
  updQp { s with rot := (q + 1) % 64 } q (fun x => { x with sqHead := if x.sqHead = x.sqM1 then 0 else x.sqHead + 1 })

/-- The command of an entry is outstanding, and its token is kept (13 R438, R444). -/
def withCommand (s : State) (q cid tok op : Nat) : State :=
  updQp s q (fun x => { x with
    outs := x.outs ++ [(⟨cid, tok, op⟩ : OutCmd)]
    toks := if tok = 0 then x.toks else (x.toks ++ [(⟨tok, op, none⟩ : Tok)]).drop (x.toks.length + 1 - 1024) })

/-- The command begins, or ends at once where no command is named (13 R449). -/
def begun (s : State) (q cid : Nat) (entry : List Byte) : Out :=
  match outOfRange entry with
  | some c => .next (complete s ⟨q, cid⟩ ((stateStatus c s.jobState).getD stInvalid) 0)
  | none => .next s

/-- An entry whose token is kept (13 R445). -/
def replayed (s : State) (q cid tok op : Nat) (t : Tok) : Out :=
  if t.opcode ≠ op then .next (postCq (entryTaken s q) q cid stInvalid stInvalid 0)
  else match t.done with
    | some (first, result) => .next (postCq (entryTaken s q) q cid 0x01 first result)
    | none => .next (updQp (entryTaken s q) q (fun x =>
        { x with outs := x.outs ++ [(⟨cid, 0, op⟩ : OutCmd)], replays := x.replays ++ [(cid, tok)] }))

/-- What an entry that R442 allows does. -/
def entryOutcome (s : State) (q cid tok op : Nat) (entry : List Byte) : Out :=
  match if tok = 0 then none else (qp s q).toks.find? (fun t => t.token = tok) with
  | some t => replayed s q cid tok op t
  | none => begun (withCommand (entryTaken s q) q cid tok op) q cid entry

section
variable {s : State} {q : Nat} {entry : List Byte}

theorem sqEntryTake_not_turn (h : turn s ≠ some q) : exec (.sqEntryTake q entry) s = .next s := by
  rw [exec_sqEntryTake, execSqEntryTake]
  exact if_pos (by simp [h])

/-- What lets an entry be taken: the command processor, the link, the pair's turn, and no fence. -/
structure Takes (s : State) (q : Nat) (entry : List Byte) : Prop where
  cmd : cmdOpen s = true
  link : s.power.linkUp = true
  turn : turn s = some q
  length : entry.length = 64
  fence : entry.getD 1 0 ≠ 1 ∨ (qp s q).outs = []

theorem sqEntryTake_fenced (hc : cmdOpen s = true) (hl : s.power.linkUp = true) (ht : turn s = some q)
    (hlen : entry.length = 64) (hf : entry.getD 1 0 = 1) (ho : (qp s q).outs ≠ []) :
    exec (.sqEntryTake q entry) s = .next s := by
  have hb : entryNum entry 1 1 = 1 := by rw [entryNum_byte, hf]; rfl
  rw [exec_sqEntryTake, execSqEntryTake]
  refine (if_neg (by simp [hc, hl, ht, hlen])).trans (if_pos ?_)
  change (decide (entryNum entry 1 1 % 2 = 1) && decide (entryNum entry 1 1 < 2) && decide ((qp s q).outs ≠ [])) = true
  simp [hb, ho]

variable (h : Takes s q entry)
include h

theorem Takes.gate : ¬(!cmdOpen s || !s.power.linkUp || decide (Machine.turn s ≠ some q) || decide (entry.length ≠ 64)) = true := by
  simp [h.cmd, h.link, h.turn, h.length]

theorem Takes.no_fence : ¬(decide (entryNum entry 1 1 % 2 = 1) && decide (entryNum entry 1 1 < 2) &&
    decide ((qp s q).outs ≠ [])) = true := by
  rw [entryNum_byte]
  obtain hf | ho := h.fence
  · have : (entry.getD 1 0).toNat ≠ 1 := fun he => hf (BitVec.eq_of_toNat_eq he)
    simp only [Bool.and_eq_true, decide_eq_true_eq]
    omega
  · simp [ho]

theorem sqEntryTake_bad (hbad : badEntry entry = true) : exec (.sqEntryTake q entry) s =
    .next (postCq (entryTaken s q) q (entryNum entry 4 4) stInvalid stInvalid 0) := by
  rw [exec_sqEntryTake, execSqEntryTake]
  exact (if_neg h.gate).trans ((if_neg h.no_fence).trans (if_pos hbad))

theorem sqEntryTake_good (hbad : badEntry entry = false) : exec (.sqEntryTake q entry) s =
    entryOutcome s q (entryNum entry 4 4) (entryNum entry 8 8) (entryNum entry 0 1) entry := by
  rw [exec_sqEntryTake, execSqEntryTake]
  exact (if_neg h.gate).trans ((if_neg h.no_fence).trans (if_neg (by simp [hbad])))

end

section
variable {s : State} {q cid tok op : Nat} {entry : List Byte}

theorem entryOutcome_new (hk : tok = 0 ∨ ∀ y ∈ (qp s q).toks, y.token ≠ tok) :
    entryOutcome s q cid tok op entry = begun (withCommand (entryTaken s q) q cid tok op) q cid entry := by
  have hfind : (if tok = 0 then none else (qp s q).toks.find? (fun t => t.token = tok)) = none := by
    rcases hk with h | h
    · rw [if_pos h]
    · rw [List.find?_eq_none.2 (by simpa using h), ite_self]
  rw [entryOutcome, hfind]

theorem entryOutcome_kept {y : Tok} (htok : tok ≠ 0) (hfind : (qp s q).toks.find? (fun t => t.token = tok) = some y) :
    entryOutcome s q cid tok op entry = replayed s q cid tok op y := by
  rw [entryOutcome, if_neg htok, hfind]

theorem replayed_other_opcode {y : Tok} (h : y.opcode ≠ op) :
    replayed s q cid tok op y = .next (postCq (entryTaken s q) q cid stInvalid stInvalid 0) := if_pos h

theorem replayed_done {y : Tok} (h : y.opcode = op) {st r : Nat} (hd : y.done = some (st, r)) :
    replayed s q cid tok op y = .next (postCq (entryTaken s q) q cid 0x01 st r) := by
  rw [replayed, if_neg (not_not.2 h), hd]

theorem replayed_waits {y : Tok} (h : y.opcode = op) (hd : y.done = none) :
    replayed s q cid tok op y = .next (updQp (entryTaken s q) q (fun x =>
      { x with outs := x.outs ++ [⟨cid, 0, op⟩], replays := x.replays ++ [(cid, tok)] })) := by
  rw [replayed, if_neg (not_not.2 h), hd]

/-- What the command of a new entry records, in the form of 13 R444: a token of 0 is not kept. -/
theorem withCommand_of_tok {u w : State} (ts : List Tok)
    (h : (tok = 0 ∧ w = updQp u q (fun x => { x with outs := x.outs ++ [⟨cid, 0, op⟩] })) ∨
      (tok ≠ 0 ∧ (∀ y ∈ ts, y.token ≠ tok) ∧ w = updQp u q (fun x => { x with
        outs := x.outs ++ [(⟨cid, tok, op⟩ : OutCmd)]
        toks := (x.toks ++ [(⟨tok, op, none⟩ : Tok)]).drop (x.toks.length - 1023) }))) :
    w = withCommand u q cid tok op ∧ (tok = 0 ∨ ∀ y ∈ ts, y.token ≠ tok) := by
  obtain ⟨rfl, rfl⟩ | ⟨h0, hn, rfl⟩ := h
  · exact ⟨rfl, .inl rfl⟩
  · refine ⟨?_, .inr hn⟩
    unfold withCommand
    simp only [if_neg h0, Nat.add_sub_add_right (k := 1)]

end

/-- Settles O45: the indices of pairs and of the ring, and each outcome of an entry whose turn it is. -/
theorem queuesAndDoorbells : Obligations.QueuesAndDoorbells := by
  unfold Obligations.QueuesAndDoorbells
  refine ⟨fun s q v hb hq => ⟨fun he hs hc => ⟨_, qpEnable_runs hb hq, rfl, fun r hr => qp_updQp_other s q r _ hr, ?_⟩,
      fun h => ⟨_, qpEnable_runs hb hq, rfl, fun r => ?_⟩,
      ⟨_, qpDisable_runs hb hq, rfl, fun r hr => qp_updQp_other s q r _ hr, qp_updQp_same s q _⟩,
      fun he hv => cmdSqTail_moves hb hq he hv, fun he hv => cmdCqHead_moves hb hq he hv,
      fun he hv => cmdEvtHead_moves hb he hv, fun h => cmdEvtHead_bad hb h, fun he hm => ?_, fun he => ?_⟩,
    fun s u q cid tok op entry hc hl hlen hcid htok hop hu => ⟨sqEntryTake_not_turn, fun ht =>
      ⟨sqEntryTake_fenced hc hl ht hlen, fun hf => ?_⟩⟩⟩
  · rw [qp_updQp_same, enableQp_starts he hs hc]
  · by_cases hr : r = q
    · subst hr
      rw [qp_updQp_same, enableQp_stays h]
    · exact qp_updQp_other s q r _ hr
  · rw [evtRingEnable_runs hb, enableRing_starts he hm]
  · rw [evtRingEnable_runs hb, enableRing_stays he]
  · have htakes : Takes s q entry := ⟨hc, hl, ht, hlen, hf⟩
    obtain rfl : op = entryNum entry 0 1 := hop.trans (entryNum_byte entry 0).symm
    obtain rfl : cid = entryNum entry 4 4 := hcid
    obtain rfl : tok = entryNum entry 8 8 := htok
    obtain rfl : u = entryTaken s q := hu
    refine ⟨fun hbad => sqEntryTake_bad htakes hbad, fun hbad => ?_⟩
    rw [sqEntryTake_good htakes hbad]
    refine ⟨fun w hw => ?_, fun y h0 hfind => ?_⟩
    · obtain ⟨rfl, hk⟩ := withCommand_of_tok (qp s q).toks hw
      rw [entryOutcome_new hk]
      refine ⟨fun hr => ?_, fun c hr => ?_⟩ <;> rw [begun, hr]
      rfl
    · rw [entryOutcome_kept h0 hfind]
      exact ⟨replayed_other_opcode, fun hop st r hd => replayed_done hop hd, replayed_waits⟩

end Sys2Proof.Machine
end

/-! ## Event records, the event ring, interrupts and the host link (13 R432, R465 to R468; 15 R513) -/
section
set_option Elab.async false
namespace Sys2Proof.Machine
open Sys2Proof

theorem exec_eventRecordWrite (s : State) : exec .eventRecordWrite s = execEventRecordWrite s := rfl

theorem exec_msiXSend (v : Nat) (s : State) : exec (.msiXSend v) s = execMsiXSend v s := rfl

theorem exec_hostLinkDown (s : State) : exec .hostLinkDown s = execHostLinkDown s := rfl

theorem exec_pcieLinkUp (sp wd : Nat) (fl : Bool) (s : State) :
    exec (.pcieLinkUp sp wd fl) s = execPcieLinkUp sp wd fl s := rfl

/-! ### The layout of a record (13 R465) -/

theorem parts_of_record {a b c d : List Byte} (ha : a.length = 2) (hb : b.length = 2) (hc : c.length = 4) (hd : d.length = 8) :
    (a ++ b ++ c ++ d).length = 16 ∧ (a ++ b ++ c ++ d).take 2 = a ∧ ((a ++ b ++ c ++ d).drop 2).take 2 = b ∧
      ((a ++ b ++ c ++ d).drop 4).take 4 = c ∧ (a ++ b ++ c ++ d).drop 8 = d := by
  simp [List.drop_append, ha, hb, hc, hd, List.drop_eq_nil_of_le]

/-- The unit of a record as it shows. -/
def shownUnit (e : Ev) (hide : Bool) : Nat := if hide && hiddenClass e.code then 0 else e.unit % 4096

/-- The detail of a record as it shows. -/
def shownDetail (e : Ev) (hide : Bool) : Nat := if hide && hiddenClass e.code then 0 else e.detail.getD 0

theorem evRecord_fields (e : Ev) (hide phase : Bool) :
    (evRecord e hide phase).length = 16 ∧ ofLe ((evRecord e hide phase).take 2) = e.code % 2 ^ 16 ∧
      ofLe (((evRecord e hide phase).drop 2).take 2) = e.die % 16 + shownUnit e hide * 16 ∧
      ofLe (((evRecord e hide phase).drop 4).take 4) = shownDetail e hide % 2 ^ 32 ∧
      ofLe ((evRecord e hide phase).drop 8) = e.time % 2 ^ 63 + b2n phase * 2 ^ 63 := by
  obtain ⟨hlen, hcode, hunit, hdetail, htime⟩ := parts_of_record (leBytes_length 2 e.code)
    (leBytes_length 2 (e.die % 16 + shownUnit e hide * 16)) (leBytes_length 4 (shownDetail e hide))
    (leBytes_length 8 (e.time % 2 ^ 63 + b2n phase * 2 ^ 63))
  have hb : evRecord e hide phase = leBytes 2 e.code ++ leBytes 2 (e.die % 16 + shownUnit e hide * 16)
      ++ leBytes 4 (shownDetail e hide) ++ leBytes 8 (e.time % 2 ^ 63 + b2n phase * 2 ^ 63) := rfl
  have hu : shownUnit e hide < 4096 := by unfold shownUnit; split <;> omega
  have hp : b2n phase ≤ 1 := by cases phase <;> decide
  rw [hb, hcode, hunit, hdetail, htime]
  simp only [ofLe_leBytes]
  exact ⟨hlen, rfl, by omega, rfl, by omega⟩

theorem evRecord_spec {e : Ev} {d : Nat} (hd : e.detail = some d) (phase : Bool) :
    let b := evRecord e e.isSealed phase
    b.length = 16 ∧ ofLe (b.take 2) = e.code % 2 ^ 16 ∧
      bits (ofLe (b.drop 8)) 62 0 = e.time % 2 ^ 63 ∧ bitOf (ofLe (b.drop 8)) 63 = phase ∧
      ofLe ((b.drop 2).take 2) % 16 = e.die % 16 ∧
      (e.isSealed = true → hiddenClass e.code = true →
        ofLe ((b.drop 2).take 2) / 16 = 0 ∧ ofLe ((b.drop 4).take 4) = 0) ∧
      ((e.isSealed = false ∨ hiddenClass e.code = false) → ofLe ((b.drop 2).take 2) / 16 = e.unit % 4096 ∧
        ofLe ((b.drop 4).take 4) = d % 2 ^ 32) := by
  obtain ⟨hlen, hcode, hunit, hdetail, htime⟩ := evRecord_fields e e.isSealed phase
  dsimp only
  rw [hcode, hunit, hdetail, htime]
  refine ⟨hlen, rfl, ?_, ?_, by omega, fun hs hh => ?_, fun h => ?_⟩
  · rw [bits]
    omega
  · rw [bitOf]
    cases phase with
    | true => rw [beq_iff_eq, b2n]; simp
    | false => simp [b2n]
  · rw [shownUnit, shownDetail, hs, hh]
    exact ⟨by simp, rfl⟩
  · have hf : (e.isSealed && hiddenClass e.code) = false := by rcases h with h | h <;> simp [h]
    rw [shownUnit, shownDetail, hf, hd]
    exact ⟨by simp; omega, rfl⟩

/-! ### The oldest event (13 R465 to R467; 18 R573) -/

theorem settleEv_some {s : State} {e : Ev} {d : Nat} (h : e.detail = some d) : settleEv s e = (s, e) := by
  rw [settleEv, h]

theorem settleEv_none {s : State} {e : Ev} {n : Nat} (h : e.detail = none) (hn : s.freeCtr = n) :
    settleEv s e = ({ s with freeCtr := n + 1 }, { e with detail := some ((Config.freeWord n).toNat % 2 ^ 32) }) := by
  subst hn
  rw [settleEv, h]
  rfl

/-- An event fixed in its detail, and whatever else of it as it was. -/
theorem settleEv_spec (s : State) (e : Ev) : ∃ n d, settleEv s e = ({ s with freeCtr := n }, { e with detail := some d }) := by
  cases h : e.detail with
  | some d => exact ⟨s.freeCtr, d, by rw [settleEv_some h, ← h]⟩
  | none => exact ⟨_, _, settleEv_none h rfl⟩

/-- The vault with an event in its log buffer (18 R573). -/
def loggedVault (s : State) (e : Ev) : Vault :=
  { s.vault with buf := s.vault.buf ++ [{ ev := e, hours := hoursOf s, gap := s.vault.gap }], gap := false }

theorem logPut_room {s : State} (hs : s.vault.state < 2) (hb : s.vault.buf.length < 4096) (e : Ev) :
    logPut s e = { s with vault := loggedVault s e } := by
  rw [logPut]
  exact (if_neg (by omega)).trans (if_pos hb)

theorem post_linked {s : State} (h : s.power.linkUp = true) (p : Post) : post s p = deliver s p := by
  rw [post, if_pos h]

theorem post_unlinked {s : State} (h : s.power.linkUp = false) (p : Post) : post s p = { s with posts := s.posts ++ [p] } := by
  rw [post, h]
  rfl

theorem needVector_parts (s : State) (v : Nat) : needVector s v = { s with vecDue := (needVector s v).vecDue } := by
  unfold needVector
  split <;> rfl

theorem mem_needVector (s : State) (v : Nat) : v ∈ (needVector s v).vecDue := by
  unfold needVector
  split
  · rename_i h
    simpa using h
  · exact List.mem_append_right _ (List.mem_singleton.2 rfl)

/-- The ring with one more record (13 R465). -/
def ringNext (r : EvtRing) : EvtRing :=
  { r with tail := if r.tail = r.m1 then 0 else r.tail + 1, count := r.count + 1
           phase := if r.tail = r.m1 then !r.phase else r.phase }

/-- A record at the tail of the ring, and the ring with one more. -/
def ringStored (s : State) (b : List Byte) : State :=
  { s with hostMem := memWrite s.hostMem (s.ring.base + 16 * s.ring.tail) b, ring := ringNext s.ring }

/-- A record's bytes posted to the ring's tail. -/
def ringAt (s : State) (b : List Byte) : State :=
  needVector { post s (.write (s.ring.base + 16 * s.ring.tail) b) with ring := ringNext s.ring } s.ring.vector

theorem ringAt_linked {s : State} (h : s.power.linkUp = true) (b : List Byte) :
    ringAt s b = needVector (ringStored s b) s.ring.vector := by
  rw [ringAt, post_linked h]
  rfl

theorem ringPut_at (s : State) (e : Ev) : ringPut s e = ringAt s (evRecord e e.isSealed s.ring.phase) := by
  unfold ringPut ringAt ringNext
  rfl

theorem ringPut_linked {s : State} (h : s.power.linkUp = true) (e : Ev) :
    ringPut s e = needVector (ringStored s (evRecord e e.isSealed s.ring.phase)) s.ring.vector := by
  rw [ringPut_at, ringAt_linked h]

/-- The state with its oldest event taken and in the log buffer. -/
def eventLogged (s : State) (e : Ev) (rest : List Ev) : State := { s with evs := rest, vault := loggedVault s e }

/-- The record 0x0C04 that follows a loss (13 R467). -/
def lossEv (s : State) : Ev := { code := 0x0C04, die := 15, time := s.timeNs, isSealed := sealedJob s }

/-- The state with a loss recorded, in the log buffer and in the ring. -/
def lossRecorded (s : State) : State :=
  let l := settleEv s (lossEv s)
  let v := logPut { l.1 with evTotal := l.1.evTotal + 1 } l.2
  ringPut { v with ring := { v.ring with lost := false } } l.2

/-- What becomes of an event in the ring, once it is in the log buffer (13 R465 to R467). -/
def inRing (s : State) (e : Ev) : Out :=
  if !s.ring.enable then .next s
  else if ringFull s then .next (ringDrop s)
  else if s.ring.lost then
    if ringFull (lossRecorded s) then .next (ringDrop (lossRecorded s)) else .next (ringPut (lossRecorded s) e)
  else .next (ringPut s e)

theorem eventRecordWrite_runs {s : State} {e : Ev} {rest : List Ev} (hevs : s.evs = e :: rest) :
    exec .eventRecordWrite s = inRing (logPut (settleEv { s with evs := rest } e).1 (settleEv { s with evs := rest } e).2)
      (settleEv { s with evs := rest } e).2 := by
  rw [exec_eventRecordWrite, execEventRecordWrite, hevs]
  rfl

theorem eventRecordWrite_logged {s : State} {e : Ev} {rest : List Ev} {d : Nat} (hevs : s.evs = e :: rest)
    (hs : s.vault.state < 2) (hb : s.vault.buf.length < 4096) (hd : e.detail = some d) :
    exec .eventRecordWrite s = inRing (eventLogged s e rest) e := by
  rw [eventRecordWrite_runs hevs, settleEv_some hd]
  exact congrArg (inRing · e) (logPut_room (s := { s with evs := rest }) hs hb e)

theorem inRing_next (s : State) (e : Ev) : ∃ t, inRing s e = .next t := by
  unfold inRing
  split
  · exact ⟨_, rfl⟩
  · split
    · exact ⟨_, rfl⟩
    · split
      · split <;> exact ⟨_, rfl⟩
      · exact ⟨_, rfl⟩

theorem inRing_off {s : State} (h : s.ring.enable = false) (e : Ev) : inRing s e = .next s := if_pos (by simp [h])

theorem inRing_full {s : State} (h : s.ring.enable = true) (hf : s.ring.m1 < s.ring.count) (e : Ev) :
    inRing s e = .next (ringDrop s) := by
  rw [inRing, if_neg (by simp [h]), if_pos (by simpa [ringFull] using hf)]

theorem inRing_put {s : State} (h : s.ring.enable = true) (hf : s.ring.count ≤ s.ring.m1) (hl : s.ring.lost = false)
    (e : Ev) : inRing s e = .next (ringPut s e) := by
  rw [inRing, if_neg (by simp [h]), if_neg (by simpa [ringFull] using hf), if_neg (by simp [hl])]

theorem inRing_after_loss {s : State} (h : s.ring.enable = true) (hf : s.ring.count ≤ s.ring.m1) (hl : s.ring.lost = true)
    (hroom : (lossRecorded s).ring.count ≤ (lossRecorded s).ring.m1) (e : Ev) :
    inRing s e = .next (ringPut (lossRecorded s) e) := by
  rw [inRing, if_neg (by simp [h]), if_neg (by simpa [ringFull] using hf), if_pos hl,
    if_neg (by simpa [ringFull] using hroom)]

theorem ringDrop_spec (s : State) :
    ringDrop s = { s with regs := (ringDrop s).regs, ring := { s.ring with lost := true } } ∧
      bitOf (reg (ringDrop s) cmdErrKey) 3 = true ∧ bits (reg (ringDrop s) (regKey 10 0x81020)) 31 0 =
        min (2 ^ 32 - 1) (bits (reg s (regKey 10 0x81020)) 31 0 + 1) := by
  have hne : cmdErrKey ≠ regKey 10 0x81020 := regKey_ne (by omega) (by omega) (by omega)
  refine ⟨rfl, ?_, ?_⟩
  · exact (congrArg (bitOf · 3) (reg_bump_other (setBit s cmdErrKey 3) 0 32 1 hne)).trans (bitOf_reg_setBit_same _ _ (by omega))
  · exact (bits_reg_bump (setBit s cmdErrKey 3) (regKey 10 0x81020) 1 (lo := 0) (w := 32) (by omega) (by omega)).trans
      (by rw [reg_setBit_other s 3 hne.symm])

/-- The record of a loss with its detail. -/
def lossEvAt (s : State) (d : Nat) : Ev := { lossEv s with detail := some d }

/-- The state with the record of a loss in the log buffer, at a draw's number. -/
def lossLogged (s : State) (n d : Nat) : State :=
  { s with freeCtr := n, evTotal := s.evTotal + 1, ring := { s.ring with lost := false }
           vault := loggedVault s (lossEvAt s d) }

theorem lossRecorded_logged {s : State} (hs : s.vault.state < 2) (hb : s.vault.buf.length < 4096) :
    ∃ n d, lossRecorded s = ringPut (lossLogged s n d) (lossEvAt s d) := by
  obtain ⟨n, d, h⟩ := settleEv_spec s (lossEv s)
  refine ⟨n, d, ?_⟩
  unfold lossRecorded
  rw [h]
  exact congrArg (fun v : State => ringPut { v with ring := { v.ring with lost := false } } (lossEvAt s d))
    (logPut_room (s := { s with freeCtr := n, evTotal := s.evTotal + 1 }) hs hb (lossEvAt s d))

/-- What the record of a loss leaves: a record 0x0C04 at the tail, and the ring with one more and no loss. -/
theorem lossRecorded_spec {s : State} (hl : s.power.linkUp = true) (hs : s.vault.state < 2)
    (hb : s.vault.buf.length < 4096) : ∃ r, r.length = 16 ∧ ofLe (r.take 2) = 0x0C04 ∧
      (lossRecorded s).ring = ringNext { s.ring with lost := false } ∧ (lossRecorded s).evTotal = s.evTotal + 1 ∧
      (lossRecorded s).power = s.power ∧
      (lossRecorded s).hostMem = memWrite s.hostMem (s.ring.base + 16 * s.ring.tail) r := by
  obtain ⟨n, d, h⟩ := lossRecorded_logged hs hb
  have hlink : (lossLogged s n d).power.linkUp = true := hl
  obtain ⟨hlen, hcode, -⟩ := evRecord_fields (lossEvAt s d) (lossEvAt s d).isSealed s.ring.phase
  refine ⟨_, hlen, hcode, ?_⟩
  rw [h, ringPut_linked hlink, needVector_parts]
  exact ⟨rfl, rfl, rfl, rfl⟩

theorem ringAt_parts {s : State} (h : s.power.linkUp = true) (b : List Byte) : ringAt s b = { s with
    vecDue := (ringAt s b).vecDue, hostMem := memWrite s.hostMem (s.ring.base + 16 * s.ring.tail) b
    ring := { s.ring with count := s.ring.count + 1, tail := if s.ring.tail = s.ring.m1 then 0 else s.ring.tail + 1
                          phase := if s.ring.tail = s.ring.m1 then !s.ring.phase else s.ring.phase } } := by
  rw [ringAt_linked h]
  exact needVector_parts _ _

/-- What a record after the record of a loss leaves. -/
theorem ringAt_after_loss {s : State} (hl : s.power.linkUp = true) (hs : s.vault.state < 2)
    (hb : s.vault.buf.length < 4096) (b : List Byte) :
    (ringAt (lossRecorded s) b).ring.lost = false ∧ (ringAt (lossRecorded s) b).ring.count = s.ring.count + 2 ∧
      (ringAt (lossRecorded s) b).evTotal = s.evTotal + 1 ∧
      ∃ r a y, (ringAt (lossRecorded s) b).hostMem =
          memWrite (memWrite s.hostMem (s.ring.base + 16 * s.ring.tail) r) a y ∧
        r.length = 16 ∧ ofLe (r.take 2) = 0x0C04 := by
  obtain ⟨r, hlen, hcode, hring, htotal, hpower, hmem⟩ := lossRecorded_spec hl hs hb
  rw [ringAt_parts (by rw [hpower]; exact hl) b]
  exact ⟨congrArg EvtRing.lost hring, congrArg (fun x : EvtRing => x.count + 1) hring, htotal, r,
    (lossRecorded s).ring.base + 16 * (lossRecorded s).ring.tail, b, congrArg (memWrite · _ b) hmem, hlen, hcode⟩

/-! ### Interrupts (13 R468) -/

theorem msiXSend_masked {s : State} {v : Nat} (hv : v ∈ s.vecDue) (hm : (msixOf s v).masked = true) :
    exec (.msiXSend v) s = .next { s with vecDue := s.vecDue.erase v, pba := s.pba.set v true } := by
  rw [exec_msiXSend, execMsiXSend, if_neg (by simp [hv])]
  exact if_pos hm

theorem msiXSend_open {s : State} {v : Nat} (hv : v ∈ s.vecDue) (hm : (msixOf s v).masked = false) :
    exec (.msiXSend v) s = .next (post { s with vecDue := s.vecDue.erase v } (.vector v)) := by
  rw [exec_msiXSend, execMsiXSend, if_neg (by simp [hv])]
  exact if_neg (by rw [show (msixOf { s with vecDue := s.vecDue.erase v } v).masked = false from hm]; decide)

/-! ### The host link comes up (13 R432; 15 R513) -/

theorem deliver_parts (s : State) (p : Post) : deliver s p = { s with hostMem := (deliver s p).hostMem } := by
  cases p <;> rfl

/-- What is delivered depends on host memory and the vectors' addresses only. -/
theorem foldl_deliver (l : List Post) {s t : State} (hm : t.hostMem = s.hostMem) (hx : t.msix = s.msix) :
    l.foldl deliver t = { t with hostMem := (l.foldl deliver s).hostMem } := by
  induction l generalizing s t with
  | nil => exact congrArg (fun m => { t with hostMem := m }) hm
  | cons p l ih =>
    have h : (deliver t p).hostMem = (deliver s p).hostMem ∧ (deliver t p).msix = (deliver s p).msix := by
      cases p <;> simp [deliver, hostWrite, msixOf, hm, hx]
    rw [List.foldl_cons, List.foldl_cons, ih h.1 h.2, deliver_parts]

/-- A port once the handoff ports may start (10 R358). -/
def startedPort (s : State) (p : Nat) (h : HPort) : HPort :=
  if h.state = 0 ∧ h.enabled = true then (if portHeld s p then leftUp 3 else training s p) h else h

/-- One port starts where it is DOWN. -/
def startOne (s : State) (p : Nat) : State := if (hport s p).state = 0 then bringUp s p else s

theorem startOne_spec (s : State) (p : Nat) : startOne s p = { s with ports := (startOne s p).ports } ∧
    ∀ q, hport (startOne s p) q = if q = p then startedPort s p (hport s q) else hport s q := by
  unfold startOne
  by_cases h0 : (hport s p).state = 0
  · rw [if_pos h0]
    cases he : (hport s p).enabled with
    | false =>
      rw [bringUp_disabled he]
      refine ⟨rfl, fun q => ?_⟩
      split
      · subst q; simp [startedPort, he]
      · rfl
    | true =>
      rw [bringUp_of_not_up he (by omega)]
      refine ⟨rfl, fun q => ?_⟩
      by_cases hq : q = p
      · subst q
        rw [if_pos rfl]
        exact (hport_updHPort_same s p _).trans (if_pos ⟨h0, he⟩).symm
      · rw [if_neg hq]
        exact hport_updHPort_other s p q _ hq
  · rw [if_neg h0]
    refine ⟨rfl, fun q => ?_⟩
    split
    · subst q; simp [startedPort, h0]
    · rfl

theorem foldl_startOne (l : List Nat) (hl : l.Nodup) (s : State) :
    l.foldl startOne s = { s with ports := (l.foldl startOne s).ports } ∧
    ∀ q, hport (l.foldl startOne s) q = if q ∈ l then startedPort s q (hport s q) else hport s q := by
  induction l generalizing s with
  | nil => exact ⟨rfl, fun q => rfl⟩
  | cons p l ih =>
    obtain ⟨hp, hl⟩ := List.nodup_cons.1 hl
    obtain ⟨hparts, hports⟩ := ih hl (startOne s p)
    obtain ⟨hone, hq⟩ := startOne_spec s p
    have hsame (q : Nat) (h : HPort) : startedPort (startOne s p) q h = startedPort s q h := by
      rw [hone]; rfl
    rw [List.foldl_cons]
    refine ⟨hparts.trans (by rw [hone]), fun q => ?_⟩
    rw [hports q, hsame, hq q]
    by_cases h : q = p
    · subst h; simp [hp]
    · simp [h]

theorem startPorts_stay {s : State} (h : s.power.linksOn = true ∨ s.power.stage < 8 ∨ s.power.linkUp = false) :
    startPorts s = s := if_pos (by simpa [or_assoc] using h)

theorem startPorts_spec {s : State} (ho : s.power.linksOn = false) (hst : 8 ≤ s.power.stage)
    (hl : s.power.linkUp = true) : startPorts s = { s with
      power := { s.power with linksOn := true }, ports := (startPorts s).ports } ∧
    ∀ p, p < 16 → hport (startPorts s) p = startedPort s p (hport s p) := by
  have h : startPorts s = (List.range 16).foldl startOne (updPower s (fun p => { p with linksOn := true })) :=
    if_neg (by simp [ho, hl]; omega)
  obtain ⟨hparts, hports⟩ := foldl_startOne (List.range 16) List.nodup_range
    (updPower s (fun p => { p with linksOn := true }))
  rw [h]
  refine ⟨hparts, fun p hp => ?_⟩
  rw [hports, if_pos (List.mem_range.2 hp)]
  rfl

/-- The host port as it reaches L0 (13 R432). -/
def linked (s : State) (sp wd : Nat) (fl : Bool) : State :=
  updPower s (fun p => { p with linkUp := true, speed := sp % 8, width := wd % 32, flit := fl })

/-- The state as the port reaches L0, what was held delivered, its event of a slow link included. -/
def relinked (s : State) (sp wd : Nat) (fl : Bool) : State :=
  let u := s.posts.foldl deliver { linked s sp wd fl with posts := [] }
  if sp < 6 || wd < 16 then raise u 0x0C06 15 0 none else u

theorem pcieLinkUp_runs {s : State} (hd : s.power.linkUp = false) (hp : s.power.perst = false)
    (hn : s.power.noSup = false) (hr : s.power.rails = 3) (ho : s.power.refOk = true) (ht : s.power.trip = false)
    (sp wd : Nat) (fl : Bool) : exec (.pcieLinkUp sp wd fl) s = .next (startPorts (relinked s sp wd fl)) := by
  rw [exec_pcieLinkUp, execPcieLinkUp]
  exact if_neg (by simp [hd, hp, hn, hr, ho, ht])

/-- The state as the port reaches L0: its new power part, nothing held, and host memory as delivered. -/
theorem relinked_spec (s : State) (sp wd : Nat) (fl : Bool) : ∃ e n, relinked s sp wd fl =
    { s with power := (linked s sp wd fl).power, posts := [], hostMem := (s.posts.foldl deliver s).hostMem
             evs := e, evTotal := n } ∧
    (6 ≤ sp → 16 ≤ wd → e = s.evs) ∧ (sp < 6 ∨ wd < 16 → evNow s 0x0C06 15 0 none ∈ e) := by
  have h := foldl_deliver s.posts (s := s) (t := { linked s sp wd fl with posts := [] }) rfl rfl
  unfold relinked
  rw [h]
  by_cases hslow : sp < 6 ∨ wd < 16
  · rw [if_pos (by simpa using hslow)]
    exact ⟨_, _, rfl, fun h6 h16 => by omega, fun _ => List.mem_append_right _ (List.mem_singleton.2 rfl)⟩
  · rw [if_neg (by simpa using hslow)]
    exact ⟨_, _, rfl, fun _ _ => rfl, fun h => absurd h hslow⟩

theorem pcieLinkUp_spec {s : State} {sp wd : Nat} {fl : Bool} (hd : s.power.linkUp = false) (hp : s.power.perst = false)
    (hn : s.power.noSup = false) (hr : s.power.rails = 3) (ho : s.power.refOk = true) (ht : s.power.trip = false)
    (hsp : sp < 8) (hwd : wd < 32) :
    ∃ t, exec (.pcieLinkUp sp wd fl) s = .next t ∧ t.power.linkUp = true ∧ t.power.speed = sp ∧ t.power.width = wd ∧
      t.power.flit = fl ∧ t.posts = [] ∧ t.hostMem = (s.posts.foldl deliver s).hostMem ∧ t.mem = s.mem ∧
      t.jobState = s.jobState ∧
      (6 ≤ sp → 16 ≤ wd → t.evs = s.evs) ∧ (sp < 6 ∨ wd < 16 → evNow s 0x0C06 15 0 none ∈ t.evs) ∧
      ((s.power.linksOn = true ∨ s.power.stage < 8) → t.ports = s.ports) ∧
      (s.power.linksOn = false → 8 ≤ s.power.stage → t.power.linksOn = true ∧ ∀ p, p < 16 → (hport s p).state = 0 →
        (hport s p).enabled = true → portHeld s p = false → hport t p = { hport s p with
          state := 1, attempts := 0, seen := none, sent := some (controlFlit s 0 (identityBody s p) {}) }) := by
  obtain ⟨e, n, hu, hfast, hslow⟩ := relinked_spec s sp wd fl
  refine ⟨_, pcieLinkUp_runs hd hp hn hr ho ht sp wd fl, ?_⟩
  rw [hu]
  generalize hv : ({ s with power := (linked s sp wd fl).power, posts := [], hostMem := (s.posts.foldl deliver s).hostMem
                            evs := e, evTotal := n } : State) = v
  have hlinks : v.power.linksOn = s.power.linksOn := by rw [← hv]; rfl
  have hstage : v.power.stage = s.power.stage := by rw [← hv]; rfl
  by_cases hstay : s.power.linksOn = true ∨ s.power.stage < 8
  · rw [startPorts_stay (by rw [hlinks, hstage]; exact hstay.imp_right .inl), ← hv]
    exact ⟨rfl, Nat.mod_eq_of_lt hsp, Nat.mod_eq_of_lt hwd, rfl, rfl, rfl, rfl, rfl, hfast, hslow, fun _ => rfl,
      fun ho h8 => by rcases hstay with h | h <;> [simp [ho] at h; omega]⟩
  · rw [not_or, Bool.not_eq_true, Nat.not_lt] at hstay
    obtain ⟨hparts, hports⟩ := startPorts_spec (s := v) (hlinks.trans hstay.1) (hstay.2.trans_eq hstage.symm)
      (by rw [← hv]; rfl)
    have hpower : (startPorts v).power = { v.power with linksOn := true } := by rw [hparts]
    have hv' : (startPorts v).posts = v.posts ∧ (startPorts v).hostMem = v.hostMem ∧ (startPorts v).mem = v.mem ∧
        (startPorts v).jobState = v.jobState ∧ (startPorts v).evs = v.evs := by
      rw [hparts]; exact ⟨rfl, rfl, rfl, rfl, rfl⟩
    obtain ⟨h1, h2, h3, h4, h5⟩ := hv'
    rw [hpower, h1, h2, h3, h4, h5]
    refine ⟨?_, ?_, ?_, ?_, ?_, ?_, ?_, ?_, ?_, ?_, fun h => ?_, fun _ _ => ⟨rfl, fun p hp16 h0 he hh => ?_⟩⟩
    · rw [← hv]; rfl
    · rw [← hv]; exact Nat.mod_eq_of_lt hsp
    · rw [← hv]; exact Nat.mod_eq_of_lt hwd
    · rw [← hv]; rfl
    · rw [← hv]
    · rw [← hv]
    · rw [← hv]
    · rw [← hv]
    · rw [← hv]; exact hfast
    · rw [← hv]; exact hslow
    · exact absurd h (by simp [hstay])
    · have hport_v : hport v p = hport s p := by rw [← hv]; rfl
      have hheld : portHeld v p = portHeld s p := by rw [← hv]; rfl
      rw [hports p hp16, hport_v, startedPort, if_pos ⟨h0, he⟩, hheld, hh, ← hv]
      rfl

/-- What the oldest event's record leaves, in each state of the ring. -/
theorem eventRecordWrite_spec {s : State} {e : Ev} {rest : List Ev} {d : Nat} (hevs : s.evs = e :: rest)
    (hs : s.vault.state < 2) (hb : s.vault.buf.length < 4096) (hd : e.detail = some d) :
    ∃ t, exec .eventRecordWrite s = .next t ∧
      (s.ring.enable = false → t = eventLogged s e rest) ∧
      (s.ring.enable = true → s.ring.m1 < s.ring.count → t = ringDrop (eventLogged s e rest)) ∧
      (s.ring.enable = true → s.ring.count ≤ s.ring.m1 → s.ring.lost = false → t = ringPut (eventLogged s e rest) e) ∧
      (s.ring.enable = true → s.ring.count + 1 ≤ s.ring.m1 → s.ring.lost = true → s.power.linkUp = true →
        s.vault.buf.length < 4095 → t = ringPut (lossRecorded (eventLogged s e rest)) e) := by
  obtain ⟨t, ht⟩ := inRing_next (eventLogged s e rest) e
  have hinj {v : State} (h : inRing (eventLogged s e rest) e = .next v) : t = v :=
    Host.Outcome.next.inj (ht.symm.trans h)
  refine ⟨t, (eventRecordWrite_logged hevs hs hb hd).trans ht, fun he => hinj (inRing_off (s := eventLogged s e rest) he e),
    fun he hf => hinj (inRing_full (s := eventLogged s e rest) he hf e), fun he hf hl => hinj (inRing_put (s := eventLogged s e rest) he hf hl e),
    fun he hf hl hlink hb' => hinj (inRing_after_loss (s := eventLogged s e rest) he (by change s.ring.count ≤ s.ring.m1; omega) hl ?_ e)⟩
  obtain ⟨r, -, -, hring, -⟩ := lossRecorded_spec (s := eventLogged s e rest) hlink hs (by
    change (s.vault.buf ++ _).length < 4096
    rw [List.length_append, List.length_singleton]
    omega)
  rw [hring]
  exact hf

theorem eventRecordWrite_settled {s : State} {e : Ev} {rest : List Ev} {n d : Nat} (hevs : s.evs = e :: rest)
    (h : settleEv { s with evs := rest } e = ({ s with evs := rest, freeCtr := n }, { e with detail := some d })) :
    exec .eventRecordWrite s =
      exec .eventRecordWrite { s with freeCtr := n, evs := { e with detail := some d } :: rest } := by
  rw [eventRecordWrite_runs hevs, h, eventRecordWrite_runs rfl, settleEv_some rfl]

theorem settleEv_drawn {s : State} {e : Ev} (rest : List Ev) (hd : e.detail = none) : settleEv { s with evs := rest } e =
    ({ s with evs := rest, freeCtr := s.freeCtr + 1 },
      { e with detail := some ((Config.freeWord s.freeCtr).toNat % 2 ^ 32) }) :=
  settleEv_none hd rfl

/-- An event without a detail gets a free one, and is recorded as any other (log 12). -/
theorem eventRecordWrite_drawn {s : State} {e : Ev} {rest : List Ev} (hevs : s.evs = e :: rest) (hd : e.detail = none) :
    exec .eventRecordWrite s = exec .eventRecordWrite { s with
      freeCtr := s.freeCtr + 1
      evs := { e with detail := some ((Config.freeWord s.freeCtr).toNat % 2 ^ 32) } :: rest } :=
  eventRecordWrite_settled hevs (settleEv_drawn (s := s) (e := e) rest hd)

/-- Settles O48: the oldest event in the log buffer and the ring, interrupts, and the host link. -/
theorem eventsAndInterrupts : Obligations.EventsAndInterrupts := by
  unfold Obligations.EventsAndInterrupts
  refine ⟨fun s e rest d b hevs hs hb hrec => ⟨fun hd => ?_, fun hd => eventRecordWrite_drawn hevs hd⟩,
    fun s v hv => ⟨fun hm => msiXSend_masked hv hm, fun hm hl => (msiXSend_open hv hm).trans ?_,
      fun hm hl => (msiXSend_open hv hm).trans ?_⟩,
    fun s hl => (exec_hostLinkDown s).trans (hostLinkDown_up hl),
    fun s sp wd fl hd hp hn hr ho ht hsp hwd => pcieLinkUp_spec hd hp hn hr ho ht hsp hwd⟩
  · obtain ⟨t, ht, hoff, hfull, hput, hloss⟩ := eventRecordWrite_spec hevs hs hb hd
    refine ⟨t, loggedVault s e, ht, rfl, hoff, fun he hf => ?_, fun he hf hl hlink => ?_, fun he hf hl hlink hb' => ?_⟩
    · rw [hfull he hf]
      exact ringDrop_spec (eventLogged s e rest)
    · rw [hput he hf hl, ringPut_at]
      obtain rfl : b = evRecord e e.isSealed s.ring.phase := hrec
      refine ⟨ringAt_parts (s := eventLogged s e rest) hlink _, ?_, evRecord_spec hd s.ring.phase⟩
      exact mem_needVector _ _
    · rw [hloss he hf hl hlink hb', ringPut_at]
      exact ringAt_after_loss (s := eventLogged s e rest) hlink hs (by
        change (s.vault.buf ++ _).length < 4096
        rw [List.length_append, List.length_singleton]
        omega) _
  · exact congrArg Host.Outcome.next (post_linked (s := { s with vecDue := s.vecDue.erase v }) hl (.vector v))
  · exact congrArg Host.Outcome.next (post_unlinked (s := { s with vecDue := s.vecDue.erase v }) hl (.vector v))

end Sys2Proof.Machine
end

/-! ## The power-up sequence, step by step (15 R502 to R519) -/
section
set_option Elab.async false
namespace Sys2Proof.Machine
open Sys2Proof

theorem exec_regulatorStart (mv : Nat) (s : State) : exec (.regulatorStart mv) s = execRegulatorStart mv s := rfl

theorem exec_railGroupGood (s : State) : exec .railGroupGood s = execRailGroupGood s := rfl

theorem exec_railFailure (s : State) : exec .railFailure s = execRailFailure s := rfl

theorem exec_railRetry (s : State) : exec .railRetry s = execRailRetry s := rfl

theorem exec_powerUp (s : State) : exec .powerUp s = execPowerUp s := rfl

theorem exec_fixedDomainStart (s : State) : exec .fixedDomainStart s = execFixedDomainStart s := rfl

theorem exec_romBoot (a b : Bool) (s : State) : exec (.romBoot a b) s = execRomBoot a b s := rfl

theorem exec_vaultRecovery (s : State) : exec .vaultRecovery s = execVaultRecovery s := rfl

theorem exec_memoryTraining (l : List Nat) (s : State) : exec (.memoryTraining l) s = execMemoryTraining l s := rfl

theorem exec_powerupZeroiseDone (b : Bool) (s : State) :
    exec (.powerupZeroiseDone b) s = execPowerupZeroiseDone b s := rfl

theorem exec_powerupSelftest (s : State) : exec .powerupSelftest s = execPowerupSelftest s := rfl

theorem exec_commandProcessorOpen (s : State) : exec .commandProcessorOpen s = execCommandProcessorOpen s := rfl

theorem exec_ready (s : State) : exec .ready s = execReady s := rfl

/-! ### Clock sources -/

theorem missingEdge_refclk (s : State) : exec (.missingEdge .refclk) s = .next (updPower s (fun p => { p with refOk := false })) := rfl

section
variable {s : State}

/-- The loss of REFCLK, whether the host link was up or not (14 R473). -/
theorem clkRefLoss_spec (hf : s.power.fixedOn = true) (hr : s.power.refLost = false) : ∃ t, exec .clkRefLoss s = .next t ∧
    t.power.refLost = true ∧ (s.power.xtalOk = true → t.power.xtalSrc = true) ∧ evNow s 0x0801 15 0 none ∈ t.evs := by
  rw [clkRefLoss_runs hf hr]
  cases hl : s.power.linkUp with
  | true =>
    refine ⟨_, hostLinkDown_up hl, rfl, fun h => ?_, ?_⟩
    · change (s.power.xtalSrc || s.power.xtalOk) = true
      rw [h, Bool.or_true]
    · exact List.mem_append_left _ (List.mem_append_right _ (List.mem_singleton.2 rfl))
  | false =>
    refine ⟨_, if_pos ?_, rfl, fun h => ?_, ?_⟩
    · change (!s.power.linkUp) = true
      rw [hl]; rfl
    · change (s.power.xtalSrc || s.power.xtalOk) = true
      rw [h, Bool.or_true]
    · exact List.mem_append_right _ (List.mem_singleton.2 rfl)

theorem clkXtalLoss_spec (hf : s.power.fixedOn = true) (hx : s.power.xtalOk = true) :
    ∃ t, exec .clkXtalLoss s = .next t ∧ t.power.xtalOk = false := by
  cases hs : s.power.xtalSrc with
  | false => exact ⟨_, clkXtalLoss_spare hf hx hs, rfl⟩
  | true =>
    refine ⟨updPower s (fun p => { p with xtalOk := false }), ?_, rfl⟩
    rw [exec_clkXtalLoss, execClkXtalLoss, if_neg (by simp [hf, hx])]
    exact if_pos hs

/-! ### Rails -/

theorem regulatorStart_starts {mv : Nat} (hg : s.power.regulators = false) (hr : s.power.rails = 0)
    (ht : s.power.trip = false) (hf : s.power.railFails = 0) (hm : 36000 < mv) : exec (.regulatorStart mv) s =
      .next { s with power := { s.power with mv := mv, regulators := true } } := by
  rw [exec_regulatorStart, execRegulatorStart]
  exact if_neg (by simp [hg, hr, ht, hf, hm])

theorem regulatorStart_stays {mv : Nat} (h : s.power.railFails ≠ 0 ∨ mv ≤ 36000) :
    exec (.regulatorStart mv) s = .next s := by
  rw [exec_regulatorStart, execRegulatorStart]
  exact if_pos (by rcases h with h | h <;> simp [h])

theorem railGroupGood_on (hg : s.power.regulators = true) (hr : s.power.rails < 3) : exec .railGroupGood s =
    .next { s with power := { s.power with
      rails := s.power.rails + 1, railFails := if s.power.rails = 2 then 0 else s.power.railFails } } := by
  rw [exec_railGroupGood, execRailGroupGood]
  exact if_neg (by simp [hg, hr])

theorem railFailure_on (hg : s.power.regulators = true) (hr : s.power.rails < 3) : exec .railFailure s =
    .next { s with power := { s.power with
      regulators := false, rails := 0, railFault := true, railFails := s.power.railFails + 1 } } := by
  rw [exec_railFailure, execRailFailure]
  exact if_neg (by simp [hg, hr])

theorem railRetry_again (hg : s.power.regulators = false) (hr : s.power.rails = 0) (ht : s.power.trip = false)
    (h1 : 1 ≤ s.power.railFails) (h2 : s.power.railFails ≤ 2) :
    exec .railRetry s = .next { s with power := { s.power with regulators := true } } := by
  rw [exec_railRetry, execRailRetry]
  exact if_neg (by simp [hg, hr, ht]; omega)

theorem railRetry_spent (h3 : 3 ≤ s.power.railFails) : exec .railRetry s = .next s := by
  rw [exec_railRetry, execRailRetry]
  exact if_pos (by simp [h3])

/-! ### Steps 1 to 4 -/

theorem powerUp_runs (hr : s.power.rails = 3) (hs : s.power.stage = 0) (ho : s.power.stopped = false) :
    exec .powerUp s = .next (updPower (releasePorts (cleared s)) (fun p => { p with stage := 1 })) := by
  rw [exec_powerUp, execPowerUp, if_neg (by simp [hr, hs, ho])]

theorem fixedDomainStart_starts (hs : s.power.stage = 1) (h : s.power.refOk = true ∨ s.power.xtalOk = true) :
    exec .fixedDomainStart s = .next { s with power := { s.power with
      fixedOn := true, xtalSrc := !s.power.refOk, stage := 2, stopped := false, since := s.timeNs } } := by
  rw [exec_fixedDomainStart, execFixedDomainStart]
  exact if_neg (by rcases h with h | h <;> simp [hs, h])

theorem fixedDomainStart_waits (hr : s.power.refOk = false) (hx : s.power.xtalOk = false) :
    exec .fixedDomainStart s = .next s := by
  rw [exec_fixedDomainStart, execFixedDomainStart]
  exact if_pos (by simp [hr, hx])

/-- The control cores as ROM_BOOT leaves them (15 R510). -/
def bootCtl (s : State) (a b : Bool) : Ctl :=
  { hd1 := !a && b, hd0Ok := a, hd1Ok := b, moonOut := ((List.range 16).filter (pairOut s 13)).map (fun i => (i, true))
    moonDead := ((List.range 16).filter (pairOut s 13)).map (fun i => (i, true)) }

theorem romBoot_runs {a b : Bool} (hs : s.power.stage = 2) (hn : s.power.noSup = false) (h0 : pairOut s 14 0 = false)
    (h1 : pairOut s 14 1 = false) : exec (.romBoot a b) s = .next { s with
      ctl := bootCtl s a b
      power := if !a && !b then { s.power with noSup := true } else { s.power with stage := 3 } } := by
  rw [exec_romBoot, execRomBoot, if_neg (by simp [hs, hn]), h0, h1]
  cases a <;> cases b <;> rfl

/-! ### The vault (step 4) -/

theorem commitTxn_unworn {f : Vault → Vault} (h : (f s.vault).blockFails = false) :
    commitTxn s f = { s with vault := { f s.vault with txn := (s.vault.txn + 1) % 2 ^ 64 } } :=
  if_pos (by simp [h])

theorem readDual_good {b : Bool} (h : (if b then s.vault.badMap else s.vault.badEssential) = 0) : readDual s b = s := by
  rw [readDual]
  exact if_pos (by rw [h]; rfl)

/-- The boot counter after this power-up (18 R572). -/
def bootCount (s : State) : Nat := (s.vault.counters.get 0 0 + 1) % 2 ^ 64

theorem raiseBoot_open (hs : s.vault.state ≠ 3) (hp : s.vault.poolSpent = false) : raiseBoot s =
    raise (commitTxn s (fun v => { v with counters := v.counters.set 0 (bootCount s) })) 0x0B02 15 0
      (some (bootCount s % 2 ^ 32)) := by
  rw [raiseBoot, if_neg (by simp [vaultFailed, hs]), if_neg (by simp [hp])]
  rfl

theorem loadSupps_clean (h : s.vault.badSupps = []) : loadSupps s = { s with suppsEff := s.vault.supps } := by
  have hany : s.vault.supps.any (fun e => s.vault.badSupps.get false e.1) = false := by
    rw [h, List.any_eq_false]
    exact fun e _ => Bool.false_ne_true
  have hfilter : s.vault.supps.filter (fun e => !s.vault.badSupps.get false e.1) = s.vault.supps := by
    rw [h]
    exact List.filter_eq_self.2 fun _ _ => rfl
  rw [loadSupps, hany, if_neg (by decide), hfilter]

theorem vaultRecovery_runs (hst : s.power.stage = 3) (ht : s.vault.torn = false) (he : s.vault.badEssential = 0)
    (hm : s.vault.badMap = 0) (hs : s.vault.state ≠ 3) (hp : s.vault.poolSpent = false)
    (hb : s.vault.blockFails = false) (hbad : s.vault.badSupps = []) : exec .vaultRecovery s = .next
      (updPower { raise (commitTxn s (fun v => { v with counters := v.counters.set 0 (bootCount s) })) 0x0B02 15 0
        (some (bootCount s % 2 ^ 32)) with suppsEff := s.vault.supps } (fun p => { p with stage := 4 })) := by
  have hdual (b : Bool) : readDual s b = s := readDual_good (by cases b <;> simp [he, hm])
  rw [exec_vaultRecovery, execVaultRecovery, if_neg (by simp [hst])]
  dsimp only
  rw [ht, if_neg (by decide), hdual, hdual, raiseBoot_open hs hp, commitTxn_unworn hb]
  exact congrArg (fun u => Host.Outcome.next (updPower u _)) (loadSupps_clean hbad)

/-! ### Memory training (step 5) -/

theorem get_map_range {α : Type} (d : α) (g : Nat → α) {n u : Nat} (h : u < n) :
    Table.get d ((List.range n).map (fun u => (u, g u))) u = g u := by
  have hl : ∀ l : List Nat, u ∈ l → Table.get d (l.map (fun u => (u, g u))) u = g u := by
    intro l
    induction l with
    | nil => exact fun h => absurd h List.not_mem_nil
    | cons k l ih =>
      intro hu
      rw [List.map_cons, Table.get]
      split
      · subst k; rfl
      · exact ih ((List.mem_cons.1 hu).resolve_left (Ne.symm ‹_›))
  exact hl _ (List.mem_range.2 h)

theorem get_map_value {α : Type} (d : α) (f : Nat → α → α) (m : Table α) {k : Nat} (h : ∀ v, f k v = v) :
    Table.get d (m.map (fun e => (e.1, f e.1 e.2))) k = Table.get d m k := by
  induction m with
  | nil => rfl
  | cons e m ih =>
    rw [List.map_cons, Table.get, Table.get, ih]
    split
    · subst k; exact h _
    · rfl

/-- Physical faults once the LPDDR5X tier runs degraded (09 R349). -/
def degradedFaults (m : Table Nat) : Table Nat :=
  m.map (fun e => (e.1, if 0x20000000 ≤ e.1 && e.1 < 0x30000000 then 1 else e.2))

/-- Where the map is empty, the degraded tier drops nothing of it, and no unit's fault. -/
theorem dropFull_empty (h : s.vault.fmap = []) : ∃ d, dropFull s = { s with defects := d } ∧
    (∀ k, k < 0x20000000 → d.get 0 k = s.defects.get 0 k) ∧ (s.defects = [] → d = []) := by
  unfold dropFull
  split
  · exact ⟨s.defects, rfl, fun _ _ => rfl, id⟩
  · refine ⟨degradedFaults s.defects, ?_, fun k hk => ?_, fun hd => by rw [hd]; rfl⟩
    · rw [h]
      exact congrArg (fun m => { s with vault := { s.vault with fmap := m }, defects := degradedFaults s.defects }) h.symm
    · exact get_map_value 0 (fun k v => if 0x20000000 ≤ k && k < 0x30000000 then 1 else v) s.defects
        (fun v => if_neg (by simp; omega))

/-- A unit is out of service by its physical fault. -/
def unitDown (s : State) (u : Nat) : Bool :=
  decide (2 ≤ s.defects.get 0 (if u < 16 then unitKey 8 u else unitKey 10 (u - 16)))

/-- A unit with its spares counted (09 R353). -/
def countedDram (s : State) (u : Nat) : Dram :=
  { dramOf s u with sparesUsed := sparesOf s u, sparesOut := decide (spareMax s u ≤ sparesOf s u)
                    retired := min 255 (retiredOf s u) }

theorem countSpares_dram (s : State) : (countSpares s).dram = (List.range 48).map (fun u => (u, countedDram s u)) := rfl

/-- A unit as training leaves it. -/
def trainedUnit (s : State) (u : Nat) (x : Dram) : Dram := { x with trained := !unitDown s u }

/-- The stacks and devices as training leaves them. -/
def trainedDram (s : State) : Table Dram := (countSpares s).dram.map (fun e => (e.1, trainedUnit s e.1 e.2))

theorem get_trainedDram (s : State) {u : Nat} (h : u < 48) :
    (trainedDram s).get ({} : Dram) u = trainedUnit s u (countedDram s u) := by
  have hcomp : trainedDram s = (List.range 48).map (fun u => (u, trainedUnit s u (countedDram s u))) := by
    rw [trainedDram, countSpares_dram, List.map_map]
    rfl
  rw [hcomp]
  exact get_map_range _ _ h

theorem sparesOf_empty (h : s.vault.fmap = []) (u : Nat) : sparesOf s u = 0 := by
  unfold sparesOf
  rw [h]
  rfl

theorem mapInEffect_empty (h : s.vault.fmap = []) : mapInEffect s = s := by
  unfold mapInEffect
  rw [h]
  exact congrArg (fun m => { s with vault := { s.vault with fmap := m } }) h.symm

/-- Step 5 on an empty map, once the failed units are recorded: no spare is in use, and each unit is trained but one
that is down. -/
theorem memoryTraining_runs {l : List Nat} {v : State} (hst : s.power.stage = 4)
    (hv : l.foldl (fun s u => if u < 48 then trainFail s u else s) s = v) (hf : v.vault.fmap = []) :
    ∃ d, exec (.memoryTraining l) s = .next { v with
      defects := d, dram := trainedDram { v with defects := d }, power := { v.power with stage := 5 } } ∧
      (v.defects = [] → d = []) ∧ (∀ k, k < 0x20000000 → d.get 0 k = v.defects.get 0 k) := by
  obtain ⟨d, hd, hkeys, hnil⟩ := dropFull_empty hf
  refine ⟨d, ?_, hnil, hkeys⟩
  rw [exec_memoryTraining, execMemoryTraining, if_neg (by simp [hst]), hv]
  dsimp only
  rw [hd]
  have hfold : ({ v with defects := d } : State).vault.fmap.foldl applyRepair { v with defects := d } =
      { v with defects := d } := by rw [hf]; rfl
  rw [hfold, mapInEffect_empty (s := { v with defects := d }) hf]
  rfl

/-- What training leaves of a unit on an empty map. -/
theorem dramOf_trained {v : State} {d : Table Nat} (hf : v.vault.fmap = []) {p : Power} {u : Nat} (hu : u < 48) :
    (dramOf { v with defects := d, dram := trainedDram { v with defects := d }, power := p } u).sparesUsed = 0 ∧
      (dramOf { v with defects := d, dram := trainedDram { v with defects := d }, power := p } u).trained =
        !unitDown { v with defects := d } u := by
  have h := get_trainedDram { v with defects := d } hu
  exact ⟨(congrArg Dram.sparesUsed h).trans (sparesOf_empty (s := { v with defects := d }) hf u), congrArg Dram.trained h⟩

theorem recordFault_parts (s : State) (e : FEntry) :
    recordFault s e = { s with vault := { s.vault with queue := (recordFault s e).vault.queue } } := by
  unfold recordFault
  split <;> rfl

theorem recordUnless_parts (s : State) (c : Bool) (e : FEntry) :
    ∃ q, (if c then s else recordFault s e) = { s with vault := { s.vault with queue := q } } := by
  cases c with
  | true => exact ⟨s.vault.queue, rfl⟩
  | false => exact ⟨_, recordFault_parts s e⟩

/-- Where training keeps a unit's physical fault. -/
def trainKey (u : Nat) : Nat := if u < 16 then unitKey 8 u else unitKey 10 (u - 16)

theorem trainKey_lt {u : Nat} (h : u < 48) : trainKey u < 0x20000000 := by
  unfold trainKey unitKey
  split <;> simp <;> omega

/-- A unit that fails its training: its fault, its event, and a request of its entry (09 R345, R352). -/
theorem trainFail_spec (s : State) (u : Nat) : ∃ q, trainFail s u = { s with
    defects := s.defects.set (trainKey u) 2, evs := (trainFail s u).evs, evTotal := (trainFail s u).evTotal
    vault := { s.vault with queue := q } } ∧
    evNow s 0x0506 (if u < 16 then u / 2 else 8 + (u - 16) / 16) (if u < 16 then u else u - 16) none ∈
      (trainFail s u).evs := by
  have hkey : unitKey (if u < 16 then 8 else 10) (if u < 16 then u else u - 16) = trainKey u := by
    unfold trainKey
    split <;> rfl
  have hdie : (if u < 16 then u / 2 else 8 + (if u < 16 then u else u - 16) / 16) =
      if u < 16 then u / 2 else 8 + (u - 16) / 16 := by split <;> rfl
  have hset : setDefect s (trainKey u) 2 = { s with defects := s.defects.set (trainKey u) 2 } := rfl
  unfold trainFail
  dsimp only
  rw [hkey, hdie, hset]
  obtain ⟨q, hq⟩ := recordUnless_parts (raise { s with defects := s.defects.set (trainKey u) 2 } 0x0506
    (if u < 16 then u / 2 else 8 + (u - 16) / 16) (if u < 16 then u else u - 16) none) _ _
  rw [hq]
  exact ⟨q, rfl, List.mem_append_right _ (List.mem_singleton.2 rfl)⟩

/-! ### Zeroisation (step 6) -/

theorem zeroiseDone_fast (hst : s.power.stage = 5) (hr : s.power.resetting = false) :
    exec (.powerupZeroiseDone false) s = .next (updPower (zeroFast s) (fun p => { p with stage := 6 })) := by
  rw [exec_powerupZeroiseDone, execPowerupZeroiseDone, if_neg (by simp [hr])]
  exact (if_neg (by decide)).trans (if_neg (by simp [hst]))

theorem zeroiseDone_lpddr (h5 : 5 ≤ s.power.stage) (h8 : s.power.stage < 8) (hl : s.power.lpZero = false)
    (hr : s.power.resetting = false) : exec (.powerupZeroiseDone true) s = .next (raise
      (updPower { zeroise s lpBase 0x03C700000000 with freeCtr := s.freeCtr + 1, zeroDraw := some s.freeCtr }
        (fun p => { p with lpZero := true })) 0x0A07 15 0 none) := by
  rw [exec_powerupZeroiseDone, execPowerupZeroiseDone, if_neg (by simp [hr])]
  exact (if_pos rfl).trans (if_neg (by simp [hl]; omega))

theorem memGet_zeroFast (s : State) (a : Nat) : memGet (zeroFast s).mem a =
    if (a < 0x018000000000 ∨ (storeSpan ≤ a ∧ a < 0x0408C0000000)) then 0 else memGet s.mem a := by
  have h : memGet (zeroFast s).mem a =
      memGet (memZero (memZero s.mem 0 0x018000000000) storeSpan 0x0408C0000000) a := rfl
  rw [h, memGet_memZero, memGet_memZero]
  by_cases h1 : storeSpan ≤ a ∧ a < 0x0408C0000000
  · rw [if_pos h1, if_pos (.inr h1)]
  · rw [if_neg h1]
    by_cases h2 : a < 0x018000000000
    · rw [if_pos ⟨Nat.zero_le a, h2⟩, if_pos (.inl h2)]
    · rw [if_neg fun h => h2 h.2, if_neg (by tauto)]

/-! ### Self-test (step 7) -/

theorem applyNew_empty (h : s.vault.fmap = []) (hd : s.defects = []) :
    applyNew s = { s with defects := [], dram := (applyNew s).dram } := by
  obtain ⟨d, hdrop, -, hnil⟩ := dropFull_empty h
  unfold applyNew
  dsimp only
  rw [h, List.filter_nil, List.filter_nil, List.foldl_nil, hdrop, hnil hd]
  dsimp only
  rw [h, List.filter_nil, List.foldl_nil, mapInEffect_empty (s := { s with defects := [] }) h]
  rfl

/-- The state after step 7: the clusters on the boot clock at 600 MHz (14 R479; 15 R505). -/
def selfTested (s : State) : State :=
  updPower { s with clus := s.clus.map (fun e => (e.1, { e.2 with onBoot := true, ratio := 0x60000, ramping := false })) }
    (fun p => { p with stage := 7, netFault := p.netFault || false })

theorem selfTested_eq (s : State) : selfTested s = { s with
    clus := s.clus.map (fun e => (e.1, { e.2 with onBoot := true, ratio := 0x60000, ramping := false }))
    power := { s.power with stage := 7 } } := by
  unfold selfTested
  simp only [Bool.or_false]
  rfl

theorem powerupSelftest_clean (hst : s.power.stage = 6) (hr : s.power.resetting = false) (hf : s.vault.fmap = [])
    (hd : s.defects = []) (hw : s.wireFault = []) : ∃ m, exec .powerupSelftest s = .next { s with
      coresEff := s.coresNext, assign := s.assignNext, defects := [], dram := m
      clus := s.clus.map (fun e => (e.1, { e.2 with onBoot := true, ratio := 0x60000, ramping := false }))
      power := { s.power with stage := 7 } } := by
  have hmap : applyMap s = s := by
    unfold applyMap
    rw [hf]
    rfl
  have hnew := applyNew_empty (s := applyAssignment s) hf hd
  generalize (applyNew (applyAssignment s)).dram = m at hnew
  refine ⟨m, ?_⟩
  rw [exec_powerupSelftest, execPowerupSelftest, if_neg (by simp [hst, hr]), hd, hw]
  simp only [List.filter_nil, List.map_nil, List.append_nil, List.foldl_nil, List.any_nil, if_true]
  rw [hmap]
  refine congrArg Host.Outcome.next ((congrArg selfTested hnew).trans ((selfTested_eq _).trans ?_))
  rw [show (applyAssignment s).wireFault = [] from hw]
  rfl

/-! ### Steps 8 and 9 -/

theorem power_startPorts (s : State) : ∃ b, (startPorts s).power = { s.power with linksOn := b } := by
  by_cases h : s.power.linksOn = true ∨ s.power.stage < 8 ∨ s.power.linkUp = false
  · exact ⟨s.power.linksOn, by rw [startPorts_stay h]⟩
  · simp only [not_or, Bool.not_eq_true, Bool.not_eq_false, Nat.not_lt] at h
    exact ⟨true, by rw [(startPorts_spec h.1 h.2.1 h.2.2).1]⟩

theorem commandProcessorOpen_opens (hn : s.power.netFault = false) (hs : s.power.noSup = false) (hst : s.power.stage = 7)
    (hl : s.power.lpZero = true) : exec .commandProcessorOpen s =
      .next (startPorts (updPower s (fun p => { p with stage := 8, resetting := false }))) := by
  rw [exec_commandProcessorOpen, execCommandProcessorOpen]
  exact (if_neg (by simp [hn, hs])).trans (if_pos (by simp [hst, hl]))

theorem commandProcessorOpen_waits (hst : s.power.stage = 7) (hl : s.power.lpZero = false) :
    exec .commandProcessorOpen s = .next s := by
  rw [exec_commandProcessorOpen, execCommandProcessorOpen]
  rw [if_neg (c := ((decide (s.power.stage = 7) && s.power.lpZero) ||
    (decide (s.power.stage = 6) && s.power.resetting && decide (s.power.cause = 2))) = true) (by simp [hst, hl]), ite_self]

theorem ready_runs (hst : s.power.stage = 8) (h : s.power.perst = false ∨ s.power.cause ≠ 2) : exec .ready s =
    .next { s with capGen := 1, power := { s.power with
      stage := 9, ready := true, readyMs := (s.timeNs - s.power.since) / 1000000 % 2 ^ 32 } } := by
  rw [exec_ready, execReady, if_neg (by rcases h with h | h <;> simp [hst, h])]
  rfl

theorem ready_waits (hp : s.power.perst = true) (hc : s.power.cause = 2) : exec .ready s = .next s := by
  rw [exec_ready, execReady, if_pos (by simp [hp, hc])]

end

/-- The vault recovered (18 R566 to R572): the boot counter one higher, its event, the supplements in effect. -/
theorem vaultRecovery_spec {s : State} (hst : s.power.stage = 3) (ht : s.vault.torn = false)
    (he : s.vault.badEssential = 0) (hm : s.vault.badMap = 0) (hs : s.vault.state ≠ 3) (hp : s.vault.poolSpent = false)
    (hb : s.vault.blockFails = false) (hbad : s.vault.badSupps = []) : ∃ t, exec .vaultRecovery s = .next t ∧
      t.power = { s.power with stage := 4 } ∧ t.suppsEff = s.vault.supps ∧
      t.vault.counters.get 0 0 = (s.vault.counters.get 0 0 + 1) % 2 ^ 64 ∧
      (∀ i, i ≠ 0 → t.vault.counters.get 0 i = s.vault.counters.get 0 i) ∧
      t.evs = s.evs ++ [evNow s 0x0B02 15 0 (some (t.vault.counters.get 0 0 % 2 ^ 32))] ∧
      t.vault.fmap = s.vault.fmap ∧ SameBytes s t := by
  refine ⟨_, vaultRecovery_runs hst ht he hm hs hp hb hbad, ?_⟩
  rw [commitTxn_unworn hb]
  have hcount : (s.vault.counters.set 0 (bootCount s)).get 0 0 = bootCount s := Table.get_set_same ..
  refine ⟨rfl, rfl, hcount, fun i hi => Table.get_set_other _ _ _ _ _ hi, ?_, rfl, fun _ => rfl⟩
  have hevs (n : Nat) (h : n = bootCount s) : s.evs ++ [evNow s 0x0B02 15 0 (some (bootCount s % 2 ^ 32))] =
      s.evs ++ [evNow s 0x0B02 15 0 (some (n % 2 ^ 32))] := by rw [h]
  exact hevs _ hcount

theorem memoryTraining_none {s : State} (hst : s.power.stage = 4) (hf : s.vault.fmap = []) (hd : s.defects = []) :
    ∃ t, exec (.memoryTraining []) s = .next t ∧ t.power = { s.power with stage := 5 } ∧
      (∀ u, u < 48 → (dramOf t u).trained = true ∧ (dramOf t u).sparesUsed = 0) ∧ t.evs = s.evs ∧ SameBytes s t := by
  obtain ⟨d, he, hnil, -⟩ := memoryTraining_runs (l := []) hst rfl hf
  obtain rfl := hnil hd
  refine ⟨_, he, rfl, fun u hu => ?_, rfl, fun _ => rfl⟩
  obtain ⟨hspares, htrained⟩ := dramOf_trained (d := []) hf (p := { s.power with stage := 5 }) hu
  exact ⟨htrained, hspares⟩

theorem memoryTraining_one {s : State} {u : Nat} (hst : s.power.stage = 4) (hu : u < 48) (hf : s.vault.fmap = []) :
    ∃ t, exec (.memoryTraining [u]) s = .next t ∧ t.power.stage = 5 ∧ (dramOf t u).trained = false ∧
      evNow s 0x0506 (if u < 16 then u / 2 else 8 + (u - 16) / 16) (if u < 16 then u else u - 16) none ∈ t.evs := by
  obtain ⟨q, hfail, hev⟩ := trainFail_spec s u
  have hfold : [u].foldl (fun s u => if u < 48 then trainFail s u else s) s = trainFail s u := if_pos hu
  have hempty : (trainFail s u).vault.fmap = [] := by rw [hfail]; exact hf
  obtain ⟨d, he, -, hkeys⟩ := memoryTraining_runs hst hfold hempty
  refine ⟨_, he, rfl, ?_, hev⟩
  obtain ⟨-, htrained⟩ := dramOf_trained (d := d) hempty (p := { (trainFail s u).power with stage := 5 }) hu
  refine htrained.trans ?_
  have hget : d.get 0 (trainKey u) = 2 := by
    rw [hkeys _ (trainKey_lt hu), hfail]
    exact Table.get_set_same ..
  have hdown : unitDown { trainFail s u with defects := d } u = decide (2 ≤ d.get 0 (trainKey u)) := rfl
  rw [hdown, hget]
  rfl

/-- Settles O55: the sources, the rails, and each step of the power-up from the step before it. -/
theorem powerUpSequence : Obligations.PowerUpSequence := by
  unfold Obligations.PowerUpSequence
  refine ⟨fun s hf => ⟨fun hs => ⟨_, clockSourceStable_xtal (.inl hs), rfl⟩, ⟨_, missingEdge_refclk s, rfl⟩,
      fun hr => clkRefLoss_spec hf hr, fun hr => ⟨_, clkRefRestored_lost hf hr, rfl, rfl⟩, fun hx => clkXtalLoss_spec hf hx,
      fun hr hx => ⟨_, clockLossRestart_lost hf hr hx, rfl, rfl⟩⟩,
    fun s mv => ⟨fun hg hr ht hf => ⟨regulatorStart_starts hg hr ht hf, fun h => regulatorStart_stays (.inr h)⟩,
      fun hg hr => ⟨railGroupGood_on hg hr, railFailure_on hg hr⟩, fun hg hr ht => ⟨railRetry_again hg hr ht,
        fun h3 => ⟨railRetry_spent h3, regulatorStart_stays (.inl (by omega))⟩⟩⟩,
    fun s hr hs ho => ⟨_, powerUp_runs hr hs ho, rfl, hr, rfl, rfl, rfl, rfl, rfl, rfl, rfl, rfl, rfl, rfl, rfl, rfl⟩,
    fun s hs h => fixedDomainStart_starts hs h, fun s _ hr hx => fixedDomainStart_waits hr hx,
    fun s a b hs hn h0 h1 => ⟨_, romBoot_runs hs hn h0 h1, rfl, rfl, rfl, rfl, fun h => if_neg ?_, fun ha hb => if_pos ?_⟩,
    fun s hst ht he hm hs hp hb hbad => vaultRecovery_spec hst ht he hm hs hp hb hbad,
    fun s hst hf hd => memoryTraining_none hst hf hd, fun s u hst hu hf => memoryTraining_one hst hu hf,
    fun s hst hr => ⟨_, zeroiseDone_fast hst hr, rfl, fun a ha => ?_, fun a hlo hhi => ?_⟩,
    fun s h5 h8 hl hr => ⟨_, zeroiseDone_lpddr h5 h8 hl hr, rfl, List.mem_append_right _ (List.mem_singleton.2 rfl),
      fun a hlo hhi => ?_, fun a ha => ?_⟩,
    fun s hst hr hf hd hw _ => ?_,
    fun s hn hs hst => ⟨fun hl => ⟨_, commandProcessorOpen_opens hn hs hst hl, ?_, ?_, fun hlink => ?_⟩,
      fun hl => commandProcessorOpen_waits hst hl⟩,
    fun s hst => ⟨fun h => ready_runs hst h, fun hp hc => ready_waits hp hc⟩⟩
  · rcases h with h | h <;> simp [h]
  · simp [ha, hb]
  · exact (memGet_zeroFast s a).trans (if_pos ha)
  · refine (memGet_zeroFast s a).trans (if_neg ?_)
    simp only [lpBase, storeSpan] at *
    omega
  · exact (memGet_memZero ..).trans (if_pos ⟨hlo, hhi⟩)
  · exact (memGet_memZero ..).trans (if_neg (by omega))
  · obtain ⟨m, he⟩ := powerupSelftest_clean hst hr hf hd hw
    refine ⟨_, he, rfl, rfl, rfl, fun e hmem => ?_, rfl, rfl, fun _ => rfl⟩
    obtain ⟨c, -, rfl⟩ := List.mem_map.1 hmem
    exact ⟨rfl, rfl⟩
  · obtain ⟨b, h⟩ := power_startPorts (updPower s (fun p => { p with stage := 8, resetting := false }))
    rw [h]; rfl
  · obtain ⟨b, h⟩ := power_startPorts (updPower s (fun p => { p with stage := 8, resetting := false }))
    rw [h]; rfl
  · have h := startPorts_stay (s := updPower s (fun p => { p with stage := 8, resetting := false })) (.inr (.inr hlink))
    rw [h]
    rfl

end Sys2Proof.Machine
end

/-! ## Chunks applied, and engines that finish (11 R387, R395, R397, R408) -/
section
set_option Elab.async false
namespace Sys2Proof.Machine
open Sys2Proof

theorem exec_chunkApplied (k : Nat) (s : State) : exec (.chunkApplied k) s = execChunkApplied k s := rfl

theorem exec_engineFinished (k : Nat) (s : State) : exec (.engineFinished k) s = execEngineFinished k s := rfl

section
variable {s : State} {k : Nat} {c : ChunkBuf} {rest : List ChunkBuf} {x : Shard}

/-- The state with a gateway's oldest buffer free and its chunk counted (11 R387, R395). -/
def bufferFreed (s : State) (k : Nat) (rest : List ChunkBuf) : State :=
  updGw s k (fun g => { g with bufs := rest, applied := g.applied + 1 })

/-- What the end of a chunk does once its buffer is free (11 R395, R408). -/
def chunkEnds (s : State) (k : Nat) (x : Shard) (c : ChunkBuf) : State :=
  if x.kind = .vector then
    sendAdd (engineWrite s k (x.stage + c.index * 65536)
      (packCodes .fp32 ((List.range 16384).map (fun e => (toF32 (gradElem c e)).toNat)))) (96 + k / 2)
      (.module (x.doneCtr + 1)) 1 none
  else if c.failed then s
  else publish s k x c

theorem chunkApplied_waits (hb : (gw s k).bufs = c :: rest) (hn : 512 ≤ c.next) (hx : (shardsOf s k)[c.shard]? = some x)
    (hw : engineWaits s (k / 2) (chunkWrites s x c.index).1 (chunkWrites s x c.index).2 = true) :
    exec (.chunkApplied k) s = .next s := by
  rw [exec_chunkApplied, execChunkApplied, hb]
  dsimp only
  rw [if_neg (by omega), hx, Option.any_some, if_pos hw]

theorem chunkApplied_ends (hb : (gw s k).bufs = c :: rest) (hn : 512 ≤ c.next) (hx : (shardsOf s k)[c.shard]? = some x)
    (hw : engineWaits s (k / 2) (chunkWrites s x c.index).1 (chunkWrites s x c.index).2 = false) :
    exec (.chunkApplied k) s = .next (chunkEnds (bufferFreed s k rest) k x c) := by
  have hx' : (shardsOf (bufferFreed s k rest) k)[c.shard]? = some x := hx
  rw [exec_chunkApplied, execChunkApplied, hb]
  dsimp only
  rw [if_neg (by omega), hx, Option.any_some, hw, if_neg (by decide)]
  change (match (shardsOf (bufferFreed s k rest) k)[c.shard]? with | none => _ | some x => _) = _
  rw [hx']
  unfold chunkEnds
  dsimp only
  split
  · rfl
  · split <;> rfl

theorem chunkEnds_vector (h : x.kind = .vector) : chunkEnds s k x c =
    sendAdd (engineWrite s k (x.stage + c.index * 65536)
      (packCodes .fp32 ((List.range 16384).map (fun e => (toF32 (gradElem c e)).toNat)))) (96 + k / 2)
      (.module (x.doneCtr + 1)) 1 none := if_pos h

theorem chunkEnds_failed (h : x.kind ≠ .vector) (hf : c.failed = true) : chunkEnds s k x c = s := by
  rw [chunkEnds, if_neg h, if_pos hf]

theorem chunkEnds_published (h : x.kind ≠ .vector) (hf : c.failed = false) : chunkEnds s k x c = publish s k x c := by
  rw [chunkEnds, if_neg h, if_neg (by simp [hf])]

theorem engineFinished_finishes (hk : k < 16) (hj : s.jobState = 3) (hs : (gw s k).state = 1) (hb : (gw s k).bufs = [])
    (hg : (gw s k).gathers = []) (hl : lossHere s k = true → (gw s k).loss.isSome = true)
    (hd : shardsDone s (gw s k) 0 (shardsOf s k) = true) :
    exec (.engineFinished k) s = .next (updGw s k (fun x => { x with state := 2 })) := by
  have hloss : (lossHere s k && (gw s k).loss.isNone) = false := by
    cases h : lossHere s k with
    | false => rfl
    | true => simp [hl h]
  rw [exec_engineFinished, execEngineFinished]
  exact if_neg (by simp [hj, hs, hb, hg, hloss, hd]; omega)

theorem engineFinished_not (h : (gw s k).bufs ≠ [] ∨ (gw s k).gathers ≠ [] ∨
    shardsDone s (gw s k) 0 (shardsOf s k) = false) : exec (.engineFinished k) s = .next s := by
  rw [exec_engineFinished, execEngineFinished]
  exact if_pos (by rcases h with h | h | h <;> simp [h])

end

/-- Settles O40: the end of a chunk by the kind of its shard, and when an engine has finished. -/
theorem chunksAppliedAndEnginesFinish : Obligations.ChunksAppliedAndEnginesFinish := by
  unfold Obligations.ChunksAppliedAndEnginesFinish
  intro s k
  refine ⟨fun c rest x u hb hn hx hu => ⟨fun hw => chunkApplied_waits hb hn hx hw, fun hw => ?_⟩,
    fun hk hj hs hb hg hl hd => engineFinished_finishes hk hj hs hb hg hl hd, fun h => engineFinished_not h⟩
  obtain rfl : u = bufferFreed s k rest := hu
  rw [chunkApplied_ends hb hn hx hw]
  exact ⟨fun hv hf => by rw [chunkEnds_published hv hf], fun hv hf => by rw [chunkEnds_failed hv hf],
    fun hv => by rw [chunkEnds_vector hv]⟩

end Sys2Proof.Machine
end

/-! ## What an access of memory may change beside memory (09 R337 to R340) -/
section
set_option Elab.async false
namespace Sys2Proof.Machine
open Sys2Proof

/-- A state that differs in memory and its check symbols, and in what records an error of memory. -/
structure OnlyMemoryErrors (s t : State) : Prop where
  parts : t = { s with
    mem := t.mem, cwErr := t.cwErr, writeBack := t.writeBack, reached := t.reached, regs := t.regs, evs := t.evs
    evTotal := t.evTotal, lastCe := t.lastCe, rates := t.rates, tests := t.tests }
  evs : s.evs <+: t.evs

namespace OnlyMemoryErrors

theorem refl (s : State) : OnlyMemoryErrors s s := ⟨rfl, List.prefix_refl _⟩

theorem trans {s t u : State} (h : OnlyMemoryErrors s t) (k : OnlyMemoryErrors t u) : OnlyMemoryErrors s u :=
  ⟨by rw [k.parts, h.parts], h.evs.trans k.evs⟩

theorem raised (s : State) (c d u : Nat) (x : Option Nat) : OnlyMemoryErrors s (raise s c d u x) :=
  ⟨rfl, List.prefix_append _ _⟩

theorem of_setReg (s : State) (k v : Nat) : OnlyMemoryErrors s (setReg s k v) := ⟨rfl, List.prefix_refl _⟩

theorem of_bump (s : State) (k lo w n : Nat) : OnlyMemoryErrors s (bump s k lo w n) := of_setReg ..

theorem of_requestTest (s : State) (k i ev : Nat) : OnlyMemoryErrors s (requestTest s k i ev) := by
  unfold requestTest
  split
  · exact refl s
  · split
    · exact ⟨rfl, List.prefix_refl _⟩
    · exact (of_setReg s _ _).trans (raised ..)

theorem of_memErr (s : State) (a bit : Nat) : OnlyMemoryErrors s (memErr s a bit) := by
  unfold memErr
  dsimp only
  split
  · exact (of_setReg s _ _).trans (of_setReg ..)
  · exact of_setReg s _ _

theorem of_rate (s : State) (k l n : Nat) : OnlyMemoryErrors s (rate s k l n).1 := ⟨rfl, List.prefix_refl _⟩

theorem of_corrected (s : State) (a : Nat) (m : Option (List Byte)) : OnlyMemoryErrors s (corrected s a m) := by
  unfold corrected
  dsimp only
  have hcount := (of_memErr s a 0).trans (of_bump (memErr s a 0) (regKey (memDie s a).1 0x2090) 0 32 1)
  have hev (v : State) : OnlyMemoryErrors v (if v.lastCe.get 0 (memDie s a).1 = 0 ||
      v.lastCe.get 0 (memDie s a).1 + 1000000000 ≤ v.timeNs + 1 then
        { raise v 0x0501 (memDie s a).1 0 none with lastCe := v.lastCe.set (memDie s a).1 (v.timeNs + 1) } else v) := by
    split
    · exact ⟨rfl, List.prefix_append _ _⟩
    · exact refl v
  have hback (v : State) : OnlyMemoryErrors v (if isDram v a && !v.writeBack.contains (a / 64, m) then
      { v with writeBack := v.writeBack ++ [(a / 64, m)] } else v) := by
    split
    · exact ⟨rfl, List.prefix_refl _⟩
    · exact refl v
  have htest (v : State) (k x y : Nat) : OnlyMemoryErrors v (if (rate v k 15 3600000000000).2 then
      requestTest (rate v k 15 3600000000000).1 x y 0x0501 else (rate v k 15 3600000000000).1) := by
    split
    · exact (of_rate ..).trans (of_requestTest ..)
    · exact of_rate ..
  exact ((hcount.trans (hev _)).trans (hback _)).trans (htest _ _ _ _)

theorem of_uncorrectable (s : State) (a bit code : Nat) : OnlyMemoryErrors s (uncorrectable s a bit code) :=
  (((of_memErr s a bit).trans (of_setReg ..)).trans (raised ..)).trans (of_requestTest ..)

theorem of_readCw (s : State) (cw : Nat) : OnlyMemoryErrors s (readCw s cw).1 := by
  unfold readCw
  split
  · exact refl s
  · exact of_corrected ..
  · dsimp only
    split
    · exact of_corrected ..
    · exact refl s
  · exact of_uncorrectable ..
  · exact of_uncorrectable ..

theorem of_writeCw (s : State) (cw : Nat) (bs : List (Nat × Byte)) : OnlyMemoryErrors s (writeCw s cw bs).1 := by
  have hr : OnlyMemoryErrors s (if bs.length = 64 then (s, CwOut.clean) else readCw s cw).1 := by
    split
    · exact refl s
    · exact of_readCw s cw
  unfold writeCw
  dsimp only
  split
  · exact hr
  · exact hr
  · exact hr.trans ⟨rfl, List.prefix_refl _⟩

theorem of_writeCws (s : State) (bs : List (Nat × Byte)) (l : List Nat) : OnlyMemoryErrors s (writeCws s bs l).1 := by
  induction l generalizing s with
  | nil => exact refl s
  | cons cw l ih => exact (of_writeCw ..).trans (ih _)

theorem of_touch (s : State) (a n : Nat) : OnlyMemoryErrors s (touch s a n) := by
  unfold touch
  split
  · exact refl s
  · exact ⟨rfl, List.prefix_refl _⟩

theorem of_putMem (s : State) (bs : List (Nat × Byte)) : OnlyMemoryErrors s (putMem s bs).1 := of_writeCws ..

theorem of_writeMem (s : State) (a : Nat) (bs : List Byte) : OnlyMemoryErrors s (writeMem s a bs).1 :=
  (of_touch ..).trans (of_putMem ..)

theorem of_readCws (s : State) (cw n : Nat) : OnlyMemoryErrors s (readCws s cw n).s := by
  induction n generalizing s cw with
  | zero => exact refl s
  | succ n ih =>
    have hr := of_readCw s cw
    unfold readCws
    dsimp only
    split
    · exact hr
    · exact hr
    · exact hr.trans (ih _ _)
    · exact hr.trans (ih _ _)

theorem of_readMem (s : State) (a n : Nat) : OnlyMemoryErrors s (readMem s a n).s :=
  (of_touch ..).trans (of_readCws ..)

end OnlyMemoryErrors

end Sys2Proof.Machine
end

/-! ## The vote, the decision and the acknowledgement of a step (11 R400 to R407) -/
section
set_option Elab.async false
namespace Sys2Proof.Machine
open Sys2Proof

theorem exec_coordinatorVote (s : State) : exec .coordinatorVote s = execCoordinatorVote s := rfl

theorem exec_stepDecision (s : State) : exec .stepDecision s = execStepDecision s := rfl

theorem exec_stepAckDone (s : State) : exec .stepAckDone s = execStepAckDone s := rfl

/-- An add from the module's own node for one of its counters. -/
theorem sendAdd_module (s : State) (i : Nat) {n : W32} (h : n ≠ 0) : sendAdd s 104 (.module i) n none =
    { s with adds := s.adds ++ [{ c := .module i, n := n, node := 104, top := 104 }] } := if_neg h

/-! ### The vote -/

/-- A state that differs in what a group's vote changes. -/
def OnlyVotes (s t : State) : Prop :=
  t = { s with groups := t.groups, regs := t.regs, evs := t.evs, evTotal := t.evTotal }

theorem OnlyVotes.trans {s t u : State} (h : OnlyVotes s t) (k : OnlyVotes t u) : OnlyVotes s u := by
  unfold OnlyVotes at *
  rw [k, h]

theorem onlyVotes_voteGroup (s : State) (g : Nat) : OnlyVotes s (voteGroup s g) := by
  unfold voteGroup
  dsimp only
  have hif (v : State) (c : Bool) (b e : Nat) :
      OnlyVotes v (if c then raise (setBit v (regKey 10 0x620) b) e 15 g none else v) := by
    cases c <;> exact rfl
  exact ((hif ..).trans (hif ..)).trans rfl

theorem onlyVotes_foldl (l : List Nat) (s : State) : OnlyVotes s (l.foldl voteGroup s) := by
  induction l generalizing s with
  | nil => exact rfl
  | cons g l ih => exact (onlyVotes_voteGroup s g).trans (ih _)

section
variable {s : State} {h a d ep : Nat}

/-- The vote of this module asks for a skip (11 R400, R406). -/
def skips (s : State) : Bool := s.stepErr || decide (2 ≤ strongest s) || s.gws.any (fun e => e.2.readFault)

/-- The state with this module's vote formed, before its add (11 R400 step 1). -/
def voteFormed (s : State) : State :=
  let v := tally ((List.range 64).foldl voteGroup s)
  { v with coord := { v.coord with voted := true, votedSkip := skips s, freeze := strongest s = 3 } }

theorem voteFormed_spec (s : State) :
    (voteFormed s).coord = { s.coord with voted := true, freeze := decide (strongest s = 3), votedSkip := skips s } ∧
      (voteFormed s).adds = s.adds ∧ (voteFormed s).mem = s.mem ∧ (voteFormed s).stns = s.stns := by
  have hv := onlyVotes_foldl (List.range 64) s
  unfold voteFormed
  generalize (List.range 64).foldl voteGroup s = v at hv ⊢
  refine ⟨?_, ?_, ?_, ?_⟩ <;> rw [hv]
  · rfl
  · rfl
  · rfl
  · rfl

theorem castVote_eq (s : State) (h : Nat) : castVote s h false = { voteFormed s with
    adds := (voteFormed s).adds ++ [{ c := .module h, node := 104, top := 104, n := if skips s then 0x10001 else 0x10000 }] } := by
  have hn : (if skips s then (0x10001 : W32) else 0x10000) ≠ 0 := by split <;> decide
  rw [← sendAdd_module (voteFormed s) h hn]
  unfold castVote voteFormed skips
  simp only [Bool.false_or]

theorem castVote_spec (s : State) (h : Nat) :
    (castVote s h false).coord = { s.coord with voted := true, freeze := decide (strongest s = 3), votedSkip := skips s } ∧
      (castVote s h false).adds = s.adds ++
        [{ c := .module h, node := 104, top := 104, n := if skips s then 0x10001 else 0x10000 }] ∧
      (castVote s h false).mem = s.mem ∧ (castVote s h false).stns = s.stns := by
  obtain ⟨hcoord, hadds, hmem, hstns⟩ := voteFormed_spec s
  rw [castVote_eq]
  generalize (if skips s then (0x10001 : W32) else 0x10000) = n
  generalize voteFormed s = v at hcoord hadds hmem hstns ⊢
  exact ⟨hcoord, congrArg (· ++ _) hadds, hmem, hstns⟩

theorem sameBytes_of_mem {s t : State} (h : t.mem = s.mem) : SameBytes s t := fun b => by rw [h]

theorem coordinatorVote_votes (hi : stepItems s = some (h, a, d, ep)) (hj : s.jobState = 3) (hv : s.coord.voted = false)
    (hk : s.coord.acking = false) (hg : ∀ e ∈ s.gws, e.2.state ≠ 1) :
    exec .coordinatorVote s = .next (castVote s h false) := by
  rw [exec_coordinatorVote, execCoordinatorVote, hi]
  exact if_neg (by simpa [hj, hv, hk] using hg)

theorem coordinatorVote_waits (hi : stepItems s = some (h, a, d, ep)) (hg : ∃ e ∈ s.gws, e.2.state = 1) :
    exec .coordinatorVote s = .next s := by
  have hany : s.gws.any (fun e => decide (e.2.state = 1)) = true := by simpa using hg
  rw [exec_coordinatorVote, execCoordinatorVote, hi]
  exact if_pos (by rw [hany]; simp)

end

/-! ### The decision -/

theorem foldl_groups {α : Type} {f : State → α → State} (hf : ∀ s e, ∃ g, f s e = { s with groups := g }) (l : List α)
    (s : State) : ∃ g, l.foldl f s = { s with groups := g } := by
  induction l generalizing s with
  | nil => exact ⟨s.groups, rfl⟩
  | cons e l ih =>
    obtain ⟨g, hg⟩ := hf s e
    obtain ⟨g', hg'⟩ := ih { s with groups := g }
    exact ⟨g', by rw [List.foldl_cons, hg, hg']⟩

theorem foldLosses_parts (s : State) : ∃ g, foldLosses s = { s with groups := g } := by
  refine foldl_groups (fun s e => ?_) s.gws s
  cases e.2.loss with
  | none => exact ⟨s.groups, rfl⟩
  | some x => exact ⟨_, rfl⟩

section
variable {s : State} {h a d ep : Nat} {v : W32}

/-- Every module's vote at the value `v` was for the step (11 R400). -/
def allCommit (s : State) (v : W32) : Bool := (v - s.coord.bs).toNat = jobModules s * 0x10000

/-- The part of the coordinator as a decision leaves it. -/
def decidedCoord (x : Coord) (v : W32) (commit : Bool) : Coord :=
  { x with bs := v, live := if commit then !x.live else x.live, lastVerdict := !commit
           commits := if commit then x.commits + 1 else x.commits
           skips := if commit then x.skips else x.skips + 1
           runSteps := x.runSteps + 1, runSkips := if commit then x.runSkips else x.runSkips + 1
           voted := false, votedSkip := false, acking := true }

/-- The state once a step is decided, before its epoch record; `s` has the loss reports folded in where it commits. -/
def decided (s : State) (v : W32) (commit : Bool) : State :=
  let t := nextStep (latchGroups s)
  let t := { t with steps := t.steps + 1, coord := decidedCoord t.coord v commit }
  if commit then t else raise t 0x0702 15 0 none

/-- The epoch record of a decision, or the refusal of its address. -/
def recorded (s : State) (ep : Nat) : State :=
  if engineMay s 8 ep 64 then (writeMem s ep (exchOut s ep (epochRecord s))).1 else reservedAccess s 8 0

theorem decideStep_eq (hi : stepItems s = some (h, a, d, ep)) : decideStep s v =
    sendAdd (sendAdd (recorded (decided (if allCommit s v then foldLosses s else s) v (allCommit s v)) ep) 104
      (.module d) 1 none) 104 (.module a)
      (if (if allCommit s v then foldLosses s else s).coord.freeze then 0x10001 else 0x10000) none := by
  have hc : allCommit s v = decide ((v - s.coord.bs).toNat = jobModules s * 0x10000) := rfl
  rw [decideStep, hi, hc]
  by_cases hb : (v - s.coord.bs).toNat = jobModules s * 0x10000
  · simp only [hb, decide_true, if_true]
    rfl
  · simp only [hb, decide_false, if_false]
    rfl

/-- What a decision changes before its epoch record. -/
theorem decided_spec (s : State) (v : W32) (commit : Bool) :
    (decided s v commit).steps = s.steps + 1 ∧ (decided s v commit).coord = decidedCoord s.coord v commit ∧
      (decided s v commit).adds = s.adds ∧ (decided s v commit).cwErr = s.cwErr ∧ (decided s v commit).mem = s.mem ∧
      (decided s v commit).gws = (nextStep s).gws ∧
      (commit = false → evNow s 0x0702 15 0 none ∈ (decided s v commit).evs) := by
  cases commit with
  | true => exact ⟨rfl, rfl, rfl, rfl, rfl, rfl, nofun⟩
  | false => exact ⟨rfl, rfl, rfl, rfl, rfl, rfl, fun _ => List.mem_append_right _ (List.mem_singleton.2 rfl)⟩

theorem decided_parts (s : State) (v : W32) (commit : Bool) : ∃ e n, decided s v commit =
    { s with stepErr := false, gws := (nextStep s).gws, ofls := (nextStep s).ofls, groups := (latchGroups s).groups
             steps := s.steps + 1, coord := decidedCoord s.coord v commit, evs := e, evTotal := n } := by
  cases commit with
  | true => exact ⟨_, _, rfl⟩
  | false => exact ⟨_, _, rfl⟩

/-- Where an engine may reach does not depend on what a decision changes. -/
theorem engineMay_step (s : State) (x : Bool) (g : Table Gw) (o : Table Ofl) (r : Table Group) (n m : Nat) (c : Coord)
    (e : List Ev) (die a len : Nat) : engineMay { s with
      stepErr := x, gws := g, ofls := o, groups := r, steps := n, coord := c, evs := e, evTotal := m } die a len =
    engineMay s die a len := rfl

theorem engineMay_decided (s : State) (v : W32) (commit : Bool) (die a len : Nat) :
    engineMay (decided s v commit) die a len = engineMay s die a len := by
  obtain ⟨e, n, h⟩ := decided_parts s v commit
  rw [h, engineMay_step]

theorem exchMapped_decided (s : State) (v : W32) (commit : Bool) (a len : Nat) :
    exchMapped (decided s v commit) a len = exchMapped s a len := by
  obtain ⟨e, n, h⟩ := decided_parts s v commit
  rw [h]
  rfl

theorem evNow_decided (s : State) (v : W32) (commit : Bool) (c d u : Nat) (x : Option Nat) :
    evNow (decided s v commit) c d u x = evNow s c d u x := by
  obtain ⟨e, n, h⟩ := decided_parts s v commit
  rw [h]
  rfl

theorem nextStep_gws (s : State) : ∀ e ∈ (nextStep s).gws, e.2.bitmap = [] ∧ e.2.loss = none ∧ e.2.state ≠ 2 := by
  intro e he
  obtain ⟨x, -, rfl⟩ := List.mem_map.1 he
  refine ⟨rfl, rfl, ?_⟩
  change (if x.2.state = 0 then 0 else 1) ≠ 2
  split <;> decide

theorem recorded_errors (s : State) (ep : Nat) : OnlyMemoryErrors s (recorded s ep) := by
  unfold recorded
  split
  · exact .of_writeMem ..
  · exact .raised ..

theorem length_epochRecord (s : State) : (epochRecord s).length = 64 := by
  simp [epochRecord]

theorem length_exchBytes_le (s : State) (b : Bool) (n a : Nat) (bs : List Byte) :
    (exchBytes s b n a bs).length ≤ bs.length := by
  induction n generalizing a bs with
  | zero => exact Nat.zero_le _
  | succ n ih =>
    have hrest := ih (a + (4096 - a % 4096)) (bs.drop (4096 - a % 4096))
    have hpart : (if exchMapped s a (bs.take (4096 - a % 4096)).length then
        sized (bs.take (4096 - a % 4096)).length (exchUnit b (exchKey s) (a - lpBase) (bs.take (4096 - a % 4096)))
        else bs.take (4096 - a % 4096)).length = (bs.take (4096 - a % 4096)).length := by
      split
      · rw [sized_length]
      · rfl
    rw [List.length_drop] at hrest
    rw [exchBytes]
    rw [List.length_append, hpart, List.length_take]
    omega

theorem recorded_frame (hc : s.cwErr = []) {b : Nat} (hb : b < ep ∨ ep + 64 ≤ b) :
    memGet (recorded s ep).mem b = memGet s.mem b := by
  unfold recorded
  split
  · have hlen : (exchOut s ep (epochRecord s)).length ≤ 64 :=
      (length_exchBytes_le ..).trans_eq (length_epochRecord s)
    obtain ⟨-, -, hget⟩ := writeMem_clean (s := s) (a := ep) (bs := exchOut s ep (epochRecord s)) fun i _ => by
      unfold CleanCw; rw [hc]; rfl
    rw [hget b]
    split
    · rw [List.getElem?_eq_none (by omega)]; rfl
    · rfl
  · rfl

theorem recorded_bytes (hc : s.cwErr = []) (hm : engineMay s 8 ep 64 = true) (hx : exchMapped s ep 64 = false) {i : Nat}
    (hi : i < 64) : memGet (recorded s ep).mem (ep + i) = (epochRecord s).getD i 0 := by
  have hlen := length_epochRecord s
  have hout : exchOut s ep (epochRecord s) = epochRecord s := exchOut_unmapped (by rw [hlen]; exact hx)
  obtain ⟨-, -, hget⟩ := writeMem_clean (s := s) (a := ep) (bs := epochRecord s) fun i _ => by
    unfold CleanCw; rw [hc]; rfl
  rw [recorded, if_pos hm, hout, hget, if_pos (Nat.le_add_right ep i), Nat.add_sub_cancel_left, List.getD_eq_getElem?_getD,
    List.getElem?_eq_getElem (by omega)]
  rfl

theorem recorded_refused (hm : engineMay s 8 ep 64 = false) :
    (recorded s ep).mem = s.mem ∧ evNow s 0x0508 8 0 none ∈ (recorded s ep).evs := by
  rw [recorded, hm, if_neg (by decide)]
  exact ⟨rfl, List.mem_append_right _ (List.mem_singleton.2 rfl)⟩

end

section
variable {s : State} {h a d ep : Nat} {v : W32}

theorem stepDecision_decides (hi : stepItems s = some (h, a, d, ep)) (hj : s.jobState = 3) (hv : v = ctrVal s (.module h))
    (hvoted : s.coord.voted = true) (hsat : satisfied v (s.coord.bs + BitVec.ofNat 32 (jobModules s * 0x10000)) = true)
    (hw : engineWaits s 8 ep 64 = false) : exec .stepDecision s = .next (decideStep s v) := by
  subst hv
  rw [exec_stepDecision, execStepDecision, hi]
  exact if_neg (by simp [hj, hvoted, hsat, hw])

theorem stepDecision_waits (hi : stepItems s = some (h, a, d, ep)) (hv : v = ctrVal s (.module h))
    (hw : engineWaits s 8 ep 64 = true ∨
      satisfied v (s.coord.bs + BitVec.ofNat 32 (jobModules s * 0x10000)) = false) :
    exec .stepDecision s = .next s := by
  subst hv
  rw [exec_stepDecision, execStepDecision, hi]
  exact if_pos (by rcases hw with hw | hw <;> simp [hw])

/-- A decision (11 R400 steps 3 to 6): the coordinator, the gateways, the two adds, the epoch record. -/
theorem decideStep_spec (hi : stepItems s = some (h, a, d, ep)) : ∃ t, decideStep s v = t ∧
    t.steps = s.steps + 1 ∧ t.coord = decidedCoord s.coord v (allCommit s v) ∧
    (allCommit s v = false → evNow s 0x0702 15 0 none ∈ t.evs) ∧
    t.adds = s.adds ++ [{ c := .module d, n := 1, node := 104, top := 104 },
      { c := .module a, n := if s.coord.freeze then 0x10001 else 0x10000, node := 104, top := 104 }] ∧
    (∀ e ∈ t.gws, e.2.bitmap = [] ∧ e.2.loss = none ∧ e.2.state ≠ 2) ∧
    (s.cwErr = [] → ∀ b, b < ep ∨ ep + 64 ≤ b → memGet t.mem b = memGet s.mem b) ∧
    (engineMay s 8 ep 64 = true → exchMapped s ep 64 = false → s.cwErr = [] →
      ∀ i, i < 64 → memGet t.mem (ep + i) = (epochRecord t).getD i 0) ∧
    (engineMay s 8 ep 64 = false → t.mem = s.mem ∧ evNow s 0x0508 8 0 none ∈ t.evs) := by
  obtain ⟨g, hu⟩ : ∃ g, (if allCommit s v then foldLosses s else s) = { s with groups := g } := by
    split
    · exact foldLosses_parts s
    · exact ⟨s.groups, rfl⟩
  refine ⟨_, rfl, ?_⟩
  rw [decideStep_eq hi, hu]
  generalize allCommit s v = commit
  have hfreeze : (if ({ s with groups := g } : State).coord.freeze then (0x10001 : W32) else 0x10000) ≠ 0 := by
    split <;> decide
  rw [sendAdd_module _ d (by decide), sendAdd_module _ a hfreeze]
  obtain ⟨hsteps, hcoord, hadds, hcw, hmem, hgws, hskip⟩ := decided_spec { s with groups := g } v commit
  have hmay := engineMay_decided { s with groups := g } v commit 8 ep 64
  have hmap := exchMapped_decided { s with groups := g } v commit ep 64
  have htime : evNow (decided { s with groups := g } v commit) 0x0508 8 0 none = evNow s 0x0508 8 0 none :=
    evNow_decided ..
  generalize decided { s with groups := g } v commit = D at *
  obtain ⟨hparts, hevs⟩ := recorded_errors D ep
  have hrec : epochRecord (recorded D ep) = epochRecord D := by rw [hparts]; rfl
  have hframe := fun (hc : D.cwErr = []) b hb => recorded_frame (ep := ep) hc (b := b) hb
  have hbytes := fun (hc : D.cwErr = []) hm hx i hi => recorded_bytes (ep := ep) hc hm hx (i := i) hi
  have hrefused := fun hm => recorded_refused (s := D) (ep := ep) hm
  have h1 : (recorded D ep).steps = D.steps ∧ (recorded D ep).coord = D.coord ∧ (recorded D ep).adds = D.adds ∧
      (recorded D ep).gws = D.gws := by rw [hparts]; exact ⟨rfl, rfl, rfl, rfl⟩
  obtain ⟨r1, r2, r3, r4⟩ := h1
  generalize recorded D ep = R at *
  refine ⟨r1.trans hsteps, r2.trans hcoord, fun hs => hevs.subset (hskip hs), ?_, ?_, fun hc b hb => ?_,
    fun hm hx hc i hi => ?_, fun hm => ?_⟩
  · change (R.adds ++ [_]) ++ [_] = _
    rw [r3, hadds, List.append_assoc]
    rfl
  · change ∀ e ∈ R.gws, _
    rw [r4, hgws]
    exact nextStep_gws _
  · exact (hframe (hcw.trans hc) b hb).trans (by rw [hmem])
  · exact (hbytes (hcw.trans hc) (hmay.trans hm) (hmap.trans hx) i hi).trans (by rw [← hrec]; rfl)
  · obtain ⟨hm1, hm2⟩ := hrefused (hmay.trans hm)
    exact ⟨hm1.trans hmem, htime ▸ hm2⟩

end

/-! ### The acknowledgement -/

section
variable {s : State} {h a d ep : Nat} {w : W32}

/-- The coordinator once a step is acknowledged (11 R400 step 6). -/
def stepAcked (s : State) (w : W32) (frozen : Bool) : State :=
  { s with coord := { s.coord with ba := w, acking := false, freeze := false, frozen := s.coord.frozen || frozen } }

theorem stepAckDone_runs (hi : stepItems s = some (h, a, d, ep)) (hj : s.jobState = 3) (hw : w = ctrVal s (.module a))
    (hk : s.coord.acking = true) (hsat : satisfied w (s.coord.ba + BitVec.ofNat 32 (jobModules s * 0x10000)) = true)
    {frozen : Bool} (hf : frozen = decide (jobModules s * 0x10000 < (w - s.coord.ba).toNat)) :
    exec .stepAckDone s = .next (if frozen then haltAll { raise (setBit (stepAcked s w frozen) (regKey 10 0x620) 2) 0x0704 15 0
      none with run := { s.run with skipped := true } } else stepAcked s w frozen) := by
  subst hw hf
  rw [exec_stepAckDone, execStepAckDone, hi]
  refine (if_neg (by simp [hj, hk, hsat])).trans ?_
  exact (apply_ite Host.Outcome.next _ _ _).symm

theorem haltAll_run (s : State) : ∀ e ∈ (haltAll s).stns, e.2.run = .halted ∨ e.2.run = .idle := by
  intro e he
  obtain ⟨x, -, rfl⟩ := List.mem_map.1 he
  dsimp only
  split
  · exact .inr ‹_›
  · exact .inl rfl

end

/-- Settles O41: the vote, the decision with its record and its adds, and the acknowledgement with its freeze. -/
theorem votesAndDecisions : Obligations.VotesAndDecisions := by
  unfold Obligations.VotesAndDecisions
  refine ⟨fun s h a d ep hi hj hv hk => ⟨fun hg => ⟨_, coordinatorVote_votes hi hj hv hk hg, ?_⟩,
      fun hg => coordinatorVote_waits hi hg⟩,
    fun s h a d ep v hi hj => ⟨fun hv hvoted => ⟨fun hsat hw => ?_, fun hw => stepDecision_waits hi hv (.inl hw),
      fun hsat => stepDecision_waits hi hv (.inr hsat)⟩, fun hv hk hsat => ⟨fun hle => ?_, fun hlt => ?_⟩⟩⟩
  · obtain ⟨hcoord, hadds, hmem, hstns⟩ := castVote_spec s h
    exact ⟨hcoord, hadds, sameBytes_of_mem hmem, hstns⟩
  · obtain ⟨t, ht, hsteps, hcoord, hskip, hadds, hgws, hframe, hbytes, hrefused⟩ := decideStep_spec (v := v) hi
    refine ⟨t, (stepDecision_decides hi hj hv hvoted hsat hw).trans (congrArg _ ht), hsteps, ?_⟩
    rw [hcoord]
    refine ⟨rfl, rfl, rfl, fun hc => ?_, fun hc => ?_, hadds, hgws, hframe, hbytes, hrefused⟩
    · rw [show allCommit s v = true from decide_eq_true hc]
      exact ⟨rfl, rfl, rfl, rfl⟩
    · have hno : allCommit s v = false := decide_eq_false hc
      refine ⟨?_, ?_, ?_, ?_, hskip hno⟩ <;> rw [hno] <;> rfl
  · rw [stepAckDone_runs hi hj hv hk hsat (frozen := false) (decide_eq_false (by omega)).symm, if_neg (by decide), stepAcked,
      Bool.or_false]
  · refine ⟨_, (stepAckDone_runs hi hj hv hk hsat (frozen := true) (decide_eq_true hlt).symm).trans
      (congrArg _ (if_pos rfl)), ?_, rfl, rfl, haltAll_run _, fun _ => rfl⟩
    change (stepAcked s v true).coord = _
    rw [stepAcked, Bool.or_true]

end Sys2Proof.Machine
end

/-! ## The management endpoint (18 R578 to R580) -/
section
set_option Elab.async false
namespace Sys2Proof.Machine
open Sys2Proof

theorem request_up {s : State} (hm : mgtUp s = true) (f : State → State) : request s f = .next (f s) := by
  rw [request, hm]
  rfl

theorem request_down {s : State} (hm : mgtUp s = false) (f : State → State) : request s f = .next s := by
  rw [request, hm]
  rfl

theorem answer_spec (s : State) (a : Answer) :
    answer s a = { s with mgt := { s.mgt with reply := some a }, regs := (answer s a).regs } ∧
      bits (reg (answer s a) (regKey 10 0xA88)) 31 0 =
        min (2 ^ 32 - 1) (bits (reg s (regKey 10 0xA88)) 31 0 + 1) :=
  ⟨rfl, bits_reg_bump { s with mgt := { s.mgt with reply := some a } } (regKey 10 0xA88) 1 (lo := 0) (w := 32)
    (by omega) (by omega)⟩

theorem execGetTid_down {s : State} (hm : mgtUp s = false) : execGetTid s = .next s := request_down hm _

theorem execUnlock_down {s : State} (hm : mgtUp s = false) (k : Token) : execUnlock k s = .next s := request_down hm _

section
variable {s : State} (hm : mgtUp s = true)

theorem assignAddress_down {s : State} (hm : mgtUp s = false) (a : Nat) : assignAddress a s = .next s := by
  rw [assignAddress, hm]
  rfl

include hm

theorem assignAddress_free {a : Nat} (hi : s.mgt.i3c = false) (ha : a < 128) :
    assignAddress a s = .next { s with mgt := { s.mgt with i3c := true, address := a } } := by
  rw [assignAddress]
  exact if_neg (by simp [hm, hi, ha])

theorem execRstdaa_up : execRstdaa s = .next { s with mgt := { s.mgt with i3c := false, address := 0x5A } } := by
  rw [execRstdaa, hm]
  rfl

theorem execSetEndpointId_taken {op e : Nat} (ho : op < 2) (hlo : 8 ≤ e) (hhi : e < 255) :
    execSetEndpointId op e s =
      .next (answer { s with mgt := { s.mgt with eid := e, eidValid := true } } (.numbers [e])) := by
  rw [execSetEndpointId, request_up hm, if_neg (by simp; omega)]

theorem execSetEndpointId_refused {op e : Nat} (h : 2 ≤ op ∨ e < 8 ∨ 255 ≤ e) :
    execSetEndpointId op e s = .next (answer s .refused) := by
  rw [execSetEndpointId, request_up hm, if_pos (by simp; omega)]

theorem execSetTid_taken {i : Nat} (hlo : 1 ≤ i) (hhi : i < 255) :
    execSetTid i s = .next (answer { s with mgt := { s.mgt with tid := i } } (.numbers [])) := by
  rw [execSetTid, request_up hm, if_neg (by simp; omega)]

theorem execSetTid_zero : execSetTid 0 s = .next (answer s .refused) := by
  rw [execSetTid, request_up hm, if_pos (by simp)]

theorem execGetPldmCommands_untyped {ty : Nat} (v : Nat) (h : pldmCommands ty = []) :
    execGetPldmCommands ty v s = .next (answer s .refused) := by
  rw [execGetPldmCommands, request_up hm, if_pos h]

theorem execGetPldmCommands_typed {ty : Nat} {l : List Nat} (v : Nat) (h : pldmCommands ty = l) (hl : l ≠ []) :
    execGetPldmCommands ty v s = .next (answer s (.numbers l)) := by
  rw [execGetPldmCommands, request_up hm, h, if_neg hl]

theorem execGetPldmVersion_known (h f : Nat) {ty : Nat} (ht : ty = 0 ∨ ty = 2) :
    execGetPldmVersion h f ty s = .next (openAnswer s) := by
  rw [execGetPldmVersion, request_up hm]
  rcases ht with rfl | rfl <;> rfl

theorem execGetMctpVersionSupport_known {m : Nat} (ht : m = 0 ∨ m = 1 ∨ m = 0x7F) :
    execGetMctpVersionSupport m s = .next (openAnswer s) := by
  rw [execGetMctpVersionSupport, request_up hm]
  rcases ht with rfl | rfl | rfl <;> rfl

theorem execGetSensorReading_numeric {i : Nat} (re : Bool) (hlo : 1 ≤ i) (hhi : i ≤ 33) :
    execGetSensorReading i re s = .next (answer s (.reading
      (if sensorUp s i then (s.mgt.sensors.find? (fun e => e.1 = i)).map (·.2) else none))) := by
  rw [execGetSensorReading, request_up hm, if_neg (by simp [numericSensor]; omega)]

theorem execGetSensorReading_beyond {i : Nat} (re : Bool) (hi : 33 < i) :
    execGetSensorReading i re s = .next (answer s .refused) := by
  rw [execGetSensorReading, request_up hm, if_pos (by simp [numericSensor]; omega)]

theorem execGetStateSensorReadings_known {i : Nat} (hi : i = 40 ∨ i = 41) :
    execGetStateSensorReadings i s =
      .next (answer s (.reading ((s.mgt.sensors.find? (fun e => e.1 = i)).map (·.2)))) := by
  rw [execGetStateSensorReadings, request_up hm, if_neg (by simp; omega)]

theorem execGetSensorThresholds_numeric {i : Nat} (hlo : 1 ≤ i) (hhi : i ≤ 33) :
    execGetSensorThresholds i s = .next (answer s (.thresholds (thresholdsOf i))) := by
  rw [execGetSensorThresholds, request_up hm, if_pos (by simp [numericSensor]; omega)]

end

/-! ### Thresholds and readings -/

theorem thresholdsOf_die {i : Nat} (hlo : 5 ≤ i) (hhi : i ≤ 12) : thresholdsOf i = [(2, 95), (3, 100), (4, 115)] := by
  rw [thresholdsOf, if_neg (by omega), if_pos (by simp; omega)]

theorem thresholdsOf_sun {i : Nat} (h : i = 13 ∨ i = 14) : thresholdsOf i = [(2, 95), (3, 105), (4, 115)] := by
  rw [thresholdsOf, if_neg (by omega), if_neg (by simp; omega), if_pos (by simp; omega)]

theorem thresholdsOf_memory {i : Nat} (h : 15 ≤ i ∧ i ≤ 30 ∨ i = 33) :
    thresholdsOf i = [(2, 85), (3, 95), (4, 105)] := by
  rw [thresholdsOf, if_neg (by omega), if_neg (by simp; omega), if_neg (by simp; omega), if_pos (by simp; omega)]

theorem health_none {s : State} (h : healthCodes s = []) (k : Nat) : health s k = 0 := by
  rw [health, h]
  rfl

theorem health_one {s : State} {c : Nat} (h : healthCodes s = [c]) (k : Nat) : health s k = c := by
  rw [health, h]
  simp [Nat.mod_one]

theorem foldl_readout (l : List (Nat × Int)) (s : State) :
    ∃ d, l.foldl (fun s e => readout s (e.1 - 15) e.2.toNat) s = { s with dram := d } := by
  induction l generalizing s with
  | nil => exact ⟨s.dram, rfl⟩
  | cons e l ih =>
    obtain ⟨d, hd⟩ := ih (readout s (e.1 - 15) e.2.toNat)
    exact ⟨d, by rw [List.foldl_cons, hd]; rfl⟩

/-- The counting of thermal cycles keeps the readings (18 R576). -/
theorem thermalCycle_parts (s : State) :
    ∃ c v, thermalCycle s = { s with mgt := { s.mgt with cold := c }, vault := v } := by
  unfold thermalCycle
  dsimp only
  split
  · exact ⟨s.mgt.cold, s.vault, rfl⟩
  · split
    · exact ⟨true, s.vault, rfl⟩
    · split
      · exact ⟨false, _, rfl⟩
      · exact ⟨s.mgt.cold, s.vault, rfl⟩

/-- The readings that an update takes (18 R580). -/
def takenReadings (s : State) (l : List (Nat × Int)) : List (Nat × Int) :=
  l.filter (fun e => numericSensor e.1 && e.1 ≠ 4 && sensorUp s e.1)

/-- The sensors after an update: the measured ones, then those that follow the state (18 R580). -/
def updatedSensors (s : State) (l : List (Nat × Int)) : Table Int :=
  let t := (takenReadings s l).foldl (fun (t : Table Int) e => t.set e.1 e.2) s.mgt.sensors
  ((t.set 4 (effCap s)).set 40 s.jobState).set 41 (health s s.freeCtr)

theorem sensorUpdate_spec {s : State} (hm : mgtUp s = true) (l : List (Nat × Int)) :
    ∃ t, execPldmSensorUpdate l s = .next t ∧ t.freeCtr = s.freeCtr + 1 ∧ t.mgt.sensors = updatedSensors s l ∧
      t.evs = s.evs ∧ t.mem = s.mem := by
  obtain ⟨d, hd⟩ := foldl_readout ((takenReadings s l).filter (fun e => decide (15 ≤ e.1) && decide (e.1 ≤ 30)))
    { s with freeCtr := s.freeCtr + 1 }
  obtain ⟨c, v, hc⟩ := thermalCycle_parts
    { s with freeCtr := s.freeCtr + 1, dram := d, mgt := { s.mgt with sensors := updatedSensors s l } }
  refine ⟨_, (if_neg (by simp [hm])).trans (congrArg Host.Outcome.next ((congrArg
    (fun u : State => thermalCycle { u with mgt := { u.mgt with sensors := updatedSensors s l } }) hd).trans hc)),
    rfl, rfl, rfl, rfl⟩

theorem updatedSensors_cap (s : State) (l : List (Nat × Int)) : (updatedSensors s l).get 0 4 = effCap s := by
  rw [updatedSensors, Table.get_set_other _ _ _ _ _ (by decide), Table.get_set_other _ _ _ _ _ (by decide),
    Table.get_set_same]

theorem updatedSensors_jobState (s : State) (l : List (Nat × Int)) :
    (updatedSensors s l).get 0 40 = s.jobState := by
  rw [updatedSensors, Table.get_set_other _ _ _ _ _ (by decide), Table.get_set_same]

theorem updatedSensors_health (s : State) (l : List (Nat × Int)) :
    (updatedSensors s l).get 0 41 = health s s.freeCtr := by
  rw [updatedSensors, Table.get_set_same]

theorem updatedSensors_measured {s : State} {i : Nat} (v : Int) (hlo : 1 ≤ i) (hhi : i ≤ 33) (hi : i ≠ 4)
    (hu : sensorUp s i = true) : (updatedSensors s [(i, v)]).get 0 i = v := by
  have ht : takenReadings s [(i, v)] = [(i, v)] := List.filter_cons_of_pos (by simp [numericSensor, *])
  rw [updatedSensors, ht, Table.get_set_other _ _ _ _ _ (by omega), Table.get_set_other _ _ _ _ _ (by omega),
    Table.get_set_other _ _ _ _ _ (by omega)]
  exact Table.get_set_same _ _ _ _

/-- Settles O58: the answers of the endpoint, those the spec leaves open as one draw, and the sensors. -/
theorem managementEndpoint : Obligations.ManagementEndpoint := by
  unfold Obligations.ManagementEndpoint
  refine ⟨fun s a => ⟨_, rfl, answer_spec s a⟩, fun s hm => ⟨fun a hi ha => ⟨assignAddress_free hm hi ha,
      assignAddress_free hm hi ha⟩, execRstdaa_up hm, fun op e ho hlo hhi => execSetEndpointId_taken hm ho hlo hhi,
      fun op e h => execSetEndpointId_refused hm h, request_up hm fun s => answer s (.numbers [s.mgt.eid]),
      request_up hm fun s => answer s (.numbers [0x00, 0x01, 0x7F]), request_up hm fun s => answer s (.numbers [s.mgt.tid]),
      fun i hlo hhi => execSetTid_taken hm hlo hhi, execSetTid_zero hm,
      request_up hm fun s => answer s (.numbers [0, 2]),
      fun v => ⟨execGetPldmCommands_typed hm v rfl (by decide), execGetPldmCommands_typed hm v rfl (by decide),
        execGetPldmCommands_untyped hm v rfl⟩, ?_, fun i re hlo hhi => ⟨fun v hu hv => ?_, fun hu => ?_⟩,
      fun i re hi => ?_, fun i v hi hv => ?_, execGetSensorThresholds_numeric hm (by decide) (by decide),
      fun i hlo hhi => ?_, fun i hi => ?_, fun i hi => ?_, fun l => ?_⟩,
    fun s hm => ⟨fun a => assignAddress_down hm a, execGetTid_down hm, fun k => execUnlock_down hm k⟩⟩
  · rintro u rfl
    exact ⟨fun m hk => execGetMctpVersionSupport_known hm hk, fun h f ty ht => execGetPldmVersion_known hm h f ht,
      request_up hm openAnswer, fun r h f c => request_up hm openAnswer⟩
  · refine (execGetSensorReading_numeric hm re hlo hhi).trans ?_
    rw [if_pos hu, hv, Option.map_some]
  · refine (execGetSensorReading_numeric hm re hlo hhi).trans ?_
    rw [if_neg (by simp [hu])]
  · exact execGetSensorReading_beyond hm re hi
  · refine (execGetStateSensorReadings_known hm hi).trans ?_
    rw [hv, Option.map_some]
  · exact (execGetSensorThresholds_numeric hm (by omega) (by omega)).trans (by rw [thresholdsOf_die hlo hhi])
  · exact (execGetSensorThresholds_numeric hm (by omega) (by omega)).trans (by rw [thresholdsOf_sun hi])
  · exact (execGetSensorThresholds_numeric hm (by omega) (by omega)).trans (by rw [thresholdsOf_memory hi])
  · obtain ⟨t, ht, hfree, hsens, hevs, hmem⟩ := sensorUpdate_spec hm l
    refine ⟨t, ht, hfree, ?_, ?_, fun hh => ?_, fun k hk => ?_, fun i v hl hlo hhi hi hu => ?_, hevs,
      sameBytes_of_mem hmem⟩ <;> rw [hsens]
    · exact updatedSensors_cap s l
    · exact updatedSensors_jobState s l
    · rw [updatedSensors_health, health_none hh]
      rfl
    · rw [updatedSensors_health, health_one hk]
    · rw [hl]
      exact updatedSensors_measured v hlo hhi hi hu

end Sys2Proof.Machine
end

/-! ## The vault: transactions, supplements, enrollment, unlock and reads (17 R558 to R560; 18 R563 to R583) -/
section
set_option Elab.async false
namespace Sys2Proof.Machine
open Sys2Proof

theorem exec_vaultTransaction (s : State) : exec .vaultTransaction s = execVaultTransaction s := rfl

theorem exec_eventLogCommit (s : State) : exec .eventLogCommit s = execEventLogCommit s := rfl

theorem exec_lifetimeTelemetryCommit (s : State) : exec .lifetimeTelemetryCommit s = execLifetimeTelemetryCommit s := rfl

theorem exec_loadSupplement (src : Src) (a len : Nat) (p : Supplement) (b : Bool) (s : State) :
    exec (.loadSupplement src a len p b) s = execLoadSupplement src a len p b s := rfl

theorem exec_vaultRead (src : Src) (a off len area : Nat) (s : State) :
    exec (.vaultRead src a off len area) s = execVaultRead src a off len area s := rfl

theorem exec_enroll (r : EnrollRec) (s : State) : exec (.enroll r) s = execEnroll r s := rfl

theorem exec_unlock (k : Token) (s : State) : exec (.unlock k) s = execUnlock k s := rfl

theorem exec_mgtVaultRead (off len area : Nat) (s : State) :
    exec (.mgtVaultRead off len area) s = execMgtVaultRead off len area s := rfl

/-! ### What a fault-map entry changes beside the map -/

/-- What announcing an entry and taking its unit out of use may change (16 R536, R540). -/
def OnlyRemoved (s t : State) : Prop :=
  ∃ r l n f bb eb d c a k, t = { s with
    regs := r
    evs := s.evs ++ l
    evTotal := n
    freeCtr := f
    banksBad := bb
    edgesBad := eb
    defects := d
    ctl := c
    assignNext := a
    coresNext := k }

theorem OnlyRemoved.refl (s : State) : OnlyRemoved s s :=
  ⟨s.regs, [], s.evTotal, s.freeCtr, s.banksBad, s.edgesBad, s.defects, s.ctl, s.assignNext, s.coresNext, by
    rw [List.append_nil]⟩

theorem OnlyRemoved.trans {s t u : State} (h : OnlyRemoved s t) (k : OnlyRemoved t u) : OnlyRemoved s u := by
  obtain ⟨r, l, n, f, bb, eb, d, c, a, k, rfl⟩ := h
  obtain ⟨r', l', n', f', bb', eb', d', c', a', k', rfl⟩ := k
  exact ⟨r', l ++ l', n', f', bb', eb', d', c', a', k', by rw [← List.append_assoc]⟩

theorem OnlyRemoved.vault {s t : State} (h : OnlyRemoved s t) : t.vault = s.vault ∧ t.capGen = s.capGen := by
  obtain ⟨r, l, n, f, bb, eb, d, c, a, k, rfl⟩ := h
  exact ⟨rfl, rfl⟩

theorem onlyRemoved_raise (s : State) (code die unit : Nat) (d : Option Nat) :
    OnlyRemoved s (raise s code die unit d) :=
  ⟨s.regs, _, _, s.freeCtr, s.banksBad, s.edgesBad, s.defects, s.ctl, s.assignNext, s.coresNext, rfl⟩

theorem onlyRemoved_setReg (s : State) (k v : Nat) : OnlyRemoved s (setReg s k v) :=
  ⟨_, [], s.evTotal, s.freeCtr, s.banksBad, s.edgesBad, s.defects, s.ctl, s.assignNext, s.coresNext, by
    rw [List.append_nil]; rfl⟩

theorem onlyRemoved_latch (s : State) (k top bit : Nat) (l : List (Nat × Nat × Nat)) :
    OnlyRemoved s (latch s k top bit l) := onlyRemoved_setReg ..

theorem onlyRemoved_draw (s : State) : OnlyRemoved s (draw s).1 :=
  ⟨s.regs, [], s.evTotal, _, s.banksBad, s.edgesBad, s.defects, s.ctl, s.assignNext, s.coresNext, by
    rw [List.append_nil]; rfl⟩

theorem onlyRemoved_foldl {α : Type} {f : State → α → State} (h : ∀ s a, OnlyRemoved s (f s a)) (l : List α) (s : State) :
    OnlyRemoved s (l.foldl f s) := by
  induction l generalizing s with
  | nil => exact .refl s
  | cons a l ih => exact (h s a).trans (ih _)

theorem onlyRemoved_edgeFail (s : State) (e : Nat) : OnlyRemoved s (edgeFail s e) :=
  (onlyRemoved_foldl (fun s _ => onlyRemoved_latch s ..) _ s).trans (onlyRemoved_raise ..)

theorem onlyRemoved_failPosition (s : State) (g : Nat) (p : Option Nat) : OnlyRemoved s (failPosition s g p) :=
  ⟨s.regs, [], s.evTotal, s.freeCtr, s.banksBad, s.edgesBad, s.defects, s.ctl, _, _, by rw [List.append_nil]; rfl⟩

theorem onlyRemoved_raiseIf {s t : State} (p : Prop) [Decidable p] {code die unit : Nat} {d : Option Nat}
    (h : OnlyRemoved s t) : OnlyRemoved s (if p then raise t code die unit d else t) := by
  split
  · exact h.trans (onlyRemoved_raise ..)
  · exact h

theorem onlyRemoved_announce (s : State) (e : FEntry) : OnlyRemoved s (announce s e) := by
  unfold announce
  split
  · exact onlyRemoved_edgeFail ..
  · split
    · exact onlyRemoved_latch ..
    · split
      · exact onlyRemoved_raiseIf _ ((onlyRemoved_draw s).trans (onlyRemoved_foldl (fun s _ => onlyRemoved_latch s ..) _ _))
      · exact .refl s

theorem onlyRemoved_retireDies (s : State) : OnlyRemoved s (retireDies s) := by
  refine onlyRemoved_foldl (fun s d => ?_) _ s
  split
  · exact .refl s
  · exact onlyRemoved_foldl (fun s c => onlyRemoved_failPosition s ..) _ s

theorem onlyRemoved_fields (s : State) (bb eb d c) : OnlyRemoved s { s with
    banksBad := bb
    edgesBad := eb
    defects := d
    ctl := c } :=
  ⟨s.regs, [], s.evTotal, s.freeCtr, bb, eb, d, c, s.assignNext, s.coresNext, by rw [List.append_nil]⟩

theorem onlyRemoved_removeUnit (s : State) (kind loc action : Nat) : OnlyRemoved s (removeUnit s kind loc action) := by
  unfold removeUnit
  split
  · exact onlyRemoved_failPosition ..
  · exact onlyRemoved_failPosition ..
  · exact onlyRemoved_failPosition ..
  · exact onlyRemoved_failPosition ..
  · exact onlyRemoved_fields s _ s.edgesBad s.defects s.ctl
  · split
    · exact onlyRemoved_fields s s.banksBad _ s.defects s.ctl
    · exact .refl s
  · exact onlyRemoved_fields s s.banksBad s.edgesBad _ s.ctl
  · exact (onlyRemoved_fields s s.banksBad s.edgesBad s.defects _).trans (onlyRemoved_retireDies _)
  · exact onlyRemoved_fields s s.banksBad s.edgesBad s.defects _
  · exact .refl s

/-! ### A transaction -/

/-- The state with an entry announced and its unit out of use. -/
def faultTaken (s : State) (e : FEntry) : State := removeUnit (announce s e) e.kind e.location e.action

theorem onlyRemoved_faultTaken (s : State) (e : FEntry) : OnlyRemoved s (faultTaken s e) :=
  (onlyRemoved_announce s e).trans (onlyRemoved_removeUnit ..)

/-- The vault with an entry in its map (16 R539). -/
def mapped1 (v : Vault) (e : FEntry) : Vault := { v with fmap := v.fmap ++ [e], mapGen := (v.mapGen + 1) % 2 ^ 32 }

theorem commitFault_eq (s : State) (e : FEntry) : commitFault s e =
    rewriteCap (commitTxn (faultTaken s (entryOf s e)) (fun v => mapped1 v (entryOf s e))) := rfl

theorem commitFault_unworn {s : State} (e : FEntry) (h : s.vault.blockFails = false) :
    commitFault s e = { faultTaken s (entryOf s e) with
      capGen := (s.capGen + 1) % 2 ^ 32
      vault := { mapped1 s.vault (entryOf s e) with txn := (s.vault.txn + 1) % 2 ^ 64 } } := by
  have hf := onlyRemoved_faultTaken s (entryOf s e)
  rw [commitFault_eq]
  generalize faultTaken s (entryOf s e) = t at hf ⊢
  generalize entryOf s e = e at hf ⊢
  obtain ⟨hv, hc⟩ := hf.vault
  rw [commitTxn_unworn (s := t) (by rw [hv]; exact h), ← hv, ← hc]
  rfl

section
variable (s : State) {e : FEntry}

theorem faultTaken_bank (h : e.kind = 5) : (faultTaken s e).banksBad.get false e.location = true := by
  rw [faultTaken, h]
  exact Table.get_set_same ..

theorem faultTaken_edge (h : e.kind = 6) (ha : e.action = 4) :
    (faultTaken s e).edgesBad.get false e.location = true ∧
      evNow s 0x0108 15 0 (some e.location) ∈ (faultTaken s e).evs := by
  have ht : faultTaken s e = { edgeFail s e.location with
      edgesBad := (edgeFail s e.location).edgesBad.set e.location true } := by
    rw [faultTaken, announce, if_pos (by simp [h, ha]), h, ha]
    rfl
  rw [ht]
  refine ⟨Table.get_set_same .., ?_⟩
  obtain ⟨r, l, n, f, bb, eb, d, c, a, k, hl⟩ := onlyRemoved_foldl (f := fun s d =>
    latch s (regKey d 0x10) 7 7 [(22, 16, 0), (23, 23, 0), (26, 24, 7)]) (fun s _ => onlyRemoved_latch s ..)
    ((List.range 8).filter (edgeJoins e.location)) s
  change _ ∈ (edgeFail s e.location).evs
  rw [edgeFail, hl]
  exact List.mem_append_right _ (List.mem_singleton.2 rfl)

theorem faultTaken_supervisor (h : e.kind = 14) :
    (if e.location = 0 then (faultTaken s e).ctl.hd0Ok else (faultTaken s e).ctl.hd1Ok) = false := by
  rw [faultTaken, h]
  by_cases hl : e.location = 0
  · rw [if_pos hl]
    exact congrArg Ctl.hd0Ok (if_pos hl)
  · rw [if_neg hl]
    exact congrArg Ctl.hd1Ok (if_neg hl)

end

theorem entryOf_kind (s : State) (e : FEntry) : (entryOf s e).kind = e.kind ∧ (entryOf s e).location = e.location :=
  ⟨rfl, rfl⟩

theorem entryOf_edge {s : State} {e : FEntry} (h : e.kind = 6) : (entryOf s e).action = e.action := by
  change entryAction s e = e.action
  rw [entryAction, h]
  rfl

/-- What a fault-map entry does as it commits (16 R539). -/
theorem commitFault_spec {s : State} (e : FEntry) (h : s.vault.blockFails = false) :
    (commitFault s e).capGen = (s.capGen + 1) % 2 ^ 32 ∧
      (commitFault s e).vault = { s.vault with
        txn := (s.vault.txn + 1) % 2 ^ 64
        fmap := s.vault.fmap ++ [entryOf s e]
        mapGen := (s.vault.mapGen + 1) % 2 ^ 32 } ∧
      (e.kind = 5 → (commitFault s e).banksBad.get false e.location = true) ∧
      (e.kind = 6 → e.action = 4 → (commitFault s e).edgesBad.get false e.location = true ∧
        evNow s 0x0108 15 0 (some e.location) ∈ (commitFault s e).evs) ∧
      (e.kind = 14 → (if e.location = 0 then (commitFault s e).ctl.hd0Ok else (commitFault s e).ctl.hd1Ok) = false) ∧
      (commitFault s e).jobState = s.jobState ∧ (commitFault s e).stns = s.stns ∧ (commitFault s e).mem = s.mem := by
  rw [commitFault_unworn e h]
  refine ⟨rfl, rfl, fun hk => faultTaken_bank s (e := entryOf s e) hk,
    fun hk ha => faultTaken_edge s (e := entryOf s e) hk ((entryOf_edge hk).trans ha),
    fun hk => faultTaken_supervisor s (e := entryOf s e) hk, ?_⟩
  obtain ⟨r, l, n, f, bb, eb, d, c, a, k, ht⟩ := onlyRemoved_faultTaken s (entryOf s e)
  rw [ht]
  exact ⟨rfl, rfl, rfl⟩

section
variable {s : State} {x : Txn} {q : List Txn} (hq : s.vault.queue = x :: q)
include hq

theorem vaultTransaction_warned (hw : s.power.warn = true) : exec .vaultTransaction s = .next s := by
  rw [exec_vaultTransaction, execVaultTransaction, hq]
  exact if_pos hw

theorem vaultTransaction_runs (hw : s.power.warn = false) :
    exec .vaultTransaction s = .next (runTxn { s with vault := { s.vault with queue := q } } x) := by
  rw [exec_vaultTransaction, execVaultTransaction, hq]
  exact if_neg (by simp [hw])

end

/-- Entries numbered for the log (18 R573). -/
def numberedLog (n : Nat) (l : List LogEntry) : List LogEntry :=
  ((List.range l.length).zip l).map (fun e => { e.2 with seq := n + e.1 })

theorem length_numberedLog (n : Nat) (l : List LogEntry) : (numberedLog n l).length = l.length := by
  simp [numberedLog]

theorem get_numberedLog {n i : Nat} {l : List LogEntry} {e : LogEntry} (h : l[i]? = some e) :
    (numberedLog n l)[i]? = some { e with seq := n + i } := by
  have hi : i < l.length := (List.getElem?_eq_some_iff.1 h).1
  rw [numberedLog, List.getElem?_map, (List.getElem?_zip_eq_some (z := (i, e))).2 ⟨List.getElem?_range hi, h⟩]
  rfl

theorem appendLog_room {v : Vault} {l : List LogEntry} (h : v.log.length + l.length ≤ logMax) :
    appendLog v l = { v with log := v.log ++ numberedLog v.logSeq l, logSeq := v.logSeq + l.length } := by
  have hlen : (v.log ++ numberedLog v.logSeq l).length - logMax = 0 := by
    rw [List.length_append, length_numberedLog]
    omega
  have ha : appendLog v l = { v with
      log := (v.log ++ numberedLog v.logSeq l).drop ((v.log ++ numberedLog v.logSeq l).length - logMax)
      logSeq := v.logSeq + (numberedLog v.logSeq l).length } := rfl
  rw [ha, hlen, List.drop_zero, length_numberedLog]

/-- A commit of log entries where none has to give way (18 R573). -/
theorem commitLog_spec {s : State} {l : List LogEntry} (hb : s.vault.blockFails = false)
    (h : s.vault.log.length + l.length ≤ logMax) : ∀ t, t = commitTxn s (fun v => appendLog v l) →
      t = { s with vault := t.vault } ∧ t.vault.txn = (s.vault.txn + 1) % 2 ^ 64 ∧ t.vault.queue = s.vault.queue ∧
        t.vault.logSeq = s.vault.logSeq + l.length ∧ t.vault.log.length = s.vault.log.length + l.length ∧
        t.vault.log.take s.vault.log.length = s.vault.log ∧
        ∀ i e, l[i]? = some e → t.vault.log[s.vault.log.length + i]? = some { e with seq := s.vault.logSeq + i } := by
  rintro t rfl
  have ha := appendLog_room h
  rw [commitTxn_unworn (f := fun v => appendLog v l) (by rw [ha]; exact hb), ha]
  refine ⟨rfl, rfl, rfl, rfl, ?_, List.take_left, fun i e he => ?_⟩
  · exact (List.length_append ..).trans (congrArg _ (length_numberedLog ..))
  · exact (List.getElem?_append_right (Nat.le_add_right ..)).trans (by rw [Nat.add_sub_cancel_left, get_numberedLog he])

/-- A commit of the lifetime counts (18 R576). -/
theorem commitLife_spec {s : State} (hb : s.vault.blockFails = false) (n : Nat) : ∀ t, t = commitTxn s (fun v =>
      { v with lifeSaved := { v.life with seconds := v.life.seconds + n } }) →
    t = { s with vault := t.vault } ∧ t.vault.lifeSaved = { s.vault.life with seconds := s.vault.life.seconds + n } ∧
      t.vault.queue = s.vault.queue := by
  rintro t rfl
  rw [commitTxn_unworn hb]
  exact ⟨rfl, rfl, rfl⟩

/-! ### Waiting transactions that run before a command's own (18 R565) -/

/-- What transactions change: the vault but for its queue, the generation, and what a fault-map entry removes. -/
def OnlyVault (s t : State) : Prop :=
  ∃ v g w, OnlyRemoved s w ∧ v.queue = s.vault.queue ∧ t = { w with vault := v, capGen := g }

theorem OnlyRemoved.onlyVault {s t : State} (h : OnlyRemoved s t) : OnlyVault s t := by
  refine ⟨s.vault, s.capGen, t, h, rfl, ?_⟩
  obtain ⟨r, l, n, f, bb, eb, d, c, a, k, rfl⟩ := h
  rfl

theorem OnlyVault.refl (s : State) : OnlyVault s s := (OnlyRemoved.refl s).onlyVault

theorem onlyVault_vault {s : State} {v : Vault} (h : v.queue = s.vault.queue) : OnlyVault s { s with vault := v } :=
  ⟨v, s.capGen, s, .refl s, h, rfl⟩

theorem OnlyVault.trans {s t u : State} (h : OnlyVault s t) (k : OnlyVault t u) : OnlyVault s u := by
  obtain ⟨v, g, w, hw, hv, rfl⟩ := h
  obtain ⟨v', g', w', hw', hv', rfl⟩ := k
  obtain ⟨r, l, n, f, bb, eb, d, c, a, k, rfl⟩ := hw'
  exact ⟨v', g', _, hw.trans ⟨r, l, n, f, bb, eb, d, c, a, k, rfl⟩, hv'.trans hv, rfl⟩

theorem OnlyVault.parts {s t : State} (h : OnlyVault s t) :
    t.vault.queue = s.vault.queue ∧ t.suppsEff = s.suppsEff ∧
      (∀ code die unit d, evNow t code die unit d = evNow s code die unit d) := by
  obtain ⟨v, g, w, hw, hv, rfl⟩ := h
  obtain ⟨r, l, n, f, bb, eb, d, c, a, k, rfl⟩ := hw
  exact ⟨hv, rfl, fun _ _ _ _ => rfl⟩

/-- What retiring a block changes: nothing that is enrolled, counted or suppTaken (18 R569). -/
structure OnlyWorn (s t : State) : Prop where
  only : OnlyVault s t
  counters : t.vault.counters = s.vault.counters
  courseKeys : t.vault.courseKeys = s.vault.courseKeys
  supps : t.vault.supps = s.vault.supps

namespace OnlyWorn

theorem refl (s : State) : OnlyWorn s s := ⟨.refl s, rfl, rfl, rfl⟩

theorem trans {s t u : State} (h : OnlyWorn s t) (k : OnlyWorn t u) : OnlyWorn s u :=
  ⟨h.only.trans k.only, k.counters.trans h.counters, k.courseKeys.trans h.courseKeys, k.supps.trans h.supps⟩

theorem raised {s t : State} (h : OnlyWorn s t) {code die unit : Nat} {d : Option Nat} :
    OnlyWorn s (raise t code die unit d) :=
  h.trans ⟨(onlyRemoved_raise ..).onlyVault, rfl, rfl, rfl⟩

theorem of_setBit {s t : State} (h : OnlyWorn s t) {k b : Nat} : OnlyWorn s (setBit t k b) :=
  h.trans ⟨(onlyRemoved_setReg ..).onlyVault, rfl, rfl, rfl⟩

theorem of_vault {s : State} {v : Vault} (hq : v.queue = s.vault.queue) (hc : v.counters = s.vault.counters)
    (hk : v.courseKeys = s.vault.courseKeys) (hs : v.supps = s.vault.supps) : OnlyWorn s { s with vault := v } :=
  ⟨onlyVault_vault hq, hc, hk, hs⟩

theorem of_ite {s t u : State} {p : Prop} [Decidable p] (h : OnlyWorn s t) (k : OnlyWorn s u) :
    OnlyWorn s (if p then t else u) := by
  split
  · exact h
  · exact k

end OnlyWorn

/-- The state with a failed block retired (18 R569). -/
def retiredBlock (s : State) : State :=
  raise { s with vault := { s.vault with
    blockFails := false
    retired := min 65535 (s.vault.retired + 1)
    spare := s.vault.spare - 1 } } 0x0B07 15 0 none

/-- The state with the shortage of spare blocks told, once (18 R569). -/
def sparesTold (s : State) : State :=
  if s.vault.spare < 656 && !s.vault.sparesWarned then
    raise (setBit { s with vault := { s.vault with sparesWarned := true } } vltStatus 11) 0x0B08 15 0 none
  else s

theorem wear_eq (s : State) : wear s = if !s.vault.blockFails then s else
    if (sparesTold (retiredBlock s)).vault.spare = 0 then
      { sparesTold (retiredBlock s) with vault := { (sparesTold (retiredBlock s)).vault with state := 2 } }
    else sparesTold (retiredBlock s) := rfl

theorem onlyWorn_retiredBlock (s : State) : OnlyWorn s (retiredBlock s) := by
  refine OnlyWorn.raised ?_
  exact .of_vault rfl rfl rfl rfl

theorem onlyWorn_sparesTold (s : State) : OnlyWorn s (sparesTold s) := by
  refine .of_ite (.raised (.of_setBit ?_)) (.refl s)
  exact .of_vault rfl rfl rfl rfl

theorem onlyWorn_wear (s : State) : OnlyWorn s (wear s) := by
  have ht := (onlyWorn_retiredBlock s).trans (onlyWorn_sparesTold _)
  rw [wear_eq]
  generalize sparesTold (retiredBlock s) = t at ht ⊢
  exact .of_ite (.refl s) (.of_ite (ht.trans (.of_vault rfl rfl rfl rfl)) ht)

/-- What a commit leaves: the vault as asked, and what a worn block changes (18 R564). -/
theorem commitTxn_worn (s : State) (f : Vault → Vault) :
    OnlyWorn { s with vault := { f s.vault with txn := (s.vault.txn + 1) % 2 ^ 64 } } (commitTxn s f) := onlyWorn_wear _

theorem onlyVault_commitTxn {s : State} {f : Vault → Vault} (h : ∀ v, (f v).queue = v.queue) :
    OnlyVault s (commitTxn s f) :=
  OnlyVault.trans (onlyVault_vault (v := { f s.vault with txn := (s.vault.txn + 1) % 2 ^ 64 }) (h s.vault))
    (commitTxn_worn s f).only

theorem onlyVault_commitFault (s : State) (e : FEntry) : OnlyVault s (commitFault s e) := by
  have hf := (onlyRemoved_faultTaken s (entryOf s e)).onlyVault
  rw [commitFault_eq]
  generalize faultTaken s (entryOf s e) = t at hf ⊢
  have hc := hf.trans (onlyVault_commitTxn (f := fun v => mapped1 v (entryOf s e)) (fun _ => rfl))
  generalize commitTxn t _ = u at hc ⊢
  exact hc.trans ⟨u.vault, _, u, .refl u, rfl, rfl⟩

theorem appendLog_queue (v : Vault) (l : List LogEntry) : (appendLog v l).queue = v.queue := by
  unfold appendLog
  generalize logMax = m
  rfl

theorem onlyVault_runTxn (s : State) (x : Txn) : OnlyVault s (runTxn s x) := by
  unfold runTxn
  split
  · exact .refl s
  · cases x with
    | fault e => exact onlyVault_commitFault s e
    | log l => exact onlyVault_commitTxn (fun v => appendLog_queue v l)
    | life =>
      refine onlyVault_commitTxn ?_
      generalize s.timeNs / 1000000000 = n
      exact fun _ => rfl

theorem onlyVault_foldl (l : List Txn) (s : State) : OnlyVault s (l.foldl runTxn s) := by
  induction l generalizing s with
  | nil => exact .refl s
  | cons x l ih => exact (onlyVault_runTxn s x).trans (ih _)

theorem onlyVault_drainVault (s : State) : OnlyVault { s with vault := { s.vault with queue := [] } } (drainVault s) :=
  onlyVault_foldl _ _

/-- A command's own commit, behind what waited: its change stands in the vault, and nothing waits (18 R565). -/
theorem commitNow_spec (s : State) {f : Vault → Vault} (hf : ∀ v, (f v).queue = v.queue) :
    (commitNow s f).vault.queue = [] ∧ (commitNow s f).suppsEff = s.suppsEff ∧
      (∀ code die unit d, evNow (commitNow s f) code die unit d = evNow s code die unit d) ∧
      ∃ v, (commitNow s f).vault.counters = (f v).counters ∧ (commitNow s f).vault.courseKeys = (f v).courseKeys ∧
        (commitNow s f).vault.supps = (f v).supps := by
  have h := (onlyVault_drainVault s).trans (onlyVault_commitTxn hf)
  obtain ⟨hq, hs, he⟩ := h.parts
  have hw := commitTxn_worn (drainVault s) f
  exact ⟨hq, hs, he, (drainVault s).vault, hw.counters, hw.courseKeys, hw.supps⟩

theorem commitNow_alone {s : State} {f : Vault → Vault} (hq : s.vault.queue = []) (hb : (f s.vault).blockFails = false) :
    commitNow s f = { s with vault := { f s.vault with txn := (s.vault.txn + 1) % 2 ^ 64 } } := by
  have hd : drainVault s = s := by
    rw [drainVault, hq]
    exact congrArg (fun q => { s with vault := { s.vault with queue := q } }) hq.symm
  rw [commitNow, hd, commitTxn_unworn hb]

/-! ### Supplements, enrollment, unlock, reads -/

section
variable {s : State} {src : Src} {a len : Nat} {p : Supplement} (ht : Taken s .load true)
include ht

theorem loadSupplement_dma : exec (.loadSupplement src a len p true) s = .next (dmaFault s src) := by
  rw [exec_loadSupplement, execLoadSupplement, command_taken ht]
  exact if_pos rfl

section
variable (hh : suppHeadOk p = true) (hl : len = 64 + p.bodyLength + 29792) (hm : len ≤ 64 * 2 ^ 20)
  (he : s.vault.badEssential = 0)
include hh hl hm he

theorem loadSupplement_unsigned (h : s.vault.suppKey = 0 ∨ p.signedBy ≠ s.vault.suppKey) :
    exec (.loadSupplement src a len p false) s =
      .next (complete (raise (setBit s (regKey 10 0x900) 11) 0x0A04 15 0 none) src 0x02 0) := by
  rw [exec_loadSupplement, execLoadSupplement, command_taken ht, if_neg (by decide),
    if_neg (by simp [hh, hl]; omega), readDual_good (b := false) he]
  exact if_pos (by simpa using h)

section
variable (hk : s.vault.suppKey ≠ 0) (hg : p.signedBy = s.vault.suppKey)
include hk hg

theorem loadSupplement_old (hv : p.version < s.vault.counters.get 0 (1 + p.type)) :
    exec (.loadSupplement src a len p false) s =
      .next (complete (raise (setBit s (regKey 10 0x900) 11) 0x0A05 15 0 none) src 0x0C 0) := by
  rw [exec_loadSupplement, execLoadSupplement, command_taken ht, if_neg (by decide),
    if_neg (by simp [hh, hl]; omega), readDual_good (b := false) he]
  exact (if_neg (by simp [hk, hg])).trans (if_pos hv)

/-- The vault with a supplement for the next power-up (17 R559). -/
def suppTaken (p : Supplement) (v : Vault) : Vault :=
  { v with
    supps := v.supps.set p.type (p.version, p.measure)
    badSupps := v.badSupps.drop p.type
    counters := v.counters.set (1 + p.type) p.version }

theorem loadSupplement_taken (hs : s.vault.state = 0) (hv : s.vault.counters.get 0 (1 + p.type) ≤ p.version) :
    exec (.loadSupplement src a len p false) s = .next (complete (commitNow s (suppTaken p)) src stOK 0) := by
  rw [exec_loadSupplement, execLoadSupplement, command_taken ht, if_neg (by decide),
    if_neg (by simp [hh, hl]; omega), readDual_good (b := false) he]
  exact (if_neg (by simp [hk, hg])).trans ((if_neg (by omega)).trans (if_neg (by simp [hs])))

end

end

end

theorem length_flatMap_leBytes {k : Nat} (n : Nat) (f : Nat → Nat) :
    ((List.range n).flatMap (fun i => leBytes k (f i))).length = k * n := by
  rw [List.length_flatMap, List.map_congr_left (fun i _ => leBytes_length k (f i)), List.map_const', List.length_range,
    List.sum_replicate, smul_eq_mul, Nat.mul_comm]

theorem vaultRead_writes {s : State} {src : Src} {a off len area n : Nat} (ht : Taken s .any true) (hn : areaEnd s area = some n)
    (hl : off + len ≤ n) (hh : hostFails s a len = false) {bs : List Byte} (hbs : bs.length = n)
    (hr : readArea s area off len = (s, (bs.drop off).take len)) : exec (.vaultRead src a off len area) s =
      .next (complete (hostWrite s a ((bs.drop off).take len)) src stOK (len % 2 ^ 32)) := by
  have hlen : ((bs.drop off).take len).length = len := by
    rw [List.length_take, List.length_drop]
    omega
  rw [exec_vaultRead, execVaultRead, command_taken ht, hn]
  refine (if_neg (by omega)).trans ?_
  rw [hr, toHost, hlen, hh]
  rfl

section
variable {s : State} {r : EnrollRec} (hm : mgtUp s = true)
include hm

theorem enroll_malformed (hr : enrollOk r = false) : exec (.enroll r) s = .next (answer s (.vendor stInvalid [])) := by
  rw [exec_enroll, execEnroll, request_up hm]
  exact congrArg _ (if_pos (by simp [hr]))

theorem enroll_warned (hr : enrollOk r = true) (hw : s.power.warn = true) :
    exec (.enroll r) s = .next (answer s (.vendor 0x09 [])) := by
  rw [exec_enroll, execEnroll, request_up hm]
  exact congrArg _ ((if_neg (by simp [hr])).trans (if_pos hw))

section
variable (he : s.vault.badEssential = 0) (hr : enrollOk r = true) (hw : s.power.warn = false)
include he hr hw

theorem enroll_unsigned (h : s.vault.courseKeys.get 0 0 = 0 ∨ r.signedBy ≠ s.vault.courseKeys.get 0 0) :
    exec (.enroll r) s = .next (answer s (.vendor 0x02 [])) := by
  rw [exec_enroll, execEnroll, request_up hm, readDual_good (b := false) he]
  exact congrArg _ ((if_neg (by simp [hr])).trans ((if_neg (by simp [hw])).trans (if_pos (by simpa using h))))

section
variable (hk : s.vault.courseKeys.get 0 0 ≠ 0) (hg : r.signedBy = s.vault.courseKeys.get 0 0)
include hk hg

theorem enroll_old (hv : r.version ≤ s.vault.counters.get 0 1) :
    exec (.enroll r) s = .next (answer s (.vendor 0x0C [])) := by
  rw [exec_enroll, execEnroll, request_up hm, readDual_good (b := false) he]
  exact congrArg _ ((if_neg (by simp [hr])).trans ((if_neg (by simp [hw])).trans
    ((if_neg (by simp [hk, hg])).trans (if_pos hv))))

theorem enroll_readOnly (hv : s.vault.counters.get 0 1 < r.version) (hs : s.vault.state ≠ 0) :
    exec (.enroll r) s = .next (answer s (.vendor stFault [])) := by
  rw [exec_enroll, execEnroll, request_up hm, readDual_good (b := false) he]
  exact congrArg _ ((if_neg (by simp [hr])).trans ((if_neg (by simp [hw])).trans
    ((if_neg (by simp [hk, hg])).trans ((if_neg (by omega)).trans (if_pos hs)))))

/-- The vault with a course key enrolled, or with its slot empty (17 R558). -/
def enrolled (r : EnrollRec) (v : Vault) : Vault :=
  { v with
    courseKeys := if r.key = 0 then v.courseKeys.drop r.slot else v.courseKeys.set r.slot r.key
    counters := v.counters.set 1 r.version }

theorem enroll_taken (hv : s.vault.counters.get 0 1 < r.version) (hs : s.vault.state = 0) :
    exec (.enroll r) s = .next (answer (raise (commitNow s (enrolled r)) 0x0B09 15 0 none) (.vendor stOK [])) := by
  rw [exec_enroll, execEnroll, request_up hm, readDual_good (b := false) he]
  exact congrArg _ ((if_neg (by simp [hr])).trans ((if_neg (by simp [hw])).trans
    ((if_neg (by simp [hk, hg])).trans ((if_neg (by omega)).trans (if_neg (by simp [hs]))))))

end

end

end

theorem enrolled_key (r : EnrollRec) (v : Vault) : (enrolled r v).courseKeys.get 0 r.slot = r.key := by
  unfold enrolled
  dsimp only
  split
  · rw [Table.get_drop_same, ‹r.key = 0›]
  · exact Table.get_set_same ..

theorem enrolled_other (r : EnrollRec) (v : Vault) {i : Nat} (hi : i ≠ r.slot) :
    (enrolled r v).courseKeys.get 0 i = v.courseKeys.get 0 i := by
  unfold enrolled
  dsimp only
  split
  · exact Table.get_drop_other _ _ _ _ hi
  · exact Table.get_set_other _ _ _ _ _ hi

theorem leaveEclipse_parts (s : State) (g : Nat) : ∃ c, leaveEclipse s g = { s with clus := c } := by
  unfold leaveEclipse
  dsimp only
  split
  · exact ⟨_, rfl⟩
  · exact ⟨_, rfl⟩

theorem wakeClocks_parts (s : State) : ∃ c, wakeClocks s = { s with clus := c } := by
  unfold wakeClocks
  generalize s.clus = l
  induction l generalizing s with
  | nil => exact ⟨s.clus, rfl⟩
  | cons e l ih =>
    obtain ⟨c, hc⟩ := leaveEclipse_parts s e.1
    obtain ⟨d, hd⟩ := ih { s with clus := c }
    exact ⟨d, by rw [List.foldl_cons, hc, hd]⟩

theorem jobless_clock (s : State) : (jobless s).timeNs = s.timeNs ∧ (jobless s).keys = { loads := s.keys.loads } := by
  obtain ⟨c, hc⟩ := wakeClocks_parts s
  unfold jobless
  rw [hc]
  exact ⟨rfl, rfl⟩

/-- The state after an unlock: no job, its memory zeroised, the debug port open (17 R560). -/
def unlocked (s : State) : State := { raise (endForDebug s) 0x0A06 15 0 none with debugOpen := true }

/-- What an unlock still drops of a module without a job, before it zeroises (17 R560). -/
def unlockCleared (u : State) : State :=
  { u with
    reached := []
    qps := u.qps.map (fun e => (e.1, { e.2 with
      outs := []
      replays := [] }))
    power := { u.power with clockWait := [] } }

theorem endForDebug_eq (s : State) : endForDebug s =
    raise { (draw (zeroise (zeroFast (unlockCleared (jobless s))) lpBase 0x03C700000000)).1 with
      zeroDraw := some (draw (zeroise (zeroFast (unlockCleared (jobless s))) lpBase 0x03C700000000)).2 } 0x0A07 15 0 none := rfl

theorem zeroise_frame (s : State) (lo hi : Nat) : (zeroise s lo hi).timeNs = s.timeNs ∧
    (zeroise s lo hi).jobState = s.jobState ∧ (zeroise s lo hi).course = s.course ∧ (zeroise s lo hi).keys = s.keys :=
  ⟨rfl, rfl, rfl, rfl⟩

theorem zeroFast_frame (s : State) : (zeroFast s).timeNs = s.timeNs ∧ (zeroFast s).jobState = s.jobState ∧
    (zeroFast s).course = s.course ∧ (zeroFast s).keys = s.keys := by
  obtain ⟨ht, hj, hc, hk⟩ := zeroise_frame (zeroise s 0 0x018000000000) storeSpan 0x0408C0000000
  obtain ⟨ht', hj', hc', hk'⟩ := zeroise_frame s 0 0x018000000000
  unfold zeroFast
  exact ⟨ht.trans ht', hj.trans hj', hc.trans hc', hk.trans hk'⟩

theorem unlockCleared_frame (u : State) : (unlockCleared u).timeNs = u.timeNs ∧
    (unlockCleared u).jobState = u.jobState ∧ (unlockCleared u).course = u.course ∧ (unlockCleared u).keys = u.keys :=
  ⟨rfl, rfl, rfl, rfl⟩

theorem jobless_frame (s : State) : (jobless s).jobState = 0 ∧ (jobless s).course = none := ⟨rfl, rfl⟩

theorem endForDebug_frame (s : State) : (endForDebug s).timeNs = (jobless s).timeNs ∧ (endForDebug s).jobState = 0 ∧
    (endForDebug s).course = none ∧ (endForDebug s).keys = (jobless s).keys := by
  obtain ⟨ht, hj, hc, hk⟩ := zeroise_frame (zeroFast (unlockCleared (jobless s))) lpBase 0x03C700000000
  obtain ⟨ht', hj', hc', hk'⟩ := zeroFast_frame (unlockCleared (jobless s))
  obtain ⟨ht'', hj'', hc'', hk''⟩ := unlockCleared_frame (jobless s)
  obtain ⟨hj₀, hc₀⟩ := jobless_frame s
  rw [endForDebug_eq]
  generalize zeroise (zeroFast (unlockCleared (jobless s))) lpBase 0x03C700000000 = t at ht hj hc hk ⊢
  exact ⟨ht.trans (ht'.trans ht''), hj.trans (hj'.trans (hj''.trans hj₀)), hc.trans (hc'.trans (hc''.trans hc₀)),
    hk.trans (hk'.trans hk'')⟩

theorem memGet_unlocked {s : State} {a : Nat} (h : a < 0x018000000000 ∨ (lpBase ≤ a ∧ a < 0x03C700000000) ∨
    (storeSpan ≤ a ∧ a < 0x0408C0000000)) : memGet (unlocked s).mem a = 0 := by
  have hm : memGet (unlocked s).mem a = memGet (memZero (zeroFast (unlockCleared (jobless s))).mem lpBase 0x03C700000000) a := by
    rw [unlocked, endForDebug_eq]
    rfl
  rw [hm, memGet_memZero]
  split
  · rfl
  · exact (memGet_zeroFast _ a).trans (if_pos (by tauto))

theorem unlocked_spec (s : State) : (unlocked s).debugOpen = true ∧ (unlocked s).jobState = 0 ∧
    (unlocked s).course = none ∧ (unlocked s).keys = { loads := s.keys.loads } ∧
    ∃ e ∈ (unlocked s).evs, e.code = 0x0A06 ∧ e.time = s.timeNs := by
  obtain ⟨htime, hkeys⟩ := jobless_clock s
  obtain ⟨ht, hj, hc, hk⟩ := endForDebug_frame s
  unfold unlocked
  generalize endForDebug s = t at ht hj hc hk ⊢
  exact ⟨rfl, hj, hc, hk.trans hkeys, _, List.mem_append_right _ (List.mem_singleton.2 rfl), rfl, ht.trans htime⟩

section
variable {s : State} {k : Token} (hm : mgtUp s = true) (hs : s.vault.state ≠ 3)
include hm hs

theorem unlock_malformed (hk : tokenOk s k = false) : exec (.unlock k) s = .next (answer s (.vendor stInvalid [])) := by
  rw [exec_unlock, execUnlock, request_up hm]
  exact congrArg _ ((if_neg (by simp [vaultFailed, hs])).trans (if_pos (by simp [hk])))

theorem unlock_unsigned (hk : tokenOk s k = true) (hg : k.signedBy ≠ debugKey) :
    exec (.unlock k) s = .next (answer s (.vendor 0x02 [])) := by
  rw [exec_unlock, execUnlock, request_up hm]
  exact congrArg _ ((if_neg (by simp [vaultFailed, hs])).trans ((if_neg (by simp [hk])).trans (if_pos hg)))

theorem unlock_opens (hk : tokenOk s k = true) (hg : k.signedBy = debugKey) :
    exec (.unlock k) s = .next (answer (unlocked s) (.vendor stOK [])) := by
  rw [exec_unlock, execUnlock, request_up hm]
  exact congrArg _ ((if_neg (by simp [vaultFailed, hs])).trans ((if_neg (by simp [hk])).trans (if_neg (by simp [hg]))))

end

section
variable {s : State} {off len area n : Nat} (hm : mgtUp s = true) (hn : areaEnd s area = some n) (hl : len ≤ 1024)
  (ho : off + len ≤ n)
include hm hn hl ho

theorem mgtVaultRead_warned (hw : s.power.warn = true) :
    exec (.mgtVaultRead off len area) s = .next (answer s (.vendor 0x09 [])) := by
  rw [exec_mgtVaultRead, execMgtVaultRead, request_up hm, hn]
  exact congrArg _ ((if_neg (by simp; omega)).trans (if_pos hw))

theorem mgtVaultRead_answers (hw : s.power.warn = false) : exec (.mgtVaultRead off len area) s =
    .next (answer (readArea s area off len).1 (.vendor stOK (readArea s area off len).2)) := by
  rw [exec_mgtVaultRead, execMgtVaultRead, request_up hm, hn]
  exact congrArg _ ((if_neg (by simp; omega)).trans (if_neg (by simp [hw])))

end

/-- Settles O57: transactions one by one, the commits of commands behind them, and what each request is allowed. -/
theorem vaultCommands : Obligations.VaultCommands := by
  unfold Obligations.VaultCommands
  refine ⟨fun s x q hq => ⟨vaultTransaction_warned hq, fun hw hs => ?_, fun hw hs hb => ⟨?_, ?_, ?_⟩⟩,
    fun s hs => ⟨fun hb => ?_, fun hb => ?_, fun h4 => ?_⟩,
    fun s src a len p ht hh hl hm he hs => ⟨loadSupplement_dma ht, loadSupplement_unsigned ht hh hl hm he,
      fun hk hg => ⟨loadSupplement_old ht hh hl hm he hk hg, fun hv => ?_, fun hv hb hq => ?_⟩⟩,
    fun s src a off len ht he hh bs => ⟨?_, ?_⟩,
    fun s r hm he => ⟨enroll_malformed hm, enroll_warned hm, fun hr hw => ⟨enroll_unsigned hm he hr hw,
      fun hk hg => ⟨enroll_old hm he hr hw hk hg, enroll_readOnly hm he hr hw hk hg, fun hv hs => ?_,
        fun hv hs hb hq => ?_⟩⟩⟩,
    fun s k hm hs => ⟨unlock_malformed hm hs, unlock_unsigned hm hs, fun hk hg => ?_⟩,
    fun s off len area n hm hn hl ho => ⟨mgtVaultRead_warned hm hn hl ho, mgtVaultRead_answers hm hn hl ho⟩⟩
  · rw [vaultTransaction_runs hq hw]
    exact congrArg _ (if_pos hs)
  · rintro e rfl
    refine ⟨_, (vaultTransaction_runs hq hw).trans (congrArg _ (if_neg (by simp [hs]))), ?_⟩
    exact commitFault_spec (s := { s with vault := { s.vault with queue := q } }) e hb
  · rintro l rfl hroom
    refine ⟨_, (vaultTransaction_runs hq hw).trans (congrArg _ (if_neg (by simp [hs]))), ?_⟩
    exact commitLog_spec (s := { s with vault := { s.vault with queue := q } }) hb hroom _ rfl
  · rintro rfl
    refine ⟨_, (vaultTransaction_runs hq hw).trans (congrArg _ (if_neg (by simp [hs]))), ?_⟩
    exact commitLife_spec (s := { s with vault := { s.vault with queue := q } }) hb (s.timeNs / 1000000000) _ rfl
  · rw [exec_eventLogCommit, execEventLogCommit, if_neg (by simp [hb, hs])]
  · rw [exec_eventLogCommit, execEventLogCommit, if_pos (by simp [hb])]
  · rw [exec_lifetimeTelemetryCommit, execLifetimeTelemetryCommit, if_neg (by simp [hs]; omega)]
  · obtain ⟨hq, hs', he', v, hc, hk', hp⟩ := commitNow_spec s (f := suppTaken p) (fun _ => rfl)
    refine ⟨_, loadSupplement_taken ht hh hl hm he hk hg hs hv, ?_, ?_, hq, hs'⟩
    · rw [hp]
      exact Table.get_set_same ..
    · rw [hc]
      exact Table.get_set_same ..
  · rw [loadSupplement_taken ht hh hl hm he hk hg hs hv, commitNow_alone hq hb]
    rfl
  · rintro rfl hl
    exact vaultRead_writes ht rfl hl hh (length_flatMap_leBytes 64 _) (by
      simp only [readArea, readDual_good (b := false) he])
  · rintro rfl hl
    exact vaultRead_writes ht rfl hl hh (by
      rw [List.length_append]
      exact congrArg₂ (· + ·) (length_flatMap_leBytes 16 _) (leBytes_length 64 _)) (by
      simp only [readArea, readDual_good (b := false) he])
  · obtain ⟨hq, hs', he', v, hc, hk', hp⟩ := commitNow_spec s (f := enrolled r) (fun _ => rfl)
    refine ⟨_, enroll_taken hm he hr hw hk hg hv hs, ?_, hq, ?_, ?_⟩
    · change (commitNow s (enrolled r)).vault.counters.get 0 1 = _
      rw [hc]
      exact Table.get_set_same ..
    · change (commitNow s (enrolled r)).vault.courseKeys.get 0 r.slot = _
      rw [hk', enrolled_key]
    · exact List.mem_append_right _ (List.mem_singleton.2 (he' ..).symm)
  · have hc := commitNow_alone (f := enrolled r) hq hb
    refine ⟨_, enroll_taken hm he hr hw hk hg hv hs, ?_⟩
    rw [hc]
    exact ⟨rfl, rfl, enrolled_key r s.vault, fun i hi => enrolled_other r s.vault hi⟩
  · obtain ⟨ho, hj, hc, hkeys, hev⟩ := unlocked_spec s
    exact ⟨_, unlock_opens hm hs hk hg, ho, hj, hc, hkeys, fun a ha => memGet_unlocked ha, hev⟩

end Sys2Proof.Machine
end

/-! ## Self-tests and control cores (16 R530 to R539) -/
section
set_option Elab.async false
namespace Sys2Proof.Machine
open Sys2Proof

theorem exec_selftestUnit (src : Src) (kind i : Nat) (s : State) :
    exec (.selftestUnit src kind i) s = execSelftestUnit src kind i s := rfl

theorem exec_selftestModule (src : Src) (s : State) : exec (.selftestModule src) s = execSelftestModule src s := rfl

theorem exec_selftestRun (s : State) : exec .selftestRun s = execSelftestRun s := rfl

theorem exec_ctlMoonLockstep (die pair : Nat) (s : State) :
    exec (.ctlMoonLockstep die pair) s = execCtlMoonLockstep die pair s := rfl

theorem exec_ctlSupervisorLockstep (s : State) : exec .ctlSupervisorLockstep s = execCtlSupervisorLockstep s := rfl

theorem exec_ctlFailoverDone (s : State) : exec .ctlFailoverDone s = execCtlFailoverDone s := rfl

/-! ### Events are only added -/

/-- A state in which the same events would be raised, and no event of `s` is lost. -/
structure Logs (s t : State) : Prop where
  time : t.timeNs = s.timeNs
  course : t.course = s.course
  evs : s.evs <+: t.evs

namespace Logs
variable {s t u : State}

theorem refl (s : State) : Logs s s := ⟨rfl, rfl, List.prefix_rfl⟩

theorem trans (h : Logs s t) (k : Logs t u) : Logs s u :=
  ⟨k.time.trans h.time, k.course.trans h.course, h.evs.trans k.evs⟩

theorem raised (h : Logs s t) (code die unit : Nat) (d : Option Nat) : Logs s (raise t code die unit d) :=
  h.trans ⟨rfl, rfl, List.prefix_append ..⟩

theorem evNow_eq (h : Logs s t) (code die unit : Nat) (d : Option Nat) : evNow t code die unit d = evNow s code die unit d := by
  simp only [evNow, sealedJob, h.time, h.course]

/-- An event raised after `s`, as one that `s` would have raised. -/
theorem mem_raise (h : Logs s t) (code die unit : Nat) (d : Option Nat) :
    evNow s code die unit d ∈ (raise t code die unit d).evs :=
  List.mem_append_right _ (List.mem_singleton.2 (h.evNow_eq ..).symm)

theorem foldl {α : Type} {f : State → α → State} (h : ∀ s a, Logs s (f s a)) (l : List α) (s : State) :
    Logs s (l.foldl f s) := by
  induction l generalizing s with
  | nil => exact .refl s
  | cons a l ih => exact (h s a).trans (ih _)

theorem of_wantStop (s : State) (ev : Nat) : Logs s (wantStop s ev) := by
  rw [wantStop_parts]
  exact ⟨rfl, rfl, List.prefix_rfl⟩

end Logs

/-! ### Outcomes (16 R532, R533) -/

section
variable (s : State) (kind loc event : Nat)

/-- A lasting outcome counted, kept as the last and told, before its entry (16 R532, R541). -/
def lastingTold : State :=
  raise (setLast (bump (setBit s fltStatus 9) (regKey 10 0x828) 0 32 1) kind 2 event loc)
    (kindClass kind * 256 + 0xF1) (unitDie kind loc) kind (some loc)

/-- The entry that a lasting outcome asks for (16 R539, R540). -/
def lastingEntry : FEntry := { kind := kind, action := 0, location := loc, event := event, hours := hoursOf s }

/-- A port or a control core leaves service at once (16 R536, R537). -/
def outOfService : State :=
  if kind = 12 then leaveUp (setDefect s (unitKey 12 loc) 2) loc 3
  else if kind = 13 then
    { s with ctl := { s.ctl with moonOut := s.ctl.moonOut.set loc true, moonDead := s.ctl.moonDead.set loc true } }
  else if kind = 14 then removeUnit s 14 loc 11
  else s

/-- The entries of the channels of an edge, one after the other (16 R540). -/
def recordChannels (e : FEntry) (l : List Nat) : State :=
  l.foldl (fun s a => if edgeMapped s loc a then s else recordFault s { e with action := a }) s

theorem lastingTold_parts : lastingTold s kind loc event = { s with
    regs := (lastingTold s kind loc event).regs
    fltLast := some (kind, 2, event, loc)
    evs := s.evs ++ [evNow s (kindClass kind * 256 + 0xF1) (unitDie kind loc) kind (some loc)]
    evTotal := s.evTotal + 1 } := rfl

theorem lastingOutcome_eq : lastingOutcome s kind loc event =
    if kind = 6 then
      recordChannels (lastingTold s kind loc event) loc (lastingEntry s kind loc event) (edgeActions s loc)
    else if mapped s kind loc then lastingTold s kind loc event
    else recordFault (outOfService (lastingTold s kind loc event) kind loc) (lastingEntry s kind loc event) := rfl

theorem leaveUp_frame (p st : Nat) : Logs s (leaveUp s p st) ∧ (leaveUp s p st).vault = s.vault ∧
    (leaveUp s p st).fltLast = s.fltLast := by
  unfold leaveUp
  dsimp only
  split
  · exact ⟨⟨rfl, rfl, List.prefix_rfl⟩, rfl, rfl⟩
  · split
    · exact ⟨⟨rfl, rfl, List.prefix_append ..⟩, rfl, rfl⟩
    · split
      · exact ⟨⟨rfl, rfl, List.prefix_append ..⟩, rfl, rfl⟩
      · rw [wantStop_parts]
        exact ⟨⟨rfl, rfl, List.prefix_append ..⟩, rfl, rfl⟩

theorem outOfService_frame : Logs s (outOfService s kind loc) ∧ (outOfService s kind loc).vault = s.vault ∧
    (outOfService s kind loc).fltLast = s.fltLast := by
  unfold outOfService
  split
  · have hd : Logs s (setDefect s (unitKey 12 loc) 2) := ⟨rfl, rfl, List.prefix_rfl⟩
    obtain ⟨hl, hv, hf⟩ := leaveUp_frame (setDefect s (unitKey 12 loc) 2) loc 3
    exact ⟨hd.trans hl, hv, hf⟩
  · split
    · exact ⟨⟨rfl, rfl, List.prefix_rfl⟩, rfl, rfl⟩
    · split
      · exact ⟨⟨rfl, rfl, List.prefix_rfl⟩, rfl, rfl⟩
      · exact ⟨.refl _, rfl, rfl⟩

/-- The state with an entry that waits to join the map (16 R539). -/
def queued (e : FEntry) : State := { s with vault := { s.vault with queue := s.vault.queue ++ [.fault e] } }

theorem recordFault_room {s : State} (h : mapLoad s < 32768) (hs : s.vault.state < 2) (e : FEntry) :
    recordFault s e = queued s e :=
  if_neg (by simp; omega)

theorem mapLoad_queued {s : State} (e : FEntry) : mapLoad (queued s e) = mapLoad s + 1 := by
  simp [mapLoad, queued, List.filter_append, Nat.add_assoc]

theorem edgeMapped_queued {s : State} (loc a : Nat) {e : FEntry} (h : e.action ≠ a) :
    edgeMapped (queued s e) loc a = edgeMapped s loc a := by
  simp [edgeMapped, queued, h]

/-- Each channel that the map does not hold gets an entry, and no other (16 R540). -/
theorem recordChannels_spec {s : State} (loc : Nat) (e : FEntry) {l : List Nat} (hl : l.Nodup)
    (hroom : mapLoad s + l.length ≤ 32768) (hs : s.vault.state < 2) : recordChannels s loc e l =
      { s with vault := { s.vault with queue := s.vault.queue ++
        (l.filter (fun a => !edgeMapped s loc a)).map (fun a => Txn.fault { e with action := a }) } } := by
  induction l generalizing s with
  | nil => simp [recordChannels]
  | cons a l ih =>
    obtain ⟨ha, hl⟩ := List.nodup_cons.1 hl
    rw [List.length_cons] at hroom
    have hstep : recordChannels s loc e (a :: l) =
      recordChannels (if edgeMapped s loc a then s else recordFault s { e with action := a }) loc e l := rfl
    rw [hstep]
    cases hm : edgeMapped s loc a with
    | true =>
      rw [if_pos rfl, ih hl (by omega) hs, List.filter_cons_of_neg (by simp [hm])]
    | false =>
      rw [if_neg (by decide), recordFault_room (by omega) hs,
        ih (s := queued s { e with action := a }) hl (by rw [mapLoad_queued]; omega) hs,
        List.filter_cons_of_pos (by simp [hm]), List.map_cons, List.filter_congr fun b hb => congrArg (!·)
          (edgeMapped_queued loc b (e := { e with action := a }) fun h => ha (by rw [show a = b from h]; exact hb))]
      simp [queued]

end

theorem edgeActions_nodup (s : State) (loc : Nat) : (edgeActions s loc).Nodup ∧ (edgeActions s loc).length ≤ 2 := by
  unfold edgeActions
  dsimp only
  split <;> split <;> decide

section
variable {s : State} {kind loc : Nat} (event : Nat)

/-- Whatever its entries, a lasting outcome has been told and is the last (16 R532, R541). -/
theorem lastingOutcome_frame : Logs (lastingTold s kind loc event) (lastingOutcome s kind loc event) ∧
    (lastingOutcome s kind loc event).fltLast = some (kind, 2, event, loc) := by
  have hrec (t : State) (e : FEntry) : Logs t (recordFault t e) ∧ (recordFault t e).fltLast = t.fltLast := by
    rw [recordFault_parts]
    exact ⟨⟨rfl, rfl, List.prefix_rfl⟩, rfl⟩
  rw [lastingOutcome_eq]
  have ht : (lastingTold s kind loc event).fltLast = some (kind, 2, event, loc) := rfl
  generalize lastingTold s kind loc event = t at ht ⊢
  generalize lastingEntry s kind loc event = e
  split
  · unfold recordChannels
    generalize edgeActions s loc = l
    suffices h : ∀ t, Logs t (l.foldl (fun s a => if edgeMapped s loc a then s else recordFault s { e with action := a }) t) ∧
        (l.foldl (fun s a => if edgeMapped s loc a then s else recordFault s { e with action := a }) t).fltLast = t.fltLast from
      ⟨(h t).1, (h t).2.trans ht⟩
    induction l with
    | nil => exact fun t => ⟨.refl t, rfl⟩
    | cons a l ih =>
      intro t
      rw [List.foldl_cons]
      by_cases hm : edgeMapped t loc a = true
      · rw [if_pos hm]
        exact ih t
      · rw [if_neg hm]
        obtain ⟨hl, hf⟩ := ih (recordFault t { e with action := a })
        exact ⟨(hrec t _).1.trans hl, hf.trans (hrec t _).2⟩
  · split
    · exact ⟨.refl t, ht⟩
    · obtain ⟨hl, hv, hf⟩ := outOfService_frame t kind loc
      exact ⟨hl.trans (hrec _ e).1, ((hrec _ e).2.trans hf).trans ht⟩

theorem logs_lastingOutcome : Logs s (lastingOutcome s kind loc event) :=
  Logs.trans (t := lastingTold s kind loc event) ⟨rfl, rfl, List.prefix_append ..⟩ (lastingOutcome_frame event).1

theorem mem_lastingOutcome : evNow s (kindClass kind * 256 + 0xF1) (unitDie kind loc) kind (some loc) ∈
    (lastingOutcome s kind loc event).evs :=
  (lastingOutcome_frame event).1.evs.subset (List.mem_append_right _ (List.mem_singleton.2 rfl))

theorem lastingOutcome_queue (hk : kind ≠ 6) (hm : mapped s kind loc = false) (hroom : mapLoad s + 1 < 32768)
    (hs : s.vault.state < 2) : (lastingOutcome s kind loc event).vault.queue =
      s.vault.queue ++ [.fault (lastingEntry s kind loc event)] := by
  rw [lastingOutcome_eq, if_neg hk, if_neg (by simp [hm])]
  obtain ⟨hl, hv, hf⟩ := outOfService_frame (lastingTold s kind loc event) kind loc
  generalize outOfService (lastingTold s kind loc event) kind loc = t at hv ⊢
  have hv' : t.vault = s.vault := hv
  rw [recordFault_room (by rw [mapLoad, hv']; exact Nat.lt_of_succ_lt hroom) (by rw [hv']; exact hs), queued, hv']

theorem lastingOutcome_channels (hroom : mapLoad s + 1 < 32768) (hs : s.vault.state < 2) :
    (lastingOutcome s 6 loc event).vault.queue = s.vault.queue ++
      ((edgeActions s loc).filter (fun a => !edgeMapped s loc a)).map (fun a =>
        .fault { lastingEntry s 6 loc event with action := a }) := by
  obtain ⟨hn, hl⟩ := edgeActions_nodup s loc
  rw [lastingOutcome_eq, if_pos rfl]
  exact congrArg (fun t : State => t.vault.queue) (recordChannels_spec (s := lastingTold s 6 loc event) loc
    (lastingEntry s 6 loc event) hn (Nat.le_trans (Nat.add_le_add_left hl _) hroom) hs)

end

/-! ### A test and its unit (16 R530 to R535) -/

section
variable (s : State)

theorem offBoot_parts (g : Nat) : ∃ c, offBoot s g = { s with clus := c } := by
  unfold offBoot
  split
  · exact ⟨s.clus, rfl⟩
  · exact ⟨_, rfl⟩

/-- The last pass of a memory unit's test writes zeros (16 R532). -/
def wiped (kind i : Nat) : State :=
  if kind = 3 || kind = 5 || kind = 9 || kind = 11 then
    { s with
      mem := s.mem.filter (fun e => memUnit s e.1 ≠ (kind, i))
      cwErr := s.cwErr.filter (fun e => memUnit s (64 * e.1) ≠ (kind, i))
      writeBack := s.writeBack.filter (fun e => memUnit s (64 * e.1) ≠ (kind, i)) }
  else s

theorem wiped_parts (kind i : Nat) : ∃ m w b, wiped s kind i = { s with
    mem := m
    cwErr := w
    writeBack := b } := by
  unfold wiped
  split
  · exact ⟨_, _, _, rfl⟩
  · exact ⟨s.mem, s.cwErr, s.writeBack, rfl⟩

theorem wipeUnit_parts (kind i : Nat) : ∃ c m w b, wipeUnit s kind i = { s with
    clus := c
    mem := m
    cwErr := w
    writeBack := b } := by
  cases hu : unitCluster kind i with
  | none =>
    obtain ⟨m, w, b, h⟩ := wiped_parts s kind i
    refine ⟨s.clus, m, w, b, Eq.trans ?_ h⟩
    rw [wipeUnit, hu]
    rfl
  | some g =>
    obtain ⟨c, hc⟩ := offBoot_parts s g
    obtain ⟨m, w, b, h⟩ := wiped_parts { s with clus := c } kind i
    have hw : wipeUnit s kind i = wiped (offBoot s g) kind i := by
      rw [wipeUnit, hu]
      rfl
    exact ⟨c, m, w, b, by rw [hw, hc, h]⟩

theorem wipeUnit_frame (kind i k loc : Nat) : Logs s (wipeUnit s kind i) ∧
    reproduces (wipeUnit s kind i) k loc = reproduces s k loc ∧ transients (wipeUnit s kind i) k loc = transients s k loc := by
  obtain ⟨c, m, w, b, h⟩ := wipeUnit_parts s kind i
  rw [h]
  exact ⟨⟨rfl, rfl, List.prefix_rfl⟩, rfl, by simp only [transients, hoursOf]⟩

end

section
variable {s : State} {src : Src} {kind i : Nat} (ht : Taken s .test false)
include ht

theorem selftestUnit_unknown (hi : unitCount kind ≤ i) :
    exec (.selftestUnit src kind i) s = .next (complete s src stInvalid 0) := by
  rw [exec_selftestUnit, execSelftestUnit, command_taken ht, if_pos hi]

section
variable (hi : i < unitCount kind)
include hi

theorem selftestUnit_absent (ha : unitAbsent s kind i = true) :
    exec (.selftestUnit src kind i) s = .next (complete s src stOK 4) := by
  rw [exec_selftestUnit, execSelftestUnit, command_taken ht, if_neg (by omega), if_pos ha]

theorem selftestUnit_used (ha : unitAbsent s kind i = false) (hu : unitInUse s kind i = true) :
    exec (.selftestUnit src kind i) s = .next (complete s src stOK 3) := by
  rw [exec_selftestUnit, execSelftestUnit, command_taken ht, if_neg (by omega), if_neg (by simp [ha]), if_pos hu]

section
variable (ha : unitAbsent s kind i = false) (hu : unitInUse s kind i = false)
include ha hu

theorem selftestUnit_good (hr : reproduces s kind (locOf s kind i) = false) : exec (.selftestUnit src kind i) s =
    .next (complete (setLast (wipeUnit s kind i) kind 0 0 (locOf s kind i)) src stOK 0) := by
  obtain ⟨-, hw, -⟩ := wipeUnit_frame s kind i kind (locOf s kind i)
  rw [exec_selftestUnit, execSelftestUnit, command_taken ht, if_neg (by omega), if_neg (by simp [ha]),
    if_neg (by simp [hu])]
  exact if_neg (by simp [hw, hr])

theorem selftestUnit_faulty (hr : reproduces s kind (locOf s kind i) = true) : exec (.selftestUnit src kind i) s =
    .next (complete (lastingOutcome (wipeUnit s kind i) kind (locOf s kind i) 0) src stOK 2) := by
  obtain ⟨-, hw, -⟩ := wipeUnit_frame s kind i kind (locOf s kind i)
  rw [exec_selftestUnit, execSelftestUnit, command_taken ht, if_neg (by omega), if_neg (by simp [ha]),
    if_neg (by simp [hu])]
  exact if_pos (by rw [hw, hr])

end

end

theorem selftestModule_good (hf : foundUnits s = []) : exec (.selftestModule src) s =
    .next (complete ((working s).foldl offBoot s) src stOK 0) := by
  rw [exec_selftestModule, execSelftestModule, command_taken ht, hf]
  rfl

theorem selftestModule_faulty (hf : foundUnits s ≠ []) : exec (.selftestModule src) s = .next (complete
    ((foundUnits s).foldl (fun s u => lastingOutcome s u.1 u.2 0) ((working s).foldl offBoot s)) src stOK 2) := by
  rw [exec_selftestModule, execSelftestModule, command_taken ht]
  dsimp only
  rw [if_neg hf]

end

/-- Every unit that fails its test of the whole module is told (16 R535). -/
theorem mem_foldl_lastingOutcome {s t : State} (h : Logs s t) (l : List (Nat × Nat)) : ∀ x ∈ l,
    evNow s (kindClass x.1 * 256 + 0xF1) (unitDie x.1 x.2) x.1 (some x.2) ∈
      (l.foldl (fun s u => lastingOutcome s u.1 u.2 0) t).evs := by
  induction l generalizing t with
  | nil => exact fun x hx => absurd hx List.not_mem_nil
  | cons y l ih =>
    intro x hx
    rcases List.mem_cons.1 hx with rfl | hx
    · exact (Logs.foldl (fun s u => logs_lastingOutcome 0) l (lastingOutcome t x.1 x.2 0)).evs.subset
        (h.evNow_eq .. ▸ mem_lastingOutcome 0)
    · exact ih (h.trans (logs_lastingOutcome 0)) x hx

theorem logs_offBoot (s : State) (g : Nat) : Logs s (offBoot s g) := by
  obtain ⟨c, hc⟩ := offBoot_parts s g
  rw [hc]
  exact ⟨rfl, rfl, List.prefix_rfl⟩

theorem testUnit_lasting {s : State} {kind i : Nat} (event : Nat)
    (h : reproduces s kind (locOf s kind i) = true ∨ 3 ≤ transients s kind (locOf s kind i)) :
    testUnit s kind i event = (lastingOutcome (wipeUnit s kind i) kind (locOf s kind i) event, 2) := by
  obtain ⟨-, hr, ht⟩ := wipeUnit_frame s kind i kind (locOf s kind i)
  exact if_pos (by rw [hr, ht]; simpa using h)

theorem testUnit_transient {s : State} {kind i : Nat} (event : Nat)
    (hr : reproduces s kind (locOf s kind i) = false) (ht : transients s kind (locOf s kind i) < 3) :
    testUnit s kind i event = (transientOutcome (wipeUnit s kind i) kind (locOf s kind i) event, 1) := by
  obtain ⟨-, hr', ht'⟩ := wipeUnit_frame s kind i kind (locOf s kind i)
  exact if_neg (by rw [hr', ht', hr]; simpa using ht)

theorem logs_transientOutcome (s : State) (kind loc event : Nat) : Logs s (transientOutcome s kind loc event) :=
  ⟨rfl, rfl, List.prefix_append ..⟩

theorem mem_transientOutcome (s : State) (kind loc event : Nat) :
    evNow s (kindClass kind * 256 + 0xF0) (unitDie kind loc) kind (some loc) ∈ (transientOutcome s kind loc event).evs :=
  List.mem_append_right _ (List.mem_singleton.2 rfl)

theorem transientOutcome_status (s : State) (kind loc event : Nat) :
    bitOf (reg (transientOutcome s kind loc event) fltStatus) 8 = true :=
  (congrArg (bitOf · 8) (reg_bump_other (setBit s fltStatus 8) 0 32 1
    (regKey_ne (by decide) (by decide) (by decide)))).trans (bitOf_reg_setBit_same s fltStatus (by decide))

section
variable {s : State} (h8 : 8 ≤ s.power.stage) (ho : s.power.stopped = false) (hn : s.power.noSup = false)
include h8 ho hn

theorem selftestRun_tests {t : Test} (hf : s.tests.find? (testMayRun s) = some t) : exec .selftestRun s =
    .next (testUnit { s with tests := s.tests.erase t } t.kind t.index t.event).1 := by
  rw [exec_selftestRun, execSelftestRun, if_neg (by simp [ho, hn]; omega), hf]

end

theorem selftestRun_none {s : State} (hf : s.tests.find? (testMayRun s) = none) : exec .selftestRun s = .next s := by
  rw [exec_selftestRun, execSelftestRun, hf]
  split <;> rfl

/-! ### Control cores (16 R536 to R538) -/

theorem requestTest_frame (s : State) (k i ev : Nat) : Logs s (requestTest s k i ev) ∧ (requestTest s k i ev).ctl = s.ctl ∧
    (requestTest s k i ev).jobState = s.jobState ∧ (requestTest s k i ev).stop = s.stop ∧
    (requestTest s k i ev).stns = s.stns ∧ (requestTest s k i ev).mem = s.mem := by
  unfold requestTest
  split
  · exact ⟨.refl s, rfl, rfl, rfl, rfl, rfl⟩
  · split
    · exact ⟨⟨rfl, rfl, List.prefix_rfl⟩, rfl, rfl, rfl, rfl, rfl⟩
    · exact ⟨⟨rfl, rfl, List.prefix_append ..⟩, rfl, rfl, rfl, rfl, rfl⟩

/-- The state with a moon pair out of service and its event raised (16 R536). -/
def moonLost (s : State) (die pair : Nat) : State :=
  raise { s with ctl := { s.ctl with moonOut := s.ctl.moonOut.set (2 * die + pair) true } } 0x0C07 die pair none

theorem ctlMoonLockstep_runs {s : State} {die pair : Nat} (hd : die < 8) (hp : pair < 2) (hs : 3 ≤ s.power.stage)
    (ho : s.power.stopped = false) (hm : moonServes s die pair = true) : exec (.ctlMoonLockstep die pair) s =
      .next (wantStop (requestTest (moonLost s die pair) 13 (2 * die + pair) 0x0C07) 0x0C07) := by
  rw [exec_ctlMoonLockstep, execCtlMoonLockstep]
  exact if_neg (by simp [ho, hm]; omega)

theorem moonServes_lost (s : State) {die pair : Nat} : moonServes (moonLost s die pair) die pair = false :=
  congrArg (!·) (Table.get_set_same ..)

theorem moonServes_lost_other (s : State) {die pair d p : Nat} (hpair : pair < 2) (hp : p < 2)
    (h : (d, p) ≠ (die, pair)) : moonServes (moonLost s die pair) d p = moonServes s d p := by
  refine congrArg (!·) (Table.get_set_other _ _ _ _ _ fun he => h ?_)
  rw [Prod.mk.injEq]
  omega

theorem moonLockstep_spec {s : State} {die pair : Nat} (hp : pair < 2) :
    ∀ t, t = wantStop (requestTest (moonLost s die pair) 13 (2 * die + pair) 0x0C07) 0x0C07 →
      moonServes t die pair = false ∧
      (∀ d p, p < 2 → (d, p) ≠ (die, pair) → moonServes t d p = moonServes s d p) ∧
      evNow s 0x0C07 die pair none ∈ t.evs ∧
      (s.tests.length < 256 → (∀ x ∈ s.tests, x.kind ≠ 13 ∨ x.index ≠ 2 * die + pair) →
        t.tests = s.tests ++ [⟨13, 2 * die + pair, 0x0C07⟩]) ∧
      (s.jobState = 3 → t.stepErr = true ∧ (s.stop.wanted = false → s.stop.stage = 0 →
        t.stop.wanted = true ∧ t.stop.event = 0x0C07)) ∧ t.stns = s.stns ∧ SameBytes s t := by
  obtain ⟨hl, hctl, hjob, hstop, hstns, hmem⟩ := requestTest_frame (moonLost s die pair) 13 (2 * die + pair) 0x0C07
  have htests (hlen : s.tests.length < 256) (hx : ∀ x ∈ s.tests, x.kind ≠ 13 ∨ x.index ≠ 2 * die + pair) :
      (requestTest (moonLost s die pair) 13 (2 * die + pair) 0x0C07).tests = s.tests ++ [⟨13, 2 * die + pair, 0x0C07⟩] :=
    requestTest_tests (s := moonLost s die pair) (by
      rw [List.any_eq_false]
      intro x hx'
      have := hx x hx'
      simp
      tauto) hlen
  have hev : evNow s 0x0C07 die pair none ∈ (requestTest (moonLost s die pair) 13 (2 * die + pair) 0x0C07).evs :=
    hl.evs.subset (List.mem_append_right _ (List.mem_singleton.2 rfl))
  generalize requestTest (moonLost s die pair) 13 (2 * die + pair) 0x0C07 = u at hl hctl hjob hstop hstns hmem htests hev
  have hjob' : u.jobState = s.jobState := hjob
  have hstop' : u.stop = s.stop := hstop
  rintro t rfl
  refine ⟨?_, fun d p hp' hne => ?_, ?_, fun hlen hx => ?_, fun hj => ⟨?_, fun hw hs => ?_⟩, ?_, sameBytes_of_mem ?_⟩
  · rw [wantStop_parts, moonServes, hctl]
    exact moonServes_lost s
  · rw [wantStop_parts, moonServes, hctl]
    exact moonServes_lost_other s hp hp' hne
  · rw [wantStop_parts]
    exact hev
  · rw [wantStop_parts]
    exact htests hlen hx
  · rw [wantStop, if_neg (by simp [hjob', hj])]
  · obtain ⟨hwant, hcode, -⟩ := wantStop_wanted (hjob'.trans hj) (by rw [hstop', hw]) (by rw [hstop', hs]) 0x0C07
    exact ⟨hwant, hcode⟩
  · rw [wantStop_parts]
    exact hstns
  · rw [wantStop_parts]
    exact hmem

/-- A state that differs in the completions posted. -/
def OnlyCompleted (s t : State) : Prop := ∃ n q m p v, t = { s with
  cmdTotal := n
  qps := q
  hostMem := m
  posts := p
  vecDue := v }

theorem onlyCompleted_foldl {α : Type} (f : α → Src) (st : Nat) (l : List α) (s : State) :
    OnlyCompleted s (l.foldl (fun s c => complete s (f c) st 0) s) := by
  induction l generalizing s with
  | nil => exact ⟨s.cmdTotal, s.qps, s.hostMem, s.posts, s.vecDue, rfl⟩
  | cons c l ih =>
    have hc := complete_parts s (f c) st 0
    rw [List.foldl_cons]
    generalize complete s (f c) st 0 = u at hc ⊢
    obtain ⟨n, q, m, p, v, h⟩ := ih u
    rw [h, hc]
    exact ⟨n, q, m, p, v, rfl⟩

theorem OnlyCompleted.trans {s t u : State} (h : OnlyCompleted s t) (k : OnlyCompleted t u) : OnlyCompleted s u := by
  obtain ⟨n, q, m, p, v, rfl⟩ := h
  obtain ⟨n', q', m', p', v', rfl⟩ := k
  exact ⟨n', q', m', p', v', rfl⟩

/-- The state with nothing left that waits for a completion but a RUN (16 R537). -/
def waitsDropped (s : State) : State :=
  { s with
    run := { s.run with halts := [] }
    wins := s.wins.map (fun e => (e.1, { e.2 with closers := [] }))
    snap := none
    copies := []
    power := { s.power with clockWait := [] }
    dump := { s.dump with src := none } }

theorem failCommands_parts (s : State) : OnlyCompleted (waitsDropped s) (failCommands s) :=
  (onlyCompleted_foldl (fun c => c) stFault _ _).trans (onlyCompleted_foldl (fun c => c) stFault _ _)

theorem failCommands_frame (s : State) : Logs s (failCommands s) ∧ (failCommands s).ctl = s.ctl ∧
    (failCommands s).stepErr = s.stepErr ∧ (failCommands s).run = { s.run with halts := [] } ∧
    (failCommands s).snap = none ∧ (failCommands s).mem = s.mem := by
  obtain ⟨n, q, m, p, v, h⟩ := failCommands_parts s
  rw [h]
  exact ⟨⟨rfl, rfl, List.prefix_rfl⟩, rfl, rfl, rfl, rfl, rfl⟩

/-- The state with the standby supervisor acting and the event of the failed one raised (16 R537). -/
def supervisorLost (s : State) (c : Ctl) (die : Nat) : State :=
  raise (setBit { s with ctl := c } fltStatus 11) 0x0C08 die 0 none

theorem failover_spec (s : State) (c : Ctl) (die : Nat) :
    ∀ t, t = failCommands (wantStop (supervisorLost s c die) 0x0C08) → t.ctl = c ∧ evNow s 0x0C08 die 0 none ∈ t.evs ∧
      (s.jobState = 3 → t.stepErr = true ∧ t.run.src = s.run.src) ∧ t.run.halts = [] ∧ t.snap = none ∧ SameBytes s t := by
  rintro t rfl
  obtain ⟨hl, hctl, herr, hrun, hsnap, hmem⟩ := failCommands_frame (wantStop (supervisorLost s c die) 0x0C08)
  have hw := wantStop_parts (supervisorLost s c die) 0x0C08
  have hj (h : s.jobState = 3) : (wantStop (supervisorLost s c die) 0x0C08).stepErr = true := by
    rw [wantStop, if_neg (show ¬ (supervisorLost s c die).jobState ≠ 3 from not_not.2 h)]
  generalize wantStop (supervisorLost s c die) 0x0C08 = u at *
  generalize failCommands u = t at *
  refine ⟨hctl.trans ?_, hl.evs.subset ?_, fun h => ⟨herr.trans (hj h), ?_⟩, ?_, hsnap, sameBytes_of_mem (hmem.trans ?_)⟩
  · rw [hw]
    rfl
  · rw [hw]
    exact List.mem_append_right _ (List.mem_singleton.2 rfl)
  · rw [hrun, hw]
    rfl
  · rw [hrun]
  · rw [hw]
    rfl

section
variable {s : State} (h3 : 3 ≤ s.power.stage) (ho : s.power.stopped = false) (hn : s.power.noSup = false)
  (hf : s.ctl.failing = false)
include h3 ho hn hf

theorem ctlSupervisorLockstep_first (h : s.ctl.hd1 = false) (hk : s.ctl.hd1Ok = true) :
    exec .ctlSupervisorLockstep s = .next (failCommands (wantStop (supervisorLost s
      { s.ctl with
        hd1 := true
        hd0Ok := false
        failing := true } 8) 0x0C08)) := by
  rw [exec_ctlSupervisorLockstep, execCtlSupervisorLockstep, if_neg (by simp [ho, hn, hf]; omega)]
  dsimp only
  rw [if_neg (by simp [h, hk]), h]
  rfl

theorem ctlSupervisorLockstep_second (h : s.ctl.hd1 = true) (hk : s.ctl.hd0Ok = true) :
    exec .ctlSupervisorLockstep s = .next (failCommands (wantStop (supervisorLost s
      { s.ctl with
        hd1 := false
        hd1Ok := false
        failing := true } 9) 0x0C08)) := by
  rw [exec_ctlSupervisorLockstep, execCtlSupervisorLockstep, if_neg (by simp [ho, hn, hf]; omega)]
  dsimp only
  rw [if_neg (by simp [h, hk]), h]
  rfl

theorem ctlSupervisorLockstep_last (h : s.ctl.hd1 = false) (hk : s.ctl.hd1Ok = false) :
    ∃ c, exec .ctlSupervisorLockstep s =
      .next (updPower (haltAll { s with ctl := c }) (fun p => { p with noSup := true })) := by
  rw [exec_ctlSupervisorLockstep, execCtlSupervisorLockstep, if_neg (by simp [ho, hn, hf]; omega)]
  dsimp only
  rw [if_pos (by simp [h, hk])]
  exact ⟨_, rfl⟩

end

/-- The pair that failed goes through its test as unit `i` (16 R537). -/
def failoverTest (s : State) (i : Nat) : State × Nat := testUnit { s with ctl := { s.ctl with failing := false } } 14 i 0x0C08

/-- The standby serves again after a transient outcome (16 R532). -/
def standbyBack (s : State) (i : Nat) : State :=
  { s with ctl := if i = 0 then { s.ctl with hd0Ok := true } else { s.ctl with hd1Ok := true } }

theorem ctlFailoverDone_runs {s : State} {i : Nat} (hf : s.ctl.failing = true) (hi : (if s.ctl.hd1 then 0 else 1) = i) :
    exec .ctlFailoverDone s = .next (raise (if (failoverTest s i).2 = 2 then (failoverTest s i).1
      else standbyBack (failoverTest s i).1 i) 0x0C09 (8 + i) 0 none) := by
  subst hi
  rw [exec_ctlFailoverDone, execCtlFailoverDone, if_neg (by simp [hf])]
  rfl

/-- A supervisor pair out of service (16 R537). -/
def pairDown (c : Ctl) (i : Nat) : Ctl := if i = 0 then { c with hd0Ok := false } else { c with hd1Ok := false }

theorem lastingOutcome_supervisor (s : State) (i event : Nat) : (lastingOutcome s 14 i event).ctl = s.ctl ∨
    (lastingOutcome s 14 i event).ctl = pairDown s.ctl i := by
  rw [lastingOutcome_eq, if_neg (by decide)]
  split
  · exact .inl rfl
  · rw [recordFault_parts]
    exact .inr rfl

theorem wipeUnit_ctl (s : State) (kind i : Nat) : (wipeUnit s kind i).ctl = s.ctl := by
  obtain ⟨c, m, w, b, h⟩ := wipeUnit_parts s kind i
  rw [h]

section
variable (s : State) (i : Nat)

theorem failoverTest_lasting (h : reproduces s 14 i = true ∨ 3 ≤ transients s 14 i) : (failoverTest s i).2 = 2 ∧
    Logs s (failoverTest s i).1 ∧ ((failoverTest s i).1.ctl = { s.ctl with failing := false } ∨
      (failoverTest s i).1.ctl = pairDown { s.ctl with failing := false } i) := by
  have hc : Logs s { s with ctl := { s.ctl with failing := false } } := ⟨rfl, rfl, List.prefix_rfl⟩
  obtain ⟨hl, -, -⟩ := wipeUnit_frame { s with ctl := { s.ctl with failing := false } } 14 i 14 i
  have hw := wipeUnit_ctl { s with ctl := { s.ctl with failing := false } } 14 i
  have hlog := logs_lastingOutcome (s := wipeUnit { s with ctl := { s.ctl with failing := false } } 14 i) (kind := 14)
    (loc := i) 0x0C08
  have hs := lastingOutcome_supervisor (wipeUnit { s with ctl := { s.ctl with failing := false } } 14 i) i 0x0C08
  rw [failoverTest, testUnit_lasting (s := { s with ctl := { s.ctl with failing := false } }) (kind := 14) (i := i) 0x0C08 h]
  rw [hw] at hs
  exact ⟨rfl, (hc.trans hl).trans hlog, hs⟩

theorem failoverTest_transient (hr : reproduces s 14 i = false) (ht : transients s 14 i < 3) : (failoverTest s i).2 = 1 ∧
    Logs s (failoverTest s i).1 ∧ (failoverTest s i).1.ctl = { s.ctl with failing := false } := by
  have hc : Logs s { s with ctl := { s.ctl with failing := false } } := ⟨rfl, rfl, List.prefix_rfl⟩
  obtain ⟨hl, -, -⟩ := wipeUnit_frame { s with ctl := { s.ctl with failing := false } } 14 i 14 i
  have hw := wipeUnit_ctl { s with ctl := { s.ctl with failing := false } } 14 i
  rw [failoverTest, testUnit_transient (s := { s with ctl := { s.ctl with failing := false } }) (kind := 14) (i := i)
    0x0C08 hr ht]
  exact ⟨rfl, (hc.trans hl).trans (logs_transientOutcome ..), hw⟩

/-- How a failover ends: the event, and the failed pair standing by again only after a transient outcome (16 R537). -/
theorem ctlFailoverDone_spec {s : State} {i : Nat} (hf : s.ctl.failing = true) (hi : (if s.ctl.hd1 then 0 else 1) = i) :
    ∃ t, exec .ctlFailoverDone s = .next t ∧ evNow s 0x0C09 (8 + i) 0 none ∈ t.evs ∧
      (t.ctl = { s.ctl with failing := false } ∨ t.ctl = pairDown { s.ctl with failing := false } i ∨
        reproduces s 14 i = false ∧ t.ctl = (standbyBack { s with ctl := { s.ctl with failing := false } } i).ctl) ∧
      (reproduces s 14 i = false → transients s 14 i < 3 →
        t.ctl = (standbyBack { s with ctl := { s.ctl with failing := false } } i).ctl) := by
  refine ⟨_, ctlFailoverDone_runs hf hi, ?_⟩
  by_cases h : reproduces s 14 i = true ∨ 3 ≤ transients s 14 i
  · obtain ⟨h2, hl, hc⟩ := failoverTest_lasting s i h
    rw [if_pos h2]
    refine ⟨hl.mem_raise .., hc.imp_right .inl, fun hr ht => ?_⟩
    rw [hr] at h
    exact absurd h (by simp; omega)
  · obtain ⟨hr, ht⟩ := not_or.1 h
    rw [Bool.not_eq_true] at hr
    obtain ⟨h1, hl, hc⟩ := failoverTest_transient s i hr (by omega)
    rw [if_neg (by omega)]
    generalize (failoverTest s i).1 = u at hl hc ⊢
    have hs : Logs s (standbyBack u i) := hl.trans ⟨rfl, rfl, List.prefix_rfl⟩
    have hctl : (standbyBack u i).ctl = (standbyBack { s with ctl := { s.ctl with failing := false } } i).ctl := by
      rw [standbyBack, hc]
      rfl
    exact ⟨hs.mem_raise .., .inr (.inr ⟨hr, hctl⟩), fun _ _ => hctl⟩

end

/-- Settles O52: what a test answers and asks for, and what a lockstep error leaves acting. -/
theorem selfTestsAndControlCores : Obligations.SelfTestsAndControlCores := by
  unfold Obligations.SelfTestsAndControlCores
  refine ⟨fun s src kind i loc ht hl => ?_, fun s src ht => ⟨selftestModule_good ht, fun hf => ?_⟩,
    fun s kind loc event hroom hs => ⟨fun hk hm => lastingOutcome_queue event hk hm hroom hs, ?_,
      mem_lastingOutcome event, (lastingOutcome_frame event).2⟩,
    fun s u t loc h8 ho hn hf hl hu => ?_, fun s hf => selftestRun_none hf,
    fun s die pair hd hp h3 ho hm => ⟨_, ctlMoonLockstep_runs hd hp h3 ho hm, moonLockstep_spec hp _ rfl⟩,
    fun s h3 ho hn hf => ⟨fun h hk => ?_, fun h hk => ?_, fun h hk => ?_⟩, fun s hf h => ?_, fun s hf h => ?_⟩
  · subst hl
    exact ⟨selftestUnit_unknown ht, fun hi => ⟨selftestUnit_absent ht hi, selftestUnit_used ht hi, fun ha hu =>
      ⟨selftestUnit_good ht hi ha hu, selftestUnit_faulty ht hi ha hu⟩⟩⟩
  · exact ⟨_, selftestModule_faulty ht hf,
      mem_foldl_lastingOutcome (Logs.foldl logs_offBoot (working s) s) (foundUnits s)⟩
  · rintro rfl
    exact lastingOutcome_channels event hroom hs
  · subst hl
    subst hu
    have hrun := selftestRun_tests h8 ho hn hf
    refine ⟨fun h => ?_, fun hr ht => ⟨?_, ?_, transientOutcome_status ..⟩⟩
    · rw [hrun, testUnit_lasting (s := { s with tests := s.tests.erase t }) t.event h]
      rfl
    · rw [hrun, testUnit_transient (s := { s with tests := s.tests.erase t }) t.event hr ht]
      rfl
    · have hc : Logs s { s with tests := s.tests.erase t } := ⟨rfl, rfl, List.prefix_rfl⟩
      obtain ⟨hw, -, -⟩ := wipeUnit_frame { s with tests := s.tests.erase t } t.kind t.index 0 0
      rw [← (hc.trans hw).evNow_eq]
      exact mem_transientOutcome ..
  · exact ⟨_, ctlSupervisorLockstep_first h3 ho hn hf h hk, failover_spec s _ 8 _ rfl⟩
  · obtain ⟨hctl, hev, -⟩ := failover_spec s _ 9 _ rfl
    exact ⟨_, ctlSupervisorLockstep_second h3 ho hn hf h hk, hctl, hev⟩
  · obtain ⟨c, hc⟩ := ctlSupervisorLockstep_last h3 ho hn hf h hk
    exact ⟨_, hc, rfl, haltAll_run _, by simp [cmdOpen, updPower], rfl⟩
  · obtain ⟨t, ht, hev, hctl, hback⟩ := ctlFailoverDone_spec hf (i := 0) (by rw [h]; rfl)
    refine ⟨t, ht, ?_, ?_, hev, fun hr hc => ?_, fun hr => ?_⟩
    · rcases hctl with hc | hc | ⟨-, hc⟩ <;> rw [hc] <;> rfl
    · rcases hctl with hc | hc | ⟨-, hc⟩ <;> rw [hc] <;> exact h
    · rw [hback hr hc]
      rfl
    · rcases hctl with hc | hc | ⟨hn, -⟩
      · exact .inl (by rw [hc])
      · exact .inr (by rw [hc]; rfl)
      · exact absurd hr (by simp [hn])
  · obtain ⟨t, ht, hev, hctl, hback⟩ := ctlFailoverDone_spec hf (i := 1) (by rw [h]; rfl)
    refine ⟨t, ht, ?_, ?_, hev, fun hr hc => ?_⟩
    · rcases hctl with hc | hc | ⟨-, hc⟩ <;> rw [hc] <;> rfl
    · rcases hctl with hc | hc | ⟨-, hc⟩ <;> rw [hc] <;> exact h
    · rw [hback hr hc]
      rfl

end Sys2Proof.Machine
end

/-! ## Header and pocket loads, stores, SEED, and the move unit (06 R216, R230 to R232, R239) -/
section
set_option Elab.async false
namespace Sys2Proof.Machine
open Sys2Proof

theorem exec_hdrld (n rd : Nat) (lane : Lane) (buf sel : Nat) (s : State) :
    exec (.hdrld n rd lane buf sel) s = execHdrld n rd lane buf sel s := rfl

theorem exec_ld (n rd base : Nat) (off : Int) (s : State) : exec (.ld n rd base off) s = execLd n rd base off s := rfl

theorem exec_st (n rs base : Nat) (off : Int) (s : State) : exec (.st n rs base off) s = execSt n rs base off s := rfl

theorem exec_seed (n rs : Nat) (s : State) : exec (.seed n rs) s = execSeed n rs s := rfl

theorem exec_move (n : Nat) (f : MoveF) (s : State) : exec (.move n f) s = execMove n f s := rfl

theorem exec_cvt (n : Nat) (f : CvtF) (s : State) : exec (.cvt n f) s = execCvt n f s := rfl

theorem exec_moveUnitStart (n : Nat) (s : State) : exec (.moveUnitStart n) s = execMoveUnitStart n s := rfl

/-! ### What the detector leaves -/

namespace OnlyDetector
variable {s u : State} (h : OnlyDetector s u)
include h

theorem onlyStation (n : Nat) : OnlyStation n s u := by
  obtain ⟨hu, hregs⟩ := h
  refine ⟨?_, fun m _ => ?_, fun g _ => ?_, hregs⟩
  · exact hu.trans (by rw [hu])
  · rw [hu]; rfl
  · rw [hu]; rfl

theorem stn_eq (m : Nat) : stn u m = stn s m := by
  obtain ⟨r, rfl⟩ := h.exists_regs
  rfl

theorem clu_eq (g : Nat) : clu u g = clu s g := by
  obtain ⟨r, rfl⟩ := h.exists_regs
  rfl

theorem cycOf_eq (m : Nat) : cycOf u m = cycOf s m := by
  obtain ⟨r, rfl⟩ := h.exists_regs
  rfl

theorem place_eq (a : Nat) : place u a = place s a := by
  obtain ⟨r, rfl⟩ := h.exists_regs
  rfl

theorem pocketOk_eq (n o len : Nat) : pocketOk u n o len = pocketOk s n o len := by
  simp only [pocketOk, h.place_eq]

theorem wordOperand_eq (n : Nat) (v : W64) (off : Int) : wordOperand u n v off = wordOperand s n v off := by
  simp only [wordOperand, h.pocketOk_eq]

end OnlyDetector

/-! ### Effects, and accesses to a reserved address -/

section
variable {s u : State} {n : Nat} (h : OnlyDetector s u)
include h

theorem schedules_schedule (after : Nat) (e : Eff) : Schedules n (some (after, e)) s (schedule u n after false e) :=
  ⟨(h.onlyStation n).trans (.schedule u n after false e), (stn_schedule ..).trans (h.stn_eq n), by
    rw [ClusterEffects, clu_schedule, h.clu_eq, h.cycOf_eq]⟩

theorem schedules_putX (rd after : Nat) (v : W64) :
    Schedules n (if rd = 0 then none else some (after, .reg n rd v)) s (putX u n rd after false v) := by
  unfold putX
  split
  · exact ⟨h.onlyStation n, h.stn_eq n, by rw [ClusterEffects, h.clu_eq]⟩
  · exact schedules_schedule h after _

/-- An access to a reserved address, whatever the detector has seen of it (06 R216). -/
theorem badAccess_badAddr : BadAccess n s (badAddr u n) := by
  obtain ⟨r, hu⟩ := h.exists_regs
  have hregs := h.2
  subst hu
  unfold badAddr
  have hp := errHalt_parts (raise { s with regs := r } 0x0411 (dieOf n) (n % 96) none) n 0x0411
  generalize errHalt (raise { s with regs := r } 0x0411 (dieOf n) (n % 96) none) n 0x0411 = t at hp ⊢
  rw [hp]
  exact ⟨rfl, rfl, stn_updStn_same s n haltAtHurdle, fun m hm => stn_updStn_other s n m haltAtHurdle hm, hregs⟩

end

/-! ### Loads and stores -/

section
variable {s : State} {n : Nat}

theorem wordOperand_some {v : W64} {off : Int} {o : Nat} (hv : v.toNat < 0x400000) (ha : o % 8 = 0) (hlo : 0x80000 ≤ o)
    (hhi : o + 8 ≤ 0x400000) (hle : (o : Int) ≤ v.toNat + off) (hlt : (v.toNat : Int) + off < o + 8)
    (hk : pocketOk s n o 8 = true) : wordOperand s n v off = some o := by
  have ho : ((v.toNat % 0x400000 : Nat) + off).toNat / 8 * 8 = o := by omega
  unfold wordOperand
  dsimp only
  rw [if_neg (by simp; omega), ho, hk, if_pos (by simp; omega)]

theorem wordOperand_none {v : W64} {off : Int} (h : 0x400000 ≤ v.toNat ∨ (v.toNat : Int) + off < 0x80000 ∨
    0x400000 ≤ (v.toNat : Int) + off) : wordOperand s n v off = none := by
  unfold wordOperand
  dsimp only
  split
  · rfl
  · rename_i hn
    simp only [Bool.or_eq_true, decide_eq_true_eq, not_or, not_not, not_lt] at hn
    exact if_neg (by simp; omega)

theorem touch_pocket (s : State) (n o len : Nat) : touch s (pocketAddr n o) len = s := by
  have h : 0x03C700000000 ≤ pocketAddr n o := by
    simp only [pocketAddr, pocketSpan]
    omega
  unfold touch
  exact if_pos (by simp [h])

theorem cloud_clear (s : State) (n : Nat) {a len : Nat} (h : ∀ r ∈ openRanges s, a + len ≤ r.1 ∨ r.1 + r.2 ≤ a) :
    cloud s n a len = (s, [], 0) := by
  have hf : (openRanges s).filter (fun r => decide (r.1 < a + len) && decide (a < r.1 + r.2)) = [] := by
    rw [List.filter_eq_nil_iff]
    intro r hr
    have := h r hr
    simp
    omega
  have hm : murk s a len = (s, [], 0) := by
    rw [murk, hf]
    rfl
  rw [cloud, hm]
  rfl

/-- A load over codewords without an error, of bytes that no stream is writing, puts what memory holds. -/
theorem loaded_clean (s : State) (n rd o : Nat) (h : s.cwErr = []) :
    loaded n rd (pocketAddr n o) (s, [], 0) (readMem s (pocketAddr n o) 8) =
      putX s n rd 4 false (BitVec.ofNat 64 (ofLe ((List.range 8).map (fun i => memGet s.mem (pocketAddr n o + i))))) := by
  rw [readMem_clean (fun i _ => by rw [CleanCw, h]; rfl), touch_pocket]
  rfl

variable (h : acts s n = true)
include h

theorem ld_good {rd base o : Nat} {off : Int} (ho : wordOperand s n (xreg s n base) off = some o) (hc : s.cwErr = [])
    (hr : ∀ r ∈ openRanges s, pocketAddr n o + 8 ≤ r.1 ∨ r.1 + r.2 ≤ pocketAddr n o) :
    ∃ t, exec (.ld n rd base off) s = .next t ∧ Schedules n (if rd = 0 then none else some (4, .reg n rd (BitVec.ofNat 64
      (ofLe ((List.range 8).map (fun i => memGet s.mem (pocketAddr n o + i))))))) s t := by
  have hu := (OnlyDetector.seeX s n [base]).trans (.fsIf _ (lowWord (xreg s n base) off) n 6)
  have hw := hu.trans (.fsIf _ (stalePocket (fsIf (seeX s n [base]) (lowWord (xreg s n base) off) n 6) n o 8) n 3)
  rw [exec_ld, execLd, if_neg (by rw [h]; decide)]
  dsimp only
  rw [hu.wordOperand_eq, ho]
  dsimp only
  generalize fsIf (fsIf (seeX s n [base]) (lowWord (xreg s n base) off) n 6) _ n 3 = w at hw ⊢
  have hs := schedules_putX hw (n := n) rd 4
  obtain ⟨r, rfl⟩ := hw.exists_regs
  rw [cloud_clear { s with regs := r } n hr, loaded_clean { s with regs := r } n rd o hc]
  exact ⟨_, rfl, hs _⟩

theorem st_good {rs base o : Nat} {off : Int} (ho : wordOperand s n (xreg s n base) off = some o) :
    ∃ t, exec (.st n rs base off) s = .next t ∧
      Schedules n (some (2, .pocket n o ((List.range 8).zip (leBytes 8 (xreg s n rs).toNat)))) s t := by
  have hu := (OnlyDetector.seeX s n [base, rs]).trans (.fsIf _ (lowWord (xreg s n base) off) n 6)
  rw [exec_st, execSt, if_neg (by rw [h]; decide)]
  dsimp only
  rw [hu.wordOperand_eq, ho, hu.xreg_eq]
  exact ⟨_, rfl, schedules_schedule hu 2 _⟩

theorem ld_bad {rd base : Nat} {off : Int} (ho : wordOperand s n (xreg s n base) off = none) :
    ∃ t, exec (.ld n rd base off) s = .next t ∧ BadAccess n s t := by
  have hu := (OnlyDetector.seeX s n [base]).trans (.fsIf _ (lowWord (xreg s n base) off) n 6)
  rw [exec_ld, execLd, if_neg (by rw [h]; decide)]
  dsimp only
  rw [hu.wordOperand_eq, ho]
  exact ⟨_, rfl, badAccess_badAddr hu⟩

theorem st_bad {rs base : Nat} {off : Int} (ho : wordOperand s n (xreg s n base) off = none) :
    ∃ t, exec (.st n rs base off) s = .next t ∧ BadAccess n s t := by
  have hu := (OnlyDetector.seeX s n [base, rs]).trans (.fsIf _ (lowWord (xreg s n base) off) n 6)
  rw [exec_st, execSt, if_neg (by rw [h]; decide)]
  dsimp only
  rw [hu.wordOperand_eq, ho]
  exact ⟨_, rfl, badAccess_badAddr hu⟩

theorem hdrld_result (rd : Nat) (lane : Lane) (buf sel : Nat) : ∃ t, exec (.hdrld n rd lane buf sel) s = .next t ∧
    Schedules n (if rd = 0 then none else some (2, .reg n rd (BitVec.ofNat 64
      (if lbState (stn s n) lane buf = .free then 0 else hdrField (lb s n lane buf).baton.hdr sel)))) s t := by
  rw [exec_hdrld, execHdrld, if_neg (by rw [h]; decide)]
  exact ⟨_, rfl, schedules_putX (.refl s) rd 2 _⟩

theorem seed_result (rs : Nat) : ∃ t, exec (.seed n rs) s = .next t ∧ Schedules n (some (1, .seed n
    (if (xreg s n rs).setWidth 32 = (0 : W32) then 1 else (xreg s n rs).setWidth 32))) s t := by
  rw [exec_seed, execSeed, if_neg (by rw [h]; decide)]
  exact ⟨_, rfl, schedules_schedule (OnlyDetector.seeX s n [rs]) 1 _⟩

end

/-! ### The move unit -/

theorem pocketOperand_some {v : W64} {len d : Nat} (hd : d = v.toNat / 256 * 256) (hl : 0 < len) (hlo : 0x80000 ≤ d)
    (hhi : d + len ≤ 0x400000) : pocketOperand v 256 len = some d := by
  have hv : v.toNat % 0x400000 / 256 * 256 = d := by omega
  unfold pocketOperand
  dsimp only
  rw [hv, if_neg (by omega), if_neg (by omega), if_neg (by omega)]

theorem pocketOperand_high {v : W64} {len : Nat} (h : 0x400000 ≤ v.toNat) : pocketOperand v 256 len = none := by
  unfold pocketOperand
  exact if_pos (by omega)

theorem storedBytes_pos {f : Nat} {sc : Bool} (h : tileOk f sc = true) : 0 < storedBytes f sc := by
  unfold tileOk at h
  unfold storedBytes
  cases hf : Fmt.ofCode f with
  | none => rw [hf] at h; simp at h
  | some g =>
    refine Nat.lt_of_lt_of_le ?_ (Nat.le_add_right ..)
    cases g <;> decide

section
variable {s u : State} {n : Nat} (hm : (stn s n).mv = none) (hw : (stn s n).mvWait = none) (h : OnlyDetector s u)
include hm hw h

/-- An idle move unit starts an operation in this cycle (06 R232). -/
theorem queueMove_idle {op : MoveOp} (hop : unitsOf op ≠ 0) : OnlyStation n s (queueMove u n op) ∧
    (queueMove u n op).clus = s.clus ∧
    stn (queueMove u n op) n = { stn s n with mv := some { op := op, start := cycOf s n } } := by
  have hq : queueMove u n op = updStn u n (fun t => { t with mv := some { op := op, start := cycOf s n } }) := by
    unfold queueMove
    rw [if_neg hop]
    dsimp only
    rw [h.stn_eq, hm, hw, h.cycOf_eq]
    rfl
  rw [hq]
  refine ⟨(h.onlyStation n).trans (.updStn u n _), ?_, ?_⟩
  · obtain ⟨r, rfl⟩ := h.exists_regs
    rfl
  · rw [stn_updStn_same, h.stn_eq]

end

/-- What the detector sees of the operands of a MOVE or CVT (06 R252). -/
def moveSeen (s : State) (n dst src count : Nat) : State :=
  fsIf (seeX s n [dst, src, count]) ((xreg (seeX s n [dst, src, count]) n dst).toNat % 256 ≠ 0 ||
    (xreg (seeX s n [dst, src, count]) n src).toNat % 256 ≠ 0) n 6

theorem onlyDetector_moveSeen (s : State) (n dst src count : Nat) : OnlyDetector s (moveSeen s n dst src count) :=
  (OnlyDetector.seeX ..).trans (.fsIf ..)

section
variable {s : State} {n : Nat} (h : acts s n = true)
include h

theorem execMove_buffer {f : MoveF} {l : Lane} {b d : Nat} (hb : f.buf = some (l, b))
    (hd : pocketOperand (xreg s n f.dst) 256 (256 * ((xreg s n f.count).toNat % 2 ^ 32 / 256)) = some d)
    (hk : pocketOk s n d (256 * ((xreg s n f.count).toNat % 2 ^ 32 / 256)) = true) : exec (.move n f) s =
      .next (queueMove (moveSeen s n f.dst f.src f.count) n (.move (some (l, b)) d
        ((xreg s n f.src).toNat / 256 * 256) ((xreg s n f.count).toNat % 2 ^ 32 / 256))) := by
  have hu := onlyDetector_moveSeen s n f.dst f.src f.count
  rw [exec_move, execMove, if_neg (by rw [h]; decide)]
  unfold moveSeen at hu ⊢
  dsimp only
  rw [hb, hu.xreg_eq, hu.xreg_eq, hu.xreg_eq, hd]
  dsimp only
  rw [if_neg (by rw [hu.pocketOk_eq, hk]; decide)]

theorem execMove_pocket {f : MoveF} {d o : Nat} (hb : f.buf = none)
    (hd : pocketOperand (xreg s n f.dst) 256 (256 * ((xreg s n f.count).toNat % 2 ^ 32 / 256)) = some d)
    (ho : pocketOperand (xreg s n f.src) 256 (256 * ((xreg s n f.count).toNat % 2 ^ 32 / 256)) = some o)
    (hk : pocketOk s n d (256 * ((xreg s n f.count).toNat % 2 ^ 32 / 256)) = true)
    (hj : pocketOk s n o (256 * ((xreg s n f.count).toNat % 2 ^ 32 / 256)) = true) : exec (.move n f) s =
      .next (queueMove (moveSeen s n f.dst f.src f.count) n (.move none d o
        ((xreg s n f.count).toNat % 2 ^ 32 / 256))) := by
  have hu := onlyDetector_moveSeen s n f.dst f.src f.count
  rw [exec_move, execMove, if_neg (by rw [h]; decide)]
  unfold moveSeen at hu ⊢
  dsimp only
  rw [hb, hu.xreg_eq, hu.xreg_eq, hu.xreg_eq, hd, ho]
  dsimp only
  rw [if_neg (by rw [hu.pocketOk_eq, hu.pocketOk_eq, hk, hj]; decide)]

theorem execMove_reserved {f : MoveF} (hd : 0x400000 ≤ (xreg s n f.dst).toNat) :
    exec (.move n f) s = .next (badAddr (moveSeen s n f.dst f.src f.count) n) := by
  have hu := onlyDetector_moveSeen s n f.dst f.src f.count
  rw [exec_move, execMove, if_neg (by rw [h]; decide)]
  unfold moveSeen at hu ⊢
  dsimp only
  rw [hu.xreg_eq, pocketOperand_high hd]
  cases f.buf <;> rfl

theorem execCvt_starts {f : CvtF} {d o c : Nat} (hi : tileOk f.fmtIn f.scaledIn = true) (ht : tileOk f.fmtOut f.scaledOut = true)
    (hc : c = (xreg s n f.count).toNat)
    (hd : pocketOperand (xreg s n f.dst) 256 (c % 2 ^ 32 * storedBytes f.fmtOut f.scaledOut) = some d)
    (ho : pocketOperand (xreg s n f.src) 256 (c % 2 ^ 32 * storedBytes f.fmtIn f.scaledIn) = some o)
    (hk : pocketOk s n d (c % 2 ^ 32 * storedBytes f.fmtOut f.scaledOut) = true)
    (hj : pocketOk s n o (c % 2 ^ 32 * storedBytes f.fmtIn f.scaledIn) = true) : exec (.cvt n f) s =
      .next (queueMove (moveSeen s n f.dst f.src f.count) n (.cvt d o (c % 2 ^ 32) f.fmtIn f.scaledIn f.fmtOut
        f.scaledOut f.stoch f.propagate (if bitOf c 32 then some (bits c 38 33) else none))) := by
  subst hc
  have hu := onlyDetector_moveSeen s n f.dst f.src f.count
  rw [exec_cvt, execCvt, if_neg (by simp [h, hi, ht])]
  unfold moveSeen at hu ⊢
  dsimp only
  rw [hu.xreg_eq, hu.xreg_eq, hu.xreg_eq, hd, ho]
  dsimp only
  rw [if_neg (by rw [hu.pocketOk_eq, hu.pocketOk_eq, hk, hj]; decide)]

end

theorem moveUnitStart_starts {s : State} {n : Nat} {op : MoveOp} {r : MoveRun} (hw : (stn s n).mvWait = some op)
    (hm : (stn s n).mv = some r) (hd : r.done = unitsOf r.op) (hc : r.start + unitsOf r.op + 2 ≤ cycOf s n + r.slip) :
    exec (.moveUnitStart n) s = .next (updStn s n (fun t =>
      { t with mv := some { op := op, start := cycOf s n }, mvWait := t.mvSecond, mvSecond := none })) := by
  rw [exec_moveUnitStart, execMoveUnitStart, hw, hm]
  have hover : runOver s n r = true := decide_eq_true (by rw [runAge]; omega)
  exact if_pos (by dsimp only; rw [hover, hd]; simp)

/-- Settles O10: what the loads and stores schedule, and what the move unit is given. -/
theorem loadsStoresAndMoves : Obligations.LoadsStoresAndMoves := by
  unfold Obligations.LoadsStoresAndMoves
  refine ⟨fun s n h => ⟨hdrld_result h, fun rd base off o hv ha hlo hhi hle hlt hk => ?_, fun rd rs base off ho =>
      ⟨ld_bad h (wordOperand_none ho), st_bad h (wordOperand_none ho)⟩, seed_result h⟩,
    fun s n h => ⟨fun f d o u hm hw hd ho hu hu0 hlo hhi hk => ?_,
      fun f d o u c hm hw hi ht hd ho hc hu hu0 hdlo hdhi holo hohi hk hj => ?_,
      fun f hd => ⟨_, execMove_reserved h hd, badAccess_badAddr (onlyDetector_moveSeen ..)⟩,
      fun op r hw hm hd hc => ⟨_, moveUnitStart_starts hw hm hd hc, .updStn s n _, rfl, rfl, stn_updStn_same ..⟩⟩⟩
  · have hop := wordOperand_some hv ha hlo hhi hle hlt hk
    exact ⟨ld_good h hop, fun rs => st_good h hop⟩
  · subst hu
    have hdst := pocketOperand_some hd (by omega) hlo hhi
    refine ⟨fun lb hb => ⟨_, execMove_buffer h (l := lb.1) (b := lb.2) hb hdst hk, ?_⟩, fun hb holo hohi hj =>
      ⟨_, execMove_pocket h hb hdst (pocketOperand_some ho (by omega) holo hohi) hk hj,
        queueMove_idle hm hw (onlyDetector_moveSeen ..) hu0⟩⟩
    rw [← ho]
    exact queueMove_idle hm hw (onlyDetector_moveSeen ..) hu0
  · subst hu
    have hpos (fm : Nat) (sc : Bool) (hf : tileOk fm sc = true) : 0 < c % 2 ^ 32 * storedBytes fm sc :=
      Nat.mul_pos (Nat.pos_of_ne_zero hu0) (storedBytes_pos hf)
    refine ⟨_, execCvt_starts h hi ht hc (pocketOperand_some hd (hpos _ _ ht) hdlo hdhi)
      (pocketOperand_some ho (hpos _ _ hi) holo hohi) hk hj, queueMove_idle hm hw (onlyDetector_moveSeen ..) ?_⟩
    exact Nat.mul_ne_zero (by decide) hu0

end Sys2Proof.Machine
end

/-! ## SEND and FREE (02 R56, R60, R68, R76; 06 R226 to R228) -/
section
set_option Elab.async false
namespace Sys2Proof.Machine
open Sys2Proof

/-! ### Hops, buffers and ports of a station -/

section
variable (s : State) (n m : Nat) (lane o : Lane)

theorem hop_updStn {f : Station → Station} (h : ∀ t, (f t).hops = t.hops) : hop (updStn s n f) m o = hop s m o := by
  by_cases hm : m = n
  · rw [hm, hop, hop, stn_updStn_same, h]
  · rw [hop, hop, stn_updStn_other _ _ _ _ hm]

theorem lb_updStn {f : Station → Station} (b : Nat) (h : ∀ t, (f t).lbs = t.lbs) : lb (updStn s n f) m o b = lb s m o b := by
  by_cases hm : m = n
  · rw [hm, lb, lb, stn_updStn_same, h]
  · rw [lb, lb, stn_updStn_other _ _ _ _ hm]

theorem port_updStn {f : Station → Station} (h : ∀ t, (f t).ports = t.ports) : port (updStn s n f) m o = port s m o := by
  by_cases hm : m = n
  · rw [hm, port, port, stn_updStn_same, h]
  · rw [port, port, stn_updStn_other _ _ _ _ hm]

@[simp] theorem hop_updHop_same (l : List Flight) : hop (updHop s n lane l) n lane = l := by
  rw [hop, updHop, stn_updStn_same, Table.get_set_same]

@[simp] theorem hop_updLb (b : Nat) (f : LBuf → LBuf) : hop (updLb s n lane b f) m o = hop s m o :=
  hop_updStn s n m o fun _ => rfl

@[simp] theorem hop_updPort (f : Port → Port) : hop (updPort s n lane f) m o = hop s m o :=
  hop_updStn s n m o fun _ => rfl

@[simp] theorem lb_updHop (l : List Flight) (b : Nat) : lb (updHop s n lane l) m o b = lb s m o b :=
  lb_updStn s n m o b fun _ => rfl

@[simp] theorem lb_updPort (f : Port → Port) (b : Nat) : lb (updPort s n lane f) m o b = lb s m o b :=
  lb_updStn s n m o b fun _ => rfl

@[simp] theorem port_updHop (l : List Flight) : port (updHop s n lane l) m o = port s m o :=
  port_updStn s n m o fun _ => rfl

@[simp] theorem port_updLb (b : Nat) (f : LBuf → LBuf) : port (updLb s n lane b f) m o = port s m o :=
  port_updStn s n m o fun _ => rfl

@[simp] theorem port_updPort_same (f : Port → Port) : port (updPort s n lane f) n lane = f (port s n lane) := by
  rw [port, updPort, stn_updStn_same]
  exact Table.get_upd_same ..

@[simp] theorem lb_updLb_same (b : Nat) (f : LBuf → LBuf) : lb (updLb s n lane b f) n lane b = f (lb s n lane b) := by
  rw [lb, updLb, stn_updStn_same]
  exact Table.get_upd_same ..

end

/-! ### A baton leaves on a lane (02 R56; 06 R226) -/

theorem exec_send (n : Nat) (a : Lane) (b : Nat) (o : Lane) (d : Nat) (s : State) :
    exec (.send n a b o d) s = execSend n a b o d s := rfl

theorem exec_sendQueuedStart (n : Nat) (o : Lane) (s : State) :
    exec (.sendQueuedStart n o) s = execSendQueuedStart n o s := rfl

theorem exec_free (n i o : Nat) (s : State) : exec (.free n i o) s = execFree n i o s := rfl

/-- The baton on the hop to station `m` that a SEND launches. -/
def flightOf (s : State) (n : Nat) (r : SendReq) (lane : Lane) (m : Nat) : Flight :=
  let x := lb s n r.srcLane r.srcBuf
  { baton := { x.baton with hdr := rewrite x.baton m x.written }
    dst := dstBuf x.baton.buffers r.dst
    sender := n
    srcLane := r.srcLane
    srcBuf := r.srcBuf
    inCluster := inCluster n m lane
    due := cycOf s n + 3 }

/-- The state with that baton on the hop, its buffer still read and its port busy. -/
def launched (s : State) (n : Nat) (r : SendReq) (lane : Lane) (m : Nat) : State :=
  let x := lb s n r.srcLane r.srcBuf
  let u := fsIf s (decide (dstBuf x.baton.buffers r.dst ≠ r.dst)) n 6
  updPort (updLb (updHop u m lane (hop u m lane ++ [flightOf s n r lane m])) n r.srcLane r.srcBuf
    (fun y => { y with readUntil := max y.readUntil (cycOf s n + x.baton.transfers + 1) })) n lane
    (fun p => { p with idleAt := cycOf s n + x.baton.transfers })

section
variable {s : State} {n : Nat} {r : SendReq} {lane : Lane}

theorem launch_held {m : Nat} (hx : (lb s n r.srcLane r.srcBuf).state = .held)
    (hh : (lb s n r.srcLane r.srcBuf).baton.hdr.hops ≠ 0) (hm : neighbour s n lane = some m) :
    launch s n r lane = launched s n r lane m := by
  unfold launch
  dsimp only
  rw [hx]
  dsimp only
  rw [if_neg hh, hm]
  rfl

theorem launch_spent (hx : (lb s n r.srcLane r.srcBuf).state = .held)
    (hh : (lb s n r.srcLane r.srcBuf).baton.hdr.hops = 0) :
    launch s n r lane = raise (ringErr s n r.srcLane 3) 0x0104 (dieOf n) (n % 96) none := by
  unfold launch
  dsimp only
  rw [hx]
  exact if_pos hh

theorem launched_parts (m : Nat) : launched s n r lane m = { s with
      stns := (launched s n r lane m).stns
      regs := (launched s n r lane m).regs } ∧
    (debugCourse s = false → (launched s n r lane m).regs = s.regs) := by
  obtain ⟨hu, hregs⟩ := OnlyDetector.fsIf s (decide (dstBuf (lb s n r.srcLane r.srcBuf).baton.buffers r.dst ≠ r.dst)) n 6
  unfold launched
  dsimp only
  generalize fsIf s _ n 6 = u at hu hregs ⊢
  exact ⟨by rw [hu]; rfl, hregs⟩

theorem launched_other {m k : Nat} (hn : k ≠ n) (hm : k ≠ m) : stn (launched s n r lane m) k = stn s k := by
  unfold launched updPort updLb updHop
  dsimp only
  rw [stn_updStn_other _ _ _ _ hn, stn_updStn_other _ _ _ _ hn, stn_updStn_other _ _ _ _ hm, stn_fsIf]

theorem launched_hop (m : Nat) : hop (launched s n r lane m) m lane = hop s m lane ++ [flightOf s n r lane m] := by
  have hf (c : Bool) : hop (fsIf s c n 6) m lane = hop s m lane := by rw [hop, hop, stn_fsIf]
  unfold launched
  dsimp only
  rw [hop_updPort, hop_updLb, hop_updHop_same, hf]

theorem launched_port (m : Nat) : port (launched s n r lane m) n lane =
    { port s n lane with idleAt := cycOf s n + (lb s n r.srcLane r.srcBuf).baton.transfers } := by
  have hf (c : Bool) : port (fsIf s c n 6) n lane = port s n lane := by rw [port, port, stn_fsIf]
  unfold launched
  dsimp only
  rw [port_updPort_same, port_updLb, port_updHop, hf]

theorem launched_lb (m : Nat) : lb (launched s n r lane m) n r.srcLane r.srcBuf =
    { lb s n r.srcLane r.srcBuf with
      readUntil := max (lb s n r.srcLane r.srcBuf).readUntil (cycOf s n + (lb s n r.srcLane r.srcBuf).baton.transfers + 1) } := by
  have hf (c : Bool) : lb (fsIf s c n 6) n r.srcLane r.srcBuf = lb s n r.srcLane r.srcBuf := by rw [lb, lb, stn_fsIf]
  unfold launched
  dsimp only
  rw [lb_updPort, lb_updLb_same, lb_updHop, hf]

theorem stn_updHop_regs (s : State) (m k : Nat) (lane : Lane) (l : List Flight) :
    (stn (updHop s m lane l) k).x = (stn s k).x ∧ (stn (updHop s m lane l) k).pc = (stn s k).pc := by
  by_cases hk : k = m
  · rw [hk, updHop, stn_updStn_same]
    exact ⟨rfl, rfl⟩
  · rw [updHop, stn_updStn_other _ _ _ _ hk]
    exact ⟨rfl, rfl⟩

theorem launched_regs (m : Nat) : (stn (launched s n r lane m) n).x = (stn s n).x ∧
    (stn (launched s n r lane m) n).pc = (stn s n).pc := by
  unfold launched updPort updLb
  dsimp only
  rw [stn_updStn_same, stn_updStn_same]
  dsimp only
  obtain ⟨hx, hpc⟩ := stn_updHop_regs (fsIf s (decide (dstBuf (lb s n r.srcLane r.srcBuf).baton.buffers r.dst ≠ r.dst)) n 6)
    m n lane (hop (fsIf s (decide (dstBuf (lb s n r.srcLane r.srcBuf).baton.buffers r.dst ≠ r.dst)) n 6) m lane ++
      [flightOf s n r lane m])
  rw [hx, hpc, stn_fsIf]
  exact ⟨rfl, rfl⟩

/-- The header as the station sends it (02 R56). -/
theorem rewrite_eq (b : Baton) (m : Nat) (w : Bool) : rewrite b m w = hdrSealed { b.hdr with
    hops := b.hdr.hops - 1
    lap := if m = b.hdr.source then min 255 (b.hdr.lap + 1) else b.hdr.lap
    payloadCrc := if w then batonCrc b else b.hdr.payloadCrc } := by
  cases w <;> rfl

end

/-! ### SEND by the state of its source (06 R226, R227) -/

section
variable {s : State} {n : Nat} {src out : Lane} {b dst : Nat} (h : acts s n = true)
include h

theorem send_launches (hx : (lb s n src b).state = .held) (hw : (port s n out).wait = none) (hb : portBusy s n out = false) :
    exec (.send n src b out dst) s = .next (launch s n ⟨src, b, dst⟩ out) := by
  have hf : fsIf s (!holds (lb s n src b)) n 0 = s := if_neg (by simp [holds, hx])
  rw [exec_send, execSend, if_neg (by rw [h]; decide)]
  dsimp only
  rw [hf, if_neg (by simp [hx]), if_neg (by simp [hx]), if_neg (by simp [hw]), if_neg (by simp [hx, hb])]

theorem send_bad (hx : (lb s n src b).state = .heldBad) : exec (.send n src b out dst) s = .next (errHalt s n 0) := by
  have hf : fsIf s (!holds (lb s n src b)) n 0 = s := if_neg (by simp [holds, hx])
  rw [exec_send, execSend, if_neg (by rw [h]; decide)]
  dsimp only
  rw [hf, if_neg (by simp [hx]), if_pos hx]

theorem send_free (hx : (lb s n src b).state = .free) : ∃ u, OnlyDetector s u ∧
    exec (.send n src b out dst) s = .next u := by
  rw [exec_send, execSend, if_neg (by rw [h]; decide)]
  dsimp only
  rw [if_pos hx]
  exact ⟨_, .fsIf s _ n 0, rfl⟩

theorem send_waits (hx : (lb s n src b).state = .landing ∨ (lb s n src b).state = .held ∧ portBusy s n out = true)
    (hw : (port s n out).wait = none) : ∃ u, OnlyDetector s u ∧
      exec (.send n src b out dst) s = .next (updPort u n out (fun p => { p with wait := some ⟨src, b, dst⟩ })) := by
  have hu := OnlyDetector.fsIf s (!holds (lb s n src b)) n 0
  have hs : (lb s n src b).state ≠ .free ∧ (lb s n src b).state ≠ .heldBad := by
    rcases hx with hx | ⟨hx, -⟩ <;> rw [hx] <;> decide
  rw [exec_send, execSend, if_neg (by rw [h]; decide)]
  dsimp only
  have hport : port (fsIf s (!holds (lb s n src b)) n 0) n out = port s n out := by rw [port, port, stn_fsIf]
  have hbusy : portBusy (fsIf s (!holds (lb s n src b)) n 0) n out = portBusy s n out := by
    obtain ⟨r, hr⟩ := hu.exists_regs
    rw [hr]
    rfl
  rw [if_neg hs.1, if_neg hs.2, hport, hw, hbusy, if_neg (by decide),
    if_pos (by rcases hx with hx | ⟨-, hx⟩ <;> simp [hx])]
  exact ⟨_, hu.trans (.fsIf _ _ n 5), rfl⟩

end

/-- The state in which the second SEND of a port waits in the place of the first (06 R227). -/
def queueMoved (s : State) (n : Nat) (out : Lane) : State :=
  updPort s n out (fun p => { p with
    wait := p.second
    second := none })

theorem lb_queueMoved (s : State) (n : Nat) (lane out : Lane) (b : Nat) :
    lb (queueMoved s n out) n lane b = lb s n lane b := lb_updPort ..

/-- A waiting SEND starts, and the second one waits in its place (06 R227). -/
theorem sendQueuedStart_launches {s : State} {n : Nat} {out : Lane} {r : SendReq} (hw : (port s n out).wait = some r)
    (hb : portBusy s n out = false) (hx : lbState (stn s n) r.srcLane r.srcBuf = .held) :
    exec (.sendQueuedStart n out) s = .next (launch (queueMoved s n out) n r out) := by
  rw [exec_sendQueuedStart, execSendQueuedStart, hw]
  exact if_neg (by simp [hb, hx])

theorem free_schedules {s : State} {n : Nat} (h : acts s n = true) (inner outer : Nat) :
    ∃ t, exec (.free n inner outer) s = .next t ∧ Schedules n (some (1, .free n inner outer)) s t := by
  rw [exec_free, execFree, if_neg (by rw [h]; decide)]
  exact ⟨_, rfl, schedules_schedule (.fsIf s _ n 1) 1 _⟩

/-- Settles O11: a SEND by its source and its port, one that waited, and what a FREE schedules. -/
theorem sendsAndFrees : Obligations.SendsAndFrees := by
  unfold Obligations.SendsAndFrees
  refine ⟨fun s n src b out dst h => ⟨fun hx hh hw hb m hm => ?_, fun hx hh hw hb => ?_,
      fun hx => ⟨s, .refl s, send_bad h hx⟩, fun hx hw => send_waits h (.inl hx) hw,
      fun hx hw hb => send_waits h (.inr ⟨hx, hb⟩) hw, fun hx => send_free h hx⟩,
    fun s n out r m hw hb hl hx hh hm => ?_, fun s n inner outer h => free_schedules h inner outer⟩
  · obtain ⟨hparts, hregs⟩ := launched_parts (s := s) (n := n) (r := ⟨src, b, dst⟩) (lane := out) m
    obtain ⟨hx', hpc⟩ := launched_regs (s := s) (n := n) (r := ⟨src, b, dst⟩) (lane := out) m
    refine ⟨launched s n ⟨src, b, dst⟩ out m, flightOf s n ⟨src, b, dst⟩ out m,
      (send_launches h hx hw hb).trans (congrArg _ (launch_held hx hh hm)), hparts, hregs,
      fun k hn hk => launched_other hn hk, launched_hop m, ?_, rfl, rfl, rfl, rfl, rfl, rfl, ?_, hx', hpc, ?_, ?_⟩
    · rw [← rewrite_eq]
      rfl
    · rw [launched_port]
    · rw [launched_lb (r := ⟨src, b, dst⟩)]
      exact hx
    · rw [launched_lb (r := ⟨src, b, dst⟩)]
  · rw [send_launches h hx hw hb, launch_spent hx hh]
  · have hlb := lb_queueMoved s n r.srcLane out r.srcBuf
    have hrun := (sendQueuedStart_launches hw hb hl).trans (congrArg Host.Outcome.next (launch_held (s := queueMoved s n out)
      (by rw [hlb]; exact hx) (by rw [hlb]; exact hh) hm))
    obtain ⟨hparts, -⟩ := launched_parts (s := queueMoved s n out) (n := n) (r := r) (lane := out) m
    have hother (k : Nat) (hn : k ≠ n) (hk : k ≠ m) : stn (launched (queueMoved s n out) n r out m) k = stn s k :=
      (launched_other hn hk).trans (stn_updStn_other _ _ _ _ hn)
    have hhop := launched_hop (s := queueMoved s n out) (n := n) (r := r) (lane := out) m
    have hport := launched_port (s := queueMoved s n out) (n := n) (r := r) (lane := out) m
    have hflight : flightOf (queueMoved s n out) n r out m = flightOf s n r out m := by
      rw [flightOf, hlb]
      rfl
    rw [hlb, queueMoved, port_updPort_same, ← queueMoved] at hport
    refine ⟨_, flightOf s n r out m, hrun, hparts, hother, ?_, rfl, rfl, rfl, ?_, ?_, ?_, ?_⟩
    · rw [hhop, hflight, queueMoved, hop_updPort]
    · exact congrArg (fun h : Header => h.hops) (rewrite_eq (lb s n r.srcLane r.srcBuf).baton m
        (lb s n r.srcLane r.srcBuf).written)
    · rw [hport]
    · rw [hport]
    · rw [hport]
      rfl

end Sys2Proof.Machine
end

/-! ## Landings counted, retransmissions, stopped hops and routes (01 R34, R37; 02 R65, R71 to R73) -/
section
set_option Elab.async false
namespace Sys2Proof.Machine
open Sys2Proof

theorem exec_transferRetransmit (n : Nat) (o : Lane) (i k : Nat) (got : List Byte) (crc : Nat) (s : State) :
    exec (.transferRetransmit n o i k got crc) s = execTransferRetransmit n o i k got crc s := rfl

theorem exec_ringReplayFail (n : Nat) (o : Lane) (s : State) : exec (.ringReplayFail n o) s = execRingReplayFail n o s := rfl

theorem exec_fabricRetransmit (w edge c : Nat) (again : Bool) (got : List Byte) (crc : Nat) (s : State) :
    exec (.fabricRetransmit w edge c again got crc) s = execFabricRetransmit w edge c again got crc s := rfl

theorem exec_ringFabReplayFail (w edge c : Nat) (s : State) :
    exec (.ringFabReplayFail w edge c) s = execRingFabReplayFail w edge c s := rfl

/-! ### What a released WAIT leaves of a station (08 R306) -/

/-- Two stations whose hops, landing buffers, output ports and stopped hops agree. -/
structure SameRing (t u : Station) : Prop where
  hops : u.hops = t.hops
  lbs : u.lbs = t.lbs
  ports : u.ports = t.ports
  stopped : u.stopped = t.stopped

theorem sameRing_releaseStn (c : Ctr) (v : W32) (l : Cluster) (n : Nat) (t : Station) :
    SameRing t (releaseStn c v l n t) := by
  unfold releaseStn
  split
  · split
    · exact ⟨rfl, rfl, rfl, rfl⟩
    · exact ⟨rfl, rfl, rfl, rfl⟩
  · exact ⟨rfl, rfl, rfl, rfl⟩

theorem sameRing_haltAtHurdle (t : Station) : SameRing t (haltAtHurdle t) := by
  unfold haltAtHurdle
  split <;> exact ⟨rfl, rfl, rfl, rfl⟩

/-- A table whose values are changed by key holds at each key its value changed, or what it held. -/
theorem get_map_or {α : Type} (d : α) (f : Nat → α → α) (m : Table α) (k : Nat) :
    Table.get d (m.map (fun e => (e.1, f e.1 e.2))) k = f k (Table.get d m k) ∨
      Table.get d (m.map (fun e => (e.1, f e.1 e.2))) k = Table.get d m k := by
  induction m with
  | nil => exact .inr rfl
  | cons e m ih =>
    rw [List.map_cons, Table.get, Table.get]
    split
    · rename_i h
      exact .inl (by rw [← h])
    · exact ih

theorem sameRing_testDirect (s : State) (c : Ctr) (v : W32) (m : Nat) : SameRing (stn s m) (stn (testDirect s c v) m) := by
  rcases get_map_or {} (fun k t => releaseStn c v (clu s (cluOf k)) k t) s.stns m with h | h
  · exact (show stn (testDirect s c v) m = releaseStn c v (clu s (cluOf m)) m (stn s m) from h) ▸ sameRing_releaseStn ..
  · exact (show stn (testDirect s c v) m = stn s m from h) ▸ ⟨rfl, rfl, rfl, rfl⟩

theorem SameRing.trans {t u v : Station} (h : SameRing t u) (k : SameRing u v) : SameRing t v :=
  ⟨k.hops.trans h.hops, k.lbs.trans h.lbs, k.ports.trans h.ports, k.stopped.trans h.stopped⟩

/-! ### A landing counted (02 R65) -/

section
variable (s : State) (n : Nat) (lane : Lane) (b : Nat)

/-- The landing counters after one of them counts a landing. -/
def landingCounted : Table W32 :=
  s.coreCtr.set (64 * n + 56 + 4 * lane.code + b) (s.coreCtr.get 0 (64 * n + 56 + 4 * lane.code + b) + 1)

theorem countLanding_parts : countLanding s n lane b = { s with
    stns := (countLanding s n lane b).stns
    clus := (countLanding s n lane b).clus
    coreCtr := landingCounted s n lane b } := by
  have hkey : 64 * n + (56 + lbKey lane b) = 64 * n + 56 + 4 * lane.code + b := by
    rw [lbKey]
    omega
  unfold countLanding landingCounted
  rw [← hkey]
  rfl

theorem sameRing_countLanding (m : Nat) : SameRing (stn s m) (stn (countLanding s n lane b) m) :=
  sameRing_testDirect (setCtr s (.core n (56 + lbKey lane b)) _) _ _ m

end

theorem hop_of_sameRing {s t : State} {m : Nat} (h : SameRing (stn s m) (stn t m)) (lane : Lane) : hop t m lane = hop s m lane := by
  rw [hop, hop, h.hops]

theorem lb_of_sameRing {s t : State} {m : Nat} (h : SameRing (stn s m) (stn t m)) (lane : Lane) (b : Nat) :
    lb t m lane b = lb s m lane b := by
  rw [lb, lb, h.lbs]

theorem sameRing_errHalt (s : State) (n ev m : Nat) : SameRing (stn s m) (stn (errHalt s n ev) m) := by
  have h : stn (errHalt s n ev) m = stn (updStn s n haltAtHurdle) m := by
    rw [errHalt, wantStop_parts]
    rfl
  rw [h]
  by_cases hm : m = n
  · rw [hm, stn_updStn_same]
    exact sameRing_haltAtHurdle _
  · rw [stn_updStn_other _ _ _ _ hm]
    exact ⟨rfl, rfl, rfl, rfl⟩

/-! ### Retransmissions (02 R71 to R73) -/

section
variable {s : State} {n : Nat} {lane : Lane} {i k r : Nat} {got : List Byte} {crc : Nat} {f : Flight} {rest : List Flight}
  (hh : hop s n lane = f :: rest)
include hh

theorem transferRetransmit_good (hg : crc16 got = crc) : exec (.transferRetransmit n lane i k got crc) s = .next s := by
  rw [exec_transferRetransmit, execTransferRetransmit, hh]
  exact if_pos (by simp [hg])

/-- The state with a failed transfer counted on its hop and in its die's register. -/
def retransmitted (s : State) (n : Nat) (lane : Lane) (f : Flight) (rest : List Flight) (i k r : Nat) : State :=
  let u := bump (updHop s n lane ({ f with failAt := i, fails := r + 1 } :: rest)) (regKey (dieOf n) 0x18) 0 32 1
  if f.inCluster then
    updClu u (cluOf n) (fun c => { c with hold := if r = 0 then max c.hold (k + 2) else c.hold + (k + 2) })
  else u

/-- The test of the receiving station that too many retransmissions ask for (16 R530). -/
def retransmitTest (s : State) (n : Nat) (lane : Lane) : State :=
  let r := rate s (0x10000 + 2 * n + lane.code) 1000 1000000000
  if r.2 then requestTest r.1 2 n 0x0101 else r.1

theorem transferRetransmit_fails (hk : 0 < k) (hk8 : k ≤ 8) (hi : i + k ≤ f.baton.transfers) (hw : f.waiting = false)
    (hr : r = (if f.failAt = i then f.fails else 0)) (hs : (stn s n).stopped.get false lane.code = false)
    (hg : crc16 got ≠ crc) (hr8 : r < 8) : exec (.transferRetransmit n lane i k got crc) s =
      .next (retransmitTest (retransmitted s n lane f rest i k r) n lane) := by
  have hrep : replays f i = r := hr.symm
  rw [exec_transferRetransmit, execTransferRetransmit, hh]
  dsimp only
  rw [hrep, if_neg (by simp [replayOk, hw, hg, hs]; omega)]
  rfl

omit hh in
theorem retransmitTest_parts (s : State) (n : Nat) (lane : Lane) : ∃ t r v l m, retransmitTest s n lane = { s with
      tests := t
      rates := r
      regs := v
      evs := l
      evTotal := m } := by
  unfold retransmitTest rate
  dsimp only
  split
  · rw [requestTest_parts]
    exact ⟨_, _, _, _, _, rfl⟩
  · exact ⟨s.tests, _, s.regs, s.evs, s.evTotal, rfl⟩

omit hh in
theorem reg_requestTest (s : State) (k i ev : Nat) {key : Nat} (h : key ≠ fltStatus) :
    reg (requestTest s k i ev) key = reg s key := by
  unfold requestTest
  split
  · rfl
  · split
    · rfl
    · exact reg_latch_other s 0 10 [] h

omit hh in
theorem reg_retransmitTest (s : State) (n : Nat) (lane : Lane) {key : Nat} (h : key ≠ fltStatus) :
    reg (retransmitTest s n lane) key = reg s key := by
  unfold retransmitTest rate
  dsimp only
  split
  · exact reg_requestTest _ 2 n 0x0101 h
  · rfl

omit hh in
theorem retransmitted_spec : ∀ t, t = retransmitTest (retransmitted s n lane f rest i k r) n lane →
    hop t n lane = { f with failAt := i, fails := r + 1 } :: rest ∧ (stn t n).lbs = (stn s n).lbs ∧
      bits (reg t (regKey (dieOf n) 0x18)) 31 0 = min (2 ^ 32 - 1) (bits (reg s (regKey (dieOf n) 0x18)) 31 0 + 1) ∧
      (clu t (cluOf n)).hold = (if f.inCluster then
        (if r = 0 then max (clu s (cluOf n)).hold (k + 2) else (clu s (cluOf n)).hold + (k + 2))
        else (clu s (cluOf n)).hold) ∧ SameBytes s t := by
  rintro t rfl
  have hreg := reg_retransmitTest (retransmitted s n lane f rest i k r) n lane (key := regKey (dieOf n) 0x18)
    (regKey_ne (by decide) (by decide) (by decide))
  obtain ⟨a, b, c, d, e, hp⟩ := retransmitTest_parts (retransmitted s n lane f rest i k r) n lane
  rw [hreg]
  generalize retransmitTest (retransmitted s n lane f rest i k r) n lane = t at hp ⊢
  have hstns : t.stns = (retransmitted s n lane f rest i k r).stns := by rw [hp]
  have hclus : t.clus = (retransmitted s n lane f rest i k r).clus := by rw [hp]
  have hmem : t.mem = (retransmitted s n lane f rest i k r).mem := by rw [hp]
  have hstns' : t.stns = (updHop s n lane ({ f with failAt := i, fails := r + 1 } :: rest)).stns := by
    rw [hstns, retransmitted]
    split <;> rfl
  refine ⟨?_, ?_, ?_, ?_, sameBytes_of_mem ?_⟩
  · rw [hop, stn, hstns']
    exact hop_updHop_same s n lane _
  · rw [stn, hstns']
    change (stn (updHop s n lane _) n).lbs = _
    rw [updHop, stn_updStn_same]
  · have hb := bits_reg_bump (updHop s n lane ({ f with failAt := i, fails := r + 1 } :: rest)) (regKey (dieOf n) 0x18) 1
      (lo := 0) (w := 32) (by omega) (by omega)
    rw [retransmitted]
    split
    · exact hb
    · exact hb
  · rw [clu, hclus, retransmitted]
    cases f.inCluster with
    | true => exact congrArg Cluster.hold (clu_updClu_same ..)
    | false => rfl
  · rw [hmem, retransmitted]
    split <;> rfl

end

/-! ### Stopped hops (02 R72; 01 R37) -/

section
variable {s : State} {n : Nat} {lane : Lane} {f : Flight} {rest : List Flight}

/-- The state with a hop stopped and what is on it (02 R72). -/
def hopHalted (s : State) (n : Nat) (lane : Lane) (rest : List Flight) : State :=
  updStn (updHop s n lane (rest.map (fun g => { g with stopped := true }))) n
    (fun t => { t with stopped := t.stopped.set lane.code true })

/-- The state with a hop stopped and the buffer of its failed baton HELD_BAD, where it has one (02 R72). -/
def hopStopped (s : State) (n : Nat) (lane : Lane) (f : Flight) (rest : List Flight) : State :=
  if f.landing || allFree (hopHalted s n lane rest) n lane f.dst f.baton.buffers then
    countLanding (updLb (hopHalted s n lane rest) n lane f.dst (fun y => { y with state := .heldBad, baton := f.baton }))
      n lane f.dst
  else hopHalted s n lane rest

theorem ringReplayFail_stops (hh : hop s n lane = f :: rest) (hf : 8 ≤ f.fails) : exec (.ringReplayFail n lane) s =
    .next (errHalt (requestTest (raise (ringErr (hopStopped s n lane f rest) n lane 0) 0x0101 (dieOf n) (n % 96) none) 2 n
      0x0101) n 0x0101) := by
  rw [exec_ringReplayFail, execRingReplayFail, hh]
  exact if_neg (by omega)

/-- What the report of a stopped hop leaves (02 R72; 16 R525). -/
theorem ringReport_spec (u : State) (n : Nat) (lane : Lane) :
    ∀ t, t = errHalt (requestTest (raise (ringErr u n lane 0) 0x0101 (dieOf n) (n % 96) none) 2 n 0x0101) n 0x0101 →
      SameRing (stn u n) (stn t n) ∧ t.coreCtr = u.coreCtr ∧ t.mem = u.mem ∧ evNow u 0x0101 (dieOf n) (n % 96) none ∈ t.evs := by
  rintro t rfl
  have hev := mem_evs_requestTest (s := raise (ringErr u n lane 0) 0x0101 (dieOf n) (n % 96) none) 2 n 0x0101
    (e := evNow u 0x0101 (dieOf n) (n % 96) none) (List.mem_append_right _ (List.mem_singleton.2 rfl))
  obtain ⟨-, -, -, -, hstns, hmem⟩ := requestTest_frame (raise (ringErr u n lane 0) 0x0101 (dieOf n) (n % 96) none) 2 n 0x0101
  have hctr : (requestTest (raise (ringErr u n lane 0) 0x0101 (dieOf n) (n % 96) none) 2 n 0x0101).coreCtr = u.coreCtr := by
    rw [requestTest_parts]
    rfl
  generalize requestTest (raise (ringErr u n lane 0) 0x0101 (dieOf n) (n % 96) none) 2 n 0x0101 = v at hev hstns hmem hctr ⊢
  have hs : stn v n = stn u n := by
    rw [stn, hstns]
    rfl
  have hr := sameRing_errHalt v n 0x0101 n
  rw [hs] at hr
  refine ⟨hr, ?_, ?_, ?_⟩ <;> rw [errHalt_parts]
  · exact hctr
  · exact hmem
  · exact hev

theorem lbState_of_lbs {t u : Station} (h : u.lbs = t.lbs) (lane : Lane) (b : Nat) : lbState u lane b = lbState t lane b := by
  simp only [lbState, covers, h]

theorem hopHalted_spec : hop (hopHalted s n lane rest) n lane = rest.map (fun g => { g with stopped := true }) ∧
    (stn (hopHalted s n lane rest) n).stopped.get false lane.code = true ∧
    (stn (hopHalted s n lane rest) n).lbs = (stn s n).lbs ∧
    (∀ b k, allFree (hopHalted s n lane rest) n lane b k = allFree s n lane b k) := by
  have hlbs : (stn (hopHalted s n lane rest) n).lbs = (stn s n).lbs := by
    rw [hopHalted, stn_updStn_same, updHop, stn_updStn_same]
  refine ⟨?_, ?_, hlbs, fun b k => ?_⟩
  · exact (hop_updStn (f := fun t => { t with stopped := t.stopped.set lane.code true }) _ n n lane (fun _ => rfl)).trans (hop_updHop_same ..)
  · rw [hopHalted, stn_updStn_same, Table.get_set_same]
  · simp only [allFree, lbState_of_lbs hlbs]

theorem hopStopped_taken (h : f.landing = true ∨ allFree s n lane f.dst f.baton.buffers = true) :
    hopStopped s n lane f rest = countLanding (updLb (hopHalted s n lane rest) n lane f.dst (fun y =>
      { y with state := .heldBad, baton := f.baton })) n lane f.dst := by
  obtain ⟨-, -, -, hfree⟩ := hopHalted_spec (s := s) (n := n) (lane := lane) (rest := rest)
  exact if_pos (by rw [hfree]; simpa using h)

theorem hopStopped_kept (hl : f.landing = false) (h : allFree s n lane f.dst f.baton.buffers = false) :
    hopStopped s n lane f rest = hopHalted s n lane rest := by
  obtain ⟨-, -, -, hfree⟩ := hopHalted_spec (s := s) (n := n) (lane := lane) (rest := rest)
  exact if_neg (by rw [hfree, hl, h]; decide)

/-- The buffer of the failed baton becomes HELD_BAD and is counted, where the baton has it (02 R72). -/
theorem hopStopped_landed (h : f.landing = true ∨ allFree s n lane f.dst f.baton.buffers = true) :
    (lb (hopStopped s n lane f rest) n lane f.dst).state = .heldBad ∧
      (hopStopped s n lane f rest).coreCtr = landingCounted s n lane f.dst := by
  rw [hopStopped_taken h]
  refine ⟨?_, ?_⟩
  · rw [lb_of_sameRing (sameRing_countLanding ..), lb_updLb_same]
  · rw [countLanding_parts]
    rfl

theorem hopStopped_hop : hop (hopStopped s n lane f rest) n lane = rest.map (fun g => { g with stopped := true }) ∧
    (stn (hopStopped s n lane f rest) n).stopped.get false lane.code = true := by
  obtain ⟨hhop, hstop, hlbs, hfree⟩ := hopHalted_spec (s := s) (n := n) (lane := lane) (rest := rest)
  by_cases h : f.landing = true ∨ allFree s n lane f.dst f.baton.buffers = true
  · rw [hopStopped_taken h, hop_of_sameRing (sameRing_countLanding ..), hop_updLb, (sameRing_countLanding ..).stopped,
      updLb, stn_updStn_same]
    exact ⟨hhop, hstop⟩
  · obtain ⟨hl, ha⟩ := not_or.1 h
    rw [hopStopped_kept (by simpa using hl) (by simpa using ha)]
    exact ⟨hhop, hstop⟩

theorem logs_countLanding (u : State) (n : Nat) (lane : Lane) (b : Nat) :
    Logs u (countLanding u n lane b) ∧ (countLanding u n lane b).mem = u.mem := by
  rw [countLanding_parts]
  exact ⟨⟨rfl, rfl, List.prefix_rfl⟩, rfl⟩

theorem logs_updStn (u : State) (n : Nat) (f : Station → Station) : Logs u (updStn u n f) := ⟨rfl, rfl, List.prefix_rfl⟩

theorem hopStopped_frame : Logs s (hopStopped s n lane f rest) ∧ (hopStopped s n lane f rest).mem = s.mem := by
  have hh : Logs s (hopHalted s n lane rest) := (logs_updStn s n _).trans (logs_updStn _ n _)
  unfold hopStopped
  split
  · obtain ⟨hl, hm⟩ := logs_countLanding (updLb (hopHalted s n lane rest) n lane f.dst (fun y =>
      { y with state := .heldBad, baton := f.baton })) n lane f.dst
    exact ⟨(hh.trans (logs_updStn _ n _)).trans hl, hm⟩
  · exact ⟨hh, rfl⟩

end

/-! ### The main fabric (01 R34, R37) -/

section
variable {s : State} {w edge c r : Nat} {again : Bool} {got : List Byte} {crc : Nat} (hh : fabHop w edge c = true)
  (hs : s.fabStopped.get false (fabKey w edge c) = false)
include hh hs

omit hh hs in
theorem fabricRetransmit_good (hg : crc16 got = crc) : exec (.fabricRetransmit w edge c again got crc) s = .next s := by
  rw [exec_fabricRetransmit, execFabricRetransmit]
  exact if_pos (by simp [hg])

theorem fabricRetransmit_fails (hr : r = (if again then s.fabFails.get 0 (fabKey w edge c) else 0)) (hr8 : r < 8)
    (hg : crc16 got ≠ crc) : exec (.fabricRetransmit w edge c again got crc) s =
      .next (bump { s with fabFails := s.fabFails.set (fabKey w edge c) (r + 1) } (regKey w 0x48) 0 32 1) := by
  rw [exec_fabricRetransmit, execFabricRetransmit]
  rw [← hr]
  exact if_neg (by simp [hh, hs, hg]; omega)

/-- The state with a hop of the main fabric stopped, logged and told (01 R37). -/
def fabricStopped (s : State) (w edge c : Nat) : State :=
  raise (latch { s with
    fabStopped := s.fabStopped.set (fabKey w edge c) true
    fabFails := s.fabFails.set (fabKey w edge c) 0 } (regKey w 0x40) 0 0 [(11, 8, edge), (15, 12, c)]) 0x0109 w 0 none

/-- The test that a stopped hop of the main fabric asks for: its edge, or the cluster of its node (16 R530). -/
def fabricTest (s : State) (w edge c : Nat) : State :=
  if edge ≠ 15 then requestTest s 6 edge 0x0109 else if w < 8 then requestTest s 4 (12 * w + c) 0x0109 else s

theorem ringFabReplayFail_stops (hf : 8 ≤ s.fabFails.get 0 (fabKey w edge c)) : exec (.ringFabReplayFail w edge c) s =
    .next (wantStop (fabricTest (fabricStopped s w edge c) w edge c) 0x0109) := by
  rw [exec_ringFabReplayFail, execRingFabReplayFail]
  exact if_neg (by simp [hh, hs]; omega)

end

theorem fabricTest_frame (s : State) (w edge c : Nat) : Logs s (fabricTest s w edge c) ∧
    (fabricTest s w edge c).fabStopped = s.fabStopped ∧ (fabricTest s w edge c).jobState = s.jobState ∧
    (fabricTest s w edge c).stop = s.stop ∧ (fabricTest s w edge c).stns = s.stns ∧ (fabricTest s w edge c).mem = s.mem ∧
    (∀ key, key ≠ fltStatus → reg (fabricTest s w edge c) key = reg s key) := by
  have hreq (k i : Nat) : Logs s (requestTest s k i 0x0109) ∧ (requestTest s k i 0x0109).fabStopped = s.fabStopped ∧
      (requestTest s k i 0x0109).jobState = s.jobState ∧ (requestTest s k i 0x0109).stop = s.stop ∧
      (requestTest s k i 0x0109).stns = s.stns ∧ (requestTest s k i 0x0109).mem = s.mem ∧
      (∀ key, key ≠ fltStatus → reg (requestTest s k i 0x0109) key = reg s key) := by
    obtain ⟨hl, -, hj, hst, hstns, hmem⟩ := requestTest_frame s k i 0x0109
    exact ⟨hl, by rw [requestTest_parts], hj, hst, hstns, hmem, fun key h => reg_requestTest s k i 0x0109 h⟩
  unfold fabricTest
  split
  · exact hreq 6 edge
  · split
    · exact hreq 4 _
    · exact ⟨.refl s, rfl, rfl, rfl, rfl, rfl, fun _ _ => rfl⟩

theorem ringFabReplayFail_spec (s : State) (w edge c : Nat) :
    ∀ t, t = wantStop (fabricTest (fabricStopped s w edge c) w edge c) 0x0109 →
      t.fabStopped = s.fabStopped.set (fabKey w edge c) true ∧ evNow s 0x0109 w 0 none ∈ t.evs ∧
      (s.jobState = 3 → t.stepErr = true ∧ (s.stop.wanted = false → s.stop.stage = 0 →
        t.stop.wanted = true ∧ t.stop.event = 0x0109)) ∧
      bits (reg t (regKey w 0x40)) 0 0 = 1 ∧ t.stns = s.stns ∧ SameBytes s t := by
  obtain ⟨hl, hfab, hjob, hstop, hstns, hmem, hreg⟩ := fabricTest_frame (fabricStopped s w edge c) w edge c
  have hev : evNow s 0x0109 w 0 none ∈ (fabricTest (fabricStopped s w edge c) w edge c).evs :=
    hl.evs.subset (List.mem_append_right _ (List.mem_singleton.2 rfl))
  have hbit : bits (reg (fabricStopped s w edge c) (regKey w 0x40)) 0 0 = 1 := by
    change bits (reg (latch _ (regKey w 0x40) 0 0 [(11, 8, edge), (15, 12, c)]) (regKey w 0x40)) 0 0 = 1
    rw [latch, reg_setReg_same, bits_mod (by omega), bits_setBits_self (by omega)]
    rfl
  have hreg' := hreg (regKey w 0x40) (regKey_ne (by decide) (by decide) (by decide))
  generalize fabricTest (fabricStopped s w edge c) w edge c = u at hl hfab hjob hstop hstns hmem hev hreg' ⊢
  rintro t rfl
  refine ⟨?_, ?_, fun hj => ⟨?_, fun hw hs => ?_⟩, ?_, ?_, sameBytes_of_mem ?_⟩
  · rw [wantStop_parts]
    exact hfab
  · rw [wantStop_parts]
    exact hev
  · rw [wantStop, if_neg (not_not.2 (hjob.trans hj))]
  · obtain ⟨hwant, hcode, -⟩ := wantStop_wanted (hjob.trans hj) (by rw [hstop]; exact hw) (by rw [hstop]; exact hs) 0x0109
    exact ⟨hwant, hcode⟩
  · rw [wantStop_parts]
    exact (congrArg (bits · 0 0) hreg').trans hbit
  · rw [wantStop_parts]
    exact hstns
  · rw [wantStop_parts]
    exact hmem

theorem fabHop_iff (w edge c : Nat) : fabHop w edge c = true ↔ w < 10 ∧ ((edge = 15 ∧ c < 12 ∧ (w < 8 ∨ c = 0)) ∨
    (c = 0 ∧ ∃ p, edgeEnds[edge]? = some p ∧ (p.1 = w ∨ p.2 = w))) := by
  unfold fabHop edgeJoins
  by_cases he : edge = 15
  · subst he
    rw [if_pos rfl]
    have hnone : edgeEnds[15]? = none := rfl
    simp [hnone]
  · rw [if_neg he]
    cases hp : edgeEnds[edge]? with
    | none => simp [he]
    | some p => simp [he, and_comm]

/-- The routes between dies, checked one by one (01 R34). -/
def routeOk (a b : Nat) : Bool :=
  (hopsVia a (route a b)).all (fun h => decide (h.1 ≤ 13) && edgeJoins h.1 h.2) &&
    ((route a b).getLast? = some b) && (route a b).dropLast.all (fun x => x / 4 = a / 4)

theorem routeOk_all : ∀ a, a < 8 → ∀ b, b < 10 → a ≠ b → routeOk a b = true := by decide

/-- Settles O13: what a failed transfer counts and holds, what a stopped hop leaves, and the routes. -/
theorem retransmissionsAndStoppedHops : Obligations.RetransmissionsAndStoppedHops := by
  unfold Obligations.RetransmissionsAndStoppedHops
  refine ⟨fun s n lane i k r got crc f rest hh hk hk8 hi hw hr hs => ⟨transferRetransmit_good hh, fun hg hr8 =>
      ⟨_, transferRetransmit_fails hh hk hk8 hi hw hr hs hg hr8, retransmitted_spec _ rfl⟩⟩,
    fun s n lane f rest hh hf hd => ⟨_, ringReplayFail_stops hh hf, ?_⟩,
    fun s w edge c r again got crc hh hs hr hr8 => ⟨fabricRetransmit_good, fabricRetransmit_fails hh hs hr hr8⟩,
    fun s w edge c hh hf hs => ⟨_, ringFabReplayFail_stops hh hs hf, ringFabReplayFail_spec s w edge c _ rfl⟩,
    fabHop_iff, fun a b ha hb hab => ?_⟩
  · obtain ⟨hring, hctr, hmem, hev⟩ := ringReport_spec (hopStopped s n lane f rest) n lane _ rfl
    obtain ⟨hhop, hstop⟩ := hopStopped_hop (s := s) (n := n) (lane := lane) (f := f) (rest := rest)
    obtain ⟨hlogs, hmem'⟩ := hopStopped_frame (s := s) (n := n) (lane := lane) (f := f) (rest := rest)
    refine ⟨(hop_of_sameRing hring lane).trans hhop, by rw [hring.stopped]; exact hstop, by rw [hlogs.evNow_eq] at hev; exact hev, fun h => ?_,
      fun hl ha => ?_, sameBytes_of_mem (hmem.trans hmem')⟩
    · obtain ⟨hbad, hcount⟩ := hopStopped_landed (rest := rest) h
      exact ⟨by rw [lb_of_sameRing hring]; exact hbad, hctr.trans hcount⟩
    · rw [hring.lbs, hctr, hopStopped_kept hl ha]
      obtain ⟨-, -, hlbs, -⟩ := hopHalted_spec (s := s) (n := n) (lane := lane) (rest := rest)
      exact ⟨hlbs, rfl⟩
  · have h := routeOk_all a ha b hb hab
    simpa [routeOk, and_assoc] using h

end Sys2Proof.Machine
end

/-! ## A landing that a general core waits for (02 R65, R84; 08 R306) -/
section
set_option Elab.async false
namespace Sys2Proof.Machine
open Sys2Proof

/-! ### A baton that passes the landing checks -/

theorem leBytes_add_mul (n v c : Nat) : leBytes n (v + c * 256 ^ n) = leBytes n v := by
  induction n generalizing v with
  | zero => rfl
  | succ n ih =>
    have hdiv : (v + c * 256 ^ (n + 1)) / 256 = v / 256 + c * 256 ^ n := by
      rw [Nat.pow_succ, ← Nat.mul_assoc, Nat.add_mul_div_right _ _ (by decide)]
    have hbyte : BitVec.ofNat 8 (v + c * 256 ^ (n + 1)) = BitVec.ofNat 8 v := by
      apply BitVec.eq_of_toNat_eq
      rw [BitVec.toNat_ofNat, BitVec.toNat_ofNat, Nat.pow_succ, ← Nat.mul_assoc]
      exact Nat.add_mul_mod_self_right ..
    rw [leBytes, leBytes, hdiv, hbyte, ih]

theorem hdrWord_eq_add (h : Header) : hdrWord h = hdrWord { h with hdrCrc := 0 } + h.hdrCrc % 2 ^ 32 * 2 ^ 224 := by
  unfold hdrWord
  rw [Nat.zero_mod, Nat.zero_mul, Nat.add_zero]

theorem two_pow_224 : 2 ^ 224 = 256 ^ 28 := by decide

theorem leBytes_hdrWord (h : Header) : leBytes 28 (hdrWord h) = leBytes 28 (hdrWord { h with hdrCrc := 0 }) :=
  calc leBytes 28 (hdrWord h)
    _ = leBytes 28 (hdrWord { h with hdrCrc := 0 } + h.hdrCrc % 2 ^ 32 * 2 ^ 224) := congrArg _ (hdrWord_eq_add h)
    _ = leBytes 28 (hdrWord { h with hdrCrc := 0 } + h.hdrCrc % 2 ^ 32 * 256 ^ 28) :=
      congrArg (fun p => leBytes 28 (hdrWord { h with hdrCrc := 0 } + h.hdrCrc % 2 ^ 32 * p)) two_pow_224
    _ = leBytes 28 (hdrWord { h with hdrCrc := 0 }) := leBytes_add_mul ..

theorem crcDropped (h : Header) (c : Nat) :
    { ({ h with hdrCrc := c } : Header) with hdrCrc := 0 } = { h with hdrCrc := 0 } := rfl

theorem hdrSealed_unsealed (h : Header) : { hdrSealed h with hdrCrc := 0 } = { h with hdrCrc := 0 } :=
  crcDropped h (hdrCrcOf h)

/-- The header CRC does not cover itself (02 R52, R53). -/
theorem hdrCrcOf_hdrSealed (h : Header) : hdrCrcOf (hdrSealed h) = hdrCrcOf h :=
  congrArg crc32 <| calc leBytes 28 (hdrWord (hdrSealed h))
    _ = leBytes 28 (hdrWord { hdrSealed h with hdrCrc := 0 }) := leBytes_hdrWord _
    _ = leBytes 28 (hdrWord { h with hdrCrc := 0 }) := congrArg (fun g => leBytes 28 (hdrWord g)) (hdrSealed_unsealed h)
    _ = leBytes 28 (hdrWord h) := (leBytes_hdrWord h).symm

theorem batonByte_header (b : Baton) (h : Header) (i : Nat) : batonByte { b with hdr := h } i = batonByte b i := rfl

/-- The payload CRC covers the payload alone (02 R52, R53). -/
theorem batonCrc_header (b : Baton) (h : Header) : batonCrc { b with hdr := h } = batonCrc b := by
  rw [batonCrc, batonBytes, batonCrc, batonBytes, List.map_congr_left fun i _ => batonByte_header b h i]

/-- An empty E4M3 baton of job 0, as a station sends it. -/
def emptyBaton : Baton := { hdr := hdrSealed { fmt := 3, payloadCrc := batonCrc {} } }

theorem landingCheck_emptyBaton : landingCheck 0 emptyBaton = none := by
  have hcrc : hdrCrcOf emptyBaton.hdr = emptyBaton.hdr.hdrCrc := hdrCrcOf_hdrSealed _
  have hpay : batonCrc emptyBaton = emptyBaton.hdr.payloadCrc := batonCrc_header {} _
  unfold landingCheck
  rw [if_neg (not_not.2 hcrc), if_neg (by decide), if_neg (by decide), if_neg (not_not.2 hpay)]

/-! ### The state in which a general core waits on a landing counter -/

/-- The general core of cluster 0 waits for the first landing in buffer 0 of station 0's inner lane. -/
def landingWaited : State :=
  { stns := [(0, { lbs := [(0, { state := .landing, baton := emptyBaton })]
                   hops := [(0, [{ baton := emptyBaton, dst := 0, sender := 0, landing := true }])] })]
    clus := [(0, { gc := { state := .xhwait, waitCtr := some (.core 0 56), target := 1 } })] }

theorem landingWaited_buffer : lb landingWaited 0 .inner 0 = { state := .landing, baton := emptyBaton } := rfl

theorem landingWaited_hop :
    hop landingWaited 0 .inner = [{ baton := emptyBaton, dst := 0, sender := 0, landing := true }] := rfl

theorem exec_batonLanded (n : Nat) (lane : Lane) (b : Nat) (s : State) :
    exec (.batonLanded n lane b) s = execBatonLanded n lane b s := rfl

/-- A baton that passes the landing checks and nothing still lands it is HELD and counted. -/
theorem batonLanded_held {s : State} {n b : Nat} {lane : Lane} (hx : (lb s n lane b).state = .landing)
    (hd : (lb s n lane b).doneAt = none) (hc : landingCheck (jobNo s) (lb s n lane b).baton = none) :
    ∃ t, exec (.batonLanded n lane b) s = .next t ∧
      t.clus = (countLanding (updLb s n lane b (fun y => { y with state := .held })) n lane b).clus := by
  rw [exec_batonLanded, execBatonLanded]
  dsimp only
  rw [hd, if_pos (by rw [hx]; rfl), settle, hc]
  exact ⟨_, rfl, rfl⟩

/-- A landing releases the general cores that wait for it (08 R306). -/
theorem countLanding_clus (s : State) (n : Nat) (lane : Lane) (b : Nat) : (countLanding s n lane b).clus =
    s.clus.map (fun e => (e.1, { e.2 with
      gc := releaseGc (.core n (56 + lbKey lane b)) (ctrVal s (.core n (56 + lbKey lane b)) + 1) e.2.gc })) := rfl

theorem landingWaited_releases {t : State} (ht : exec (.batonLanded 0 .inner 0) landingWaited = .next t) :
    t.clus ≠ landingWaited.clus := by
  obtain ⟨u, hu, hclus⟩ := batonLanded_held (s := landingWaited) (n := 0) (lane := .inner) (b := 0)
    (by rw [landingWaited_buffer]) (by rw [landingWaited_buffer])
    (by rw [landingWaited_buffer]; exact landingCheck_emptyBaton)
  rw [ht] at hu
  cases hu
  rw [hclus, countLanding_clus]
  decide

/-- Refutes O12: a general core may wait for a landing (06 R257; 08 R306), and a landing that passes its checks then
releases it, so that more than stations and landing counters differ. -/
theorem not_batonsLand : ¬ Obligations.BatonsLand := by
  unfold Obligations.BatonsLand
  rintro ⟨hland, -⟩
  obtain ⟨-, -, hlanded⟩ := hland landingWaited 0 .inner
  obtain ⟨t, ht, -, -, -, hheld, -⟩ := hlanded 0 _ [] (by decide) (by rw [landingWaited_buffer])
    (by rw [landingWaited_buffer]; exact fun c hc => by cases hc) landingWaited_hop rfl rfl
    (fun g hg => absurd hg List.not_mem_nil)
  obtain ⟨-, hparts⟩ := hheld (by rw [landingWaited_buffer]; exact landingCheck_emptyBaton)
  exact landingWaited_releases ht (by rw [hparts])

end Sys2Proof.Machine
end

/-! ## The matrix arrays: setup, masks, and MACs that do not perform (03 R92 to R110, R123, R137) -/
section
set_option Elab.async false
namespace Sys2Proof.Machine
open Sys2Proof

theorem exec_mset (n a : Nat) (f : MsetF) (s : State) : exec (.mset n a f) s = execMset n a f s := rfl

theorem exec_mask (n a t rs : Nat) (s : State) : exec (.mask n a t rs) s = execMask n a t rs s := rfl

theorem exec_mac (n a : Nat) (m : MacF) (s : State) : exec (.mac n a m) s = execMac n a m s := rfl

/-! ### Accumulators of an array -/

section
variable (x : Arr) (i j : Nat)

@[simp] theorem accOf_updAcc_same (f : Acc → Acc) : accOf (updAcc x i f) i = f (accOf x i) := Table.get_upd_same ..

theorem accOf_updAcc_other (f : Acc → Acc) (h : j ≠ i) : accOf (updAcc x i f) j = accOf x j :=
  Table.get_upd_other _ _ _ _ _ h

/-- Accumulators changed one after the other: each as its own change says, the others as they were. -/
theorem accOf_foldl_updAcc (f : Nat → Acc → Acc) {l : List Nat} (hl : l.Nodup) :
    accOf (l.foldl (fun x i => updAcc x i (f i)) x) j = if j ∈ l then f j (accOf x j) else accOf x j := by
  induction l generalizing x with
  | nil => rfl
  | cons a l ih =>
    obtain ⟨ha, hl⟩ := List.nodup_cons.1 hl
    rw [List.foldl_cons, ih (updAcc x a (f a)) hl]
    by_cases hj : j = a
    · rw [hj, if_neg ha, if_pos (List.mem_cons_self ..), accOf_updAcc_same]
    · rw [accOf_updAcc_other _ _ _ _ hj]
      simp [hj]

theorem foldl_updAcc_parts (f : Nat → Acc → Acc) (l : List Nat) :
    ∃ t, l.foldl (fun x i => updAcc x i (f i)) x = { x with accs := t } := by
  induction l generalizing x with
  | nil => exact ⟨x.accs, rfl⟩
  | cons a l ih =>
    obtain ⟨t, ht⟩ := ih (updAcc x a (f a))
    exact ⟨t, by rw [List.foldl_cons, ht]; rfl⟩

theorem targets_nodup (f : MsetF) (m : MacF) : (targets f m).Nodup := by
  unfold targets
  split <;> simp

/-- How the K pointer moves (03 R110). -/
theorem pointerMoves_bumpK {g : ArrCfg} (c : Cls) {w x z : Arr} (hw : x.k = w.k ∧ x.sub = w.sub) (hg : x.cfg = some g)
    (hz : z.k = (bumpK x c g.f.pass).k ∧ z.sub = (bumpK x c g.f.pass).sub ∧ z.cfg = (bumpK x c g.f.pass).cfg) :
    PointerMoves g c w z := by
  obtain ⟨hk, hs, hc⟩ := hz
  unfold PointerMoves
  rw [hk, hs, hc, ← hw.1, ← hw.2]
  unfold bumpK
  refine ⟨fun h => ?_, fun h => ?_⟩
  · rw [if_pos h]
    exact ⟨rfl, rfl, hg⟩
  · rw [if_neg (by omega)]
    refine ⟨?_, fun h2 => ?_, fun h2 => ?_⟩
    · split <;> rfl
    · rw [if_pos h2]
      exact ⟨rfl, hg⟩
    · rw [if_neg (by omega)]
      exact ⟨rfl, by rw [hg]; rfl⟩

theorem bumpK_parts (c : Cls) (p : Pass) : (bumpK x c p).accs = x.accs ∧ (bumpK x c p).drains = x.drains := by
  unfold bumpK
  split
  · exact ⟨rfl, rfl⟩
  · split <;> exact ⟨rfl, rfl⟩

end

/-! ### What an issue cycle of a MAC costs (03 R117, R139) -/

section
variable (s : State) (n a : Nat) (m : MacF)

theorem arrCount_parts (off w k : Nat) : arrCount s n off w k = { s with regs := (arrCount s n off w k).regs } := by
  unfold arrCount
  split <;> rfl

theorem macCost_parts : macCost s n a m = { s with
    arrs := s.arrs.upd {} (2 * n + a) (fun x => { x with macAt := some (cycOf s n) })
    clus := s.clus.upd {} (cluOf n) (fun c => { c with tok := c.tok + macTokens s n a m })
    regs := (macCost s n a m).regs } := by
  unfold macCost
  rw [arrCount_parts]
  rfl

theorem arr_macCost : arr (macCost s n a m) n a = { arr s n a with macAt := some (cycOf s n) } :=
  (congrArg (fun u => Table.get {} u.arrs (2 * n + a)) (macCost_parts s n a m)).trans
    (Table.get_upd_same (d := {}) s.arrs (2 * n + a) (fun x => { x with macAt := some (cycOf s n) }))

theorem arr_macCost_other {b i : Nat} (h : 2 * b + i ≠ 2 * n + a) : arr (macCost s n a m) b i = arr s b i :=
  (congrArg (fun u => Table.get {} u.arrs (2 * b + i)) (macCost_parts s n a m)).trans
    (Table.get_upd_other (d := {}) s.arrs (2 * n + a) (2 * b + i) (fun x => { x with macAt := some (cycOf s n) }) h)

theorem stn_macCost (k : Nat) : stn (macCost s n a m) k = stn s k := by
  rw [stn, macCost_parts]
  rfl

theorem freeCtr_macCost : (macCost s n a m).freeCtr = s.freeCtr := by
  rw [macCost_parts]

theorem cycOf_macCost : cycOf (macCost s n a m) n = cycOf s n :=
  (congrArg (fun u => (Table.get {} u.clus (cluOf n)).cyc) (macCost_parts s n a m)).trans
    (congrArg Cluster.cyc (Table.get_upd_same (d := {}) s.clus (cluOf n)
      (fun c => { c with tok := c.tok + macTokens s n a m })))

end

theorem arr_index {n a b i : Nat} (ha : a < 2) (hi : i < 2) (h : (b, i) ≠ (n, a)) : 2 * b + i ≠ 2 * n + a := by
  rw [ne_eq, Prod.mk.injEq] at h
  omega

/-! ### MSET and MASK -/

section
variable {s : State} {n a : Nat} (h : acts s n = true) (ha : a < 2)
include h ha

/-- What the detector sees of the registers of an MSET (06 R252). -/
def msetSeen (s : State) (n : Nat) (f : MsetF) : State :=
  fsIf (seeX s n (feedRegs f)) (lowBits (seeX s n (feedRegs f)) n
    ((if f.srcCol = .pocket then [f.baseCol] else []) ++ (if f.srcRow = .pocket then [f.baseRow] else []))) n 6

omit h ha in
theorem onlyDetector_msetSeen (s : State) (n : Nat) (f : MsetF) : OnlyDetector s (msetSeen s n f) :=
  (OnlyDetector.seeX ..).trans (.fsIf ..)

omit h ha in
theorem OnlyDetector.baseOk_eq {s u : State} (hu : OnlyDetector s u) (n : Nat) (src : Feed) (fmt : Nat) (sc : Bool) (r : Nat)
    (cx : Bool) : baseOk u n src fmt sc r cx = baseOk s n src fmt sc r cx := by
  simp only [baseOk, hu.xreg_eq, hu.pocketOk_eq]

/-- An MSET of a format that no tile has (03 R151). -/
def msetBad (f : MsetF) : Bool :=
  (f.srcCol = .pocket && !tileOk f.fmtCol f.scaledCol) || (f.srcRow = .pocket && !tileOk f.fmtRow f.scaledRow)

omit h ha in
theorem msetBad_iff (f : MsetF) : msetBad f = true ↔ (f.srcCol = .pocket ∧ tileOk f.fmtCol f.scaledCol = false) ∨
    (f.srcRow = .pocket ∧ tileOk f.fmtRow f.scaledRow = false) := by
  simp [msetBad]

theorem mset_schedules {f : MsetF} (hok : msetBad f = false →
      baseOk s n f.srcCol f.fmtCol f.scaledCol f.baseCol (isComplex f.pass) = true ∧
        baseOk s n f.srcRow f.fmtRow f.scaledRow f.baseRow (isComplex f.pass) = true) :
    exec (.mset n a f) s = .next (schedule (msetSeen s n f) n 1 false (.mset n a
      { f := f
        colAddr := (xreg s n f.baseCol).toNat / 256 * 256
        rowAddr := (xreg s n f.baseRow).toNat / 256 * 256
        strideCol := (xreg s n f.strideCol).toNat
        strideRow := (xreg s n f.strideRow).toNat
        bad := msetBad f })) := by
  have hu := onlyDetector_msetSeen s n f
  rw [exec_mset, execMset, if_neg (by simp [h]; omega)]
  refine (if_neg ?_).trans ?_
  · change ¬ (!msetBad f && !(baseOk (msetSeen s n f) n f.srcCol f.fmtCol f.scaledCol f.baseCol (isComplex f.pass) &&
      baseOk (msetSeen s n f) n f.srcRow f.fmtRow f.scaledRow f.baseRow (isComplex f.pass))) = true
    rw [hu.baseOk_eq, hu.baseOk_eq]
    cases hb : msetBad f with
    | true => simp
    | false => simp [hok hb]
  · change Host.Outcome.next (schedule (msetSeen s n f) n 1 false (.mset n a
      { f := f
        colAddr := tileAddr (msetSeen s n f) n f.baseCol
        rowAddr := tileAddr (msetSeen s n f) n f.baseRow
        strideCol := (xreg (msetSeen s n f) n f.strideCol).toNat
        strideRow := (xreg (msetSeen s n f) n f.strideRow).toNat
        bad := msetBad f })) = _
    simp only [tileAddr, hu.xreg_eq]

theorem mset_reserved {f : MsetF} (hb : msetBad f = false)
    (hno : baseOk s n f.srcCol f.fmtCol f.scaledCol f.baseCol (isComplex f.pass) = false ∨
        baseOk s n f.srcRow f.fmtRow f.scaledRow f.baseRow (isComplex f.pass) = false) :
    exec (.mset n a f) s = .next (badAddr (msetSeen s n f) n) := by
  have hu := onlyDetector_msetSeen s n f
  rw [exec_mset, execMset, if_neg (by simp [h]; omega)]
  refine if_pos ?_
  change (!msetBad f && !(baseOk (msetSeen s n f) n f.srcCol f.fmtCol f.scaledCol f.baseCol (isComplex f.pass) &&
    baseOk (msetSeen s n f) n f.srcRow f.fmtRow f.scaledRow f.baseRow (isComplex f.pass))) = true
  rw [hu.baseOk_eq, hu.baseOk_eq, hb]
  rcases hno with hno | hno <;> simp [hno]

theorem mask_schedules {target : Nat} (rs : Nat) (ht : target ≤ 2) : ∃ t, exec (.mask n a target rs) s = .next t ∧
    Schedules n (some (2, .mask n a target (xreg s n rs))) s t := by
  rw [exec_mask, execMask, if_neg (by simp [h]; omega)]
  exact ⟨_, rfl, schedules_schedule (.seeX s n [rs]) 2 _⟩

end

/-! ### What a MAC refuses (03 R98, R109, R110, R137) -/

theorem bitOf_reg_latch (s : State) (k top : Nat) {b : Nat} (l : List (Nat × Nat × Nat)) (hb : b < 64) :
    bitOf (reg (latch s k top b l) k) b = true := by
  rw [latch, reg_setReg_same, bitOf_mod_two_pow, bitOf_setBits_one]
  simp [hb]

theorem arrErr_regs (s : State) (n a bit acc loc : Nat) :
    arrErr s n a bit acc loc = { s with regs := (arrErr s n a bit acc loc).regs } := by
  by_cases h : bits (reg s (regKey (dieOf n) 0x100)) 7 0 = 0
  · rw [arrErr, if_pos h]
    rfl
  · rw [arrErr, if_neg h]
    rfl

theorem stn_errHalt_same (s : State) (n ev : Nat) : stn (errHalt s n ev) n = haltAtHurdle (stn s n) := by
  rw [errHalt, wantStop_parts]
  exact stn_updStn_same ..

/-- What a refusal leaves: its event, its bit of ARR_ERR_STATUS, and a station that halts at its next hurdle. -/
theorem refusal_leaves (u : State) (n a acc : Nat) {bit : Nat} (code : Nat) (hbit : bit < 64) {t : State}
    (ht : t = errHalt (raise (arrErr u n a bit acc 0) code (dieOf n) (n % 96) none) n code) :
    ({ code := code, die := dieOf n, unit := n % 96, time := u.timeNs, isSealed := sealedJob u } : Ev) ∈ t.evs ∧
      bitOf (reg t (regKey (dieOf n) 0x100)) bit = true ∧ stn t n = haltAtHurdle (stn u n) := by
  subst ht
  refine ⟨?_, ?_, ?_⟩
  · rw [errHalt_parts, arrErr_regs]
    exact List.mem_append_right _ (List.mem_singleton_self _)
  · rw [errHalt_parts]
    exact bitOf_reg_latch _ _ _ _ hbit
  · rw [stn_errHalt_same, arrErr_regs]
    rfl

section
variable {s : State} {n a : Nat} {m : MacF} (h : acts s n = true) (ha : a < 2)
include h ha

theorem mac_unset (hg : (arr s n a).cfg = none ∨ ∃ g, (arr s n a).cfg = some g ∧ g.bad = true) :
    exec (.mac n a m) s = .next (badSetup (macCost s n a m) n a m.acc) := by
  rw [exec_mac, execMac, if_neg (by simp [h]; omega)]
  dsimp only
  rw [← macCost, arr_macCost]
  obtain hg | ⟨g, hg, hb⟩ := hg
  · simp only [hg]
  · simp only [hg, hb, if_true]

variable {g : ArrCfg} (hg : (arr s n a).cfg = some g) (hb : g.bad = false)
include hg hb

theorem mac_meets_drain {i : Nat} (hi : i ∈ targets g.f m) (hd : drainingAcc (arr s n a) i (cycOf s n) = true) :
    exec (.mac n a m) s = .next (accConflict (macCost s n a m) n a m.acc) := by
  rw [exec_mac, execMac, if_neg (by simp [h]; omega)]
  dsimp only
  rw [← macCost, arr_macCost, cycOf_macCost]
  simp only [hg, hb, Bool.false_eq_true, if_false]
  exact if_pos (List.any_eq_true.2 ⟨i, hi, hd⟩)

variable (hd : ∀ i ∈ targets g.f m, drainingAcc (arr s n a) i (cycOf s n) = false)
include hd

theorem mac_moves_buffers (hk : (arr s n a).k ≠ 0 ∨ (arr s n a).sub ≠ 0)
    (hmv : g.f.srcCol ≠ .pocket ∧ m.bufCol ≠ (arr s n a).lastCol ∨
      g.f.srcRow ≠ .pocket ∧ m.bufRow ≠ (arr s n a).lastRow) :
    exec (.mac n a m) s = .next (badSetup (macCost s n a m) n a m.acc) := by
  rw [exec_mac, execMac, if_neg (by simp [h]; omega)]
  dsimp only
  rw [← macCost, arr_macCost, cycOf_macCost]
  simp only [hg, hb, Bool.false_eq_true, if_false]
  refine (if_neg ?_).trans (if_pos ?_)
  · rw [Bool.not_eq_true, List.any_eq_false]
    exact fun i hi => Bool.not_eq_true _ ▸ hd i hi
  · simpa using ⟨hk, hmv⟩

theorem mac_names_free (hk : (arr s n a).k = 0 ∧ (arr s n a).sub = 0 ∨
        (g.f.srcCol = .pocket ∨ m.bufCol = (arr s n a).lastCol) ∧ (g.f.srcRow = .pocket ∨ m.bufRow = (arr s n a).lastRow))
    (hf : ∃ l, g.f.srcCol = (if l = Lane.inner then Feed.inner else .outer) ∧ lbState (stn s n) l m.bufCol = .free ∨
      g.f.srcRow = (if l = Lane.inner then Feed.inner else .outer) ∧ lbState (stn s n) l m.bufRow = .free) :
    exec (.mac n a m) s = .next (macFree (macCost s n a m) n a m g) := by
  rw [exec_mac, execMac, if_neg (by simp [h]; omega)]
  dsimp only
  rw [← macCost, arr_macCost, cycOf_macCost, stn_macCost]
  simp only [hg, hb, Bool.false_eq_true, if_false]
  refine (if_neg ?_).trans ((if_neg ?_).trans (if_pos ?_))
  · rw [Bool.not_eq_true, List.any_eq_false]
    exact fun i hi => Bool.not_eq_true _ ▸ hd i hi
  · rcases hk with ⟨h1, h2⟩ | ⟨h1, h2⟩
    · simp [h1, h2]
    · rcases h1 with h1 | h1 <;> rcases h2 with h2 | h2 <;> simp [h1, h2]
  · obtain ⟨l, ⟨hs, hl⟩ | ⟨hs, hl⟩⟩ := hf <;> cases l <;> simp_all

end

/-! ### A MAC that names a FREE buffer (06 R241; log 12) -/

/-- The accumulators as free values, numbered from `k`. -/
def freedAccs (k cyc : Nat) (ts : List Nat) (x : Arr) : Arr :=
  ts.foldl (fun x i => updAcc x i (fun y => { y with cells := [], free := some (k + i), lastMac := some cyc })) x

/-- The accumulators as the MAC's clear bit leaves them. -/
def clearedAccs (m : MacF) (ts : List Nat) (x : Arr) : Arr := if m.clear then clearAccs x ts else x

theorem freeAccs_eq (s : State) (n a : Nat) (ts : List Nat) :
    freeAccs s n a ts = updArr { s with freeCtr := s.freeCtr + 2 } n a (freedAccs s.freeCtr (cycOf s n) ts) := rfl

section
variable (k cyc : Nat) (m : MacF) {ts : List Nat} (hts : ts.Nodup) (x : Arr)
include hts

theorem accOf_freedAccs (i : Nat) : accOf (freedAccs k cyc ts x) i =
    if i ∈ ts then { accOf x i with cells := [], free := some (k + i), lastMac := some cyc } else accOf x i :=
  accOf_foldl_updAcc x i _ hts

theorem accOf_clearedAccs (i : Nat) :
    accOf (clearedAccs m ts x) i = if i ∈ ts then (if m.clear then {} else accOf x i) else accOf x i := by
  unfold clearedAccs clearAccs
  cases m.clear with
  | false => simp
  | true => exact accOf_foldl_updAcc x i (fun _ _ => {}) hts

omit hts in
theorem freedAccs_parts : ∃ t, freedAccs k cyc ts (clearedAccs m ts x) = { x with accs := t } := by
  obtain ⟨t, ht⟩ := foldl_updAcc_parts (clearedAccs m ts x)
    (fun i y => { y with cells := [], free := some (k + i), lastMac := some cyc }) ts
  refine ⟨t, ht.trans ?_⟩
  unfold clearedAccs clearAccs
  split
  · obtain ⟨t', ht'⟩ := foldl_updAcc_parts x (fun _ _ => {}) ts
    rw [ht']
  · rfl

end

theorem arr_fsFail (s : State) (n b k i : Nat) : arr (fsFail s n b) k i = arr s k i := by
  rw [fsFail, fsFailAt_regs]
  rfl

theorem cycOf_fsFail (s : State) (n b : Nat) : cycOf (fsFail s n b) n = cycOf s n := by
  rw [fsFail, fsFailAt_regs]
  rfl

/-- The array's accumulators cleared, as the MAC's clear bit says. -/
def clearedArr (s : State) (n a : Nat) (m : MacF) (ts : List Nat) : State :=
  if m.clear then updArr s n a (fun x => clearAccs x ts) else s

theorem clearedArr_spec (s : State) (n a : Nat) (m : MacF) (ts : List Nat) :
    clearedArr s n a m ts = { s with arrs := (clearedArr s n a m ts).arrs } ∧
    arr (clearedArr s n a m ts) n a = clearedAccs m ts (arr s n a) ∧
    ∀ b i, 2 * b + i ≠ 2 * n + a → arr (clearedArr s n a m ts) b i = arr s b i := by
  unfold clearedArr clearedAccs
  split
  · exact ⟨rfl, arr_updArr_same .., fun b i h => arr_updArr_other _ _ _ _ _ _ h⟩
  · exact ⟨rfl, rfl, fun _ _ _ => rfl⟩

theorem macFree_eq (s : State) (n a : Nat) (m : MacF) (g : ArrCfg) : ∃ c : Cls, macFree s n a m g =
    updArr (draw (freeAccs (clearedArr (fsFail s n 0) n a m (targets g.f m)) n a (targets g.f m))).1 n a
      (fun x => { bumpK x c g.f.pass with lastCol := m.bufCol, lastRow := m.bufRow, lastAcc := m.acc }) := ⟨_, rfl⟩

/-- The array of a MAC that names a FREE buffer, and all else that it changes. -/
theorem macFree_spec (s : State) (n a : Nat) (m : MacF) (g : ArrCfg) : ∃ c : Cls,
    macFree s n a m g = { s with
      arrs := (macFree s n a m g).arrs
      regs := (macFree s n a m g).regs
      freeCtr := (macFree s n a m g).freeCtr } ∧
    arr (macFree s n a m g) n a = { bumpK (freedAccs s.freeCtr (cycOf s n) (targets g.f m)
        (clearedAccs m (targets g.f m) (arr s n a))) c g.f.pass with
      lastCol := m.bufCol
      lastRow := m.bufRow
      lastAcc := m.acc } ∧
    ∀ b i, 2 * b + i ≠ 2 * n + a → arr (macFree s n a m g) b i = arr s b i := by
  obtain ⟨c, hm⟩ := macFree_eq s n a m g
  obtain ⟨hp, ha, ho⟩ := clearedArr_spec (fsFail s n 0) n a m (targets g.f m)
  rw [arr_fsFail] at ha
  simp only [arr_fsFail] at ho
  have hf : fsFail s n 0 = { s with regs := (fsFail s n 0).regs } := fsFailAt_regs ..
  replace hp := hp.trans (congrArg
    (fun u : State => { u with arrs := (clearedArr (fsFail s n 0) n a m (targets g.f m)).arrs }) hf)
  have hctr : (clearedArr (fsFail s n 0) n a m (targets g.f m)).freeCtr = s.freeCtr := by rw [hp]
  have hcyc : cycOf (clearedArr (fsFail s n 0) n a m (targets g.f m)) n = cycOf s n := by
    rw [hp]
    rfl
  generalize clearedArr (fsFail s n 0) n a m (targets g.f m) = v at *
  refine ⟨c, ?_, ?_, fun b i h => ?_⟩
  · rw [hm, hp]
    rfl
  · rw [hm, arr_updArr_same]
    refine congrArg (fun x => { bumpK x c g.f.pass with lastCol := m.bufCol, lastRow := m.bufRow, lastAcc := m.acc }) ?_
    refine (arr_updArr_same { v with freeCtr := v.freeCtr + 2 } n a (freedAccs v.freeCtr (cycOf v n) (targets g.f m))).trans ?_
    rw [hctr, hcyc, ← ha]
    rfl
  · rw [hm, arr_updArr_other _ _ _ _ _ _ h]
    exact (arr_updArr_other { v with freeCtr := v.freeCtr + 2 } n a b i
      (freedAccs v.freeCtr (cycOf v n) (targets g.f m)) h).trans (ho b i h)

/-- The result of a MAC that names a FREE buffer, its cost included. -/
theorem macFree_cost {s : State} {n a : Nat} {m : MacF} {g : ArrCfg} (ha : a < 2) (hg : (arr s n a).cfg = some g) :
    ∃ (t : State) (c : Cls), macFree (macCost s n a m) n a m g = t ∧
      t = { s with arrs := t.arrs, clus := t.clus, regs := t.regs, freeCtr := t.freeCtr } ∧
      (∀ b i, (b, i) ≠ (n, a) → i < 2 → arr t b i = arr s b i) ∧
      (∀ i ∈ targets g.f m, accOf (arr t n a) i = { (if m.clear then {} else accOf (arr s n a) i) with
        cells := [], free := some (s.freeCtr + i), lastMac := some (cycOf s n) }) ∧
      (∀ i, i ∉ targets g.f m → accOf (arr t n a) i = accOf (arr s n a) i) ∧
      PointerMoves g c (arr s n a) (arr t n a) ∧ (arr t n a).drains = (arr s n a).drains := by
  obtain ⟨c, hp, harr, hoth⟩ := macFree_spec (macCost s n a m) n a m g
  rw [freeCtr_macCost, cycOf_macCost, arr_macCost] at harr
  have hts := targets_nodup g.f m
  have hacc (i : Nat) : accOf (arr (macFree (macCost s n a m) n a m g) n a) i =
      accOf (freedAccs s.freeCtr (cycOf s n) (targets g.f m) (clearedAccs m (targets g.f m)
        { arr s n a with macAt := some (cycOf s n) })) i := by
    rw [harr]
    exact congrArg (fun t => Table.get {} t i) (bumpK_parts _ c g.f.pass).1
  obtain ⟨t, ht⟩ := freedAccs_parts s.freeCtr (cycOf s n) m (ts := targets g.f m)
    { arr s n a with macAt := some (cycOf s n) }
  refine ⟨_, c, rfl, ?_, fun b i hb hi => ?_, fun i hi => ?_, fun i hi => ?_, ?_, ?_⟩
  · have hclus : (macFree (macCost s n a m) n a m g).clus =
        s.clus.upd {} (cluOf n) (fun c => { c with tok := c.tok + macTokens s n a m }) := by
      rw [hp, macCost_parts]
    refine (hp.trans (congrArg (fun u : State => { u with
      arrs := (macFree (macCost s n a m) n a m g).arrs
      regs := (macFree (macCost s n a m) n a m g).regs
      freeCtr := (macFree (macCost s n a m) n a m g).freeCtr }) (macCost_parts s n a m))).trans ?_
    exact congrArg (fun t : Table Cluster => { s with
      arrs := (macFree (macCost s n a m) n a m g).arrs
      clus := t
      regs := (macFree (macCost s n a m) n a m g).regs
      freeCtr := (macFree (macCost s n a m) n a m g).freeCtr }) hclus.symm
  · have := arr_index ha hi hb
    rw [hoth b i this, arr_macCost_other _ _ _ _ this]
  · rw [hacc, accOf_freedAccs _ _ hts, if_pos hi, accOf_clearedAccs _ hts, if_pos hi]
    rfl
  · rw [hacc, accOf_freedAccs _ _ hts, if_neg hi, accOf_clearedAccs _ hts, if_neg hi]
    rfl
  · rw [harr, ht]
    exact pointerMoves_bumpK (x := { arr s n a with accs := t, macAt := some (cycOf s n) }) c ⟨rfl, rfl⟩ hg ⟨rfl, rfl, rfl⟩
  · rw [harr, ht]
    exact (bumpK_parts _ c g.f.pass).2

theorem sat32_spec (x : Int) : (sat32 x).1.toInt = max (-(2 ^ 31)) (min (2 ^ 31 - 1) x) ∧
    ((sat32 x).2 = true ↔ x < -(2 ^ 31) ∨ 2 ^ 31 - 1 < x) := by
  unfold sat32
  split
  · refine ⟨?_, by simp; omega⟩
    rw [show (BitVec.ofInt 32 (2 ^ 31 - 1)).toInt = 2 ^ 31 - 1 from by decide]
    omega
  · split
    · refine ⟨?_, by simp; omega⟩
      rw [show (BitVec.ofInt 32 (-(2 ^ 31))).toInt = -(2 ^ 31) from by decide]
      omega
    · refine ⟨?_, by simp; omega⟩
      rw [BitVec.toInt_ofInt, Int.bmod_eq_of_le (by omega) (by omega)]
      omega

/-- Settles O14: what an MSET and a MASK schedule, and each MAC that does not perform, by what refuses it. -/
theorem setupMasksAndRefusals : Obligations.SetupMasksAndRefusals := by
  unfold Obligations.SetupMasksAndRefusals
  refine ⟨fun s n a h ha => ⟨fun f bad hbad hok => ?_, fun f hc hr hno => ?_,
    fun target rs ht => mask_schedules h ha rs ht, fun cfg => arr_updArr_same .., fun v =>
      ⟨arr_updArr_same .., arr_updArr_same .., arr_updArr_same ..⟩⟩,
    fun s n a m h ha => ⟨mac_unset h ha, fun g i hg hb hi hd => mac_meets_drain h ha hg hb hi hd, fun g hg hb hd =>
      ⟨fun hk hmv => mac_moves_buffers h ha hg hb hd hk hmv, fun hk hf => ?_⟩, fun u code acc hcode _ => ?_, sat32_spec⟩⟩
  · obtain rfl : bad = msetBad f := Bool.eq_iff_iff.2 (hbad.trans (msetBad_iff f).symm)
    exact ⟨_, onlyDetector_msetSeen s n f, mset_schedules h ha hok⟩
  · have hb : msetBad f = false := by
      rw [← Bool.not_eq_true, msetBad_iff]
      rintro (⟨h1, h2⟩ | ⟨h1, h2⟩)
      · simp [hc h1] at h2
      · simp [hr h1] at h2
    exact ⟨_, mset_reserved h ha hb hno, badAccess_badAddr (onlyDetector_msetSeen s n f)⟩
  · obtain ⟨t, c, ht, hrest⟩ := macFree_cost (m := m) ha hg
    exact ⟨t, c, (mac_names_free h ha hg hb hd hk hf).trans (congrArg _ ht), hrest⟩
  · obtain rfl | rfl := hcode
    · exact refusal_leaves u n a acc 0x0205 (by omega) rfl
    · exact refusal_leaves u n a acc 0x0206 (by omega) rfl

end Sys2Proof.Machine
end

/-! ## MACs that perform (03 R92 to R101, R105, R110) -/
section
set_option Elab.async false
namespace Sys2Proof.Machine
open Sys2Proof

/-! ### What a MAC reads of its operands' buffers -/

section
variable {s u : State} (hu : u.stns = s.stns) (n : Nat)
include hu

theorem stn_of_stns (k : Nat) : stn u k = stn s k := by rw [stn, stn, hu]

theorem lb_of_stns (k : Nat) (l : Lane) (b : Nat) : lb u k l b = lb s k l b := by
  rw [lb, lb, stn_of_stns hu]

theorem feedFmt_of_stns (src : Feed) (buf fmt : Nat) (sc : Bool) : feedFmt u n src buf fmt sc = feedFmt s n src buf fmt sc := by
  simp only [feedFmt, stn_of_stns hu, lb_of_stns hu]

theorem imagOk_of_stns (p : Pass) (src : Feed) (buf : Nat) (f : Fmt) : imagOk u n p src buf f = imagOk s n p src buf f := by
  simp only [imagOk, stn_of_stns hu, lb_of_stns hu]

theorem macCls_of_stns (g : ArrCfg) (m : MacF) : macCls u n g m = macCls s n g m := by
  simp only [macCls, feedFmt_of_stns hu, imagOk_of_stns hu]

end

theorem stns_macCost (s : State) (n a : Nat) (m : MacF) : (macCost s n a m).stns = s.stns := by
  rw [macCost_parts]

theorem lbState_of_feedFmt {s : State} {n : Nat} {l : Lane} {buf fmt : Nat} {sc : Bool} {r : Fmt × Bool}
    (h : feedFmt s n (if l = .inner then .inner else .outer) buf fmt sc = some r) : lbState (stn s n) l buf ≠ .free := by
  intro hf
  cases l <;> simp [feedFmt, hf] at h

section
variable {s : State} {n a : Nat} {m : MacF} {g : ArrCfg} {c : Cls} {fc fr : Fmt × Bool}

theorem macCls_of_formats (hc : feedFmt s n g.f.srcCol m.bufCol g.f.fmtCol g.f.scaledCol = some fc)
    (hr : feedFmt s n g.f.srcRow m.bufRow g.f.fmtRow g.f.scaledRow = some fr)
    (hp : productCls g.f.pass fc.1 fc.2 fr.1 fr.2 = some c)
    (hic : imagOk s n g.f.pass g.f.srcCol m.bufCol fc.1 = true) (hir : imagOk s n g.f.pass g.f.srcRow m.bufRow fr.1 = true) :
    macCls s n g m = some c := by
  simp [macCls, hc, hr, hp, hic, hir]

theorem mac_runs (h : acts s n = true) (ha : a < 2) (hg : (arr s n a).cfg = some g) (hb : g.bad = false)
    (hd : ∀ i ∈ targets g.f m, drainingAcc (arr s n a) i (cycOf s n) = false)
    (hc : feedFmt s n g.f.srcCol m.bufCol g.f.fmtCol g.f.scaledCol = some fc)
    (hr : feedFmt s n g.f.srcRow m.bufRow g.f.fmtRow g.f.scaledRow = some fr) (hcls : macCls s n g m = some c)
    (hk : (arr s n a).k ≠ 0 ∨ (arr s n a).sub ≠ 0 → (g.f.srcCol = .pocket ∨ m.bufCol = (arr s n a).lastCol) ∧
      (g.f.srcRow = .pocket ∨ m.bufRow = (arr s n a).lastRow) ∧
      (c = .sixteen → (arr s n a).sub % 2 = 1 → isComplex g.f.pass = false → m.acc = (arr s n a).lastAcc)) :
    exec (.mac n a m) s = .next (macRun (macCost s n a m) n a m g c fc fr) := by
  have hs := stns_macCost s n a m
  rw [exec_mac, execMac, if_neg (by simp [h]; omega)]
  dsimp only
  rw [← macCost, arr_macCost, cycOf_macCost, stn_macCost]
  simp only [hg, hb, Bool.false_eq_true, if_false]
  refine (if_neg ?_).trans ((if_neg ?_).trans ((if_neg ?_).trans ?_))
  · rw [Bool.not_eq_true, List.any_eq_false]
    exact fun i hi => Bool.not_eq_true _ ▸ hd i hi
  · intro hmid
    simp only [Bool.and_eq_true, Bool.or_eq_true, decide_eq_true_eq, ne_eq] at hmid
    obtain ⟨h1, h2, -⟩ := hk hmid.1
    rcases hmid.2 with h3 | h3
    · exact h1.elim h3.1 h3.2
    · exact h2.elim h3.1 h3.2
  · simp only [List.any_cons, List.any_nil, Bool.or_false, Bool.or_eq_true, not_or]
    constructor
    · cases hsrc : g.f.srcCol with
      | inner => simpa using lbState_of_feedFmt (l := .inner) (hsrc ▸ hc)
      | outer => simpa using lbState_of_feedFmt (l := .outer) (hsrc ▸ hc)
      | pocket => simp
    · cases hsrc : g.f.srcRow with
      | inner => simpa using lbState_of_feedFmt (l := .inner) (hsrc ▸ hr)
      | outer => simpa using lbState_of_feedFmt (l := .outer) (hsrc ▸ hr)
      | pocket => simp
  · rw [feedFmt_of_stns hs, feedFmt_of_stns hs, macCls_of_stns hs, hc, hr, hcls]
    refine if_neg ?_
    intro hmid
    simp only [Bool.and_eq_true, Bool.or_eq_true, decide_eq_true_eq, ne_eq, Bool.not_eq_true'] at hmid
    obtain ⟨-, -, h3⟩ := hk hmid.1
    obtain ⟨⟨⟨hc1, hc2⟩, hc3⟩, hc4⟩ := hmid.2
    exact hc4 (h3 hc1 hc2 hc3)

end

/-! ### What the products leave (03 R92, R95, R105, R110) -/

theorem passes_targets (f : MsetF) (m : MacF) {e : Nat × Nat × List (Nat × Bool)} (he : e ∈ passes f.pass m.acc)
    {x : Nat × Bool} (hx : x ∈ e.2.2) : x.1 ∈ targets f m := by
  unfold targets
  cases hp : f.pass <;> simp only [hp, passes, List.mem_cons, List.not_mem_nil, or_false] at he <;>
    simp only [isComplex, if_true, Bool.false_eq_true, if_false, List.mem_cons, List.not_mem_nil, or_false]
  case single => simp_all
  case pair => rcases he with rfl | rfl | rfl <;> simp_all
  case split3 => rcases he with rfl | rfl | rfl | rfl | rfl | rfl <;> simp_all
  case cplx3 => rcases he with rfl | rfl | rfl <;> simp at hx <;> aesop
  case cplx4 => rcases he with rfl | rfl | rfl | rfl <;> simp at hx <;> aesop

/-- Accumulators changed along a list that names neither accumulator `i` nor anything else of the array. -/
theorem foldl_updAcc_frame (x : Arr) (f : Nat × Bool → Acc → Acc) (l : List (Nat × Bool)) :
    (∃ t, l.foldl (fun x e => updAcc x e.1 (f e)) x = { x with accs := t }) ∧
      ∀ i, (∀ e ∈ l, e.1 ≠ i) → accOf (l.foldl (fun x e => updAcc x e.1 (f e)) x) i = accOf x i := by
  induction l generalizing x with
  | nil => exact ⟨⟨x.accs, rfl⟩, fun _ _ => rfl⟩
  | cons e l ih =>
    obtain ⟨⟨t, ht⟩, ho⟩ := ih (updAcc x e.1 (f e))
    refine ⟨⟨t, by rw [List.foldl_cons, ht]; rfl⟩, fun i hi => ?_⟩
    rw [List.foldl_cons, ho i fun e' he' => hi e' (List.mem_cons_of_mem _ he'),
      accOf_updAcc_other _ _ _ _ (hi e (List.mem_cons_self ..)).symm]

/-- The products of a MAC go to its targets' cells, and nowhere else. -/
theorem macProducts_parts (x : Arr) (f : MsetF) (m : MacF) (c : Cls) (int : Bool) (o q : Opnd) (cyc : Nat) :
    (∃ t, (macProducts x f m c int o q cyc).1 = { x with accs := t }) ∧
      ∀ i, i ∉ targets f m → accOf (macProducts x f m c int o q cyc).1 i = accOf x i := by
  unfold macProducts
  extract_lets ph
  split
  · exact ⟨⟨x.accs, rfl⟩, fun _ _ => rfl⟩
  · split
    · exact ⟨⟨x.accs, rfl⟩, fun _ _ => rfl⟩
    · rename_i pc pr ts hts
      obtain ⟨hp, ho⟩ := foldl_updAcc_frame x _ ts
      exact ⟨hp, fun i hi => ho i fun e he hei => hi (hei ▸ passes_targets f m (List.mem_of_getElem? hts) he)⟩

/-- The array after the products, its pointer moved and its last operands kept. -/
def movedOn (g : ArrCfg) (m : MacF) (c : Cls) (y : Arr) : Arr :=
  { bumpK y c g.f.pass with lastCol := m.bufCol, lastRow := m.bufRow, lastAcc := m.acc }

/-- The accumulators' last MAC. -/
def lastMacAt (ts : List Nat) (cyc : Nat) (x : Arr) : Arr :=
  ts.foldl (fun x i => updAcc x i (fun y => { y with lastMac := some cyc })) x

/-- The state that products leave: their array, and the zeros and saturated cells counted (03 R95, R119, R139). -/
def productsLand (u : State) (n a : Nat) (m : MacF) (g : ArrCfg) (c : Cls) (r : Arr × Nat × Nat) : State :=
  raiseTimes (arrCount (arrCount (updArr (updArr u n a (fun _ => movedOn g m c r.1)) n a
    (lastMacAt (targets g.f m) (cycOf u n))) n 0x128 64 r.2.1) n 0x118 32 r.2.2) r.2.2 0x0207 (dieOf n) (n % 96)

theorem productsLand_parts (u : State) (n a : Nat) (m : MacF) (g : ArrCfg) (c : Cls) (r : Arr × Nat × Nat) :
    productsLand u n a m g c r = { u with
      arrs := (productsLand u n a m g c r).arrs
      regs := (productsLand u n a m g c r).regs
      evs := u.evs ++ List.replicate r.2.2 (evNow u 0x0207 (dieOf n) (n % 96) none)
      evTotal := (productsLand u n a m g c r).evTotal } := by
  unfold productsLand
  rw [arrCount_parts, arrCount_parts]
  rfl

/-- The test of the array's wires that ends a MAC: products over a bad wire are not kept (03 R103). -/
def wiresTested (s : State) (n a : Nat) (ts : List Nat) (acc : Nat) : State :=
  if s.wireFault.get false (arrLoc s n a) then
    errHalt (requestTest (raise (arrErr (markAccs (freeAccs s n a ts) n a ts) n a 2 acc 0) 0x0203 (dieOf n) (n % 96) none)
      1 (2 * n + a) 0x0203) n 0x0203
  else s

/-- A MAC that reads a bad baton halts its station at its next hurdle (02 R58). -/
def badRead (s : State) (n : Nat) (bufs : List (Lane × Nat)) : State :=
  if bufs.any (fun e => (lb s n e.1 e.2).state = .heldBad) then errHalt s n 0 else s

section
variable {s v w : State} {n a : Nat} {m : MacF} {g : ArrCfg} {c : Cls} {fc fr : Fmt × Bool} {o q : Opnd}

theorem macRun_eq (h1 : feed s n g.f.pass g.f.srcCol m.bufCol fc.1 fc.2 g.f.transCol g.colAddr true
      ((List.range (kWidth c)).map ((arr s n a).k + ·)) = (v, .ok o))
    (h2 : feed v n g.f.pass g.f.srcRow m.bufRow fr.1 fr.2 g.f.transRow g.rowAddr false
      ((List.range (kWidth c)).map ((arr s n a).k + ·)) = (w, .ok q)) :
    macRun s n a m g c fc fr = wiresTested (badRead (productsLand (clearedArr w n a m (targets g.f m)) n a m g c
      (macProducts (arr (clearedArr w n a m (targets g.f m)) n a) g.f m c (c = .int && !fc.2) o q
        (cycOf (clearedArr w n a m (targets g.f m)) n))) n (feedBufs g.f.pass g.f.srcCol m.bufCol fc.1 ++
          feedBufs g.f.pass g.f.srcRow m.bufRow fr.1)) n a (targets g.f m) m.acc := by
  unfold macRun
  simp only [h1, h2]
  rfl

theorem badRead_good {u : State} {bufs : List (Lane × Nat)} (hu : u.stns = w.stns)
    (h : ∀ e ∈ bufs, (lb w n e.1 e.2).state ≠ .heldBad) : badRead u n bufs = u := by
  refine if_neg ?_
  rw [Bool.not_eq_true, List.any_eq_false]
  intro e he
  rw [lb_of_stns hu]
  simpa using h e he

theorem wiresTested_good {u : State} {ts : List Nat} {acc : Nat} (h : u.wireFault.get false (arrLoc u n a) = false) :
    wiresTested u n a ts acc = u := if_neg (by simp [h])

end

theorem accOf_lastMacAt {ts : List Nat} (hts : ts.Nodup) (cyc : Nat) (x : Arr) (i : Nat) :
    accOf (lastMacAt ts cyc x) i = if i ∈ ts then { accOf x i with lastMac := some cyc } else accOf x i :=
  accOf_foldl_updAcc x i _ hts

theorem arr_arrCount (s : State) (n off w k b i : Nat) : arr (arrCount s n off w k) b i = arr s b i := by
  rw [arrCount_parts]
  rfl

theorem arr_productsLand (u : State) (n a : Nat) (m : MacF) (g : ArrCfg) (c : Cls) (r : Arr × Nat × Nat) :
    arr (productsLand u n a m g c r) n a = lastMacAt (targets g.f m) (cycOf u n) (movedOn g m c r.1) := by
  refine (arr_arrCount ..).trans ((arr_arrCount ..).trans ((arr_updArr_same ..).trans ?_))
  rw [arr_updArr_same]

theorem arr_productsLand_other (u : State) (n a : Nat) (m : MacF) (g : ArrCfg) (c : Cls) (r : Arr × Nat × Nat) {b i : Nat}
    (h : 2 * b + i ≠ 2 * n + a) : arr (productsLand u n a m g c r) b i = arr u b i := by
  refine (arr_arrCount ..).trans ((arr_arrCount ..).trans ((arr_updArr_other _ _ _ _ _ _ h).trans ?_))
  rw [arr_updArr_other _ _ _ _ _ _ h]

theorem arrCount_sealed {s : State} (h : sealedJob s = true) (n off w k : Nat) : arrCount s n off w k = s :=
  if_pos (by simp [h])

theorem productsLand_sealed {u : State} (h : sealedJob u = true) (n a : Nat) (m : MacF) (g : ArrCfg) (c : Cls)
    (r : Arr × Nat × Nat) : (productsLand u n a m g c r).regs = u.regs := by
  refine (congrArg State.regs (arrCount_sealed ?_ ..)).trans ((congrArg State.regs (arrCount_sealed
    (s := updArr (updArr u n a (fun _ => movedOn g m c r.1)) n a (lastMacAt (targets g.f m) (cycOf u n))) h ..)).trans rfl)
  rw [arrCount_parts]
  exact h

theorem clearedAccs_parts (m : MacF) (ts : List Nat) (x : Arr) : ∃ t, clearedAccs m ts x = { x with accs := t } := by
  unfold clearedAccs clearAccs
  split
  · exact foldl_updAcc_parts x (fun _ _ => {}) ts
  · exact ⟨x.accs, rfl⟩

/-- The array of a MAC that performs, from the array `x` before its products. -/
theorem productsArray {x : Arr} {m : MacF} {g : ArrCfg} {c : Cls} {int : Bool} {o q : Opnd} {cyc : Nat} {r : Arr × Nat × Nat}
    {y : Arr} (hg : x.cfg = some g) (hr : r = macProducts (clearedAccs m (targets g.f m) x) g.f m c int o q cyc)
    (hy : y = lastMacAt (targets g.f m) cyc (movedOn g m c r.1)) :
    (∀ i ∈ targets g.f m, accOf y i = { accOf r.1 i with lastMac := some cyc }) ∧
      (∀ i, i ∉ targets g.f m → accOf y i = accOf x i) ∧
      PointerMoves g c x y ∧ y.drains = x.drains ∧ y.lastCol = m.bufCol ∧ y.lastRow = m.bufRow ∧ y.lastAcc = m.acc := by
  have hts := targets_nodup g.f m
  obtain ⟨⟨t, ht⟩, ho⟩ := macProducts_parts (clearedAccs m (targets g.f m) x) g.f m c int o q cyc
  obtain ⟨t', ht'⟩ := clearedAccs_parts m (targets g.f m) x
  rw [← hr] at ht ho
  have hmoved (i : Nat) : accOf (movedOn g m c r.1) i = accOf r.1 i := by
    rw [accOf, accOf, movedOn, (bumpK_parts r.1 c g.f.pass).1]
  obtain ⟨t'', ht''⟩ := foldl_updAcc_parts (movedOn g m c r.1) (fun _ y => { y with lastMac := some cyc }) (targets g.f m)
  refine ⟨fun i hi => ?_, fun i hi => ?_, ?_⟩
  · rw [hy, accOf_lastMacAt hts, if_pos hi, hmoved]
  · rw [hy, accOf_lastMacAt hts, if_neg hi, hmoved, ho i hi, accOf_clearedAccs _ hts, if_neg hi]
  · rw [hy, lastMacAt, ht'', movedOn]
    refine ⟨pointerMoves_bumpK (x := r.1) c ?_ ?_ ⟨rfl, rfl, rfl⟩, ?_, rfl, rfl, rfl⟩
    · rw [ht, ht']
      exact ⟨rfl, rfl⟩
    · rw [ht, ht']
      exact hg
    · exact (bumpK_parts r.1 c g.f.pass).2.trans (by rw [ht, ht'])

/-- Settles O15: the MAC runs on the state that its cost leaves, its operands fed one after the other. -/
theorem macPerforms : Obligations.MacPerforms := by
  unfold Obligations.MacPerforms
  intro s n a m g c fc fr o q v w ks r h ha hg hb hd hc hr hp hic hir hk hks h1 h2 hbad hwf hprod hgw
  subst hks
  obtain ⟨hcl, hca, hco⟩ := clearedArr_spec w n a m (targets g.f m)
  have hts := targets_nodup g.f m
  have hrun := mac_runs h ha hg hb hd hc hr (macCls_of_formats hc hr hp hic hir) hk
  rw [← show (arr (macCost s n a m) n a).k = (arr s n a).k from by rw [arr_macCost]] at h1 h2
  have hcyc : cycOf (clearedArr w n a m (targets g.f m)) n = cycOf w n := by
    rw [hcl]
    rfl
  have hstns : (clearedArr w n a m (targets g.f m)).stns = w.stns := by rw [hcl]
  rw [macRun_eq h1 h2, hca, hcyc, clearedAccs, ← hprod] at hrun
  have hland := productsLand_parts (clearedArr w n a m (targets g.f m)) n a m g c r
  rw [badRead_good (by rw [hland]; exact hstns) hbad, wiresTested_good (by rw [hland, hcl]; exact hwf)] at hrun
  have harr := arr_productsLand (clearedArr w n a m (targets g.f m)) n a m g c r
  rw [hcyc] at harr
  obtain ⟨hin, hout, hrest⟩ := productsArray hgw hprod harr
  refine ⟨_, hrun, ?_, fun b i hbi hi => ?_, hin, hout, ?_⟩
  · rw [hland, hcl]
  · have := arr_index ha hi hbi
    rw [arr_productsLand_other _ _ _ _ _ _ _ this, hco b i this]
  · obtain ⟨hptr, hdr, h3, h4, h5⟩ := hrest
    refine ⟨hptr, hdr, h3, h4, h5, ?_, fun hs => ?_⟩
    · rw [hland, hcl]
      rfl
    · rw [productsLand_sealed (by rw [hcl]; exact hs), hcl]

end Sys2Proof.Machine
end

/-! ## Drains, and the sweeps of the checks (03 R106 to R116, R131 to R134) -/
section
set_option Elab.async false
namespace Sys2Proof.Machine
open Sys2Proof

theorem exec_drain (n a : Nat) (f : DrainF) (s : State) : exec (.drain n a f) s = execDrain n a f s := rfl

theorem exec_drainComplete (n a : Nat) (s : State) : exec (.drainComplete n a) s = execDrainComplete n a s := rfl

theorem exec_rowSweep (n a : Nat) (s : State) : exec (.rowSweep n a) s = execRowSweep n a s := rfl

/-! ### A drain that starts -/

/-- The accumulators that a drain empties. -/
def drained (f : DrainF) (cx : Bool) : List Nat := if cx then [0, 1] else [f.acc]

/-- The drain as it starts on the accumulators as they stand. -/
def drainOf (s : State) (n a : Nat) (f : DrainF) (addr : Nat) (cx : Bool) : DrainRun :=
  { f := f
    start := cycOf s n
    addr := addr
    complex := cx
    snap := if cx then [accOf (arr s n a) 0, accOf (arr s n a) 1] else [accOf (arr s n a) f.acc]
    scale := if f.scaleEn then (xreg s n f.scale).setWidth 32 else 0x3F800000 }

/-- The drain joins those of its array. -/
def drainAdded (d : DrainRun) (x : Arr) : Arr := { x with drains := x.drains ++ [d] }

theorem drainStart_ready {u : State} {n a : Nat} {f : DrainF} (addr : Nat) {cx : Bool}
    (h : ∀ i ∈ drained f cx, ∀ c, (accOf (arr u n a) i).lastMac = some c → c + 6 ≤ cycOf u n) :
    drainStart u n a f addr cx = addDrain u n a (drainOf u n a f addr cx) := by
  unfold drainStart
  extract_lets x accs early
  have he : early = false := by
    refine List.any_eq_false.2 fun i hi => ?_
    cases hl : (accOf x i).lastMac with
    | none => simp
    | some c => simpa using h i hi c hl
  clear_value early
  subst he
  cases cx <;> rfl

theorem addDrain_alone {s : State} {n a : Nat} {d : DrainRun} (h : ∀ e ∈ (arr s n (1 - a)).drains, drainMeet d e = none) :
    addDrain s n a d = updArr s n a (drainAdded d) :=
  if_pos (List.all_eq_true.2 fun e he => by rw [h e he]; rfl)

theorem drainMeet_apart {d e : DrainRun} {a b : Nat} (hd : drainRange d = some (a, b))
    (he : ∀ lo hi, drainRange e = some (lo, hi) → hi ≤ a ∨ b ≤ lo) : drainMeet d e = none := by
  unfold drainMeet
  rw [hd]
  cases hr : drainRange e with
  | none => rfl
  | some r =>
    have := he r.1 r.2 hr
    exact if_neg (by omega)

theorem drainMeet_baton {d : DrainRun} (hd : 2 ≤ d.f.dest) (e : DrainRun) : drainMeet d e = none := by
  unfold drainMeet drainRange
  rw [if_neg (by omega)]

theorem addDrain_drains (s : State) (n : Nat) {a : Nat} (ha : a < 2) (d : DrainRun) :
    ∃ cl, (arr (addDrain s n a d) n a).drains = (arr s n a).drains ++ [{ d with clash := cl }] := by
  unfold addDrain
  extract_lets es k meets
  split
  ·     exact ⟨d.clash, congrArg Arr.drains (arr_updArr_same ..)⟩
  · exact ⟨_, (congrArg Arr.drains (arr_updArr_same ..)).trans
      (congrArg (fun x : Arr => x.drains ++ [{ d with clash := es.flatMap (meets true d) }])
        (arr_updArr_other _ _ _ _ _ _ (by omega)))⟩

theorem OnlyDetector.arr_eq {s u : State} (hu : OnlyDetector s u) (n a : Nat) : arr u n a = arr s n a := by
  rw [arr, hu.1]
  rfl

theorem OnlyDetector.lb_eq {s u : State} (hu : OnlyDetector s u) (n : Nat) (l : Lane) (b : Nat) : lb u n l b = lb s n l b := by
  rw [lb, lb, hu.stn_eq]

theorem OnlyDetector.drainBuf_eq {s u : State} (hu : OnlyDetector s u) (n : Nat) (l : Lane) (b : Nat) :
    drainBuf u n l b = drainBuf s n l b := by
  rw [drainBuf, drainBuf, hu.lb_eq]

theorem OnlyDetector.drainOf_eq {s u : State} (hu : OnlyDetector s u) (n a : Nat) (f : DrainF) (addr : Nat) (cx : Bool) :
    drainOf u n a f addr cx = drainOf s n a f addr cx := by
  simp only [drainOf, hu.arr_eq, hu.cycOf_eq, hu.xreg_eq]

theorem ite_size (b : Bool) (k : Nat) : (if b then 2 * k else k) = (if b then 2 else 1) * k := by
  cases b <;> simp

/-- The MSET of the array names a complex mode. -/
def complexSet (x : Arr) : Bool := x.cfg.elim false (fun g => isComplex g.f.pass)

/-- What the detector sees of a drain to the pocket (06 R252). -/
def drainSeen (s : State) (n : Nat) (f : DrainF) : State :=
  fsIf (seeX s n (f.addr :: (if f.scaleEn then [f.scale] else [])))
    (lowBits (seeX s n (f.addr :: (if f.scaleEn then [f.scale] else []))) n [f.addr]) n 6

/-- What the detector sees of a drain to a baton (06 R252). -/
def batonDrainSeen (s : State) (n : Nat) (f : DrainF) : State :=
  fsIf (seeX s n (if f.scaleEn then [f.scale] else []))
    (!holds (lb (seeX s n (if f.scaleEn then [f.scale] else [])) n f.lane f.buf)) n 0

theorem onlyDetector_drainSeen (s : State) (n : Nat) (f : DrainF) : OnlyDetector s (drainSeen s n f) :=
  (OnlyDetector.seeX ..).trans (.fsIf ..)

theorem onlyDetector_batonDrainSeen (s : State) (n : Nat) (f : DrainF) : OnlyDetector s (batonDrainSeen s n f) :=
  (OnlyDetector.seeX ..).trans (.fsIf ..)

theorem drain_conflicts {s : State} {n a : Nat} (h : acts s n = true) (ha : a < 2) (f : DrainF)
    (hd : drainingArr (arr s n a) (cycOf s n) = true) : exec (.drain n a f) s = .next (accConflict s n a f.acc) := by
  rw [exec_drain, execDrain, if_neg (by simp [h]; omega)]
  exact if_pos hd

section
variable {s : State} {n a : Nat} {f : DrainF} {cx : Bool} (h : acts s n = true) (ha : a < 2)
  (hd : drainingArr (arr s n a) (cycOf s n) = false) (hcx : cx = complexSet (arr s n a))
include h ha hd

section
variable (hto : f.dest < 2)
include hto

theorem drain_badFormat (ht : tileOk f.fmtOut f.scaledOut = false) :
    exec (.drain n a f) s = .next (badSetup (drainSeen s n f) n a f.acc) := by
  rw [exec_drain, execDrain, if_neg (by simp [h]; omega)]
  refine (if_neg (by simp [hd])).trans ((if_pos hto).trans (if_pos (by simp [ht])))

variable (ht : tileOk f.fmtOut f.scaledOut = true)
include hcx ht

theorem drain_toPocket {o : Nat} (hl : ∀ i ∈ drained f cx, ∀ c, (accOf (arr s n a) i).lastMac = some c → c + 6 ≤ cycOf s n)
    (ho : pocketOperand (xreg s n f.addr) 256 ((if cx then 2 else 1) * storedBytes f.fmtOut f.scaledOut) = some o)
    (hok : pocketOk s n o ((if cx then 2 else 1) * storedBytes f.fmtOut f.scaledOut) = true) :
    exec (.drain n a f) s = .next (addDrain (drainSeen s n f) n a (drainOf s n a f o cx)) := by
  have hu := onlyDetector_drainSeen s n f
  rw [exec_drain, execDrain, if_neg (by simp [h]; omega)]
  extract_lets x cx0 s1 s2 size len
  obtain rfl : cx0 = cx := by
    rw [hcx]
    unfold complexSet cx0
    cases x.cfg <;> rfl
  have hs2 : OnlyDetector s s2 := hu
  have hlen : len = (if cx0 then 2 else 1) * storedBytes f.fmtOut f.scaledOut := ite_size ..
  refine (if_neg (by simp [x, hd])).trans ((if_pos hto).trans ((if_neg (by simp [ht])).trans ?_))
  rw [hs2.xreg_eq, hlen, ho]
  refine (if_neg (by rw [hs2.pocketOk_eq, hok]; decide)).trans (congrArg _ ?_)
  rw [← hs2.drainOf_eq]
  exact drainStart_ready o (by simpa only [hs2.arr_eq, hs2.cycOf_eq] using hl)

omit hcx in
theorem drain_badAddress (hhi : 0x400000 ≤ (xreg s n f.addr).toNat) :
    exec (.drain n a f) s = .next (badAddr (drainSeen s n f) n) := by
  have hu := onlyDetector_drainSeen s n f
  rw [exec_drain, execDrain, if_neg (by simp [h]; omega)]
  refine (if_neg (by simp [hd])).trans ((if_pos hto).trans ((if_neg (by simp [ht])).trans ?_))
  dsimp only
  rw [show xreg (fsIf _ _ n 6) n f.addr = xreg s n f.addr from hu.xreg_eq n f.addr, pocketOperand_high hhi]
  rfl

end

section
variable (hto : 2 ≤ f.dest)
include hto

theorem drain_noBaton (hb : drainBuf s n f.lane f.buf = false) :
    exec (.drain n a f) s = .next (badSetup (batonDrainSeen s n f) n a f.acc) := by
  have hu := onlyDetector_batonDrainSeen s n f
  rw [exec_drain, execDrain, if_neg (by simp [h]; omega)]
  extract_lets x cx0 s1 s2 size len s3 s4 two
  have hs4 : OnlyDetector s s4 := hu
  refine (if_neg (by simp [x, hd])).trans ((if_neg (by omega)).trans (if_neg ?_))
  rw [hs4.drainBuf_eq, hb]
  simp

include hcx in
theorem drain_toBaton (hl : ∀ i ∈ drained f cx, ∀ c, (accOf (arr s n a) i).lastMac = some c → c + 6 ≤ cycOf s n)
    (hb : drainBuf s n f.lane f.buf = true)
    (htwo : cx = true → f.buf = 0 ∧ (lb s n f.lane 0).baton.hdr.fmt = 1 ∧ drainBuf s n f.lane 2 = true) :
    exec (.drain n a f) s = .next (addDrain (batonDrainSeen s n f) n a (drainOf s n a f 0 cx)) := by
  have hu := onlyDetector_batonDrainSeen s n f
  rw [exec_drain, execDrain, if_neg (by simp [h]; omega)]
  extract_lets x cx0 s1 s2 size len s3 s4 two
  obtain rfl : cx0 = cx := by
    rw [hcx]
    unfold complexSet cx0
    cases x.cfg <;> rfl
  have hs4 : OnlyDetector s s4 := hu
  have htwo' : (!cx0 || two) = true := by
    cases hc : cx0 with
    | false => rfl
    | true =>
      obtain ⟨h1, h2, h3⟩ := htwo hc
      simp [two, h1, hs4.lb_eq, h2, hs4.drainBuf_eq, h3]
  refine (if_neg (by simp [x, hd])).trans ((if_neg (by omega)).trans ((if_pos ?_).trans (congrArg _ ?_)))
  · rw [hs4.drainBuf_eq, hb, htwo']
    rfl
  · rw [← hs4.drainOf_eq]
    exact drainStart_ready 0 (by simpa only [hs4.arr_eq, hs4.cycOf_eq] using hl)

end

end

/-! ### The end of a drain, and the row sweep (03 R107, R131, R133, R134) -/

theorem columnChecks_ok {s : State} {d : DrainRun} (n a : Nat)
    (h : chkEnable s = false ∨ ∀ x ∈ d.snap, ∀ i, i < 128 →
      compare x (colCells i) (x.xiRow.get 0 i) (x.alRow.get 0 i) = .ok) : columnChecks s n a d = s := by
  unfold columnChecks
  obtain h | h := h
  · rw [h]
    rfl
  · split
    · rfl
    · refine List.foldlRecOn (motive := (· = s)) _ _ rfl fun t ht e he => ?_
      refine List.foldlRecOn (motive := (· = s)) _ _ ht fun t ht c hc => ?_
      rw [h e.2 (List.of_mem_zip he).2 c (List.mem_range.1 hc), ht]
      rfl

theorem drainComplete_ends {s : State} {n a : Nat} {d : DrainRun} {rest : List DrainRun}
    (hd : (arr s n a).drains = d :: rest) (hrow : drainLen d ≤ d.row) (hc : d.start + drainLen d + 2 ≤ cycOf s n)
    (h : chkEnable s = false ∨ ∀ x ∈ d.snap, ∀ i, i < 128 →
      compare x (colCells i) (x.xiRow.get 0 i) (x.alRow.get 0 i) = .ok) :
    exec (.drainComplete n a) s = .next (updArr s n a (fun x => { x with drains := rest })) := by
  rw [exec_drainComplete, execDrainComplete, hd]
  refine (if_neg (by simp; omega)).trans ?_
  rw [columnChecks_ok n a (by exact h)]

/-- The outcome of the comparison that the sweep of accumulator `i` makes next. -/
def sweepCmp (y : Acc) : Cmp := compare y (rowCells y.sweep) (y.xiCol.get 0 y.sweep) (y.alCol.get 0 y.sweep)

/-- The next row. -/
def swept (y : Acc) : Acc := { y with sweep := (y.sweep + 1) % 128 }

theorem sweepAcc_idle {s : State} {n a i : Nat} (h : chkEnable s = false ∨ drainingAcc (arr s n a) i (cycOf s n) = true) :
    sweepAcc s n a i = s :=
  if_pos (by rcases h with h | h <;> simp [h])

theorem sweepAcc_checks {s : State} {n a i : Nat} (hc : chkEnable s = true)
    (hd : drainingAcc (arr s n a) i (cycOf s n) = false) :
    sweepAcc s n a i = checkResult (updArr s n a (fun x => updAcc x i swept)) n a i true (accOf (arr s n a) i).sweep
      (sweepCmp (accOf (arr s n a) i)) := by
  refine if_neg ?_
  simp [hc, hd]

theorem rowSweep_present {s : State} {n a : Nat} (hp : present s n = true) (ha : a < 2) :
    exec (.rowSweep n a) s = .next (sweepAcc (sweepAcc s n a 0) n a 1) := by
  rw [exec_rowSweep]
  refine if_neg ?_
  simp [hp]
  omega

theorem sweeps_ok {s : State} {n a : Nat} (hc : chkEnable s = true)
    (h : ∀ i, i < 2 → drainingAcc (arr s n a) i (cycOf s n) = false ∧ sweepCmp (accOf (arr s n a) i) = .ok) :
    sweepAcc (sweepAcc s n a 0) n a 1 = updArr (updArr s n a (fun x => updAcc x 0 swept)) n a (fun x => updAcc x 1 swept) := by
  obtain ⟨h0, hok0⟩ := h 0 (by omega)
  obtain ⟨h1, hok1⟩ := h 1 (by omega)
  have harr := arr_updArr_same s n a (fun x => updAcc x 0 swept)
  have hacc : accOf (arr (updArr s n a (fun x => updAcc x 0 swept)) n a) 1 = accOf (arr s n a) 1 := by
    rw [harr, accOf_updAcc_other _ _ _ _ (by omega)]
  rw [sweepAcc_checks hc h0, hok0]
  change sweepAcc (updArr s n a (fun x => updAcc x 0 swept)) n a 1 = _
  rw [sweepAcc_checks (s := updArr s n a (fun x => updAcc x 0 swept)) hc (by rw [harr]; exact h1), hacc, hok1]
  rfl

/-- The accumulator that a failed row marks. -/
def rowFailed (y : Acc) : Acc := { y with failed := true, rowRaised := true }

theorem checkResult_badRow (u : State) {n a i : Nat} (row : Nat) (hr : (accOf (arr u n a) i).rowRaised = false) :
    ∃ f : Acc → Acc, (∀ y, f y = rowFailed y) ∧ checkResult u n a i true row .bad =
      errHalt (requestTest (raise (arrErr (updArr u n a (fun x => updAcc x i f)) n a 0 i (row + 128)) 0x0201 (dieOf n)
        (n % 96) none) 1 (2 * n + a) 0x0201) n 0x0201 := by
  refine ⟨_, fun y => ?_, if_neg ?_⟩
  · simp [rowFailed]
  · simp [hr]

/-- What a failed row leaves: its event, its mark, and a station that halts at its next hurdle. -/
theorem rowFailure_leaves (u : State) (n a i loc : Nat) (f : Acc → Acc) {t : State}
    (ht : t = errHalt (requestTest (raise (arrErr (updArr u n a (fun x => updAcc x i f)) n a 0 i loc) 0x0201 (dieOf n)
        (n % 96) none) 1 (2 * n + a) 0x0201) n 0x0201) :
    evNow u 0x0201 (dieOf n) (n % 96) none ∈ t.evs ∧ accOf (arr t n a) i = f (accOf (arr u n a) i) ∧
      stn t n = haltAtHurdle (stn u n) ∧ t.mem = u.mem := by
  subst ht
  refine ⟨?_, ?_, ?_, ?_⟩
  · rw [errHalt_parts]
    refine mem_evs_requestTest 1 (2 * n + a) 0x0201 ?_
    rw [arrErr_regs]
    exact List.mem_append_right _ (List.mem_singleton_self _)
  · rw [arr, errHalt_parts, requestTest_parts, arrErr_regs]
    exact (congrArg (accOf · i) (arr_updArr_same u n a (fun x => updAcc x i f))).trans (accOf_updAcc_same ..)
  · rw [stn_errHalt_same, requestTest_parts, arrErr_regs]
    rfl
  · rw [errHalt_parts, requestTest_parts, arrErr_regs]
    rfl

theorem updArr_congr {s : State} {n a : Nat} {f g : Arr → Arr} (h : f (arr s n a) = g (arr s n a)) :
    updArr s n a f = updArr s n a g :=
  congrArg (fun x => { s with arrs := s.arrs.set (2 * n + a) x }) h

/-- Settles O16: how a drain starts, by its destination, and what ends it; what the row sweep finds. -/
theorem drainsAndSweeps : Obligations.DrainsAndSweeps := by
  unfold Obligations.DrainsAndSweeps
  refine ⟨fun s n a f cx h ha hd hcx hl => ?_, fun s n a ha => ⟨fun f h hd => drain_conflicts h ha f hd,
    fun d rest hd hrow hc hk => drainComplete_ends hd hrow hc hk, fun hp hc hok => ?_, fun hp hno => ?_,
    fun hp hc h0 h1 hr hbad => ?_⟩⟩
  · have hcx' : cx = complexSet (arr s n a) := by
      rw [hcx]
      unfold complexSet
      cases (arr s n a).cfg <;> rfl
    have hl' : ∀ i ∈ drained f cx, ∀ c, (accOf (arr s n a) i).lastMac = some c → c + 6 ≤ cycOf s n := by
      intro i hi
      refine hl i ?_
      cases cx with
      | true => exact .inl rfl
      | false => exact .inr (List.mem_singleton.1 hi)
    have hu := onlyDetector_drainSeen s n f
    have hub := onlyDetector_batonDrainSeen s n f
    refine ⟨fun o hto ht ho hok => ⟨?_, fun hapart => ?_⟩, fun hto hb htwo => ?_,
      fun hto ht => ⟨_, hu, drain_badFormat h ha hd hto ht⟩, fun hto hb => ⟨_, hub, drain_noBaton h ha hd hto hb⟩,
      fun hto ht hhi => ⟨_, drain_badAddress h ha hd hto ht hhi, badAccess_badAddr hu⟩⟩
    · obtain ⟨cl, hcl⟩ := addDrain_drains (drainSeen s n f) n ha (drainOf s n a f o cx)
      rw [hu.arr_eq] at hcl
      exact ⟨_, cl, drain_toPocket h ha hd hcx' hto ht hl' ho hok, hcl⟩
    · refine ⟨_, hu, (drain_toPocket h ha hd hcx' hto ht hl' ho hok).trans (congrArg _ ?_)⟩
      have hr : drainRange (drainOf s n a f o cx) =
          some (o, o + (if cx then 2 else 1) * storedBytes f.fmtOut f.scaledOut) := if_pos hto
      rw [addDrain_alone fun e he => drainMeet_apart hr (hapart e (by rwa [hu.arr_eq] at he))]
      refine updArr_congr ?_
      rw [hu.arr_eq]
      rfl
    · refine ⟨_, hub, (drain_toBaton h ha hd hcx' hto hl' hb htwo).trans (congrArg _ ?_)⟩
      rw [addDrain_alone fun e _ => drainMeet_baton hto e]
      refine updArr_congr ?_
      rw [hub.arr_eq]
      rfl
  · refine ⟨_, (rowSweep_present hp ha).trans (congrArg _ (sweeps_ok hc hok)), rfl, fun b i hbi hi => ?_, fun i hi => ?_⟩
    · have := arr_index ha hi hbi
      rw [arr_updArr_other _ _ _ _ _ _ this, arr_updArr_other _ _ _ _ _ _ this]
    · rw [arr_updArr_same, arr_updArr_same]
      obtain rfl | rfl : i = 0 ∨ i = 1 := by omega
      · rw [accOf_updAcc_other _ _ _ _ (by omega), accOf_updAcc_same]
        rfl
      · rw [accOf_updAcc_same, accOf_updAcc_other _ _ _ _ (by omega)]
        rfl
  · rw [rowSweep_present hp ha]
    have hidle (i : Nat) (hi : i < 2) : sweepAcc s n a i = s := sweepAcc_idle (hno.imp_right fun h => h i hi)
    rw [hidle 0 (by omega), hidle 1 (by omega)]
  · have hu := arr_updArr_same s n a (fun x => updAcc x 1 swept)
    obtain ⟨f, hf, hres⟩ := checkResult_badRow (updArr s n a (fun x => updAcc x 1 swept)) (n := n) (a := a) (i := 1)
      (accOf (arr s n a) 1).sweep (by rw [hu, accOf_updAcc_same]; exact hr)
    obtain ⟨hev, hacc, hstn, hmem⟩ :=
      rowFailure_leaves (updArr s n a (fun x => updAcc x 1 swept)) n a 1 ((accOf (arr s n a) 1).sweep + 128) f rfl
    refine ⟨_, (rowSweep_present hp ha).trans (congrArg _ ?_), hev, ?_, hstn, fun b => congrArg (memGet · b) hmem⟩
    · rw [sweepAcc_idle (.inr h0), sweepAcc_checks hc h1, show sweepCmp (accOf (arr s n a) 1) = .bad from hbad, hres]
    · rw [hacc, hf, hu, accOf_updAcc_same]
      rfl

end Sys2Proof.Machine
end

/-! ## The update of 32 parameters (11 R382, R389 to R396, R402, R406, R410) -/
section
set_option Elab.async false
namespace Sys2Proof.Machine
open Sys2Proof

theorem exec_updateGroup (k : Nat) (s : State) : exec (.updateGroup k) s = execUpdateGroup k s := rfl

/-! ### The bytes that pass to and from memory -/

theorem length_exchBytes {s : State} {dec : Bool} {n a : Nat} {bs : List Byte} (hn : a % 4096 + bs.length ≤ 4096 * n) :
    (exchBytes s dec n a bs).length = bs.length := by
  induction n generalizing a bs with
  | zero => rw [List.eq_nil_of_length_eq_zero (by omega : bs.length = 0)]; rfl
  | succ n ih =>
    have hpart : (if exchMapped s a (bs.take (4096 - a % 4096)).length then
        sized (bs.take (4096 - a % 4096)).length (exchUnit dec (exchKey s) (a - lpBase) (bs.take (4096 - a % 4096)))
        else bs.take (4096 - a % 4096)).length = (bs.take (4096 - a % 4096)).length := by
      split
      · rw [sized_length]
      · rfl
    rw [exchBytes]
    rw [List.length_append, hpart, List.length_take]
    obtain h | h := Nat.lt_or_ge (4096 - a % 4096) bs.length
    · rw [ih (by rw [List.length_drop]; omega), List.length_drop]
      omega
    · rw [List.drop_eq_nil_of_le h, exchBytes_nil]
      simp only [List.length_nil]
      omega

theorem length_exchOut (s : State) (a : Nat) (bs : List Byte) : (exchOut s a bs).length = bs.length := by
  obtain h | h := unitsMet_covers a bs.length
  · exact length_exchBytes h
  · rw [exchOut, List.eq_nil_of_length_eq_zero h, exchBytes_nil]

theorem cleanCw_of_noErrors {s : State} (h : s.cwErr = []) (cw : Nat) : CleanCw s cw := by
  unfold CleanCw
  rw [h]
  rfl

theorem readMem_noErrors {s : State} (h : s.cwErr = []) (a n : Nat) : readMem s a n = { s := touch s a n } :=
  readMem_clean fun _ _ => cleanCw_of_noErrors h _

theorem readBytes_noErrors {s : State} (h : s.cwErr = []) (a n : Nat) :
    readBytes (readMem s a n) a n = memRead s.mem a n := by
  rw [readMem_noErrors h]
  exact List.map_congr_left fun i _ => by rw [readByte_of_clean, touch_mem]

/-! ### The oldest buffer of a gateway -/

@[simp] theorem gw_updGw_same (s : State) (k : Nat) (f : Gw → Gw) : gw (updGw s k f) k = f (gw s k) :=
  Table.get_upd_same ({} : Gw) s.gws k f

theorem bufs_updBuf {s : State} {k : Nat} {c : ChunkBuf} {rest : List ChunkBuf} (h : (gw s k).bufs = c :: rest)
    (f : ChunkBuf → ChunkBuf) : (gw (updBuf s k f) k).bufs = f c :: rest := by
  rw [updBuf, gw_updGw_same, h]
  rfl

theorem bufs_watch (s : State) (k g nf : Nat) (sq : List Num) : (gw (watch s k g nf sq) k).bufs = (gw s k).bufs := by
  have h : (countNonFin s (some g) nf).gws = s.gws := by
    unfold countNonFin
    dsimp only
    split <;> rfl
  rw [watch, gw_updGw_same, gw, h]
  rfl

theorem nfCnt_countNonFin (s : State) (g n : Nat) : (countNonFin s (some g) n).nfCnt.get 0 g = s.nfCnt.get 0 g + n := by
  unfold countNonFin
  dsimp only
  split
  · next h => rw [h, Nat.add_zero]
  · exact Table.get_upd_same (d := 0) s.nfCnt g (· + n)

theorem watch_parts (s : State) (k g nf : Nat) (sq : List Num) : watch s k g nf sq =
    { s with nfCnt := (watch s k g nf sq).nfCnt, gws := (watch s k g nf sq).gws } := by
  unfold watch countNonFin
  dsimp only
  split <;> rfl

theorem nfCnt_watch (s : State) (k g nf : Nat) (sq : List Num) :
    (watch s k g nf sq).nfCnt.get 0 g = s.nfCnt.get 0 g + nf := nfCnt_countNonFin s g nf

section
variable {s : State} {k : Nat} {c : ChunkBuf} {rest : List ChunkBuf} {x : Shard} {e n a b : Nat}
  (hb : (gw s k).bufs = c :: rest) (hnext : c.next < 512) (hx : (shardsOf s k)[c.shard]? = some x)
include hb hnext hx

theorem updateGroup_vector (hv : x.kind = .vector) : exec (.updateGroup k) s =
    .next (updBuf (watch s k x.group (((List.range 32).map (fun i => gradElem c (32 * c.next + i))).countP isNonFin)
      (((List.range 32).map (fun i => gradElem c (32 * c.next + i))).map (fun v => mulNum v v))) k
        (fun c => { c with next := c.next + 1 })) := by
  rw [exec_updateGroup, execUpdateGroup, hb]
  dsimp only
  rw [hx]
  exact (if_neg (by omega)).trans (if_pos hv)

variable (hv : x.kind ≠ .vector)
include hv

theorem updateGroup_snapshot (hsn : snapHolds s k c.slot = true) : exec (.updateGroup k) s = .next (snapWait s k c) := by
  rw [exec_updateGroup, execUpdateGroup, hb]
  dsimp only
  rw [hx]
  exact (if_neg (by omega)).trans ((if_neg hv).trans (if_pos hsn))

variable (hsn : snapHolds s k c.slot = false) (he : e = 32 * c.next) (hn : n = recBytes x)
  (ha : a = bankBase x s.coord.live + (c.index * 16384 + e) * n)
  (hbb : b = bankBase x (!s.coord.live) + (c.index * 16384 + e) * n)
include hsn he hn ha hbb

theorem updateGroup_waits (hw : engineWaits s (k / 2) a (32 * n) = true ∨ engineWaits s (k / 2) b (32 * n) = true) :
    exec (.updateGroup k) s = .next s := by
  subst he hn ha hbb
  rw [exec_updateGroup, execUpdateGroup, hb]
  dsimp only
  rw [hx]
  exact (if_neg (by omega)).trans ((if_neg hv).trans ((if_neg (by simp [hsn])).trans
    (if_pos (Bool.or_eq_true_iff.2 hw))))

variable (hwa : engineWaits s (k / 2) a (32 * n) = false) (hwb : engineWaits s (k / 2) b (32 * n) = false)
include hwa hwb

theorem updateGroup_refused (hm : engineMay s (k / 2) a (32 * n) = false) : exec (.updateGroup k) s =
    .next (updBuf (reservedAccess s (k / 2) k) k (fun c => { c with next := c.next + 1, failed := true })) := by
  subst he hn ha hbb
  rw [exec_updateGroup, execUpdateGroup, hb]
  dsimp only
  rw [hx]
  exact (if_neg (by omega)).trans ((if_neg hv).trans ((if_neg (by simp [hsn])).trans
    ((if_neg (by rw [hwa]; simpa [writeBank] using hwb)).trans (if_pos (by simp [hm])))))

/-- What a group reads: its records in the live bank, with the banks it touches awake. -/
def groupRead (s : State) (a b n : Nat) : ReadOut := readMem (wakeRange (wakeRange s a (32 * n)) b (32 * n)) a (32 * n)

/-- What the rule makes of the records it reads. -/
def groupRun (s : State) (k : Nat) (x : Shard) (c : ChunkBuf) (e a b n : Nat) :
    List Byte × Table (W32 × Option W32) × Nat × List Num :=
  runGroup (ruleOf s k x) (s.coord.commits + 1) (groupRead s a b n).s.freeCtr x c e 32
    (exchIn s a (readBytes (groupRead s a b n) a (32 * n)))

/-- The state with the group's records written. -/
def groupWritten (s : State) (k : Nat) (x : Shard) (c : ChunkBuf) (e a b n : Nat) : State :=
  (writeMem (draw (groupRead s a b n).s).1 b (exchOut s b (groupRun s k x c e a b n).1)).1

variable (hma : engineMay s (k / 2) a (32 * n) = true) (hmb : engineMay s (k / 2) b (32 * n) = true)
include hma hmb

theorem updateGroup_unreadable {cw : Nat} (hf : (groupRead s a b n).fail = some cw) : exec (.updateGroup k) s =
    .next (updBuf (readFaultAt (groupRead s a b n).s k) k (fun c => { c with next := c.next + 1, failed := true })) := by
  subst he hn ha hbb
  rw [exec_updateGroup, execUpdateGroup, hb]
  dsimp only
  rw [hx]
  refine (if_neg (by omega)).trans ((if_neg hv).trans ((if_neg (by simp [hsn])).trans
    ((if_neg (by rw [hwa]; simpa [writeBank] using hwb)).trans ((if_neg ?_).trans ?_))))
  · rw [hma]
    simpa [writeBank] using hmb
  · rw [groupRead] at hf ⊢
    rw [show writeBank s = !s.coord.live from rfl, hf]

theorem updateGroup_runs (hf : (groupRead s a b n).fail = none) : exec (.updateGroup k) s =
    .next (updBuf (watch (groupWritten s k x c e a b n) k x.group (groupRun s k x c e a b n).2.2.1
      (groupRun s k x c e a b n).2.2.2) k
        (fun y => { y with next := y.next + 1, out := y.out ++ (groupRun s k x c e a b n).2.1 })) := by
  subst he hn ha hbb
  rw [exec_updateGroup, execUpdateGroup, hb]
  dsimp only
  rw [hx]
  refine (if_neg (by omega)).trans ((if_neg hv).trans ((if_neg (by simp [hsn])).trans
    ((if_neg (by rw [hwa]; simpa [writeBank] using hwb)).trans ((if_neg ?_).trans ?_))))
  · rw [hma]
    simpa [writeBank] using hmb
  · rw [groupRead] at hf
    rw [show writeBank s = !s.coord.live from rfl, hf]
    rfl

end

theorem groupRead_parts (s : State) (a b n : Nat) : OnlyMemoryErrors (wakeRange (wakeRange s a (32 * n)) b (32 * n))
    (groupRead s a b n).s := .of_readMem ..

theorem groupRead_mem (s : State) (a b n : Nat) : (groupRead s a b n).s.mem = s.mem := by
  rw [groupRead, readMem_mem, wakeRange_mem, wakeRange_mem]

/-- A read over a memory without errors delivers its bytes. -/
theorem groupRun_noErrors {s : State} (h : s.cwErr = []) (k : Nat) (x : Shard) (c : ChunkBuf) (e a b n : Nat) :
    (groupRead s a b n).fail = none ∧ groupRun s k x c e a b n =
      runGroup (ruleOf s k x) (s.coord.commits + 1) s.freeCtr x c e 32 (exchIn s a (memRead s.mem a (32 * n))) := by
  have hw : (wakeRange (wakeRange s a (32 * n)) b (32 * n)).cwErr = [] := by rw [wakeRange_cwErr, wakeRange_cwErr, h]
  have hctr : (groupRead s a b n).s.freeCtr = s.freeCtr := by
    rw [(groupRead_parts s a b n).parts, wakeRange_parts, wakeRange_parts]
  refine ⟨by rw [groupRead, readMem_noErrors hw], ?_⟩
  rw [groupRun, hctr, groupRead, readBytes_noErrors hw, wakeRange_mem, wakeRange_mem]

/-- What the group's records leave: their bytes in memory, and no other. -/
theorem groupWritten_bytes {s : State} (h : s.cwErr = []) (k : Nat) (x : Shard) (c : ChunkBuf) (e a b n : Nat) {d : Nat} :
    memGet (groupWritten s k x c e a b n).mem d =
      if b ≤ d then ((exchOut s b (groupRun s k x c e a b n).1)[d - b]?).getD (memGet s.mem d) else memGet s.mem d := by
  have hw : (wakeRange (wakeRange s a (32 * n)) b (32 * n)).cwErr = [] := by rw [wakeRange_cwErr, wakeRange_cwErr, h]
  have hd : (draw (groupRead s a b n).s).1.cwErr = [] := by
    change (groupRead s a b n).s.cwErr = []
    rw [groupRead, readMem_noErrors hw, touch_cwErr, hw]
  have hmem : (draw (groupRead s a b n).s).1.mem = s.mem := groupRead_mem s a b n
  obtain ⟨-, -, hget⟩ := writeMem_clean (s := (draw (groupRead s a b n).s).1) (a := b)
    (bs := exchOut s b (groupRun s k x c e a b n).1) fun i _ => cleanCw_of_noErrors hd _
  rw [groupWritten, hget, hmem]

theorem groupWritten_parts (s : State) (k : Nat) (x : Shard) (c : ChunkBuf) (e a b n : Nat) :
    (groupWritten s k x c e a b n).gws = s.gws ∧ (groupWritten s k x c e a b n).nfCnt = s.nfCnt ∧
      (groupWritten s k x c e a b n).coord = s.coord ∧ (groupWritten s k x c e a b n).stns = s.stns := by
  have hw : OnlyMemoryErrors (draw (groupRead s a b n).s).1 (groupWritten s k x c e a b n) := .of_writeMem ..
  have hr := groupRead_parts s a b n
  refine ⟨?_, ?_, ?_, ?_⟩ <;> rw [hw.parts, draw] <;> dsimp only <;> rw [hr.parts, wakeRange_parts, wakeRange_parts]

/-- A record that cannot be read: its event, and the gateway's fault. -/
theorem readFaultAt_leaves {s u : State} {k : Nat} {c : ChunkBuf} {rest : List ChunkBuf} (f : ChunkBuf → ChunkBuf)
    (hb : (gw s k).bufs = c :: rest) (hg : u.gws = s.gws) (hev : evNow u 0x0706 (k / 2) k none = evNow s 0x0706 (k / 2) k none) :
    (gw (updBuf (readFaultAt u k) k f) k).bufs = f c :: rest ∧ (gw (updBuf (readFaultAt u k) k f) k).readFault = true ∧
      evNow s 0x0706 (k / 2) k none ∈ (updBuf (readFaultAt u k) k f).evs := by
  have hgw : gw (readFaultAt u k) k = { gw s k with readFault := true } := by
    rw [show gw s k = gw u k from by rw [gw, gw, hg]]
    exact gw_updGw_same u k (fun x => { x with readFault := true })
  refine ⟨bufs_updBuf (by rw [hgw]; exact hb) f, ?_, ?_⟩
  · rw [updBuf, gw_updGw_same, hgw]
  · rw [← hev]
    exact List.mem_append_right _ (List.mem_singleton_self _)

theorem updBuf_readFaultAt_mem (u : State) (k : Nat) (f : ChunkBuf → ChunkBuf) :
    (updBuf (readFaultAt u k) k f).mem = u.mem := rfl

/-- Settles O39: a group by the kind of its shard, by what it must wait for, and by what its read finds. -/
theorem updateGroups : Obligations.UpdateGroups := by
  unfold Obligations.UpdateGroups
  intro s k c rest x e n a b hb hnext hx he hn ha hbb
  refine ⟨fun hv hsn hma hmb hwa hwb => ⟨fun o hc ho => ?_, fun hf => ?_⟩, fun hv => ?_,
    fun hv hsn => updateGroup_snapshot hb hnext hx hv hsn, fun hv hsn =>
      ⟨fun hw => updateGroup_waits hb hnext hx hv hsn he hn ha hbb hw, fun hm hwb => ?_⟩⟩
  · obtain ⟨hf, hrun⟩ := groupRun_noErrors hc k x c e a b n
    rw [← ho] at hrun
    have hget := @groupWritten_bytes s hc k x c e a b n
    obtain ⟨hgws, hnf, hcoord, hstns⟩ := groupWritten_parts s k x c e a b n
    have hex := updateGroup_runs hb hnext hx hv hsn he hn ha hbb hwa hwb hma hmb hf
    rw [hrun] at hex hget
    have hmem : (updBuf (watch (groupWritten s k x c e a b n) k x.group o.2.2.1 o.2.2.2) k
        (fun y => { y with next := y.next + 1, out := y.out ++ o.2.1 })).mem = (groupWritten s k x c e a b n).mem := by
      rw [updBuf, updGw_mem, watch_parts]
    refine ⟨_, hex, fun i hi => ?_, fun d hd => ?_, ?_, ?_, ?_, ?_⟩
    · rw [hmem, hget, if_pos (by omega), Nat.add_sub_cancel_left, List.getD_eq_getElem?_getD,
        List.getElem?_eq_getElem (by rw [length_exchOut]; exact hi)]
      rfl
    · rw [hmem, hget]
      split
      · rw [List.getElem?_eq_none (by rw [length_exchOut]; omega)]
        rfl
      · rfl
    · refine bufs_updBuf ?_ _
      rw [bufs_watch, gw, hgws]
      exact hb
    · rw [updBuf, updGw_nfCnt, nfCnt_watch, hnf]
    · rw [updBuf, updGw, watch_parts]
      exact hcoord
    · rw [updBuf, updGw, watch_parts]
      exact hstns
  · obtain ⟨cw, hcw⟩ := Option.isSome_iff_exists.1 hf
    have hr := groupRead_parts s a b n
    obtain ⟨h1, h2, h3⟩ := readFaultAt_leaves (s := s) (u := (groupRead s a b n).s) (k := k)
      (fun c => { c with next := c.next + 1, failed := true }) hb
      (by rw [hr.parts, wakeRange_parts, wakeRange_parts]) (by rw [hr.parts, wakeRange_parts, wakeRange_parts]; rfl)
    exact ⟨_, updateGroup_unreadable hb hnext hx hv hsn he hn ha hbb hwa hwb hma hmb hcw,
      sameBytes_of_mem ((updBuf_readFaultAt_mem ..).trans (groupRead_mem s a b n)), h1, h2, h3⟩
  · subst he
    refine ⟨_, updateGroup_vector hb hnext hx hv, sameBytes_of_mem ?_, ?_, ?_⟩
    · rw [updBuf, updGw_mem, watch_parts]
    · exact bufs_updBuf (by rw [bufs_watch]; exact hb) _
    · rw [updBuf, updGw_nfCnt, nfCnt_watch]
  · have hwa : engineWaits s (k / 2) a (32 * n) = false := by rw [engineWaits, hm, Bool.false_and]
    exact ⟨_, updateGroup_refused hb hnext hx hv hsn he hn ha hbb hwa hwb hm, rfl,
      List.mem_append_right _ (List.mem_singleton_self _), bufs_updBuf (s := reservedAccess s (k / 2) k) hb _⟩

end Sys2Proof.Machine
end

/-! ## XPLD and XPST (04 R161; 06 R257, R258) -/
section
set_option Elab.async false
namespace Sys2Proof.Machine
open Sys2Proof

theorem exec_xpld (g vd rs1 rs2 fmt : Nat) (sc tr : Bool) (s : State) :
    exec (.xpld g vd rs1 rs2 fmt sc tr) s = execXpld g vd rs1 rs2 fmt sc tr s := rfl

theorem exec_xpst (g vs rs1 rs2 fmt : Nat) (sc tr pr : Bool) (s : State) :
    exec (.xpst g vs rs1 rs2 fmt sc tr pr) s = execXpst g vs rs1 rs2 fmt sc tr pr s := rfl

/-! ### A general core's own state -/

@[simp] theorem gcOf_updGc_same (s : State) (g : Nat) (f : Gc → Gc) : gcOf (updGc s g f) g = f (gcOf s g) := by
  rw [updGc, gcOf, clu_updClu_same]
  rfl

/-- The core alone passes an instruction. -/
@[simp] theorem gcNext_mem (s : State) (g : Nat) : (gcNext s g).mem = s.mem := rfl

@[simp] theorem gcNext_stns (s : State) (g : Nat) : (gcNext s g).stns = s.stns := rfl

@[simp] theorem gcOf_gcNext_same (s : State) (g : Nat) :
    gcOf (gcNext s g) g = { gcOf s g with pc := ((gcOf s g).pc + 4) % 2 ^ 64 } := gcOf_updGc_same ..

theorem vElem_gcNext (s : State) (g v i : Nat) : vElem (gcNext s g) g v i = vElem s g v i := by
  rw [vElem, vElem, gcOf_gcNext_same]

/-- Bytes put in a table at consecutive keys. -/
theorem get_foldl_set (t : Table Byte) (a : Nat) (bs : List Byte) (k : Nat) :
    (((List.range bs.length).zip bs).foldl (fun t e => t.set (a + e.1) e.2) t).get 0 k =
      if a ≤ k then (bs[k - a]?).getD (t.get 0 k) else t.get 0 k := by
  have hnum : ((List.range bs.length).zip bs).foldl (fun t e => t.set (a + e.1) e.2) t =
      (numbered a bs).foldl (fun t e => t.set e.1 e.2) t := by
    rw [numbered, List.foldl_map]
  rw [hnum]
  clear hnum
  induction bs generalizing a t with
  | nil => simp [numbered_nil]
  | cons b bs ih =>
    rw [numbered_cons, List.foldl_cons, ih]
    obtain hk | rfl | hk := Nat.lt_trichotomy k a
    · rw [if_neg (by omega), if_neg (by omega), Table.get_set_other _ _ _ _ _ (by omega)]
    · rw [if_neg (by omega), if_pos le_rfl, Table.get_set_same, Nat.sub_self]
      rfl
    · rw [if_pos (by omega), if_pos (by omega), Table.get_set_other _ _ _ _ _ (by omega),
        show k - a = (k - (a + 1)) + 1 by omega, List.getElem?_cons_succ]

/-- An element of a list of words laid out in bytes. -/
theorem getElem?_flatMap_leBytes {n : Nat} {xs : List W32} {i j : Nat} {x : W32} (h : xs[i]? = some x) (hj : j < n) :
    (xs.flatMap (fun x => leBytes n x.toNat))[n * i + j]? = (leBytes n x.toNat)[j]? := by
  induction xs generalizing i with
  | nil => simp at h
  | cons y xs ih =>
    rw [List.flatMap_cons]
    cases i with
    | zero =>
      obtain rfl : y = x := by simpa using h
      rw [Nat.mul_zero, Nat.zero_add, List.getElem?_append_left (by rw [leBytes_length]; exact hj)]
    | succ i =>
      rw [List.getElem?_append_right (by rw [leBytes_length, Nat.mul_succ]; omega), leBytes_length,
        show n * (i + 1) + j - n = n * i + j by rw [Nat.mul_succ]; omega]
      exact ih (by simpa using h)

theorem map_range_getD {n : Nat} {l : List Byte} (hl : l.length = n) (d : Nat → Byte) :
    (List.range n).map (fun j => (l[j]?).getD (d j)) = l := by
  refine List.ext_getElem (by simp [hl]) fun j h1 h2 => ?_
  rw [List.getElem_map, List.getElem_range, List.getElem?_eq_getElem h2, Option.getD_some]

/-- The elements of a vector register after a write of its bytes. -/
theorem vElem_putV (s : State) (g v : Nat) (xs : List W32) {i : Nat} {x : W32} (h : xs[i]? = some x) :
    vElem (putV s g v (xs.flatMap (fun x => leBytes 4 x.toNat))) g v i = x := by
  have hread : (List.range 4).map (fun j =>
      (gcOf (putV s g v (xs.flatMap (fun x => leBytes 4 x.toNat))) g).v.get 0 (256 * v + 4 * i + j)) = leBytes 4 x.toNat := by
    refine (List.map_congr_left fun j hj => ?_).trans
      (map_range_getD (leBytes_length ..) (fun j => (gcOf s g).v.get 0 (256 * v + 4 * i + j)))
    rw [putV, gcOf_updGc_same]
    refine (get_foldl_set ..).trans ?_
    rw [if_pos (by omega), show 256 * v + 4 * i + j - 256 * v = 4 * i + j by omega,
      getElem?_flatMap_leBytes h (List.mem_range.1 hj)]
  rw [vElem, hread, ofLe_leBytes, Nat.mod_eq_of_lt (show x.toNat < 256 ^ 4 from x.isLt), BitVec.ofNat_toNat, BitVec.setWidth_eq]

/-! ### Reads of memory that no descriptor writes -/

theorem murk_clear {s : State} {a len : Nat} (h : ∀ r ∈ openRanges s, a + len ≤ r.1 ∨ r.1 + r.2 ≤ a) :
    murk s a len = (s, [], 0) := by
  unfold murk
  rw [List.filter_eq_nil_iff.2 fun r hr => by have := h r hr; simp; omega]
  rfl

theorem readList_noErrors {s : State} (h : s.cwErr = []) (l : List Nat) : readList s l = { s := s } := by
  induction l with
  | nil => rfl
  | cons cw l ih => rw [readList, readCw_clean (cleanCw_of_noErrors h cw), ih]

section
variable {s : State} {g vd rs1 rs2 fmt : Nat} {sc tr pr : Bool} (h : gcActs s g = true)
include h

theorem xpld_badFormat (ht : tileOk fmt sc = false) : exec (.xpld g vd rs1 rs2 fmt sc tr) s = .next (gcTrap s g 2) := by
  rw [exec_xpld, execXpld, if_neg (by simp [h])]
  cases Fmt.ofCode fmt with
  | none => rfl
  | some f => exact if_pos (by simp [ht])

theorem xpst_badFormat (ht : tileOk fmt sc = false ∨ sc = true ∧ tr = true) :
    exec (.xpst g vd rs1 rs2 fmt sc tr pr) s = .next (gcTrap s g 2) := by
  rw [exec_xpst, execXpst, if_neg (by simp [h])]
  cases Fmt.ofCode fmt with
  | none => rfl
  | some f => exact if_pos (by obtain ht | ⟨h1, h2⟩ := ht <;> simp [*])

variable {f : Fmt} (hf : Fmt.ofCode fmt = some f) (ht : tileOk fmt sc = true)
include hf ht

theorem xpld_refused (hr : ∃ o ∈ blockBytes f sc (blockElems (gx s g rs2).toNat tr),
      gcReach s g ((gx s g rs1).toNat + o) 1 false = false) :
    exec (.xpld g vd rs1 rs2 fmt sc tr) s = .next (gcTrap s g 5) := by
  rw [exec_xpld, execXpld, if_neg (by simp [h]), hf]
  refine (if_neg (by simp [ht])).trans (if_pos ?_)
  obtain ⟨o, ho, hno⟩ := hr
  rw [Bool.not_eq_true', List.all_eq_false]
  exact ⟨o, ho, by simp [hno]⟩

variable {bs : List (Nat × Byte)} {c : Conv} (hst : sc = true → tr = false)
  (hc : c = convert f sc false pr 1 0 ((List.range 32).map (fun i =>
    if fmt = 8 && !sc then ofInt (vElem s g vd i).toInt else ofF32 (vElem s g vd i))))
  (hbs : bs = (xpstBytes f sc (blockElems (gx s g rs2).toNat tr) c).map (fun e => ((gx s g rs1).toNat + e.1, e.2)))
  (hr : ∀ e ∈ bs, gcReach s g e.1 1 true = true)
include hst hc hbs hr

theorem xpst_blocked (hb : gcBlocked s g (gx s g rs1).toNat = true) :
    exec (.xpst g vd rs1 rs2 fmt sc tr pr) s = .next s := by
  subst hc hbs
  rw [exec_xpst, execXpst, if_neg (by simp [h]), hf]
  refine (if_neg ?_).trans ((if_neg ?_).trans (if_pos hb))
  · cases sc <;> simp_all
  · rw [Bool.not_eq_true', Bool.not_eq_false]
    exact List.all_eq_true.2 hr

theorem xpst_stores (hb : gcBlocked s g (gx s g rs1).toNat = false)
    (hok : (putMem (touch s (gx s g rs1).toNat (storedBytes fmt sc)) bs).2 = true) :
    exec (.xpst g vd rs1 rs2 fmt sc tr pr) s =
      .next (gcNext (countNonFin (putMem (touch s (gx s g rs1).toNat (storedBytes fmt sc)) bs).1
        (groupOf (gx s g rs2).toNat) c.count) g) := by
  subst hc hbs
  rw [exec_xpst, execXpst, if_neg (by simp [h]), hf]
  refine (if_neg ?_).trans ((if_neg ?_).trans ((if_neg (by simp [hb])).trans (if_pos hok)))
  · cases sc <;> simp_all
  · rw [Bool.not_eq_true', Bool.not_eq_false]
    exact List.all_eq_true.2 hr

end

/-- The signed bytes of an INT8 block as 32-bit numbers (06 R258). -/
def int8Elems (m : Memory) (a : Nat) (es : List (Nat × Nat)) : List W32 :=
  es.map (fun e => BitVec.ofInt 32 (memGet m (a + elemIndex e.1 e.2)).toInt)

theorem countNonFin_zero (s : State) (g : Option Nat) : countNonFin s g 0 = s := by
  cases g <;> rfl

theorem xpld_int8 {s : State} {g vd rs1 rs2 : Nat} {tr : Bool} (h : gcActs s g = true) (hc : s.cwErr = [])
    (hr : ∀ o ∈ blockBytes .int8 false (blockElems (gx s g rs2).toNat tr),
      gcReach s g ((gx s g rs1).toNat + o) 1 false = true) (hb : gcBlocked s g (gx s g rs1).toNat = false)
    (ho : ∀ r ∈ openRanges s, (gx s g rs1).toNat + storedBytes 8 false ≤ r.1 ∨ r.1 + r.2 ≤ (gx s g rs1).toNat) :
    exec (.xpld g vd rs1 rs2 8 false tr) s = .next (gcNext (putV s g vd
      ((int8Elems s.mem (gx s g rs1).toNat (blockElems (gx s g rs2).toNat tr)).flatMap (fun x => leBytes 4 x.toNat))) g) := by
  rw [exec_xpld, execXpld, if_neg (by simp [h])]
  refine (if_neg (by decide)).trans ((if_neg ?_).trans ?_)
  · rw [Bool.not_eq_true', Bool.not_eq_false]
    exact List.all_eq_true.2 hr
  · dsimp only
    rw [murk_clear ho]
    dsimp only
    rw [readList_noErrors hc, if_neg (by simp [hb])]
    simp only [decide_true, Bool.not_false, Bool.and_self, if_true, List.countP_map, List.flatMap_map]
    have hcount (es : List (Nat × Nat)) (f : Nat × Nat → W32) :
        es.countP ((fun x : W32 × Bool => x.2) ∘ fun e => (f e, false)) = 0 := List.countP_eq_zero.2 fun e _ => by simp
    rw [hcount _ (fun e => BitVec.ofInt 32 (stnByte (s, [], 0) { s := s } ((gx s g rs1).toNat + elemIndex e.1 e.2)).toInt),
      countNonFin_zero, int8Elems, List.flatMap_map]
    rfl

theorem nfCnt_group (s : State) (v n : Nat) :
    (bitOf v 9 = false → (countNonFin s (groupOf v) n).nfCnt = s.nfCnt) ∧
      (bitOf v 9 = true → ∀ k, (countNonFin s (groupOf v) n).nfCnt.get 0 k = s.nfCnt.get 0 k +
        if k = bits v 15 10 then n else 0) := by
  refine ⟨fun h => by rw [groupOf, h]; rfl, fun h k => ?_⟩
  rw [groupOf, if_pos h]
  by_cases hk : k = bits v 15 10
  · rw [if_pos hk, hk, nfCnt_countNonFin]
  · rw [if_neg hk, Nat.add_zero]
    unfold countNonFin
    dsimp only
    split
    · rfl
    · exact Table.get_upd_other (d := 0) s.nfCnt _ _ (· + n) hk

theorem countNonFin_parts (s : State) (g : Option Nat) (n : Nat) :
    countNonFin s g n = { s with nfCnt := (countNonFin s g n).nfCnt } := by
  unfold countNonFin
  split
  · split <;> rfl
  · rfl

/-- Settles O28: what stops an XPLD or XPST, the elements that one loads, and the bytes that the other stores. -/
theorem blocksOfTiles : Obligations.BlocksOfTiles := by
  unfold Obligations.BlocksOfTiles
  intro s g vd rs1 rs2 fmt sc tr pr h
  refine ⟨fun ht => ⟨xpld_badFormat h ht, xpst_badFormat h (.inl ht)⟩, fun h1 h2 => xpst_badFormat h (.inr ⟨h1, h2⟩),
    fun f hf ht hr => xpld_refused h hf ht hr, fun hc hr hb ho => ?_, fun f bs c hf ht hst hce hc hbs hr =>
      ⟨fun hb => xpst_blocked h hf ht hst hc hbs hr hb, fun hb => ?_⟩⟩
  · refine ⟨_, xpld_int8 h hc hr hb ho, rfl, fun i e he => ?_, ?_, ?_⟩
    · rw [vElem_gcNext]
      refine vElem_putV s g vd (int8Elems s.mem (gx s g rs1).toNat (blockElems (gx s g rs2).toNat tr)) ?_
      rw [int8Elems, List.getElem?_map, he]
      rfl
    · rw [gcOf_gcNext_same, putV, gcOf_updGc_same]
    · rw [gcOf_gcNext_same, putV, gcOf_updGc_same]
  · have hce' : (touch s (gx s g rs1).toNat (storedBytes fmt sc)).cwErr = [] := by rw [touch_cwErr, hce]
    obtain ⟨hm, hok, -, hget⟩ := putMem_clean (bs := bs) fun e _ => cleanCw_of_noErrors hce' _
    have hex := xpst_stores h hf ht hst hc hbs hr hb hok
    have ht := touch_parts s (gx s g rs1).toNat (storedBytes fmt sc)
    rw [touch_mem] at hget
    generalize (putMem (touch s (gx s g rs1).toNat (storedBytes fmt sc)) bs).1 = u at *
    have hparts := countNonFin_parts u (groupOf (gx s g rs2).toNat) c.count
    obtain ⟨hn0, hn1⟩ := nfCnt_group u (gx s g rs2).toNat c.count
    have hnf : u.nfCnt = s.nfCnt := by rw [hm, ht]
    rw [hnf] at hn0 hn1
    refine ⟨_, hex, fun b => ?_, fun b hb => ?_, ?_, ?_, hn0, hn1⟩
    · rw [gcNext_mem, hparts, memGet_memPut]
      exact hget b
    · rw [gcNext_mem, hparts]
      exact (hget b).trans (by rw [lastAt_eq_none hb]; rfl)
    · rw [gcOf_gcNext_same, hparts, hm, ht]
      rfl
    · rw [gcNext_stns, hparts, hm, ht]

end Sys2Proof.Machine
end

/-! ## General cores: hurdle and stream instructions, and how a core takes an instruction (06 R255 to R259) -/
section
set_option Elab.async false
namespace Sys2Proof.Machine
open Sys2Proof

theorem exec_xharrive (g rs1 rs2 : Nat) (s : State) : exec (.xharrive g rs1 rs2) s = execXharrive g rs1 rs2 s := rfl

theorem exec_xhsignal (g rs1 rs2 : Nat) (s : State) : exec (.xhsignal g rs1 rs2) s = execXhsignal g rs1 rs2 s := rfl

theorem exec_xhwait (g rd rs1 rs2 : Nat) (long : Bool) (s : State) :
    exec (.xhwait g rd rs1 rs2 long) s = execXhwait g rd rs1 rs2 long s := rfl

theorem exec_xhread (g rd rs1 : Nat) (s : State) : exec (.xhread g rd rs1) s = execXhread g rd rs1 s := rfl

theorem exec_xstrm (g rd rs1 rs2 : Nat) (s : State) : exec (.xstrm g rd rs1 rs2) s = execXstrm g rd rs1 rs2 s := rfl

theorem exec_xrearm (g rs1 rs2 : Nat) (s : State) : exec (.xrearm g rs1 rs2) s = execXrearm g rs1 rs2 s := rfl

/-! ### Hurdle instructions -/

/-- A general core waits for a counter, or for one that this module does not hold (log 44). -/
def gcWaits (g A : Nat) (here : Bool) (t : W32) (long : Bool) (rd : Nat) (s : State) : State :=
  updGc s g (fun x => { x with
    state := .xhwait
    waitAddr := A
    waitCtr := if here then some (addrCtr A) else none
    released := none
    target := t
    long := long
    rd := rd
    wdog := 0 })

/-- The trap of a bad hurdle address (08 R304, R332). -/
def hurdleTrap (s : State) (g : Nat) : State :=
  gcTrap (raise (hurErr s (g / 12) 1 (8 * (g % 12)) true) 0x0302 (g / 12) (8 * (g % 12)) none) g 7

theorem gcHurdle_good {g a : Nat} {s : State} (h : gcActs s g = true) (ha : addrBad s a = false) (f : State → Out) :
    gcHurdle g a s f = f s := by
  rw [gcHurdle, if_neg (by simp [h]), if_neg (by simp [ha])]

theorem gcHurdle_bad {g a : Nat} {s : State} (h : gcActs s g = true) (ha : addrBad s a = true) (f : State → Out) :
    gcHurdle g a s f = .next (hurdleTrap s g) := by
  rw [gcHurdle, if_neg (by simp [h]), if_pos ha]
  rfl

section
variable {s : State} {g rs1 A : Nat} (h : gcActs s g = true) (hA : A = (gx s g rs1).toNat % 2 ^ 32)
include h hA

theorem hurdle_trap (rd rs2 : Nat) (long : Bool) (hb : addrBad s A = true) :
    exec (.xharrive g rs1 rs2) s = .next (hurdleTrap s g) ∧ exec (.xhsignal g rs1 rs2) s = .next (hurdleTrap s g) ∧
      exec (.xhwait g rd rs1 rs2 long) s = .next (hurdleTrap s g) ∧ exec (.xhread g rd rs1) s = .next (hurdleTrap s g) := by
  refine ⟨?_, ?_, ?_, ?_⟩
  · rw [exec_xharrive, execXharrive, ← hA, gcHurdle_bad h hb]
  · rw [exec_xhsignal, execXhsignal, ← hA, gcHurdle_bad h hb]
  · rw [exec_xhwait, execXhwait, ← hA, gcHurdle_bad h hb]
  · rw [exec_xhread, execXhread, ← hA, gcHurdle_bad h hb]

variable (hb : addrBad s A = false)
include hb

theorem hurdle_adds (rs2 : Nat) :
    exec (.xharrive g rs1 rs2) s = .next (gcNext (signalTo s g A ((gx s g rs2).setWidth 32)) g) ∧
      exec (.xhsignal g rs1 rs2) s = .next (gcNext (signalTo s g A ((gx s g rs2).setWidth 32)) g) := by
  constructor
  · rw [exec_xharrive, execXharrive, ← hA, gcHurdle_good h hb, ← hA]
  · rw [exec_xhsignal, execXhsignal, ← hA, gcHurdle_good h hb, ← hA]

theorem xhread_here (rd : Nat) (hh : heldHere s A = true) :
    exec (.xhread g rd rs1) s = .next (gcNext (putGx s g rd ((ctrVal s (addrCtr A)).setWidth 64)) g) := by
  rw [exec_xhread, execXhread, ← hA, gcHurdle_good h hb]
  dsimp only
  rw [← hA, if_pos hh]

theorem xhread_elsewhere (rd : Nat) (hh : heldHere s A = false) :
    exec (.xhread g rd rs1) s = .next (gcNext (putGx { s with freeCtr := s.freeCtr + 1 } g rd
      (BitVec.ofNat 64 ((Config.freeWord s.freeCtr).toNat % 2 ^ 32))) g) := by
  rw [exec_xhread, execXhread, ← hA, gcHurdle_good h hb]
  dsimp only
  rw [← hA, hh]
  rfl

theorem xhwait_passes (rd rs2 : Nat) (long : Bool) (hh : heldHere s A = true)
    (hs : satisfied (ctrVal s (addrCtr A)) ((gx s g rs2).setWidth 32) = true)
    (hc : cutOff s (.gc g) (addrCtr A) = false) :
    exec (.xhwait g rd rs1 rs2 long) s = .next (gcNext (putGx s g rd ((ctrVal s (addrCtr A)).setWidth 64)) g) := by
  rw [exec_xhwait, execXhwait, ← hA, gcHurdle_good h hb]
  dsimp only
  rw [← hA, hh, hs, hc]
  rfl

theorem xhwait_here (rd rs2 : Nat) (long : Bool) (hh : heldHere s A = true)
    (hs : satisfied (ctrVal s (addrCtr A)) ((gx s g rs2).setWidth 32) = false ∨
      cutOff s (.gc g) (addrCtr A) = true) :
    exec (.xhwait g rd rs1 rs2 long) s =
      .next (register (gcWaits g A true ((gx s g rs2).setWidth 32) long rd s) (.gc g) (addrCtr A)) := by
  rw [exec_xhwait, execXhwait, ← hA, gcHurdle_good h hb]
  dsimp only
  rw [← hA, hh]
  refine (if_neg ?_).trans rfl
  rcases hs with hs | hs <;> simp [hs]

theorem xhwait_elsewhere (rd rs2 : Nat) (long : Bool) (hh : heldHere s A = false) :
    exec (.xhwait g rd rs1 rs2 long) s = .next (gcWaits g A false ((gx s g rs2).setWidth 32) long rd s) := by
  rw [exec_xhwait, execXhwait, ← hA, gcHurdle_good h hb]
  dsimp only
  rw [← hA, hh]
  rfl

end

theorem heldHere_of {s : State} {A : Nat} (h : addrModule s A = s.moduleId ∨ isJobHurdle s (addrCtr A) = true) :
    heldHere s A = true := by
  rcases h with h | h <;> simp [heldHere, h]

theorem heldHere_not {s : State} {A : Nat} (h : addrModule s A ≠ s.moduleId) (hj : isJobHurdle s (addrCtr A) = false) :
    heldHere s A = false := by
  simp [heldHere, h, hj]

theorem gcOf_register (s : State) (w : Waiter) (c : Ctr) (g : Nat) : gcOf (register s w c) g = gcOf s g := by
  rw [register_parts]
  rfl

/-- What a general core that waits for a counter of this module leaves. -/
theorem gcWaits_register (s : State) (g A : Nat) (t : W32) (long : Bool) (rd : Nat) {u : State}
    (hu : u = register (gcWaits g A true t long rd s) (.gc g) (addrCtr A)) :
    u.stns = s.stns ∧
      gcOf u g = { gcOf s g with
        state := .xhwait
        waitAddr := A
        waitCtr := some (addrCtr A)
        released := none
        target := t
        long := long
        rd := rd
        wdog := 0 } ∧
      (registers (addrCtr A) = true → cutOff s (.gc g) (addrCtr A) = false →
        u.waiters = s.waiters ++ [(.gc g, addrCtr A)]) := by
  subst hu
  refine ⟨?_, ?_, fun hr hc => ?_⟩
  · rw [register_parts]
    rfl
  · rw [gcOf_register, gcWaits, gcOf_updGc_same]
    rfl
  · rw [register, hr, show cutOff (gcWaits g A true t long rd s) (.gc g) (addrCtr A) = false from hc]
    rfl

/-! ### A trap, a register write, and the core's passing on -/

theorem gcOf_gcTrap (s : State) (g cause : Nat) : gcOf (gcTrap s g cause) g =
    { gcOf s g with state := .halted, waitCtr := none, released := none, wdog := 0, mcause := cause } := by
  rw [gcTrap, wantStop_parts]
  exact gcOf_updGc_same s g (fun c => { c with
    state := .halted, waitCtr := none, released := none, wdog := 0, mcause := cause })

theorem gcTrap_stepErr {s : State} (h : s.jobState = 3) (g cause : Nat) : (gcTrap s g cause).stepErr = true := by
  rw [gcTrap, wantStop, if_neg]
  exact not_not.2 h

theorem gcOf_hurErr (s : State) (d bit station : Nat) (b : Bool) (g : Nat) : gcOf (hurErr s d bit station b) g = gcOf s g :=
  rfl

theorem gcOf_putGx (s : State) (g r : Nat) (v : W64) : gcOf (putGx s g r v) g =
    { gcOf s g with x := if r = 0 then (gcOf s g).x else (gcOf s g).x.set r v } := by
  unfold putGx
  split
  · rfl
  · exact gcOf_updGc_same ..

theorem putGx_parts (s : State) (g r : Nat) (v : W64) : putGx s g r v = { s with clus := (putGx s g r v).clus } := by
  unfold putGx
  split <;> rfl

theorem clu_updGc_other (s : State) {g h : Nat} (f : Gc → Gc) (hh : h ≠ g) : clu (updGc s g f) h = clu s h :=
  clu_updClu_other _ _ _ _ hh

theorem clu_putGx_other (s : State) {g h : Nat} (r : Nat) (v : W64) (hh : h ≠ g) : clu (putGx s g r v) h = clu s h := by
  unfold putGx
  split
  · rfl
  · exact clu_updGc_other s _ hh

theorem gx_gcNext_putGx (s : State) (g rd r : Nat) (v : W64) : gx (gcNext (putGx s g rd v) g) g r =
    if r ≠ 0 ∧ r = rd then v else gx s g r := by
  rw [gx, gcOf_gcNext_same, gcOf_putGx]
  by_cases hr : r = 0
  · rw [if_pos hr, if_neg (by simp [hr]), gx, if_pos hr]
  · rw [if_neg hr]
    by_cases hd : r = rd
    · subst hd
      rw [if_pos (⟨hr, rfl⟩ : r ≠ 0 ∧ r = r), if_neg hr, Table.get_set_same]
    · rw [if_neg (fun h => hd h.2 : ¬ (r ≠ 0 ∧ r = rd)), gx, if_neg hr]
      dsimp only
      split
      · rfl
      · exact Table.get_set_other _ _ _ _ _ hd

/-! ### The instruction at the program counter -/

theorem ofLe_parcel {v : Nat} (h : v < 65536) : ofLe (leBytes 2 v) = v := by
  rw [ofLe_leBytes, Nat.mod_eq_of_lt (by omega)]

/-- A command is what the core makes of its outcome: no command stops the module. -/
theorem exec_of_icxel {i : Instr} {s t : State} {f : State → Out} (hi : exec i s = f s) (ht : t = afterOut s (f s)) :
    exec i s = .next t := by
  obtain ⟨u, hu, -⟩ := exec_kept i (s := s) (.refl s)
  rw [hu, ht, ← hi, hu]
  rfl

/-- An Icxel instruction runs where the funct7 bits that it does not use are 0, and is illegal else. -/
theorem icxel_runs {s : State} {g w : Nat} {ok : Bool} {i : Instr} {f : State → Out} (hw : w % 128 = 0x0B)
    (hi : exec i s = f s) (hg : gcIcxel s g w = if ok then afterOut s (f s) else gcIllegal s g) :
    (ok = true → exec i s = .next (gcInstr s g 4 w)) ∧ (ok = false → gcInstr s g 4 w = gcTrap s g 2) := by
  rw [gcInstr_custom hw, hg]
  refine ⟨fun h => ?_, fun h => ?_⟩
  · exact exec_of_icxel hi (by rw [if_pos h])
  · rw [if_neg (by simp [h])]
    rfl

/-- An instruction that acts on the core alone. -/
theorem gcInstr_core {s : State} {g len w : Nat} (h : w % 128 ∉ [0x03, 0x07, 0x0B, 0x23, 0x27, 0x2F, 0x73]) {c : Gc}
    (hc : rvStep s.timeNs s.freeCtr (gcOf s g) len w = some c) :
    gcInstr s g len w = updGc (draw s).1 g (fun _ => c) := by
  rw [gcInstr_own h, draw]
  dsimp only
  rw [hc]
  rfl

/-- A core's passing on after a register write changes the core alone. -/
theorem passing_changes_core (s : State) (g rd r : Nat) (v : W64) :
    (rd ≠ 0 → gx (gcNext (putGx s g rd v) g) g rd = v) ∧ gx s g 0 = 0 ∧
    (r ≠ rd → gx (gcNext (putGx s g rd v) g) g r = gx s g r) ∧
    (gcOf (gcNext (putGx s g rd v) g) g).pc = ((gcOf s g).pc + 4) % 2 ^ 64 ∧
    (gcOf (gcNext (putGx s g rd v) g) g).state = (gcOf s g).state ∧
    (gcOf (gcNext (putGx s g rd v) g) g).f = (gcOf s g).f ∧ (gcOf (gcNext (putGx s g rd v) g) g).v = (gcOf s g).v ∧
    gcNext (putGx s g rd v) g = { s with clus := (gcNext (putGx s g rd v) g).clus } ∧
    (∀ h, h ≠ g → clu (gcNext (putGx s g rd v) g) h = clu s h) ∧
    (∀ cause, (gcOf (gcTrap s g cause) g).state = .halted ∧ (gcOf (gcTrap s g cause) g).mcause = cause ∧
      (s.jobState = 3 → (gcTrap s g cause).stepErr = true)) := by
  have hgc : gcOf (gcNext (putGx s g rd v) g) g = _ := gcOf_gcNext_same ..
  rw [gcOf_putGx] at hgc
  refine ⟨fun h => ?_, rfl, fun h => ?_, by rw [hgc], by rw [hgc], by rw [hgc], by rw [hgc], ?_, fun h hh => ?_,
    fun cause => ?_⟩
  · rw [gx_gcNext_putGx, if_pos ⟨h, rfl⟩]
  · rw [gx_gcNext_putGx, if_neg fun k => h k.2]
  · rw [gcNext, gcPass, putGx_parts]
    rfl
  · exact (clu_updGc_other _ _ hh).trans (clu_putGx_other s rd v hh)
  · rw [gcOf_gcTrap]
    exact ⟨rfl, rfl, fun h => gcTrap_stepErr h g cause⟩

/-- An Icxel instruction that does not use funct7. -/
theorem icxel_unused {s : State} {g w : Nat} {i : Instr} {f : State → Out} (hw : w % 128 = 0x0B) (hi : exec i s = f s)
    (hg : gcIcxel s g w = if decide (rvF7 w = 0) then afterOut s (f s) else gcIllegal s g) :
    (rvF7 w = 0 → exec i s = .next (gcInstr s g 4 w)) ∧ (rvF7 w ≠ 0 → gcInstr s g 4 w = gcTrap s g 2) := by
  obtain ⟨hy, hn⟩ := icxel_runs hw hi hg
  exact ⟨fun h => hy (decide_eq_true h), fun h => hn (decide_eq_false h)⟩

/-- An Icxel instruction that uses the low bits of funct7, below `n`. -/
theorem icxel_below {s : State} {g w n : Nat} {i : Instr} {f : State → Out} (hw : w % 128 = 0x0B) (hi : exec i s = f s)
    (hg : gcIcxel s g w = if decide (rvF7 w < n) then afterOut s (f s) else gcIllegal s g) :
    (rvF7 w < n → exec i s = .next (gcInstr s g 4 w)) ∧ (n ≤ rvF7 w → gcInstr s g 4 w = gcTrap s g 2) := by
  obtain ⟨hy, hn⟩ := icxel_runs hw hi hg
  exact ⟨fun h => hy (decide_eq_true h), fun h => hn (decide_eq_false (by omega))⟩

/-- Settles O27: the hurdle and stream instructions, what one changes of its core, and how a core takes its words. -/
theorem generalCoreInstructions : Obligations.GeneralCoreInstructions := by
  unfold Obligations.GeneralCoreInstructions
  refine ⟨fun s g rd rs1 rs2 A h hA => ⟨fun hb => ?_, fun hb long => ?_, fun e he => ⟨fun hen => ?_, fun hen => ?_⟩⟩,
    passing_changes_core, fun s g lo hi h hpc hlo h4 hhi h1 h2 => ?_, fun s g w rd rs1 rs2 f7 _ hw hrd h1 h2 hf => ?_,
    fun s g len w hw => ⟨fun c hc => ?_, fun hn => ?_⟩⟩
  · obtain ⟨harr, hsig⟩ := hurdle_adds h hA hb rs2
    refine ⟨harr, hsig, fun hh => ?_, fun hm hj => ?_⟩
    · have hh' := heldHere_of hh
      refine ⟨xhread_here h hA hb rd hh', fun long hs hc => xhwait_passes h hA hb rd rs2 long hh' hs hc, fun long hs => ?_⟩
      exact ⟨_, xhwait_here h hA hb rd rs2 long hh' hs, gcWaits_register s g A _ long rd rfl⟩
    · have hh' := heldHere_not hm hj
      exact ⟨xhread_elsewhere h hA hb rd hh', fun long => xhwait_elsewhere h hA hb rd rs2 long hh'⟩
  · obtain ⟨h1, h2, h3, h4⟩ := hurdle_trap h hA rd rs2 long hb
    refine ⟨_, rfl, h1, h2, h3, h4, ?_⟩
    rw [gcOf_gcTrap, gcOf_raise, gcOf_hurErr]
    exact ⟨rfl, rfl, rfl⟩
  · subst he
    rw [exec_xrearm, exec_xstrm, execXrearm, execXstrm, h]
    dsimp only
    rw [hen]
    exact ⟨rfl, rfl⟩
  · subst he
    rw [exec_xrearm, exec_xstrm, execXrearm, execXstrm, h]
    dsimp only
    rw [hen]
    exact ⟨rfl, rfl⟩
  · rw [gcStep_word h hpc (by rw [ofLe_parcel hlo]; exact h4) h1 h2, ofLe_parcel hlo, ofLe_parcel hhi]
  · have hk : rvF3 w < 8 := by
      unfold rvF3 bits
      exact Nat.mod_lt _ (by decide)
    have hbits : bits w 14 12 = rvF3 w := rfl
    rw [hbits]
    subst hrd h1 h2 hf
    generalize hf3 : rvF3 w = k at hk
    interval_cases k
    · exact icxel_unused hw (exec_xharrive g (rvR1 w) (rvR2 w) s) (by unfold gcIcxel; simp only [hf3])
    · have hb := icxel_below (n := 2) hw (exec_xhwait g (rvRd w) (rvR1 w) (rvR2 w) (bitOf (rvF7 w) 0) s)
        (show gcIcxel s g w = _ by unfold gcIcxel; simp only [hf3])
      refine ⟨fun h => ?_, hb.2⟩
      have hlong : bitOf (rvF7 w) 0 = decide (rvF7 w = 1) := by
        have : rvF7 w < 2 := h
        interval_cases rvF7 w <;> rfl
      rw [hlong] at hb
      exact hb.1 h
    · exact icxel_unused hw (exec_xhsignal g (rvR1 w) (rvR2 w) s) (by unfold gcIcxel; simp only [hf3])
    · exact icxel_unused hw (exec_xstrm g (rvRd w) (rvR1 w) (rvR2 w) s) (by unfold gcIcxel; simp only [hf3])
    · exact icxel_unused hw (exec_xrearm g (rvR1 w) (rvR2 w) s) (by unfold gcIcxel; simp only [hf3])
    · exact icxel_below hw (exec_xpld g (rvRd w) (rvR1 w) (rvR2 w) (rvF7 w % 16) (bitOf (rvF7 w) 4) (bitOf (rvF7 w) 5) s)
        (by unfold gcIcxel; simp only [hf3])
    · exact (icxel_runs (ok := true) hw (exec_xpst g (rvRd w) (rvR1 w) (rvR2 w) (rvF7 w % 16) (bitOf (rvF7 w) 4)
        (bitOf (rvF7 w) 5) (bitOf (rvF7 w) 6) s) (by unfold gcIcxel; simp only [hf3])).1 rfl
    · exact icxel_unused hw (exec_xhread g (rvRd w) (rvR1 w) s) (by unfold gcIcxel; simp only [hf3])
  · have hi := gcInstr_core hw hc
    refine ⟨by rw [hi, gcOf_updGc_same], fun k hk => ?_, by rw [hi]; rfl⟩
    rw [hi]
    exact clu_updGc_other _ _ hk
  · rw [gcInstr_own hw, draw]
    dsimp only
    rw [hn]
    rfl

end Sys2Proof.Machine
end

/-! ## General cores: loads, stores, exceptions and INVSPD (06 R255, R256; 11 R409; 13 R455) -/
section
set_option Elab.async false
namespace Sys2Proof.Machine
open Sys2Proof

theorem exec_generalCoreLoadStore (g : Nat) (op : GcOp) (a size : Nat) (s : State) :
    exec (.generalCoreLoadStore g op a size) s = execGeneralCoreLoadStore g op a size s := rfl

theorem exec_gcRunEndEcall (g : Nat) (s : State) : exec (.gcRunEndEcall g) s = execGcRunEndEcall g s := rfl

theorem exec_gcException (g cause : Nat) (s : State) : exec (.gcException g cause) s = execGcException g cause s := rfl

theorem exec_invspd (g retries : Nat) (s : State) : exec (.invspd g retries) s = execInvspd g retries s := rfl

/-! ### What a load gives its register, and what a store takes from one -/

theorem length_gcStored {s : State} {g : Nat} {op : GcOp} {size : Nat} {bs : List Byte} (h : gcStored s g op size = some bs) :
    bs.length = size := by
  cases op <;> simp only [gcStored, reduceCtorEq, Option.some.injEq] at h <;> subst h <;> simp

/-- Byte `k` of a number laid out in bytes. -/
theorem leBytes_getD (n v k : Nat) (h : k < n) : (leBytes n v).getD k 0 = BitVec.ofNat 8 (v / 256 ^ k) := by
  induction n generalizing v k with
  | zero => omega
  | succ n ih =>
    cases k with
    | zero => simp [leBytes]
    | succ k => simpa [leBytes, Nat.pow_succ', Nat.div_div_eq_div_mul] using ih (v / 256) k (by omega)

theorem gcStored_byte (s : State) (g rs : Nat) {size k : Nat} (hk : k < size) :
    (gcStored s g (.store rs) size).map (fun l => l.getD k 0) = some ((gx s g rs).extractLsb' (8 * k) 8) := by
  rw [gcStored, Option.map_some, leBytes_getD _ _ _ hk]
  refine congrArg some (BitVec.eq_of_toNat_eq ?_)
  rw [BitVec.extractLsb'_toNat, BitVec.toNat_ofNat, Nat.shiftRight_eq_div_pow, pow_mul]
  rfl

/-- The sign extension of the low bytes of a number has their value as a signed number. -/
theorem sx_toInt {size : Nat} (h : size = 1 ∨ size = 2 ∨ size = 4 ∨ size = 8) (v : Nat) :
    (sx (8 * size) v).toInt = (BitVec.ofNat (8 * size) v).toInt := by
  have hsh (k : Nat) : (BitVec.ofNat 64 v <<< k).toNat = v % 2 ^ 64 * 2 ^ k % 2 ^ 64 := by
    rw [BitVec.toNat_shiftLeft, BitVec.toNat_ofNat, Nat.shiftLeft_eq]
  rw [sx, BitVec.toInt_sshiftRight, BitVec.toInt_eq_toNat_bmod, BitVec.toInt_eq_toNat_bmod, hsh, BitVec.toNat_ofNat,
    Int.shiftRight_eq_div_pow, Int.bmod_def, Int.bmod_def]
  obtain rfl | rfl | rfl | rfl := h <;> norm_num <;> omega

theorem length_memRead (m : Memory) (a n : Nat) : (memRead m a n).length = n := by simp [memRead]

theorem gcOf_gcLoaded_load {s : State} {g rd : Nat} {sg : Bool} {bs : List Byte} (h : rd ≠ 0) :
    gx (gcNext (gcLoaded s g (.load rd sg) bs) g) g rd =
      if sg then sx (8 * bs.length) (ofLe bs) else BitVec.ofNat 64 (ofLe bs) :=
  (gx_gcNext_putGx ..).trans (if_pos ⟨h, rfl⟩)

/-- A load goes to its core alone. -/
theorem gcLoaded_reached (s : State) (g : Nat) (op : GcOp) (bs : List Byte) (r : Table Bool) :
    gcNext (gcLoaded { s with reached := r } g op bs) g = { gcNext (gcLoaded s g op bs) g with reached := r } := by
  cases op with
  | load rd sg =>
    unfold gcLoaded putGx
    dsimp only
    split <;> rfl
  | _ => rfl

section
variable {s : State} {g a size : Nat} {op : GcOp} (h : gcActs s g = true) (hs : gcSizeOk op size = true)
include h hs

section
variable (hop : gcStored s g op size = none)
include hop

theorem load_accesses : exec (.generalCoreLoadStore g op a size) s =
    .next (gcAfter s g (gcLoad s g a size) (fun t bs => gcNext (gcLoaded t g op bs) g)) := by
  rw [exec_generalCoreLoadStore, execGeneralCoreLoadStore, if_neg (by simp [h, hs]), gcLoadStore, hop]
  rfl

theorem load_register (hr : gcRegOk s g a size false = true) : exec (.generalCoreLoadStore g op a size) s =
    .next (gcNext (gcLoaded (readReg s (a - regSpan) size).1 g op (leBytes size (readReg s (a - regSpan) size).2)) g) := by
  rw [load_accesses h hs hop, gcLoad, if_pos hr]
  rfl

variable (hr : gcRegOk s g a size false = false)
include hr

theorem load_refused (hm : gcReach s g a size false = false) :
    exec (.generalCoreLoadStore g op a size) s = .next (gcTrap s g 5) := by
  rw [load_accesses h hs hop, gcLoad, if_neg (by simp [hr]), if_pos (by simp [hm])]
  rfl

variable (hm : gcReach s g a size false = true)
include hm

theorem load_blocked (hb : gcBlocked s g a = true) : exec (.generalCoreLoadStore g op a size) s = .next s := by
  rw [load_accesses h hs hop, gcLoad, if_neg (by simp [hr]), if_neg (by simp [hm]), gcBytes, if_pos hb]
  rfl

theorem load_memory (hb : gcBlocked s g a = false) (hc : s.cwErr = [])
    (ho : ∀ r ∈ openRanges s, a + size ≤ r.1 ∨ r.1 + r.2 ≤ a) : exec (.generalCoreLoadStore g op a size) s =
      .next (gcNext (gcLoaded (touch s a size) g op (memRead s.mem a size)) g) := by
  rw [load_accesses h hs hop, gcLoad, if_neg (by simp [hr]), if_neg (by simp [hm]), gcBytes, if_neg (by simp [hb]),
    murk_clear ho]
  dsimp only
  rw [readMem_noErrors hc]
  have hbytes : (List.range size).map (fun i => stnByte (s, [], 0) { s := touch s a size } (a + i)) = memRead s.mem a size := by
    refine List.map_congr_left fun i _ => ?_
    exact (readByte_of_clean (touch s a size) (a + i)).trans (by rw [touch_mem])
  rw [hbytes]
  rfl

end

section
variable {bs : List Byte} (hop : gcStored s g op size = some bs)
include hop

theorem store_accesses : exec (.generalCoreLoadStore g op a size) s =
    .next (gcAfter s g (gcStore s g a bs) (fun t _ => gcNext t g)) := by
  rw [exec_generalCoreLoadStore, execGeneralCoreLoadStore, if_neg (by simp [h, hs]), gcLoadStore, hop]
  rfl

theorem store_register (hr : gcRegOk s g a size true = true) : exec (.generalCoreLoadStore g op a size) s =
    .next (gcNext (writeReg s (a - regSpan) size (ofLe bs)) g) := by
  rw [store_accesses h hs hop, gcStore, length_gcStored hop, if_pos hr]
  rfl

variable (hr : gcRegOk s g a size true = false)
include hr

theorem store_refused (hm : gcReach s g a size true = false) :
    exec (.generalCoreLoadStore g op a size) s = .next (gcTrap s g 7) := by
  rw [store_accesses h hs hop, gcStore, length_gcStored hop, if_neg (by simp [hr]), if_pos (by simp [hm])]
  rfl

variable (hm : gcReach s g a size true = true)
include hm

theorem store_blocked (hb : gcBlocked s g a = true) : exec (.generalCoreLoadStore g op a size) s = .next s := by
  rw [store_accesses h hs hop, gcStore, length_gcStored hop, if_neg (by simp [hr]), if_neg (by simp [hm]), if_pos hb]
  rfl

theorem store_memory (hb : gcBlocked s g a = false) (hok : (writeMem s a bs).2 = true) :
    exec (.generalCoreLoadStore g op a size) s = .next (gcNext (writeMem s a bs).1 g) := by
  rw [store_accesses h hs hop, gcStore, length_gcStored hop, if_neg (by simp [hr]), if_neg (by simp [hm]),
    if_neg (by simp [hb]), if_pos hok]
  rfl

end

end

/-! ### The end of a core's part, exceptions, and INVSPD -/

theorem gcRunEnd_ends {s : State} {g : Nat} (h : gcActs s g = true) (h17 : gx s g 17 = 0) : ∃ t,
    exec (.gcRunEndEcall g) s = .next t ∧ (gcOf t g).state = .halted ∧ t.run.gcEnded = s.run.gcEnded.set g true ∧
      t.stns = s.stns ∧ SameBytes s t ∧ (∀ h, h ≠ g → clu t h = clu s h) := by
  have hex : exec (.gcRunEndEcall g) s = .next (updGc { s with run := { s.run with gcEnded := s.run.gcEnded.set g true } } g
      (fun c => { c with state := .halted })) := by
    rw [exec_gcRunEndEcall, execGcRunEndEcall, if_neg (by simp [h, h17])]
  refine ⟨_, hex, ?_, rfl, rfl, fun _ => rfl, fun k hk => ?_⟩
  · rw [gcOf_updGc_same]
  · exact clu_updGc_other { s with run := { s.run with gcEnded := s.run.gcEnded.set g true } } _ hk

theorem gcException_traps {s : State} {g cause : Nat} (h : gcActs s g = true)
    (hc : cause ≠ 8 ∨ (gx s g 17 ≠ 0 ∧ gx s g 17 ≠ 0x100)) : exec (.gcException g cause) s = .next (gcTrap s g cause) := by
  rw [exec_gcException, execGcException]
  refine if_neg ?_
  rcases hc with hc | ⟨h1, h2⟩
  · simp [h, hc]
  · simp only [h, Bool.not_true, Bool.false_or, Bool.and_eq_true, decide_eq_true_eq, Bool.or_eq_true]
    exact fun hk => hk.2.elim h1 h2

/-- The matrix that an INVSPD writes. -/
def inverted (d n retries : Nat) : List Byte := if retries = 4 then identityBytes n else inverseBytes d n

theorem length_inverted (d n retries : Nat) : (inverted d n retries).length = 4 * n * n := by
  unfold inverted identityBytes inverseBytes
  split <;> rw [length_flatMap_leBytes, Nat.mul_assoc]

/-- What follows the third retry that fails (11 R409, R411). -/
def retriesFailed (s : State) (g : Nat) : State :=
  raise (setBit (bump s (regKey 10 0x628) 0 32 1) (regKey 10 0x620) 3) 0x0707 (g / 12) (8 * (g % 12)) none

/-- The state of an INVSPD once its matrix is written. -/
def invspdDone (s : State) (a n retries : Nat) : State :=
  (writeMem (draw (touch s a (4 * n * n))).1 a (inverted s.freeCtr n retries)).1

section
variable {s : State} {g retries a n : Nat} (h : gcActs s g = true) (h17 : gx s g 17 = 0x100) (hr : retries ≤ 4)
  (ha : a = (gx s g 10).toNat) (hn : n = (gx s g 11).toNat)
include h h17 hr hn

theorem invspd_badSize (hsz : n = 0 ∨ 512 < n) : exec (.invspd g retries) s = .next (gcNext (putGx s g 10 (-1)) g) := by
  subst hn
  rw [exec_invspd, execInvspd, if_neg (by simp [h, h17]; omega)]
  exact if_pos (by simpa using hsz)

include ha in
theorem invspd_inverts (h1 : 1 ≤ n) (h2 : n ≤ 512) (hrd : gcReach s g a (4 * n * n) false = true)
    (hwr : gcReach s g a (4 * n * n) true = true) (hc : s.cwErr = [])
    (hok : (writeMem (draw (touch s a (4 * n * n))).1 a (inverted s.freeCtr n retries)).2 = true) :
    exec (.invspd g retries) s = .next (gcNext (putGx (if retries = 4 then retriesFailed (invspdDone s a n retries) g
      else invspdDone s a n retries) g 10 (BitVec.ofNat 64 retries)) g) := by
  rw [exec_invspd, execInvspd, if_neg (by simp [h, h17]; omega)]
  dsimp only
  rw [← ha, ← hn, if_neg (by simp; omega), hrd, hwr, readMem_noErrors hc]
  have hctr : (touch s a (4 * n * n)).freeCtr = s.freeCtr := by rw [touch_parts]
  rw [inverted, ← hctr] at hok
  refine (if_neg (by simp)).trans ((if_neg (by simp)).trans ((if_neg (by simp)).trans ((if_neg ?_).trans ?_)))
  · rw [Bool.not_eq_true, Bool.not_eq_false']
    exact hok
  · rw [invspdDone, inverted, ← hctr]
    rfl

end

/-- A write over a memory without errors records none. -/
theorem writeMem_noErrors {u : State} (hc : u.cwErr = []) (a : Nat) (bs : List Byte) : (writeMem u a bs).1 = { u with
    mem := (writeMem u a bs).1.mem
    cwErr := (writeMem u a bs).1.cwErr
    writeBack := (writeMem u a bs).1.writeBack
    reached := (writeMem u a bs).1.reached } := by
  obtain ⟨hw, -⟩ := putMem_clean (s := touch u a bs.length) (bs := numbered a bs) fun e _ =>
    cleanCw_of_noErrors (by rw [touch_cwErr, hc]) _
  have hv := touch_parts u a bs.length
  rw [writeMem_eq]
  unfold OnlyMemory at hw
  generalize touch u a bs.length = v at hw hv ⊢
  generalize (putMem v (numbered a bs)).1 = t at hw ⊢
  rw [hw, hv]

/-- What the write of an INVSPD leaves. -/
theorem invspdDone_spec {s : State} (hc : s.cwErr = []) (a n retries : Nat) :
    (writeMem (draw (touch s a (4 * n * n))).1 a (inverted s.freeCtr n retries)).2 = true ∧
      memRead (invspdDone s a n retries).mem a (4 * n * n) = inverted s.freeCtr n retries ∧
      (∀ b, b < a ∨ a + 4 * n * n ≤ b → memGet (invspdDone s a n retries).mem b = memGet s.mem b) ∧
      invspdDone s a n retries = { s with
        mem := (invspdDone s a n retries).mem
        cwErr := (invspdDone s a n retries).cwErr
        writeBack := (invspdDone s a n retries).writeBack
        reached := (invspdDone s a n retries).reached
        freeCtr := s.freeCtr + 1 } := by
  have hlen := length_inverted s.freeCtr n retries
  have hcw : (draw (touch s a (4 * n * n))).1.cwErr = [] := (touch_cwErr ..).trans hc
  have hmem : (draw (touch s a (4 * n * n))).1.mem = s.mem := touch_mem ..
  obtain ⟨hok, -, hget⟩ := writeMem_clean (s := (draw (touch s a (4 * n * n))).1) (a := a)
    (bs := inverted s.freeCtr n retries) fun i _ => cleanCw_of_noErrors hcw _
  have hget' (b : Nat) : memGet (invspdDone s a n retries).mem b =
      if a ≤ b then ((inverted s.freeCtr n retries)[b - a]?).getD (memGet s.mem b) else memGet s.mem b := by
    rw [invspdDone, hget, hmem]
  refine ⟨hok, ?_, fun b hb => ?_, ?_⟩
  · rw [← map_range_getD hlen (fun i => memGet s.mem (a + i)), memRead]
    refine List.map_congr_left fun i _ => ?_
    rw [hget', if_pos (by omega), Nat.add_sub_cancel_left]
  · rw [hget']
    split
    · rw [List.getElem?_eq_none (by omega)]
      rfl
    · rfl
  · have hd : (draw (touch s a (4 * n * n))).1 =
        { s with reached := (touch s a (4 * n * n)).reached, freeCtr := s.freeCtr + 1 } := by
      rw [draw, touch_parts]
    have hw := writeMem_noErrors hcw a (inverted s.freeCtr n retries)
    rw [invspdDone]
    generalize (draw (touch s a (4 * n * n))).1 = v at hd hw ⊢
    generalize (writeMem v a (inverted s.freeCtr n retries)).1 = t at hw ⊢
    rw [hw, hd]

theorem retriesFailed_parts (u : State) (g : Nat) : (retriesFailed u g).mem = u.mem ∧
    (retriesFailed u g).evs = u.evs ++ [evNow u 0x0707 (g / 12) (8 * (g % 12)) none] := ⟨rfl, rfl⟩

/-- The failure of the third retry leaves memory as written, and one event. -/
theorem retried_parts (u : State) (g retries : Nat) :
    (if retries = 4 then retriesFailed u g else u).mem = u.mem ∧
      (retries = 4 → (if retries = 4 then retriesFailed u g else u).evs =
        u.evs ++ [evNow u 0x0707 (g / 12) (8 * (g % 12)) none]) ∧
      (retries < 4 → (if retries = 4 then retriesFailed u g else u).evs = u.evs) := by
  obtain ⟨hm, he⟩ := retriesFailed_parts u g
  by_cases h : retries = 4
  · rw [if_pos h]
    exact ⟨hm, fun _ => he, fun hlt => by omega⟩
  · rw [if_neg h]
    exact ⟨rfl, fun h4 => absurd h4 h, fun _ => rfl⟩

theorem putGx_mem (s : State) (g r : Nat) (v : W64) : (putGx s g r v).mem = s.mem := by rw [putGx_parts]

theorem gcNext_putGx_evs (s : State) (g r : Nat) (v : W64) : (gcNext (putGx s g r v) g).evs = s.evs := by
  rw [gcNext, gcPass, putGx_parts]
  rfl

/-- Settles O29: loads and stores by what the core may reach, its exceptions, and INVSPD. -/
theorem generalCoreAccesses : Obligations.GeneralCoreAccesses := by
  unfold Obligations.GeneralCoreAccesses
  refine ⟨fun s g a size h => ⟨fun op hs hop hr hm hc hb ho => ?_, fun rd sg t hrd hsz ht => ?_,
    fun op bs hs hop hr hm hc hb => ?_, fun rs k hk _ => gcStored_byte s g rs hk, fun op hs =>
      ⟨fun hop hr => load_register h hs hop hr, fun bs hop hr => store_register h hs hop hr⟩, fun op w hs hw hr hm hb => ?_,
    fun op hs hr hm hop => load_refused h hs hop hr hm, fun op bs hs hr hm hop => store_refused h hs hop hr hm,
    fun h17 => gcRunEnd_ends h h17, fun cause hc => gcException_traps h hc⟩,
    fun s g retries a n h h17 hr ha hn => ⟨fun hsz => invspd_badSize h h17 hr hn hsz, fun h1 h2 hrd hwr hc => ?_⟩⟩
  · refine ⟨_, load_memory h hs hop hr hm hb hc ho, ?_⟩
    rw [touch_parts, gcLoaded_reached]
  · subst ht
    rw [gcOf_gcLoaded_load hrd, length_memRead]
    exact ⟨fun hsg => by rw [hsg]; rfl, fun hsg => by rw [hsg, if_pos rfl, sx_toInt hsz]⟩
  · have hlen := length_gcStored hop
    obtain ⟨hok, -, hget⟩ := writeMem_clean (s := s) (a := a) (bs := bs) fun i _ => cleanCw_of_noErrors hc _
    have hw : OnlyMemoryErrors s (writeMem s a bs).1 := .of_writeMem ..
    refine ⟨_, store_memory h hs hop hr hm hb hok, fun k hk => ?_, fun b hb => ?_, ?_, ?_⟩
    · rw [gcNext_mem, hget, if_pos (by omega), Nat.add_sub_cancel_left, List.getD_eq_getElem?_getD,
        List.getElem?_eq_getElem (by omega)]
      rfl
    · rw [gcNext_mem, hget]
      split
      · rw [List.getElem?_eq_none (by omega)]
        rfl
      · rfl
    · rw [gcNext_stns, hw.parts]
    · rw [gcOf_gcNext_same, hw.parts]
      rfl
  · subst hw
    cases hop : gcStored s g op size with
    | none =>
      rw [hop] at hr hm
      exact load_blocked h hs hop hr hm hb
    | some bs =>
      rw [hop] at hr hm
      exact store_blocked h hs hop hr hm hb
  · obtain ⟨hok, hread, hframe, hparts⟩ := invspdDone_spec hc a n retries
    have hex := invspd_inverts h h17 hr ha hn h1 h2 hrd hwr hc hok
    obtain ⟨hm, h4e, hlt⟩ := retried_parts (invspdDone s a n retries) g retries
    have hnow : evNow (invspdDone s a n retries) 0x0707 (g / 12) (8 * (g % 12)) none =
        evNow s 0x0707 (g / 12) (8 * (g % 12)) none := by
      rw [hparts]
      rfl
    have hevs : (invspdDone s a n retries).evs = s.evs := by rw [hparts]
    rw [hnow, hevs] at h4e
    rw [hevs] at hlt
    generalize (if retries = 4 then retriesFailed (invspdDone s a n retries) g else invspdDone s a n retries) = u at *
    refine ⟨_, hex, ?_, fun b hb => ?_, fun h4 => ?_, fun h4 => ?_⟩
    · rw [gx_gcNext_putGx, if_pos ⟨by decide, rfl⟩]
    · rw [gcNext_mem, putGx_mem, hm]
      exact hframe b hb
    · rw [gcNext_mem, putGx_mem, hm, gcNext_putGx_evs]
      exact ⟨hread.trans (if_pos h4), h4e h4⟩
    · rw [gcNext_mem, putGx_mem, hm, gcNext_putGx_evs]
      exact ⟨hread.trans (if_neg (by omega)), hlt h4⟩

end Sys2Proof.Machine
end

/-! ## Queries and settings of the host (13 R449, R450; 14 R494, R497; 17 R546 to R550) -/
section
set_option Elab.async false
namespace Sys2Proof.Machine
open Sys2Proof

theorem exec_identify (src : Src) (a : Nat) (s : State) : exec (.identify src a) s = execIdentify src a s := rfl

theorem exec_attest (src : Src) (nonce : List Byte) (a len : Nat) (s : State) :
    exec (.attest src nonce a len) s = execAttest src nonce a len s := rfl

theorem exec_setBudget (src : Src) (cap : Nat) (s : State) : exec (.setBudget src cap) s = execSetBudget src cap s := rfl

theorem exec_readTelemetry (src : Src) (a page : Nat) (s : State) :
    exec (.readTelemetry src a page) s = execReadTelemetry src a page s := rfl

theorem exec_readFaultMap (src : Src) (a len : Nat) (s : State) :
    exec (.readFaultMap src a len) s = execReadFaultMap src a len s := rfl

theorem exec_armOffload (src : Src) (k a size : Nat) (s : State) :
    exec (.armOffload src k a size) s = execArmOffload src k a size s := rfl

theorem exec_provisionKey (src : Src) (a len slot kind : Nat) (w : Wrapped) (s : State) :
    exec (.provisionKey src a len slot kind w) s = execProvisionKey src a len slot kind w s := rfl

theorem exec_setWatch (src : Src) (g : Nat) (cfg : GroupCfg) (b : Nat) (s : State) :
    exec (.setWatch src g cfg b) s = execSetWatch src g cfg b s := rfl

/-! ### Writes to host memory -/

theorem hostWrite_capGen (s : State) (a : Nat) (bs : List Byte) : (hostWrite s a bs).capGen = s.capGen := rfl

theorem toHost_writes {s : State} {src : Src} {a n : Nat} {bs : List Byte} (hn : bs.length = n)
    (h : hostFails s a n = false) (f : State → State) : toHost s src a bs f = .next (f (hostWrite s a bs)) := by
  rw [toHost, hn]
  exact if_neg (by simp [h])

theorem toHost_fails {s : State} {src : Src} {a n : Nat} {bs : List Byte} (hn : bs.length = n)
    (h : hostFails s a n = true) (f : State → State) :
    toHost s src a bs f = .next (dmaFault (undefHost s a n) src) := by
  rw [toHost, hn]
  exact if_pos h

theorem length_flatMap_const {α : Type} {k : Nat} (l : List α) (f : α → List Byte) (h : ∀ x, (f x).length = k) :
    (l.flatMap f).length = k * l.length := by
  induction l with
  | nil => rfl
  | cons x l ih =>
    rw [List.flatMap_cons, List.length_append, h, ih, List.length_cons, Nat.mul_succ]
    omega

theorem length_flatMap_bytes (n : Nat) (f : Nat → Nat) : ((List.range n).flatMap (fun i => leBytes 1 (f i))).length = n :=
  (length_flatMap_leBytes n f).trans (Nat.one_mul n)

theorem length_bitBytes (n : Nat) (f : Nat → Bool) : (bitBytes n f).length = n := by
  rw [bitBytes, List.length_map, List.length_range]

theorem length_capBlock (s : State) : (capBlock s).length = 4096 := by
  unfold capBlock
  generalize hbmBytes s = hbm, lpBytes s = lp, presentAfter s = stations, bankOk s = banks, spliceOk s = splice,
    ceilingMax s = ceiling, coresAfter s = cores
  simp only [List.length_append, leBytes_length, length_flatMap_bytes, length_flatMap_leBytes, length_bitBytes,
    List.length_replicate]

theorem length_faultMapBytes (s : State) : (faultMapBytes s).length = 64 + 16 * s.vault.fmap.length := by
  have h := length_flatMap_const (k := 16) s.vault.fmap fentryBytes fun e => by
    simp only [fentryBytes, List.length_append, leBytes_length]
  simp only [faultMapBytes, List.length_append, leBytes_length, h, List.length_replicate]

section
variable {s : State} {src : Src}

section
variable (h : Taken s .any false)
include h

theorem identify_writes {a : Nat} (hr : s.power.ready = true) (hh : hostFails s a 4096 = false) :
    exec (.identify src a) s = .next (complete (hostWrite s a (capBlock s)) src stOK s.capGen) := by
  rw [exec_identify, execIdentify, if_neg (by simp [hr]), command_taken h]
  have hl := length_capBlock s
  generalize capBlock s = bs at hl ⊢
  rw [toHost_writes hl hh, hostWrite_capGen]

theorem identify_fails {a : Nat} (hr : s.power.ready = true) (hh : hostFails s a 4096 = true) :
    exec (.identify src a) s = .next (dmaFault (undefHost s a 4096) src) := by
  rw [exec_identify, execIdentify, if_neg (by simp [hr]), command_taken h]
  have hl := length_capBlock s
  generalize capBlock s = bs at hl ⊢
  exact toHost_fails hl hh _

theorem attest_short {nonce : List Byte} {a len : Nat} (hl : len < 63424) :
    exec (.attest src nonce a len) s = .next (complete s src stInvalid 0) := by
  rw [exec_attest, execAttest, command_taken h, if_pos hl]

theorem attest_signs {nonce : List Byte} {a len : Nat} (hl : 63424 ≤ len)
    (hh : hostFails s a ((reportBody s nonce).length + 29792) = false) :
    exec (.attest src nonce a len) s = .next (complete (hostWrite s a
      (reportBody s nonce ++ sized 29792 (Config.slhSign dikSeed (reportBody s nonce)))) src stOK 63424) := by
  rw [exec_attest, execAttest, command_taken h, if_neg (by omega)]
  exact toHost_writes (by rw [List.length_append, sized_length]) hh _

theorem setBudget_sets {cap : Nat} (hlo : 4000 ≤ cap) (hhi : cap ≤ 14000) {u : State}
    (hu : u = { s with power := { s.power with cap := cap }, capGen := (s.capGen + 1) % 2 ^ 32 }) :
    exec (.setBudget src cap) s = .next (complete u src stOK (cap + ceilingMax u * 2 ^ 32)) := by
  subst hu
  rw [exec_setBudget, execSetBudget, command_taken h]
  exact if_neg (by simp; omega)

theorem setBudget_range {cap : Nat} (hc : cap < 4000 ∨ 14000 < cap) :
    exec (.setBudget src cap) s = .next (complete s src stInvalid 0) := by
  rw [exec_setBudget, execSetBudget, command_taken h]
  exact if_pos (by simpa using hc)

theorem readTelemetry_range {a page : Nat} (hp : 5 ≤ page) :
    exec (.readTelemetry src a page) s = .next (complete s src stInvalid 0) := by
  rw [exec_readTelemetry, execReadTelemetry, command_taken h, if_pos hp]

theorem readTelemetry_page0 {a : Nat} (hh : hostFails s a 4096 = false) : exec (.readTelemetry src a 0) s =
    .next (complete (hostWrite s a (sized 4096 (page0 s))) src stOK 4096) := by
  rw [exec_readTelemetry, execReadTelemetry, command_taken h, if_neg (by omega)]
  exact toHost_writes (sized_length ..) hh _

/-- The pages of measured values, as draw `d` gives them (14 R497; log 36). -/
def measuredPage (s : State) (d page : Nat) : List Byte :=
  if page = 1 then page1 s d
  else if page = 2 then page2 s d
  else if page = 3 then page3 s d
  else lifeBytes s { s.vault.life with seconds := s.vault.life.seconds + s.timeNs / 1000000000 } (leBytes 8 s.timeNs) d

theorem readTelemetry_measured {a page : Nat} (h1 : 1 ≤ page) (h4 : page ≤ 4) (hh : hostFails s a 4096 = false) :
    exec (.readTelemetry src a page) s = .next (complete (hostWrite { s with freeCtr := s.freeCtr + 1 } a
      (sized 4096 (measuredPage { s with freeCtr := s.freeCtr + 1 } s.freeCtr page))) src stOK 4096) := by
  rw [exec_readTelemetry, execReadTelemetry, command_taken h, if_neg (by omega)]
  interval_cases page <;>
    exact toHost_writes (s := { s with freeCtr := s.freeCtr + 1 }) (sized_length ..) hh
      (fun s => complete s src stOK 4096)

theorem readFaultMap_writes {a len n : Nat} (hb : s.vault.badMap = 0) (hn : n = 64 + 16 * s.vault.fmap.length) (hl : n ≤ len)
    (hh : hostFails s a n = false) : exec (.readFaultMap src a len) s =
      .next (complete (hostWrite s a (faultMapBytes s)) src stOK (n % 2 ^ 32 + s.vault.fmap.length * 2 ^ 32)) := by
  have hlen : (faultMapBytes s).length = n := (length_faultMapBytes s).trans hn.symm
  rw [exec_readFaultMap, execReadFaultMap, command_taken h, readDual_good (b := true) hb]
  dsimp only
  rw [hlen, if_neg (by omega), toHost_writes hlen hh]
  rfl

theorem readFaultMap_short {a len n : Nat} (hb : s.vault.badMap = 0) (hn : n = 64 + 16 * s.vault.fmap.length) (hl : len < n) :
    exec (.readFaultMap src a len) s = .next (complete s src stInvalid 0) := by
  rw [exec_readFaultMap, execReadFaultMap, command_taken h, readDual_good (b := true) hb]
  exact if_pos (by rw [length_faultMapBytes]; omega)

end

theorem vaultRead_noArea (h : Taken s .any true) {a off len area : Nat} (hn : areaEnd s area = none) :
    exec (.vaultRead src a off len area) s = .next (complete s src stInvalid 0) := by
  rw [exec_vaultRead, execVaultRead, command_taken h, hn]

theorem vaultRead_range (h : Taken s .any true) {a off len area n : Nat} (hn : areaEnd s area = some n) (hl : n < off + len) :
    exec (.vaultRead src a off len area) s = .next (complete s src stInvalid 0) := by
  rw [exec_vaultRead, execVaultRead, command_taken h, hn]
  exact if_pos hl

theorem vaultRead_reads (h : Taken s .any true) {a off len area n : Nat} (hn : areaEnd s area = some n) (hl : off + len ≤ n)
    (hh : hostFails (readArea s area off len).1 a (readArea s area off len).2.length = false) :
    exec (.vaultRead src a off len area) s = .next (complete (hostWrite (readArea s area off len).1 a
      (readArea s area off len).2) src stOK (len % 2 ^ 32)) := by
  rw [exec_vaultRead, execVaultRead, command_taken h, hn]
  exact (if_neg (by omega)).trans (toHost_writes rfl hh _)

section
variable (h : Taken s .run false) {c : Image} (hc : s.course = some c) {k a size : Nat}
include h hc

theorem armOffload_arms (hk : k ∈ c.channels) (h8 : k < 8) (ha : a % 4096 = 0) (hs : 65600 ≤ size) :
    exec (.armOffload src k a size) s = .next (complete
      { s with ofls := s.ofls.upd {} k (fun o => { o with armed := true, base := a, size := size }) } src stOK
        (size / 65600 % 2 ^ 32)) := by
  rw [exec_armOffload, execArmOffload, command_taken h, hc]
  exact if_neg (by simp [hk, ha]; omega)

theorem armOffload_range (hno : k ∉ c.channels ∨ 8 ≤ k ∨ a % 4096 ≠ 0 ∨ size < 65600) :
    exec (.armOffload src k a size) s = .next (complete s src stInvalid 0) := by
  rw [exec_armOffload, execArmOffload, command_taken h, hc]
  refine if_pos ?_
  rcases hno with h | h | h | h <;> simp [h]

end

section
variable (h : Taken s .job false) {a len slot kind : Nat} {w : Wrapped}
include h

theorem provisionKey_debug (hd : s.debugOpen = true) :
    exec (.provisionKey src a len slot kind w) s = .next (complete s src 0x02 0) := by
  rw [exec_provisionKey, execProvisionKey, command_taken h, if_pos hd]

variable (hd : s.debugOpen = false) (hkind : kind < 5) (hslot : slot < 16) (hone : 2 ≤ kind → slot = 0)
include hd hkind hslot hone

theorem provisionKey_held (hk : keyHeld s kind = true) :
    exec (.provisionKey src a len slot kind w) s = .next (complete s src 0x04 0) := by
  rw [exec_provisionKey, execProvisionKey, command_taken h, if_neg (by simp [hd]), if_neg (by simp; omega), if_pos hk]

variable (hk : keyHeld s kind = false)
include hk

theorem provisionKey_dmaFault (he : w.dmaError = true) :
    exec (.provisionKey src a len slot kind w) s = .next (dmaFault s src) := by
  rw [exec_provisionKey, execProvisionKey, command_taken h, if_neg (by simp [hd]), if_neg (by simp; omega),
    if_neg (by simp [hk]), if_pos he]

variable (he : w.dmaError = false)
include he

theorem provisionKey_malformed (hw : wrappedOk s len slot kind w = false) :
    exec (.provisionKey src a len slot kind w) s = .next (complete s src stInvalid 0) := by
  rw [exec_provisionKey, execProvisionKey, command_taken h, if_neg (by simp [hd]), if_neg (by simp; omega),
    if_neg (by simp [hk]), if_neg (by simp [he]), if_pos (by simp [hw])]

variable (hw : wrappedOk s len slot kind w = true)
include hw

theorem provisionKey_badTag (hu : unwrapKey w = none) : exec (.provisionKey src a len slot kind w) s =
    .next (complete (raise (setBit s (regKey 10 0x900) 9) 0x0A02 15 0 none) src 0x02 0) := by
  rw [exec_provisionKey, execProvisionKey, command_taken h, if_neg (by simp [hd]), if_neg (by simp; omega),
    if_neg (by simp [hk]), if_neg (by simp [he]), if_neg (by simp [hw]), hu]

variable {k : List Byte} (hu : unwrapKey w = some k)
include hu

omit hkind hone in
theorem provisionKey_equalHalves (h1 : kind = 1) (heq : k.take 32 = k.drop 32) :
    exec (.provisionKey src a len slot kind w) s = .next (complete s src stInvalid 0) := by
  rw [exec_provisionKey, execProvisionKey, command_taken h, if_neg (by simp [hd]), if_neg (by simp; omega),
    if_neg (by simp [hk]), if_neg (by simp [he]), if_neg (by simp [hw]), hu]
  exact if_pos (by simp [h1, heq])

theorem provisionKey_takes (hne : kind = 1 → k.take 32 ≠ k.drop 32) : exec (.provisionKey src a len slot kind w) s =
    .next (complete { s with keys := putKey s.keys slot kind (ofLe k) } src stOK 0) := by
  rw [exec_provisionKey, execProvisionKey, command_taken h, if_neg (by simp [hd]), if_neg (by simp; omega),
    if_neg (by simp [hk]), if_neg (by simp [he]), if_neg (by simp [hw]), hu]
  refine if_neg ?_
  rw [Bool.and_eq_true, decide_eq_true_eq, decide_eq_true_eq]
  exact fun hc => hne hc.1 hc.2

end

section
variable (h : Taken s .job false) {g : Nat} {cfg : GroupCfg} (hg : g < 64)
include h hg

theorem setWatch_sets (hu : (s.groups.get {} g).used = true) (hok : watchOk cfg = true) :
    exec (.setWatch src g cfg 1) s = .next (complete
      { s with groups := s.groups.upd {} g (fun x => { x with nextCfg := some cfg }) } src stOK 0) := by
  rw [exec_setWatch, execSetWatch, command_taken h]
  have hok : (!(s.groups.get {} g).used || !watchOk cfg) = false := by
    rw [hu, hok]
    rfl
  rw [hok]
  exact (if_neg (by simp [hg])).trans (if_neg (by simp [bitOf]))

omit hg in
theorem setWatch_range (hno : (s.groups.get {} g).used = false ∨ watchOk cfg = false) :
    exec (.setWatch src g cfg 1) s = .next (complete s src stInvalid 0) := by
  rw [exec_setWatch, execSetWatch, command_taken h]
  refine if_pos ?_
  have hbad : (!(s.groups.get {} g).used || !watchOk cfg) = true := by
    rw [Bool.or_eq_true, Bool.not_eq_true', Bool.not_eq_true']
    exact hno
  rw [hbad]
  simp [bitOf]

theorem setWatch_thaws (hj : s.jobState ≠ 3) : exec (.setWatch src g cfg 2) s =
    .next (complete { s with coord := { s.coord with frozen := false } } src stOK 0) := by
  rw [exec_setWatch, execSetWatch, command_taken h]
  exact (if_neg (by simp [bitOf]; omega)).trans (if_neg (by simp [hj]))

theorem setWatch_running (hj : s.jobState = 3) : exec (.setWatch src g cfg 2) s = .next (complete s src 0x04 0) := by
  rw [exec_setWatch, execSetWatch, command_taken h]
  exact (if_neg (by simp [bitOf]; omega)).trans (if_pos (by simp [hj, bitOf]))

end

end

/-! ### What the pages and keys hold -/

/-- A field of a page. -/
theorem field_sized {l x y rest : List Byte} {n k m : Nat} (hl : l = x ++ (y ++ rest)) (hx : x.length = n)
    (hy : y.length = k) (hm : n + k ≤ m) : ((sized m l).drop n).take k = y := by
  rw [sized, hl, List.take_drop, List.take_take, Nat.min_eq_left hm, List.append_assoc, List.append_assoc,
    ← List.take_drop, List.drop_left' hx, List.take_left' hy]

/-- A page of measured values begins with the time (14 R497). -/
theorem measuredPage_time (s : State) (d page : Nat) : ∃ rest, measuredPage s d page = leBytes 8 s.timeNs ++ rest := by
  unfold measuredPage page1 page2 page3 lifeBytes
  simp only [List.append_assoc]
  split_ifs <;> exact ⟨_, rfl⟩

theorem page1_voltage (s : State) (d : Nat) (h : sealedJob s = false) :
    ∃ rest, page1 s d = leBytes 8 s.timeNs ++ (leBytes 4 s.power.mv ++ rest) := by
  unfold page1
  simp only [h, Bool.false_eq_true, if_false, List.append_assoc]
  exact ⟨_, rfl⟩

theorem page1_cap (s : State) (d : Nat) : ∃ x rest, page1 s d = x ++ (leBytes 4 s.power.cap ++ rest) ∧ x.length = 20 := by
  unfold page1
  simp only [List.append_assoc]
  rw [← List.append_assoc]
  refine ⟨_, _, rfl, ?_⟩
  rw [List.length_append, leBytes_length]
  split <;> simp [leBytes_length, measured]

theorem ceilingMax_noSupplement {s u : State} {cap : Nat} (hs : s.suppsEff = [])
    (hu : u = { s with power := { s.power with cap := cap }, capGen := (s.capGen + 1) % 2 ^ 32 }) :
    ceilingMax u = min 64 (52 * cap / 12000) := by
  have he : u.suppsEff = [] := by rw [hu]; exact hs
  rw [ceilingMax, he, hu]
  rfl

theorem unwrapKey_seal {w : Wrapped} {k ss : List Byte} (hk : k.length = if w.kind = 1 then 64 else 32)
    (hss : ss = sized 32 (Config.kemSecret kemSeed w.kemCt))
    (hw : w.wrapped = gcmSeal (ofLe (shake256 (ascii "IXG816/WRAP" ++ ss ++ wrapHead w) 32)) 0 (wrapHead w) k) :
    unwrapKey w = some k := by
  have hlen : (if w.kind = 1 then 80 else 48) = w.wrapped.length := by
    rw [hw, gcmSeal_length, hk]
    split <;> rfl
  rw [unwrapKey, hlen, sized_self, hw, ← hss]
  exact gcmOpen_gcmSeal ..

/-- Settles O43: each query and setting is taken by `command`, and its parameters decide which of its branches it ends in. -/
theorem queriesAndSettings : Obligations.QueriesAndSettings := by
  intro s src
  refine ⟨fun a h => ⟨fun hr hh => ⟨length_capBlock s, identify_writes h hr hh⟩, identify_fails h⟩, fun nonce a len b h hb => ?attest, fun cap u h hu => ?budget,
    fun a page h hh => ⟨fun hp => ?page0, fun h1 h4 => ?pages, readTelemetry_range h⟩,
    fun a off len area h => ⟨vaultRead_noArea h, fun n hn hl => vaultRead_range h hn hl, fun n v hn hl hv hh => ?area⟩,
    fun a len n h hb hn => ⟨fun hl hh => ⟨(length_faultMapBytes s).trans hn.symm, readFaultMap_writes h hb hn hl hh⟩,
      readFaultMap_short h hb hn⟩,
    fun k a size c h hc => ⟨armOffload_arms h hc, armOffload_range h hc⟩,
    fun a len slot kind w h hd hk hs ho => ⟨provisionKey_held h hd hk hs ho, provisionKey_dmaFault h hd hk hs ho,
      provisionKey_malformed h hd hk hs ho, fun hkeep he hw => ⟨provisionKey_badTag h hd hk hs ho hkeep he hw,
        fun k hu => ⟨provisionKey_takes h hd hk hs ho hkeep he hw hu,
          provisionKey_equalHalves h hd hs hkeep he hw hu⟩⟩⟩,
    fun w k ss => unwrapKey_seal, fun a len slot kind w h => provisionKey_debug h,
    fun g cfg h hg => ⟨setWatch_sets h hg, setWatch_range h, setWatch_thaws h hg, setWatch_running h hg⟩⟩
  case attest =>
    subst hb
    exact ⟨attest_signs h, attest_short h⟩
  case budget =>
    exact ⟨fun hlo hhi => ⟨setBudget_sets h hlo hhi hu, fun hs => ceilingMax_noSupplement hs hu⟩, setBudget_range h⟩
  case page0 =>
    subst hp
    exact readTelemetry_page0 h hh
  case area =>
    subst hv
    exact vaultRead_reads h hn hl hh
  case pages =>
    refine ⟨_, readTelemetry_measured h h1 h4 hh, sized_length .., ?_, fun hp => ⟨?_, fun hs => ?_⟩⟩
    · obtain ⟨rest, hr⟩ := measuredPage_time { s with freeCtr := s.freeCtr + 1 } s.freeCtr page
      have hf := field_sized (n := 0) (k := 8) (m := 4096) (x := []) hr rfl (leBytes_length ..) (by omega)
      rw [List.drop_zero] at hf
      rw [hf, ofLe_leBytes, show 256 ^ 8 = 2 ^ 64 from rfl]
    · obtain ⟨x, rest, hr, hx⟩ := page1_cap { s with freeCtr := s.freeCtr + 1 } s.freeCtr
      rw [hp, measuredPage, if_pos rfl, field_sized hr hx (leBytes_length ..) (by omega), ofLe_leBytes,
        show 256 ^ 4 = 2 ^ 32 from rfl]
    · obtain ⟨rest, hr⟩ := page1_voltage { s with freeCtr := s.freeCtr + 1 } s.freeCtr hs
      rw [hp, measuredPage, if_pos rfl, field_sized hr (leBytes_length ..) (leBytes_length ..) (by omega), ofLe_leBytes,
        show 256 ^ 4 = 2 ^ 32 from rfl]

end Sys2Proof.Machine
end

/-! ## Refused commands, and what a completion holds (13 R440, R443 to R447) -/
section
set_option Elab.async false
namespace Sys2Proof.Machine
open Sys2Proof

/-! ### Refusals (13 R447, R448) -/

section
variable {s : State} {src : Src} {cls : CmdClass} {supply : Bool} {f : State → Out}

theorem command_closed (h : cmdOpen s = false) : command src cls supply s f = .next s := by
  rw [command, h]
  rfl

theorem command_wrongState {st : Nat} (h : cmdOpen s = true) (hst : stateStatus cls s.jobState = some st) :
    command src cls supply s f = .next (complete s src st 0) := by
  rw [command, h, if_neg (by decide), hst]

theorem command_supplyLow (h : cmdOpen s = true) (hst : stateStatus cls s.jobState = none) (hs : supply = true)
    (hw : s.power.warn = true) : command src cls supply s f = .next (complete s src 0x09 0) := by
  rw [command, h, if_neg (by decide), hst]
  exact if_pos (by rw [hs, hw]; rfl)

end

/-- Each host command is `command` of its class; IDENTIFY, which none refuses, has no effect before the module is ready. -/
theorem hostCmd_command {c : Instr} {src : Src} {cls : CmdClass} {supply : Bool} (h : hostCmd c = some (src, cls, supply)) :
    ∃ f, ∀ s, exec c s = command src cls supply s f ∨ (cls = .any ∧ supply = false ∧ exec c s = .next s) := by
  unfold hostCmd at h
  split at h
  case h_1 src' a =>
    cases h
    refine ⟨fun s => toHost s src a (capBlock s) (fun s => complete s src stOK s.capGen), fun s => ?_⟩
    rw [exec_identify, execIdentify]
    cases s.power.ready
    · exact .inr ⟨rfl, rfl, rfl⟩
    · exact .inl rfl
  case h_29 => nomatch h
  all_goals
    cases h
    exact ⟨_, fun s => .inl rfl⟩

theorem hostCmd_refused {s : State} {c : Instr} {src : Src} {cls : CmdClass} {supply : Bool}
    (h : hostCmd c = some (src, cls, supply)) : (cmdOpen s = false → exec c s = .next s) ∧
    (∀ st, cmdOpen s = true → stateStatus cls s.jobState = some st → exec c s = .next (complete s src st 0)) ∧
    (cmdOpen s = true → stateStatus cls s.jobState = none → supply = true → s.power.warn = true →
      exec c s = .next (complete s src 0x09 0)) := by
  obtain ⟨f, hf⟩ := hostCmd_command h
  obtain hc | ⟨rfl, rfl, hc⟩ := hf s
  · rw [hc]
    exact ⟨command_closed, fun st => command_wrongState, command_supplyLow⟩
  · refine ⟨fun _ => hc, fun st _ hst => ?_, fun _ _ hs => absurd hs (by decide)⟩
    rw [stateStatus] at hst
    cases hst

/-! ### A completion entry (13 R440) -/

/-- The 16 bytes of a completion. -/
def cqEntry (x : Qp) (cid st first result : Nat) : List Byte :=
  leBytes 4 cid ++ leBytes 1 st ++ leBytes 1 first ++ leBytes 2 (x.sqHead % 4096 + b2n x.phase * 2 ^ 15)
    ++ leBytes 8 result

/-- A pair after a completion: the tail goes on, and the phase is inverted as it wraps. -/
def cqNext (x : Qp) : Qp :=
  { x with
    cqTail := if x.cqTail = x.cqM1 then 0 else x.cqTail + 1
    phase := if x.cqTail = x.cqM1 then !x.phase else x.phase
    unread := x.unread + 1 }

theorem length_cqEntry (x : Qp) (cid st first result : Nat) : (cqEntry x cid st first result).length = 16 := by
  simp only [cqEntry, List.length_append, leBytes_length]

theorem postCq_eq (s : State) (q cid st first result : Nat) : postCq s q cid st first result =
    needVector (updQp (post s (.write ((qp s q).cqBase + 16 * (qp s q).cqTail) (cqEntry (qp s q) cid st first result))) q cqNext)
      (qp s q).vector := by
  rfl

section
variable (s : State) (q cid st first result : Nat)

theorem post_qps (p : Post) : (post s p).qps = s.qps := by
  unfold post
  split
  · cases p <;> rfl
  · rfl

theorem post_vecDue (p : Post) : (post s p).vecDue = s.vecDue := by
  unfold post
  split
  · cases p <;> rfl
  · rfl

theorem postCq_qps : (postCq s q cid st first result).qps = s.qps.upd {} q cqNext := by
  rw [postCq_eq, needVector_parts]
  exact congrArg (fun t : Table Qp => t.upd {} q cqNext) (post_qps ..)

theorem qp_postCq_same : qp (postCq s q cid st first result) q = cqNext (qp s q) := by
  rw [qp, postCq_qps]
  exact Table.get_upd_same ..

theorem qp_postCq_other {r : Nat} (h : r ≠ q) : qp (postCq s q cid st first result) r = qp s r := by
  rw [qp, postCq_qps]
  exact Table.get_upd_other _ _ _ _ _ h

theorem mem_postCq_vecDue : (qp s q).vector ∈ (postCq s q cid st first result).vecDue := by
  rw [postCq_eq]
  exact mem_needVector ..

theorem of_mem_postCq_vecDue {v : Nat} (h : v ∈ (postCq s q cid st first result).vecDue) :
    v = (qp s q).vector ∨ v ∈ s.vecDue := by
  rw [postCq_eq, needVector] at h
  have hdue (f : Qp → Qp) (p : Post) : (updQp (post s p) q f).vecDue = s.vecDue := post_vecDue s p
  split at h
  · exact .inr (hdue .. ▸ h)
  · rw [hdue, List.mem_append, List.mem_singleton] at h
    exact h.symm

theorem postCq_linked (h : s.power.linkUp = true) : (postCq s q cid st first result).posts = s.posts ∧
    (postCq s q cid st first result).hostMem =
      memWrite s.hostMem ((qp s q).cqBase + 16 * (qp s q).cqTail) (cqEntry (qp s q) cid st first result) := by
  rw [postCq_eq, needVector_parts, post_linked h]
  exact ⟨rfl, rfl⟩

theorem postCq_unlinked (h : s.power.linkUp = false) : (postCq s q cid st first result).hostMem = s.hostMem ∧
    (postCq s q cid st first result).posts =
      s.posts ++ [.write ((qp s q).cqBase + 16 * (qp s q).cqTail) (cqEntry (qp s q) cid st first result)] := by
  rw [postCq_eq, needVector_parts, post_unlinked h]
  exact ⟨rfl, rfl⟩

end

/-! ### A command that completes (13 R443 to R445) -/

/-- The token of an outstanding command, 0 where it has none. -/
def outToken (x : Qp) (cid : Nat) : Nat := match x.outs.find? (fun o => o.cid = cid) with | some o => o.token | none => 0

/-- A pair of which a command with token `tok` completes: its token is kept with its first completion. -/
def ended (cid tok st result : Nat) (x : Qp) : Qp :=
  { x with
    outs := dropOut cid x.outs
    toks := x.toks.map (fun t =>
      if t.token = tok && tok ≠ 0 && t.done.isNone then { t with done := some (st, result) } else t) }

/-- A state in which a command of a pair has ended and its completion is posted. -/
def commandEnded (s : State) (src : Src) (tok st result : Nat) : State :=
  postCq (updQp { s with cmdTotal := s.cmdTotal + 1 } src.qp (ended src.cid tok st result)) src.qp src.cid st st result

/-- A replay that waited is answered. -/
def replayAnswered (src : Src) (st result : Nat) (s : State) (r : Nat × Nat) : State :=
  postCq (updQp s src.qp (fun x => { x with outs := dropOut r.1 x.outs, replays := x.replays.erase r })) src.qp r.1 0x01
    st result

section
variable (s : State) (src : Src) (st result : Nat)

theorem complete_eq : complete s src st result =
    ((qp s src.qp).replays.filter (fun r => r.2 = outToken (qp s src.qp) src.cid && outToken (qp s src.qp) src.cid ≠ 0)).foldl
      (replayAnswered src st result) (commandEnded s src (outToken (qp s src.qp) src.cid) st result) := rfl

theorem qp_commandEnded_same (tok : Nat) : qp (commandEnded s src tok st result) src.qp =
    cqNext (ended src.cid tok st result (qp s src.qp)) :=
  (qp_postCq_same ..).trans (congrArg cqNext (qp_updQp_same ..))

theorem qp_commandEnded_other (tok : Nat) {q : Nat} (h : q ≠ src.qp) : qp (commandEnded s src tok st result) q = qp s q :=
  (qp_postCq_other _ _ _ _ _ _ h).trans (qp_updQp_other _ _ _ _ h)

theorem qp_ended (tok : Nat) :
    qp (updQp { s with cmdTotal := s.cmdTotal + 1 } src.qp (ended src.cid tok st result)) src.qp =
      ended src.cid tok st result (qp s src.qp) :=
  qp_updQp_same ..

theorem commandEnded_linked (tok : Nat) (h : s.power.linkUp = true) : (commandEnded s src tok st result).posts = s.posts ∧
    (commandEnded s src tok st result).hostMem = memWrite s.hostMem ((qp s src.qp).cqBase + 16 * (qp s src.qp).cqTail)
      (cqEntry (qp s src.qp) src.cid st st result) := by
  have hp := postCq_linked (updQp { s with cmdTotal := s.cmdTotal + 1 } src.qp (ended src.cid tok st result)) src.qp
    src.cid st st result h
  rw [qp_ended] at hp
  exact hp

theorem commandEnded_unlinked (tok : Nat) (h : s.power.linkUp = false) : (commandEnded s src tok st result).hostMem = s.hostMem ∧
    (commandEnded s src tok st result).posts = s.posts ++ [.write ((qp s src.qp).cqBase + 16 * (qp s src.qp).cqTail)
      (cqEntry (qp s src.qp) src.cid st st result)] := by
  have hp := postCq_unlinked (updQp { s with cmdTotal := s.cmdTotal + 1 } src.qp (ended src.cid tok st result)) src.qp
    src.cid st st result h
  rw [qp_ended] at hp
  exact hp

theorem mem_commandEnded_vecDue (tok : Nat) : (qp s src.qp).vector ∈ (commandEnded s src tok st result).vecDue := by
  have hv := mem_postCq_vecDue (updQp { s with cmdTotal := s.cmdTotal + 1 } src.qp (ended src.cid tok st result)) src.qp
    src.cid st st result
  rw [qp_ended] at hv
  exact hv

theorem of_mem_commandEnded_vecDue (tok : Nat) {v : Nat} (h : v ∈ (commandEnded s src tok st result).vecDue) :
    v = (qp s src.qp).vector ∨ v ∈ s.vecDue := by
  have hv := of_mem_postCq_vecDue _ _ _ _ _ _ h
  rw [qp_ended] at hv
  exact hv

theorem commandEnded_linkUp (tok : Nat) : (commandEnded s src tok st result).power.linkUp = s.power.linkUp :=
  congrArg (fun t => t.power.linkUp) (onlyHost_postCq
    (updQp { s with cmdTotal := s.cmdTotal + 1 } src.qp (ended src.cid tok st result)) src.qp src.cid st st result)

theorem complete_noReplay (h : ∀ p ∈ (qp s src.qp).replays,
    outToken (qp s src.qp) src.cid = 0 ∨ p.2 ≠ outToken (qp s src.qp) src.cid) :
    complete s src st result = commandEnded s src (outToken (qp s src.qp) src.cid) st result := by
  rw [complete_eq, List.filter_eq_nil_iff.2]
  · rfl
  · intro p hp
    rw [Bool.and_eq_true, decide_eq_true_eq, decide_eq_true_eq]
    exact fun ⟨h2, h0⟩ => (h p hp).elim h0 (fun hn => hn h2)

theorem complete_replay {c : Nat} (h : (qp s src.qp).replays = [(c, outToken (qp s src.qp) src.cid)])
    (h0 : outToken (qp s src.qp) src.cid ≠ 0) : complete s src st result = replayAnswered src st result
      (commandEnded s src (outToken (qp s src.qp) src.cid) st result) (c, outToken (qp s src.qp) src.cid) := by
  rw [complete_eq, h, List.filter_cons_of_pos (by simp [h0])]
  rfl

end

/-! ### Lengths of what ATTEST signs (17 R545, R550) -/

theorem length_keccakRound (s : List (BitVec 64)) (rc : BitVec 64) : (keccakRound s rc).length = 25 := by
  simp only [keccakRound, List.length_zipWith, List.length_map, List.length_range, List.length_cons, List.length_replicate,
    Nat.reduceAdd, Nat.min_self]

theorem length_keccakF (s : List (BitVec 64)) : (keccakF s).length = 25 := by
  rw [keccakF, show keccakRc = keccakRc.dropLast ++ [0x8000000080008008] from rfl, List.foldl_append]
  exact length_keccakRound ..

theorem length_absorb (n : Nat) {s : List (BitVec 64)} (l : List Byte) (h : s.length = 25) : (absorb n s l).length = 25 := by
  induction n generalizing s l with
  | zero => exact h
  | succ n ih => exact ih _ (length_keccakF _)

theorem length_squeeze (n : Nat) {s : List (BitVec 64)} (h : s.length = 25) : (squeeze n s).length = 136 * n := by
  induction n generalizing s with
  | zero => rfl
  | succ n ih =>
    rw [squeeze, List.length_append, ih (length_keccakF _), length_flatMap_const (k := 8) _ _ (fun _ => leBytes_length ..),
      List.length_take, h]
    omega

theorem length_shake256 (bs : List Byte) (n : Nat) : (shake256 bs n).length = n := by
  have h (l : List Byte) (k : Nat) : (squeeze ((n + 135) / 136) (absorb k (List.replicate 25 0) l)).length =
      136 * ((n + 135) / 136) := length_squeeze _ (length_absorb _ _ (List.length_replicate ..))
  rw [shake256, List.length_take, h]
  omega

theorem length_certificate : certificate.length = 31488 := by
  simp only [certificate, dikPublic, kemKey, List.length_append, leBytes_length, sized_length, List.length_replicate]

theorem length_reportBody (s : State) (nonce : List Byte) : (reportBody s nonce).length = 33632 := by
  have hs : ([1, 2, 3].flatMap (fun t => leBytes 64 (suppMeasure s t))).length = 192 :=
    length_flatMap_const _ _ (fun _ => leBytes_length ..)
  have hc : (if s.vault.cert then certificate else List.replicate 31488 0).length = 31488 := by
    split
    · exact length_certificate
    · exact List.length_replicate ..
  unfold reportBody
  generalize (if s.vault.cert then certificate else List.replicate 31488 0) = cert at hc ⊢
  generalize ([1, 2, 3].flatMap (fun t => leBytes 64 (suppMeasure s t))) = supps at hs ⊢
  simp only [dikPublic, kemKey, List.length_append, leBytes_length, sized_length, List.length_replicate, length_shake256,
    hs, hc]

/-! ### Commands that complete -/

theorem attest_completes {s : State} {src : Src} {nonce : List Byte} {a len : Nat} (h : Taken s .any false)
    (hl : 63424 ≤ len) (hh : hostFails s a 63424 = false) : ∃ bs, bs.length = 63424 ∧
      exec (.attest src nonce a len) s = .next (complete (hostWrite s a bs) src stOK 63424) := by
  refine ⟨_, ?_, attest_signs h hl (by rw [length_reportBody]; exact hh)⟩
  rw [List.length_append, length_reportBody, sized_length]

theorem readTelemetry_completes {s : State} {src : Src} {a page : Nat} (h : Taken s .any false) (hp : page < 5)
    (hh : hostFails s a 4096 = false) : ∃ u bs, u = { s with freeCtr := u.freeCtr } ∧ bs.length = 4096 ∧
      exec (.readTelemetry src a page) s = .next (complete (hostWrite u a bs) src stOK 4096) := by
  by_cases h0 : page = 0
  · subst h0
    exact ⟨s, _, rfl, sized_length .., readTelemetry_page0 h hh⟩
  · exact ⟨{ s with freeCtr := s.freeCtr + 1 }, _, rfl, sized_length .., readTelemetry_measured h (by omega) (by omega) hh⟩

theorem foldl_complete_cmdTotal (l : List (Src × Nat)) (s : State) :
    (l.foldl (fun s e => complete s e.1 stOK 0) s).cmdTotal = s.cmdTotal + l.length := by
  induction l generalizing s with
  | nil => rfl
  | cons e l ih =>
    rw [List.foldl_cons, ih, complete_parts, List.length_cons]
    change s.cmdTotal + 1 + l.length = _
    omega

/-- With no command completed, every SET_CLOCK_POLICY that waited still waits. -/
theorem policyDone_clockWait {s : State} (h : (policyDone s).cmdTotal = s.cmdTotal) :
    (policyDone s).power.clockWait = s.power.clockWait := by
  have hn : (s.power.clockWait.filter (fun e => rampsOver s e.2)).length = 0 := by
    unfold policyDone at h
    rw [foldl_complete_cmdTotal] at h
    exact Nat.add_left_cancel h
  rw [policyDone_parts]
  refine List.filter_eq_self.2 fun e he => ?_
  have hr := List.filter_eq_nil_iff.1 (List.length_eq_zero_iff.1 hn) e he
  rw [Bool.not_eq_true] at hr
  rw [hr]
  rfl

theorem setClockPolicy_waits {s : State} {src : Src} {scope mode mhz : Nat} (h : Taken s .any false) (hs : scope < 3)
    (hm : mode < 2) (hlo : 600 ≤ mhz) (hhi : mhz ≤ 2100) : ∃ t, exec (.setClockPolicy src scope mode mhz) s = .next t ∧
      (scope ≠ 2 → t.power.westMhz = mhz) ∧ (scope ≠ 1 → t.power.eastMhz = mhz) ∧
      (t.cmdTotal = s.cmdTotal → (src, scope) ∈ t.power.clockWait) := by
  obtain ⟨t, ht, hwest, -, heast, -⟩ := setClockPolicy_spec (src := src) h hs hm hlo hhi
  refine ⟨t, ht, fun h2 => (hwest h2).2, fun h1 => (heast h1).2, fun htotal => ?_⟩
  have hparts := (foldl_retarget ((working s).filter (inScope scope)) (withPolicy s scope mode mhz)).1
  generalize hu : retargeted s scope mode mhz = u
  rw [setClockPolicy_runs h hs hm hlo hhi, hu] at ht
  rw [retargeted] at hu
  rw [hu] at hparts
  cases ht
  rw [policyDone_clockWait (htotal.trans (by rw [hparts]; rfl))]
  exact List.mem_append_right _ (List.mem_singleton_self _)

/-- A new entry without a token is outstanding (13 R438). -/
theorem sqEntryTake_outstanding {s : State} {q cid : Nat} {entry : List Byte} (hc : cmdOpen s = true)
    (hl : s.power.linkUp = true) (ht : turn s = some q) (hlen : entry.length = 64) (hbad : badEntry entry = false)
    (hr : outOfRange entry = none) (ho : (qp s q).outs = []) (hcid : cid = ofLe ((entry.drop 4).take 4))
    (htok : ofLe ((entry.drop 8).take 8) = 0) : ∃ t, exec (.sqEntryTake q entry) s = .next t ∧
      (qp t q).outs = [⟨cid, 0, (entry.getD 0 0).toNat⟩] ∧ SameBytes s t := by
  have htakes : Takes s q entry := ⟨hc, hl, ht, hlen, .inr ho⟩
  refine ⟨withCommand (entryTaken s q) q cid 0 (entry.getD 0 0).toNat, ?_, ?_, fun _ => rfl⟩
  · rw [sqEntryTake_good htakes hbad, show entryNum entry 8 8 = 0 from htok, show entryNum entry 4 4 = cid from hcid.symm,
      entryNum_byte, entryOutcome_new (.inl rfl), begun, hr]
  · rw [withCommand, qp_updQp_same, entryTaken, qp_updQp_same]
    change (qp s q).outs ++ _ = _
    rw [ho]
    rfl

/-- The oldest event in the log buffer, its detail drawn where it has none (log 12). -/
theorem eventRecordWrite_buffered {s : State} {e : Ev} {rest : List Ev} (hevs : s.evs = e :: rest)
    (hv : s.vault.state < 2) (hb : s.vault.buf.length < 4096) (hoff : s.ring.enable = false) :
    ∃ t x, exec (.eventRecordWrite) s = .next t ∧ t.evs = rest ∧ t.vault.buf = s.vault.buf ++ [x] ∧ x.ev.code = e.code := by
  cases hd : e.detail with
  | some d =>
    obtain ⟨t, ht, h, -⟩ := eventRecordWrite_spec hevs hv hb hd
    obtain rfl := h hoff
    exact ⟨_, _, ht, rfl, rfl, rfl⟩
  | none =>
    rw [eventRecordWrite_drawn hevs hd]
    obtain ⟨t, ht, h, -⟩ := eventRecordWrite_spec (s := { s with
      freeCtr := s.freeCtr + 1
      evs := { e with detail := some ((Config.freeWord s.freeCtr).toNat % 2 ^ 32) } :: rest }) rfl hv hb rfl
    obtain rfl := h hoff
    exact ⟨_, _, ht, rfl, rfl, rfl⟩

theorem enableQp_enable {x : Qp} (hs : x.sqM1 ≠ 0) (hc : x.cqM1 ≠ 0) : (enableQp x).enable = true := by
  by_cases he : x.enable = false
  · rw [enableQp_starts he hs hc]
  · rw [enableQp_stays (.inl (by simpa using he))]
    simpa using he

theorem enableRing_enable {r : EvtRing} (hm : r.m1 ≠ 0) : (enableRing r).enable = true := by
  by_cases he : r.enable = false
  · rw [enableRing_starts he hm]
  · rw [enableRing_stays (by simpa using he)]
    simpa using he

/-- A completion with no replay that waits for it. -/
theorem complete_alone {s : State} {src : Src} {st r tok : Nat} {x : Qp} (hx : x = qp s src.qp) (htok : tok = outToken x src.cid)
    (hn : ∀ p ∈ x.replays, tok = 0 ∨ p.2 ≠ tok) : ∃ t, complete s src st r = t ∧
      t = { s with hostMem := t.hostMem, posts := t.posts, qps := t.qps, vecDue := t.vecDue, cmdTotal := s.cmdTotal + 1 } ∧
      (s.power.linkUp = true → t.hostMem = memWrite s.hostMem (x.cqBase + 16 * x.cqTail) (cqEntry x src.cid st st r) ∧
        t.posts = s.posts) ∧
      (s.power.linkUp = false → t.hostMem = s.hostMem ∧
        t.posts = s.posts ++ [.write (x.cqBase + 16 * x.cqTail) (cqEntry x src.cid st st r)]) ∧
      qp t src.qp = cqNext (ended src.cid tok st r x) ∧ (∀ q, q ≠ src.qp → qp t q = qp s q) ∧ x.vector ∈ t.vecDue ∧
      (∀ v ∈ t.vecDue, v = x.vector ∨ v ∈ s.vecDue) := by
  subst hx htok
  have hc := complete_noReplay s src st r hn
  refine ⟨_, rfl, complete_parts .., ?_⟩
  rw [hc]
  exact ⟨fun h => (commandEnded_linked s src st r _ h).symm, fun h => commandEnded_unlinked s src st r _ h,
    qp_commandEnded_same .., fun q hq => qp_commandEnded_other s src st r _ hq, mem_commandEnded_vecDue ..,
    fun v hv => of_mem_commandEnded_vecDue s src st r _ hv⟩

/-- A completion that answers the one replay that waited for it. -/
theorem complete_withReplay {s : State} {src : Src} {st r tok c : Nat} {x : Qp} (hx : x = qp s src.qp)
    (htok : tok = outToken x src.cid) (hr : x.replays = [(c, tok)]) (h0 : tok ≠ 0) (hl : s.power.linkUp = true) :
    ∃ t, complete s src st r = t ∧ t.cmdTotal = s.cmdTotal + 1 ∧ (qp t src.qp).replays = [] ∧
      (qp t src.qp).outs = dropOut c (dropOut src.cid x.outs) ∧ (qp t src.qp).unread = x.unread + 2 ∧
      t.hostMem = memWrite (memWrite s.hostMem (x.cqBase + 16 * x.cqTail) (cqEntry x src.cid st st r))
        (x.cqBase + 16 * (cqNext x).cqTail) (cqEntry (cqNext x) c 0x01 st r) := by
  subst hx htok
  have hc := complete_replay s src st r hr h0
  have hq := qp_commandEnded_same s src st r (outToken (qp s src.qp) src.cid)
  have hmem := (commandEnded_linked s src st r (outToken (qp s src.qp) src.cid) hl).2
  have hlink := (commandEnded_linkUp s src st r (outToken (qp s src.qp) src.cid)).trans hl
  refine ⟨_, rfl, congrArg State.cmdTotal (complete_parts ..), ?_⟩
  rw [hc]
  generalize commandEnded s src _ st r = u at hq hmem hlink
  generalize htok : outToken (qp s src.qp) src.cid = tok at hq hr
  have hpair : qp (replayAnswered src st r u (c, tok)) src.qp = cqNext { qp u src.qp with
      outs := dropOut c (qp u src.qp).outs
      replays := (qp u src.qp).replays.erase (c, tok) } :=
    (qp_postCq_same ..).trans (congrArg cqNext (qp_updQp_same ..))
  have hhost := (postCq_linked (updQp u src.qp (fun x => { x with
    outs := dropOut c x.outs
    replays := x.replays.erase (c, tok) })) src.qp c 0x01 st r hlink).2
  rw [qp_updQp_same] at hhost
  rw [hpair, hq]
  refine ⟨?_, rfl, rfl, ?_⟩
  · change (qp s src.qp).replays.erase (c, tok) = []
    rw [hr, List.erase_cons_head]
  · refine hhost.trans ?_
    rw [hq]
    change memWrite u.hostMem _ _ = _
    rw [hmem]
    rfl

/-- Settles O42: refusals by `command`, the completion entry and its pair, and the commands that complete. -/
theorem commandsAndCompletions : Obligations.CommandsAndCompletions := by
  refine ⟨fun s src a h => ⟨identify_writes h, fun nonce len hl hh => attest_completes h hl hh,
      fun cap hlo hhi => ⟨_, rfl, rfl, setBudget_sets h hlo hhi rfl⟩, fun page hp hh => readTelemetry_completes h hp hh,
      fun len n hb hn hl hh => ⟨_, (length_faultMapBytes s).trans hn.symm, readFaultMap_writes h hb hn hl hh⟩,
      fun scope mode mhz hs hm hlo hhi => setClockPolicy_waits h hs hm hlo hhi⟩,
    fun s src h => ⟨fun g cfg hg hu hok => ⟨_, setWatch_sets h hg hu hok, ?watch⟩,
      fun a len slot kind w k hd hk hs ho hkeep he hw hu hne =>
        ⟨_, provisionKey_takes h hd hk hs ho hkeep he hw hu hne, fun h4 => ?link, fun h1 => ?data⟩⟩,
    fun s src k a size c h hc hk h8 ha hs => ⟨_, ?armed, armOffload_arms h hc hk h8 ha hs⟩,
    fun s q hb hq => ⟨⟨_, qpDisable_runs hb hq, congrArg Qp.enable (qp_updQp_same ..)⟩,
      fun hs hc => ⟨_, qpEnable_runs hb hq, (congrArg Qp.enable (qp_updQp_same ..)).trans (enableQp_enable hs hc)⟩,
      fun hm => ⟨_, evtRingEnable_runs hb, enableRing_enable hm⟩⟩,
    fun s q cid entry => sqEntryTake_outstanding, fun s e rest => eventRecordWrite_buffered,
    fun s c src cls supply h => hostCmd_refused h,
    fun s src st r tok tail x ph e hx htok htail hph he => ?complete⟩
  case watch => exact congrArg Group.nextCfg (Table.get_upd_same ({} : Group) s.groups g (fun x => { x with nextCfg := some cfg }))
  case armed => exact congrArg Ofl.armed (Table.get_upd_same ({} : Ofl) s.ofls k
    (fun o => { o with armed := true, base := a, size := size }))
  case link =>
    subst h4
    rfl
  case data =>
    interval_cases kind <;> exact Table.get_set_same ..
  case complete =>
    subst htail hph he
    refine ⟨length_cqEntry x src.cid st st r, fun hn => complete_alone hx htok hn, fun c d hr h0 hl hd => ?_⟩
    subst hd
    exact complete_withReplay hx htok hr h0 hl

end Sys2Proof.Machine
end

/-! ## Host accesses through BAR0 and BAR2 (00 R11, R601; 13 R431, R433 to R435) -/
section
set_option Elab.async false
namespace Sys2Proof.Machine
open Sys2Proof

theorem exec_rcRead (o size : Nat) (s : State) : exec (.rcRead o size) s = execRcRead o size s := rfl

theorem exec_registerWrite (o size v : Nat) (poisoned : Bool) (s : State) :
    exec (.registerWrite o size v poisoned) s = execRegisterWrite o size v poisoned s := rfl

theorem exec_bar2Read (o len : Nat) (s : State) : exec (.bar2Read o len) s = execBar2Read o len s := rfl

theorem exec_bar2Write (o : Nat) (data : List Byte) (poisoned : Bool) (s : State) :
    exec (.bar2Write o data poisoned) s = execBar2Write o data poisoned s := rfl

/-! ### Reads of registers -/

/-- The state with the value of a word no longer shown from before the sealed job, and a measured value drawn. -/
def wordRead (s : State) (w o : Nat) : State :=
  let x := o / 8 * 8
  let u := if sealedJob s || o % 8 ≠ 0 then s else { s with held := s.held.drop (regKey w x) }
  if drawsReg u w x then { u with freeCtr := u.freeCtr + 1 } else u

theorem readReg_eq (s : State) (o size : Nat) : readReg s o size =
    (clearRc (wordRead s (o / 0x400000) (o % 0x400000)) (o / 0x400000) (o % 0x400000) size,
      heldWord s (o / 0x400000) (o % 0x400000 / 8 * 8) (word64 s (o / 0x400000) (o % 0x400000 / 8 * 8)) /
        2 ^ (8 * (o % 0x400000 % 8)) % 2 ^ (8 * size)) := rfl

theorem wordRead_parts (s : State) (w o : Nat) : wordRead s w o = { s with
    held := (wordRead s w o).held
    freeCtr := (wordRead s w o).freeCtr } := by
  unfold wordRead
  dsimp only
  split <;> split <;> rfl

theorem wordRead_held (s : State) (w o : Nat) : (wordRead s w o).held =
    if sealedJob s || o % 8 ≠ 0 then s.held else s.held.drop (regKey w (o / 8 * 8)) := by
  unfold wordRead
  dsimp only
  split <;> split <;> rfl

theorem hiddenField_wordRead (s : State) (w o x : Nat) : hiddenField (wordRead s w o) w x = hiddenField s w x := by
  rw [wordRead_parts]
  rfl

theorem reg_wordRead (s : State) (w o k : Nat) : reg (wordRead s w o) k = reg s k := by
  rw [wordRead_parts]
  rfl

theorem clearRc_parts (s : State) (w o size : Nat) : clearRc s w o size = { s with regs := (clearRc s w o size).regs } := by
  unfold clearRc
  dsimp only
  split
  · split <;> rfl
  · rfl

theorem rcField_ordered {w x hi lo : Nat} (h : rcField w x = some (hi, lo)) : lo ≤ hi := by
  unfold rcField at h
  split_ifs at h <;> cases h <;> decide

section
variable {s : State} {w o size hi lo : Nat}

theorem clearRc_none (h : rcField w (o / 8 * 8) = none) : clearRc s w o size = s := by
  rw [clearRc, h]

theorem clearRc_keeps (h : rcField w (o / 8 * 8) = some (hi, lo))
    (hk : hiddenField s w (o / 8 * 8) = true ∨ lo < 8 * (o % 8) ∨ 8 * (o % 8 + size) ≤ hi) : clearRc s w o size = s := by
  rw [clearRc, h]
  refine if_pos ?_
  rw [Bool.or_eq_true, Bool.or_eq_true, decide_eq_true_eq, decide_eq_true_eq]
  have : o - o / 8 * 8 = o % 8 := by omega
  rcases hk with hk | hk | hk
  · exact .inl (.inl hk)
  · exact .inl (.inr (by omega))
  · exact .inr (by omega)

theorem clearRc_clears (h : rcField w (o / 8 * 8) = some (hi, lo)) (hh : hiddenField s w (o / 8 * 8) = false)
    (hlo : 8 * (o % 8) ≤ lo) (hhi : hi < 8 * (o % 8 + size)) : clearRc s w o size =
      setReg s (regKey w (o / 8 * 8)) (setBits (reg s (regKey w (o / 8 * 8))) hi lo 0) := by
  rw [clearRc, h]
  refine if_neg ?_
  rw [Bool.or_eq_true, Bool.or_eq_true, decide_eq_true_eq, decide_eq_true_eq, hh]
  have : o - o / 8 * 8 = o % 8 := by omega
  rintro ((hc | hc) | hc)
  · cases hc
  · omega
  · omega

end

theorem reg_lt (s : State) (k : Nat) : reg s k < 2 ^ 64 := (s.regs.get 0 k).isLt

theorem bits_cleared (s : State) (k : Nat) {hi lo : Nat} (h : lo ≤ hi) :
    bits (reg (setReg s k (setBits (reg s k) hi lo 0)) k) hi lo = 0 := by
  have hle : setBits (reg s k) hi lo 0 < 2 ^ 64 := by
    have := reg_lt s k
    rw [setBits, Nat.zero_mod, Nat.zero_mul]
    omega
  rw [reg_setReg_same, Nat.mod_eq_of_lt hle, bits_setBits_self h, Nat.zero_mod]

section
variable {s : State} (hb : barOpen s = true) {o : Nat} (ho : o < 0x4000000)
include hb ho

theorem rcRead_good {size : Nat} (hg : goodAccess o size = true) : exec (.rcRead o size) s =
    .next { (readReg s o size).1 with barReply := some (leBytes size (readReg s o size).2) } := by
  rw [exec_rcRead, execRcRead, if_neg (by simp [hb]; omega), if_neg (by simp [hg])]

theorem rcRead_bad {size : Nat} (hg : goodAccess o size = false) : exec (.rcRead o size) s =
    .next { badAccess s with barReply := some (List.replicate size 0) } := by
  rw [exec_rcRead, execRcRead, if_neg (by simp [hb]; omega), if_pos (by simp [hg])]

theorem registerWrite_bad {size : Nat} (hg : goodAccess o size = false) (v : Nat) :
    exec (.registerWrite o size v false) s = .next (badAccess s) := by
  rw [exec_registerWrite, execRegisterWrite, if_neg (by simp [hb]; omega), if_neg (by decide), if_pos (by simp [hg])]

theorem registerWrite_good {size : Nat} (hg : goodAccess o size = true) (v : Nat) :
    exec (.registerWrite o size v false) s = .next (writeReg s o size v) := by
  rw [exec_registerWrite, execRegisterWrite, if_neg (by simp [hb]; omega), if_neg (by decide), if_neg (by simp [hg])]

theorem registerWrite_poisoned (size v : Nat) : exec (.registerWrite o size v true) s =
    .next (raise (setBit s cmdErrKey 1) 0x0C02 15 0 none) := by
  rw [exec_registerWrite, execRegisterWrite, if_neg (by simp [hb]; omega), if_pos rfl, poisonedWrite]

/-- A read by the register's bytes, what it clears and what it draws. -/
theorem rcRead_spec {size w x : Nat} (hg : goodAccess o size = true) (hw : w = o / 0x400000)
    (hx : x = o % 0x400000 / 8 * 8) : ∃ t, exec (.rcRead o size) s = .next t ∧
      t = { s with barReply := t.barReply, regs := t.regs, freeCtr := t.freeCtr, held := t.held } ∧
      t.barReply = some (leBytes size (heldWord s w x (word64 s w x) / 2 ^ (8 * (o % 8)) % 2 ^ (8 * size))) ∧
      (s.held = [] → heldWord s w x (word64 s w x) = word64 s w x ∧ t.held = []) ∧
      (sealedJob s = false → o % 8 = 0 → t.held = s.held.drop (regKey w x)) ∧
      ((sealedJob s = true ∨ o % 8 ≠ 0) → t.held = s.held) ∧
      (rcField w x = none → t.regs = s.regs) ∧
      (∀ hi lo, rcField w x = some (hi, lo) →
        (hiddenField s w x = false → 8 * (o % 8) ≤ lo → hi < 8 * (o % 8 + size) →
          bits (reg t (regKey w x)) hi lo = 0 ∧ ∀ k, k ≠ regKey w x → reg t k = reg s k) ∧
        ((hiddenField s w x = true ∨ lo < 8 * (o % 8) ∨ 8 * (o % 8 + size) ≤ hi) → t.regs = s.regs)) := by
  have hmod : o % 0x400000 % 8 = o % 8 := Nat.mod_mod_of_dvd _ (by decide)
  have hheld := wordRead_held s w (o % 0x400000)
  rw [hmod, ← hx] at hheld
  have hregs : (wordRead s w (o % 0x400000)).regs = s.regs := by rw [wordRead_parts]
  have hhide := hiddenField_wordRead s w (o % 0x400000) x
  have hreg := reg_wordRead s w (o % 0x400000)
  have hparts := wordRead_parts s w (o % 0x400000)
  refine ⟨_, rcRead_good hb ho hg, ?_⟩
  rw [readReg_eq, ← hw, ← hx, hmod]
  dsimp only
  generalize wordRead s w (o % 0x400000) = u at hheld hregs hhide hreg hparts ⊢
  have hcheld : (clearRc u w (o % 0x400000) size).held = u.held := by rw [clearRc_parts]
  refine ⟨?_, rfl, fun hn => ⟨?_, ?_⟩, fun hs h8 => ?_, fun hn => ?_, fun hn => ?_, fun hi lo hf => ⟨fun hh hlo hhi => ?_, fun hk => ?_⟩⟩
  · rw [clearRc_parts, hparts]
  · rw [heldWord, hn]
    rfl
  · refine hcheld.trans (hheld.trans ?_)
    rw [hn]
    split <;> rfl
  · exact hcheld.trans (hheld.trans (if_neg (by simp [hs, h8])))
  · exact hcheld.trans (hheld.trans (if_pos (by simpa using hn)))
  · rw [hx] at hn
    exact (congrArg State.regs (clearRc_none hn)).trans hregs
  · have hc := clearRc_clears (s := u) (size := size) (by rw [← hx]; exact hf) (by rw [← hx, hhide]; exact hh)
      (by rw [hmod]; exact hlo) (by rw [hmod]; exact hhi)
    rw [← hx] at hc
    rw [hc]
    exact ⟨bits_cleared u _ (rcField_ordered hf), fun k hk => (reg_setReg_other u _ k _ hk).trans (hreg k)⟩
  · have hc := clearRc_keeps (s := u) (size := size) (by rw [← hx]; exact hf) (by rw [← hx, hhide, hmod]; exact hk)
    exact (congrArg State.regs hc).trans hregs

end

/-! ### Writes of registers -/

section
variable {s : State} {o size w x : Nat} (hw : w = o / 0x400000) (hx : x = o % 0x400000 / 8 * 8)
include hw hx

/-- The bits written as 1 of a write-1-to-clear word. -/
theorem writeReg_w1c (v : Nat) (hm : w1cMask w x ≠ 0) (hh : hiddenField s w x = false) : writeReg s o size v =
    setReg s (regKey w x) (reg s (regKey w x) ^^^ (reg s (regKey w x) &&&
      (w1cMask w x &&& (v % 2 ^ (8 * size) * 2 ^ (8 * (o % 8)))))) := by
  have hmod : o % 0x400000 % 8 = o % 8 := Nat.mod_mod_of_dvd _ (by decide)
  rw [writeReg, hmod, ← hw, ← hx]
  exact (if_pos hm).trans (if_neg (by simp [hh]))

theorem writeReg_none (v : Nat) (hm : w1cMask w x = 0) (h10 : w ≠ 10) : writeReg s o size v = s := by
  rw [writeReg, ← hw, ← hx]
  exact (if_neg (not_not.2 hm)).trans (if_neg h10)

end

theorem testBit_written (v size lo i : Nat) : (v % 2 ^ (8 * size) * 2 ^ (8 * lo)).testBit i =
    (decide (8 * lo ≤ i) && decide (i < 8 * (lo + size)) && bitOf v (i - 8 * lo)) := by
  rw [Nat.testBit_mul_two_pow, Nat.testBit_mod_two_pow, bitOf_eq_testBit]
  by_cases h : 8 * lo ≤ i
  · have : decide (i - 8 * lo < 8 * size) = decide (i < 8 * (lo + size)) := by
      rw [decide_eq_decide]
      omega
    rw [this, decide_eq_true h]
    simp
  · simp [h]

/-- A bit of a word from which ones are cleared. -/
theorem bitOf_reg_cleared (s : State) (k m : Nat) (i : Nat) :
    bitOf (reg (setReg s k (reg s k ^^^ (reg s k &&& m))) k) i = (bitOf (reg s k) i && !m.testBit i) := by
  rw [reg_setReg_same, bitOf_mod_two_pow]
  by_cases hi : i < 64
  · rw [bitOf_eq_testBit, Nat.testBit_xor, Nat.testBit_and, bitOf_eq_testBit, decide_eq_true hi]
    cases (reg s k).testBit i <;> cases m.testBit i <;> rfl
  · rw [bitOf_reg_of_ge s k (by omega), decide_eq_false hi]
    rfl

theorem registerWrite_w1c {s : State} (hb : barOpen s = true) {o size v w x : Nat} (ho : o < 0x4000000)
    (hg : goodAccess o size = true) (hw : w = o / 0x400000) (hx : x = o % 0x400000 / 8 * 8) (hm : w1cMask w x ≠ 0)
    (hh : hiddenField s w x = false) : ∃ t, exec (.registerWrite o size v false) s = .next t ∧
      t = { s with regs := t.regs } ∧ (∀ k, k ≠ regKey w x → reg t k = reg s k) ∧
      ∀ i, bitOf (reg t (regKey w x)) i = (bitOf (reg s (regKey w x)) i && !(bitOf (w1cMask w x) i &&
        (decide (8 * (o % 8) ≤ i) && decide (i < 8 * (o % 8 + size)) && bitOf v (i - 8 * (o % 8))))) := by
  rw [registerWrite_good hb ho hg, writeReg_w1c hw hx v hm hh]
  refine ⟨_, rfl, rfl, fun k hk => reg_setReg_other _ _ _ _ hk, fun i => ?_⟩
  rw [bitOf_reg_cleared, Nat.testBit_and, testBit_written, bitOf_eq_testBit (w1cMask w x)]

section
variable {s : State} {o x v : Nat} (hw : o / 0x400000 = 10) (hx : o % 0x400000 = x) (h8 : x % 8 = 0)
  (hm : w1cMask 10 x = 0)
include hw hx h8 hm

/-- A write of the low half of a module-wide word. -/
theorem writeReg_low : writeReg s o 4 v = writeMod s x (v % 2 ^ 32 + word64 s 10 x / 2 ^ 32 * 2 ^ 32) true false := by
  have hal : x / 8 * 8 = x := by omega
  rw [writeReg, hw, hx, hal, h8]
  refine (if_neg (not_not.2 hm)).trans ((if_pos rfl).trans ?_)
  generalize word64 s 10 x = old
  have : v % 2 ^ (8 * 4) * 2 ^ (8 * 0) % 2 ^ 32 = v % 2 ^ 32 := by omega
  rw [this]
  rfl

/-- A write of a whole module-wide word. -/
theorem writeReg_whole : writeReg s o 8 v = writeMod s x (v % 2 ^ 64) true true := by
  have hal : x / 8 * 8 = x := by omega
  rw [writeReg, hw, hx, hal, h8]
  refine (if_neg (not_not.2 hm)).trans ((if_pos rfl).trans ?_)
  generalize word64 s 10 x = old
  have : v % 2 ^ (8 * 8) * 2 ^ (8 * 0) % 2 ^ 32 + v % 2 ^ (8 * 8) * 2 ^ (8 * 0) / 2 ^ 32 * 2 ^ 32 = v % 2 ^ 64 := by omega
  exact congrArg (fun n => writeMod s x n true true) this

end

/-- Module-wide words past the event summary's have no write-1-to-clear bit. -/
theorem w1cMask_host {x : Nat} (h : 0x80018 ≤ x) : w1cMask 10 x = 0 := by
  unfold w1cMask
  rw [if_neg (by decide), if_neg (by decide), if_pos rfl, if_neg (by omega), if_neg (by simp; omega), if_neg (by omega),
    if_neg (by omega), if_neg (by omega), if_neg (by simp; omega), if_neg (by omega)]

section
variable (s : State) {q : Nat} (hq : q < 64) (n : Nat)

theorem writeMod_alert (hlo : 4000 ≤ bits n 31 16) (hhi : bits n 31 16 ≤ 14000) :
    writeMod s 0x720 n true false = updPower s (fun p => { p with alertCap := bits n 31 16 }) := by
  rw [writeMod, if_pos rfl]
  exact if_neg (by simp; omega)

theorem writeMod_warmReset : writeMod s 0x80018 n true false = warmReset s n := by
  rw [writeMod, if_neg (by decide), if_pos rfl, if_pos rfl]

theorem writeMod_evtHead : writeMod s 0x81018 n true false = afterOut s (execCmdEvtHead n s) := by
  rw [writeMod, if_neg (by decide), if_neg (by decide), if_neg (by decide), if_neg (by decide), if_pos rfl, if_pos rfl]

include hq

theorem writeMod_sqBase : writeMod s (0x84000 + 64 * q) n true true =
    updQp s q (fun x => if x.enable then x else { x with sqBase := n / 4096 * 4096 }) := by
  have h : (0x84000 + 64 * q - 0x84000) / 64 = q := by omega
  rw [writeMod, if_neg (by omega), if_neg (by omega), if_neg (by omega), if_neg (by omega), if_neg (by omega),
    if_pos (by simp; omega), h]
  exact if_pos (by omega)

theorem writeMod_sqTail : writeMod s (0x100000 + 0x1000 * q) n true false = afterOut s (execCmdSqTail q n s) := by
  have h : (0x100000 + 0x1000 * q - 0x100000) / 0x1000 = q := by omega
  rw [writeMod, if_neg (by omega), if_neg (by omega), if_neg (by omega), if_neg (by omega), if_neg (by omega),
    if_neg (by simp; omega), if_pos (by simp; omega), h]
  exact if_pos (by omega)

theorem writeMod_cqHead : writeMod s (0x100008 + 0x1000 * q) n true false = afterOut s (execCmdCqHead q n s) := by
  have h : (0x100008 + 0x1000 * q - 0x100000) / 0x1000 = q := by omega
  rw [writeMod, if_neg (by omega), if_neg (by omega), if_neg (by omega), if_neg (by omega), if_neg (by omega),
    if_neg (by simp; omega), if_pos (by simp; omega), h]
  exact (if_neg (by omega)).trans (if_pos (by omega))

end

/-! ### A doorbell by what it reads of a number -/

theorem cmdSqTail_mod {v n : Nat} (h : n % 4096 = v % 4096) (q : Nat) (s : State) :
    execCmdSqTail q n s = execCmdSqTail q v s := by
  rw [execCmdSqTail, execCmdSqTail, h]

theorem cmdCqHead_mod {v n : Nat} (h : n % 4096 = v % 4096) (q : Nat) (s : State) :
    execCmdCqHead q n s = execCmdCqHead q v s := by
  rw [execCmdCqHead, execCmdCqHead, h]

theorem cmdEvtHead_mod {v n : Nat} (h : n % 65536 = v % 65536) (s : State) : execCmdEvtHead n s = execCmdEvtHead v s := by
  rw [execCmdEvtHead, execCmdEvtHead, h]

theorem warmReset_mod {v n : Nat} (h : n % 2 ^ 32 = v % 2 ^ 32) (s : State) : warmReset s n = warmReset s v := by
  rw [warmReset, warmReset, h]

/-- An outcome that goes on is that of the state it leaves. -/
theorem next_afterOut {s : State} {o : Out} (h : ∃ t, o = .next t) : .next (afterOut s o) = o := by
  obtain ⟨t, rfl⟩ := h
  rfl

theorem cmdSqTail_next (q v : Nat) (s : State) : ∃ t, execCmdSqTail q v s = .next t := by
  unfold execCmdSqTail
  split_ifs <;> exact ⟨_, rfl⟩

theorem cmdCqHead_next (q v : Nat) (s : State) : ∃ t, execCmdCqHead q v s = .next t := by
  unfold execCmdCqHead
  split_ifs <;> exact ⟨_, rfl⟩

theorem cmdEvtHead_next (v : Nat) (s : State) : ∃ t, execCmdEvtHead v s = .next t := by
  unfold execCmdEvtHead
  dsimp only
  split_ifs <;> exact ⟨_, rfl⟩

section
variable {s : State} (hb : barOpen s = true) {q : Nat} (hq : q < 64) (v : Nat)
include hb

theorem registerWrite_warmReset : exec (.registerWrite 0x2880018 4 v false) s = exec (.warmReset v) s := by
  rw [registerWrite_good hb (by decide) rfl,
    writeReg_low (x := 0x80018) (by decide) (by decide) (by decide) (w1cMask_host (by decide)), writeMod_warmReset,
    warmReset_mod (v := v) (by omega)]
  exact (if_neg (by simp [hb])).symm

theorem registerWrite_evtHead : exec (.registerWrite 0x2881018 4 v false) s = exec (.cmdEvtHead v) s := by
  rw [registerWrite_good hb (by decide) rfl,
    writeReg_low (x := 0x81018) (by decide) (by decide) (by decide) (w1cMask_host (by decide)), writeMod_evtHead,
    cmdEvtHead_mod (v := v) (by omega), next_afterOut (cmdEvtHead_next ..), exec_cmdEvtHead]

theorem registerWrite_alertCap (hlo : 4000 ≤ bits v 31 16) (hhi : bits v 31 16 ≤ 14000) :
    exec (.registerWrite 0x2800720 4 v false) s =
      .next { s with power := { s.power with alertCap := bits v 31 16 } } := by
  have hn : bits (v % 2 ^ 32 + word64 s 10 0x720 / 2 ^ 32 * 2 ^ 32) 31 16 = bits v 31 16 := by
    generalize word64 s 10 0x720 = old
    unfold bits
    omega
  rw [registerWrite_good hb (by decide) rfl, writeReg_low (x := 0x720) (by decide) (by decide) (by decide) (by decide),
    writeMod_alert _ _ (by rw [hn]; exact hlo) (by rw [hn]; exact hhi), hn]
  rfl

include hq

theorem registerWrite_sqTail : exec (.registerWrite (0x2900000 + 0x1000 * q) 4 v false) s = exec (.cmdSqTail q v) s := by
  rw [registerWrite_good hb (by omega) (by simp [goodAccess]; omega),
    writeReg_low (x := 0x100000 + 0x1000 * q) (by omega) (by omega) (by omega) (w1cMask_host (by omega)),
    writeMod_sqTail s hq, cmdSqTail_mod (v := v) (by omega), next_afterOut (cmdSqTail_next ..)]
  rfl

theorem registerWrite_cqHead : exec (.registerWrite (0x2900008 + 0x1000 * q) 4 v false) s = exec (.cmdCqHead q v) s := by
  rw [registerWrite_good hb (by omega) (by simp [goodAccess]; omega),
    writeReg_low (x := 0x100008 + 0x1000 * q) (by omega) (by omega) (by omega) (w1cMask_host (by omega)),
    writeMod_cqHead s hq, cmdCqHead_mod (v := v) (by omega), next_afterOut (cmdCqHead_next ..)]
  rfl

theorem registerWrite_sqBase (he : (qp s q).enable = false) : exec (.registerWrite (0x2884000 + 64 * q) 8 v false) s =
    .next (updQp s q (fun x => { x with sqBase := v % 2 ^ 64 / 4096 * 4096 })) := by
  rw [registerWrite_good hb (by omega) (by simp [goodAccess]; omega),
    writeReg_whole (x := 0x84000 + 64 * q) (by omega) (by omega) (by omega) (w1cMask_host (by omega)),
    writeMod_sqBase s hq]
  refine congrArg (fun x => Host.Outcome.next { s with qps := s.qps.set q x }) ?_
  exact if_neg (by rw [← qp, he]; decide)

end

/-! ### BAR2 -/

section
variable {s : State} (hb : barOpen s = true)
include hb

theorem bar2Read_notReady (hr : s.power.ready = false) (o len : Nat) :
    exec (.bar2Read o len) s = .next { s with barReply := none } := by
  rw [exec_bar2Read, execBar2Read, if_neg (by simp [hb]), if_pos (by simp [hr])]

variable (hr : s.power.ready = true) {o : Nat}
include hr

theorem bar2Read_denied {len : Nat} (hm : bar2Mapped s o len = false) : exec (.bar2Read o len) s =
    .next { raise (setBit s cmdErrKey 2) 0x0C03 15 0 none with barReply := none } := by
  rw [exec_bar2Read, execBar2Read, if_neg (by simp [hb]), if_neg (by simp [hr]), if_pos (by simp [hm]), bar2Denied]

theorem bar2Read_blocked {len : Nat} (hm : bar2Mapped s o len = true) (hbl : bar2Blocked s o len = true) :
    exec (.bar2Read o len) s = .next { s with barReply := none } := by
  rw [exec_bar2Read, execBar2Read, if_neg (by simp [hb]), if_neg (by simp [hr]), if_neg (by simp [hm]), if_pos hbl]

theorem bar2Read_reads {len : Nat} (hm : bar2Mapped s o len = true) (hbl : bar2Blocked s o len = false)
    (hc : s.cwErr = []) : ∃ t, exec (.bar2Read o len) s = .next t ∧
      t = { s with barReply := some (memRead s.mem (lpBase + o) len), reached := t.reached } := by
  rw [exec_bar2Read, execBar2Read, if_neg (by simp [hb]), if_neg (by simp [hr]), if_neg (by simp [hm]),
    if_neg (by simp [hbl])]
  dsimp only
  rw [readBytes_noErrors hc, readMem_noErrors hc]
  refine ⟨_, rfl, ?_⟩
  rw [touch_parts]
  rfl

theorem bar2Write_poisoned (data : List Byte) :
    exec (.bar2Write o data true) s = .next (raise (setBit s cmdErrKey 1) 0x0C02 15 0 none) := by
  rw [exec_bar2Write, execBar2Write, if_neg (by simp [hb, hr]), if_pos rfl, poisonedWrite]

theorem bar2Write_denied {data : List Byte} (hm : bar2Mapped s o data.length = false) :
    exec (.bar2Write o data false) s = .next (raise (setBit s cmdErrKey 2) 0x0C03 15 0 none) := by
  rw [exec_bar2Write, execBar2Write, if_neg (by simp [hb, hr]), if_neg (by decide), if_pos (by simp [hm]), bar2Denied]

theorem bar2Write_blocked {data : List Byte} (hm : bar2Mapped s o data.length = true)
    (hbl : bar2Blocked s o data.length = true) : exec (.bar2Write o data false) s = .next s := by
  rw [exec_bar2Write, execBar2Write, if_neg (by simp [hb, hr]), if_neg (by decide), if_neg (by simp [hm]), if_pos hbl]

theorem bar2Write_writes {data : List Byte} (hm : bar2Mapped s o data.length = true)
    (hbl : bar2Blocked s o data.length = false) (hc : s.cwErr = []) : ∃ t, exec (.bar2Write o data false) s = .next t ∧
      t = { s with mem := t.mem, cwErr := t.cwErr, writeBack := t.writeBack, reached := t.reached } ∧
      (∀ i, i < data.length → memGet t.mem (lpBase + o + i) = data.getD i 0) ∧
      (∀ a, a < lpBase + o ∨ lpBase + o + data.length ≤ a → memGet t.mem a = memGet s.mem a) := by
  obtain ⟨-, -, hmem⟩ := writeMem_clean (s := s) (a := lpBase + o) (bs := data) fun i _ => cleanCw_of_noErrors hc _
  rw [exec_bar2Write, execBar2Write, if_neg (by simp [hb, hr]), if_neg (by decide), if_neg (by simp [hm]),
    if_neg (by simp [hbl])]
  refine ⟨_, rfl, writeMem_noErrors hc _ _, fun i hi => ?_, fun a ha => ?_⟩
  · rw [hmem, if_pos (by omega), Nat.add_sub_cancel_left, List.getElem?_eq_getElem hi, List.getD_eq_getElem _ _ hi]
    rfl
  · rw [hmem]
    split
    · rw [List.getElem?_eq_none (by omega)]
      rfl
    · rfl

end

/-- Settles O47: reads and writes of registers by the access type of their fields, and of memory by BAR2. -/
theorem registerAccesses : Obligations.RegisterAccesses := by
  intro s hb
  refine ⟨fun o size w x ho hg hw hx => rcRead_spec hb ho hg hw hx,
    fun o size ho hg => ⟨rcRead_bad hb ho hg, registerWrite_bad hb ho hg⟩,
    fun o size v ho => registerWrite_poisoned hb ho size v,
    fun o size v w x ho hg hw hx => ⟨registerWrite_w1c hb ho hg hw hx, fun hm h10 => ?_⟩,
    fun q v hq => ⟨registerWrite_sqTail hb hq v, registerWrite_cqHead hb hq v, registerWrite_warmReset hb v,
      registerWrite_evtHead hb v, registerWrite_sqBase hb hq v, registerWrite_alertCap hb v⟩,
    fun o len hr => ⟨bar2Read_blocked hb hr, bar2Read_reads hb hr, bar2Read_denied hb hr⟩,
    fun o data hr => ⟨bar2Write_blocked hb hr, bar2Write_writes hb hr, bar2Write_denied hb hr,
      bar2Write_poisoned hb hr data⟩,
    fun hr => bar2Read_notReady hb hr⟩
  rw [registerWrite_good hb ho hg, writeReg_none hw hx v hm h10]

end Sys2Proof.Machine
end

/-! ## Fault stops, the watchdog, dumps and snapshots (08 R323 to R330; 11 R404; 13 R457, R461, R462) -/
section
set_option Elab.async false
namespace Sys2Proof.Machine
open Sys2Proof

theorem exec_faultStop (s : State) : exec .faultStop s = execFaultStop s := rfl

theorem exec_hurWatchdog (w : Waiter) (s : State) : exec (.hurWatchdog w) s = execHurWatchdog w s := rfl

theorem exec_hurDumpDone (s : State) : exec .hurDumpDone s = execHurDumpDone s := rfl

theorem exec_dumpTake (src : Src) (a : Nat) (s : State) : exec (.dumpTake src a) s = execDumpTake src a s := rfl

theorem exec_dumpCopyLast (src : Src) (a : Nat) (s : State) :
    exec (.dumpCopyLast src a) s = execDumpCopyLast src a s := rfl

theorem exec_snapshot (src : Src) (dest limit kind fmt : Nat) (sc : Bool) (mask : Nat) (s : State) :
    exec (.snapshot src dest limit kind fmt sc mask) s = execSnapshot src dest limit kind fmt sc mask s := rfl

theorem exec_snapshotChunkRead (k slot : Nat) (s : State) :
    exec (.snapshotChunkRead k slot) s = execSnapshotChunkRead k slot s := rfl

/-! ### A trigger -/

/-- A dump that begins, with the records of the held instant (08 R325, R327). -/
def begunDump (s : State) (trigger event station : Nat) (src : Option (Src × Nat)) : Dump :=
  { state := 1, trigger := trigger, isSealed := sealedJob s, seq := s.dump.seq + 1, event := event, station := station
    time := s.timeNs, src := src, held := heldRecords s }

section
variable {s : State}

theorem startDump_begins (h : s.dump.state ≠ 1) (trigger event station : Nat) (src : Option (Src × Nat)) :
    startDump s trigger event station src = { s with dump := begunDump s trigger event station src } := if_neg h

/-- A trigger during a dump that ends the RUN is recorded only (08 R328). -/
theorem startDump_second (h : dumpEnds s = true) (trigger event station : Nat) (src : Option (Src × Nat)) :
    startDump s trigger event station src = { s with dump := { s.dump with second := true } } := by
  rw [dumpEnds, Bool.and_eq_true, decide_eq_true_eq, Bool.or_eq_true, decide_eq_true_eq, decide_eq_true_eq] at h
  have hl : (if s.dump.trigger = 2 && s.dump.later = 0 then trigger else s.dump.later) = s.dump.later :=
    if_neg (by simpa [imp_iff_not_or] using h.2)
  rw [startDump, if_pos h.1, hl]

theorem dumpEnds_idle (h : s.dump.state ≠ 1) : dumpEnds s = false := by
  rw [dumpEnds, decide_eq_false h, Bool.false_and]

/-! ### A fault stop (13 R457) -/

/-- A stop that has begun, with its event. -/
def stopBegun (s : State) : State := raise { s with stop := { s.stop with active := true, stage := 1 } } 0x0C0A 15 0 none

theorem stopStep1_noStep (h : stepOpen s = false) : stopStep1 s = stopBegun s := by
  have ho : stepOpen (stopBegun s) = false := h
  rw [stopStep1]
  change (match stepItems (stopBegun s) with
    | some (h, _, _, _) => if stepOpen (stopBegun s) && !(stopBegun s).coord.voted then castVote (stopBegun s) h true
        else stopBegun s
    | none => stopBegun s) = _
  rw [ho]
  split <;> rfl

theorem stopStep1_votes {h a d ep : Nat} (ho : stepOpen s = true) (hi : stepItems s = some (h, a, d, ep))
    (hv : s.coord.voted = false) : stopStep1 s = castVote (stopBegun s) h true := by
  have ho' : stepOpen (stopBegun s) = true := ho
  have hi' : stepItems (stopBegun s) = some (h, a, d, ep) := hi
  have hv' : (stopBegun s).coord.voted = false := hv
  rw [stopStep1]
  change (match stepItems (stopBegun s) with
    | some (h, _, _, _) => if stepOpen (stopBegun s) && !(stopBegun s).coord.voted then castVote (stopBegun s) h true
        else stopBegun s
    | none => stopBegun s) = _
  rw [hi', ho', hv']
  rfl

theorem discardStep_closed (h : stepOpen s = false) : discardStep s = s := if_pos (by rw [h]; rfl)

theorem stopWaits_closed (h : stepOpen s = false) : stopWaits s = false := by rw [stopWaits, h, Bool.false_and]

/-- The last stage of a stop that takes its own dump. -/
theorem stopStep3_dumps (h : s.dump.state ≠ 1) : stopStep3 s = { s with
    stop := { s.stop with stage := 2 }
    run := { s.run with fault := true }
    dump := begunDump s 3 s.stop.event 0xFFFF none } := by
  rw [stopStep3, dumpEnds_idle h]
  exact startDump_begins (s := { s with
    stop := { s.stop with stage := 2 }
    run := { s.run with fault := true } }) h ..

theorem stopStep3_second (h : dumpEnds s = true) : stopStep3 s = { s with
    stop := { s.stop with stage := 2 }
    dump := { s.dump with second := true } } := by
  rw [stopStep3, h]
  exact startDump_second (s := { s with stop := { s.stop with stage := 2 } }) h ..

section
variable (hw : s.stop.wanted = true) (hj : s.jobState = 3)
include hw hj

theorem faultStop_begins (h0 : s.stop.stage = 0) (hb : allHalted s = true ∨ s.stop.since + 100000 ≤ s.timeNs) :
    exec .faultStop s = if stopWaits (stopStep1 s) then .next (stopStep1 s)
      else .next (stopStep3 (discardStep (stopStep1 s))) := by
  rw [exec_faultStop, execFaultStop]
  refine (if_neg (by simp [hw, hj])).trans ((if_pos h0).trans (if_neg ?_))
  rw [Bool.and_eq_true, Bool.not_eq_true', decide_eq_true_eq]
  rintro ⟨hn, ht⟩
  rcases hb with hb | hb
  · rw [hb] at hn; cases hn
  · omega

theorem faultStop_waits (h0 : s.stop.stage = 0) (hn : allHalted s = false) (ht : s.timeNs < s.stop.since + 100000) :
    exec .faultStop s = .next s := by
  rw [exec_faultStop, execFaultStop]
  exact (if_neg (by simp [hw, hj])).trans ((if_pos h0).trans (if_pos (by simp [hn, ht])))

theorem faultStop_decided (h1 : s.stop.stage = 1) (ho : stepOpen s = false) :
    exec .faultStop s = .next (stopStep3 s) := by
  rw [exec_faultStop, execFaultStop]
  refine (if_neg (by simp [hw, hj])).trans ((if_neg (by omega)).trans ((if_pos h1).trans ?_))
  rw [stopWaits_closed ho, discardStep_closed ho]
  rfl

theorem faultStop_noStep (h0 : s.stop.stage = 0) (hb : allHalted s = true ∨ s.stop.since + 100000 ≤ s.timeNs)
    (ho : stepOpen s = false) : exec .faultStop s = .next (stopStep3 (stopBegun s)) := by
  have ho' : stepOpen (stopBegun s) = false := ho
  rw [faultStop_begins hw hj h0 hb, stopStep1_noStep ho, stopWaits_closed ho', discardStep_closed ho']
  rfl

end

theorem evs_voteGroup {e : Ev} (h : e ∈ s.evs) (g : Nat) : e ∈ (voteGroup s g).evs := by
  unfold voteGroup
  dsimp only
  have hif (v : State) (c : Bool) (b k : Nat) (hv : e ∈ v.evs) :
      e ∈ (if c then raise (setBit v (regKey 10 0x620) b) k 15 g none else v).evs := by
    cases c
    · exact hv
    · exact List.mem_append_left _ hv
  exact hif _ _ _ _ (hif _ _ _ _ h)

theorem evs_foldl_voteGroup {e : Ev} (l : List Nat) {s : State} (h : e ∈ s.evs) : e ∈ (l.foldl voteGroup s).evs := by
  induction l generalizing s with
  | nil => exact h
  | cons g l ih => exact ih (evs_voteGroup h g)

/-- The vote that a stop forces asks for a skip, and is sent (11 R401). -/
theorem castVote_forced (s : State) (h : Nat) : (castVote s h true).course = s.course ∧
    (castVote s h true).jobState = s.jobState ∧ (castVote s h true).run = s.run ∧ (castVote s h true).stop = s.stop ∧
    (castVote s h true).dump = s.dump ∧
    (castVote s h true).coord = { s.coord with voted := true, votedSkip := true, freeze := decide (strongest s = 3) } ∧
    (castVote s h true).adds = s.adds ++ [{ c := .module h, n := 0x10001, node := 104, top := 104 }] ∧
    ∀ e ∈ s.evs, e ∈ (castVote s h true).evs := by
  have hv := onlyVotes_foldl (List.range 64) s
  have he (e : Ev) (h : e ∈ s.evs) := evs_foldl_voteGroup (List.range 64) h
  unfold castVote
  simp only [Bool.true_or, if_true]
  rw [sendAdd_module _ h (by decide)]
  generalize (List.range 64).foldl voteGroup s = v at hv he ⊢
  have hcourse : (tally v).course = s.course := by rw [hv]; rfl
  have hjob : (tally v).jobState = s.jobState := by rw [hv]; rfl
  have hrun : (tally v).run = s.run := by rw [hv]; rfl
  have hstop : (tally v).stop = s.stop := by rw [hv]; rfl
  have hdump : (tally v).dump = s.dump := by rw [hv]; rfl
  have hcoord : (tally v).coord = s.coord := by rw [hv]; rfl
  have hadds : (tally v).adds = s.adds := by rw [hv]; rfl
  generalize strongest s = act
  exact ⟨hcourse, hjob, hrun, hstop, hdump,
    congrArg (fun c : Coord => { c with voted := true, votedSkip := true, freeze := decide (act = 3) }) hcoord,
    congrArg (· ++ _) hadds, he⟩

/-- A stop of an open step votes skip, and waits for its decision. -/
theorem faultStop_votes (hw : s.stop.wanted = true) (hj : s.jobState = 3) (h0 : s.stop.stage = 0)
    (hb : allHalted s = true ∨ s.stop.since + 100000 ≤ s.timeNs) {h a d ep : Nat} (ho : stepOpen s = true)
    (hi : stepItems s = some (h, a, d, ep)) (hv : s.coord.voted = false) (hp : s.run.portLost = false) :
    exec .faultStop s = .next (castVote (stopBegun s) h true) := by
  rw [faultStop_begins hw hj h0 hb, stopStep1_votes ho hi hv]
  refine if_pos ?_
  obtain ⟨hcourse, hjob, hrun, -, -, hcoord, -⟩ := castVote_forced (stopBegun s) h
  generalize castVote (stopBegun s) h true = u at hcourse hjob hrun hcoord ⊢
  have hui : stepItems u = some (h, a, d, ep) := by
    rw [stepItems, hcourse]
    exact hi
  have hup : u.run.portLost = false := (congrArg RunCtl.portLost hrun).trans hp
  have huv : u.coord.voted = true := by rw [hcoord]
  rw [stopWaits, stepOpen, hui, hup, huv, hjob.trans hj]
  rfl

end

theorem heldRecords_stopBegun (s : State) : heldRecords (stopBegun s) = heldRecords s := rfl

/-- A stop of no open step takes its dump at once. -/
theorem faultStop_dumps {s : State} (hw : s.stop.wanted = true) (hj : s.jobState = 3) (h0 : s.stop.stage = 0)
    (hb : allHalted s = true ∨ s.stop.since + 100000 ≤ s.timeNs) (ho : stepOpen s = false) (hd : s.dump.state ≠ 1) :
    exec .faultStop s = .next { s with
      evs := s.evs ++ [evNow s 0x0C0A 15 0 none]
      evTotal := s.evTotal + 1
      run := { s.run with fault := true }
      stop := { s.stop with active := true, stage := 2 }
      dump := begunDump s 3 s.stop.event 0xFFFF none } := by
  rw [faultStop_noStep hw hj h0 hb ho, stopStep3_dumps (s := stopBegun s) hd]
  rfl

/-! ### The watchdog (08 R323) -/

/-- The error that an expired watchdog raises. -/
def watchdogRaised (s : State) : Waiter → State
  | .station n => raise (hurErr s (dieOf n) 0 (n % 96) false) 0x0301 (dieOf n) (n % 96) none
  | .gc g => raise (hurErr s (g / 12) 0 (8 * (g % 12)) true) 0x0301 (g / 12) (8 * (g % 12)) none

/-- The station that a dump of an expired watchdog names. -/
def expiredStation : Waiter → Nat
  | .station n => n
  | .gc _ => 0xFFFF

section
variable (s : State) (w : Waiter)

theorem watchdogRaised_parts : watchdogRaised s w = { s with
    regs := (watchdogRaised s w).regs
    evs := (watchdogRaised s w).evs
    evTotal := s.evTotal + 1 } := by
  cases w <;> rfl

theorem watchdogRaised_station (n : Nat) : (watchdogRaised s (.station n)).evs =
    s.evs ++ [evNow s 0x0301 (dieOf n) (n % 96) none] := rfl

theorem watchdogRaised_gc (g : Nat) : (watchdogRaised s (.gc g)).evs =
    s.evs ++ [evNow s 0x0301 (g / 12) (8 * (g % 12)) none] := rfl

theorem heldRecords_congr (u : State) (run : RunCtl) (d : Dump) :
    heldRecords { u with run := run, dump := d } = heldRecords { u with run := run } := rfl

variable {s w} (hj : s.jobState = 3) (ht : s.run.timeout = false)

theorem hurWatchdog_stays (h : expired s w = false ∨ (dumpEnds s = true ∧ s.dump.second = true)) :
    exec (.hurWatchdog w) s = .next s := by
  rw [exec_hurWatchdog]
  unfold execHurWatchdog
  refine if_pos ?_
  rcases h with h | ⟨h, h2⟩
  · simp [h]
  · simp [h, h2]

include hj ht

theorem hurWatchdog_expires (h : expired s w = true) (h2 : (dumpEnds s && s.dump.second) = false) :
    exec (.hurWatchdog w) s = .next (startDump (if dumpEnds s then watchdogRaised s w else
      { watchdogRaised s w with run := { s.run with timeout := true } }) 1 0x0301 (expiredStation w) none) := by
  rw [exec_hurWatchdog]
  unfold execHurWatchdog
  refine (if_neg (by simp only [hj, h, ht, h2]; decide)).trans ?_
  cases w <;> rfl

theorem hurWatchdog_ends (h : expired s w = true) (hd : s.dump.state ≠ 1) : ∃ t, exec (.hurWatchdog w) s = .next t ∧
    t = { s with regs := t.regs, evs := t.evs, evTotal := s.evTotal + 1, run := { s.run with timeout := true }
                 dump := t.dump } ∧
    t.evs = (watchdogRaised s w).evs ∧ t.dump.station = expiredStation w ∧ t.dump.state = 1 ∧ t.dump.trigger = 1 ∧
    t.dump.event = 0x0301 ∧ t.dump.seq = s.dump.seq + 1 ∧ t.dump.held = heldRecords t := by
  have hends := dumpEnds_idle hd
  have hparts := watchdogRaised_parts s w
  rw [hurWatchdog_expires hj ht h (by rw [hends, Bool.false_and]), hends, if_neg (by decide)]
  generalize watchdogRaised s w = u at hparts ⊢
  have hdump : u.dump = s.dump := by rw [hparts]
  rw [startDump_begins (s := { u with run := { s.run with timeout := true } }) (by rw [hdump]; exact hd)]
  refine ⟨_, rfl, ?_, rfl, rfl, rfl, rfl, rfl, congrArg (fun d : Dump => d.seq + 1) hdump, (heldRecords_congr u _ _).symm⟩
  rw [hparts]

theorem hurWatchdog_second (h : expired s w = true) (hd : dumpEnds s = true) (h2 : s.dump.second = false) :
    ∃ t, exec (.hurWatchdog w) s = .next t ∧
      t.run = s.run ∧ t.dump = { s.dump with second := true } ∧ t.evTotal = s.evTotal + 1 := by
  have hparts := watchdogRaised_parts s w
  rw [hurWatchdog_expires hj ht h (by rw [h2, Bool.and_false]), hd, if_pos rfl]
  generalize watchdogRaised s w = u at hparts ⊢
  have hdump : u.dump = s.dump := by rw [hparts]
  have hrun : u.run = s.run := by rw [hparts]
  have htotal : u.evTotal = s.evTotal + 1 := by rw [hparts]
  rw [startDump_second (s := u) (by rw [dumpEnds, hdump]; exact hd)]
  exact ⟨_, rfl, hrun, congrArg (fun d : Dump => { d with second := true }) hdump, htotal⟩

end

/-! ### A dump in its region (08 R325, R326, R329, R330) -/

theorem length_dumpHead (s : State) : (dumpHead s).length = 48 := by
  simp only [dumpHead, List.length_append, leBytes_length]

/-- A dump begins with its magic number. -/
theorem dumpHead_magic (s : State) : ofLe ((dumpHead s).take 4) = 0x50464431 := by
  unfold dumpHead
  simp only [List.append_assoc]
  rw [List.take_left' (leBytes_length ..), ofLe_leBytes]
  rfl

theorem length_dumpSections : (dumpSections.flatMap (fun e => leBytes 8 e.1 ++ leBytes 8 e.2)).length = 160 :=
  length_flatMap_const (k := 16) _ _ fun e => by rw [List.length_append, leBytes_length, leBytes_length]

/-- Parts of a dump that lie elsewhere leave a byte. -/
theorem memGet_foldl_write_other {l : List (Nat × List Byte)} {base a : Nat}
    (h : ∀ e ∈ l, a < base + e.1 ∨ base + e.1 + e.2.length ≤ a) (m : Memory) :
    memGet (l.foldl (fun m e => memWrite m (base + e.1) e.2) m) a = memGet m a := by
  induction l generalizing m with
  | nil => rfl
  | cons e l ih =>
    rw [List.foldl_cons, ih fun x hx => h x (List.mem_cons_of_mem _ hx), memGet_memWrite, if_neg]
    have := h e List.mem_cons_self
    omega

section
variable {s : State}

theorem dumpImage_sealed (h : s.dump.isSealed = true) : ∃ tag ct, tag.length = 16 ∧ ct.length = 0xB1000 ∧ dumpImage s =
    [(0, dumpHead s), (0x30, tag), (0x40, dumpSections.flatMap (fun e => leBytes 8 e.1 ++ leBytes 8 e.2)), (0x1000, ct)] := by
  rw [dumpImage, if_pos h]
  refine ⟨_, _, gcmTag_length .., ?_, rfl⟩
  rw [gcmCipher_length, memRead, List.length_map, List.length_range]

theorem dumpImage_open (h : s.dump.isSealed = false) : dumpImage s = (0, dumpHead s) ::
    (0x40, dumpSections.flatMap (fun e => leBytes 8 e.1 ++ leBytes 8 e.2)) :: dumpBody s := if_neg (by rw [h]; decide)

theorem dumpImage_within (h : s.dump.isSealed = true ∨ ∀ e ∈ dumpImage s, e.1 + e.2.length ≤ 0xB2000) :
    ∀ e ∈ dumpImage s, e.1 + e.2.length ≤ 0xB2000 := by
  rcases h with h | h
  · obtain ⟨tag, ct, ht, hc, hi⟩ := dumpImage_sealed h
    rw [hi]
    intro e he
    simp only [List.mem_cons, List.not_mem_nil, or_false] at he
    rcases he with rfl | rfl | rfl | rfl
    · simp only [length_dumpHead]; decide
    · simp only [ht]; decide
    · simp only [length_dumpSections]; decide
    · simp only [hc]; decide
  · exact h

/-- A dump's body lies behind its first 4,096 bytes. -/
theorem dumpBody_starts (hh : ∀ e ∈ s.dump.held, 0x1000 ≤ e.1) : ∀ e ∈ dumpBody s, 0x1000 ≤ e.1 := by
  intro e he
  unfold dumpBody at he
  simp only [List.mem_append, List.mem_map, List.mem_flatMap] at he
  rcases he with ((((((⟨x, -, rfl⟩ | ⟨x, -, rfl⟩) | ⟨x, -, rfl⟩) | ⟨x, -, rfl⟩) | he) | ⟨x, -, rfl⟩) | ⟨x, -, rfl⟩) |
    ⟨k, -, x, -, rfl⟩
  case inl.inl.inl.inr => exact hh e he
  all_goals
    dsimp only
    omega

/-- What a dump that is written leaves. -/
theorem dumpWrite_spec (hp : placeMap s dumpBase ≠ .reserved)
    (hin : s.dump.isSealed = true ∨ ∀ e ∈ dumpImage s, e.1 + e.2.length ≤ 0xB2000)
    (hh : ∀ e ∈ s.dump.held, 0x1000 ≤ e.1) :
    dumpWrite s = { s with
      mem := (dumpWrite s).mem
      cwErr := (dumpWrite s).cwErr
      writeBack := (dumpWrite s).writeBack } ∧
    (∀ a, a < dumpBase ∨ dumpBase + 0xB2000 ≤ a → memGet (dumpWrite s).mem a = memGet s.mem a) ∧
    (s.dump.isSealed = false → ∀ i, i < 48 → memGet (dumpWrite s).mem (dumpBase + i) = (dumpHead s).getD i 0) := by
  rw [dumpWrite, if_neg hp]
  refine ⟨rfl, fun a ha => ?_, fun hs i hi => ?_⟩
  · refine (memGet_foldl_write_other (fun e he => ?_) _).trans ((memGet_memZero ..).trans (if_neg (by omega)))
    have := dumpImage_within hin e he
    omega
  · have hstart := dumpBody_starts hh
    change memGet ((dumpImage s).foldl (fun m e => memWrite m (dumpBase + e.1) e.2)
      (zeroise s dumpBase (dumpBase + 0xB2000)).mem) (dumpBase + i) = _
    rw [dumpImage_open hs, List.foldl_cons]
    refine (memGet_foldl_write_other (fun e he => ?_) _).trans ?_
    · rw [List.mem_cons] at he
      rcases he with rfl | he
      · dsimp only; omega
      · have := hstart e he; omega
    · rw [memGet_memWrite, if_pos (by rw [length_dumpHead]; dsimp only; omega), List.getD_eq_getElem?_getD]
      exact congrArg (fun j => (dumpHead s)[j]?.getD 0) (Nat.add_sub_cancel_left dumpBase i)

/-- A dump complete in its region, with its event (08 R326). -/
def dumped (s : State) : State :=
  raise { dumpWrite s with dump := { s.dump with state := 2, src := none, held := [] } } 0x0307 15 0 none

/-- The module after a dump that ends the RUN. -/
def dumpHalted (s : State) : State :=
  haltAll (if (dumped s).stop.wanted then { dumped s with stop := { (dumped s).stop with stage := 3 } } else dumped s)

theorem hurDumpDone_idle (h : s.dump.state ≠ 1) : exec .hurDumpDone s = .next s := by
  rw [exec_hurDumpDone, execHurDumpDone, if_pos h]

theorem hurDumpDone_runs (h : s.dump.state = 1) : exec .hurDumpDone s = .next (finishDump s) := by
  rw [exec_hurDumpDone, execHurDumpDone, if_neg (by omega)]

theorem finishDump_halts (hs : s.dump.src = none) (ht : s.dump.trigger = 1 ∨ s.dump.trigger = 3) :
    finishDump s = dumpHalted s := by
  rw [finishDump, hs]
  exact if_pos (by rcases ht with ht | ht <;> rw [ht] <;> rfl)

theorem finishDump_command {src : Src} {a : Nat} (hs : s.dump.src = some (src, a)) (ht : s.dump.trigger = 2)
    (hl : s.dump.later = 0) : finishDump s =
      if a = 0 then complete (dumped s) src stOK s.dump.seq
      else if hostFails (dumped s) a 0xB2000 then writeFault (dumped s) src a 0xB2000
      else complete (hostWrite (dumped s) a (memRead (dumped s).mem dumpBase 0xB2000)) src stOK s.dump.seq := by
  rw [finishDump, hs]
  exact if_neg (by rw [ht, hl]; decide)

theorem dumpHalted_stage (h : (dumped s).stop.wanted = true) : (dumpHalted s).stop.stage = 3 := by
  rw [dumpHalted, if_pos h]
  rfl

theorem dumpHalted_parts : (dumpHalted s).dump = (dumped s).dump ∧ (dumpHalted s).evs = (dumped s).evs ∧
    (dumpHalted s).mem = (dumped s).mem := by
  unfold dumpHalted
  split <;> exact ⟨rfl, rfl, rfl⟩

/-- Completion of a dump (08 R326, R328; 13 R462). -/
theorem hurDumpDone_spec (h1 : s.dump.state = 1) (hp : placeMap s dumpBase ≠ .reserved)
    (hin : s.dump.isSealed = true ∨ ∀ e ∈ dumpImage s, e.1 + e.2.length ≤ 0xB2000)
    (hh : ∀ e ∈ s.dump.held, 0x1000 ≤ e.1) :
    ∃ u, u.dump = { s.dump with state := 2, src := none, held := [] } ∧ evNow s 0x0307 15 0 none ∈ u.evs ∧
      (∀ a, a < dumpBase ∨ dumpBase + 0xB2000 ≤ a → memGet u.mem a = memGet s.mem a) ∧
      (s.dump.isSealed = false → ∀ i, i < 48 → memGet u.mem (dumpBase + i) = (dumpHead s).getD i 0) ∧
      ofLe ((dumpHead s).take 4) = 0x50464431 ∧
      (s.dump.src = none → (s.dump.trigger = 1 ∨ s.dump.trigger = 3) → exec (.hurDumpDone) s = .next u ∧ AllStopped u ∧
        (s.stop.wanted = true → u.stop.stage = 3)) ∧
      (∀ src a, s.dump.src = some (src, a) → s.dump.trigger = 2 → s.dump.later = 0 →
        (a = 0 → exec (.hurDumpDone) s = .next (complete u src stOK s.dump.seq)) ∧
        (a ≠ 0 → hostFails s a 0xB2000 = false → exec (.hurDumpDone) s =
          .next (complete (hostWrite u a (memRead u.mem dumpBase 0xB2000)) src stOK s.dump.seq))) := by
  obtain ⟨hparts, hframe, hhead⟩ := dumpWrite_spec hp hin hh
  have hev : evNow s 0x0307 15 0 none ∈ (dumped s).evs := by
    rw [dumped, hparts]
    exact List.mem_append_right _ (List.mem_singleton_self _)
  cases hs : s.dump.src with
  | none =>
    obtain ⟨hdump, hevs, hmem⟩ := dumpHalted_parts (s := s)
    refine ⟨dumpHalted s, hdump, hevs ▸ hev, fun a ha => ?_, fun ho i hi => ?_, dumpHead_magic s,
      fun _ ht => ⟨?_, haltAll_run _, fun hw => dumpHalted_stage (by rw [dumped, hparts]; exact hw)⟩, fun src a hn => (nomatch hn)⟩
    · rw [hmem]
      exact hframe a ha
    · rw [hmem]
      exact hhead ho i hi
    · rw [hurDumpDone_runs h1, finishDump_halts hs ht]
  | some x =>
    refine ⟨dumped s, rfl, hev, hframe, hhead, dumpHead_magic s, fun hn => (nomatch hn),
      fun src a ha ht hl => ?_⟩
    have hfails : hostFails (dumped s) a 0xB2000 = hostFails s a 0xB2000 := by
      rw [dumped, hparts]
      rfl
    rw [hurDumpDone_runs h1, finishDump_command (hs.trans ha) ht hl, hfails]
    exact ⟨fun h0 => by rw [if_pos h0], fun h0 hf => by rw [if_neg h0, if_neg (by rw [hf]; decide)]⟩

end

/-! ### DUMP (13 R462) -/

section
variable {s : State} {src : Src} {a : Nat} (h : Taken s .job false)
include h

theorem dumpTake_busy (h1 : s.dump.state = 1) : exec (.dumpTake src a) s = .next (complete s src 0x04 0) := by
  rw [exec_dumpTake, execDumpTake, command_taken h, if_pos h1]

theorem dumpTake_begins (h1 : s.dump.state ≠ 1) : exec (.dumpTake src a) s =
    .next { s with dump := begunDump s 2 0 0xFFFF (some (src, a)) } := by
  rw [exec_dumpTake, execDumpTake, command_taken h, if_neg h1, startDump_begins h1]

theorem dumpCopyLast_busy (h1 : s.dump.state = 1) : exec (.dumpCopyLast src a) s = .next (complete s src 0x04 0) := by
  rw [exec_dumpCopyLast, execDumpCopyLast, command_taken h, if_pos h1]

theorem dumpCopyLast_none (h0 : s.dump.state = 0) : exec (.dumpCopyLast src a) s = .next (complete s src stInvalid 0) := by
  rw [exec_dumpCopyLast, execDumpCopyLast, command_taken h, if_neg (by omega), if_pos (by omega)]

variable (h2 : s.dump.state = 2)
include h2

theorem dumpCopyLast_stays (h0 : a = 0) : exec (.dumpCopyLast src a) s = .next (complete s src stOK s.dump.seq) := by
  rw [exec_dumpCopyLast, execDumpCopyLast, command_taken h, if_neg (by omega), if_neg (by omega), if_pos h0]

variable (h0 : a ≠ 0)
include h0

theorem dumpCopyLast_fails (hf : (readMem s dumpBase 0xB2000).fail.isSome = true) : exec (.dumpCopyLast src a) s =
    .next (complete (readMem s dumpBase 0xB2000).s src stFault 0) := by
  rw [exec_dumpCopyLast, execDumpCopyLast, command_taken h, if_neg (by omega), if_neg (by omega), if_neg h0]
  exact if_pos hf

theorem dumpCopyLast_copies (hh : hostFails s a 0xB2000 = false) (hc : s.cwErr = []) : ∃ u, u = { s with reached := u.reached } ∧
    exec (.dumpCopyLast src a) s =
      .next (complete (hostWrite u a (memRead s.mem dumpBase 0xB2000)) src stOK s.dump.seq) := by
  refine ⟨touch s dumpBase 0xB2000, touch_parts .., ?_⟩
  rw [exec_dumpCopyLast, execDumpCopyLast, command_taken h, if_neg (by omega), if_neg (by omega), if_neg h0]
  dsimp only
  rw [readBytes_noErrors hc, readMem_noErrors hc]
  have hl : (memRead s.mem dumpBase 0xB2000).length = 0xB2000 := by rw [memRead, List.length_map, List.length_range]
  have hparts := touch_parts s dumpBase 0xB2000
  generalize touch s dumpBase 0xB2000 = u at hparts ⊢
  have hf : hostFails u a 0xB2000 = false := by rw [hparts]; exact hh
  have hs (bs : List Byte) : (hostWrite u a bs).dump = s.dump := by rw [hparts]; rfl
  generalize memRead s.mem dumpBase 0xB2000 = bs at hl ⊢
  refine (if_neg Bool.false_ne_true).trans ((toHost_writes hl hf _).trans ?_)
  rw [hs]

end

/-! ### SNAPSHOT to host memory (13 R461; 11 R404) -/

theorem finishSnap_waits {s : State} {x : Snap} (hs : s.snap = some x) (h : x.tags ≠ [] ∨ (x.todo ≠ [] ∧ x.status = 0)) :
    finishSnap s = s := by
  rw [finishSnap, hs]
  exact if_pos (by simpa using h)

theorem finishSnap_ends {s : State} {x : Snap} (hs : s.snap = some x) (ht : x.tags = []) (h : x.todo = [] ∨ x.status ≠ 0) :
    finishSnap s = complete { s with snap := none } x.src x.status
      (if x.status = 0 then x.pos % 2 ^ 32 + x.step % 2 ^ 32 * 2 ^ 32 else 0) := by
  rw [finishSnap, hs]
  refine (if_neg ?_).trans ?_
  · rw [ht, Bool.or_eq_true, decide_eq_true_eq, Bool.and_eq_true, decide_eq_true_eq, decide_eq_true_eq]
    rintro (hc | ⟨hn, hz⟩)
    · exact hc rfl
    · exact h.elim hn (fun hst => hst hz)
  · by_cases h0 : x.status = 0 <;> simp [h0]

section
variable {s : State} {src : Src} {dest limit fmt mask : Nat} {sc : Bool}

/-- A SNAPSHOT of the live bank that begins. -/
def snapBegun (s : State) (src : Src) (dest fmt : Nat) (sc : Bool) (l : List (Nat × Nat)) : Snap :=
  { src := src, dest := dest, window := false, fmt := fmt, scaled := sc, bank := s.coord.live, step := s.steps, todo := l }

variable (h : Taken s .job false)
include h

theorem snapshot_busy (hs : s.snap.isSome = true) :
    exec (.snapshot src dest limit 0 fmt sc mask) s = .next (complete s src 0x04 0) := by
  rw [exec_snapshot, execSnapshot, command_taken h]
  exact if_pos hs

variable (hs : s.snap = none)
include hs

theorem snapshot_short (hl : limit < snapBytes s 0 ((snapChunks s mask).length * storedBytes fmt sc)) :
    exec (.snapshot src dest limit 0 fmt sc mask) s = .next (complete s src stInvalid 0) := by
  rw [exec_snapshot, execSnapshot, command_taken h]
  exact (if_neg (by rw [hs]; decide)).trans (if_pos (by simp [hl]))

variable (hf : fmt < 8) (ht : tileOk fmt sc = true) (hm : mask < 65536)
include hf ht hm

theorem snapshot_taken (hl : snapBytes s 0 ((snapChunks s mask).length * storedBytes fmt sc) ≤ limit) :
    exec (.snapshot src dest limit 0 fmt sc mask) s =
      .next (finishSnap { s with snap := some (snapBegun s src dest fmt sc (snapChunks s mask)) }) := by
  rw [exec_snapshot, execSnapshot, command_taken h]
  refine (if_neg (by rw [hs]; decide)).trans (if_neg ?_)
  simp [ht]
  omega

theorem snapshot_begins (hl : snapBytes s 0 ((snapChunks s mask).length * storedBytes fmt sc) ≤ limit)
    (hn : snapChunks s mask ≠ []) : exec (.snapshot src dest limit 0 fmt sc mask) s =
      .next { s with snap := some (snapBegun s src dest fmt sc (snapChunks s mask)) } := by
  rw [snapshot_taken h hs hf ht hm hl, finishSnap_waits rfl (.inr ⟨hn, rfl⟩)]

theorem snapshot_empty (hl : snapBytes s 0 ((snapChunks s mask).length * storedBytes fmt sc) ≤ limit)
    (hn : snapChunks s mask = []) : exec (.snapshot src dest limit 0 fmt sc mask) s =
      .next (complete s src stOK (s.steps % 2 ^ 32 * 2 ^ 32)) := by
  rw [snapshot_taken h hs hf ht hm hl, finishSnap_ends rfl rfl (.inl hn)]
  have hsame : { s with snap := none } = s := by rw [← hs]
  change Host.Outcome.next (complete { s with snap := none } src 0 (0 % 2 ^ 32 + s.steps % 2 ^ 32 * 2 ^ 32)) = _
  rw [hsame, Nat.zero_mod, Nat.zero_add]
  rfl

end

/-- The values of a chunk's records (11 R377, R404). -/
def chunkValues (s : State) (a n : Nat) : List Num :=
  (List.range 16384).map (fun e =>
    decodeElem .pb32 false (ofLe ((List.range 4).map (fun i => memGet s.mem (a + e * n + i)))))

theorem chunkValues_read (s : State) {n : Nat} (a : Nat) (hn : 4 ≤ n) : (List.range 16384).map (fun e =>
    decodeElem .pb32 false (ofLe (((memRead s.mem a (16384 * n)).drop (e * n)).take 4))) = chunkValues s a n := by
  refine List.map_congr_left fun e he => ?_
  have hlt : e < 16384 := List.mem_range.1 he
  have hin : e * n + n ≤ 16384 * n := by
    rw [← Nat.succ_mul]
    exact Nat.mul_le_mul_right n hlt
  congr 2
  refine List.ext_getElem ?_ fun i h1 h2 => ?_
  · simp only [memRead, List.length_take, List.length_drop, List.length_map, List.length_range]
    omega
  · simp only [memRead, List.getElem_take, List.getElem_drop, List.getElem_map, List.getElem_range, Nat.add_assoc]

/-- What the read of the next chunk does once no time has run out. -/
def chunkRead (s : State) (x : Snap) (k a n : Nat) : Out :=
  let x := { x with todo := x.todo.drop 1 }
  if engineWaits s (k / 2) a (16384 * n) then .next s
  else if !engineMay s (k / 2) a (16384 * n) then .next (snapFail (reservedAccess { s with snap := some x } (k / 2) k) stFault)
  else
    let r := readMem (wakeRange s a (16384 * n)) a (16384 * n)
    if r.fail.isSome then .next (snapFail { r.s with snap := some x } stFault)
    else
      let f := (Fmt.ofCode x.fmt).getD .fp32
      let bytes := exchIn s a (readBytes r a (16384 * n))
      let v := (List.range 16384).map (fun e => decodeElem .pb32 false (ofLe ((bytes.drop (e * n)).take 4)))
      let bs := tileBytes f x.scaled (convert f x.scaled false false 512 0 v)
      if !x.window && hostFails s (x.dest + x.pos) 65600 then
        .next (writeFault { r.s with snap := none } x.src x.dest (x.pos + 65600))
      else .next (finishSnap (snapPut r.s x bs))

/-- The state with a chunk's image in host memory, and the command's next chunk. -/
def chunkStored (s : State) (x : Snap) (a len : Nat) (bs : List Byte) (y : Option Snap) : State :=
  { touch (wakeRange s a len) a len with
    hostMem := memWrite s.hostMem (x.dest + x.pos) bs
    snap := y }

theorem chunkStored_parts (s : State) (x : Snap) (a len : Nat) (bs : List Byte) (y : Option Snap) :
    chunkStored s x a len bs y = { s with
      reached := (chunkStored s x a len bs y).reached
      bankState := (chunkStored s x a len bs y).bankState
      hostMem := memWrite s.hostMem (x.dest + x.pos) bs
      snap := y } := by
  unfold chunkStored
  rw [touch_parts, wakeRange_parts]

section
variable {s : State} {x : Snap} {k slot j a n : Nat} {y : Shard} {rest : List (Nat × Nat)} (hs : s.snap = some x)
  (hx : x.todo = (k, slot) :: rest) (h0 : x.status = 0) (ht : x.tags = []) (hy : slotChunk slot (shardsOf s k) = some (y, j))
  (hn : n = recBytes y) (ha : a = bankBase y x.bank + j * 16384 * n)
include hs hx h0 ht hy hn ha

theorem snapshotChunkRead_runs : exec (.snapshotChunkRead k slot) s = chunkRead s x k a n := by
  rw [exec_snapshotChunkRead, execSnapshotChunkRead, hs]
  refine (if_neg (by simp [ht])).trans ((if_neg (by simp [h0, hx])).trans ?_)
  rw [hy, ha, hn]
  rfl

theorem snapshotChunkRead_waits (hw : engineWaits s (k / 2) a (16384 * n) = true) :
    exec (.snapshotChunkRead k slot) s = .next s := by
  rw [snapshotChunkRead_runs hs hx h0 ht hy hn ha]
  exact if_pos hw

theorem snapshotChunkRead_refused (hm : engineMay s (k / 2) a (16384 * n) = false) :
    exec (.snapshotChunkRead k slot) s =
      .next (complete (raise { s with snap := none } 0x0508 (k / 2) k none) x.src stFault 0) := by
  have hw : engineWaits s (k / 2) a (16384 * n) = false := by rw [engineWaits, hm, Bool.false_and]
  rw [snapshotChunkRead_runs hs hx h0 ht hy hn ha]
  refine (if_neg (by rw [hw]; decide)).trans ((if_pos (by rw [hm]; rfl)).trans ?_)
  rw [snapFail]
  refine congrArg Host.Outcome.next ((finishSnap_ends rfl rfl (.inr (show stFault ≠ 0 by decide))).trans ?_)
  rfl

variable (hm : engineMay s (k / 2) a (16384 * n) = true) (hw : engineWaits s (k / 2) a (16384 * n) = false)
  (hc : s.cwErr = []) (hwin : x.window = false) (hopen : sealedJob s = false)
  (hh : hostFails s (x.dest + x.pos) 65600 = false) {f : Fmt} (hf : Fmt.ofCode x.fmt = some f)
include hm hw hc hwin hopen hh hf

theorem snapshotChunkRead_stores {bs : List Byte}
    (hbs : bs = tileBytes f x.scaled (convert f x.scaled false false 512 0 (chunkValues s a n))) :
    exec (.snapshotChunkRead k slot) s = .next (finishSnap (chunkStored s x a (16384 * n) bs
      (some { x with todo := rest, pos := x.pos + bs.length }))) := by
  have hn4 : 4 ≤ n := by rw [hn, recBytes]; split <;> decide
  have hcw : (wakeRange s a (16384 * n)).cwErr = [] := by rw [wakeRange_parts]; exact hc
  have hmem : (wakeRange s a (16384 * n)).mem = s.mem := by rw [wakeRange_parts]
  have hex : exchMapped s a (memRead s.mem a (16384 * n)).length = false := by
    rw [exchMapped, hopen]
    split <;> rfl
  rw [snapshotChunkRead_runs hs hx h0 ht hy hn ha]
  refine (if_neg (by rw [hw]; decide)).trans ((if_neg (by rw [hm]; decide)).trans ?_)
  dsimp only
  rw [readBytes_noErrors hcw, hmem, exchIn_unmapped hex, chunkValues_read s a hn4, hf, readMem_noErrors hcw]
  change (if false = true then _ else if (!x.window && hostFails s (x.dest + x.pos) 65600) = true then _ else
    Host.Outcome.next (finishSnap (snapPut (touch (wakeRange s a (16384 * n)) a (16384 * n)) { x with todo := x.todo.drop 1 }
      (tileBytes f x.scaled (convert f x.scaled false false 512 0 (chunkValues s a n)))))) = _
  rw [if_neg (by decide), hh, Bool.and_false, if_neg (by decide), ← hbs, hx, List.drop_one, List.tail_cons, chunkStored]
  have hparts : touch (wakeRange s a (16384 * n)) a (16384 * n) = { s with
      reached := (touch (wakeRange s a (16384 * n)) a (16384 * n)).reached
      bankState := (touch (wakeRange s a (16384 * n)) a (16384 * n)).bankState } := by
    rw [touch_parts, wakeRange_parts]
  generalize touch (wakeRange s a (16384 * n)) a (16384 * n) = u at hparts ⊢
  have hu : sealedJob u = false := by rw [hparts]; exact hopen
  have hmem : u.hostMem = s.hostMem := by rw [hparts]
  rw [snapPut, hwin, if_neg (by decide), hu, if_neg (by decide), ← hmem]
  rfl

end

/-! ### The obligation's parts -/

theorem faultStop_spec {s : State} (hw : s.stop.wanted = true) (hj : s.jobState = 3) :
    (s.stop.stage = 0 → (allHalted s = true ∨ s.stop.since + 100000 ≤ s.timeNs) →
      (stepOpen s = false → s.dump.state ≠ 1 → ∃ t, exec (.faultStop) s = .next t ∧ t = { s with
        evs := s.evs ++ [evNow s 0x0C0A 15 0 none], evTotal := s.evTotal + 1, run := { s.run with fault := true }
        stop := { s.stop with active := true, stage := 2 }
        dump := begunDump s 3 s.stop.event 0xFFFF none }) ∧
      (∀ h a d ep, stepOpen s = true → stepItems s = some (h, a, d, ep) → s.coord.voted = false →
        s.run.portLost = false → ∃ t, exec (.faultStop) s = .next t ∧ t.stop = { s.stop with active := true, stage := 1 } ∧
          t.run = s.run ∧ t.coord.voted = true ∧ t.coord.votedSkip = true ∧
          t.adds = s.adds ++ [{ c := .module h, n := 0x10001, node := 104, top := 104 }] ∧ t.dump = s.dump ∧
          evNow s 0x0C0A 15 0 none ∈ t.evs)) ∧
    (s.stop.stage = 0 → allHalted s = false → s.timeNs < s.stop.since + 100000 → exec (.faultStop) s = .next s) ∧
    (s.stop.stage = 1 → stepOpen s = false → s.dump.state ≠ 1 → exec (.faultStop) s = .next { s with
      stop := { s.stop with stage := 2 }, run := { s.run with fault := true }
      dump := begunDump s 3 s.stop.event 0xFFFF none }) ∧
    (s.stop.stage = 1 → stepOpen s = false → dumpEnds s = true → ∃ t, exec (.faultStop) s = .next t ∧ t.run = s.run ∧
      t.stop = { s.stop with stage := 2 } ∧ t.dump = { s.dump with second := true }) := by
  refine ⟨fun h0 hb => ⟨fun ho hd => ⟨_, faultStop_dumps hw hj h0 hb ho hd, rfl⟩, fun h a d ep ho hi hv hp => ?votes⟩,
    faultStop_waits hw hj, fun h1 ho hd => ?dumps, fun h1 ho he => ?second⟩
  case votes =>
    obtain ⟨-, -, hrun, hstop, hdump, hcoord, hadds, hevs⟩ := castVote_forced (stopBegun s) h
    refine ⟨_, faultStop_votes hw hj h0 hb ho hi hv hp, hstop, hrun, ?_, ?_, hadds, hdump,
      hevs _ (List.mem_append_right _ (List.mem_singleton_self _))⟩
    · rw [hcoord]
    · rw [hcoord]
  case dumps => rw [faultStop_decided hw hj h1 ho, stopStep3_dumps hd]
  case second =>
    rw [faultStop_decided hw hj h1 ho, stopStep3_second he]
    exact ⟨_, rfl, rfl, rfl, rfl⟩

theorem hurWatchdog_spec {s : State} {w : Waiter} (hj : s.jobState = 3) (ht : s.run.timeout = false) :
    (expired s w = true → s.dump.state ≠ 1 → ∃ t, exec (.hurWatchdog w) s = .next t ∧
      t = { s with regs := t.regs, evs := t.evs, evTotal := s.evTotal + 1, run := { s.run with timeout := true }
                   dump := t.dump } ∧
      (∀ n, w = .station n → t.evs = s.evs ++ [evNow s 0x0301 (dieOf n) (n % 96) none] ∧ t.dump.station = n) ∧
      (∀ g, w = .gc g → t.evs = s.evs ++ [evNow s 0x0301 (g / 12) (8 * (g % 12)) none] ∧ t.dump.station = 0xFFFF) ∧
      t.dump.state = 1 ∧ t.dump.trigger = 1 ∧ t.dump.event = 0x0301 ∧ t.dump.seq = s.dump.seq + 1 ∧
      t.dump.held = heldRecords t) ∧
    (expired s w = true → dumpEnds s = true → s.dump.second = false → ∃ t, exec (.hurWatchdog w) s = .next t ∧
      t.run = s.run ∧ t.dump = { s.dump with second := true } ∧ t.evTotal = s.evTotal + 1) ∧
    (dumpEnds s = true → s.dump.second = true → exec (.hurWatchdog w) s = .next s) ∧
    (expired s w = false → exec (.hurWatchdog w) s = .next s) := by
  refine ⟨fun h hd => ?_, hurWatchdog_second hj ht, fun hd h2 => hurWatchdog_stays (.inr ⟨hd, h2⟩),
    fun h => hurWatchdog_stays (.inl h)⟩
  obtain ⟨t, hexec, hparts, hevs, hstn, hrest⟩ := hurWatchdog_ends hj ht h hd
  refine ⟨t, hexec, hparts, fun n hn => ?_, fun g hg => ?_, hrest⟩
  · subst hn
    exact ⟨hevs, hstn⟩
  · subst hg
    exact ⟨hevs, hstn⟩

/-- A chunk of a snapshot read and stored, with more of them or the last one (13 R461; 11 R404). -/
theorem snapshotChunkRead_spec {s : State} {x : Snap} {k slot j a n : Nat} {y : Shard} {f : Fmt} {bs : List Byte}
    {rest : List (Nat × Nat)} (hs : s.snap = some x) (hx : x.todo = (k, slot) :: rest) (h0 : x.status = 0)
    (ht : x.tags = []) (hy : slotChunk slot (shardsOf s k) = some (y, j)) (hn : n = recBytes y)
    (ha : a = bankBase y x.bank + j * 16384 * n) (hf : Fmt.ofCode x.fmt = some f)
    (hm : engineMay s (k / 2) a (16384 * n) = true) (hw : engineWaits s (k / 2) a (16384 * n) = false) (hc : s.cwErr = [])
    (hwin : x.window = false) (hopen : sealedJob s = false) (hh : hostFails s (x.dest + x.pos) 65600 = false)
    (hbs : bs = tileBytes f x.scaled (convert f x.scaled false false 512 0 (chunkValues s a n))) :
    ∃ u, u = { s with reached := u.reached, bankState := u.bankState, snap := none
                      hostMem := memWrite s.hostMem (x.dest + x.pos) bs } ∧
      (rest ≠ [] → exec (.snapshotChunkRead k slot) s = .next { u with
        snap := some { x with todo := rest, pos := x.pos + bs.length } }) ∧
      (rest = [] → exec (.snapshotChunkRead k slot) s = .next (complete u x.src stOK
        ((x.pos + bs.length) % 2 ^ 32 + x.step % 2 ^ 32 * 2 ^ 32))) := by
  have hstores := snapshotChunkRead_stores hs hx h0 ht hy hn ha hm hw hc hwin hopen hh hf hbs
  refine ⟨chunkStored s x a (16384 * n) bs none, (chunkStored_parts ..).trans rfl, fun hr => ?_, fun hr => ?_⟩
  · rw [hstores, finishSnap_waits (x := { x with todo := rest, pos := x.pos + bs.length }) rfl (.inr ⟨hr, h0⟩)]
    rfl
  · rw [hstores, finishSnap_ends (x := { x with todo := rest, pos := x.pos + bs.length }) rfl ht (.inl hr)]
    change Host.Outcome.next (complete (chunkStored s x a (16384 * n) bs none) x.src x.status
      (if x.status = 0 then (x.pos + bs.length) % 2 ^ 32 + x.step % 2 ^ 32 * 2 ^ 32 else 0)) = _
    rw [h0, if_pos rfl]
    rfl

/-- Settles O51: fault stops and the watchdog begin their dumps, a dump ends in its region, DUMP and SNAPSHOT copy. -/
theorem stopsDumpsAndSnapshots : Obligations.StopsDumpsAndSnapshots := by
  refine ⟨fun s hw hj => faultStop_spec hw hj, fun s w hj ht => hurWatchdog_spec hj ht,
    fun s h1 hp hin hh => hurDumpDone_spec h1 hp hin hh, fun s h => hurDumpDone_idle h,
    fun s src a h => ⟨fun h1 => ⟨dumpTake_busy h h1, dumpCopyLast_busy h h1⟩, dumpTake_begins h, dumpCopyLast_none h,
      dumpCopyLast_stays h, dumpCopyLast_copies h, dumpCopyLast_fails h⟩,
    fun s src dest limit fmt mask sc l h hl => ?snapshot,
    fun s x k slot j a n y f bs rest hs hx h0 ht hy hn ha hf => ⟨snapshotChunkRead_waits hs hx h0 ht hy hn ha,
      fun hm hw hc hwin hopen hh hbs => snapshotChunkRead_spec hs hx h0 ht hy hn ha hf hm hw hc hwin hopen hh hbs,
      snapshotChunkRead_refused hs hx h0 ht hy hn ha⟩⟩
  case snapshot =>
    subst hl
    exact ⟨snapshot_busy h, fun hs hf ht hm => ⟨snapshot_short h hs,
      fun hle hne => ⟨_, rfl, snapshot_begins h hs hf ht hm hle hne⟩, snapshot_empty h hs hf ht hm⟩⟩

end Sys2Proof.Machine
end

/-! ## Courses, RUNs and the end of jobs (06 R217, R242; 07 R270 to R273; 13 R451 to R457, R463) -/
section
set_option Elab.async false
namespace Sys2Proof.Machine
open Sys2Proof

theorem exec_loadCourse (src : Src) (a len : Nat) (img : Image) (dma : Bool) (s : State) :
    exec (.loadCourse src a len img dma) s = execLoadCourse src a len img dma s := rfl

theorem exec_run (src : Src) (s : State) : exec (.run src) s = execRun src s := rfl

theorem exec_runStart (s : State) : exec .runStart s = execRunStart s := rfl

theorem exec_runComplete (s : State) : exec .runComplete s = execRunComplete s := rfl

theorem exec_halt (src : Src) (s : State) : exec (.halt src) s = execHalt src s := rfl

theorem exec_endJob (src : Src) (s : State) : exec (.endJob src) s = execEndJob src s := rfl

/-! ### What an image's bytes hold (13 R451, R452) -/

theorem numAt_leBytes (n v : Nat) (rest : List Byte) : numAt (leBytes n v ++ rest) 0 n = v % 256 ^ n := by
  rw [numAt, List.drop_zero, List.take_left' (leBytes_length ..), ofLe_leBytes]

theorem numAt_leBytes_all (n v : Nat) : numAt (leBytes n v) 0 n = v % 256 ^ n := by
  rw [← List.append_nil (leBytes n v), numAt_leBytes]

theorem numAt_after {k i : Nat} (h : k ≤ i) (v n : Nat) (rest : List Byte) :
    numAt (leBytes k v ++ rest) i n = numAt rest (i - k) n := by
  rw [numAt, numAt, List.drop_append, List.drop_eq_nil_of_le (by rw [leBytes_length]; exact h), leBytes_length,
    List.nil_append]

/-- A header is read back from its bytes. -/
theorem headerOf_headBytes {h : ImageHeader} (h1 : h.magic < 2 ^ 32) (h2 : h.format < 2 ^ 16) (h3 : h.contract < 2 ^ 16)
    (h4 : h.job < 2 ^ 32) (h5 : h.flags < 2 ^ 8) (h6 : h.signSlot < 2 ^ 8) (h7 : h.counter < 2 ^ 16)
    (h8 : h.version < 2 ^ 64) (h9 : h.bodyLength < 2 ^ 64) (h10 : h.sectionCount < 2 ^ 32) (h11 : h.moduleId < 2 ^ 16)
    (h12 : h.reserved < 2 ^ 720) : headerOf (headBytes h) = h := by
  have hpow (k : Nat) : 256 ^ k = 2 ^ (8 * k) := by rw [Nat.pow_mul]
  rw [headBytes, headerOf]
  simp only [List.append_assoc]
  simp only [numAt_after, numAt_leBytes, numAt_leBytes_all, hpow, Nat.reduceLeDiff, Nat.reduceSub, Nat.reduceMul, Nat.mod_eq_of_lt,
    h1, h2, h3, h4, h5, h6, h7, h8, h9, h10, h11, h12]

/-- The bytes of a section. -/
def sectionBytes (x : Section) : List Byte :=
  leBytes 2 x.type ++ leBytes 2 0 ++ leBytes 4 x.body.length ++ leBytes 8 x.target ++ x.body

theorem sectionsOf_section (n : Nat) {x : Section} (rest : List Byte) (h1 : 1 ≤ x.type) (hd : x.type ≤ 0x0D)
    (ht : x.target < 2 ^ 64) (hl : x.body.length < 2 ^ 32) (h8 : x.body.length % 8 = 0) :
    sectionsOf (n + 1) (sectionBytes x ++ rest) = (sectionsOf n rest).map (x :: ·) := by
  have hpow (k : Nat) : 256 ^ k = 2 ^ (8 * k) := by rw [Nat.pow_mul]
  have htype : x.type < 2 ^ 16 := by omega
  generalize hbs : sectionBytes x ++ rest = bs
  have happ : bs = leBytes 2 x.type ++ (leBytes 2 0 ++ (leBytes 4 x.body.length ++ (leBytes 8 x.target ++ (x.body ++ rest)))) := by
    rw [← hbs, sectionBytes]
    simp only [List.append_assoc]
  have hnum0 : numAt bs 0 2 = x.type := by
    rw [happ, numAt_leBytes, hpow, Nat.mod_eq_of_lt htype]
  have hnum2 : numAt bs 2 2 = 0 := by
    rw [happ, numAt_after (by decide), numAt_leBytes, Nat.zero_mod]
  have hnum4 : numAt bs 4 4 = x.body.length := by
    rw [happ, numAt_after (by decide), numAt_after (by decide), numAt_leBytes, hpow, Nat.mod_eq_of_lt hl]
  have hnum8 : numAt bs 8 8 = x.target := by
    rw [happ, numAt_after (by decide), numAt_after (by decide), numAt_after (by decide), numAt_leBytes, hpow, Nat.mod_eq_of_lt ht]
  have hlen : bs.length = 16 + x.body.length + rest.length := by
    rw [happ]
    simp only [List.length_append, leBytes_length]
    omega
  have hdrop : bs.drop 16 = x.body ++ rest := by
    rw [← hbs, sectionBytes, List.append_assoc]
    exact List.drop_left' (by simp only [List.length_append, leBytes_length])
  have h15 : bs.drop 15 ≠ [] := fun h => by
    have := List.drop_eq_nil_iff.1 h
    omega
  have hbody : x.body.length = 0 ∨ (x.body ++ rest).drop (x.body.length - 1) ≠ [] := by
    rcases Nat.eq_zero_or_pos x.body.length with h0 | hp
    · exact .inl h0
    · refine .inr fun h => ?_
      have := List.drop_eq_nil_iff.1 h
      rw [List.length_append] at this
      omega
  rw [sectionsOf, hnum0, hnum2, hnum4, hnum8, hdrop]
  refine (if_pos ?_).trans ?_
  · simp only [Bool.and_eq_true, Bool.or_eq_true, decide_eq_true_eq]
    exact ⟨⟨⟨⟨⟨h1, hd⟩, trivial⟩, h8⟩, hbody⟩, h15⟩
  · rw [List.drop_left, List.take_left]

/-! ### What loading a course keeps (13 R453) -/

/-- A state with the same host port, loaded course and vault counters. -/
structure KeepsHost (s t : State) : Prop where
  qps : t.qps = s.qps
  hostMem : t.hostMem = s.hostMem
  course : t.course = s.course
  counters : t.vault.counters = s.vault.counters

namespace KeepsHost

theorem refl (s : State) : KeepsHost s s := ⟨rfl, rfl, rfl, rfl⟩

theorem trans {s t u : State} (h : KeepsHost s t) (k : KeepsHost t u) : KeepsHost s u :=
  ⟨k.qps.trans h.qps, k.hostMem.trans h.hostMem, k.course.trans h.course, k.counters.trans h.counters⟩

theorem foldl {α : Type} {f : State → α → State} (h : ∀ s a, KeepsHost s (f s a)) (l : List α) (s : State) :
    KeepsHost s (l.foldl f s) := by
  induction l generalizing s with
  | nil => exact .refl s
  | cons a l ih => exact (h s a).trans (ih _)

theorem of_setDefect (s : State) (k v : Nat) : KeepsHost s (setDefect s k v) := ⟨rfl, rfl, rfl, rfl⟩

theorem of_dropFull (s : State) : KeepsHost s (dropFull s) := by
  unfold dropFull
  split <;> exact ⟨rfl, rfl, rfl, rfl⟩

theorem of_applyRepair (s : State) (e : FEntry) : KeepsHost s (applyRepair s e) := by
  unfold applyRepair
  split
  · exact of_setDefect ..
  · split
    · exact of_setDefect ..
    · exact .refl s

theorem of_mapInEffect (s : State) : KeepsHost s (mapInEffect s) := ⟨rfl, rfl, rfl, rfl⟩

theorem of_countSpares (s : State) : KeepsHost s (countSpares s) := by
  unfold countSpares
  generalize List.range 48 = l
  exact ⟨rfl, rfl, rfl, rfl⟩

theorem of_applyNew (s : State) : KeepsHost s (applyNew s) := by
  unfold applyNew
  dsimp only
  generalize (s.vault.fmap.filter (fun e => e.state = 0)).filter (fun e => e.action = 5 || e.action = 6) = l
  have hdef := (foldl (fun s (e : FEntry) => of_setDefect s (unitKey e.kind e.location) 2) l s).trans (of_dropFull _)
  generalize dropFull _ = u at hdef ⊢
  have hrep := hdef.trans (foldl of_applyRepair (u.vault.fmap.filter (fun e => e.state = 0)) u)
  generalize List.foldl applyRepair u _ = v at hrep ⊢
  exact (hrep.trans (of_mapInEffect v)).trans (of_countSpares _)

theorem of_applyAssignment (s : State) : KeepsHost s (applyAssignment s) := ⟨rfl, rfl, rfl, rfl⟩

theorem of_nextModule (s : State) : KeepsHost s (nextModule s) := (of_applyAssignment s).trans (of_applyNew _)

theorem of_holdFields (s : State) (c : Image) : KeepsHost s (holdFields s c) := by
  unfold holdFields
  split
  · exact .refl s
  · exact ⟨rfl, rfl, rfl, rfl⟩

theorem of_zeroBank (s : State) (b : Nat) : KeepsHost s (zeroBank s b) := ⟨rfl, rfl, rfl, rfl⟩

theorem of_writeMem (s : State) (a : Nat) (bs : List Byte) : KeepsHost s (writeMem s a bs).1 := by
  have h := (OnlyMemoryErrors.of_writeMem s a bs).parts
  generalize (writeMem s a bs).1 = t at h ⊢
  rw [h]
  exact ⟨rfl, rfl, rfl, rfl⟩

theorem of_loadMemory (s : State) (c : Image) : KeepsHost s (loadMemory s c) := by
  refine (((foldl of_zeroBank _ s).trans (foldl (fun s e => of_writeMem s _ _) _ _)).trans
    (foldl (fun s e => of_writeMem s _ _) _ _)).trans (foldl (fun s e => ?_) _ _)
  cases e.2 with
  | none => exact .refl s
  | some p => exact foldl (fun s x => of_writeMem s _ _) _ _

theorem of_openWin (s : State) (c : WinCfg) (b : Bool) : KeepsHost s (openWin s c b) := ⟨rfl, rfl, rfl, rfl⟩

end KeepsHost

/-- The state with a course's data in memory and its banks at rest (13 R453 step 4). -/
def coursePlaced (s : State) (c : Image) : State :=
  restBanks (loadMemory { holdFields (nextModule s) c with
    course := some c
    bankMode := courseModes (holdFields (nextModule s) c) c } c)

/-- The state with a course's windows open too. -/
def courseWindowed (s : State) (c : Image) : State :=
  c.windows.foldl (fun s w => openWin s w false) { coursePlaced s c with wins := [] }

/-- The tables of a loaded course as they begin (13 R453 step 6; 04 R171; 08 R316, R317; 11 R411). -/
def courseBegun (s : State) (c : Image) : State :=
  { s with
    engines := (List.range 384).map (fun i => (i, { doneCnt := (s.engines.get {} i).doneCnt, bound := c.bindings.get none i }))
    stns := seeded s c, arrs := [], coreCtr := [], cluCtr := [], dieCtr := [], modCtr := []
    adds := [], waiters := [], valMsgs := [], seen := [], jobUp := [], jobSum := [], jobDown := []
    gws := (List.range 16).map (fun k => (k, { state := b2n c.steps.step.isSome }))
    groups := c.groups.map (fun e => (e.1, { cfg := e.2.getD {}, used := e.2.isSome }))
    nfCnt := [], coord := {}, steps := 0, ofls := [], gwIn := []
    keys := { s.keys with loads := s.keys.loads + 1 }, runNo := 1, jobState := 2, run := {}, dump := {}
    ports := s.ports.map (fun e => (e.1, clearPort e.2)) }

theorem applyCourse_eq (s : State) (c : Image) : applyCourse s c =
    setReg (setReg (courseBegun (courseWindowed s c) c) (regKey 10 0x620) 0) (regKey 10 0x628) 0 := rfl

theorem keepsHost_courseWindowed (s : State) (c : Image) :
    (courseWindowed s c).qps = s.qps ∧ (courseWindowed s c).hostMem = s.hostMem ∧
      (courseWindowed s c).course = some c ∧ (courseWindowed s c).vault.counters = s.vault.counters := by
  have hheld := (KeepsHost.of_nextModule s).trans (KeepsHost.of_holdFields (nextModule s) c)
  unfold courseWindowed coursePlaced
  generalize holdFields (nextModule s) c = u at hheld ⊢
  have hload := KeepsHost.of_loadMemory { u with course := some c, bankMode := courseModes u c } c
  generalize loadMemory { u with course := some c, bankMode := courseModes u c } c = v at hload ⊢
  have hwin := KeepsHost.foldl (fun s w => KeepsHost.of_openWin s w false) c.windows { restBanks v with wins := [] }
  exact ⟨hwin.qps.trans (hload.qps.trans hheld.qps), hwin.hostMem.trans (hload.hostMem.trans hheld.hostMem),
    hwin.course.trans hload.course, hwin.counters.trans (hload.counters.trans hheld.counters)⟩

/-- A table whose values are changed, at a value that stays where the table has none. -/
theorem get_map_of_default {α β : Type} {d : α} {d' : β} {f : α → β} (h : f d = d') (m : Table α) (k : Nat) :
    Table.get d' (m.map (fun e => (e.1, f e.2))) k = f (Table.get d m k) := by
  induction m with
  | nil => exact h.symm
  | cons e m ih =>
    rw [List.map_cons, Table.get, Table.get, ih]
    split <;> rfl

/-- Banks between RUNs (07 R272). -/
theorem bankState_restBanks (s : State) (b : Nat) :
    (restBanks s).bankState.get 0 b = if (restBanks s).bankMode.get 0 b = 2 then 2 else 0 :=
  get_map_of_default (d := 0) (d' := 0) (f := fun v : Nat => if v = 2 then 2 else 0) rfl s.bankMode b

theorem banks_openWins (l : List WinCfg) (s : State) :
    (l.foldl (fun s w => openWin s w false) s).bankState = s.bankState ∧
      (l.foldl (fun s w => openWin s w false) s).bankMode = s.bankMode := by
  induction l generalizing s with
  | nil => exact ⟨rfl, rfl⟩
  | cons w l ih => exact ih _

theorem bankState_courseWindowed (s : State) (c : Image) (b : Nat) : (courseWindowed s c).bankState.get 0 b =
    if (courseWindowed s c).bankMode.get 0 b = 2 then 2 else 0 := by
  obtain ⟨hs, hm⟩ := banks_openWins c.windows { coursePlaced s c with wins := [] }
  rw [courseWindowed, hs, hm]
  exact bankState_restBanks _ b

theorem get_map_keyed {α : Type} (d : α) (g : Nat → α) {l : List Nat} {u : Nat} (h : u ∈ l) :
    Table.get d (l.map (fun u => (u, g u))) u = g u := by
  induction l with
  | nil => exact absurd h List.not_mem_nil
  | cons k l ih =>
    rw [List.map_cons, Table.get]
    split
    · subst k; rfl
    · exact ih ((List.mem_cons.1 h).resolve_left (Ne.symm ‹_›))

theorem present_lt {s : State} {n : Nat} (h : present s n = true) : n < 768 := by
  rw [present, Bool.and_eq_true, decide_eq_true_eq] at h
  exact h.1

theorem mem_presentStations {s : State} {n : Nat} (h : present s n = true) : n ∈ (List.range 768).filter (present s) :=
  List.mem_filter.2 ⟨List.mem_range.2 (present_lt h), h⟩

/-- Every LFSR of a present station at its seed (04 R171). -/
theorem lfsr_seeded {s : State} {n : Nat} (c : Image) (h : present s n = true) :
    (Table.get {} (seeded s c) n).lfsr = if c.seeds.get 0 n = 0 then 1 else c.seeds.get 0 n := by
  have hmem := mem_presentStations h
  unfold seeded
  generalize (List.range 768).filter (present s) = l at hmem ⊢
  exact congrArg Station.lfsr
    (get_map_keyed {} (fun n => ({ lfsr := if c.seeds.get 0 n = 0 then 1 else c.seeds.get 0 n } : Station)) hmem)

/-- The commit of a course changes the vault and what its waiting transactions change (18 R565). -/
theorem onlyVault_commitCourse (s : State) (c : Image) : ∃ v, OnlyVault { s with vault := v } (commitCourse s c) := by
  unfold commitCourse
  split
  · exact ⟨_, (onlyVault_drainVault s).trans (onlyVault_commitTxn fun _ => rfl)⟩
  · exact ⟨s.vault, .refl s⟩

/-- The counter of a course at the image's version (13 R453 step 5). -/
theorem counter_commitCourse {s : State} {c : Image} (h : s.vault.counters.get 0 c.hdr.counter ≤ c.hdr.version) :
    (commitCourse s c).vault.counters.get 0 c.hdr.counter = c.hdr.version := by
  unfold commitCourse
  split
  · obtain ⟨-, -, -, v, hc, -⟩ := commitNow_spec s
      (f := fun v => { v with counters := v.counters.set c.hdr.counter c.hdr.version }) (fun _ => rfl)
    rw [hc]
    exact Table.get_set_same ..
  · omega

/-- The job of a course that begins. -/
theorem courseBegun_job (s : State) (c : Image) : (courseBegun s c).jobState = 2 ∧ (courseBegun s c).course = s.course ∧
    (courseBegun s c).runNo = 1 ∧ (courseBegun s c).steps = 0 ∧ (courseBegun s c).coreCtr = [] ∧
    (courseBegun s c).cluCtr = [] ∧ (courseBegun s c).dieCtr = [] ∧ (courseBegun s c).modCtr = [] := by
  unfold courseBegun
  generalize List.range 384 = l, List.range 16 = l', seeded s c = t
  exact ⟨rfl, rfl, rfl, rfl, rfl, rfl, rfl, rfl⟩

/-- What a course that begins leaves as it was placed. -/
theorem courseBegun_rest (s : State) (c : Image) : (courseBegun s c).stns = seeded s c ∧
    (courseBegun s c).coresEff = s.coresEff ∧ (courseBegun s c).qps = s.qps ∧ (courseBegun s c).hostMem = s.hostMem ∧
    (courseBegun s c).bankState = s.bankState ∧ (courseBegun s c).bankMode = s.bankMode ∧
    (courseBegun s c).vault = s.vault := by
  unfold courseBegun
  generalize List.range 384 = l, List.range 16 = l', seeded s c = t
  exact ⟨rfl, rfl, rfl, rfl, rfl, rfl, rfl⟩

theorem present_congr {s t : State} (h : t.coresEff = s.coresEff) (n : Nat) : present t n = present s n := by
  rw [present, present, cores, cores, h]

/-- The commit keeps what the course began (13 R453 step 5). -/
theorem commitCourse_keeps (s : State) (c : Image) {u : State} (hu : u = commitCourse s c) :
    (u.jobState = s.jobState ∧ u.course = s.course ∧ u.runNo = s.runNo ∧ u.steps = s.steps ∧ u.coreCtr = s.coreCtr ∧
      u.cluCtr = s.cluCtr ∧ u.dieCtr = s.dieCtr ∧ u.modCtr = s.modCtr) ∧
    u.stns = s.stns ∧ u.coresEff = s.coresEff ∧ u.qps = s.qps ∧ u.hostMem = s.hostMem ∧ u.bankState = s.bankState ∧
      u.bankMode = s.bankMode := by
  obtain ⟨v, v', g, w, ⟨r, l, n, f, bb, eb, d, k, a, k', rfl⟩, -, hc⟩ := onlyVault_commitCourse s c
  rw [hu, hc]
  exact ⟨⟨rfl, rfl, rfl, rfl, rfl, rfl, rfl, rfl⟩, rfl, rfl, rfl, rfl, rfl, rfl⟩

/-- What a course that is loaded leaves. -/
theorem loadedCourse_spec {s : State} {c : Image} (h : s.vault.counters.get 0 c.hdr.counter ≤ c.hdr.version) {u : State}
    (hu : u = commitCourse (applyCourse s c) c) : u.jobState = 2 ∧
      u.course = some c ∧ u.runNo = 1 ∧ u.steps = 0 ∧ u.coreCtr = [] ∧ u.cluCtr = [] ∧ u.dieCtr = [] ∧
      u.modCtr = [] ∧ (∀ n, present u n = true → (stn u n).lfsr =
        (if c.seeds.get 0 n = 0 then 1 else c.seeds.get 0 n)) ∧
      u.vault.counters.get 0 c.hdr.counter = c.hdr.version ∧ u.qps = s.qps ∧ u.hostMem = s.hostMem ∧
      ∀ b, u.bankState.get 0 b = if u.bankMode.get 0 b = 2 then 2 else 0 := by
  obtain ⟨hqps, hhost, hcourse, hcounters⟩ := keepsHost_courseWindowed s c
  have hbanks := bankState_courseWindowed s c
  rw [applyCourse_eq] at hu
  generalize courseWindowed s c = x at hqps hhost hcourse hcounters hbanks hu
  obtain ⟨hj, hc, hr, hs, hcore, hclu, hdie, hmod⟩ := courseBegun_job x c
  obtain ⟨hstns, hcores, hq, hm, hbs, hbm, hv⟩ := courseBegun_rest x c
  generalize courseBegun x c = y at hu hj hc hr hs hcore hclu hdie hmod hstns hcores hq hm hbs hbm hv
  have hcount : u.vault.counters.get 0 c.hdr.counter = c.hdr.version := by
    rw [hu]
    refine counter_commitCourse ?_
    change y.vault.counters.get 0 c.hdr.counter ≤ c.hdr.version
    rw [hv, hcounters]
    exact h
  obtain ⟨⟨hj', hc', hr', hs', hcore', hclu', hdie', hmod'⟩, hstns', hcores', hq', hm', hbs', hbm'⟩ :=
    commitCourse_keeps _ c hu
  refine ⟨hj'.trans hj, hc'.trans (hc.trans hcourse), hr'.trans hr, hs'.trans hs, hcore'.trans hcore, hclu'.trans hclu,
    hdie'.trans hdie, hmod'.trans hmod, fun n hn => ?_, hcount, hq'.trans (hq.trans hqps), hm'.trans (hm.trans hhost),
    fun b => ?_⟩
  · rw [present_congr (hcores'.trans hcores)] at hn
    rw [stn, hstns'.trans hstns]
    exact lfsr_seeded c hn
  · rw [hbs'.trans hbs, hbm'.trans hbm]
    exact hbanks b

/-! ### LOAD_COURSE in the order of its checks (13 R453) -/

section
variable {s : State} {src : Src} {a len : Nat} {img : Image} (h : Taken s .load true) (he : s.vault.badEssential = 0)
include h

theorem loadCourse_dmaFault : exec (.loadCourse src a len img true) s = .next (dmaFault s src) := by
  rw [exec_loadCourse, execLoadCourse, command_taken h, if_pos rfl]

theorem loadCourse_header (hh : headOk s len img.hdr = false) :
    exec (.loadCourse src a len img false) s = .next (complete s src stInvalid 0) := by
  rw [exec_loadCourse, execLoadCourse, command_taken h, if_neg (by decide), if_pos (by rw [hh]; rfl)]

variable (hh : headOk s len img.hdr = true)
include he hh

theorem loadCourse_unsigned
    (hk : s.vault.courseKeys.get 0 img.hdr.signSlot = 0 ∨ img.signedBy ≠ s.vault.courseKeys.get 0 img.hdr.signSlot) :
    exec (.loadCourse src a len img false) s =
      .next (complete (raise (setBit s (regKey 10 0x900) 11) 0x0A04 15 0 none) src 0x02 0) := by
  rw [exec_loadCourse, execLoadCourse, command_taken h, if_neg (by decide), if_neg (by rw [hh]; decide),
    readDual_good (b := false) he]
  exact if_pos (by simpa using hk)

variable (hk : s.vault.courseKeys.get 0 img.hdr.signSlot ≠ 0) (hs : img.signedBy = s.vault.courseKeys.get 0 img.hdr.signSlot)
include hk hs

theorem loadCourse_old (hv : img.hdr.version < s.vault.counters.get 0 img.hdr.counter) :
    exec (.loadCourse src a len img false) s =
      .next (complete (raise (setBit s (regKey 10 0x900) 11) 0x0A05 15 0 none) src 0x0C 0) := by
  rw [exec_loadCourse, execLoadCourse, command_taken h, if_neg (by decide), if_neg (by rw [hh]; decide),
    readDual_good (b := false) he]
  exact (if_neg (by simp [hk, hs])).trans (if_pos hv)

variable (hv : s.vault.counters.get 0 img.hdr.counter ≤ img.hdr.version)
include hv

theorem loadCourse_content (hc : contentOk s img = false) :
    exec (.loadCourse src a len img false) s = .next (complete s src stInvalid 0) := by
  rw [exec_loadCourse, execLoadCourse, command_taken h, if_neg (by decide), if_neg (by rw [hh]; decide),
    readDual_good (b := false) he]
  exact (if_neg (by simp [hk, hs])).trans ((if_neg (by omega)).trans (if_pos (by rw [hc]; rfl)))

omit hv in
theorem loadCourse_readOnly (hc : contentOk s img = true) (hst : s.vault.state ≠ 0)
    (hlt : s.vault.counters.get 0 img.hdr.counter < img.hdr.version) :
    exec (.loadCourse src a len img false) s = .next (complete s src stFault 0) := by
  rw [exec_loadCourse, execLoadCourse, command_taken h, if_neg (by decide), if_neg (by rw [hh]; decide),
    readDual_good (b := false) he]
  exact (if_neg (by simp [hk, hs])).trans ((if_neg (by omega)).trans ((if_neg (by rw [hc]; decide)).trans
    (if_pos (by simp [hst, hlt]))))

theorem loadCourse_loads (hc : contentOk s img = true) (hst : s.vault.state = 0) :
    exec (.loadCourse src a len img false) s =
      .next (complete (commitCourse (applyCourse s img) img) src stOK img.hdr.job) := by
  rw [exec_loadCourse, execLoadCourse, command_taken h, if_neg (by decide), if_neg (by rw [hh]; decide),
    readDual_good (b := false) he]
  exact (if_neg (by simp [hk, hs])).trans ((if_neg (by omega)).trans ((if_neg (by rw [hc]; decide)).trans
    (if_neg (by simp [hst]))))

end

/-! ### RUN and its start (06 R222, R242; 07 R272; 13 R454) -/

section
variable {s : State} {src : Src} (h : Taken s .run false)
include h

theorem run_noKeys (hk : keysMissing s = true) : exec (.run src) s = .next (complete s src stInvalid 0) := by
  rw [exec_run, execRun, command_taken h, if_pos hk]

theorem run_stopped (hk : keysMissing s = false) (hf : s.coord.frozen = true ∨ s.run.portLost = true) :
    exec (.run src) s = .next (complete s src stFault 0) := by
  rw [exec_run, execRun, command_taken h, if_neg (by rw [hk]; decide), if_pos (by simpa using hf)]

theorem run_begins (hk : keysMissing s = false) (hf : s.coord.frozen = false) (hp : s.run.portLost = false) :
    exec (.run src) s = .next (banksTo { s with jobState := 3, run := { s.run with src := some src }, stop := {} } 3) := by
  rw [exec_run, execRun, command_taken h, if_neg (by rw [hk]; decide), if_neg (by rw [hf, hp]; decide)]

end

/-- Banks of a RUN in a state (07 R272). -/
theorem bankState_banksTo (s : State) (v b : Nat) :
    (banksTo s v).bankState.get 0 b = if s.bankMode.get 0 b = 0 then 0 else v :=
  get_map_of_default (d := 0) (d' := 0) (f := fun m : Nat => if m = 0 then 0 else v) rfl s.bankMode b

theorem onlyMemory_zeroBanks (l : List Nat) (s : State) : OnlyMemory s (l.foldl zeroBank s) := by
  induction l generalizing s with
  | nil => exact .refl s
  | cons b l ih => exact OnlyMemory.trans (t := zeroBank s b) rfl (ih _)

/-- Banks that are zeroised leave each byte as it was, or 0. -/
theorem memGet_zeroBanks (l : List Nat) (s : State) (a : Nat) :
    memGet (l.foldl zeroBank s).mem a = memGet s.mem a ∨ memGet (l.foldl zeroBank s).mem a = 0 := by
  induction l generalizing s with
  | nil => exact .inl rfl
  | cons b l ih =>
    have hz : memGet (zeroBank s b).mem a =
        if (bankSpan b).1 ≤ a ∧ a < (bankSpan b).1 + (bankSpan b).2 then 0 else memGet s.mem a := memGet_memZero ..
    rcases ih (zeroBank s b) with hb | hb
    · rw [List.foldl_cons, hb, hz]
      split
      · exact .inr rfl
      · exact .inl rfl
    · exact .inr hb

/-- A table with the entries of some keys alone. -/
theorem get_filter_key {α : Type} (d : α) (p : Nat → Bool) (m : Table α) (k : Nat) :
    Table.get d (m.filter (fun e => p e.1)) k = if p k then Table.get d m k else d := by
  induction m with
  | nil => rw [List.filter_nil, Table.get, ite_self]
  | cons e m ih =>
    rw [List.filter_cons]
    by_cases hk : e.1 = k
    · subst hk
      by_cases hp : p e.1 <;> simp [hp, Table.get, ih]
    · by_cases hp : p e.1 <;> simp [hp, Table.get, ih, hk]

theorem get_foldl_upd_other {α : Type} (d : α) (f : Nat → α → α) {l : List Nat} {k : Nat} (h : k ∉ l) (m : Table α) :
    Table.get d (l.foldl (fun t g => t.upd d g (f g)) m) k = Table.get d m k := by
  induction l generalizing m with
  | nil => rfl
  | cons g l ih =>
    rw [List.foldl_cons, ih (fun hk => h (List.mem_cons_of_mem _ hk)),
      Table.get_upd_other _ _ _ _ _ (fun hk : k = g => h (by rw [hk]; exact List.mem_cons_self))]

theorem get_foldl_upd {α : Type} (d : α) (f : Nat → α → α) {l : List Nat} (hl : l.Nodup) {k : Nat} (h : k ∈ l) (m : Table α) :
    Table.get d (l.foldl (fun t g => t.upd d g (f g)) m) k = f k (Table.get d m k) := by
  induction l generalizing m with
  | nil => exact absurd h List.not_mem_nil
  | cons g l ih =>
    obtain ⟨hg, hl'⟩ := List.nodup_cons.1 hl
    rw [List.foldl_cons]
    rcases List.mem_cons.1 h with rfl | hk
    · rw [get_foldl_upd_other d f hg, Table.get_upd_same]
    · rw [ih hl' hk, Table.get_upd_other _ _ _ _ _ (fun he : k = g => hg (by rw [← he]; exact hk))]

theorem live_lt {s : State} {g : Nat} (h : live s g = true) : g < 96 := by
  rw [live, Bool.and_eq_true, decide_eq_true_eq] at h
  exact h.1

theorem mem_liveClusters {s : State} {g : Nat} (h : live s g = true) : g ∈ (List.range 96).filter (live s) :=
  List.mem_filter.2 ⟨List.mem_range.2 (live_lt h), h⟩

/-- A RUN that starts with its banks ACTIVE, of stations `ns` and clusters `gs`, before clocks are set and COPYs go on. -/
def runBegun (u : State) (ns gs : List Nat) (c : Image) : State :=
  { u with
    stns := ns.map (fun n => (n, startStn c n (stn u n)))
    arrs := []
    engines := if sealedJob u then u.engines else u.engines.map (fun e => (e.1, { e.2 with doneCnt := 0 }))
    coreCtr := u.coreCtr.filter (fun e => e.1 % 64 < 56)
    clus := gs.foldl (fun t g => t.upd {} g (startClu c g)) u.clus
    coord := { u.coord with
      bs := 0, ba := 0, runSteps := 0, runSkips := 0, voted := false, votedSkip := false, freeze := false, acking := false }
    gws := u.gws.map (fun e => (e.1, { e.2 with doneBase := [] }))
    run := { u.run with started := true } }

/-- The state with its RUN banks zeroised and ACTIVE. -/
def runBanks (s : State) : State := banksTo ((banksOf s 1).foldl zeroBank s) 1

theorem runBanks_parts (s : State) : runBanks s = { s with
    mem := (runBanks s).mem
    cwErr := (runBanks s).cwErr
    writeBack := (runBanks s).writeBack
    bankState := (runBanks s).bankState } := by
  have hm := onlyMemory_zeroBanks (banksOf s 1) s
  unfold runBanks
  generalize (banksOf s 1).foldl zeroBank s = u at hm ⊢
  rw [hm]
  rfl

theorem bankState_runBanks (s : State) (b : Nat) :
    (runBanks s).bankState.get 0 b = if s.bankMode.get 0 b = 0 then 0 else 1 := by
  have hm : ((banksOf s 1).foldl zeroBank s).bankMode = s.bankMode := by rw [onlyMemory_zeroBanks (banksOf s 1) s]
  rw [runBanks, bankState_banksTo, hm]

theorem stn_runBegun (u : State) {ns : List Nat} (gs : List Nat) (c : Image) {n : Nat} (h : n ∈ ns) :
    stn (runBegun u ns gs c) n = startStn c n (stn u n) :=
  get_map_keyed ({} : Station) (fun n => startStn c n (stn u n)) h

theorem clu_runBegun (u : State) (ns : List Nat) {gs : List Nat} (c : Image) (hn : gs.Nodup) {g : Nat} (h : g ∈ gs) :
    clu (runBegun u ns gs c) g = startClu c g (clu u g) :=
  get_foldl_upd ({} : Cluster) (startClu c) hn h u.clus

/-- A cluster's clock and token meter at the start of a RUN. -/
def clockStarted (s : State) (g : Nat) : State := retarget (clearPeak s g) g

theorem runStart_runs {s : State} {c : Image} (hc : s.course = some c) (hj : s.jobState = 3) (hr : s.run.started = false) :
    exec .runStart s = .next (goCopies (((List.range 96).filter (live (runBanks s))).foldl clockStarted
      (runBegun (runBanks s) ((List.range 768).filter (present (runBanks s))) ((List.range 96).filter (live (runBanks s))) c))) := by
  rw [exec_runStart, execRunStart, hc]
  exact if_neg (by simp [hj, hr])

/-- Clocks that start change a cluster's target and ramp, and the token meters. -/
theorem foldl_clockStarted (l : List Nat) (s : State) :
    l.foldl clockStarted s = { s with
      regs := (l.foldl clockStarted s).regs
      clus := (l.foldl clockStarted s).clus } ∧
    ∀ h, ∃ x r, clu (l.foldl clockStarted s) h = { clu s h with target := x, ramping := r } := by
  induction l generalizing s with
  | nil => exact ⟨rfl, fun h => ⟨(clu s h).target, (clu s h).ramping, rfl⟩⟩
  | cons g l ih =>
    obtain ⟨hparts, hclu⟩ := ih (clockStarted s g)
    refine ⟨hparts.trans rfl, fun h => ?_⟩
    obtain ⟨x, r, hx⟩ := hclu h
    rw [List.foldl_cons, hx]
    by_cases hg : h = g
    · subst hg
      have hsame : clu (clockStarted s h) h = { clu s h with
          target := pacerLimit (clearPeak s h) h
          ramping := !(clu s h).onBoot && (clu s h).ratio ≠ ratioOf (pacerLimit (clearPeak s h) h) } :=
        clu_updClu_same (clearPeak s h) h _
      exact ⟨x, r, by rw [hsame]⟩
    · have hother : clu (clockStarted s g) h = clu s h := clu_retarget_other (clearPeak s g) hg
      exact ⟨x, r, by rw [hother]⟩

theorem goCopies_none {s : State} (h : s.copies = []) : goCopies s = s := by
  rw [goCopies, h]
  exact congrArg (fun l => { s with copies := l }) h.symm

theorem startGc_state (c : Image) (g : Nat) :
    (startGc c g).state = if (c.gcs.get none g).isSome then .running else .halted := by
  unfold startGc
  cases c.gcs.get none g <;> rfl

/-- What a RUN that starts leaves. -/
theorem runStart_spec {s : State} {c : Image} (hc : s.course = some c) (hj : s.jobState = 3) (hr : s.run.started = false) :
    ∃ t, exec (.runStart) s = .next (goCopies t) ∧ (s.copies = [] → goCopies t = t) ∧ t.copies = s.copies ∧
      t.run = { s.run with started := true } ∧ t.arrs = [] ∧
      (∀ n, present s n = true → stn t n = { pc := c.entries.get 0 n, run := .issuing, lfsr := (stn s n).lfsr
                                             stopped := (stn s n).stopped } ∧
        ∀ i, i < 64 → t.coreCtr.get 0 (64 * n + i) = if i < 56 then s.coreCtr.get 0 (64 * n + i) else 0) ∧
      (∀ g, live s g = true → (clu t g).cyc = 0 ∧ (clu t g).timed = [] ∧ (clu t g).loans = [] ∧
        (clu t g).onBoot = false ∧ (gcOf t g).state = (if (c.gcs.get none g).isSome then .running else .halted)) ∧
      (∀ b, t.bankState.get 0 b = if s.bankMode.get 0 b = 0 then 0 else 1) ∧
      t.coord.bs = 0 ∧ t.coord.ba = 0 ∧ t.qps = s.qps ∧ t.evs = s.evs ∧
      (∀ a, memGet t.mem a = memGet s.mem a ∨ memGet t.mem a = 0) := by
  refine ⟨_, runStart_runs hc hj hr, ?_⟩
  have hbanks := runBanks_parts s
  have hstate := bankState_runBanks s
  have hmem (a : Nat) : memGet (runBanks s).mem a = memGet s.mem a ∨ memGet (runBanks s).mem a = 0 :=
    memGet_zeroBanks (banksOf s 1) s a
  generalize runBanks s = u at hbanks hstate hmem ⊢
  have hpresent (n : Nat) (h : present s n = true) : n ∈ (List.range 768).filter (present u) :=
    mem_presentStations ((present_congr (by rw [hbanks]) n).trans h)
  have hlive (g : Nat) (h : live s g = true) : g ∈ (List.range 96).filter (live u) :=
    mem_liveClusters (by rw [hbanks]; exact h)
  have hnodup : ((List.range 96).filter (live u)).Nodup := List.nodup_range.filter _
  have hstn (n : Nat) : stn u n = stn s n := by rw [hbanks]; rfl
  have hclu (g : Nat) : clu u g = clu s g := by rw [hbanks]; rfl
  generalize (List.range 768).filter (present u) = ns at hpresent ⊢
  generalize (List.range 96).filter (live u) = gs at hlive hnodup ⊢
  obtain ⟨hparts, hclocks⟩ := foldl_clockStarted gs (runBegun u ns gs c)
  generalize gs.foldl clockStarted (runBegun u ns gs c) = t at hparts hclocks ⊢
  have hcopies : t.copies = s.copies := by rw [hparts]; exact (congrArg State.copies hbanks :)
  refine ⟨fun hn => goCopies_none (hcopies.trans hn), hcopies, ?_, by rw [hparts]; rfl, fun n hn => ⟨?_, fun i hi => ?_⟩,
    fun g hg => ?_, fun b => ?_, by rw [hparts]; rfl, by rw [hparts]; rfl, ?_, ?_, fun a => ?_⟩
  · rw [hparts]
    exact congrArg (fun v : State => { v.run with started := true }) hbanks
  · have hs := stn_runBegun u gs c (hpresent n hn)
    rw [hstn] at hs
    rw [hparts]
    exact hs
  · have hctr : t.coreCtr = s.coreCtr.filter (fun e => decide (e.1 % 64 < 56)) := by
      rw [hparts]
      exact congrArg (fun v : State => v.coreCtr.filter (fun e => decide (e.1 % 64 < 56))) hbanks
    rw [hctr, get_filter_key 0 (fun k => decide (k % 64 < 56)), show (64 * n + i) % 64 = i by omega]
    simp only [decide_eq_true_eq]
  · obtain ⟨x, r, hx⟩ := hclocks g
    rw [gcOf, hx, clu_runBegun u ns c hnodup (hlive g hg)]
    exact ⟨rfl, rfl, rfl, rfl, startGc_state c g⟩
  · rw [hparts]
    exact hstate b
  · rw [hparts]
    exact (congrArg State.qps hbanks :)
  · rw [hparts]
    exact (congrArg State.evs hbanks :)
  · rw [hparts]
    exact hmem a

end Sys2Proof.Machine
end

/-! ## The end of RUNs and of jobs (07 R272, R273; 13 R456, R457, R463) -/
section
set_option Elab.async false
namespace Sys2Proof.Machine
open Sys2Proof

/-! ### RUN_COMPLETE (13 R456) -/

section
variable {s : State}

theorem runStatus_eq (s : State) : runStatus s = (if s.run.fault then 0x06 else if s.run.timeout then 0x0A
    else if s.run.skipped || 0 < s.coord.runSkips then 0x0B else 0x00) := rfl

theorem bits_runResult (s : State) : bits (runResult s) 31 0 = s.runNo % 2 ^ 32 ∧
    bits (runResult s) 47 32 = s.coord.runSteps % 2 ^ 16 := by
  rw [runResult, putFields_cons, putFields_cons, putFields_cons, putFields_nil]
  refine ⟨?_, ?_⟩
  · rw [bits_setBits_other (by decide) (by omega), bits_setBits_other (by decide) (by omega), bits_setBits_self (by decide)]
  · rw [bits_setBits_other (by decide) (by omega), bits_setBits_self (by decide)]

theorem runComplete_stays {n : Nat} (hn : n < 768) (hp : present s n = true) (hr : (stn s n).run ≠ .halted) :
    exec .runComplete s = .next s := by
  have hany : (List.range 768).any (fun n => present s n && decide ((stn s n).run ≠ .halted)) = true :=
    List.any_eq_true.2 ⟨n, List.mem_range.2 hn, by rw [hp, decide_eq_true hr]; rfl⟩
  rw [exec_runComplete]
  unfold execRunComplete
  rw [hany]
  refine if_pos ?_
  simp only [Bool.or_true, Bool.true_or]

theorem runComplete_ends (hj : s.jobState = 3) (hr : s.run.started = true) (hq : Quiet s)
    (hh : ∀ n, n < 768 → present s n = true → (stn s n).run = .halted) (hg : gcsEnded s = true)
    (he : enginesDone s = true) (hs : settled s = true) : exec .runComplete s = .next (completeRun s) := by
  obtain ⟨hw, -, -, hd⟩ := hq
  have hany : (List.range 768).any (fun n => present s n && decide ((stn s n).run ≠ .halted)) = false := by
    refine List.any_eq_false.2 fun n hn => ?_
    rw [Bool.and_eq_true, decide_eq_true_eq]
    exact fun ⟨hp, hne⟩ => hne (hh n (List.mem_range.1 hn) hp)
  rw [exec_runComplete]
  unfold execRunComplete
  rw [hany, hg, he, hs, hr, hw]
  exact if_neg (by simp [hj, hd])

theorem completeRun_alone (ho : stepOpen s = false) {c : Src} (hc : s.run.src = some c) (hh : s.run.halts = []) :
    completeRun s = complete (afterRun s) c (runStatus s) (runResult s) := by
  rw [completeRun, discardStep_closed ho, hc, hh]
  rfl

/-- The banks of a RUN that is over, and its clusters' clocks. -/
def runRested (s : State) : State := wakeClocks (restBanks ((banksOf s 1).foldl zeroBank s))

theorem runRested_parts (s : State) : runRested s = { s with
    mem := (runRested s).mem
    cwErr := (runRested s).cwErr
    writeBack := (runRested s).writeBack
    bankState := (runRested s).bankState
    clus := (runRested s).clus } := by
  have hm := onlyMemory_zeroBanks (banksOf s 1) s
  unfold runRested
  generalize (banksOf s 1).foldl zeroBank s = u at hm ⊢
  obtain ⟨c, hc⟩ := wakeClocks_parts (restBanks u)
  rw [hc, hm]
  rfl

theorem mem_runRested (s : State) (a : Nat) : memGet (runRested s).mem a = memGet s.mem a ∨ memGet (runRested s).mem a = 0 := by
  have hm := memGet_zeroBanks (banksOf s 1) s a
  unfold runRested
  generalize (banksOf s 1).foldl zeroBank s = u at hm ⊢
  obtain ⟨c, hc⟩ := wakeClocks_parts (restBanks u)
  rw [hc]
  exact hm

theorem bankState_runRested (s : State) (b : Nat) :
    (runRested s).bankState.get 0 b = if s.bankMode.get 0 b = 2 then 2 else 0 := by
  have hm := onlyMemory_zeroBanks (banksOf s 1) s
  unfold runRested
  generalize (banksOf s 1).foldl zeroBank s = u at hm ⊢
  obtain ⟨c, hc⟩ := wakeClocks_parts (restBanks u)
  have hmode : (restBanks u).bankMode = s.bankMode := by rw [hm]; rfl
  have hb := bankState_restBanks u b
  rw [hmode] at hb
  rw [hc]
  exact hb

/-- What a RUN that is over leaves (07 R272, R273; 08 R316, R317). -/
theorem afterRun_spec (s : State) : (afterRun s).jobState = 2 ∧ (afterRun s).runNo = (s.runNo + 1) % 2 ^ 32 ∧
    (afterRun s).coreCtr = [] ∧ (afterRun s).cluCtr = [] ∧ (afterRun s).dieCtr = [] ∧ (afterRun s).modCtr = [] ∧
    (∀ e ∈ (afterRun s).stns, e.2.run = .idle) ∧ (∀ e ∈ (afterRun s).engines, e.2.state = .idle) ∧
    (∀ b, (afterRun s).bankState.get 0 b = if s.bankMode.get 0 b = 2 then 2 else 0) ∧
    (afterRun s).course = s.course ∧ (afterRun s).evs = s.evs ∧
    (∀ a, memGet (afterRun s).mem a = memGet s.mem a ∨ memGet (afterRun s).mem a = 0) := by
  have hparts := runRested_parts s
  have hmem := mem_runRested s
  have hbank := bankState_runRested s
  unfold runRested at hparts hmem hbank
  unfold afterRun
  dsimp only
  generalize wakeClocks (restBanks ((banksOf s 1).foldl zeroBank s)) = u at hparts hmem hbank ⊢
  refine ⟨rfl, ?_, rfl, rfl, rfl, rfl, fun e he => ?_, fun e he => ?_, hbank, by rw [hparts], by rw [hparts], hmem⟩
  · rw [hparts]
  · obtain ⟨x, -, rfl⟩ := List.mem_map.1 he
    rfl
  · obtain ⟨x, -, rfl⟩ := List.mem_map.1 he
    rfl

end

/-! ### HALT (13 R457) -/

section
variable {s : State} {src : Src}

theorem stopStep1_skipped (hw : s.stop.wanted = false) :
    (if (s.stop.wanted && decide (s.stop.stage = 0)) = true then stopStep1 s else s) = s :=
  if_neg (by rw [hw]; exact Bool.false_ne_true)

theorem endStop_quiet (h : Quiet s) : endStop s = s := by
  obtain ⟨hw, h0, ho, hd⟩ := h
  have h1 : ¬s.stop.stage = 1 := by omega
  rw [endStop, stopStep1_skipped hw, discardStep_closed ho, if_neg h1, if_neg hd]

theorem tallied_parts (s : State) : (if s.coord.voted then s else tally s) = { s with
    groups := (if s.coord.voted then s else tally s).groups
    nfCnt := (if s.coord.voted then s else tally s).nfCnt
    gws := (if s.coord.voted then s else tally s).gws } := by
  unfold tally
  generalize List.range 64 = l
  cases s.coord.voted <;> rfl

/-- A step counted as skipped, with its event (11 R401). -/
def stepSkipped (s : State) : State :=
  { raise s 0x0702 15 0 none with
    steps := s.steps + 1
    coord := { s.coord with
      skips := s.coord.skips + 1, lastVerdict := true, voted := false, votedSkip := false, freeze := false
      runSteps := s.coord.runSteps + 1, runSkips := s.coord.runSkips + 1 }
    gws := s.gws.map (fun e => (e.1, { e.2 with bufs := [], norms := [] })) }

theorem discardStep_skips (ho : stepOpen s = true) : discardStep s =
    stepSkipped (nextStep (latchGroups (if s.coord.voted then s else tally s))) := if_neg (by rw [ho]; decide)

theorem nextStep_latched (u : State) : ∃ gr gs ol,
    nextStep (latchGroups u) = { u with groups := gr, gws := gs, ofls := ol, stepErr := false } := ⟨_, _, _, rfl⟩

/-- An open step that is discarded. -/
theorem discardStep_open (ho : stepOpen s = true) : ∃ gr nf gs ol, discardStep s = stepSkipped { s with
    groups := gr
    nfCnt := nf
    gws := gs
    ofls := ol
    stepErr := false } := by
  have hp := tallied_parts s
  rw [discardStep_skips ho]
  generalize (if s.coord.voted then s else tally s) = u at hp ⊢
  obtain ⟨gr, nf, gs, rfl⟩ : ∃ gr nf gs, u = { s with groups := gr, nfCnt := nf, gws := gs } := ⟨_, _, _, hp⟩
  obtain ⟨gr', gs', ol, hn⟩ := nextStep_latched { s with groups := gr, nfCnt := nf, gws := gs }
  exact ⟨gr', nf, gs', ol, congrArg stepSkipped hn⟩

/-- A stop that is none under way leaves an open step discarded (13 R457). -/
theorem endStop_discards (hw : s.stop.wanted = false) (h0 : s.stop.stage = 0) (hd : s.dump.state ≠ 1)
    (ho : stepOpen s = true) : endStop s = discardStep s := by
  obtain ⟨gr, nf, gs, ol, hdisc⟩ := discardStep_open ho
  have hs : (discardStep s).stop = s.stop := by rw [hdisc]; rfl
  have hdump : (discardStep s).dump = s.dump := by rw [hdisc]; rfl
  have h1 : ¬s.stop.stage = 1 := by omega
  rw [endStop, stopStep1_skipped hw, hs, if_neg h1, hdump, if_neg hd]

section
variable (h : Taken s .job false)
include h

theorem halt_loaded (hj : s.jobState = 2) : exec (.halt src) s = .next (complete s src stOK 0) := by
  rw [exec_halt, execHalt, command_taken h, if_neg (by omega)]

theorem halt_running (hj : s.jobState = 3) : exec (.halt src) s =
    .next (haltAll (endStop { s with run := { s.run with byHalt := true, halts := s.run.halts ++ [src] } })) := by
  rw [exec_halt, execHalt, command_taken h, if_pos hj]
  rfl

theorem halt_quiet (hj : s.jobState = 3) (hq : Quiet s) : ∃ t, exec (.halt src) s = .next t ∧ AllStopped t ∧ t.jobState = 3 ∧
    t.run = { s.run with byHalt := true, halts := s.run.halts ++ [src] } ∧ (∀ e ∈ t.engines, e.2.state = .idle) ∧
    (∀ e ∈ t.clus, e.2.gc.state = .halted) ∧ SameBytes s t ∧ t.steps = s.steps := by
  rw [halt_running h hj, endStop_quiet (s := { s with run := { s.run with byHalt := true, halts := s.run.halts ++ [src] } }) hq]
  refine ⟨_, rfl, haltAll_run _, hj, rfl, fun e he => ?_, fun e he => ?_, fun _ => rfl, rfl⟩
  · obtain ⟨x, -, rfl⟩ := List.mem_map.1 he
    rfl
  · obtain ⟨x, -, rfl⟩ := List.mem_map.1 he
    rfl

theorem halt_openStep (hj : s.jobState = 3) (hw : s.stop.wanted = false) (h0 : s.stop.stage = 0) (hd : s.dump.state ≠ 1)
    (ho : stepOpen s = true) : ∃ t, exec (.halt src) s = .next t ∧ AllStopped t ∧ t.steps = s.steps + 1 ∧
      t.coord.skips = s.coord.skips + 1 ∧ evNow s 0x0702 15 0 none ∈ t.evs := by
  rw [halt_running h hj]
  generalize hu : { s with run := { s.run with byHalt := true, halts := s.run.halts ++ [src] } } = u
  have hou : stepOpen u = true := by rw [← hu]; exact ho
  obtain ⟨gr, nf, gs, ol, hdisc⟩ := discardStep_open hou
  rw [endStop_discards (s := u) (by rw [← hu]; exact hw) (by rw [← hu]; exact h0) (by rw [← hu]; exact hd) hou, hdisc]
  refine ⟨_, rfl, haltAll_run _, ?_, ?_, ?_⟩
  · rw [← hu]
    rfl
  · rw [← hu]
    rfl
  · rw [← hu]
    exact List.mem_append_right _ (List.mem_singleton_self _)

end

end

/-! ### END_JOB (13 R463) -/

/-- A dump in its region, and the DUMP that it answers (13 R462). -/
def dumpAnswered (s : State) : State :=
  match s.dump.src with
  | some (src, a) =>
    if a = 0 then complete (dumped s) src stOK s.dump.seq
    else if hostFails (dumped s) a 0xB2000 then writeFault (dumped s) src a 0xB2000
    else complete (hostWrite (dumped s) a (memRead (dumped s).mem dumpBase 0xB2000)) src stOK s.dump.seq
  | none => dumped s

theorem finishDump_eq (s : State) : finishDump s =
    if s.dump.trigger ≠ 2 || s.dump.later ≠ 0 then
      haltAll (if (dumpAnswered s).stop.wanted then
        { dumpAnswered s with stop := { (dumpAnswered s).stop with stage := 3 } } else dumpAnswered s)
    else dumpAnswered s := rfl

/-- The completion of a RUN (13 R456). -/
def runAnswered (s : State) : State :=
  match s.run.src with
  | some c => complete (afterRun s) c (runStatus s) (runResult s)
  | none => afterRun s

theorem completeRun_eq (s : State) : completeRun s = (discardStep s).run.halts.foldl (fun s c => complete s c stOK 0)
    (runAnswered (discardStep s)) := rfl

/-- A state of the same job: its course, the keys, and the time. -/
structure SameJob (s t : State) : Prop where
  keys : t.keys = s.keys
  course : t.course = s.course
  timeNs : t.timeNs = s.timeNs

namespace SameJob

theorem refl (s : State) : SameJob s s := ⟨rfl, rfl, rfl⟩

theorem trans {s t u : State} (h : SameJob s t) (k : SameJob t u) : SameJob s u :=
  ⟨k.keys.trans h.keys, k.course.trans h.course, k.timeNs.trans h.timeNs⟩

theorem foldl {α : Type} {f : State → α → State} (h : ∀ s a, SameJob s (f s a)) (l : List α) (s : State) :
    SameJob s (l.foldl f s) := by
  induction l generalizing s with
  | nil => exact .refl s
  | cons a l ih => exact (h s a).trans (ih _)

theorem evNow {s t : State} (h : SameJob s t) (code die unit : Nat) (d : Option Nat) :
    Machine.evNow t code die unit d = Machine.evNow s code die unit d := by
  rw [Machine.evNow, Machine.evNow, h.timeNs, sealedJob, sealedJob, h.course]

theorem of_complete (s : State) (src : Src) (st r : Nat) : SameJob s (complete s src st r) := by
  rw [complete_parts]
  exact ⟨rfl, rfl, rfl⟩

theorem of_raise (s : State) (c d u : Nat) (x : Option Nat) : SameJob s (raise s c d u x) := ⟨rfl, rfl, rfl⟩

theorem of_sendAdd (s : State) (n : Nat) (c : Ctr) (v : W32) (d : Option (Nat × Nat)) : SameJob s (sendAdd s n c v d) := by
  unfold sendAdd
  split <;> exact ⟨rfl, rfl, rfl⟩

theorem of_votes (s : State) : SameJob s ((List.range 64).foldl voteGroup s) := by
  have h := onlyVotes_foldl (List.range 64) s
  generalize (List.range 64).foldl voteGroup s = v at h ⊢
  rw [h]
  exact ⟨rfl, rfl, rfl⟩

theorem of_tally (s : State) : SameJob s (tally s) := by
  unfold tally
  generalize List.range 64 = l
  exact ⟨rfl, rfl, rfl⟩

theorem of_castVote (s : State) (h : Nat) (b : Bool) : SameJob s (castVote s h b) := by
  have hv := (of_votes s).trans (of_tally _)
  unfold castVote
  dsimp only
  generalize tally _ = u at hv ⊢
  refine trans ?_ (of_sendAdd ..)
  exact hv.trans ⟨rfl, rfl, rfl⟩

theorem of_stopStep1 (s : State) : SameJob s (stopStep1 s) := by
  unfold stopStep1
  dsimp only
  have hb : SameJob s (raise { s with stop := { s.stop with active := true, stage := 1 } } 0x0C0A 15 0 none) := ⟨rfl, rfl, rfl⟩
  generalize raise _ _ _ _ _ = u at hb ⊢
  split
  · split
    · exact hb.trans (of_castVote ..)
    · exact hb
  · exact hb

theorem of_discardStep (s : State) : SameJob s (discardStep s) := by
  cases ho : stepOpen s with
  | false =>
    rw [discardStep_closed ho]
    exact .refl s
  | true =>
    obtain ⟨gr, nf, gs, ol, hd⟩ := discardStep_open ho
    rw [hd]
    exact ⟨rfl, rfl, rfl⟩

theorem of_startDump (s : State) (a b c : Nat) (x : Option (Src × Nat)) : SameJob s (startDump s a b c x) := by
  unfold startDump
  split <;> exact ⟨rfl, rfl, rfl⟩

theorem of_stopStep3 (s : State) : SameJob s (stopStep3 s) := by
  unfold stopStep3
  refine trans ?_ (of_startDump ..)
  exact ⟨rfl, rfl, rfl⟩

theorem of_dumpWrite (s : State) : SameJob s (dumpWrite s) := by
  unfold dumpWrite
  split <;> exact ⟨rfl, rfl, rfl⟩

theorem of_haltAll (s : State) : SameJob s (haltAll s) := ⟨rfl, rfl, rfl⟩

theorem of_writeFault (s : State) (src : Src) (a n : Nat) : SameJob s (writeFault s src a n) := by
  unfold writeFault dmaFault
  refine trans ?_ (of_complete ..)
  exact ⟨rfl, rfl, rfl⟩

theorem of_hostWrite (s : State) (a : Nat) (bs : List Byte) : SameJob s (hostWrite s a bs) := ⟨rfl, rfl, rfl⟩

theorem of_dumped (s : State) : SameJob s (dumped s) := by
  unfold dumped
  exact (of_dumpWrite s).trans ⟨rfl, rfl, rfl⟩

theorem of_dumpAnswered (s : State) : SameJob s (dumpAnswered s) := by
  have hd := of_dumped s
  unfold dumpAnswered
  generalize dumped s = u at hd ⊢
  generalize memRead u.mem dumpBase 0xB2000 = bs
  split
  · split_ifs
    · exact hd.trans (of_complete ..)
    · exact hd.trans (of_writeFault ..)
    · exact (hd.trans (of_hostWrite u _ bs)).trans (of_complete ..)
  · exact hd

theorem of_finishDump (s : State) : SameJob s (finishDump s) := by
  have hd := of_dumpAnswered s
  rw [finishDump_eq]
  generalize dumpAnswered s = u at hd ⊢
  split_ifs
  · exact hd.trans ⟨rfl, rfl, rfl⟩
  · exact hd.trans (of_haltAll u)
  · exact hd

theorem of_endStop (s : State) : SameJob s (endStop s) := by
  have h1 : SameJob s (if (s.stop.wanted && decide (s.stop.stage = 0)) = true then stopStep1 s else s) := by
    split
    · exact of_stopStep1 s
    · exact .refl s
  unfold endStop
  generalize (if (s.stop.wanted && decide (s.stop.stage = 0)) = true then stopStep1 s else s) = u at h1 ⊢
  dsimp only
  have h2 := h1.trans (of_discardStep u)
  generalize discardStep u = v at h2 ⊢
  have h3 : SameJob s (if v.stop.stage = 1 then stopStep3 v else v) := by
    split
    · exact h2.trans (of_stopStep3 v)
    · exact h2
  generalize (if v.stop.stage = 1 then stopStep3 v else v) = w at h3 ⊢
  split
  · exact h3.trans (of_finishDump w)
  · exact h3

theorem of_haltRun (s : State) : SameJob s (haltRun s) := by
  unfold haltRun
  refine trans (trans ?_ (of_endStop _)) (of_haltAll _)
  exact ⟨rfl, rfl, rfl⟩

theorem of_afterRun (s : State) : SameJob s (afterRun s) := by
  have h := runRested_parts s
  unfold runRested at h
  unfold afterRun
  dsimp only
  generalize wakeClocks (restBanks ((banksOf s 1).foldl zeroBank s)) = u at h ⊢
  rw [h]
  exact ⟨rfl, rfl, rfl⟩

theorem of_runAnswered (s : State) : SameJob s (runAnswered s) := by
  have h := of_afterRun s
  unfold runAnswered
  generalize afterRun s = u at h ⊢
  split
  · exact h.trans (of_complete ..)
  · exact h

theorem of_completeRun (s : State) : SameJob s (completeRun s) := by
  rw [completeRun_eq]
  exact ((of_discardStep s).trans (of_runAnswered _)).trans (foldl (fun s c => of_complete s c stOK 0) _ _)

theorem of_closeAll (s : State) : SameJob s (closeAll s) :=
  foldl (fun s _ => foldl (fun s c => of_complete s c stOK 0) _ s) _ _

theorem of_dropCopies (s : State) : SameJob s (dropCopies s) :=
  trans (t := { s with copies := [] }) ⟨rfl, rfl, rfl⟩
    (foldl (f := fun s (c : HeldCopy) => complete s c.src stFault 0) (fun s c => of_complete s c.src stFault 0) s.copies _)

theorem of_dropSnap (s : State) : SameJob s (dropSnap s) := by
  unfold dropSnap
  split
  · refine trans ?_ (of_complete ..)
    exact ⟨rfl, rfl, rfl⟩
  · exact .refl s

end SameJob

/-- Ranges that are zeroised hold 0, and every other byte is as it was. -/
theorem memGet_zeroRanges (l : List Nat) (s : State) {a : Nat} (ha : lpBase ≤ a) :
    memGet (l.foldl (fun s i => zeroise s (lpBase + 0x400000 * i) (lpBase + 0x400000 * (i + 1))) s).mem a =
      if l.contains ((a - lpBase) / 0x400000) then 0 else memGet s.mem a := by
  induction l generalizing s with
  | nil => rfl
  | cons i l ih =>
    have hz : memGet (zeroise s (lpBase + 0x400000 * i) (lpBase + 0x400000 * (i + 1))).mem a =
        if lpBase + 0x400000 * i ≤ a ∧ a < lpBase + 0x400000 * (i + 1) then 0 else memGet s.mem a := memGet_memZero ..
    have hi : (lpBase + 0x400000 * i ≤ a ∧ a < lpBase + 0x400000 * (i + 1)) ↔ (a - lpBase) / 0x400000 = i := by omega
    rw [List.foldl_cons, ih, hz, if_congr hi rfl rfl, List.contains_cons]
    by_cases h : (a - lpBase) / 0x400000 = i <;> simp [h]

/-- The memory of a job that ends, zeroised (13 R463; 17 R562). -/
def jobZeroised (s : State) : State :=
  (usedRanges s).foldl (fun s i => zeroise s (lpBase + 0x400000 * i) (lpBase + 0x400000 * (i + 1))) s

theorem onlyMemory_jobZeroised (s : State) : OnlyMemory s (jobZeroised s) := by
  unfold jobZeroised
  generalize usedRanges s = l
  generalize hu : s = u
  have h : ∀ v, OnlyMemory s v →
      OnlyMemory s (l.foldl (fun s i => zeroise s (lpBase + 0x400000 * i) (lpBase + 0x400000 * (i + 1))) v) := by
    induction l with
    | nil => exact fun v hv => hv
    | cons i l ih => exact fun v hv => ih _ (hv.trans rfl)
  rw [← hu]
  exact h s (.refl s)

theorem zeroJob_eq (s : State) : zeroJob s =
    raise { (draw (zeroise (zeroise (zeroise (jobZeroised s) 0 0x018000000000) lpBase 0x024004000000) storeSpan 0x0408C0000000)).1
      with zeroDraw := some (draw (zeroise (zeroise (zeroise (jobZeroised s) 0 0x018000000000) lpBase 0x024004000000)
        storeSpan 0x0408C0000000)).2 } 0x0A07 15 0 none := rfl

theorem zeroJob_parts (s : State) : ∃ c w, zeroJob s = { s with
    mem := (zeroJob s).mem
    cwErr := c
    writeBack := w
    freeCtr := s.freeCtr + 1
    zeroDraw := some s.freeCtr
    evs := s.evs ++ [evNow s 0x0A07 15 0 none]
    evTotal := s.evTotal + 1 } := by
  have h := onlyMemory_jobZeroised s
  rw [zeroJob_eq]
  generalize jobZeroised s = u at h ⊢
  obtain ⟨m, e, w, rfl⟩ : ∃ m e w, u = { s with mem := m, cwErr := e, writeBack := w } := ⟨_, _, _, h⟩
  exact ⟨_, _, rfl⟩

/-- Memory after a job's end. -/
theorem memGet_zeroJob (s : State) (a : Nat) : memGet (zeroJob s).mem a =
    if storeSpan ≤ a ∧ a < 0x0408C0000000 then 0 else if lpBase ≤ a ∧ a < 0x024004000000 then 0
    else if 0 ≤ a ∧ a < 0x018000000000 then 0 else memGet (jobZeroised s).mem a := by
  have h : (zeroJob s).mem = memZero (memZero (memZero (jobZeroised s).mem 0 0x018000000000) lpBase 0x024004000000) storeSpan
      0x0408C0000000 := rfl
  rw [h, memGet_memZero, memGet_memZero, memGet_memZero]

/-- What a job that is cleared leaves (13 R463; 04 R171; log 29). -/
theorem clearJob_spec (s : State) : (clearJob s).jobState = 0 ∧ (clearJob s).course = none ∧ (clearJob s).wins = [] ∧
    (clearJob s).keys = { loads := s.keys.loads } ∧ (clearJob s).snap = none ∧ (clearJob s).coreCtr = [] ∧
    (clearJob s).cluCtr = [] ∧ (clearJob s).dieCtr = [] ∧ (clearJob s).modCtr = [] ∧
    (∀ n, n < 768 → (stn (clearJob s) n).lfsr = 0) ∧ evNow s 0x0A07 15 0 none ∈ (clearJob s).evs ∧
    (clearJob s).mem = (zeroJob s).mem := by
  obtain ⟨c, w, hz⟩ := zeroJob_parts s
  have hkeys : (zeroJob s).keys = s.keys := by rw [hz]
  have hev : evNow s 0x0A07 15 0 none ∈ (zeroJob s).evs := by
    rw [hz]
    exact List.mem_append_right _ (List.mem_singleton_self _)
  unfold clearJob
  generalize zeroJob s = u at hkeys hev ⊢
  have hstn (n : Nat) (hn : n < 768) : Table.get ({} : Station) ((List.range 768).map (fun n => (n, { lfsr := 0 }))) n = { lfsr := 0 } :=
    get_map_range ({} : Station) (fun _ => { lfsr := 0 }) hn
  obtain ⟨cl, hc⟩ := wakeClocks_parts u
  unfold jobless
  rw [hc]
  dsimp only [stn]
  generalize (List.range 768).map (fun n => (n, ({ lfsr := 0 } : Station))) = l at hstn ⊢
  exact ⟨rfl, rfl, rfl, by rw [← hkeys], rfl, rfl, rfl, rfl, rfl, fun n hn => congrArg Station.lfsr (hstn n hn), hev, rfl⟩

/-- The commands and units of a job that ends (13 R463; log 28, 30). -/
def jobEnded (s : State) : State :=
  dropSnap (dropCopies (closeAll (if s.jobState = 3 then completeRun (haltRun s) else endStop s)))

theorem endJob_ends {s : State} {src : Src} (h : Taken s .job false) :
    exec (.endJob src) s = .next (complete (clearJob (jobEnded s)) src stOK (jobNo s)) := by
  rw [exec_endJob, execEndJob, command_taken h]
  rfl

theorem sameJob_jobEnded (s : State) : SameJob s (jobEnded s) := by
  have h : SameJob s (if s.jobState = 3 then completeRun (haltRun s) else endStop s) := by
    split
    · exact (SameJob.of_haltRun s).trans (SameJob.of_completeRun _)
    · exact SameJob.of_endStop s
  unfold jobEnded
  generalize (if s.jobState = 3 then completeRun (haltRun s) else endStop s) = u at h ⊢
  exact ((h.trans (.of_closeAll u)).trans (.of_dropCopies _)).trans (.of_dropSnap _)

theorem closeAll_none {s : State} (h : ∀ e ∈ s.wins, e.2.closers = []) : closeAll s = s := by
  unfold closeAll
  generalize s.wins = l at h
  induction l with
  | nil => rfl
  | cons e l ih =>
    rw [List.foldl_cons, h e List.mem_cons_self, List.foldl_nil]
    exact ih fun x hx => h x (List.mem_cons_of_mem _ hx)

theorem dropCopies_keeps (s : State) : (dropCopies s).mem = s.mem ∧ (dropCopies s).reached = s.reached ∧
    (dropCopies s).course = s.course ∧ (dropCopies s).snap = s.snap := by
  have h : ∀ (l : List HeldCopy) (u : State), u.mem = s.mem ∧ u.reached = s.reached ∧ u.course = s.course ∧ u.snap = s.snap →
      (l.foldl (fun s c => complete s c.src stFault 0) u).mem = s.mem ∧
      (l.foldl (fun s c => complete s c.src stFault 0) u).reached = s.reached ∧
      (l.foldl (fun s c => complete s c.src stFault 0) u).course = s.course ∧
      (l.foldl (fun s c => complete s c.src stFault 0) u).snap = s.snap := by
    intro l
    induction l with
    | nil => exact fun u hu => hu
    | cons c l ih =>
      intro u hu
      refine ih (complete u c.src stFault 0) ?_
      rw [complete_parts]
      exact hu
  exact h s.copies { s with copies := [] } ⟨rfl, rfl, rfl, rfl⟩

/-- A LOADED job that nothing disturbs ends with its memory as it was, until it is zeroised. -/
theorem jobEnded_quiet {s : State} (hj : s.jobState = 2) (hq : Quiet s) (hw : ∀ e ∈ s.wins, e.2.closers = [])
    (hs : s.snap = none) : (jobEnded s).mem = s.mem ∧ usedRanges (jobEnded s) = usedRanges s := by
  obtain ⟨hmem, hreached, hcourse, hsnap⟩ := dropCopies_keeps s
  have hdrop : dropSnap (dropCopies s) = dropCopies s := by rw [dropSnap, hsnap.trans hs]
  rw [jobEnded, if_neg (by omega), endStop_quiet hq, closeAll_none hw, hdrop]
  exact ⟨hmem, by rw [usedRanges, hreached, hcourse]; rfl⟩

/-- The end of a job (13 R463). -/
theorem endJob_spec {s : State} {src : Src} (h : Taken s .job false) :
    ∃ u, exec (.endJob src) s = .next (complete u src stOK (jobNo s)) ∧
    u.jobState = 0 ∧ u.course = none ∧ u.wins = [] ∧ u.keys = { loads := s.keys.loads } ∧ u.snap = none ∧
    u.coreCtr = [] ∧ u.cluCtr = [] ∧ u.dieCtr = [] ∧ u.modCtr = [] ∧ (∀ n, n < 768 → (stn u n).lfsr = 0) ∧
    evNow s 0x0A07 15 0 none ∈ u.evs ∧
    (∀ a, a < 0x018000000000 ∨ (lpBase ≤ a ∧ a < 0x024004000000) ∨ (storeSpan ≤ a ∧ a < 0x0408C0000000) →
      memGet u.mem a = 0) ∧
    (s.jobState = 2 → Quiet s → (∀ e ∈ s.wins, e.2.closers = []) → s.snap = none →
      ∀ a, 0x024004000000 ≤ a → a < 0x03C700000000 →
        memGet u.mem a = if (usedRanges s).contains ((a - lpBase) / 0x400000) then 0 else memGet s.mem a) := by
  have hsame := sameJob_jobEnded s
  obtain ⟨hjob, hcourse, hwins, hkeys, hsnap, hcore, hclu, hdie, hmod, hlfsr, hev, hmem⟩ := clearJob_spec (jobEnded s)
  rw [hsame.keys] at hkeys
  rw [hsame.evNow] at hev
  refine ⟨_, endJob_ends h, hjob, hcourse, hwins, hkeys, hsnap, hcore, hclu, hdie, hmod, hlfsr, hev, fun a ha => ?_,
    fun hj hq hw hs a hlo hhi => ?_⟩
  · rw [hmem, memGet_zeroJob]
    split_ifs
    · rfl
    · rfl
    · rfl
    · omega
  · obtain ⟨hm, hr⟩ := jobEnded_quiet hj hq hw hs
    rw [hmem, memGet_zeroJob, if_neg (by unfold storeSpan; omega), if_neg (by omega), if_neg (by omega), jobZeroised,
      memGet_zeroRanges _ _ (by unfold lpBase; omega), hr, hm]

/-- Settles O50: an image's bytes, the checks of LOAD_COURSE, and what loads, starts, completes, halts and ends. -/
theorem jobsAndRuns : Obligations.JobsAndRuns := by
  refine ⟨fun h h1 h2 h3 h4 h5 h6 h7 h8 h9 h10 h11 h12 => headerOf_headBytes h1 h2 h3 h4 h5 h6 h7 h8 h9 h10 h11 h12,
    fun n x rest h1 hd ht hl h8 => sectionsOf_section n rest h1 hd ht hl h8,
    fun s src a len img key h he hkey => ⟨loadCourse_dmaFault h, loadCourse_header h, fun hh => ?load⟩,
    fun s src h => ⟨run_noKeys h, run_stopped h, fun hk hf hp => ⟨_, run_begins h hk hf hp, rfl, bankState_banksTo _ 3⟩⟩,
    fun s c hc hj hr => runStart_spec hc hj hr,
    fun s c hj hr hc hh hq hstn hg he hs => ⟨runStatus_eq s, (bits_runResult s).1, (bits_runResult s).2, afterRun s, ?complete,
      afterRun_spec s⟩,
    fun s n hn hp hr => runComplete_stays hn hp hr,
    fun s src h => ⟨halt_loaded h, halt_quiet h, halt_openStep h⟩, fun s src h => endJob_spec h⟩
  case load =>
    subst hkey
    exact ⟨loadCourse_unsigned h he hh, fun hk hs => ⟨loadCourse_old h he hh hk hs, fun hv =>
      ⟨loadCourse_content h he hh hk hs hv, loadCourse_readOnly h he hh hk hs,
        fun hc hst => ⟨_, loadCourse_loads h he hh hk hs hv hc hst, loadedCourse_spec hv rfl⟩⟩⟩⟩
  case complete =>
    obtain ⟨-, -, ho, -⟩ := id hq
    rw [runComplete_ends hj hr hq hstn hg he hs, completeRun_alone ho hc hh]

end Sys2Proof.Machine
end
